-- ==== Sys2Proof/Word.lean ====
section
/-! DEFINITION. The word type of the module (R5, R10) and the plainest names over it. -/

namespace Sys2Proof

/-- A 72-bit word (R10); bit 71 is the most significant (R5). -/
abbrev Word := BitVec 72

/-- A virtual or physical word address (R31, R32). -/
abbrev WAddr := BitVec 52

/-- A digit address: a word address times 32 plus a position (R19). -/
abbrev DAddr := BitVec 57

/-- A pair ID (R2): x in bits 11:8, y in bits 7:4, z in bits 3:0. -/
abbrev PairId := BitVec 12

/-- Core index n = 4 x quad + core (R51). -/
abbrev CoreId := Fin 48

/-- Channel engine index e = 2 x quad + k (R386). -/
abbrev EngId := Fin 24

/-- Quad index. -/
abbrev QuadId := Fin 12

/-- Event source number (R305). -/
abbrev SrcId := Fin 1024

/-- Queue pair number (R427). -/
abbrev QpId := Fin 1024

/-- A pass register name P0-P15 (R42). -/
abbrev PassId := BitVec 4

/-- The model's name of a job in progress: the count of the job since reset. -/
abbrev JobId := Nat

end Sys2Proof
end

