-- ==== Sys2Proof/Config.lean ====
section
/-! DEFINITION. What an implementation fixes, and the values that the manual leaves open. Every constant is opaque:
no proof can see its value. -/

namespace Sys2Proof.Config

/-- The free values, drawn in order: the k-th value that the manual leaves open in a run (log 3). -/
opaque freeWord : Nat → BitVec 72

/-- The entry that leaves a full cache or translation store when another enters: which one the manual leaves open, so that it is a free function
of what enters and of how often the store has been full of such (log 11). -/
opaque victim : Nat → Nat → Nat

/-- The words of a core's microcode ROM (R368), which the manual does not give (log 47). -/
opaque romWord : Nat → BitVec 128

/-- ID_SERIAL, fused in each module (R421). -/
opaque serial : BitVec 64

/-- Whether the module is of the extended grade, PX7248-B0-E (R9, R421). -/
opaque extended : Bool

end Sys2Proof.Config
end

