-- ==== Sys2Proof/Syntax.lean ====
section
/-! DEFINITION. The commands of the module: one constructor of `Instr` for each row of the table of
operations and events, with the row's operands, and the plain data those operands are made of. -/

namespace Sys2Proof

/-- Format A of R55: register. -/
structure FmtA where
  rd : BitVec 5
  ra : BitVec 5
  rb : BitVec 5
  fn : BitVec 13
  deriving DecidableEq, Repr

/-- Format I of R55: immediate. -/
structure FmtI where
  rd : BitVec 5
  ra : BitVec 5
  imm : BitVec 18
  deriving DecidableEq, Repr

/-- Format M of R55: memory; disp is signed and counted in positions. -/
structure FmtM where
  rt : BitVec 5
  rb : BitVec 5
  pr : BitVec 4
  disp : BitVec 14
  deriving DecidableEq, Repr

/-- Format B of R55: branch; disp is signed and counted in slots of 9 positions. -/
structure FmtB where
  cond : BitVec 4
  disp : BitVec 24
  deriving DecidableEq, Repr

/-- Format S of R56; `res` is the reserved bit 48. -/
structure FmtS where
  l1 : BitVec 6
  l2 : BitVec 6
  rnd : BitVec 3
  res : BitVec 1
  b1 : BitVec 5
  p1 : BitVec 4
  d1 : BitVec 15
  b2 : BitVec 5
  p2 : BitVec 4
  d2 : BitVec 15
  deriving DecidableEq, Repr

/-- The kinds of access that translation tells apart (R276). -/
inductive Access where
  | load | store | fetch | loadStore
  deriving DecidableEq, Repr

/-- An agent that translates (R279). -/
inductive Agent where
  | core (n : CoreId)
  | engine (e : EngId)
  deriving DecidableEq, Repr

/-- The causes of a micro-trap and what each service works on (R379). -/
inductive MicroCause where
  /-- 1 WALK: look up the quad TLB or walk for a virtual word. -/
  | walk (va : WAddr) (acc : Access)
  /-- 2 FILL: refill the L1 line that holds a physical word. -/
  | fill (line : WAddr)
  /-- 3 CORR: write a corrected memory word back. -/
  | corr (pa : WAddr)
  /-- 4 EVT: accept the offer of a source. -/
  | evt
  deriving DecidableEq, Repr

/-- The timers of R309. -/
inductive TimerId where
  | core (n : CoreId)
  | module (j : Fin 16)
  deriving DecidableEq, Repr

/-- Who writes a register, and where (R418, R419, R423). A core names a device-control word offset.
The host names a slot by its octet offset and says whether one request covers octets 0-7, and octet 8. -/
inductive Writer where
  | core (n : CoreId) (off : BitVec 20)
  | pf (off : BitVec 18) (c07 c8 : Bool)
  | vf (k : Fin 32) (off : BitVec 14) (c07 c8 : Bool)
  deriving DecidableEq, Repr

/-- A twin frame as it arrives (R207). A command names the kind that it serves; a frame whose KIND is a reserved one may come
with any of them (R208). -/
structure Frame where
  kind : BitVec 4
  fseq : BitVec 8
  fack : BitVec 8
  rtry : Bool
  crc : BitVec 32
  pos : BitVec 16
  w0 : Word
  w1 : Word
  w2 : Word
  w3 : Word
  w4 : Word
  w5 : Word
  deriving DecidableEq, Repr

/-- The words of a RECONCILE job (R235). -/
structure ReconcileWords where
  term : BitVec 48
  keep : Bool
  pfx : BitVec 48
  /-- The term of the module that received it. -/
  ownTerm : BitVec 48
  deriving DecidableEq, Repr

/-- What the twin's stage logic reports for a pair-scope APPLY (R488). -/
structure TwinStage where
  checked : Bool
  gen : BitVec 48
  sdigest : Word
  deriving DecidableEq, Repr

/-- A unit that has a control block (R489). -/
inductive UnitId where
  | module
  | quad (q : QuadId)
  | core (n : CoreId)
  deriving DecidableEq, Repr

/-- A word that the doorbell watcher watches (R432). -/
inductive Watched where
  | sq (q : QpId)
  | cq (q : QpId)
  | ack (e : EngId)
  deriving DecidableEq, Repr

/-- Whose PCIe request was answered with an error, or not answered (R426). -/
inductive Requester where
  /-- A core's load, by its memory format fields. -/
  | coreLoad (n : CoreId) (f : FmtM)
  /-- A core's store to the host window, by its physical word address. -/
  | coreStore (n : CoreId) (pa : WAddr)
  /-- A load of a channel engine. -/
  | engineLoad (e : EngId) (pa : WAddr)
  /-- A store of a channel engine. -/
  | engineStore (e : EngId) (pa : WAddr)
  /-- A ring or doorbell read, or a completion write. -/
  | ring (q : QpId)
  /-- A host read or write of a job's data. -/
  | jobData (j : JobId)
  deriving DecidableEq, Repr

/-- What the receiver of a fabric codeword finds (R444, R445). -/
structure Codeword where
  corrected : Bool
  fecOk : Bool
  lcrcOk : Bool
  cseq : BitVec 12
  cack : BitVec 12
  nak : Bool
  cred : BitVec 28
  deriving DecidableEq, Repr

/-- What the far end of a fabric link reports during training (R447). -/
structure FarEnd where
  pair : PairId
  side : Bool
  link : Fin 8
  /-- The link delay measured as half the round trip at training, in ns (R464). -/
  delay : BitVec 16
  deriving DecidableEq, Repr

/-- A fabric packet (R454, R455), with the words it carries and its end-to-end CRC. -/
structure Packet where
  type : BitVec 4
  vc : BitVec 2
  dl : Bool
  px : Bool
  dpair : PairId
  dside : Bool
  spair : PairId
  sside : Bool
  sagent : BitVec 7
  eseq : BitVec 16
  ttl : BitVec 5
  hw1 : Word
  payload : List Word
  ecrc : BitVec 32
  deriving DecidableEq, Repr

/-- A transaction on the management port (R508). -/
inductive MgmtOp where
  | read (off : BitVec 24)
  | write (off : BitVec 24) (v : Word)
  deriving DecidableEq, Repr

/-- What the parts outside the logic do during a start (R467, R468): how many attempts of each step fail,
which units fail the fencing steps, what trains, and what the steps measure. -/
structure StartEnv where
  /-- (step, how many of its attempts in this start fail for a physical reason). -/
  fails : List (Nat × Nat)
  /-- (step S05-S07, cores that fail it). -/
  badCores : List (Nat × BitVec 48)
  /-- Quads whose L2 or quad TLB fails S07. -/
  badQuads : BitVec 12
  /-- Engines that fail S19. -/
  badEngines : BitVec 24
  /-- Which twin links train in S12. -/
  twinUp : BitVec 2
  /-- HI_LINK after S13 (R422). -/
  hiLink : BitVec 16
  /-- What the far end of each fabric link reports in S14, where it answers. -/
  far : List (Fin 8 × FarEnd)
  /-- Whether fabric time is accepted in S18. -/
  timeOk : Bool
  /-- The measured value that each STEP entry records in E3 (R471). -/
  measured : List (Nat × Word)
  /-- The DETAIL of a failing STEP entry of S08 or S09 (R471). -/
  detail : List (Nat × BitVec 24)
  deriving DecidableEq, Repr

/-- The commands: one constructor for each row of the table of operations and events. -/
inductive Instr where
  /-- ILL (R75). Opcode 0x00 or 0xFF always raises the illegal-instruction fault, so an all-zeros or all-ones word never executes. -/
  | ill (n : CoreId) (f : FmtA)
  /-- NOP (R67). Does nothing; every field must be zero. -/
  | nop (n : CoreId) (f : FmtA)
  /-- ADD (R67). G[rd] := G[ra] + G[rb], with flags set as R65 gives. -/
  | add (n : CoreId) (f : FmtA)
  /-- SUB (R67). G[rd] := G[ra] - G[rb], with C = 1 meaning no borrow. -/
  | sub (n : CoreId) (f : FmtA)
  /-- ADC (R67). G[rd] := G[ra] + G[rb] + C. -/
  | adc (n : CoreId) (f : FmtA)
  /-- SBC (R67). G[rd] := G[ra] + NOT G[rb] + C. -/
  | sbc (n : CoreId) (f : FmtA)
  /-- NEG (R67). G[rd] := 0 - G[ra]. -/
  | neg (n : CoreId) (f : FmtA)
  /-- CMP (R67). Sets the flags from G[ra] - G[rb] and writes no register. -/
  | cmp (n : CoreId) (f : FmtA)
  /-- MUL (R353). G[rd] := the low 72 bits of the product; V = 1 when the signed product overflows. -/
  | mul (n : CoreId) (f : FmtA)
  /-- MULH (R353). G[rd] := the high 72 bits of the signed 144-bit product. -/
  | mulh (n : CoreId) (f : FmtA)
  /-- MULHU (R353). G[rd] := the high 72 bits of the unsigned 144-bit product. -/
  | mulhu (n : CoreId) (f : FmtA)
  /-- DIV (R354). Signed division truncated toward zero into the pair G[rd]:G[rd+1]; a zero divisor raises F19. -/
  | div (n : CoreId) (f : FmtA)
  /-- DIVU (R353). Unsigned division into quotient and remainder; a zero divisor raises F19. -/
  | divu (n : CoreId) (f : FmtA)
  /-- ADVANCE (R23). Advances a digit address by a signed register count of positions, carrying at 18. -/
  | advance (n : CoreId) (f : FmtA)
  /-- AND (R67). Bitwise AND of two registers. -/
  | and (n : CoreId) (f : FmtA)
  /-- OR (R67). Bitwise OR of two registers. -/
  | or (n : CoreId) (f : FmtA)
  /-- XOR (R67). Bitwise XOR of two registers. -/
  | xor (n : CoreId) (f : FmtA)
  /-- ANDN (R67). G[rd] := G[ra] AND NOT G[rb]. -/
  | andn (n : CoreId) (f : FmtA)
  /-- ORN (R67). G[rd] := G[ra] OR NOT G[rb]. -/
  | orn (n : CoreId) (f : FmtA)
  /-- SHL (R68). Shifts left by a register count, filling with zeros. -/
  | shl (n : CoreId) (f : FmtA)
  /-- SHR (R68). Logical right shift by a register count. -/
  | shr (n : CoreId) (f : FmtA)
  /-- SHA (R68). Arithmetic right shift by a register count. -/
  | sha (n : CoreId) (f : FmtA)
  /-- ROT (R68). Rotates left by the count modulo 72. -/
  | rot (n : CoreId) (f : FmtA)
  /-- CLZ (R67). Counts the leading zero bits of G[ra]. -/
  | clz (n : CoreId) (f : FmtA)
  /-- POPC (R67). Counts the one bits of G[ra]. -/
  | popc (n : CoreId) (f : FmtA)
  /-- ADDI (R67). Adds a sign-extended immediate. -/
  | addi (n : CoreId) (f : FmtI)
  /-- CMPI (R67). Compares with a sign-extended immediate. -/
  | cmpi (n : CoreId) (f : FmtI)
  /-- ANDI (R67). ANDs a zero-extended immediate. -/
  | andi (n : CoreId) (f : FmtI)
  /-- ORI (R67). ORs a zero-extended immediate. -/
  | ori (n : CoreId) (f : FmtI)
  /-- XORI (R67). XORs a zero-extended immediate. -/
  | xori (n : CoreId) (f : FmtI)
  /-- SHLI (R67). Shifts left by an immediate count. -/
  | shli (n : CoreId) (f : FmtI)
  /-- SHRI (R67). Logical right shift by an immediate count. -/
  | shri (n : CoreId) (f : FmtI)
  /-- SHAI (R67). Arithmetic right shift by an immediate count. -/
  | shai (n : CoreId) (f : FmtI)
  /-- ROTI (R67). Rotates left by an immediate count. -/
  | roti (n : CoreId) (f : FmtI)
  /-- LDI (R67). Loads a sign-extended immediate into G[rd]. -/
  | ldi (n : CoreId) (f : FmtI)
  /-- INSI (R67). Inserts an 18-bit immediate into one quarter of G[rd]. -/
  | insi (n : CoreId) (f : FmtI)
  /-- ADVANCE_I (R23). Advances a digit address by a signed immediate count of positions. -/
  | advanceI (n : CoreId) (f : FmtI)
  /-- LDW (R63). Loads 18 positions at EA, from one word or split across two. -/
  | ldw (n : CoreId) (f : FmtM)
  /-- LDO (R67). Loads one octet at an even position, zero-extended. -/
  | ldo (n : CoreId) (f : FmtM)
  /-- LDN (R67). Loads one position, zero-extended. -/
  | ldn (n : CoreId) (f : FmtM)
  /-- LDF (R67). Loads bits 31:0 of the 18 positions at EA into an F register. -/
  | ldf (n : CoreId) (f : FmtM)
  /-- STW (R63). Stores all of G[rt] as 18 positions at EA. -/
  | stw (n : CoreId) (f : FmtM)
  /-- STO (R67). Stores bits 7:0 of G[rt] as one octet. -/
  | sto (n : CoreId) (f : FmtM)
  /-- STN (R67). Stores bits 3:0 of G[rt] as one position. -/
  | stn (n : CoreId) (f : FmtM)
  /-- STF (R67). Stores an F register as bits 31:0 of a word with bits 71:32 zero. -/
  | stf (n : CoreId) (f : FmtM)
  /-- LEA (R67). Writes the formed effective address to G[rt] without an access. -/
  | lea (n : CoreId) (f : FmtM)
  /-- CASW (R67). Atomic compare-and-swap of a word in the local Plain or Basin. -/
  | casw (n : CoreId) (f : FmtM)
  /-- SWPW (R67). Atomic swap of a word. -/
  | swpw (n : CoreId) (f : FmtM)
  /-- FADW (R67). Atomic fetch-and-add of a word modulo 2^72. -/
  | fadw (n : CoreId) (f : FmtM)
  /-- LDPS (R240). Loads an aligned pair into a pass register, valid only when both tags are set. -/
  | ldps (n : CoreId) (f : FmtM)
  /-- STPS (R241). Stores a pass register as a pass store, setting or clearing both tags. -/
  | stps (n : CoreId) (f : FmtM)
  /-- PMOV (R246). Copies a pass register with its valid bit. -/
  | pmov (n : CoreId) (f : FmtA)
  /-- PNAR (R247). Narrows a pass to a new base and length without widening it. -/
  | pnar (n : CoreId) (f : FmtA)
  /-- PPRM (R246). Masks a pass's permissions and its GLOBAL and LOCAL bits. -/
  | pprm (n : CoreId) (f : FmtA)
  /-- PKEY (R247). Sets the storage key of a pass whose key is 0 or the same. -/
  | pkey (n : CoreId) (f : FmtA)
  /-- SEAL (R250). Seals a pass under a type taken from an authority pass. -/
  | seal (n : CoreId) (f : FmtA)
  /-- UNSEAL (R251). Unseals a pass whose type lies within the authority's range. -/
  | unseal (n : CoreId) (f : FmtA)
  /-- PTST (R248). Sets the flags from the validity, sealing and containment of two passes. -/
  | ptst (n : CoreId) (f : FmtA)
  /-- PGET (R249). Writes a plain integer view of a pass to a general register. -/
  | pget (n : CoreId) (f : FmtA)
  /-- B (R60). Branches to PC + 9 x disp positions when the condition holds. -/
  | b (n : CoreId) (f : FmtB)
  /-- CALL (R67). Writes the return address to G31, pushes it on the shadow stack and branches. -/
  | call (n : CoreId) (f : FmtB)
  /-- BR (R60). Branches to the digit address held in G[ra]. -/
  | br (n : CoreId) (f : FmtA)
  /-- CALLR (R67). Register call: links to G[rd], pushes the shadow stack and branches to G[ra]. -/
  | callr (n : CoreId) (f : FmtA)
  /-- RET (R258). Returns when G[ra] matches the call entry on top of the shadow stack, else raises the control-flow fault. -/
  | ret (n : CoreId) (f : FmtA)
  /-- ENTER (R252). Protected call into a sealed domain: pushes a domain frame and installs the unsealed P15 and P13. -/
  | enter (n : CoreId) (f : FmtA)
  /-- LEAVE (R253). Pops a domain frame and restores the caller's P15, P13 and PC. -/
  | leave (n : CoreId) (f : FmtA)
  /-- TRAP (R318). Enters level ST.LVL + 1 through its EVEC with the code in DETAIL. -/
  | trap (n : CoreId) (f : FmtI)
  /-- FREL (R317). Returns through the innermost entry frame and clears its ACTIVE bit. -/
  | frel (n : CoreId) (f : FmtA)
  /-- SYNC_I (R72). Discards fetched instructions so that later fetches see earlier stores. -/
  | syncI (n : CoreId) (f : FmtA)
  /-- SYNC_C (R73). Performs SYNC.M and SYNC.I, puts every core control word in force and installs PIPE_CTL.DETREQ as ST.DET. -/
  | syncC (n : CoreId) (f : FmtA)
  /-- SYNC_M (R71). Waits until earlier loads and stores are complete, then raises F25 if a late store error is pending. -/
  | syncM (n : CoreId) (f : FmtA)
  /-- FBAR (R366). Waits for earlier float instructions and takes any pending float trap. -/
  | fbar (n : CoreId) (f : FmtA)
  /-- RDST (R49). Copies ST to G[rd]. -/
  | rdst (n : CoreId) (f : FmtA)
  /-- WRST (R49). Writes the N, Z, V, C, DRM and FTE fields of ST from G[ra]. -/
  | wrst (n : CoreId) (f : FmtA)
  /-- DADD (R92). Adds two single-register packed-decimal numbers. -/
  | dadd (n : CoreId) (f : FmtA)
  /-- DSUB (R92). Subtracts two single-register packed-decimal numbers. -/
  | dsub (n : CoreId) (f : FmtA)
  /-- DMUL (R93). Writes the exact packed-decimal product to a register pair. -/
  | dmul (n : CoreId) (f : FmtA)
  /-- DDIV (R94). Decimal division giving quotient and remainder, or a rounded quotient. -/
  | ddiv (n : CoreId) (f : FmtA)
  /-- DSHR (R95). Shifts a decimal value by a signed count, with rounding. -/
  | dshr (n : CoreId) (f : FmtA)
  /-- DCMP (R96). Compares two decimal registers and sets the flags. -/
  | dcmp (n : CoreId) (f : FmtA)
  /-- CVBD (R97). Converts a binary integer to packed decimal. -/
  | cvbd (n : CoreId) (f : FmtA)
  /-- CVDB (R97). Converts packed decimal to a binary integer. -/
  | cvdb (n : CoreId) (f : FmtA)
  /-- DADD_M (R98). Storage-to-storage decimal add with scale count k and rounding. -/
  | daddM (n : CoreId) (f : FmtS)
  /-- DSUB_M (R98). Storage-to-storage decimal subtract. -/
  | dsubM (n : CoreId) (f : FmtS)
  /-- DMUL_M (R98). Storage-to-storage decimal multiply with rounding to operand 1's scale. -/
  | dmulM (n : CoreId) (f : FmtS)
  /-- DDIV_M (R99). Storage-to-storage rounded decimal division. -/
  | ddivM (n : CoreId) (f : FmtS)
  /-- DSHR_M (R98). Decimal move or rescale of operand 2 into operand 1. -/
  | dshrM (n : CoreId) (f : FmtS)
  /-- DCMP_M (R98). Compares two decimal storage fields and sets the flags. -/
  | dcmpM (n : CoreId) (f : FmtS)
  /-- PACK (R100). Converts a zoned field to packed decimal. -/
  | pack (n : CoreId) (f : FmtS)
  /-- UNPK (R101). Converts packed decimal to a zoned field. -/
  | unpk (n : CoreId) (f : FmtS)
  /-- CVTX (R102). Converts between octet text and packed decimal at scale s. -/
  | cvtx (n : CoreId) (f : FmtS)
  /-- EDIT (R130). Runs the next unit of editing packed source fields into the pattern octets. -/
  | edit (n : CoreId) (f : FmtS)
  /-- EDMK (R132). Runs the next unit of EDIT and records in G3 where significance began. -/
  | edmk (n : CoreId) (f : FmtS)
  /-- MVS (R121). Runs the next unit of a position move with padding. -/
  | mvs (n : CoreId) (f : FmtS)
  /-- CLS (R123). Runs the next unit of a nibble-string comparison with pad. -/
  | cls (n : CoreId) (f : FmtS)
  /-- TRX (R124). Runs the next unit of translating octets through a 256-octet table. -/
  | trx (n : CoreId) (f : FmtS)
  /-- TSC (R125). Runs the next unit of scanning octets for a nonzero table entry. -/
  | tsc (n : CoreId) (f : FmtS)
  /-- SCD (R126). Runs the next unit of scanning forward or backward for a matching octet. -/
  | scd (n : CoreId) (f : FmtS)
  /-- VDG (R127). Runs the next unit of validating a field against a format. -/
  | vdg (n : CoreId) (f : FmtS)
  /-- POST (R147). Checks a posting vector and passes it to the posting sequencer. -/
  | post (n : CoreId) (f : FmtM)
  /-- COMMIT (R191). Checks a commit block and passes it to the sequencer as a journal record. -/
  | commit (n : CoreId) (f : FmtM)
  /-- SAVE_L (R295). Takes a save area from the chain and saves the lower half of the registers. -/
  | saveL (n : CoreId) (f : FmtA)
  /-- SAVE_U (R295). Takes a save area and saves the upper half with SSPASS and SSP. -/
  | saveU (n : CoreId) (f : FmtA)
  /-- REST_L (R296). Restores the lower half from an area and returns the area to the chain. -/
  | restL (n : CoreId) (f : FmtA)
  /-- REST_U (R296). Restores the upper half, SSPASS and SSP from an area and frees it. -/
  | restU (n : CoreId) (f : FmtA)
  /-- INVPG (R285). Invalidates the translations covering one address in a space and waits for every agent of the module. -/
  | invpg (n : CoreId) (f : FmtA)
  /-- INVSP (R285). Invalidates every non-global translation of a space. -/
  | invsp (n : CoreId) (f : FmtA)
  /-- INVALL (R285). Invalidates every translation in the module. -/
  | invall (n : CoreId) (f : FmtA)
  /-- FADD (R359). Binary32 addition rounded by RM. -/
  | fadd (n : CoreId) (f : FmtA)
  /-- FSUB (R359). Binary32 subtraction. -/
  | fsub (n : CoreId) (f : FmtA)
  /-- FMUL (R359). Binary32 multiplication. -/
  | fmul (n : CoreId) (f : FmtA)
  /-- FDIV (R359). Binary32 division. -/
  | fdiv (n : CoreId) (f : FmtA)
  /-- FSQRT (R359). Binary32 square root. -/
  | fsqrt (n : CoreId) (f : FmtA)
  /-- FMA (R359). Fused multiply-add with a single rounding. -/
  | fma (n : CoreId) (f : FmtA)
  /-- FCMP (R360). Compares two floats and sets the ST flags. -/
  | fcmp (n : CoreId) (f : FmtA)
  /-- FMIN (R361). Minimum of two floats, with -0 below +0. -/
  | fmin (n : CoreId) (f : FmtA)
  /-- FMAX (R361). Maximum of two floats. -/
  | fmax (n : CoreId) (f : FmtA)
  /-- FABS (R359). Clears the sign bit. -/
  | fabs (n : CoreId) (f : FmtA)
  /-- FNEG (R359). Inverts the sign bit. -/
  | fneg (n : CoreId) (f : FmtA)
  /-- FTOI (R362). Converts a float to a saturated integer. -/
  | ftoi (n : CoreId) (f : FmtA)
  /-- ITOF (R362). Converts an integer to a float rounded by RM. -/
  | itof (n : CoreId) (f : FmtA)
  /-- FTOD (R363). Converts a float to a rounded packed-decimal word at scale s. -/
  | ftod (n : CoreId) (f : FmtA)
  /-- DTOF (R363). Converts packed decimal at scale s to a float. -/
  | dtof (n : CoreId) (f : FmtA)
  /-- RDFS (R358). Reads the float status word after earlier float instructions complete. -/
  | rdfs (n : CoreId) (f : FmtA)
  /-- WRFS (R358). Writes RM and the sticky flags of FS. -/
  | wrfs (n : CoreId) (f : FmtA)
  /-- FMVGF (R359). Moves bits 31:0 of a general register into an F register. -/
  | fmvgf (n : CoreId) (f : FmtA)
  /-- FMVFG (R359). Moves an F register, zero-extended, into a general register. -/
  | fmvfg (n : CoreId) (f : FmtA)
  /-- UOP (R383). UOPn runs the customer micro-routine loaded at 0x4800 + 128n. -/
  | uop (n : CoreId) (k : Fin 16) (f : FmtA)
  /-- EVENT_ENTRY (R314). At a boundary the core takes an eligible event, stores a frame and enters the level's handler. -/
  | eventEntry (n : CoreId)
  /-- MACHINE_CHECK (R324). An error in a core's own logic is taken as F27, or escalates with MC-STATE when RETRY is 0. -/
  | machineCheck (n : CoreId) (cause : BitVec 8) (retry : Bool) (addr : BitVec 16)
  /-- MICRO_TRAP (R379). A pending WALK, FILL, CORR or EVT cause is served before the next micro-word whose TMASK is 0. -/
  | microTrap (n : CoreId) (c : MicroCause)
  /-- MICRO_STEP_LIMIT (R380). A 65th micro-step with TMASK set since the last safe point raises the machine check. -/
  | microStepLimit (n : CoreId)
  /-- TWIN_HANDOVER (R380). At the next boundary after a role change, completion words of outstanding POSTs and COMMITs are written to G[rt]. -/
  | twinHandover (n : CoreId)
  /-- TABLE_WALK (R272). The quad walker reads table entries to install a translation and sets REF. -/
  | tableWalk (a : Agent) (va : BitVec 52) (acc : Access)
  /-- LINE_FILL (R336). A line arriving from the L2 is written into the L1 ahead of other accesses. -/
  | lineFill (n : CoreId) (line : BitVec 52)
  /-- STORE_DRAIN (R337). A completed store leaves the store buffer in program order and becomes visible. -/
  | storeDrain (n : CoreId)
  /-- LATE_STORE_ERROR (R322). A store failing after leaving the pipeline is recorded in LSE_STAT and raises the late-store source. -/
  | lateStoreError (n : CoreId) (cause : BitVec 8) (pa : BitVec 52)
  /-- SOURCE_RAISE (R307). A hardware event source is raised, setting PEND or merging. -/
  | sourceRaise (src : SrcId)
  /-- SRC_RAISE (R307). Writing 1 raises an inter-core message or software-defined source. -/
  | srcRaise (n : CoreId) (src : SrcId) (v : Word)
  /-- TIMER_EXPIRY (R309). A core or module timer reaches its compare value, raises its source and clears EN. -/
  | timerExpiry (t : TimerId)
  /-- SSPASS_LOAD (R262). SS_MOVE with 0x00-0x0F copies P[n] into SSPASS. -/
  | sspassLoad (n : CoreId) (p : PassId)
  /-- SSPASS_COPY_OUT (R262). SS_MOVE with 0x10-0x1F copies SSPASS into P[n - 16]. -/
  | sspassCopyOut (n : CoreId) (p : PassId)
  /-- EP15_LOAD (R312). E_MOVE with 0x00-0x0F sets the level-E program pass. -/
  | ep15Load (n : CoreId) (p : PassId)
  /-- EP14_LOAD (R312). E_MOVE with 0x10-0x1F sets the level-E stack pass. -/
  | ep14Load (n : CoreId) (p : PassId)
  /-- FP_EXCHANGE (R301). FPXCH exchange saves the owning context's float registers and loads CTXFP's. -/
  | fpExchange (n : CoreId)
  /-- FP_FLUSH (R301). FPXCH flush saves the float registers to FPOWN's area and clears FPOWN.V. -/
  | fpFlush (n : CoreId)
  /-- MC_LOAD_IMAGE (R378). MC_LOAD OP 0 checks and loads a patch or open control-store image in two passes. -/
  | mcLoadImage (n : CoreId) (p : PassId) (addr : BitVec 52)
  /-- CLEAR_PATCHES (R376). MC_LOAD OP 1 disables all match registers. -/
  | clearPatches (n : CoreId) (p : PassId)
  /-- CLEAR_OPEN_STORE (R376). MC_LOAD OP 2 clears every OCSV bit. -/
  | clearOpenStore (n : CoreId) (p : PassId)
  /-- REGISTER_WRITE (R6). A write to a register without behaviour of its own sets RW fields and clears W1C bits. -/
  | registerWrite (w : Writer) (v : Word)
  /-- SEQUENCE_ASSIGN (R174). Once journal credit and hash backlog allow, the sequencer assigns the next sequence number to a waiting POST or COMMIT. -/
  | sequenceAssign
  /-- DUPLICATE_RESOLVE (R162). When an in-flight posting with the same REF completes, the waiting duplicate is answered or taken afresh. -/
  | duplicateResolve
  /-- JOURNAL_FULL (R174). The FULLWAIT time of a waiting POST or COMMIT expires and it completes with JOURNAL FULL. -/
  | journalFull
  /-- BANK_RESERVE (R153). A bank posting unit reserves a leg's cell in sequence order and checks it. -/
  | bankReserve (b : Fin 64)
  /-- POSTING_DECISION (R151). With every leg result in, the sequencer accepts or rejects and the journal writer writes and mirrors the record. -/
  | postingDecision
  /-- HEAL_WAIT_EXPIRY (R169). A heal not completed within 2 us fails; the leg fails CELL POISONED. -/
  | healWaitExpiry (off : BitVec 24)
  /-- COMPLETION_WORD (R148). The completion word of a POST or COMMIT is written to H2 or C1 and then to G[rt]. -/
  | completionWord
  /-- RECORD_HASH (R173). A hash engine completes a durable record's digest, reducing the hash backlog. -/
  | recordHash
  /-- BLOCK_TRAILER (R196). The chain hasher completes D_b and the journal writer writes and mirrors the block trailer. -/
  | blockTrailer
  /-- JOURNAL_ACK_READ (R200). The doorbell watcher reads the export acknowledgement word and advances JN_APOS or ignores it. -/
  | journalAckRead
  /-- PREPARE (R165). A participant receives PREPARE, reserves its legs, writes a prepare record and votes. -/
  | prepare (home : PairId) (n : BitVec 48) (w2 : Word) (legs : List (Word × Word))
  /-- YES (R168). The coordinator receives a YES vote with its legs' scales. -/
  | yes (src : PairId) (n : BitVec 48) (scales : List (BitVec 8))
  /-- NO (R165). The coordinator receives a NO vote and aborts the posting. -/
  | no (src : PairId) (n : BitVec 48) (status : BitVec 8)
  /-- WAIT (R165). A participant receives WAIT in answer to its QUERY. -/
  | waitMsg (home : PairId) (n : BitVec 48)
  /-- COMMIT_MSG (R165). A participant in doubt receives COMMIT, writes a decision record, applies and acknowledges. -/
  | commitMsg (home : PairId) (n : BitVec 48)
  /-- ABORT (R165). A participant in doubt receives ABORT, writes a decision record and releases. -/
  | abort (home : PairId) (n : BitVec 48)
  /-- POSTING_ACK (R165). The coordinator receives ACK and drops the posting when all have acknowledged. -/
  | postingAck (src : PairId) (n : BitVec 48)
  /-- QUERY (R165). The coordinator answers a QUERY from its decision record. -/
  | query (src : PairId) (n : BitVec 48)
  /-- REVOTE (R165). A participant receives REVOTE and repeats its vote, or ignores it. -/
  | revote (home : PairId) (n : BitVec 48)
  /-- VOTE_TIMER (R166). The 20 us vote timer expires and the posting aborts with VOTE TIMEOUT. -/
  | voteTimer (n : BitVec 48)
  /-- REVOTE_POINT (R166). 10 us after PREPARE the coordinator sends REVOTE to participants whose votes are missing. -/
  | revotePoint (n : BitVec 48)
  /-- RESEND_TIMER (R166). The 10 us resend timer expires and COMMIT is sent again. -/
  | resendTimer (n : BitVec 48)
  /-- QUERY_TIMER (R166). The 50 us query timer expires and a participant in doubt queries the home pair. -/
  | queryTimer (home : PairId) (n : BitVec 48)
  /-- IN_DOUBT_AGING (R166). A posting in doubt longer than DOUBTAGE raises the in-doubt aging source. -/
  | inDoubtAging (home : PairId) (n : BitVec 48)
  /-- IDLE (R208). A valid IDLE twin frame is received and renews the lease. -/
  | idle (l : Fin 2) (fr : Frame)
  /-- STREAM (R210). The follower receives a STREAM frame of ring words and writes them at their positions. -/
  | stream (l : Fin 2) (fr : Frame)
  /-- FOLLOWER_WRITE_VERIFIED (R211). The follower's write and verify of ring words completes and it sends an ACK. -/
  | followerWriteVerified
  /-- TWIN_ACK (R211). The leader takes an ACK of its term, raises MSEQ and advances the durable horizon. -/
  | twinAck (l : Fin 2) (fr : Frame)
  /-- HEARTBEAT (R214). A HEARTBEAT frame is received; of the own term it renews the lease, of another it starts reconnection. -/
  | heartbeat (l : Fin 2) (fr : Frame)
  /-- HEAL_REQ (R229). The twin answers a HEAL-REQ with the word and its AHOR or OK = 0. -/
  | healReq (l : Fin 2) (fr : Frame)
  /-- HEAL_DATA (R230). The requester receives HEAL-DATA and installs the healed words. -/
  | healData (l : Fin 2) (fr : Frame)
  /-- COPY_START (R227). A COPY-START frame opens a full-copy run at a stated horizon. -/
  | copyStart (l : Fin 2) (fr : Frame)
  /-- COPY (R227). A COPY frame delivers six words of a run, installed unless newer. -/
  | copy (l : Fin 2) (fr : Frame)
  /-- RECON (R223). A RECON frame is exchanged and the tails are compared to find C. -/
  | recon (l : Fin 2) (fr : Frame) (words : List Word)
  /-- WTAB (R221). The witness's follower receives a grant-table entry and acknowledges it. -/
  | wtab (l : Fin 2) (fr : Frame)
  /-- WITNESS_TABLE_ACKED (R221). The witness's follower acknowledges the table word and the witness sends the grant. -/
  | witnessTableAcked (pair : PairId)
  /-- HEARTBEAT_TIMER (R215). Every 500 ns a HEARTBEAT is sent on each link in service. -/
  | heartbeatTimer (l : Fin 2)
  /-- LINK_SILENCE (R209). No valid frame for 2 us takes a twin link out of service and starts retraining. -/
  | linkSilence (l : Fin 2)
  /-- TWIN_RETRAIN_DONE (R209). A twin-link retraining attempt ends, succeeding or repeating. -/
  | twinRetrainDone (l : Fin 2) (ok : Bool)
  /-- LEASE_EXPIRY (R216). The 20 us lease expires; a leader or follower becomes HELD. -/
  | leaseExpiry
  /-- GRANT_REQUEST_TIMER (R215). Every 50 us a HELD module out of contact sends GREQ again. -/
  | grantRequestTimer
  /-- RECONNECTION_TIMER (R215). 100 us after the first RECON the exchange starts again. -/
  | reconnectionTimer
  /-- ROLE_RECORD_REWRITE (R205). At least every 10 us the Watershed rewrites MSEQ and AHOR in the role record. -/
  | roleRecordRewrite
  /-- GREQ (R221). The witness receives a grant request, computes T and probes the requester's twin. -/
  | greq (w : Word) (wseq : BitVec 48)
  /-- PROBE (R221). A probed module answers with PROBE-ANS. -/
  | probe (src : PairId) (side : Bool)
  /-- PROBE_ANS (R221). The witness receives the probe answer and decides the grant. -/
  | probeAns (role : BitVec 3) (w : Word) (wseq : BitVec 48)
  /-- WITNESS_PROBE_TIMER (R221). The 10 us probe timer expires and the probed side is treated as silent. -/
  | witnessProbeTimer (pair : PairId)
  /-- GRANT_MSG (R222). A module receives a grant word over the fabric and, if taken, becomes SOLO. -/
  | grantMsg (w : Word)
  /-- GRANT (R219). The host's witness-grant job is checked and taken or refused. -/
  | grant (j : JobId)
  /-- FENCE (R233). The FENCE job makes a module FENCED. -/
  | fence (j : JobId)
  /-- UNFENCE (R233). The UNFENCE job returns a FENCED module to HELD. -/
  | unfence (j : JobId)
  /-- RECONCILE (R235). The RECONCILE job makes a DIVERGENT module keeper or yielder when matched by its twin. -/
  | reconcile (j : JobId) (twin : Option ReconcileWords)
  /-- RECONCILE_TIMEOUT (R434). No matching RECONCILE reaches the twin within 1 ms and the job completes REFUSED. -/
  | reconcileTimeout (j : JobId)
  /-- CH_START (R393). A store to CH_START checks a CPB and places the program in the ready list, or refuses it. -/
  | chStart (n : CoreId) (e : EngId) (v : Word)
  /-- CH_RESUME (R394). A store to CH_RESUME returns a FAULTED program to the ready list. -/
  | chResume (n : CoreId) (e : EngId) (v : Word)
  /-- CH_HALT (R395). A store to CH_HALT stops a ready or running program. -/
  | chHalt (n : CoreId) (e : EngId) (v : Word)
  /-- CH_CREDIT_ADD (R407). A store adds to an engine's credit counter, saturating. -/
  | chCreditAdd (n : CoreId) (e : EngId) (k : Fin 4) (v : Word)
  /-- PROGRAM_DISPATCH (R396). An idle engine reads the CPB of the highest-priority ready program and runs it. -/
  | programDispatch (e : EngId)
  /-- PREEMPTION (R396). At a pre-emption point a higher-priority ready program displaces the running one. -/
  | preemption (e : EngId)
  /-- STOP (R408). The STOP CCW waits for outstanding POSTs and stops the program. -/
  | stop (e : EngId)
  /-- MOVE (R401). The MOVE CCW copies the next destination word of N positions. -/
  | move (e : EngId)
  /-- GATHER (R402). The GATHER CCW copies elements into consecutive positions, one unit at a time. -/
  | gather (e : EngId)
  /-- SCATTER (R402). The SCATTER CCW splits consecutive positions into elements. -/
  | scatter (e : EngId)
  /-- CONVERT (R403). The CONVERT CCW converts text, zoned or packed data and sets CC. -/
  | convert (e : EngId)
  /-- VALIDATE (R404). The VALIDATE CCW checks a field's format or range and sets CC. -/
  | validate (e : EngId)
  /-- BUILD_POST (R405). The BUILD-POST CCW completes a vector's header and issues it as a POST. -/
  | buildPost (e : EngId)
  /-- BUILD_POST_COMPLETION (R405). An engine's POST completes; CC is set when WAIT and a reject entry is written when REJ and not class A. -/
  | buildPostCompletion (e : EngId)
  /-- JOURNAL_EXPORT (R406). The JOURNAL-EXPORT CCW copies a batch of durable ring words to the host area and writes the position word. -/
  | journalExport (e : EngId)
  /-- WAIT_CREDIT (R407). The WAIT-CREDIT CCW consumes n credits when available. -/
  | waitCredit (e : EngId)
  /-- CREDIT_WAIT_TIMEOUT (R407). The WAIT-CREDIT timeout passes and the CCW ends with CC 1. -/
  | creditWaitTimeout (e : EngId)
  /-- BRANCH (R408). The BRANCH CCW branches when the mask bit of CC is set. -/
  | branch (e : EngId)
  /-- LOOP (R408). The LOOP CCW decrements a counter and branches while it is nonzero. -/
  | loop (e : EngId)
  /-- SIGNAL (R408). The SIGNAL CCW raises an engine source and/or adds credit to an engine's counter. -/
  | signal (e : EngId)
  /-- REJECT_RING_RETRY (R411). An engine waiting on a full reject ring reads CONS again. -/
  | rejectRingRetry (e : EngId)
  /-- POWER_ON (R499). Both 12 V inputs in range for 10 ms start S01. -/
  | powerOn (env : StartEnv)
  /-- START_CTL_RESTART (R482). Writing RESTART to SR_START_CTL begins a new start unless one is running. -/
  | startCtlRestart (env : StartEnv)
  /-- CONTINUE (R473). Writing CONTINUE to SR_START_CTL lets a STOPPED start step go on. -/
  | continueStart (env : StartEnv)
  /-- AUTOMATIC_RESTART (R474). 10 ms after a failed start with FAILSEQ below 3, a new start begins. -/
  | automaticRestart (env : StartEnv)
  /-- GO (R483). Writing GO to SR_BOOT_CTL lets S22 check, read and record the host start image. -/
  | go (env : StartEnv)
  /-- APOS_RECORD (R470). At least every 100 us H4 of the start journal is written with a lower bound of JN_APOS. -/
  | aposRecord
  /-- MARGIN_MEASURE (R480). Every 1 ms each Basin channel measures its margin and schedules a retrain or goes conservative. -/
  | marginMeasure (ch : Fin 64) (margin : BitVec 8)
  /-- RETRAIN_SLICE (R480). After a 200 ns idle window, or each refresh interval, a retrain slice of at most 300 ns runs. -/
  | retrainSlice (ch : Fin 64) (margin : BitVec 8)
  /-- CHECK (R486). ST_STAGE_CTL OP CHECK examines the staged copies and reports a code. -/
  | check
  /-- APPLY (R487). ST_STAGE_CTL OP APPLY writes the checked settings and puts them in force at one instant. -/
  | apply (gen : BitVec 48)
  /-- DISCARD (R486). ST_STAGE_CTL OP DISCARD sets every staged copy equal to its applied value. -/
  | discard
  /-- PAIR_APPLY_INSTANT (R488). The time counter reaches the agreed T and a pair-scope APPLY takes effect. -/
  | pairApplyInstant
  /-- UNIT_JOB_GO (R490). Writing GO to a unit-control job slot submits its job. -/
  | unitJobGo (n : CoreId) (u : UnitId) (slot : Fin 8)
  /-- QUERY_JOB (R491). Returns the unit's UC_STATE or the pair leader's WS_STATE. -/
  | queryJob (j : JobId)
  /-- START_JOB (R484). Starts a quad's or core's cores at a given digit address. -/
  | startJob (j : JobId) (passes : Bool)
  /-- STOP_JOB (R491). Stops cores at their next boundary. -/
  | stopJob (j : JobId)
  /-- FENCE_UNIT (R475). Fences a quad or core. -/
  | fenceUnit (j : JobId)
  /-- POLICY (R472). Changes NEXT and ATT of a start step's policy word. -/
  | policy (j : JobId)
  /-- RESTART (R491). Begins a new start, ending every queue pair. -/
  | restart (j : JobId) (env : StartEnv)
  /-- CHECK_JOB (R486). Runs CHECK on a module, pair or vale. -/
  | checkJob (j : JobId)
  /-- APPLY_JOB (R488). Runs APPLY at module, pair or vale scope. -/
  | applyJob (j : JobId) (twin : Option TwinStage)
  /-- DISCARD_JOB (R486). Runs DISCARD on a module, pair or vale. -/
  | discardJob (j : JobId)
  /-- RECAL (R481). Retrains the named Basin stacks at once. -/
  | recal (j : JobId)
  /-- CREATE_LEDGER (R478). Zeroes the ledger regions and creates the empty ledger. -/
  | createLedger (j : JobId)
  /-- CLEAR_FAIL (R491). Clears UC_FAIL0, UC_FAIL1 and, for a module, FAILSEQ. -/
  | clearFail (j : JobId)
  /-- QP_ENABLE (R428). HI_QP_CTL.EN set while DISABLED reads the binding and doorbells and makes the pair ACTIVE. -/
  | qpEnable (q : QpId)
  /-- QP_DISABLE (R428). HI_QP_CTL.EN cleared makes the pair DRAINING until its jobs complete. -/
  | qpDisable (q : QpId)
  /-- DOORBELL_POLL (R432). A watched word's interval falls due and the watcher issues its read. -/
  | doorbellPoll (w : Watched)
  /-- DOORBELL_READ_RESULT (R431). A doorbell read returns and the pair takes or rejects the new count. -/
  | doorbellReadResult (w : Watched)
  /-- JOB_FETCH (R435). A job pair reads a submission entry when room allows and starts the job. -/
  | jobFetch (q : QpId)
  /-- JOB_NOP (R434). The NOP job completes with RESULT 0. -/
  | jobNop (j : JobId)
  /-- JOB_POST (R434). The POST job issues a vector under PPASS, staging it from host memory when HV is 1. -/
  | jobPost (j : JobId)
  /-- JOB_COMMIT (R434). The COMMIT job issues a commit block under PPASS. -/
  | jobCommit (j : JobId)
  /-- MEMREAD (R434). Copies module words to host memory one word at a time. -/
  | memread (j : JobId)
  /-- MEMWRITE (R434). Copies host memory into module words one word at a time. -/
  | memwrite (j : JobId)
  /-- CHSTART (R434). Acts as a store to CH_START under CPASS. -/
  | chstart (j : JobId)
  /-- COMPLETION_WRITE (R436). A completion is written as C1 then C0 with PHASE at the next CQ slot. -/
  | completionWrite (q : QpId)
  /-- FUNCTION_RESET (R442). FLR or loss of Bus Master Enable puts the function's pairs in ERROR and unpopulates its apertures. -/
  | functionReset (fn : Fin 32)
  /-- HOST_DMA_ERROR (R426). A PCIe request is answered with an error or times out and is reported by its requester. -/
  | hostDmaError (r : Requester)
  /-- CODEWORD_RECEIVE (R445). A fabric codeword is decoded, corrected, dropped or acknowledged. -/
  | codewordReceive (l : Fin 8) (cw : Codeword)
  /-- FABRIC_LINK_SILENCE (R446). A fabric link with no good codeword for 2 us goes out of service. -/
  | fabricLinkSilence (l : Fin 8)
  /-- FABRIC_RETRAIN_DONE (R447). A fabric retraining attempt ends; the far end is checked and the link placed in service or marked miswired. -/
  | fabricRetrainDone (l : Fin 8) (far : Option FarEnd)
  /-- PACKET_FORWARD (R450). A packet arriving at an intermediate module is routed onward, across planes, or dropped. -/
  | packetForward (p : Packet)
  /-- LOAD_REQ (R455). A target serves a remote load and answers LOAD-RSP. -/
  | loadReq (p : Packet)
  /-- STORE_REQ (R455). A target serves a remote store and answers ACK. -/
  | storeReq (p : Packet)
  /-- EVENT_PACKET (R457). A target raises an inter-core or software source from a fabric EVENT. -/
  | eventPacket (p : Packet)
  /-- LOAD_RSP (R456). The issuer receives a remote load's data or error status. -/
  | loadRsp (p : Packet)
  /-- ACK (R456). The issuer receives a remote store's status. -/
  | ack (p : Packet)
  /-- UNIT (R456). A UNIT packet carries a job to a pair or returns its result. -/
  | unit (p : Packet)
  /-- ESEQ_RESEND (R458). The oldest unanswered request has waited 10 us and the series is resent, or completed undelivered after three resends. -/
  | eseqResend (pair : PairId) (side : Bool) (events : Bool)
  /-- TIME_PACKET (R464). A TIME packet from the upstream link sets the reference and is forwarded. -/
  | timePacket (l : Fin 8) (t : BitVec 64)
  /-- TIME_MASTER_SEND (R464). Every 1 us the time master sends TIME on every link. -/
  | timeMasterSend
  /-- TIME_LOST (R464). No TIME accepted for 10 us sets TIMELOST and the counter runs free. -/
  | timeLost
  /-- POWER_FAIL (R500). 12 V main below 10.8 V for 500 ns stops sequencing and isolates the Plain within 2 us. -/
  | powerFail
  /-- HOLDUP_LOW (R501). The hold-up store falls below 10 mJ and HOLDUP is set. -/
  | holdupLow (uj : BitVec 16)
  /-- STANDBY_LOST (R499). Standby falls while main stays in range; management stops. -/
  | standbyLost
  /-- UNDERVOLTAGE (R509). Main below 11.4 V for 10 us without a power failure sets UNDERV. -/
  | undervoltage (mv : BitVec 16)
  /-- THERMAL_WARN (R503). TM_TJ reaches TM_TJ_WARN and TJWARN is set. -/
  | thermalWarn (tj : BitVec 16)
  /-- THROTTLE (R503). At 103 C the core supply is lowered 10 mV each us toward 0.68 V. -/
  | throttle (tj : BitVec 16)
  /-- THROTTLE_RESTORE (R503). After 1 ms below 100 C the core supply returns to TM_VCORE_SET. -/
  | throttleRestore
  /-- THERMAL_TRIP (R503). At 110 C THERMTRIP# is pulled low and the power-failure sequence runs. -/
  | thermalTrip (tj : BitVec 16)
  /-- FORD_CLOCK_STOP (R504). A ford's clock stops or returns after 1 us or longer, raising its source. -/
  | fordClockStop (ford : Fin 18) (stopped : Bool)
  /-- MGMT_TRANSACTION (R508). An I3C or SMBus transaction reads a setup slot or writes SR_START_CTL. -/
  | mgmtTransaction (op : MgmtOp)
  /-- BYPASS (R511). TAP BYPASS instruction, undisturbing. -/
  | bypass
  /-- IDCODE (R511). TAP IDCODE instruction returns 0x1724_8B67. -/
  | idcode
  /-- SAMPLE_PRELOAD (R511). TAP SAMPLE/PRELOAD instruction, undisturbing. -/
  | samplePreload
  /-- EXTEST (R511). Runs the power-failure sequence and drives boundary-scan outputs. -/
  | extest
  /-- EXTEST_PULSE (R511). IEEE 1149.6 pulse test after the power-failure sequence. -/
  | extestPulse
  /-- EXTEST_TRAIN (R511). IEEE 1149.6 train test after the power-failure sequence. -/
  | extestTrain
  /-- CLAMP (R511). TAP CLAMP after the power-failure sequence. -/
  | clamp
  /-- HIGHZ (R511). TAP HIGHZ after the power-failure sequence. -/
  | highz
  /-- INTEST (R511). TAP INTEST after the power-failure sequence. -/
  | intest
  /-- PCIE_LINK_CHANGE (R422). The PCIe link enters or leaves L0 or changes speed or width; HI_LINK changes and HI_EVT.LINK is set. -/
  | pcieLinkChange (link : BitVec 16)
  /-- OVERPOWER (R509). TM_POWER over the last 1 ms rises above 480,000 mW and TM_EVT.OVERPOWER is set, raising source 725. -/
  | overpower (mw : BitVec 20)
  /-- FORD_CLOCK_STOP_TIMEOUT (R505). A Basin PHY or time-counter clock stays stopped for 10 us and the power-failure sequence of R500 runs. -/
  | fordClockStopTimeout (ford : Fin 18)
  /-- TWIN_REPLAY_STORE_FULL (R209). A twin link's replay store stays full for 2 us and the link goes out of service and starts retraining. -/
  | twinReplayStoreFull (l : Fin 2)
  /-- FABRIC_REPLAY_STORE_FULL (R446). A fabric link's replay store stays full for 2 us and the link goes out of service and starts retraining. -/
  | fabricReplayStoreFull (l : Fin 8)
  /-- SENSE_DELAY_TAP (R480). The ford and Plain sense delays move by one tap, at most once per us, without stopping traffic. -/
  | senseDelayTap
  deriving DecidableEq, Repr

end Sys2Proof
end

