-- ==== Sys2Proof/Machine/State.lean ====
section
/-! DEFINITION. The state of one module, as plain data: every piece of state the manual gives it, and the queue of
commands that wait. INVENTORY.md lists each field with the rule that names it. -/

namespace Sys2Proof.Machine

/-- The machine stops with a fault. The manual gives no command that stops the module without an effect: every fault
class F01-F27, channel fault and job status is taken as the manual says, in a next state. So this type has no
constructor; no step can answer a fault (safe). -/
inductive Fault where
  deriving DecidableEq, Repr

/-- No meaning for the command. -/
inductive Refusal where
  /-- The command has no meaning yet. Raised by `exec`'s refused arms (safe: nothing can be proved of it). -/
  | notModelled (mnemonic : String)
  deriving DecidableEq, Repr

/-- One word of the Plain or the Basin: 72 data bits, the hidden tag (R15) and whether the word is uncorrectable. -/
structure MCell where
  data : Word
  tag : Bool
  bad : Bool
  deriving DecidableEq, Repr

/-- A pass register: the 144 bits of a pass and the valid bit (R237, R239). -/
structure PassReg where
  w0 : Word
  w1 : Word
  valid : Bool
  deriving DecidableEq, Repr

/-- A translation that a TLB holds (R269, R278, R279). `entry` is the physical address of the walked entry. -/
structure TlbEnt where
  space : BitVec 16
  glb : Bool
  base : Nat
  size : Nat
  frame : WAddr
  key : BitVec 4
  fp : Bool
  acc : BitVec 3
  mt : BitVec 3
  chg : Bool
  entry : WAddr
  /-- The walk that gave it served a store (R346). -/
  forStore : Bool
  deriving DecidableEq, Repr

/-- A table entry that a walk cache holds (R279): the virtual span it covers and the table it names. -/
structure WalkEnt where
  space : BitVec 16
  level : Nat
  idx : Nat
  next : WAddr
  deriving DecidableEq, Repr

/-- A line of code in the fetch buffer, or the one instruction word that deterministic mode has fetched (R329, R341, R344): the virtual word
it begins at, the root and the space under which it was translated, its translation and physical word, and its words as they were fetched. -/
structure FetchLine where
  va : WAddr
  root : WAddr
  space : BitVec 16
  ent : TlbEnt
  pa : WAddr
  words : List MCell
  deriving DecidableEq, Repr

/-- What a long instruction holds from one unit to the next while nothing comes between them (R134, R136): the digits of the source field that
EDIT has open, and the last word of operand 2 that it read, by its virtual word. -/
structure LongHold where
  digits : List (BitVec 4)
  word : Option (WAddr × Word)
  deriving DecidableEq, Repr

/-- A store in the store buffer (R337): to one word under a position mask (bit 17 - p for position p), or a pass store of a word pair with its
second word and the tags it writes, which is one access (R15) and fills two entries. -/
structure SbEnt where
  pa : WAddr
  mask : BitVec 18
  data : Word
  pass : Option (Word × Bool)
  deriving DecidableEq, Repr

/-- A branch-target buffer entry (R330). kind: 0 conditional, 1 unconditional, 2 call, 3 return, 4 register-indirect. -/
structure BtbEnt where
  addr : DAddr
  kind : BitVec 3
  target : DAddr
  ctr : BitVec 2
  deriving DecidableEq, Repr

/-- A match register (R374) with its parity bit (R369). -/
structure MatchReg where
  en : Bool
  maddr : BitVec 15
  paddr : BitVec 9
  parity : Bool
  deriving DecidableEq, Repr

/-- A micro-word (R370) with its parity bits: bit 1 for bits 127:64 and bit 0 for bits 63:0 (R369). -/
structure MicroWord where
  word : BitVec 128
  parity : BitVec 2
  deriving DecidableEq, Repr

/-- A frame that an entry wrote and FREL has not returned through: the ACTIVE bit it set and the physical addresses of
its twelve words (R314, R317). -/
structure FrameRec where
  bit : BitVec 5
  addrs : List WAddr
  deriving DecidableEq, Repr

/-- An outstanding POST or COMMIT of a core (R150): its destination register and its ticket. -/
structure OutPost where
  rt : BitVec 5
  ticket : Nat
  deriving DecidableEq, Repr

/-- A word that a unit waited for and now has, for the command that waited: a remote word with the status of R456, or a word
whose heal failed (status 0x03). A store of an engine that failed stands here too (R410), with the CODE of R322 plus 0x10. -/
structure Arrived where
  pa : WAddr
  status : BitVec 8
  word : Word
  deriving DecidableEq, Repr

/-- One core (R42) with its control words (R51). -/
structure Core where
  g : Vector Word 32
  p : Vector PassReg 16
  f : Vector (BitVec 32) 32
  st : Word
  pc : DAddr
  fs : BitVec 10
  ftrap : Option (BitVec 5 × DAddr)
  sspass : PassReg
  ssp : WAddr
  pipeCtl : BitVec 3
  retired : BitVec 64
  mispred : BitVec 32
  l1miss : BitVec 32
  fillWait : BitVec 32
  sbFull : BitVec 32
  partialWait : BitVec 32
  detSteps : BitVec 64
  detVar : BitVec 32
  btb : List BtbEnt
  rstack : List DAddr
  fetchBuf : List FetchLine
  l1 : List WAddr
  storeBuf : List SbEnt
  pageRegs : Vector (Option TlbEnt) 3
  /-- The instruction word that deterministic mode has fetched and not left (R347). -/
  fetchWord : Option FetchLine
  hold : Option LongHold
  /-- Steps charged so far for the instruction in progress; DET_STEPS takes them as it completes (R349). -/
  detPend : BitVec 64
  /-- The instruction in progress has waited past what R345 or R352 budgets for it. -/
  late : Bool
  /-- Apertures of the host window stored to since the last PCIe read of them (R71). -/
  windows : List (Fin 64)
  troot : WAddr
  space : BitVec 16
  tlbMiss : BitVec 32
  walkCnt : BitVec 32
  conflictCnt : BitVec 32
  itlb : List TlbEnt
  dtlb : List TlbEnt
  swh : WAddr
  swx : WAddr
  swExh : BitVec 32
  fpown : Word
  ctxfp : WAddr
  fpxchCnt : BitVec 32
  ltb : WAddr
  active : BitVec 18
  evec : DAddr
  esp : WAddr
  ep15 : PassReg
  ep14 : PassReg
  lseStat : Word
  lseAddr : WAddr
  lseCnt : BitVec 32
  dfCnt : BitVec 32
  escCnt : BitVec 32
  tmr : Word
  frames : List FrameRec
  /-- The source whose offer the core has accepted, and its level as the delivery began (R308, R379). -/
  offer : Option (SrcId × BitVec 3)
  matchRegs : Vector MatchReg 32
  patch : List (Nat × MicroWord)
  ocs : List (Nat × MicroWord)
  ocsv : BitVec 16
  lres : BitVec 8
  mcPid : BitVec 64
  mcOid : BitVec 64
  mcAddr : BitVec 16
  mcPar : BitVec 32
  mtrapCnt : BitVec 32
  mcLoad : BitVec 32
  /-- UC_STATE bits 15:12: 0 ABSENT, 1 STARTING, 2 RUNNING, 3 STOPPED, 4 FENCED (R489). -/
  run : BitVec 4
  /-- The step that fenced the core; 0 for a fence by job or by R328. -/
  fstep : BitVec 5
  /-- The physical word that the core's instruction waits for: a remote word (R456) or one that the Watershed heals (R321). -/
  wait : Option WAddr
  arrived : List Arrived
  posts : List OutPost
  deriving DecidableEq, Repr

/-- One quad (R279, R329, R462, R475). -/
structure Quad where
  tlb : List TlbEnt
  walkCache : List WalkEnt
  l2 : List WAddr
  remote : List (WAddr × List Word)
  fenced : Bool
  fstep : BitVec 5
  deriving DecidableEq, Repr

/-- A reject entry that is being written (R411): what E0 to E2 will hold, and the ticket of the POST that it reports. -/
structure ChReject where
  reason : BitVec 8
  detail : BitVec 8
  addr : DAddr
  recno : Word
  cmd : BitVec 4
  cpc : WAddr
  ticket : Option Nat
  /-- The ring was full, and REJFULL is set for this wait. -/
  full : Bool
  /-- The physical words of the entry and of PROD, once stored; the entry is made when those stores are complete (R412). -/
  written : Option (List WAddr)
  deriving DecidableEq, Repr

/-- The element that a GATHER or SCATTER works on (R402): its positions already done, and its length and address once its descriptor is read. -/
structure ListElem where
  off : Nat
  desc : Option (Nat × DAddr)
  deriving DecidableEq, Repr

/-- A program that an engine runs: the words of its CPB (R387). -/
structure ChProg where
  cpb : WAddr
  w0 : Word
  cpc : WAddr
  cc : BitVec 2
  cls : BitVec 5
  code : BitVec 8
  slot : BitVec 3
  stopcode : BitVec 16
  faddr : DAddr
  fphys : WAddr
  done : BitVec 32
  elem : BitVec 8
  waitns : BitVec 32
  w6 : Word
  w7 : Word
  cr : Vector Word 16
  cp : Vector PassReg 8
  space : BitVec 16
  troot : WAddr
  /-- The CCW in progress, once fetched. -/
  ccw : Option Word
  /-- The element in hand of a GATHER or SCATTER; none when the program has been loaded since (R409). -/
  inElem : Option ListElem
  /-- The time at which a WAIT-CREDIT began to wait. -/
  waitFrom : Option (BitVec 64)
  /-- The JN_DPOS that a JOURNAL-EXPORT read when it began (R406). -/
  exportTo : Option (BitVec 64)
  reject : Option ChReject
  /-- The ticket of the POST that a BUILD-POST with WAIT waits for. -/
  waitPost : Option Nat
  /-- The CCW has made all its accesses and waits until its stores are complete (R410); then CC takes this value. -/
  ending : Option (BitVec 2)
  halt : Bool
  deriving DecidableEq, Repr

/-- An entry of an engine's ready list (R396). -/
structure ChReady where
  cpb : WAddr
  prio : BitVec 3
  space : BitVec 16
  troot : WAddr
  preempted : Bool
  deriving DecidableEq, Repr

/-- An outstanding POST of an engine (R405): the block of its program, the vector's H0 digit address, REJ, the record number at issue, the
address of its CCW and the physical address of H2; then its completion, and whether H2 took it (R148). -/
structure EngPost where
  ticket : Nat
  cpb : WAddr
  h0 : DAddr
  rej : Bool
  recno : Word
  cpc : WAddr
  slot : WAddr
  result : Option Word
  stored : Bool
  deriving DecidableEq, Repr

/-- One channel engine (R386, R392). -/
structure Engine where
  running : Option ChProg
  ready : List ChReady
  credit : Vector (BitVec 32) 4
  ccwCnt : BitVec 64
  wordCnt : BitVec 64
  postCnt : BitVec 64
  rejCvt : BitVec 32
  rejVal : BitVec 32
  rejPost : BitVec 32
  faultCnt : BitVec 32
  preemptCnt : BitVec 32
  reqErr : BitVec 32
  evt : BitVec 8
  tlb : List TlbEnt
  /-- Apertures of the host window stored to since the last PCIe read of them (R71, R410). -/
  windows : List (Fin 64)
  posts : List EngPost
  /-- The engine's cross-pair postings whose final word has not come (R148, R164). -/
  xposts : List EngPost
  wait : Option WAddr
  arrived : List Arrived
  fenced : Bool
  /-- S19 fenced the engine itself, not its quad (R475). -/
  s19 : Bool
  deriving DecidableEq, Repr

/-- One event source (R306). -/
structure Source where
  cfg : Word
  pend : Bool
  raises : BitVec 32
  merges : BitVec 32
  last : BitVec 7
  /-- MERGES when PEND was last set from 0: the raises since then are merged into the next delivery (R315, MERGED). -/
  mark : BitVec 32
  deriving DecidableEq, Repr

/-- The staged settings (R485). -/
structure Settings where
  peCellBase : BitVec 24
  peCellCount : BitVec 22
  peRuleBase : BitVec 24
  peRuleCount : BitVec 17
  peFilterBase : BitVec 24
  peCtl : BitVec 16
  jnRingBase : BitVec 24
  jnRingLog2 : BitVec 5
  jnCtl : BitVec 16
  wsCtl : BitVec 16
  wsWitness : BitVec 12
  wsWtable : BitVec 24
  lbDim : BitVec 12
  lbPair : BitVec 12
  lbCtl : BitVec 2
  lbTmaster : BitVec 12
  lbVale : Vector (BitVec 36) 16
  lbHead : Vector (BitVec 12) 16
  deriving DecidableEq, Repr

/-- Who issued a POST or COMMIT. -/
inductive Issuer where
  | core (n : CoreId) (rt : BitVec 5)
  | engine (e : EngId)
  | job (j : JobId)
  /-- A participant's part of a cross-pair posting (R165): no completion word is written. -/
  | home (pair : PairId) (n : BitVec 48)
  deriving DecidableEq, Repr

/-- A POST or COMMIT that has reached the sequencer: its words, the physical address of its completion slot (R148) and when its
FULLWAIT time began (R174). -/
structure PostReq where
  ticket : Nat
  issuer : Issuer
  commit : Bool
  slot : WAddr
  words : List Word
  since : BitVec 64
  checked : Bool
  deriving DecidableEq, Repr

/-- One leg of a sequenced posting (R145) and what its bank found (R152). -/
structure Leg where
  l0 : Word
  l1 : Word
  /-- none until the bank has reserved and checked the leg; then the status of R149, 0x00 for a pass. -/
  res : Option (BitVec 8)
  /-- The balance that an accepted amount leg leaves, in units of the last digit. -/
  newBal : Int
  /-- CUR and SCALE of the leg's cell, as the bank returned them. -/
  cur : BitVec 12
  scale : BitVec 5
  /-- Held for a heal of a poisoned word (R169): the Plain offset. -/
  heal : Option (BitVec 24)
  deriving DecidableEq, Repr

/-- What a sequence number was assigned to: a posting, a commit, a participant's part of the posting (home, n), or the decision on a
prepared posting (R151, R164, R184). -/
inductive FlightKind where
  | posting
  | commit
  | part (home : PairId) (n : BitVec 48)
  | decision (home : PairId) (n : BitVec 48) (commit : Bool)
  deriving DecidableEq, Repr

/-- A record that has a sequence number and is not yet durable and applied (R151). -/
structure Flight where
  seq : BitVec 48
  req : PostReq
  pos : BitVec 64
  len : Nat
  kind : FlightKind
  legs : List Leg
  /-- The status and LEG of a posting that failed a vector check, items 1 to 4 of R152. -/
  early : Option (BitVec 8 × BitVec 4)
  /-- none until the sequencer has decided and the record is written; then the status and LEG. -/
  decided : Option (BitVec 8 × BitVec 4)
  solo : Bool
  xp : Bool
  /-- The record is a prepare record (R165). -/
  prepare : Bool
  deriving DecidableEq, Repr

/-- A completion word that is known and not yet written (R148, R154). -/
structure DoneWord where
  req : PostReq
  word : Word
  /-- The final word of a cross-pair posting, whose issuer already has IN PROGRESS (R164). -/
  final : Bool
  deriving DecidableEq, Repr

/-- A POST that waits on a posting in flight with the same REF (R162). -/
structure DupWait where
  req : PostReq
  /-- The ticket of the posting it waits on. -/
  on : Nat
  /-- The completion of that posting, once it is known. -/
  word : Option Word
  deriving DecidableEq, Repr

/-- A prepare record that no applied decision has ended: its number, where it lies, its posting, whether this module is the
participant, the cells that it holds (R160, R165, R212), and whether it carries a rule write (R157). -/
structure Prep where
  seq : BitVec 48
  pos : BitVec 64
  home : PairId
  n : BitVec 48
  part : Bool
  cells : List Nat
  rule : Bool
  deriving DecidableEq, Repr

/-- A cross-pair posting at its coordinator (R165). phase: 0 C-RESERVE, 1 C-VOTE, 2 C-COMMIT, 3 done. -/
structure Coord where
  n : BitVec 48
  req : PostReq
  phase : BitVec 2
  legs : List Leg
  pairs : List PairId
  /-- Participants that voted YES, with the SCALE octets of their legs in vector order. -/
  yes : List (PairId × List (BitVec 8))
  acks : List PairId
  /-- The decision once made: commit or abort. -/
  commit : Option Bool
  since : BitVec 64
  resent : BitVec 64
  revoted : Bool
  /-- The final completion word, once the decision is made. -/
  final : Word
  deriving DecidableEq, Repr

/-- A posting held as participant (R165). phase: 0 reserving, 1 P-DOUBT, 2 done. -/
structure Part where
  home : PairId
  n : BitVec 48
  pseq : BitVec 48
  phase : BitVec 2
  legs : List Leg
  w2 : Word
  vote : BitVec 8
  since : BitVec 64
  queried : BitVec 64
  aged : Bool
  /-- The decision that has arrived: commit or abort. -/
  decision : Option Bool
  deriving DecidableEq, Repr

/-- A decision that is made and has no sequence number yet (R173, R184): the request under whose name it is recorded, with the time of the
decision in `since`, the posting, its prepare record, and the status and LEG. -/
structure WaitDec where
  req : PostReq
  home : PairId
  n : BitVec 48
  pseq : BitVec 48
  status : BitVec 8
  leg : BitVec 4
  deriving DecidableEq, Repr

/-- A record in the ring that no durable trailer covers yet, or a trailer slot after a block's 64th record (R176, R194). -/
structure Rec where
  trailer : Bool
  seq : BitVec 48
  pos : BitVec 64
  len : Nat
  written : Bool
  digest : Option (BitVec 256)
  deriving DecidableEq, Repr

/-- Posting engine and journal (R138, R175). -/
structure Ledger where
  seqNext : BitVec 48
  accept : BitVec 64
  reject : BitVec 64
  dup : BitVec 64
  notseq : BitVec 64
  tickets : Nat
  arrivals : List PostReq
  flights : List Flight
  dups : List DupWait
  done : List DoneWord
  filterNext : BitVec 19
  coords : List Coord
  parts : List Part
  preps : List Prep
  wpos : BitVec 64
  dpos : BitVec 64
  xpos : BitVec 64
  apos : BitVec 64
  blockNext : BitVec 48
  fullCnt : BitVec 64
  ackErr : BitVec 32
  commitCnt : BitVec 64
  evt : BitVec 4
  decisionWords : Nat
  decisions : List WaitDec
  /-- The hash backlog has stopped the sequencer, and it has assigned no number since (R173, R175). -/
  stalled : Bool
  lastTime : BitVec 64
  recs : List Rec
  lastTrailer : Option (BitVec 64)
  deriving DecidableEq, Repr

/-- A frame that this side sent (R207), and how often it has been replayed (R209). -/
structure SentFrame where
  link : Fin 2
  kind : BitVec 4
  fseq : BitVec 8
  fack : BitVec 8
  rtry : Bool
  pos : BitVec 16
  words : List Word
  crc : BitVec 32
  replays : Nat
  deriving DecidableEq, Repr

/-- A frame that waits for room in a replay store (R209): KIND, POS and payload. -/
structure WaitFrame where
  kind : BitVec 4
  pos : BitVec 16
  words : List Word
  deriving DecidableEq, Repr

/-- One twin link (R209). -/
structure TwinLink where
  up : Bool
  training : Bool
  tx : BitVec 8
  rx : BitVec 8
  rtry : Bool
  store : List SentFrame
  /-- Since when the store holds its 128 frames. -/
  fullSince : Option (BitVec 64)
  good : Nat
  lastGood : BitVec 64
  lastBeat : BitVec 64
  crcCnt : BitVec 32
  deriving DecidableEq, Repr

/-- A heal that waits for HEAL-DATA (R229), or, once that came, for the horizon (R230). -/
structure Heal where
  off : BitVec 24
  since : BitVec 64
  data : Option (BitVec 48 × List Word)
  deriving DecidableEq, Repr

/-- A grant request that a witness serves (R221). -/
structure WitReq where
  pair : PairId
  side : Bool
  term : BitVec 48
  wseq : BitVec 48
  since : BitVec 64
  /-- The side chosen, once decided; the grant waits for the table word's acknowledgement. -/
  chosen : Option Bool
  deriving DecidableEq, Repr

/-- A copy run that a follower receives (R227): its words so far, and those of the cell that has not come whole. -/
structure CopyRun where
  off : Nat
  len : Nat
  horizon : BitVec 48
  got : Nat
  cell : List Word
  deriving DecidableEq, Repr

/-- The Watershed (R204, R205, R236). -/
structure Watershed where
  role : BitVec 3
  lrole : BitVec 2
  term : BitVec 48
  mseq : BitVec 48
  soloFirst : BitVec 48
  ahor : BitVec 48
  gen : BitVec 8
  copy : Bool
  side : Bool
  sideConflict : Bool
  synced : Bool
  contact : Bool
  grantLast : Word
  divPfx : BitVec 48
  divTail : BitVec 48
  replayCnt : BitVec 32
  healCnt : BitVec 32
  healFail : BitVec 32
  roleCnt : BitVec 32
  evt : BitVec 16
  links : Vector TwinLink 2
  lastTerm : BitVec 64
  lastGreq : BitVec 64
  lastWrite : BitVec 64
  recon : Option (BitVec 64)
  /-- Synchronising: 0 no, 1 as source, 2 as follower by catch-up, 3 as follower by full copy. -/
  sync : BitVec 2
  /-- The follower has discarded, or lost under R476, a record that it had applied (R226). -/
  lostApplied : Bool
  run : Option CopyRun
  /-- Plain offsets that live records wrote during a full copy, with the record's number (R227). -/
  live : List (Nat × BitVec 48)
  rxWords : List (Nat × Word)
  /-- Ring positions written and verified that no whole record or trailer covers yet (R211). -/
  rxHave : List Nat
  /-- Words of the full copy received so far (R227). -/
  copied : Nat
  /-- ASEQ and TBLK that the twin last acknowledged (R211). -/
  twinAseq : BitVec 48
  twinTblk : BitVec 48
  twinRole : BitVec 3
  /-- WSEQ, JN_APOS and SYNCED of the twin's last HEARTBEAT (R208). -/
  twinWseq : BitVec 48
  twinApos : BitVec 64
  twinSynced : Bool
  heals : List Heal
  wits : List WitReq
  reconcile : Option (JobId × ReconcileWords × BitVec 64)
  /-- Ring words still to be streamed, as positions and lengths (R210). -/
  txq : List (Nat × Nat)
  /-- The link that the next STREAM frame goes on. -/
  txLink : Fin 2
  queue : List WaitFrame
  out : List SentFrame
  deriving DecidableEq, Repr

/-- A queue pair's copy of its binding entry (R429). -/
structure Binding where
  space : BitVec 16
  troot : WAddr
  dpass : PassReg
  ppass : PassReg
  cpass : PassReg
  apass : PassReg
  vstage : WAddr
  deriving DecidableEq, Repr

/-- A completion that waits to be written (R436, R439). -/
structure Completion where
  job : JobId
  /-- A POST or COMMIT: those of a pair are written in the order they were taken (R435). -/
  post : Bool
  cid : BitVec 16
  status : BitVec 8
  detail : BitVec 8
  result : Word
  deriving DecidableEq, Repr

/-- One queue pair (R427). -/
structure Qp where
  ctl : BitVec 32
  sqBase : BitVec 64
  cqBase : BitVec 64
  sqDb : BitVec 64
  cqDb : BitVec 64
  state : BitVec 4
  err : BitVec 8
  /-- SQ consumed count. -/
  sqh : BitVec 64
  /-- SQ submitted count, as last taken from the doorbell. -/
  sqt : BitVec 64
  /-- CQ written count. -/
  cqt : BitVec 64
  /-- CQ head last taken. -/
  cqh : BitVec 64
  jobs : BitVec 64
  evt : BitVec 4
  bind : Option Binding
  waiting : List Completion
  deriving DecidableEq, Repr

/-- Where a job came from. -/
inductive JobOrigin where
  | qp (q : QpId)
  | slot (u : UnitId) (k : Fin 8)
  | fabric (pair : PairId) (side : Bool) (eseq : BitVec 16)
  /-- The own pair's part of a job at vale scope (R465). -/
  | part (j : JobId)
  deriving DecidableEq, Repr

/-- What a job at pair or vale scope has from the units it reached (R491, R492): answers still to come, the pairs that completed it, and
the status, detail and result that it will carry. -/
structure Tally where
  vale : Bool
  left : Nat
  done : Nat
  status : BitVec 8
  detail : BitVec 8
  result : Word
  deriving DecidableEq, Repr

/-- A job in progress (R433-R435, R490). -/
structure Job where
  id : JobId
  origin : JobOrigin
  s0 : Word
  s1 : Word
  s2 : Word
  s3 : Word
  started : Bool
  progress : Nat
  ticket : Option Nat
  since : BitVec 64
  wait : Option WAddr
  arrived : List Arrived
  tally : Option Tally
  deriving DecidableEq, Repr

/-- A word on the doorbell watcher's list (R432). -/
structure WatchEnt where
  word : Watched
  addr : BitVec 64
  ival : Nat
  due : BitVec 64
  inFlight : Bool
  last : BitVec 64
  deriving DecidableEq, Repr

/-- One aperture (R424). -/
structure Aperture where
  base : BitVec 64
  ctl : BitVec 48
  deriving DecidableEq, Repr

/-- The Wynex host interface (R422). -/
structure HostIf where
  pollMin : BitVec 17
  pollMax : BitVec 17
  bindBase : WAddr
  link : BitVec 16
  pollCnt : BitVec 64
  pollLate : BitVec 32
  barErr : BitVec 32
  dmaErr : BitVec 32
  jobCnt : BitVec 64
  evt : BitVec 8
  apts : Vector Aperture 64
  qps : Vector Qp 1024
  watch : List WatchEnt
  fnOff : BitVec 32
  jobs : List Job
  nextJob : JobId
  deriving DecidableEq, Repr

/-- One fabric link (R444-R447, R466). -/
structure FabLink where
  up : Bool
  miswire : Bool
  train : Bool
  far : BitVec 13
  /-- Trained to the right neighbour, and counting 64 good codewords before it is in service (R446, R447). -/
  key : Bool
  corr : BitVec 64
  uncorr : BitVec 32
  replay : BitVec 32
  csTx : BitVec 12
  csRx : BitVec 12
  nak : Bool
  /-- The codewords kept for replay, each with its packet (R445), and since when there are 128 of them (R446). -/
  store : List (BitVec 12 × Packet)
  fullSince : Option (BitVec 64)
  /-- Packets that wait for credits or for room in the replay store, and the slots of VC0 sent since the last of VC2 (R461). -/
  held : List Packet
  turn : Nat
  dropped : Nat
  good : Nat
  lastGood : BitVec 64
  cred : Vector Nat 7
  delay : BitVec 16
  deriving DecidableEq, Repr

/-- What an unanswered request was for (R456). -/
inductive ReqFor where
  | coreLoad (n : CoreId) (pa : WAddr)
  | coreStore (n : CoreId) (pa : WAddr)
  | engineStore (e : EngId) (pa : WAddr)
  | engineLoad (e : EngId) (pa : WAddr)
  | unit (j : JobId)
  | event (n : CoreId)
  deriving DecidableEq, Repr

/-- One ESEQ series toward a target module (R458). -/
structure Series where
  pair : PairId
  side : Bool
  events : Bool
  next : BitVec 16
  waiting : List (BitVec 16 × ReqFor × Packet)
  since : BitVec 64
  resends : Nat
  deriving DecidableEq, Repr

/-- What a target keeps for a source module and series (R459). -/
structure Served where
  pair : PairId
  side : Bool
  events : Bool
  expected : BitVec 16
  held : List (BitVec 16 × Packet)
  /-- The word that the next request waits for while it is healed, and whether the heal has failed (R321, R456). -/
  heal : Option (WAddr × Bool)
  deriving DecidableEq, Repr

/-- A packet that this module put on a link, or handed across the twin links (none). -/
structure SentPacket where
  link : Option (Fin 8)
  packet : Packet
  deriving DecidableEq, Repr

/-- The Luabo fabric block (R466) and the module time follower (R464). -/
structure Fabric where
  links : Vector FabLink 8
  timeErr : BitVec 32
  txCnt : BitVec 64
  rxCnt : BitVec 64
  retryCnt : BitVec 32
  undeliv : BitVec 32
  dropCnt : BitVec 32
  planeCnt : BitVec 32
  evt : BitVec 16
  series : List Series
  served : List Served
  lastTime : BitVec 64
  lastMaster : BitVec 64
  /-- The reference minus the counter that the counter still has to make up (R464). -/
  drift : Int
  /-- The half step of a counter that runs at half or 1.5 times rate. -/
  half : Bool
  out : List SentPacket
  deriving DecidableEq, Repr

/-- A job slot of a unit control block (R489). -/
structure JobSlot where
  s0 : Word
  s1 : Word
  s2 : Word
  s3 : Word
  busy : Bool
  done : Bool
  status : BitVec 8
  detail : BitVec 8
  res : Word
  deriving DecidableEq, Repr

/-- A unit control block's own registers (R489). -/
structure UnitBlock where
  fail0 : Word
  fail1 : Word
  jobCnt : BitVec 64
  jobErr : BitVec 32
  slots : Vector JobSlot 8
  deriving DecidableEq, Repr

/-- One Basin channel (R480, R481). -/
structure Chan where
  margin : BitVec 8
  conservative : Bool
  retrain : Bool
  stored : Option (BitVec 64)
  deriving DecidableEq, Repr

/-- Start, staging and unit control (R467, R482, R485). -/
structure StartBlk where
  phase : BitVec 3
  step : BitVec 5
  start : BitVec 48
  steps : BitVec 48
  bootHost : BitVec 64
  bootWords : BitVec 24
  bootDest : BitVec 24
  lock : Bool
  calMethods : BitVec 8
  failedAt : Option (BitVec 64)
  /-- The first step not yet run, while PHASE is STOPPED or BOOT-WAIT. -/
  resume : Nat
  /-- BOOT-WAIT: attempts of S22 already made, and the method. -/
  bootTry : Nat
  bootMethod : Nat
  /-- S13 has completed; S21 has completed (R469). -/
  pcieServed : Bool
  hostServed : Bool
  stState : BitVec 4
  stCode : BitVec 8
  stGen : BitVec 48
  stCheckAddr : BitVec 18
  stApplyTime : BitVec 64
  stSdigest : Word
  stApplyCnt : BitVec 32
  stCheckFail : BitVec 32
  /-- The agreed T of a pair-scope APPLY, and the job that asked (R488). -/
  pairApply : Option (BitVec 64 × Option JobId)
  modBlk : UnitBlock
  quads : Vector UnitBlock 12
  cores : Vector UnitBlock 48
  chans : Vector Chan 64
  lastTap : BitVec 64
  /-- Sense-delay taps moved (R480). -/
  taps : Nat
  deriving DecidableEq, Repr

/-- Module, power, thermal, fords, pins and TAP (R496-R511). -/
structure Board where
  tj : BitVec 16
  tjWarn : BitVec 8
  p12mMv : BitVec 16
  p12mMa : BitVec 17
  p12sMv : BitVec 16
  power : BitVec 20
  vcore : BitVec 10
  vcoreSet : BitVec 10
  holdup : BitVec 16
  throtCnt : BitVec 32
  evt : BitVec 8
  fordMerge : Vector (BitVec 32) 18
  fordStop : Vector (BitVec 32) 18
  /-- When the clock of ford f stopped, while it is stopped. -/
  fordSince : Vector (Option (BitVec 64)) 18
  /-- The logic is powered. -/
  powered : Bool
  mainOk : Bool
  stbyOk : Bool
  /-- Off until both inputs cycle (R503, R511). -/
  latched : Bool
  /-- PWROK is released. -/
  pwrok : Bool
  /-- THERMTRIP# is pulled low. -/
  thermtrip : Bool
  throttling : Bool
  /-- When the core supply was last lowered by a step (R503). -/
  stepAt : BitVec 64
  coolSince : Option (BitVec 64)
  /-- T0_KEY and T1_KEY: true when tied to GND, the A end (R506). -/
  twinKeys : BitVec 2
  /-- Ll_KEY of link l: true when tied to GND, as a cable does (R506). -/
  linkKeys : BitVec 8
  /-- MSEL and MADDR1:0, true when tied to GND (R507). -/
  straps : BitVec 3
  /-- The TAP's current instruction, by its name in the table. -/
  tap : String
  /-- What the last management or TAP read returned. -/
  mgmtOut : Word
  deriving DecidableEq, Repr

/-- The state of one module and the queue of commands that wait. -/
structure State where
  pending : List Instr
  /-- The model's own: how many free values have been drawn (log 3). -/
  free : Nat
  now : BitVec 64
  mem : List (Nat × MCell)
  hostMem : List Host.Cell
  cores : Vector Core 48
  quads : Vector Quad 12
  engines : Vector Engine 24
  srcs : Vector Source 1024
  mtmr : Vector Word 16
  applied : Settings
  staged : Settings
  led : Ledger
  ws : Watershed
  hi : HostIf
  lb : Fabric
  sr : StartBlk
  brd : Board
  deriving DecidableEq, Repr

/-- A pass register that is not valid (R47); its words are zero (log 6). -/
def PassReg.none : PassReg := { w0 := 0, w1 := 0, valid := false }

/-- The root program pass of R263. -/
def PassReg.rootP15 : PassReg := { w0 := 0x0FFF06#72, w1 := 0, valid := true }

/-- The root shadow pass of R263. -/
def PassReg.rootShadow : PassReg := { w0 := 0x080005#72, w1 := 0, valid := true }

/-- A core as it starts (R47, R263), not yet released: UC_STATE resets to STARTING (R489). -/
def Core.reset : Core :=
  { g := Vector.replicate 32 0, p := (Vector.replicate 16 PassReg.none).set 15 PassReg.rootP15,
    f := Vector.replicate 32 0, st := 0, pc := 0, fs := 0, ftrap := none, sspass := PassReg.rootShadow, ssp := 0,
    pipeCtl := 0, retired := 0, mispred := 0, l1miss := 0, fillWait := 0, sbFull := 0, partialWait := 0, detSteps := 0,
    detVar := 0, btb := [], rstack := [], fetchBuf := [], l1 := [], storeBuf := [], hold := none, detPend := 0, late := false,
    windows := [],
    pageRegs := Vector.replicate 3 none, fetchWord := none, troot := 0, space := 0, tlbMiss := 0, walkCnt := 0,
    conflictCnt := 0, itlb := [], dtlb := [], swh := 0, swx := 0, swExh := 0, fpown := 0, ctxfp := 0, fpxchCnt := 0,
    ltb := 0, active := 0, evec := 0, esp := 0, ep15 := PassReg.none, ep14 := PassReg.none, lseStat := 0, lseAddr := 0,
    lseCnt := 0, dfCnt := 0, escCnt := 0, tmr := 0, frames := [], offer := none,
    matchRegs := Vector.replicate 32 { en := false, maddr := 0, paddr := 0, parity := false }, patch := [], ocs := [], ocsv := 0, lres := 0,
    mcPid := 0, mcOid := 0, mcAddr := 0, mcPar := 0, mtrapCnt := 0, mcLoad := 0, run := 1, fstep := 0, wait := none,
    arrived := [],    posts := [] }

/-- An idle engine (R392). -/
def Engine.reset : Engine :=
  { running := none, ready := [], credit := Vector.replicate 4 0, ccwCnt := 0, wordCnt := 0, postCnt := 0, rejCvt := 0,
    rejVal := 0, rejPost := 0, faultCnt := 0, preemptCnt := 0, reqErr := 0, evt := 0, tlb := [], windows := [], posts := [], xposts := [],
    wait := none, arrived := [], fenced := false, s19 := false }

/-- A quad with nothing held. -/
def Quad.reset : Quad :=
  { tlb := [], walkCache := [], l2 := [], remote := [], fenced := false, fstep := 0 }

/-- The reset value of SRC_CFG.TARGET (R306): bit n for sources 464-466 + 4n and 656 + n, 0 for all others. -/
def srcTarget (k : Nat) : Nat :=
  if 464 ≤ k ∧ k < 656 ∧ (k - 464) % 4 ≠ 3 then 2 ^ ((k - 464) / 4)
  else if 656 ≤ k ∧ k < 704 then 2 ^ (k - 656) else 0

/-- Source k at reset (R306). -/
def Source.reset (k : Nat) : Source :=
  { cfg := BitVec.ofNat 72 (srcTarget k), pend := false, raises := 0, merges := 0, last := 0, mark := 0 }

/-- Every source at reset, the first in number first. -/
def Source.resets : Vector Source 1024 := ⟨((List.range 1024).map Source.reset).toArray, by simp⟩

/-- The settings at their reset values (R138, R175, R236, R466). -/
def Settings.reset : Settings :=
  { peCellBase := 0, peCellCount := 0, peRuleBase := 0, peRuleCount := 0, peFilterBase := 0, peCtl := 0x0020#16,
    jnRingBase := 0, jnRingLog2 := 16#5, jnCtl := 0, wsCtl := 0, wsWitness := 0, wsWtable := 0, lbDim := 0, lbPair := 0,
    lbCtl := 0, lbTmaster := 0, lbVale := Vector.replicate 16 0, lbHead := Vector.replicate 16 0 }

/-- Posting engine and journal at their reset values (R138, R175). -/
def Ledger.reset : Ledger :=
  { seqNext := 0, accept := 0, reject := 0, dup := 0, notseq := 0, tickets := 0, arrivals := [], flights := [],
    dups := [], done := [], filterNext := 0, coords := [], parts := [], preps := [], wpos := 0, dpos := 0, xpos := 0, apos := 0,
    blockNext := 0, fullCnt := 0, ackErr := 0, commitCnt := 0, evt := 0, decisionWords := 0, decisions := [], stalled := false,
    lastTime := 0, recs := [], lastTrailer := none }

/-- A twin link out of service with nothing sent, not yet trained. -/
def TwinLink.reset : TwinLink :=
  { up := false, training := true, tx := 0, rx := 0, rtry := false, store := [], fullSince := none, good := 0, lastGood := 0,
    lastBeat := 0, crcCnt := 0 }

/-- The Watershed at reset: HELD, with the role record of a newly made module (R205, log 6). -/
def Watershed.reset : Watershed :=
  { role := 0, lrole := 0, term := 0, mseq := 0, soloFirst := 0, ahor := 0, gen := 0, copy := false, side := true,
    sideConflict := false, synced := false, contact := false, grantLast := 0, divPfx := 0, divTail := 0, replayCnt := 0,
    healCnt := 0, healFail := 0, roleCnt := 0, evt := 0, links := Vector.replicate 2 TwinLink.reset, lastTerm := 0,
    lastGreq := 0, lastWrite := 0, recon := none, sync := 0, lostApplied := false, run := none, live := [],
    rxWords := [], rxHave := [], copied := 0, twinAseq := 0, twinTblk := 0, twinRole := 0, twinWseq := 0,
    twinApos := 0, twinSynced := false, heals := [], wits := [], reconcile := none, txq := [], txLink := 0, queue := [], out := [] }

/-- A queue pair at reset (R427). -/
def Qp.reset : Qp :=
  { ctl := 0x00440000#32, sqBase := 0, cqBase := 0, sqDb := 0, cqDb := 0, state := 0, err := 0, sqh := 0, sqt := 0,
    cqt := 0, cqh := 0, jobs := 0, evt := 0, bind := none, waiting := [] }

/-- The host interface at reset (R422, R424). -/
def HostIf.reset : HostIf :=
  { pollMin := 100#17, pollMax := 100000#17, bindBase := 0, link := 0, pollCnt := 0, pollLate := 0, barErr := 0,
    dmaErr := 0, jobCnt := 0, evt := 0, apts := Vector.replicate 64 { base := 0, ctl := 0 },
    qps := Vector.replicate 1024 Qp.reset, watch := [], fnOff := 0, jobs := [], nextJob := 0 }

/-- A fabric link at reset; `cred` is the room of the seven buffers of R461. -/
def FabLink.reset : FabLink :=
  { up := false, miswire := false, train := false, far := 0, key := false, corr := 0, uncorr := 0, replay := 0, csTx := 0,
    csRx := 0, nak := false, store := [], fullSince := none, held := [], turn := 0, dropped := 0, good := 0, lastGood := 0,
    cred := #v[64, 64, 64, 64, 16, 16, 8], delay := 0 }

/-- The fabric block at reset (R466). -/
def Fabric.reset : Fabric :=
  { links := Vector.replicate 8 FabLink.reset, timeErr := 0, txCnt := 0, rxCnt := 0, retryCnt := 0, undeliv := 0,
    dropCnt := 0, planeCnt := 0, evt := 0, series := [], served := [], lastTime := 0, lastMaster := 0, drift := 0,
    half := false, out := [] }

/-- A job slot at reset (R489). -/
def JobSlot.reset : JobSlot :=
  { s0 := 0, s1 := 0, s2 := 0, s3 := 0, busy := false, done := false, status := 0, detail := 0, res := 0 }

/-- A unit control block at reset (R489). -/
def UnitBlock.reset : UnitBlock :=
  { fail0 := 0, fail1 := 0, jobCnt := 0, jobErr := 0, slots := Vector.replicate 8 JobSlot.reset }

/-- A Basin channel before its first calibration (log 6). -/
def Chan.reset : Chan :=
  { margin := 0, conservative := false, retrain := false, stored := none }

/-- Start and staging at reset (R482, R485); the margins are the model's (log 6). -/
def StartBlk.reset : StartBlk :=
  { phase := 0, step := 0, start := 0, steps := 0, bootHost := 0, bootWords := 0, bootDest := 0, lock := false,
    calMethods := 0, failedAt := none, resume := 1, bootTry := 0, bootMethod := 0, pcieServed := false,
    hostServed := false, stState := 0, stCode := 0, stGen := 0, stCheckAddr := 0, stApplyTime := 0, stSdigest := 0,
    stApplyCnt := 0, stCheckFail := 0, pairApply := none, modBlk := UnitBlock.reset,
    quads := Vector.replicate 12 UnitBlock.reset, cores := Vector.replicate 48 UnitBlock.reset,
    chans := Vector.replicate 64 Chan.reset,
    lastTap := 0, taps := 0 }

/-- Module, power and pins at reset: unpowered, fabric cables connected, nothing else tied to GND (log 6). -/
def Board.reset : Board :=
  { tj := 0, tjWarn := 95, p12mMv := 0, p12mMa := 0, p12sMv := 0, power := 0, vcore := 0, vcoreSet := 820, holdup := 0,
    throtCnt := 0, evt := 0, fordMerge := Vector.replicate 18 0, fordStop := Vector.replicate 18 0,
    fordSince := Vector.replicate 18 none, powered := false, mainOk := false, stbyOk := false, latched := false,
    pwrok := false, thermtrip := false, throttling := false, stepAt := 0, coolSince := none, twinKeys := 0,
    linkKeys := 0xFF, straps := 0, tap := "IDCODE", mgmtOut := 0 }

/-- The module right after reset: a newly made module before its first start, every register at its reset value, no memory
word listed, no command waiting. -/
def State.reset : State :=
  { pending := [], free := 0, now := 0, mem := [], hostMem := [], cores := Vector.replicate 48 Core.reset,
    quads := Vector.replicate 12 Quad.reset, engines := Vector.replicate 24 Engine.reset,
    srcs := Source.resets, mtmr := Vector.replicate 16 0, applied := Settings.reset,
    staged := Settings.reset, led := Ledger.reset, ws := Watershed.reset, hi := HostIf.reset, lb := Fabric.reset,
    sr := StartBlk.reset, brd := Board.reset }

end Sys2Proof.Machine
end

