-- ==== Sys2Proof/Machine/Ops.lean ====
section
/-! DEFINITION. The operations that many commands share: bit fields, digit addresses, memory, event sources, free values,
and the outcome of a core's work. -/

namespace Sys2Proof.Machine

/-! ## Bit fields -/

/-- The bits lo + len - 1 down to lo of a value. -/
def bits {w : Nat} (x : BitVec w) (lo len : Nat) : BitVec len := x.extractLsb' lo len

/-- A value with its bits lo + len - 1 down to lo replaced. -/
def setBits {w : Nat} (x : BitVec w) (lo len : Nat) (v : BitVec len) : BitVec w :=
  (x &&& ~~~(((BitVec.allOnes len).setWidth w) <<< lo)) ||| ((v.setWidth w) <<< lo)

/-- One bit as a value. -/
def bit {w : Nat} (x : BitVec w) (i : Nat) : Bool := x.getLsbD i

/-- A value with one bit replaced. -/
def setBit {w : Nat} (x : BitVec w) (i : Nat) (b : Bool) : BitVec w := setBits x i 1 (BitVec.ofBool b)

/-- A Bool placed at bit i of a word. -/
def flagAt (b : Bool) (i : Nat) : Word := if b then (1 : Word) <<< i else 0

/-- A field placed at bit lo of a word. -/
def at' {w : Nat} (v : BitVec w) (lo : Nat) : Word := v.setWidth 72 <<< lo

/-- The nibble in position p of a word (R10). -/
def posOf (x : Word) (p : Nat) : BitVec 4 := bits x (68 - 4 * p) 4

/-- A word with position p replaced. -/
def setPos (x : Word) (p : Nat) (v : BitVec 4) : Word := setBits x (68 - 4 * p) 4 v

/-- Octet k of a word (R11). -/
def octetOf (x : Word) (k : Nat) : BitVec 8 := bits x (64 - 8 * k) 8

/-- The eighteen positions of a word, position 0 first (R10). -/
def posList (x : Word) : List (BitVec 4) := (List.range 18).map (posOf x)

/-- The nine octets of a word, octet 0 first (R11). -/
def octetList (x : Word) : List (BitVec 8) := (List.range 9).map (octetOf x)

/-- A number from nibbles, the first the most significant. -/
def natOfPos (l : List (BitVec 4)) : Nat := l.foldl (fun a d => a * 16 + d.toNat) 0

/-- The last n nibbles of a number, the most significant first. -/
def posOfNat : Nat → Nat → List (BitVec 4)
  | 0, _ => []
  | n + 1, v => posOfNat n (v / 16) ++ [BitVec.ofNat 4 v]

/-- A word of up to eighteen positions, position 0 first, the rest zero. -/
def wordOfPos (l : List (BitVec 4)) : Word := BitVec.ofNat 72 (natOfPos l * 16 ^ (18 - l.length))

/-- A word from octets, octet 0 first, unused octets zero. -/
def wordOfOctets (l : List (BitVec 8)) : Word :=
  BitVec.ofNat 72 ((l.foldl (fun a d => a * 256 + d.toNat) 0) * 256 ^ (9 - l.length))

/-- A position mask (R337): bit 17 - p stands for position p; this one covers positions p to p + n - 1. -/
def maskOf (p n : Nat) : BitVec 18 := BitVec.ofNat 18 ((2 ^ n - 1) * 2 ^ (18 - p - n))

/-- All eighteen positions. -/
def maskAll : BitVec 18 := BitVec.allOnes 18

/-- The 72 data bits that a position mask covers. -/
def maskBits (m : BitVec 18) : Word :=
  (List.range 18).foldl (fun a i => if bit m i then a ||| ((0xF : Word) <<< (4 * i)) else a) 0

/-- New data under a mask, old data elsewhere (R28). -/
def merge (m : BitVec 18) (new old : Word) : Word := (new &&& maskBits m) ||| (old &&& ~~~(maskBits m))

/-- One added to a counter, kept at its width. -/
def inc {w : Nat} (x : BitVec w) : BitVec w := x + 1

/-- Where the first element stands that a test picks. -/
def findIdx {α : Type} (p : α → Bool) : List α → Nat → Option Nat
  | [], _ => none
  | x :: r, i => if p x then some i else findIdx p r (i + 1)

/-- A list with the elements that a test picks replaced. -/
def mapIf {α : Type} (p : α → Bool) (f : α → α) (l : List α) : List α := l.map fun x => if p x then f x else x

/-- Every core, lowest index first. -/
def allCores : List CoreId := List.finRange 48

/-- Every engine, lowest index first. -/
def allEngines : List EngId := List.finRange 24

/-- Every quad, lowest index first. -/
def allQuads : List QuadId := List.finRange 12

/-! ## Digit addresses -/

/-- The word of a digit address (R19). -/
def daWord (da : DAddr) : WAddr := bits da 5 52

/-- The position of a digit address (R19). -/
def daPos (da : DAddr) : Nat := (bits da 0 5).toNat

/-- A digit address from a word and a position (R19). -/
def daOf (w : WAddr) (p : Nat) : DAddr := (w.setWidth 57 <<< 5) ||| BitVec.ofNat 57 p

/-- ADVANCE on a digit address whose position is valid (R23): the result, and whether ST.V is set. -/
def advance (da : DAddr) (n : Int) : DAddr × Bool :=
  let t : Int := daPos da + n
  let q := t.fdiv 18
  let w : Int := (daWord da).toNat + q
  (daOf (BitVec.ofInt 52 w) (t - 18 * q).toNat, w < 0 || w ≥ 2 ^ 52)

/-- The digit address n positions on, wrapping at the end of the space. -/
def daAdd (da : DAddr) (n : Int) : DAddr := (advance da n).1

/-- A digit address as it stands in a register (R19). -/
def daReg (da : DAddr) : Word := da.setWidth 72

/-- The words that n positions from digit address da touch, each with its mask, in ascending order (R25). Fuel: n. -/
def fieldWords : Nat → DAddr → Nat → List (WAddr × BitVec 18)
  | 0, _, _ => []
  | k + 1, da, n =>
    if n = 0 then []
    else
      let m := min n (18 - daPos da)
      (daWord da, maskOf (daPos da) m) :: fieldWords k (daAdd da m) (n - m)

/-! ## The physical address space -/

/-- The kinds of region (R33, R34). -/
inductive Region where
  | basin | plain | device | window | reserved
  | rBasin | rPlain | rDevice | rReserved
  deriving DecidableEq, Repr

/-- The region of a physical word address (R32-R34). -/
def regionOf (pa : WAddr) : Region :=
  if bit pa 51 then
    match (bits pa 36 2).toNat with
    | 0 => .rBasin | 1 => .rPlain | 2 => .rDevice | _ => .rReserved
  else
    match (bits pa 48 3).toNat with
    | 0 => .basin | 1 => .plain | 2 => .device | 3 => .window | _ => .reserved

/-- The offset of a physical word address in its region (R32). -/
def offsetOf (pa : WAddr) : Nat := if bit pa 51 then (bits pa 0 36).toNat else (bits pa 0 48).toNat

/-- The physical word address of a local Plain offset. -/
def plainAddr (off : Nat) : WAddr := BitVec.ofNat 52 (2 ^ 48 + off)

/-- The physical word address of a device-control offset. -/
def deviceAddr (off : Nat) : WAddr := BitVec.ofNat 52 (2 ^ 49 + off)

/-- Whether a physical word address lies in the populated local Basin or Plain (R33). -/
def isLocalMem (pa : WAddr) : Bool :=
  match regionOf pa with
  | .basin => offsetOf pa < 2 ^ 33
  | .plain => offsetOf pa < 2 ^ 24
  | _ => false

/-- Whether n words from a physical word address all lie in the populated local Basin or Plain. -/
def rangeInMem (pa : WAddr) (n : Nat) : Bool := isLocalMem pa && isLocalMem (pa + BitVec.ofNat 52 (n - 1))
  && regionOf pa = regionOf (pa + BitVec.ofNat 52 (n - 1))

/-- The aperture that populates a host-window offset, and the offset in it (R424, R425); those of a function that is off are not
populated (R442). -/
def State.aperture (s : State) (off : Nat) : Option (Aperture × Nat) :=
  if h : off / 2 ^ 40 < 64 then
    let a := s.hi.apts[off / 2 ^ 40]
    let k := off % 2 ^ 40
    let size := if bit a.ctl 46 then 16 else 9
    if bit a.ctl 47 && !bit s.hi.fnOff (bits a.ctl 40 5).toNat && k < (bits a.ctl 0 40).toNat && a.base.toNat + size * (k + 1) ≤ 2 ^ 64 then some (a, k) else none
  else none

/-- Whether a physical word address is populated (R33, R34, R425). -/
def State.populated (s : State) (pa : WAddr) : Bool :=
  match regionOf pa with
  | .basin | .rBasin => offsetOf pa < 2 ^ 33
  | .plain | .rPlain => offsetOf pa < 2 ^ 24
  | .device | .rDevice => offsetOf pa < 2 ^ 20
  | .window => (s.aperture (offsetOf pa)).isSome
  | .reserved | .rReserved => false

/-- An address that names the module's own pair and side is served as the equivalent local address (R35); the reserved remote
region becomes a reserved local one. -/
def State.localise (s : State) (pa : WAddr) : WAddr :=
  if bit pa 51 && bits pa 39 12 = s.applied.lbPair && bit pa 38 = s.ws.side then
    let r := (bits pa 36 2).toNat
    BitVec.ofNat 52 ((if r < 3 then r else 4) * 2 ^ 48 + (bits pa 0 36).toNat)
  else pa

/-- The regions of the Plain that the applied settings lay out: cells, rules, filter ring and journal ring, each as its first
offset and its size (R138, R175, R483). A region of zero size occupies nothing. -/
def Settings.ledgerRegions (x : Settings) : List (Nat × Nat) :=
  let live := x.peCellCount != 0
  [(x.peCellBase.toNat, x.peCellCount.toNat * 4), (x.peRuleBase.toNat, x.peRuleCount.toNat * 4),
   (x.peFilterBase.toNat, if live then 2 ^ 20 else 0), (x.jnRingBase.toNat, if live then 2 ^ x.jnRingLog2.toNat else 0)]

/-- Whether an offset lies in a region of a list. -/
def inRegions (l : List (Nat × Nat)) (off : Nat) : Bool := l.any fun r => decide (r.1 ≤ off) && decide (off < r.1 + r.2)

/-- Whether the Watershed heals a Plain offset (R229): cells, rules, filter and ring. -/
def State.healable (s : State) (off : Nat) : Bool := inRegions s.applied.ledgerRegions off

/-- Whether the module refuses a store that is not its own to a Plain offset (R139, R177, R470). -/
def State.guarded (s : State) (off : Nat) : Bool := s.healable off || decide (0xFF0000 ≤ off)

/-! ## Memory -/

/-- The NEXT policy of start step k on a newly made module (R467): 0 RETRY, 1 ALTERNATE, 2 SKIP. -/
def stepNext (k : Nat) : Nat :=
  if k = 4 ∨ k = 8 ∨ k = 9 ∨ k = 11 ∨ k = 22 then 1 else if k = 5 ∨ k = 6 ∨ k = 7 ∨ k = 19 then 2 else 0

/-- What an unlisted word reads as: zero with a clear tag, but for the header and policy words of the start journal on a
newly made module (R470, R472; log 5). -/
def unlistedCell (k : Nat) : MCell :=
  { data :=
      if k = 2 ^ 48 + 0xFF0000 then (1 : Word) <<< 68
      else if 2 ^ 48 + 0xFF0018 ≤ k ∧ k < 2 ^ 48 + 0xFF0030 then
        BitVec.ofNat 72 (stepNext (k - (2 ^ 48 + 0xFF0017)) * 2 ^ 70 + 3 * 2 ^ 66 + 7 * 2 ^ 59)
      else 0,
    tag := false, bad := false }

/-- The cell at a key of a memory list. -/
def memGet : List (Nat × MCell) → Nat → MCell
  | [], k => unlistedCell k
  | (k', c) :: r, k => if k = k' then c else if k < k' then unlistedCell k else memGet r k

/-- The memory with one cell replaced, in canonical form. -/
def memPut : List (Nat × MCell) → Nat → MCell → List (Nat × MCell)
  | [], k, c => if c = unlistedCell k then [] else [(k, c)]
  | (k', c') :: r, k, c =>
    if k < k' then (if c = unlistedCell k then (k', c') :: r else (k, c) :: (k', c') :: r)
    else if k = k' then (if c = unlistedCell k then r else (k, c) :: r)
    else (k', c') :: memPut r k c

/-- The keys rise strictly from a lower bound on. -/
def keysFrom {α : Type} : Nat → List (Nat × α) → Bool
  | _, [] => true
  | b, (k, _) :: r => decide (b ≤ k) && keysFrom (k + 1) r

/-- The canonical form of memory: addresses strictly rising, and no entry equal to what its address reads as unlisted. -/
def Memory.wf (m : List (Nat × MCell)) : Bool := keysFrom 0 m && m.all fun e => e.2 != unlistedCell e.1

/-- The cell of a local physical word address. -/
def State.cell (s : State) (pa : WAddr) : MCell := memGet s.mem pa.toNat

/-- The data of a local physical word address. -/
def State.data (s : State) (pa : WAddr) : Word := (s.cell pa).data

/-- The state with the cell of a local physical word address replaced. -/
def State.putCell (s : State) (pa : WAddr) (c : MCell) : State := { s with mem := memPut s.mem pa.toNat c }

/-- The other word of an aligned pair. -/
def pairWord (pa : WAddr) : WAddr := pa ^^^ 1

/-- A store to positions of one local word that is not a pass store (R16, R28): it clears the tags of both words of the
pair. A part-word store leaves an uncorrectable word uncorrectable (R322, POISONED). -/
def State.putMasked (s : State) (pa : WAddr) (m : BitVec 18) (v : Word) : State :=
  let c := s.cell pa
  let o := s.cell (pairWord pa)
  (s.putCell (pairWord pa) { o with tag := false }).putCell pa
    (if c.bad && m != maskAll then { c with tag := false } else { data := merge m v c.data, tag := false, bad := false })

/-- A table walk's write of REF or CHG (R283), which a region that takes only its owner's stores refuses (R139, R177, R470). -/
def State.putEntry (s : State) (pa : WAddr) (v : Word) : State :=
  if regionOf pa == .plain && s.guarded (offsetOf pa) then s else s.putMasked pa maskAll v

/-- A whole-word store that is not a pass store. -/
def State.putWord (s : State) (pa : WAddr) (v : Word) : State := s.putMasked pa maskAll v

/-- A pass store to an aligned pair (R15, R241). -/
def State.putPass (s : State) (pa : WAddr) (p : PassReg) : State :=
  (s.putCell pa { data := p.w0, tag := p.valid, bad := false }).putCell (pa + 1)
    { data := p.w1, tag := p.valid, bad := false }

/-- A pass as LDPS reads it from an aligned pair (R240). -/
def State.getPass (s : State) (pa : WAddr) : PassReg :=
  let a := s.cell pa
  let b := s.cell (pa + 1)
  { w0 := a.data, w1 := b.data, valid := a.tag && b.tag }

/-- Consecutive whole words stored. -/
def State.putWords (s : State) (pa : WAddr) : List Word → State
  | [] => s
  | v :: r => (s.putWord pa v).putWords (pa + 1) r

/-- Consecutive words read. -/
def State.getWords (s : State) (pa : WAddr) : Nat → List Word
  | 0 => []
  | n + 1 => s.data pa :: s.getWords (pa + 1) n

/-- Whether one of n words from a local address is uncorrectable. -/
def State.anyBad (s : State) (pa : WAddr) (n : Nat) : Bool :=
  (List.range n).any fun i => (s.cell (pa + BitVec.ofNat 52 i)).bad

/-- Zeroes n words from a local address that lie outside the start journal: no word of them stays listed. -/
def State.zeroRange (s : State) (pa : WAddr) (n : Nat) : State :=
  { s with mem := s.mem.filter fun e => !(decide (pa.toNat ≤ e.1) && decide (e.1 < pa.toNat + n)) }

/-! ## Host memory -/

/-- One octet of host memory; what nothing has written reads as zero (log 5). -/
def hostGet : List Host.Cell → Nat → BitVec 8
  | [], _ => 0
  | (k', c) :: r, k => if k = k' then c else if k < k' then 0 else hostGet r k

/-- Host memory with one octet replaced, in canonical form. -/
def hostPut : List Host.Cell → Nat → BitVec 8 → List Host.Cell
  | [], k, c => if c = 0 then [] else [(k, c)]
  | (k', c') :: r, k, c =>
    if k < k' then (if c = 0 then (k', c') :: r else (k, c) :: (k', c') :: r)
    else if k = k' then (if c = 0 then r else (k, c) :: r)
    else (k', c') :: hostPut r k c

/-- The canonical form of host memory. -/
def hostWf (m : List Host.Cell) : Bool := keysFrom 0 m && m.all fun e => e.2 != 0

/-- n octets of host memory from address a. -/
def State.hostOctets (s : State) (a : Nat) (n : Nat) : List (BitVec 8) := (List.range n).map fun i => hostGet s.hostMem (a + i)

/-- Octets written to host memory from address a on. -/
def State.putHostOctets (s : State) (a : Nat) : List (BitVec 8) → State
  | [] => s
  | v :: r => ({ s with hostMem := hostPut s.hostMem a v } : State).putHostOctets (a + 1) r

/-- A padded word at a host octet address (R38, R39). -/
def State.hostPadded (s : State) (a : Nat) : Word :=
  BitVec.ofNat 72 ((s.hostOctets a 9).reverse.foldl (fun x d => x * 256 + d.toNat) 0)

/-- A padded word written, with zero in octets 9-15 (R39). -/
def State.putHostPadded (s : State) (a : Nat) (v : Word) : State :=
  s.putHostOctets a ((octetList v).reverse ++ List.replicate 7 0)

/-- The word of an aperture at word offset k (R38). -/
def State.aptWord (s : State) (a : Aperture) (k : Nat) : Word :=
  if bit a.ctl 46 then s.hostPadded (a.base.toNat + 16 * k)
  else wordOfOctets (s.hostOctets (a.base.toNat + 9 * k) 9)

/-- The word of an aperture at word offset k written (R38, R39). -/
def State.putAptWord (s : State) (a : Aperture) (k : Nat) (v : Word) : State :=
  if bit a.ctl 46 then s.putHostPadded (a.base.toNat + 16 * k) v
  else s.putHostOctets (a.base.toNat + 9 * k) (octetList v)

/-! ## Parts of the state -/

/-- The state with another queue of waiting commands. -/
def State.withQueue (s : State) (q : List Instr) : State := { s with pending := q }

/-- One core replaced by a function of it. -/
def State.updCore (s : State) (n : CoreId) (f : Core → Core) : State := { s with cores := s.cores.set n (f s.cores[n]) }

/-- One quad replaced by a function of it. -/
def State.updQuad (s : State) (q : QuadId) (f : Quad → Quad) : State := { s with quads := s.quads.set q (f s.quads[q]) }

/-- One engine replaced by a function of it. -/
def State.updEng (s : State) (e : EngId) (f : Engine → Engine) : State :=
  { s with engines := s.engines.set e (f s.engines[e]) }

/-- One queue pair replaced by a function of it. -/
def State.updQp (s : State) (q : QpId) (f : Qp → Qp) : State := { s with hi := { s.hi with qps := s.hi.qps.set q (f s.hi.qps[q]) } }

/-- The quad of a core (R51). -/
def quadOf (n : CoreId) : QuadId := ⟨n.val / 4, by omega⟩

/-- The quad of an engine (R386). -/
def engQuad (e : EngId) : QuadId := ⟨e.val / 2, by omega⟩

/-! ## Event sources -/

/-- A raise (R307): PEND is set and RAISES counts; a raise that finds PEND set also counts in MERGES. -/
def Source.raised (x : Source) : Source :=
  { x with
    pend := true, raises := inc x.raises, merges := if x.pend then inc x.merges else x.merges,
    mark := if x.pend then x.mark else x.merges }

/-- Source k raised; a number beyond the table raises nothing, nor does a module without power. -/
def State.raise (s : State) (k : Nat) : State :=
  if h : k < 1024 then (if s.brd.powered then { s with srcs := s.srcs.set k s.srcs[k].raised } else s) else s

/-- An uncorrectable word that an agent found raises the source of its bank (R321) or its Basin stack (R481). -/
def State.raiseBad (s : State) (pa : WAddr) : State :=
  match regionOf pa with
  | .plain => s.raise (400 + offsetOf pa / 4 % 64)
  | .basin => s.raise (384 + offsetOf pa / 8 % 4)
  | _ => s

/-- Every uncorrectable word among n that an agent read raises its source (R321). -/
def State.raiseBadIn (s : State) (pa : WAddr) (n : Nat) : State :=
  (List.range n).foldl (fun s k =>
    let a := pa + BitVec.ofNat 52 k
    if (s.cell a).bad then s.raiseBad a else s) s

/-! ## Free values -/

/-- The next free value, and the state after it was drawn (log 3). -/
def State.draw (s : State) : Word × State := (Config.freeWord s.free, { s with free := s.free + 1 })

/-! ## Work that may stop -/

/-- What a fault records (R315, R320). -/
structure FaultInfo where
  cls : BitVec 5
  code : BitVec 8 := 0
  preg : BitVec 4 := 0
  faddr : DAddr := 0
  fphys : WAddr := 0
  detail : Word := 0
  deriving DecidableEq, Repr

/-- Why work does not complete: a precise fault, or the unit waits and the command has to be given again. -/
inductive Stop where
  | fault (i : FaultInfo)
  | wait
  deriving DecidableEq, Repr

/-- Work on the state that may stop. -/
abbrev M := EStateM Stop State

/-- A fault raised. -/
def raise {α : Type} (i : FaultInfo) : M α := throw (.fault i)

/-- A fault raised unless a condition holds. -/
def require (c : Bool) (i : FaultInfo) : M Unit := if c then pure () else raise i

/-- A change to the state. -/
def upd (f : State → State) : M Unit := modify f

/-- A value of the state. -/
def look {α : Type} (f : State → α) : M α := do return f (← get)

/-- A free value drawn. -/
def draw : M Word := modifyGet State.draw

/-- One core read. -/
def getCore (n : CoreId) : M Core := look fun s => s.cores[n]

/-- One core changed. -/
def modCore (n : CoreId) (f : Core → Core) : M Unit := upd fun s => s.updCore n f

/-- Work done for each element of a list in turn, the results in order. -/
def mapL {α β : Type} (f : α → M β) : List α → M (List β)
  | [] => pure []
  | x :: r => do
    let y ← f x
    let l ← mapL f r
    return y :: l

/-- Work done for each element of a list in turn. -/
def eachL {α : Type} (f : α → M Unit) : List α → M Unit
  | [] => pure ()
  | x :: r => do
    f x
    eachL f r

/-- The state that work leaves, whether or not it stopped. -/
def stateOf {α : Type} (m : M α) (s : State) : State :=
  match m s with
  | .ok _ t => t
  | .error _ t => t

/-! ## Fault classes (R320) -/

abbrev clsIllegal : BitVec 5 := 1
abbrev clsForm : BitVec 5 := 2
abbrev clsInstrAlign : BitVec 5 := 3
abbrev clsAddrForm : BitVec 5 := 4
abbrev clsDigitPos : BitVec 5 := 5
abbrev clsOctetAlign : BitVec 5 := 6
abbrev clsWordAlign : BitVec 5 := 7
abbrev clsRange : BitVec 5 := 8
abbrev clsRegion : BitVec 5 := 9
abbrev clsPass : BitVec 5 := 10
abbrev clsKey : BitVec 5 := 11
abbrev clsTrans : BitVec 5 := 12
abbrev clsData : BitVec 5 := 13
abbrev clsFlow : BitVec 5 := 14
abbrev clsFp : BitVec 5 := 15
abbrev clsDecOperand : BitVec 5 := 16
abbrev clsDecData : BitVec 5 := 17
abbrev clsDecDivide : BitVec 5 := 18
abbrev clsIntDivide : BitVec 5 := 19
abbrev clsString : BitVec 5 := 20
abbrev clsJournal : BitVec 5 := 21
abbrev clsContext : BitVec 5 := 22
abbrev clsChain : BitVec 5 := 23
abbrev clsNesting : BitVec 5 := 24
abbrev clsLateStore : BitVec 5 := 25
abbrev clsFloatTrap : BitVec 5 := 26
abbrev clsMachine : BitVec 5 := 27

/-- The illegal-instruction fault (R54, R75). -/
def illegal : FaultInfo := { cls := clsIllegal }

end Sys2Proof.Machine
end

