-- ==== Sys2Proof/Machine/Send.lean ====
section
/-! DEFINITION. Routing, and the requests that leave the module over the fabric or the twin links (R450-R460). -/

namespace Sys2Proof.Machine

/-- Bit k of LB_EVT set, which raises fabric source 240 + k (R466). -/
def State.setLbEvt (s : State) (k : Nat) : State :=
  ({ s with lb := { s.lb with evt := setBit s.lb.evt k true } } : State).raise (240 + k)

/-- Coordinate d of a pair ID (R2): 0 for x, 1 for y, 2 for z. -/
def coord (p : PairId) (d : Nat) : Nat := (bits p (8 - 4 * d) 4).toNat

/-- The applied size of dimension d (R466). -/
def State.dimSize (s : State) (d : Nat) : Nat := coord s.applied.lbDim d + 1

/-- Whether a pair ID lies within the applied sizes. -/
def State.pairInDim (s : State) (p : PairId) : Bool :=
  decide (coord p 0 < s.dimSize 0) && decide (coord p 1 < s.dimSize 1) && decide (coord p 2 < s.dimSize 2)

/-- Whether dimension d has an enabled express link (R448). -/
def State.express (s : State) (d : Nat) : Bool := decide (d < 2) && bit s.applied.lbCtl d

/-- The next link toward a pair (R450), with the dimension it moves in; none at the pair itself. -/
def State.nextLink (s : State) (dst : PairId) : Option (Fin 8 × Nat) :=
  let here := s.applied.lbPair
  let step (d : Nat) : Option (Fin 8 × Nat) :=
    let S := s.dimSize d
    let delta := (coord dst d + S - coord here d) % S
    let dist := min delta (S - delta)
    if dist = 0 then none
    else if s.express d && decide (4 * dist > S) then some (Fin.ofNat 8 (6 + d), d)
    else if 2 * delta ≤ S then some (Fin.ofNat 8 (2 * d), d)
    else some (Fin.ofNat 8 (2 * d + 1), d)
  match step 0, step 1, step 2 with
  | some x, _, _ => some x
  | none, some y, _ => some y
  | none, none, z => z

/-- Whether a hop on a link from here crosses the dateline of its dimension (R451). -/
def State.dateline (s : State) (l : Fin 8) (d : Nat) : Bool :=
  let c := coord s.applied.lbPair d
  if l.val ≥ 6 then true else if l.val % 2 = 0 then c + 1 == s.dimSize d else c == 0

/-- The buffer of R461 that a packet fills. -/
def bufferOf (vc : BitVec 2) (dl : Bool) : Fin 7 := if vc = 3 then 6 else Fin.ofNat 7 (2 * vc.toNat + (if dl then 1 else 0))

/-- The slots of a packet (R454). -/
def packetSlots (p : Packet) : Nat := 1 + (p.payload.length + 2) / 4

/-- The codewords that a link keeps for replay (R445). -/
def codewordStore : Nat := 128

/-- Since when the replay store of a link is full: noted as it fills, and forgotten once it has room (R446). -/
def FabLink.noteFull (x : FabLink) (now : BitVec 64) : FabLink :=
  { x with fullSince := if x.store.length < codewordStore then none else some (x.fullSince.getD now) }

/-- Whether a packet may leave on a link: the replay store has room, and the far end has returned credits for each of its slots (R445, R461). -/
def FabLink.fits (x : FabLink) (p : Packet) : Bool :=
  decide (x.store.length < codewordStore) && decide (packetSlots p ≤ x.cred[bufferOf p.vc p.dl])

/-- The oldest held packet of a buffer, if it may leave. -/
def FabLink.head (x : FabLink) (b : Fin 7) : Option Packet := (x.held.find? fun p => bufferOf p.vc p.dl == b).filter x.fits

/-- The first of two, if there is one, else the second. -/
def orElse {α : Type} (a b : Option α) : Option α := if a.isSome then a else b

/-- The packet that leaves a link next (R461): of VC3 first, then of VC1, then of VC2 and VC0 in turn, where VC2 takes one slot in four while VC0
waits (log 41). -/
def FabLink.next (x : FabLink) : Option Packet :=
  let vc0 := orElse (x.head 0) (x.head 1)
  let vc2 := orElse (x.head 4) (x.head 5)
  let due : Bool := match vc2 with
    | some p => vc0.isNone || decide (3 * packetSlots p ≤ x.turn)
    | none => false
  orElse (x.head 6) (orElse (orElse (x.head 2) (x.head 3)) (if due then vc2 else vc0))

/-- A packet put on a link in a codeword that is kept for replay (R445), against credits of the far end (R461). -/
def FabLink.sent (x : FabLink) (now : BitVec 64) (p : Packet) : FabLink :=
  let b := bufferOf p.vc p.dl
  let turn := if p.vc = 0 then x.turn + packetSlots p else if p.vc = 2 then 0 else x.turn
  ({ x with csTx := inc x.csTx, store := x.store ++ [(inc x.csTx, p)], cred := x.cred.set b (x.cred[b] - packetSlots p),
            held := x.held.erase p, turn := turn } : FabLink).noteFull now

/-- The held packets of a link that may leave, in their order (R461). A module without power sends nothing (R500). Fuel: the packets held. -/
def State.sendHeld (s : State) (l : Fin 8) : Nat → State
  | 0 => s
  | k + 1 => match (if s.brd.powered then s.lb.links[l].next else none) with
    | none => s
    | some p =>
      ({ s with lb := { s.lb with
          out := s.lb.out ++ [{ link := some l, packet := p }], links := s.lb.links.set l (s.lb.links[l].sent s.now p) } } : State).sendHeld l k

/-- What a link holds that may leave does. -/
def State.pumpLink (s : State) (l : Fin 8) : State := s.sendHeld l s.lb.links[l].held.length

/-- A packet put on a link, where it waits for what stands before it, or handed across the twin links; a module without power sends nothing
(R500). -/
def State.emit (s : State) (l : Option (Fin 8)) (p : Packet) : State :=
  if !s.brd.powered then s else
  match l with
  | some k =>
    let x := s.lb.links[k]
    ({ s with lb := { s.lb with links := s.lb.links.set k { x with held := x.held ++ [p] } } } : State).pumpLink k
  | none => { s with lb := { s.lb with out := s.lb.out ++ [{ link := none, packet := p }] } }

/-- A packet dropped here (R453). -/
def State.dropPacket (s : State) : State :=
  ({ s with lb := { s.lb with dropCnt := inc s.lb.dropCnt } } : State).setLbEvt 12

/-- One hop of a packet that is not at its destination (R450-R452). -/
def State.route (s : State) (p : Packet) : State :=
  match s.nextLink p.dpair with
  | none => if s.ws.contact then s.emit none p else s.dropPacket
  | some (l, d) =>
    if s.lb.links[l].up then
      let base := if coord p.spair d == coord s.applied.lbPair d then false else p.dl
      s.emit (some l) { p with dl := base || s.dateline l d }
    else if p.px || !s.ws.contact then s.dropPacket
    else (({ s with lb := { s.lb with planeCnt := inc s.lb.planeCnt } } : State).setLbEvt 13).emit none { p with px := true, dl := false }

/-- Why an issuer cannot send toward a pair (R460): `some true` outside the applied sizes, `some false` both planes blocked. -/
def State.blocked (s : State) (dst : PairId) : Option Bool :=
  if !s.pairInDim dst then some true
  else match s.nextLink dst with
    | none => if s.ws.contact then none else some false
    | some (l, _) => if s.lb.links[l].up || s.ws.contact then none else some false

/-! ## CRC-32 (R207, R454) -/

/-- One bit through the register of a CRC-32 with the IEEE 802.3 generator, the lowest bit first (log 57). -/
def crcBit (r : BitVec 32) : BitVec 32 := if bit r 0 then (r >>> 1) ^^^ 0xEDB88320#32 else r >>> 1

/-- One octet through the register. -/
def crcOctet (r : BitVec 32) (b : BitVec 8) : BitVec 32 := (List.range 8).foldl (fun r _ => crcBit r) (r ^^^ b.setWidth 32)

/-- The CRC-32 of octets: the register begins with ones, and its complement is the code (log 57). -/
def crc32 (l : List (BitVec 8)) : BitVec 32 := ~~~(l.foldl crcOctet 0xFFFFFFFF#32)

/-- The octets of a word, from its highest on. -/
def wordOctets (w : Word) : List (BitVec 8) := (List.range 9).map fun i => bits w (64 - 8 * i) 8

/-- HW0 as the ECRC covers it: DL, PX and TTL are taken as zero (R454). -/
def packetHw0 (p : Packet) : Word :=
  at' p.type 68 ||| at' p.vc 66 ||| at' p.dpair 52 ||| flagAt p.dside 51 ||| at' p.spair 39 ||| flagAt p.sside 38 ||| at' p.sagent 31 |||
    at' p.eseq 15 ||| at' (BitVec.ofNat 4 (packetSlots p - 1)) 11

/-- The ECRC of a packet (R454): over HW0, HW1, the 40 reserved bits of HW2 and the payload words of every slot. -/
def packetCode (p : Packet) : BitVec 32 :=
  let words := p.payload ++ List.replicate (4 * packetSlots p - 3 - p.payload.length) 0
  crc32 (wordOctets (packetHw0 p) ++ wordOctets p.hw1 ++ List.replicate 5 0 ++ words.flatMap wordOctets)

/-- A packet with its ECRC. -/
def packetCoded (p : Packet) : Packet := { p with ecrc := packetCode p }

/-! ## Packets issued here -/

/-- A packet issued by this module (R453, LB_TX_COUNT). -/
def State.issue (s : State) (p : Packet) : State :=
  ({ s with lb := { s.lb with txCnt := inc s.lb.txCnt } } : State).route
    (packetCoded { p with spair := s.applied.lbPair, sside := s.ws.side, ttl := 24, dl := false, px := false })

/-- A packet with the fields that its sender does not set. -/
def packet (type : BitVec 4) (vc : BitVec 2) (dpair : PairId) (dside : Bool) (agent : BitVec 7) (hw1 : Word)
    (payload : List Word) : Packet :=
  { type := type, vc := vc, dl := false, px := false, dpair := dpair, dside := dside, spair := 0, sside := false,
    sagent := agent, eseq := 0, ttl := 24, hw1 := hw1, payload := payload, ecrc := 0 }

/-- The issuer's agent number (R454). -/
def ReqFor.agent : ReqFor → BitVec 7
  | .coreLoad n _ | .coreStore n _ | .event n => BitVec.ofNat 7 n.val
  | .engineLoad e _ | .engineStore e _ => BitVec.ofNat 7 (48 + e.val)
  | .unit _ => 0x62

/-- A request numbered in its ESEQ series and sent (R458). -/
def State.request (s : State) (p : Packet) (f : ReqFor) : State :=
  let ev := p.type == 3
  let isIt (x : Series) : Bool := x.pair == p.dpair && x.side == p.dside && x.events == ev
  let old : Series := (s.lb.series.find? isIt).getD
    { pair := p.dpair, side := p.dside, events := ev, next := 0, waiting := [], since := s.now, resends := 0 }
  let q := { p with eseq := old.next, sagent := f.agent, spair := s.applied.lbPair, sside := s.ws.side }
  let new : Series :=
    { old with
      next := inc old.next, waiting := old.waiting ++ [(old.next, f, q)],
      since := if old.waiting.isEmpty then s.now else old.since }
  ({ s with lb := { s.lb with series := new :: s.lb.series.filter fun x => !isIt x } } : State).issue q

/-- The pair that a remote physical word address names (R32). -/
def remotePair (pa : WAddr) : PairId := bits pa 39 12

/-- HW1 of a LOAD-REQ or STORE-REQ for nw words (R455). -/
def reqHw1 (pa : WAddr) (mask : BitVec 18) (nw : Nat) : Word :=
  at' (bits pa 36 2) 70 ||| at' (bits pa 0 36) 34 ||| at' mask 16 ||| at' (BitVec.ofNat 4 (nw - 1)) 12

/-- A LOAD-REQ for nw words at a remote address. -/
def State.sendLoad (s : State) (pa : WAddr) (nw : Nat) (f : ReqFor) : State :=
  s.request (packet 1 0 (remotePair pa) (bit pa 38) 0 (reqHw1 pa 0 nw) []) f

/-- Whether a remote address is an SRC_RAISE word (R306, R457), and its source. -/
def srcRaiseOf (pa : WAddr) : Option (BitVec 10) :=
  let o := (bits pa 0 36).toNat
  if (bits pa 36 2).toNat = 2 ∧ 0xA0000 ≤ o ∧ o < 0xA1000 ∧ o % 4 = 2 then some (BitVec.ofNat 10 ((o - 0xA0000) / 4)) else none

/-- A remote store of one word: an EVENT for an SRC_RAISE word, a STORE-REQ for any other (R457). -/
def State.sendStore (s : State) (pa : WAddr) (mask : BitVec 18) (v : Word) (f : ReqFor) : State :=
  match srcRaiseOf pa with
  | some k => if bit v 0 then s.request (packet 3 2 (remotePair pa) (bit pa 38) 0 (at' k 0) []) f else s
  | none => s.request (packet 2 0 (remotePair pa) (bit pa 38) 0 (reqHw1 pa mask 1) [v]) f

/-! ## Twin frames (R207-R209) -/

/-- Bit k of WS_EVT set, which raises twin source 224 + k (R236). -/
def State.setWsEvt (s : State) (k : Nat) : State :=
  ({ s with ws := { s.ws with evt := setBit s.ws.evt k true } } : State).raise (224 + k)

/-- One twin link replaced by a function of it. -/
def State.updTwin (s : State) (l : Fin 2) (f : TwinLink → TwinLink) : State :=
  { s with ws := { s.ws with links := s.ws.links.set l (f s.ws.links[l]) } }

/-- Bits 511:32 of a twin frame (R207). -/
def frameBits (kind : BitVec 4) (fseq fack : BitVec 8) (rtry : Bool) (pos : BitVec 16) (words : List Word) : BitVec 480 :=
  (kind.setWidth 480 <<< 476) ||| (fseq.setWidth 480 <<< 468) ||| (fack.setWidth 480 <<< 460) |||
    ((BitVec.ofBool rtry).setWidth 480 <<< 459) ||| pos.setWidth 480 |||
    (words.zipIdx).foldl (fun (a : BitVec 480) (x : Word × Nat) => a ||| (x.1.setWidth 480 <<< (376 - 72 * x.2))) 0

/-- The CRC of a twin frame (R207), over its octets from bits 511:504 on. -/
def frameCrc (kind : BitVec 4) (fseq fack : BitVec 8) (rtry : Bool) (pos : BitVec 16) (words : List Word) : BitVec 32 :=
  let v := frameBits kind fseq fack rtry pos words
  crc32 ((List.range 60).map fun i => bits v (472 - 8 * i) 8)

/-- The frames that a link holds for replay (R209). -/
abbrev replayStore : Nat := 128

/-- Whether a link in service has room in its replay store. -/
def State.twinRoom (s : State) (l : Fin 2) : Bool :=
  s.ws.links[l].up && s.brd.powered && decide (s.ws.links[l].store.length < replayStore)

/-- Since when a replay store is full: noted as it fills, and forgotten once it has room (R209). -/
def TwinLink.noteFull (t : TwinLink) (now : BitVec 64) : TwinLink :=
  { t with fullSince := if t.store.length < replayStore then none else some (t.fullSince.getD now) }

/-- A frame as it goes on a link: with the FACK and RTRY of now, and its CRC (R207). -/
def SentFrame.stamp (x : SentFrame) (fack : BitVec 8) (rtry : Bool) : SentFrame :=
  { x with fack := fack, rtry := rtry, crc := frameCrc x.kind x.fseq fack rtry x.pos x.words }

/-- A frame sent on a link in service that has room for it, numbered and kept for replay (R207, R209). -/
def State.sendFrame (s : State) (l : Fin 2) (kind : BitVec 4) (pos : BitVec 16) (words : List Word) : State :=
  if s.twinRoom l then
    let t := s.ws.links[l]
    let fr : SentFrame :=
      { link := l, kind := kind, fseq := inc t.tx, fack := 0, rtry := false, pos := pos, words := words, crc := 0, replays := 0 }
    let fr := fr.stamp t.rx t.rtry
    let s := s.updTwin l fun t => ({ t with tx := inc t.tx, rtry := false, store := t.store ++ [fr] } : TwinLink).noteFull s.now
    { s with ws := { s.ws with out := s.ws.out ++ [fr] } }
  else s

/-- The first link in service. -/
def State.twinLink (s : State) : Option (Fin 2) := if s.ws.links[0].up then some 0 else if s.ws.links[1].up then some 1 else none

/-- The link with room that the next frame goes on: the one whose turn it is, else the other (R210). -/
def State.freeTwin (s : State) : Option (Fin 2) :=
  if s.twinRoom s.ws.txLink then some s.ws.txLink else if s.twinRoom (1 - s.ws.txLink) then some (1 - s.ws.txLink) else none

/-- The waiting frames that find room, in order (R209). Fuel: the frames that wait. -/
def State.pumpQueue (s : State) : Nat → State
  | 0 => s
  | k + 1 =>
    match s.ws.queue, s.twinLink with
    | f :: r, some l =>
      if s.twinRoom l then
        (({ s with ws := { s.ws with queue := r } } : State).sendFrame l f.kind f.pos f.words).pumpQueue k
      else s
    | _, _ => s

/-- A frame sent on the first link in service, after the frames that wait; it waits while that link has no room. -/
def State.sendFirst (s : State) (kind : BitVec 4) (pos : BitVec 16) (words : List Word) : State :=
  if s.twinLink.isNone then s
  else
    let s : State := { s with ws := { s.ws with queue := s.ws.queue ++ [{ kind := kind, pos := pos, words := words }] } }
    s.pumpQueue s.ws.queue.length

/-- A frame sent on every link in service (R211, R214). -/
def State.sendBoth (s : State) (kind : BitVec 4) (words : List Word) : State :=
  (s.sendFrame 0 kind 0 words).sendFrame 1 kind 0 words

/-- Six words of a payload, the rest zero. -/
def six (l : List Word) : List Word := l.take 6 ++ List.replicate (6 - l.length) 0

/-- The Watershed asks the twin for a poisoned word (R229), unless it already does. -/
def State.startHeal (s : State) (off : BitVec 24) : State :=
  if s.ws.heals.any fun h => h.off == off then s
  else ({ s with ws := { s.ws with heals := s.ws.heals ++ [{ off := off, since := s.now, data := none }] } } : State).sendFirst 4 0
    (six [off.setWidth 72])

/-- Whether the Watershed can heal a word: only in the regions of R229, and not on a solo module (R169). -/
def State.canHeal (s : State) (pa : WAddr) : Bool := regionOf pa == .plain && s.healable (offsetOf pa) && s.ws.role != 3

end Sys2Proof.Machine
end

