-- ==== Sys2Proof/Machine/Xlate.lean ====
section
/-! DEFINITION. Translation (R268-R288) and the checks on one memory operand (R62, R242-R245). -/

namespace Sys2Proof.Machine

/-! ## Deterministic charges (R345-R350) -/

/-- Whether a core runs in deterministic mode (R48). -/
def Core.det (c : Core) : Bool := bit c.st 58

/-- The current level of a core (R48). -/
def Core.lvl (c : Core) : BitVec 3 := bits c.st 55 3

/-- Steps charged to the instruction in progress while DET is 1 (R349). -/
def Core.charge (k : Nat) (c : Core) : Core := if c.det then { c with detPend := c.detPend + BitVec.ofNat 64 k } else c

/-- A departure from fixed cost (R350) while DET is 1. -/
def Core.depart (c : Core) : Core := if c.det then { c with detVar := inc c.detVar } else c

/-- The charge of one access to a physical word in deterministic mode: D for the local Plain (R345), the actual length, a free
value, and a departure for any other word (R348). -/
def chargeAccess (n : CoreId) (pa : WAddr) : M Unit := do
  let c ← getCore n
  if c.det then
    match regionOf pa with
    | .plain => modCore n (Core.charge 48)
    | _ => do
      let f ← draw
      modCore n fun c => ({ c with detPend := c.detPend + bits f 0 64 } : Core).depart
  else pure ()

/-- The charge of an instruction in progress enters DET_STEPS as it completes (R349). One that has waited past its budget is charged its actual
length, a free value, and departs from fixed cost (R345, R350, R352). So is one whose routine is patched and takes longer than its tabulated count
(R375): which routines form the address of a match register, and how long their patch takes, are free (log 47). -/
def State.settleCharge (s : State) (n : CoreId) : State :=
  let flush (x : BitVec 64) (c : Core) : Core := { c with detSteps := c.detSteps + c.detPend + x, detPend := 0, late := false }
  let patched := s.cores[n].det && s.cores[n].matchRegs.toList.any fun r => r.en
  if s.cores[n].late || patched then
    let (f, s) := s.draw
    if s.cores[n].late || bit f 71 then s.updCore n fun c => (flush (bits f 0 64) c).depart else s.updCore n (flush 0)
  else s.updCore n (flush 0)

/-! ## The walk -/

/-- Where a walk stopped (R275): the cause, the level and the physical address recorded. -/
structure WalkStop where
  cause : BitVec 8
  level : Nat
  addr : WAddr
  deriving DecidableEq, Repr

/-- What a walk found, the table entries a walk cache can keep, and the words it read. -/
structure WalkOut where
  res : Except WalkStop TlbEnt
  cached : List WalkEnt
  reads : List WAddr

/-- The index of a virtual word address at level L (R268). -/
def walkIdx (L : Nat) (va : WAddr) : Nat := va.toNat / 2 ^ (9 + 9 * L) % (if L = 4 then 128 else 512)

/-- FRAME as a physical word address (R269). -/
def entFrame (e : Word) : WAddr := (bits e 22 43).setWidth 52 <<< 9

/-- Whether a memory type allows the region of a FRAME (R271). -/
def typeAllows (mt : BitVec 3) (frame : WAddr) : Bool :=
  match mt.toNat, regionOf frame with
  | 0, .basin | 0, .plain | 0, .rBasin | 0, .rPlain => true
  | 1, .basin | 1, .plain | 1, .rBasin | 1, .rPlain => true
  | 2, .basin | 2, .plain => true
  | 3, .device | 3, .window | 3, .rDevice => true
  | _, _ => false

/-- The level at which a leaf of size exponent s may stand (R270). -/
def leafLevel (s : Nat) : Nat := min 4 ((s - 9) / 9)

/-- Whether a leaf at level L keeps the rules of R270 and R271. -/
def leafOk (L : Nat) (e : Word) : Bool :=
  let s := (bits e 65 6).toNat
  decide (9 ≤ s) && decide (s ≤ 52) && decide (leafLevel s = L) && decide ((entFrame e).toNat % 2 ^ s = 0)
    && typeAllows (bits e 11 3) (entFrame e)

/-- The translation that a leaf entry gives for a virtual word (R269, R279). -/
def leafEnt (space : BitVec 16) (va : WAddr) (e : Word) (addr : WAddr) : TlbEnt :=
  let s := (bits e 65 6).toNat
  { space := space, glb := bit e 8, base := va.toNat / 2 ^ s * 2 ^ s, size := s, frame := entFrame e, key := bits e 18 4,
    fp := bit e 17, acc := bits e 14 3, mt := bits e 11 3, chg := bit e 9, entry := addr, forStore := false }

/-- The bits that the entries of one group share (R274): 71:11 and 8:7. -/
def groupBits (e : Word) : Word := e &&& ~~~(0x67F : Word)

/-- The walk of R268-R274 from the table at `tbl` down from level L. -/
def State.walk (s : State) (space : BitVec 16) (va : WAddr) : Nat → WAddr → WalkOut
  | L, tbl =>
    if !isLocalMem tbl then { res := .error { cause := 3, level := L, addr := tbl }, cached := [], reads := [] }
    else
      let addr := tbl + BitVec.ofNat 52 (walkIdx L va)
      let c := s.cell addr
      let e := c.data
      let stop (k : BitVec 8) : WalkOut := { res := .error { cause := k, level := L, addr := addr }, cached := [], reads := [addr] }
      if c.bad then stop 6
      else if !bit e 71 then stop 1
      else if bit e 7 then
        match L with
        | 0 => stop 2
        | L' + 1 =>
          if bits e 65 6 != 0 || bits e 8 14 != 0 then stop 2
          else
            let r := s.walk space va L' (entFrame e)
            { r with
              cached := { space := space, level := L, idx := va.toNat / 2 ^ (9 + 9 * L), next := entFrame e } :: r.cached,
              reads := addr :: r.reads }
      else if !leafOk L e then stop 2
      else
        let r := 2 ^ ((bits e 65 6).toNat - 9 - 9 * L)
        let head := tbl + BitVec.ofNat 52 (walkIdx L va / r * r)
        if r = 1 then { res := .ok (leafEnt space va e addr), cached := [], reads := [addr] }
        else if (s.cell head).bad then
          { res := .error { cause := 6, level := L, addr := head }, cached := [], reads := [addr, head] }
        else if groupBits (s.data head) != groupBits e then
          { res := .error { cause := 4, level := L, addr := addr }, cached := [], reads := [addr, head] }
        else { res := .ok (leafEnt space va e addr), cached := [], reads := [addr, head] }

/-! ## Translation stores -/

/-- Whether a held translation serves a virtual word in a space (R278). -/
def TlbEnt.serves (t : TlbEnt) (space : BitVec 16) (va : WAddr) : Bool :=
  (t.glb || t.space == space) && decide (t.base ≤ va.toNat) && decide (va.toNat < t.base + 2 ^ t.size)

/-- The held translation that serves a virtual word. -/
def tlbFind (l : List TlbEnt) (space : BitVec 16) (va : WAddr) : Option TlbEnt := l.find? fun t => t.serves space va

/-- Whether two translations could match in one space and overlap (R279). -/
def TlbEnt.overlaps (a b : TlbEnt) : Bool :=
  (a.glb || b.glb || a.space == b.space) && decide (a.base < b.base + 2 ^ b.size) && decide (b.base < a.base + 2 ^ a.size)

/-- Whether two overlapping translations conflict (R279). -/
def TlbEnt.conflicts (a b : TlbEnt) : Bool :=
  a.overlaps b &&
    !(a.base == b.base && a.size == b.size && a.frame == b.frame && a.key == b.key && a.fp == b.fp && a.acc == b.acc && a.mt == b.mt)

/-- One more entry in a store of `ways` places for each set; when the set of the new entry is full a free value picks the one that leaves. -/
def addWays {α : Type} (ways : Nat) (set : α → Nat) (pick : Nat) (x : α) (l : List α) : List α :=
  let mine (y : α) : Bool := set y == set x
  if (l.filter mine).length < ways then x :: l
  else
    let k := Config.victim pick (l.filter mine).length % ways
    x :: l.filter (fun y => !mine y) ++ (l.filter mine).eraseIdx k

/-- One more entry in a store in which any entry may stand anywhere. -/
def addCapped {α : Type} (cap : Nat) (pick : Nat) (x : α) (l : List α) : List α := addWays cap (fun _ => 0) pick x l

/-- The set of the quad TLB in which a translation stands (R279): 2,048 entries, 8-way; the sets take the pages in turn (log 44). -/
def TlbEnt.quadSet (t : TlbEnt) : Nat := t.base / 512 % 256

/-- A translation taken into a store (R279): none when it conflicts, and then the store has dropped both. -/
def tlbAdd (ways : Nat) (set : TlbEnt → Nat) (t : TlbEnt) (l : List TlbEnt) : List TlbEnt × Bool :=
  if l.any t.conflicts then (l.filter fun u => !t.conflicts u, true)
  else (addWays ways set t.base t (l.filter fun u => !(u.overlaps t && u.space == t.space)), false)

/-- Who translates, and under which root: a core's fetch, first or second operand stream; an engine; or a job of the host
interface, which uses no translation store (log 8). -/
inductive Xl where
  | core (n : CoreId) (stream : Fin 3)
  | engine (e : EngId)
  | job (space : BitVec 16) (troot : WAddr)
  deriving DecidableEq, Repr

/-- The root word and the space in force for an agent (R281; for an engine those of its program). -/
def State.rootOf (s : State) : Xl → WAddr × BitVec 16
  | .core n _ => if bit s.cores[n].active 17 then (0, s.cores[n].space) else (s.cores[n].troot, s.cores[n].space)
  | .engine e => match s.engines[e].running with
    | some p => (p.troot, p.space)
    | none => (0, 0)
  | .job sp tr => (tr, sp)

/-- The quad whose TLB and walk cache serve an agent. -/
def Xl.quad : Xl → Option QuadId
  | .core n _ => some (quadOf n)
  | .engine e => some (engQuad e)
  | .job _ _ => none

/-- The translations that an agent's own store holds. -/
def State.ownTlb (s : State) : Xl → List TlbEnt
  | .core n i => if i = 0 then s.cores[n].itlb else s.cores[n].dtlb
  | .engine e => s.engines[e].tlb
  | .job _ _ => []

/-- An agent's own store replaced. -/
def State.setOwnTlb (s : State) (l : List TlbEnt) : Xl → State
  | .core n i => s.updCore n fun c => if i = 0 then { c with itlb := l } else { c with dtlb := l }
  | .engine e => s.updEng e fun c => { c with tlb := l }
  | .job _ _ => s

/-- The capacity of an agent's own store (R279). -/
def Xl.cap : Xl → Nat
  | .core _ i => if i = 0 then 32 else 64
  | .engine _ => 16
  | .job _ _ => 0

/-- The fault of a stopped translation (R275, R320). -/
def transFault (cause : BitVec 8) (level : Nat) (addr : WAddr) (preg : BitVec 4) (fa : DAddr) : FaultInfo :=
  { cls := clsTrans, code := cause, preg := preg, faddr := fa, fphys := addr, detail := BitVec.ofNat 72 level }

/-- CONFLICT_COUNT of a core (R281). -/
def countConflict : Xl → M Unit
  | .core n _ => modCore n fun c => { c with conflictCnt := inc c.conflictCnt }
  | _ => pure ()

/-- The table entry from which a walk starts, and its level: the deepest one that the walk cache supplies, else the root. -/
def walkStart (l : List WalkEnt) (space : BitVec 16) (va : WAddr) (root : WAddr) : Nat × WAddr :=
  match [1, 2, 3, 4].findSome? fun L =>
      (l.find? fun e => e.space == space && e.level == L && e.idx == va.toNat / 2 ^ (9 + 9 * L)).map fun e => (L - 1, e.next) with
  | some x => x
  | none => (4, root &&& ~~~(0x1FF : WAddr))

/-- REF set in a walked entry (R283). -/
def markRef (t : TlbEnt) : M Unit := upd fun s => if bit (s.data t.entry) 10 then s else s.putEntry t.entry (setBit (s.data t.entry) 10 true)

/-- A walk in normal mode: the quad's walk cache, and the fault (R272-R281). -/
def walkNormal (x : Xl) (va : WAddr) (preg : BitVec 4) (fa : DAddr) : M TlbEnt := do
  let s ← get
  let (root, space) := s.rootOf x
  let cache := match x.quad with
    | some q => s.quads[q].walkCache
    | none => []
  let (L, tbl) := walkStart cache space va root
  let w := s.walk space va L tbl
  match x.quad with
  | some q => upd fun s => s.updQuad q fun u => { u with walkCache := w.cached.foldl (fun l e => addCapped 32 e.idx e l) u.walkCache }
  | none => pure ()
  match w.res with
  | .error e => do
    if e.cause = 6 then upd fun s => s.raiseBad e.addr
    if e.cause = 4 then countConflict x
    raise (transFault e.cause e.level e.addr preg fa)
  | .ok t => return t

/-- Whether a held translation's entry has changed in a bit other than REF, CHG and SW since the walk (R283), or can no longer be read. -/
def State.stale (s : State) (t : TlbEnt) : Bool :=
  let e := s.data t.entry
  (s.cell t.entry).bad ||
    !(bit e 71 && !bit e 7 && (bits e 65 6).toNat == t.size && entFrame e == t.frame && bits e 18 4 == t.key && bit e 17 == t.fp
      && bits e 14 3 == t.acc && bits e 11 3 == t.mt && bit e 8 == t.glb)

/-- A translation dropped from the stores that serve an agent. -/
def dropEnt (x : Xl) (t : TlbEnt) : M Unit := upd fun s =>
  let s := s.setOwnTlb ((s.ownTlb x).filter fun u => u != t) x
  match x.quad with
  | some q => s.updQuad q fun u => { u with tlb := u.tlb.filter fun v => v.entry != t.entry }
  | none => s

/-- What an agent's other stores hold of an older mapping goes once the agent has walked a newer one (R288): the other TLB of a core, and
the page registers of its other streams. -/
def State.dropOlder (s : State) (t : TlbEnt) : Xl → State
  | .core n i => s.updCore n fun c =>
      let keep (l : List TlbEnt) : List TlbEnt := l.filter fun u => !t.conflicts u
      { c with
        itlb := if i = 0 then c.itlb else keep c.itlb, dtlb := if i = 0 then keep c.dtlb else c.dtlb,
        pageRegs := c.pageRegs.map fun r => r.filter fun u => !t.conflicts u }
  | _ => s

/-- A translation taken into an agent's own store; a conflict raises CONFLICT (R279). -/
def takeOwn (x : Xl) (t : TlbEnt) (preg : BitVec 4) (fa : DAddr) : M Unit := do
  let s ← get
  let (l, c) := tlbAdd x.cap (fun _ => 0) t (s.ownTlb x)
  upd fun s => s.setOwnTlb l x
  if c then
    dropEnt x t
    countConflict x
    raise (transFault 4 (leafLevel t.size) t.entry preg fa)

/-- A walk whose result enters the quad TLB and the agent's own store; REF is set as the translation is installed (R283). -/
def walkAndKeep (x : Xl) (va : WAddr) (preg : BitVec 4) (fa : DAddr) : M TlbEnt := do
  match x with
  | .core n _ => modCore n fun c => { c with tlbMiss := inc c.tlbMiss, walkCnt := inc c.walkCnt }
  | _ => pure ()
  let t ← walkNormal x va preg fa
  match x.quad with
  | some q => do
    let s ← get
    let (l, c) := tlbAdd 8 TlbEnt.quadSet t s.quads[q].tlb
    upd fun s => s.updQuad q fun u => { u with tlb := l }
    if c then
      countConflict x
      raise (transFault 4 (leafLevel t.size) t.entry preg fa)
    takeOwn x t preg fa
    upd fun s => s.dropOlder t x
    markRef t
    return t
  | none => do
    markRef t
    return t

/-- Translation in normal mode: the agent's own store, the quad TLB, or a walk (R279). A store through a translation whose
CHG is 0 and whose entry has changed walks again (R283). -/
def xlateNormal (x : Xl) (va : WAddr) (store : Bool) (preg : BitVec 4) (fa : DAddr) : M TlbEnt := do
  let s ← get
  let space := (s.rootOf x).2
  match tlbFind (s.ownTlb x) space va with
  | some t =>
    if store && !t.chg && s.stale t then do
      dropEnt x t
      walkAndKeep x va preg fa
    else return t
  | none =>
    match x.quad with
    | none => walkAndKeep x va preg fa
    | some q =>
      match tlbFind s.quads[q].tlb space va with
      | none => walkAndKeep x va preg fa
      | some t =>
        if store && !t.chg && s.stale t then do
          dropEnt x t
          walkAndKeep x va preg fa
        else do
          takeOwn x t preg fa
          return t

/-- Translation in deterministic mode, through the page register of the stream (R346). A register remembers whether its walk served a store, and
in `chg` whether CHG has been set through it. -/
def xlateDet (n : CoreId) (i : Fin 3) (va : WAddr) (store : Bool) (preg : BitVec 4) (fa : DAddr) : M TlbEnt := do
  let s ← get
  let c := s.cores[n]
  let held := match c.pageRegs[i] with
    | some t => if decide (t.base ≤ va.toNat) && decide (va.toNat < t.base + 2 ^ t.size) && !(store && !t.chg && s.stale t)
        then some t else none
    | none => none
  match held with
  | some t => return t
  | none => do
    let w := s.walk c.space va 4 (c.troot &&& ~~~(0x1FF : WAddr))
    modCore n fun c => ({ c with walkCnt := inc c.walkCnt } : Core).charge 2
    eachL (chargeAccess n) w.reads
    match w.res with
    | .error e => do
      if e.cause = 6 then upd fun s => s.raiseBad e.addr
      if e.cause = 4 then countConflict (.core n i)
      raise (transFault e.cause e.level e.addr preg fa)
    | .ok t => do
      chargeAccess n t.entry
      upd fun s => s.putEntry t.entry (setBit (s.data t.entry) 10 true)
      let t := { t with chg := false, forStore := store }
      upd fun s => s.dropOlder t (.core n i)
      modCore n fun c => { c with pageRegs := c.pageRegs.set i (some t) }
      return t

/-- The translation of every address while TROOT.EN is 0 (R282). -/
def flatEnt (va : WAddr) : TlbEnt :=
  { space := 0, glb := true, base := va.toNat, size := 0, frame := va, key := 0, fp := false, acc := 7,
    mt := match regionOf va with
      | .device | .window | .rDevice => 3
      | _ => 0,
    chg := true, entry := 0, forStore := false }

/-- The translation of a virtual word for an agent (R268-R283). -/
def xlate (x : Xl) (va : WAddr) (store : Bool) (preg : BitVec 4) (fa : DAddr) : M TlbEnt := do
  let s ← get
  if !bit (s.rootOf x).1 0 then return flatEnt va
  else match x with
    | .core n i => if s.cores[n].det then xlateDet n i va store preg fa else xlateNormal x va store preg fa
    | _ => xlateNormal x va store preg fa

/-- The physical word of a virtual word under a translation. -/
def TlbEnt.phys (t : TlbEnt) (va : WAddr) : WAddr := t.frame + BitVec.ofNat 52 (va.toNat % 2 ^ t.size)

/-- CHG set in an entry. -/
def State.setChg (s : State) (t : TlbEnt) : State :=
  if bit (s.data t.entry) 9 then s else s.putEntry t.entry (setBit (s.data t.entry) 9 true)

/-- A held translation once CHG has been set through its entry. -/
def TlbEnt.marked (t u : TlbEnt) : TlbEnt := if u.entry == t.entry then { u with chg := true } else u

/-- CHG set through a translation outside deterministic mode, and noted in the stores that hold it. An entry that no longer holds what the walk
read is not written, and its translation is dropped (R283). -/
def setChgBy (x : Xl) (t : TlbEnt) : M Unit := do
  if (← get).stale t then dropEnt x t
  else
    upd fun s => (s.setChg t).setOwnTlb ((s.ownTlb x).map t.marked) x
    match x.quad with
    | some q => upd fun s => s.updQuad q fun u => { u with tlb := u.tlb.map t.marked }
    | none => pure ()

/-- CHG is set the first time a store passes all its tests (R283). In deterministic mode the page register says whether CHG has been set
through it: a walk for a store sets it with REF, and a register walked for a load pays 1 + D at its first store (R346). -/
def markChg (x : Xl) (t : TlbEnt) : M Unit :=
  if t.chg then pure ()
  else match x with
    | .core n i => do
      let c ← getCore n
      if !c.det then setChgBy x t
      else if c.pageRegs[i].any fun u => u.entry == t.entry && u.chg then pure ()
      else do
        if !t.forStore then
          modCore n (Core.charge 1)
          chargeAccess n t.entry
        upd fun s => s.setChg t
        modCore n fun c => { c with pageRegs := c.pageRegs.map (Option.map t.marked) }
    | _ => setChgBy x t

/-! ## Passes (R237-R245) -/

def PassReg.base (p : PassReg) : Nat := (bits p.w0 20 52).toNat
/-- LEN, where 0 encodes 2^52 (R237). -/
def PassReg.len (p : PassReg) : Nat := if bits p.w1 20 52 = 0 then 2 ^ 52 else (bits p.w1 20 52).toNat
def PassReg.perm (p : PassReg) : BitVec 12 := bits p.w0 8 12
def PassReg.key (p : PassReg) : BitVec 4 := bits p.w0 4 4
def PassReg.sealed (p : PassReg) : Bool := bit p.w0 3
def PassReg.isGlobal (p : PassReg) : Bool := bit p.w0 2
def PassReg.isLocal (p : PassReg) : Bool := bit p.w0 1
def PassReg.shadow (p : PassReg) : Bool := bit p.w0 0
def PassReg.sealType (p : PassReg) : BitVec 16 := bits p.w1 4 16

abbrev permLoad : BitVec 12 := 0x800
abbrev permStore : BitVec 12 := 0x400
abbrev permExec : BitVec 12 := 0x200
abbrev permLoadPass : BitVec 12 := 0x100
abbrev permStorePass : BitVec 12 := 0x080
abbrev permPost : BitVec 12 := 0x040
abbrev permJournal : BitVec 12 := 0x020
abbrev permDevice : BitVec 12 := 0x010
abbrev permSeal : BitVec 12 := 0x008
abbrev permUnseal : BitVec 12 := 0x004
abbrev permEnter : BitVec 12 := 0x002
abbrev permPatch : BitVec 12 := 0x001

/-- Whether a pass grants every permission of a mask. -/
def PassReg.grants (p : PassReg) (m : BitVec 12) : Bool := p.perm &&& m == m

/-- A pass fault (R244). -/
def passFault (cause : BitVec 8) (preg : BitVec 4) (fa : DAddr) : FaultInfo :=
  { cls := clsPass, code := cause, preg := preg, faddr := fa }

/-- What kind of access an operand makes; it decides the ACC bits, the key test and the region rules. -/
inductive Acc where
  /-- LDW and STW, and the whole-word transfers of a channel engine: whole words of device control are allowed (R37, R52). -/
  | ldw
  | stw
  /-- Loads of any positions. -/
  | load
  /-- Stores of any positions. -/
  | store
  /-- Loads and stores of one operand, as a decimal instruction makes of operand 1. -/
  | update
  /-- Both (CASW, SWPW, FADW), only in the local Plain and Basin (R64). -/
  | atomic
  /-- A pass load. -/
  | loadPass
  /-- A pass store: outside the local Plain and Basin the pass fault REGION (R241). -/
  | storePass
  /-- Instruction fetch. -/
  | fetch
  /-- The loads of POST and COMMIT: only the local Plain and Basin (R147, R191). -/
  | post
  /-- The store of POST to H2 or of COMMIT to C1 (R148, R245). -/
  | postSlot
  /-- A shadow-stack push and pop (R259). -/
  | push
  | pop
  deriving DecidableEq, Repr

/-- The ACC bits that an access needs (R276). -/
def Acc.needs : Acc → BitVec 3
  | .ldw | .load | .loadPass | .pop | .post => 4
  | .stw | .store | .storePass | .postSlot => 2
  | .update | .atomic | .push => 6
  | .fetch => 1

/-- Whether the key test takes the access as a store (R245). -/
def Acc.isStore : Acc → Bool
  | .ldw | .load | .loadPass | .fetch | .pop | .post => false
  | _ => true

/-- One word of an operand after its checks: the virtual word, the digit address of its first position, the mask, the
physical word and the translation. -/
structure WordRef where
  va : WAddr
  fa : DAddr
  mask : BitVec 18
  pa : WAddr
  ent : TlbEnt
  deriving DecidableEq, Repr

/-- The key test of R245. -/
def keyOk (pk : BitVec 4) (t : TlbEnt) (store : Bool) : Bool := pk == 0 || pk == t.key || (!store && !t.fp)

/-- The region rules of check 6 of R62 for one word (R36, R37, R64, R139, R147, R177, R191, R241, R260, R425, R470). `core` is the
core that accesses, for the rule of R52 on control-word blocks. -/
def State.regionFault (s : State) (core : Option CoreId) (a : Acc) (mask : BitVec 18) (t : TlbEnt) (pa : WAddr)
    (preg : BitVec 4) (fa : DAddr) : Option FaultInfo :=
  let range : FaultInfo := { cls := clsRange, faddr := fa }
  let region : FaultInfo := { cls := clsRegion, faddr := fa, fphys := pa }
  let r := regionOf pa
  let remote := bit pa 51
  -- Accesses that only the local Plain and Basin take; the target of any other remote access tests its offset itself (R36).
  let offMem := a == .atomic || a == .post || a == .postSlot || a == .push || a == .pop || a == .storePass
  if !s.populated pa && (!remote || offMem || (a == .fetch && r != .rBasin && r != .rPlain)) then some range
  else if (r == .basin || r == .plain) then
    if a.isStore && a != .push && t.mt == 2 then some (passFault 9 preg fa)
    else if a.isStore && r == .plain && s.guarded (offsetOf pa) then some region
    else none
  else if a == .storePass then some (passFault 8 preg fa)
  else if offMem then some region
  else if a == .fetch then (if remote && (r == .rBasin || r == .rPlain) then none else some region)
  else if remote then
    (if r == .rDevice && s.populated pa && (mask != maskAll || !(a == .ldw || a == .stw)) then some region else none)
  else if r == .window then
    (if a.isStore then
      match s.aperture (offsetOf pa) with
      | some (ap, _) => if bit ap.ctl 45 then none else some region
      | none => some range
    else none)
  else if mask != maskAll || !(a == .ldw || a == .stw) then some region
  else if a.isStore then
    let o := offsetOf pa
    let own := match core with
      | some n => decide (o < 0xC0000) || decide (0xC3000 ≤ o) || decide (o / 256 = 0xC00 + n.val)
      | none => decide (o < 0xC0000) || decide (0xC3000 ≤ o)
    if own then none else some region
  else none

/-- The tests on one word of an operand once it is translated: ACCESS (R276), then the key test and the DEVICE permission (R243). -/
def checkEnt (p : PassReg) (preg : BitVec 4) (a : Acc) (va : WAddr) (mask : BitVec 18) (fa : DAddr) (t : TlbEnt) : M WordRef := do
  require (t.acc &&& a.needs == a.needs) (transFault 5 (leafLevel t.size) t.entry preg fa)
  let s ← get
  let pa := s.localise (t.phys va)
  require (keyOk p.key t a.isStore)
    { cls := clsKey, preg := preg, faddr := fa, fphys := pa, detail := at' p.key 4 ||| at' t.key 0 }
  match regionOf pa with
  | .device | .window | .rDevice => require (p.grants permDevice) (passFault 3 preg fa)
  | _ => pure ()
  return { va := va, fa := fa, mask := mask, pa := pa, ent := t }

/-- The core that an agent is, for the rule of R52. -/
def Xl.coreOf : Xl → Option CoreId
  | .core n _ => some n
  | _ => none

/-- Check 6 of R62 on one word. -/
def checkRegion (x : Xl) (preg : BitVec 4) (a : Acc) (r : WordRef) : M Unit := do
  let s ← get
  match s.regionFault x.coreOf a r.mask r.ent r.pa preg r.fa with
  | some i => raise i
  | none => pure ()

/-- Check 5 of R62 and the tests of R243 on one word of an operand under a pass. -/
def checkXlate (x : Xl) (p : PassReg) (preg : BitVec 4) (a : Acc) (va : WAddr) (mask : BitVec 18) (fa : DAddr) : M WordRef := do
  let t ← xlate x va a.isStore preg fa
  checkEnt p preg a va mask fa t

/-- Checks 5 and 6 of R62 and the tests of R243 on one word. -/
def checkWord (x : Xl) (p : PassReg) (preg : BitVec 4) (a : Acc) (va : WAddr) (mask : BitVec 18) (fa : DAddr) : M WordRef := do
  let r ← checkXlate x p preg a va mask fa
  checkRegion x preg a r
  return r

/-- The first position of each word of a field. -/
def firstPos (da : DAddr) (va : WAddr) : DAddr := if va == daWord da then da else daOf va 0

/-- Whether a pass covers a word of an operand that starts at word `first` (R242, test 5); a word past 2^52 - 1 lies in no pass. -/
def PassReg.covers (p : PassReg) (first w : WAddr) : Bool :=
  decide (p.base ≤ first.toNat + (w - first).toNat) && decide (first.toNat + (w - first).toNat < p.base + p.len)

/-- The pass tests of R242 over an operand of n positions at da. -/
def passTests (p : PassReg) (preg : BitVec 4) (need : BitVec 12) (a : Acc) (da : DAddr) (words : List (WAddr × BitVec 18)) : M Unit := do
  require p.valid (passFault 1 preg da)
  require (!p.sealed) (passFault 2 preg da)
  require (!(a.isStore && p.shadow)) (passFault 9 preg da)
  require (p.grants need) (passFault 3 preg da)
  match words.find? fun w => !p.covers (daWord da) w.1 with
  | some w => raise (passFault 4 preg (firstPos da w.1))
  | none => pure ()

/-- The checks of R62 from translation on over the words of an operand: every translation and key before any region rule. -/
def checkWords (x : Xl) (p : PassReg) (preg : BitVec 4) (a : Acc) (da : DAddr) (ws : List (WAddr × BitVec 18)) : M (List WordRef) := do
  let rs ← mapL (fun w => checkXlate x p preg a w.1 w.2 (firstPos da w.1)) ws
  eachL (checkRegion x preg a) rs
  return rs

/-- Checks 4 to 6 of R62 over an operand of n positions at da under a pass. -/
def checkField (x : Xl) (p : PassReg) (preg : BitVec 4) (need : BitVec 12) (a : Acc) (da : DAddr) (n : Nat) : M (List WordRef) := do
  let ws := fieldWords n da n
  passTests p preg need a da ws
  checkWords x p preg a da ws

/-- The tests of R242, R62 and R243 on the words of an operand one word at a time, as a channel engine makes them (R243, R390). -/
def checkByWord (x : Xl) (p : PassReg) (preg : BitVec 4) (need : BitVec 12) (a : Acc) (da : DAddr) (n : Nat) : M (List WordRef) :=
  mapL (fun w => do
    passTests p preg need a (firstPos da w.1) [w]
    checkWord x p preg a w.1 w.2 (firstPos da w.1)) (fieldWords n da n)

end Sys2Proof.Machine
end

