-- ==== Sys2Proof/Machine/Mem.lean ====
section
/-! DEFINITION. Memory accesses of a core: the store buffer, late store errors, loads and stores of checked words
(R36-R41, R322, R336-R340, R456). -/

namespace Sys2Proof.Machine

/-- A late store error (R322): the first is recorded with its address, a further one sets MULT, and each raises the core's
late-store source. -/
def State.lateStore (s : State) (n : CoreId) (cause : BitVec 8) (pa : WAddr) : State :=
  (s.updCore n fun c =>
    let c := { c with lseCnt := inc c.lseCnt }
    if bit c.lseStat 71 then { c with lseStat := setBit c.lseStat 70 true }
    else { c with lseStat := flagAt true 71 ||| flagAt (bit c.lseStat 70) 70 ||| at' cause 0, lseAddr := pa }).raise (466 + 4 * n.val)

/-- The positions of a word that a store-buffer entry covers (R337). -/
def SbEnt.maskAt (e : SbEnt) (pa : WAddr) : BitVec 18 :=
  match e.pass with
  | some _ => if e.pa == pa || e.pa + 1 == pa then maskAll else 0
  | none => if e.pa == pa then e.mask else 0

/-- The data that a store-buffer entry holds for a word. -/
def SbEnt.dataAt (e : SbEnt) (pa : WAddr) : Word :=
  match e.pass with
  | some (w1, _) => if e.pa == pa then e.data else w1
  | none => e.data

/-- The aligned 8-word line of a physical word. -/
def lineOf (pa : WAddr) : WAddr := pa &&& ~~~(7 : WAddr)

/-- The set of the L1 (8 KiW, 8-way) and of the L2 (256 KiW, 16-way) in which a line stands (R3, R336): the sets take the lines in turn (log 44). -/
def l1Set (line : WAddr) : Nat := line.toNat / 8 % 128
def l2Set (line : WAddr) : Nat := line.toNat / 8 % 2048

/-- An access of a core to a line of the local Plain or Basin through its L1 (R329, R336): a line that the L1 lacks arrives by way of the quad's L2,
and L1_MISS_COUNT counts it. In deterministic mode the core does not use its L1 (R344). -/
def State.touchLine (s : State) (n : CoreId) (pa : WAddr) : State :=
  let line := lineOf pa
  let c := s.cores[n]
  if c.det || c.l1.contains line then s
  else
    (s.updQuad (quadOf n) fun q => { q with l2 := if q.l2.contains line then q.l2 else addWays 16 l2Set line.toNat line q.l2 }).updCore n fun c =>
      { c with l1miss := inc c.l1miss, l1 := addWays 8 l1Set line.toNat line c.l1 }

/-- A store of a core to a remote word (R456, R457, R460): it updates the quad's copy (R462). -/
def State.storeRemote (s : State) (n : CoreId) (pa : WAddr) (m : BitVec 18) (v : Word) : State :=
  let line := lineOf pa
  let s := s.updQuad (quadOf n) fun q =>
    { q with remote := mapIf (fun e => e.1 == line) (fun e => (e.1, e.2.modify (pa &&& 7).toNat (merge m v))) q.remote }
  match s.blocked (remotePair pa) with
  | some true => s.lateStore n 1 pa
  | some false => (({ s with lb := { s.lb with undeliv := inc s.lb.undeliv } } : State).setLbEvt 11).lateStore n 3 pa
  | none => s.sendStore pa m v (.coreStore n pa)

/-- The aperture of a host-window word (R424). -/
def apertureOf (pa : WAddr) : Fin 64 := Fin.ofNat 64 (offsetOf pa / 2 ^ 40)

/-- A store to a host-window word (R38-R40); part of a word leaves the other positions as they are. -/
def State.storeWindow (s : State) (pa : WAddr) (m : BitVec 18) (v : Word) : State :=
  match s.aperture (offsetOf pa) with
  | some (a, k) => s.putAptWord a k (merge m v (s.aptWord a k))
  | none => s

/-- One more of a list of apertures that wait for a PCIe read (R71). -/
def noteAperture (pa : WAddr) (l : List (Fin 64)) : List (Fin 64) := if l.contains (apertureOf pa) then l else apertureOf pa :: l

/-- A store leaves the pipeline (R337): into memory through the L1, with POISONED when it covers only part of an uncorrectable word
(R322); or to the host window or another module, by being sent to its target. -/
def State.performStore (s : State) (n : CoreId) (e : SbEnt) : State :=
  match e.pass with
  | some (w1, v) => (s.touchLine n e.pa).putPass e.pa { w0 := e.data, w1 := w1, valid := v }
  | none =>
    match regionOf e.pa with
    | .basin | .plain =>
      let bad := (s.cell e.pa).bad && e.mask != maskAll
      let t := (s.touchLine n e.pa).putMasked e.pa e.mask e.data
      if bad then (t.raiseBad e.pa).lateStore n 5 e.pa else t
    | .window => (s.storeWindow e.pa e.mask e.data).updCore n fun c => { c with windows := noteAperture e.pa c.windows }
    | _ => s.storeRemote n e.pa e.mask e.data

/-- The oldest completed store leaves the buffer (R337). -/
def State.drainOne (s : State) (n : CoreId) : State :=
  match s.cores[n].storeBuf with
  | [] => s
  | e :: r => (s.updCore n fun c => { c with storeBuf := r }).performStore n e

/-- The k oldest stores leave in order. -/
def State.drainN (s : State) (n : CoreId) : Nat → State
  | 0 => s
  | k + 1 => (s.drainOne n).drainN n k

/-- Every store leaves in order. -/
def State.drainAll (s : State) (n : CoreId) : State := s.drainN n s.cores[n].storeBuf.length

/-- How many of the oldest entries must leave before none touches the positions `m` of a word. -/
def drainCount (pa : WAddr) (m : BitVec 18) : List SbEnt → Nat
  | [] => 0
  | e :: r =>
    let k := drainCount pa m r
    if k > 0 then k + 1 else if e.maskAt pa &&& m != 0 then 1 else 0

/-- The wait of R338 item 3, which PARTIAL_WAIT_COUNT counts. -/
def partialWait (n : CoreId) (pa : WAddr) (m : BitVec 18) : M Unit := upd fun s =>
  (s.drainN n (drainCount pa m s.cores[n].storeBuf)).updCore n fun c => { c with partialWait := inc c.partialWait }

/-- The data-error fault (R321). -/
def dataFault (fa : DAddr) (pa : WAddr) : FaultInfo := { cls := clsData, faddr := fa, fphys := pa }

/-- The fault that a response status stands for at the issuer of a load (R456, R458). -/
def statusFault (st : BitVec 8) (fa : DAddr) (pa : WAddr) : FaultInfo :=
  match st.toNat with
  | 1 => { cls := clsRange, faddr := fa, fphys := pa }
  | 2 | 4 => { cls := clsRegion, faddr := fa, fphys := pa }
  | _ => dataFault fa pa

/-- One access of a core that finds an uncorrectable word: it waits while the Watershed heals the word, or raises F13 (R321). -/
def badWord {α : Type} (n : CoreId) (r : WordRef) : M α := do
  let s ← get
  match s.cores[n].arrived.find? fun a => a.pa == r.pa && a.status != 0 with
  | some _ => raise (dataFault r.fa r.pa)
  | none =>
    upd fun s => s.raiseBad r.pa
    if s.canHeal r.pa then
      upd fun s => (s.startHeal (BitVec.ofNat 24 (offsetOf r.pa))).updCore n fun c => { c with wait := some r.pa, late := c.det }
      throw .wait
    else raise (dataFault r.fa r.pa)

/-- What the store buffer gives a load of a word (R338): the youngest older entry that overlaps it and covers all its positions gives its
value; otherwise every entry that overlaps it leaves first. A load of memory type 1 or 3 takes nothing, and waits for every entry of its word. -/
def fromBuffer (n : CoreId) (r : WordRef) : M (Option Word) := do
  let c ← getCore n
  let takes := r.ent.mt != 1 && r.ent.mt != 3
  let m := if takes then r.mask else maskAll
  match (c.storeBuf.filter fun e => e.maskAt r.pa &&& m != 0).getLast? with
  | some e =>
    if takes && e.maskAt r.pa &&& m == m then return some (e.dataAt r.pa)
    else do
      partialWait n r.pa m
      return none
  | none => return none

/-- A word of the local Plain or Basin as a core's load sees it: its own buffered stores first (R338), else through the L1. -/
def loadLocal (n : CoreId) (r : WordRef) : M Word := do
  match ← fromBuffer n r with
  | some w => return w
  | none => do
    if r.ent.mt != 1 then upd fun s => s.touchLine n r.pa
    let s ← get
    if (s.cell r.pa).bad then badWord n r else return s.data r.pa

/-- A word that a quad caches from another module (R462). -/
def Quad.cached (q : Quad) (pa : WAddr) : Option Word :=
  let line := lineOf pa
  (q.remote.find? fun e => e.1 == line).bind fun e => e.2[(pa &&& 7).toNat]?

/-- A remote word: from the quad's copy of its line, from the response that has arrived, or by a LOAD-REQ for which the
instruction waits (R456, R460, R462). -/
def loadRemote (n : CoreId) (r : WordRef) : M Word := do
  let s ← get
  let c := s.cores[n]
  match c.arrived.find? fun a => a.pa == r.pa with
  | some a => if a.status == 0 then return a.word else raise (statusFault a.status r.fa r.pa)
  | none =>
    let cacheable := r.ent.mt == 0 && !c.det && (regionOf r.pa == .rBasin || regionOf r.pa == .rPlain)
    match (if cacheable then s.quads[quadOf n].cached r.pa else none) with
    | some w => return w
    | none =>
      match s.blocked (remotePair r.pa) with
      | some true => raise (statusFault 1 r.fa r.pa)
      | some false => do
        upd fun s => ({ s with lb := { s.lb with undeliv := inc s.lb.undeliv } } : State).setLbEvt 11
        raise (dataFault r.fa r.pa)
      | none => do
        upd fun s =>
          (if cacheable then s.sendLoad (lineOf r.pa) 8 (.coreLoad n r.pa) else s.sendLoad r.pa 1 (.coreLoad n r.pa)).updCore
            n fun c => { c with wait := some r.pa }
        throw .wait

/-- A word of the host window (R38, R426): a PCIe read, which completes the core's earlier stores to its aperture (R71). -/
def loadWindow (n : CoreId) (r : WordRef) : M Word := do
  let s ← get
  match s.cores[n].arrived.find? fun a => a.pa == r.pa && a.status != 0 with
  | some _ => raise (dataFault r.fa r.pa)
  | none =>
    match s.aperture (offsetOf r.pa) with
    | some (a, k) => do
      modCore n fun c => { c with windows := c.windows.filter fun i => i != apertureOf r.pa }
      return s.aptWord a k
    | none => raise { cls := clsRange, faddr := r.fa }

/-- A word outside the local Plain and Basin, after what the store buffer gives of it (R338). -/
def loadBeyond (n : CoreId) (r : WordRef) : M Word := do
  match ← fromBuffer n r with
  | some w => return w
  | none => if regionOf r.pa == .window then loadWindow n r else loadRemote n r

/-- The word of a checked operand word that is not device control. -/
def loadRef (n : CoreId) (r : WordRef) : M Word := do
  chargeAccess n r.pa
  match regionOf r.pa with
  | .basin | .plain => loadLocal n r
  | _ => loadBeyond n r

/-- The entries of the buffer that a store fills (R337): a pass store is two words. -/
def SbEnt.entries (e : SbEnt) : Nat := if e.pass.isSome then 2 else 1

/-- The entries in use. -/
def Core.bufferUsed (c : Core) : Nat := (c.storeBuf.map SbEnt.entries).sum

/-- Older stores leave until k more entries fit. Fuel: stores in the buffer. -/
def State.makeRoom (s : State) (n : CoreId) (k : Nat) : Nat → State
  | 0 => s
  | fuel + 1 => if s.cores[n].bufferUsed + k ≤ 32 then s else (s.drainOne n).makeRoom n k fuel

/-- A store enters the buffer; one that finds it full waits for room (R337). In deterministic mode the store is complete
before the next instruction starts (R344). -/
def State.bufferStore (s : State) (n : CoreId) (e : SbEnt) : State :=
  if s.cores[n].det then s.performStore n e
  else
    let s := if s.cores[n].bufferUsed + e.entries ≤ 32 then s
      else (s.makeRoom n e.entries s.cores[n].storeBuf.length).updCore n fun c => { c with sbFull := inc c.sbFull }
    s.updCore n fun c => { c with storeBuf := c.storeBuf ++ [e] }

/-- The access of a checked operand word that stores: `v` holds the positions of the mask in place. It leaves the buffer after every older
store, whatever its region (R337). -/
def putRef (n : CoreId) (r : WordRef) (v : Word) : M Unit := do
  chargeAccess n r.pa
  upd fun s => s.bufferStore n { pa := r.pa, mask := r.mask, data := v, pass := none }

/-- The store of a checked operand word that is not device control. -/
def storeRef (n : CoreId) (stream : Fin 3) (r : WordRef) (v : Word) : M Unit := do
  markChg (.core n stream) r.ent
  putRef n r v

/-- The pass store of a checked pair (R241). -/
def storePassRef (n : CoreId) (stream : Fin 3) (r : WordRef) (p : PassReg) : M Unit := do
  markChg (.core n stream) r.ent
  chargeAccess n r.pa
  upd fun s => s.bufferStore n { pa := r.pa, mask := maskAll, data := p.w0, pass := some (p.w1, p.valid) }

/-- The pass load of a checked pair: both words from one store (R29, R240). A buffered pass store of the pair serves it, unless its memory type
is 1 or 3; any other buffered store to the pair leaves first (R338). -/
def loadPassRef (n : CoreId) (r r1 : WordRef) : M PassReg := do
  chargeAccess n r.pa
  let c ← getCore n
  let takes := r.ent.mt != 1 && r.ent.mt != 3
  let youngest := (c.storeBuf.filter fun e => e.maskAt r.pa != 0 || e.maskAt r1.pa != 0).getLast?
  match youngest, youngest.bind fun e => if takes then e.pass else none with
  | some e, some (w1, v) => return { w0 := e.data, w1 := w1, valid := v }
  | some _, none => upd fun s =>
      (s.drainN n (max (drainCount r.pa maskAll c.storeBuf) (drainCount r1.pa maskAll c.storeBuf))).updCore n fun c =>
        { c with partialWait := inc c.partialWait }
  | none, _ => pure ()
  if r.ent.mt != 1 then upd fun s => s.touchLine n r.pa
  let s ← get
  if (s.cell r.pa).bad then badWord n r
  else if (s.cell r1.pa).bad then badWord n r1
  else return s.getPass r.pa

/-- The positions of an operand, first to last, from its loaded words. -/
def gather : List WordRef → List Word → List (BitVec 4)
  | r :: rs, w :: ws => ((List.range 18).filterMap fun p => if bit r.mask (17 - p) then some (posOf w p) else none) ++ gather rs ws
  | _, _ => []

/-- The positions of a list laid into the words of an operand, first to last. -/
def scatterPos : List WordRef → List (BitVec 4) → List Word
  | [], _ => []
  | r :: rs, l =>
    let ps := (List.range 18).filter fun p => bit r.mask (17 - p)
    (ps.zip l).foldl (fun w x => setPos w x.1 x.2) (0 : Word) :: scatterPos rs (l.drop ps.length)

/-- The positions that a checked operand holds. -/
def loadField (n : CoreId) (rs : List WordRef) : M (List (BitVec 4)) := do
  let ws ← mapL (loadRef n) rs
  return gather rs ws

/-- Positions stored to a checked operand, word by word in ascending order, once CHG is set for every word of it. -/
def storeField (n : CoreId) (stream : Fin 3) (rs : List WordRef) (l : List (BitVec 4)) : M Unit := do
  eachL (fun r => markChg (.core n stream) r.ent) rs
  eachL (fun x => putRef n x.1 x.2) (rs.zip (scatterPos rs l))

end Sys2Proof.Machine
end

