-- ==== Sys2Proof/Machine/Run.lean ====
section
/-! DEFINITION. How a core runs an instruction: the fetch checks (R59), decoding faults, the advance of the PC (R58), and taking
a fault, an event or a TRAP with the escalation rules (R310-R328). -/

namespace Sys2Proof.Machine

/-! ## The start journal's entry ring (R470, R471) -/

/-- A word of the start-journal header. -/
def hdrAddr (k : Nat) : WAddr := plainAddr (0xFF0000 + k)

/-- The unit of an E2 word (R471) has its UC_FAIL words set (R489). -/
def State.noteFail (s : State) (e2 e0 e1 : Word) : State :=
  let f (b : UnitBlock) : UnitBlock := { b with fail0 := e0, fail1 := e1 }
  let q := (bits e2 55 4).toNat
  let n := 4 * q + (bits e2 53 2).toNat
  match (bits e2 50 3).toNat with
  | 3 => if h : q < 12 then { s with sr := { s.sr with quads := s.sr.quads.set q (f s.sr.quads[q]) } } else s
  | 4 => if h : n < 48 then { s with sr := { s.sr with cores := s.sr.cores.set n (f s.sr.cores[n]) } } else s
  | _ => { s with sr := { s.sr with modBlk := f s.sr.modBlk } }

/-- An entry appended to the ring, after which NEXT advances (R471). A FAILED or fencing entry also stands in its unit's UC_FAIL words. -/
def State.journalEntry (s : State) (kind : BitVec 4) (step attempt method outcome : Nat) (detail : BitVec 24) (e2 e3 e4 e5 : Word) :
    State :=
  let next := bits (s.data (hdrAddr 3)) 0 64
  let a := plainAddr (0xFF4000 + 8 * (next.toNat % 6144))
  let e0 := at' kind 68 ||| at' (bits (s.data (hdrAddr 0)) 0 16) 48 ||| at' (BitVec.ofNat 5 step) 43
    ||| at' (BitVec.ofNat 4 attempt) 39 ||| at' (BitVec.ofNat 2 method) 37 ||| at' (BitVec.ofNat 3 outcome) 34 ||| at' detail 0
  let s := if outcome = 1 ∨ outcome = 4 then s.noteFail e2 e0 (at' s.now 8) else s
  (s.putWords a [e0, at' s.now 8, e2, e3, e4, e5, 0, 0]).putWord (hdrAddr 3) ((next + 1).setWidth 72)

/-- The unit word E2 of this module (R471): pair and side, with a quad, a core and DEPTH. -/
def State.unitWord (s : State) (quad core depth : Nat) : Word :=
  at' s.applied.lbPair 60 ||| flagAt s.ws.side 59 ||| at' (BitVec.ofNat 4 quad) 55 ||| at' (BitVec.ofNat 2 core) 53
    ||| at' (BitVec.ofNat 3 depth) 50

/-! ## Entries -/

/-- KIND of CAUSE (R315): an event, a TRAP, a fault or a double fault. -/
inductive EntryKind where
  | event | trap | fault | double
  deriving DecidableEq, Repr

/-- The KIND code (R315). -/
def EntryKind.code : EntryKind → BitVec 4
  | .event => 1 | .trap => 2 | .fault => 3 | .double => 4

/-- What an entry records beside the registers (R315). -/
structure EntryInfo where
  kind : EntryKind
  level : BitVec 3
  fault : FaultInfo
  source : BitVec 10
  merged : BitVec 32
  pc : DAddr
  instr : Word

/-- The CAUSE word (R315). -/
def causeWord (kind : BitVec 4) (cls : BitVec 5) (code : BitVec 8) (preg : BitVec 4) (tlvl : BitVec 3) (src : BitVec 10)
    (merged : BitVec 32) : Word :=
  at' kind 68 ||| at' cls 63 ||| at' code 55 ||| at' preg 51 ||| at' tlvl 48 ||| at' src 32 ||| at' merged 0

/-- A failed entry: the escalation cause and the UCLASS and UCODE of its DETAIL (R326). -/
structure EntryFail where
  code : BitVec 8
  ucls : BitVec 5
  ucode : BitVec 8

/-- The stores of a frame at its twelve physical words (R241, R314). -/
def State.storeFrame (s : State) (n : CoreId) (pas : List WAddr) (words : List Word) (p15 p14 : PassReg) : State :=
  let put (s : State) (k : Nat) : State :=
    match pas[k]? with
    | none => s
    | some pa =>
      if k = 2 then s.bufferStore n { pa := pa, mask := maskAll, data := p15.w0, pass := some (p15.w1, p15.valid) }
      else if k = 4 then s.bufferStore n { pa := pa, mask := maskAll, data := p14.w0, pass := some (p14.w1, p14.valid) }
      else s.bufferStore n { pa := pa, mask := maskAll, data := words[k]?.getD 0, pass := none }
  [0, 1, 2, 4, 6, 7, 8, 9, 10, 11].foldl put s

/-- The words of an entry frame (R315); the places of the passes hold zero here. -/
def State.frameWords (s : State) (n : CoreId) (pc : DAddr) (cause : Word) (f : FaultInfo) (instr : Word) : List Word :=
  [daReg pc, s.cores[n].st, 0, 0, 0, 0, cause, daReg f.faddr, f.fphys.setWidth 72, f.detail, instr, at' s.now 8]

/-- A core is lost (R328): its stores drain, the loss is journaled, the core is fenced and its source is raised. -/
def State.loseCore (s : State) (n : CoreId) (pc : DAddr) (cause : Word) : State :=
  let s := s.drainAll n
  let c := s.cores[n]
  let s := s.journalEntry 2 0 0 0 4 0 (s.unitWord (n.val / 4) (n.val % 4) 4) (daReg pc) c.st cause
  (s.updCore n fun c => { c with run := 4, fstep := 0, wait := none, offer := none, hold := none, detPend := 0, late := false }).raise (467 + 4 * n.val)

/-- The physical words of a frame that its stores access: a pass pair is one access (R315, R351). -/
def frameAccesses (pas : List WAddr) : List WAddr := pas.take 3 ++ (pas.drop 4).take 1 ++ pas.drop 6

/-- What every entry leaves in its core (R310, R314): the kept frame, the handler's passes, FPA 0, the vector, and nothing held for the code
that it leaves. -/
def Core.entered (c : Core) (bit_ : Nat) (pas : List WAddr) (p15 p14 : PassReg) (vec : DAddr) : Core :=
  { c with
    active := setBit c.active bit_ true, frames := { bit := BitVec.ofNat 5 bit_, addrs := pas } :: c.frames, p := (c.p.set 15 p15).set 14 p14,
    st := setBit c.st 64 false, pc := vec, fetchWord := none, hold := none, arrived := [], pageRegs := Vector.replicate 3 none }

/-- Level-E entry (R326-R328). -/
def State.escalate (s : State) (n : CoreId) (code : BitVec 8) (f : FaultInfo) (pc : DAddr) (instr : Word) : State :=
  let s := s.updCore n fun c => { c with escCnt := inc c.escCnt }
  let c := s.cores[n]
  let cause := causeWord 5 0 code f.preg c.lvl 0 0
  let pas := (List.range 12).map fun k => c.esp - 12 + BitVec.ofNat 52 k
  let refused := pas.any fun pa => regionOf pa == .plain && s.guarded (offsetOf pa)
  if bit c.active 17 || bit c.esp 0 || !rangeInMem (c.esp - 12) 12 || refused || !c.ep15.valid || !c.ep14.valid then
    s.loseCore n pc cause
  else
    let s := s.storeFrame n pas (s.frameWords n pc cause f instr) c.p[15] c.p[14]
    let s := stateOf (eachL (chargeAccess n) (frameAccesses pas)) s
    (s.updCore n fun c => c.entered 17 pas c.ep15 c.ep14 c.evec).settleCharge n

/-- One word of the level table as the core reads it (R311). -/
def tableWord (n : CoreId) (pa : WAddr) : M Word := do
  chargeAccess n pa
  upd fun s => s.touchLine n pa
  let s ← get
  if (s.cell pa).bad then
    upd fun s => s.raiseBad pa
    raise (dataFault 0 pa)
  else return s.data pa

/-- A pass of the level table (R311). -/
def tablePass (n : CoreId) (pa : WAddr) : M PassReg := do
  chargeAccess n pa
  upd fun s => s.touchLine n pa
  let s ← get
  if s.anyBad pa 2 then
    upd fun s => s.raiseBad (if (s.cell pa).bad then pa else pa + 1)
    raise (dataFault 0 pa)
  else return s.getPass pa

/-- The part of a failing step that an escalation records (R326): only these classes. -/
def uclassOf (i : FaultInfo) (code : BitVec 8) : EntryFail :=
  if i.cls = clsPass ∨ i.cls = clsKey ∨ i.cls = clsTrans ∨ i.cls = clsData ∨ i.cls = clsRegion then
    { code := code, ucls := i.cls, ucode := i.code }
  else { code := code, ucls := 0, ucode := 0 }

/-- What a step of an entry leaves: its value, or the cause with which the entry fails. -/
def entryStep {α : Type} (m : M α) (code : BitVec 8) (s : State) : Except EntryFail α × State :=
  match m s with
  | .ok a t => (.ok a, t)
  | .error (.fault i) t => (.error (uclassOf i code), t)
  | .error .wait t => (.error { code := code, ucls := clsData, ucode := 0 }, t)

/-- The words of an entry's level-table entry (R311, R314): vector, stack pointer, handler passes. -/
def readTable (n : CoreId) (k : EntryKind) (t : WAddr) : M (Word × Word × PassReg × PassReg) := do
  let v ← tableWord n (if k = .fault then t + 1 else t)
  let sp ← tableWord n (t + 2)
  let p15 ← tablePass n (t + 4)
  let p14 ← tablePass n (t + 6)
  return (v, sp, p15, p14)

/-- The handler passes' tests (R314). -/
def handlerPass (p : PassReg) (need : BitVec 12) (preg : BitVec 4) : M Unit := do
  require p.valid (passFault 1 preg 0)
  require (!p.sealed) (passFault 2 preg 0)
  require (p.grants need) (passFault 3 preg 0)

/-- The checks of the twelve frame words under the handler's P14 (R314). -/
def frameRefs (n : CoreId) (p14 : PassReg) (f : WAddr) : M (List WordRef) := do
  let ws := (List.range 12).map fun k => (f + BitVec.ofNat 52 k, maskAll)
  passTests p14 14 permStore .store (daOf f 0) ws
  let rs ← mapL (fun w => do
    let r ← checkWord (.core n 1) p14 14 .store w.1 maskAll (daOf w.1 0)
    require (isLocalMem r.pa) { cls := clsRegion, faddr := r.fa, fphys := r.pa }
    return r) ws
  eachL (fun r => markChg (.core n 1) r.ent) rs
  return rs

/-! ## Fetch (R59, R329-R331, R341, R344, R347) -/

/-- The tests of P15 on a fetch (R59, R242). -/
def fetchPass (p15 : PassReg) (pc : DAddr) : M Unit := passTests p15 15 permExec .fetch pc [(daWord pc, maskAll)]

/-- The checks of a fetch through a translation: ACCESS, key, DEVICE and region (R59, R321). -/
def fetchEnt (n : CoreId) (p15 : PassReg) (pc : DAddr) (t : TlbEnt) : M WordRef := do
  let r ← checkEnt p15 15 .fetch (daWord pc) maskAll pc t
  checkRegion (.core n 0) 15 .fetch r
  return r

/-- The checks of an instruction fetch at a PC under a program pass (R59, R321). -/
def fetchRef (n : CoreId) (p15 : PassReg) (pc : DAddr) : M WordRef := do
  fetchPass p15 pc
  let t ← xlate (.core n 0) (daWord pc) false 15 pc
  fetchEnt n p15 pc t

/-- The word that a fetch reads: of the local memory through the L1, or of another module or the twin side as a load reads it (R35, R36): R37 bars
no remote Basin or Plain from a fetch (DESIGN CHOICE, log 59). -/
def fetchData (n : CoreId) (r : WordRef) : M Word := do
  if isLocalMem r.pa then
    if r.ent.mt != 1 then upd fun s => s.touchLine n r.pa
    let s ← get
    if (s.cell r.pa).bad then badWord n r else return s.data r.pa
  else loadRemote n r

/-- The words of the line that a fetched word lies in, as they stand now: of local memory, or of the quad's copy of a remote line. -/
def State.lineWords (s : State) (n : CoreId) (pa : WAddr) : List MCell :=
  if isLocalMem pa then (List.range 8).map fun k => s.cell (lineOf pa + BitVec.ofNat 52 k)
  else match s.quads[quadOf n].remote.find? fun e => e.1 == lineOf pa with
    | some e => e.2.map fun w => { data := w, tag := false, bad := false }
    | none => []

/-- The fetched line that holds a virtual word, and its cell, while root and space are those it was fetched under. One that was uncorrectable is
fetched again. -/
def heldIn (l : List FetchLine) (rt : WAddr × BitVec 16) (va : WAddr) : Option (FetchLine × MCell) :=
  (l.find? fun x => x.root == rt.1 && x.space == rt.2 && decide (x.va.toNat ≤ va.toNat) && decide (va.toNat < x.va.toNat + x.words.length)).bind fun x =>
    match x.words[va.toNat - x.va.toNat]? with
    | some c => if c.bad then none else some (x, c)
    | none => none

/-- Where the predicted path goes from a point in a line (R330): the target of the first branch there that is predicted taken, else the next
line. -/
def Core.pathAfter (c : Core) (pc : DAddr) : DAddr :=
  let line := lineOf (daWord pc)
  let here := c.btb.filter fun e => lineOf (daWord e.addr) == line && decide (pc.toNat ≤ e.addr.toNat) && (e.kind != 0 || decide (2 ≤ e.ctr.toNat))
  let first := here.foldl (fun b e => match b with
    | none => some e
    | some f => if e.addr.toNat < f.addr.toNat then some e else some f) (none : Option BtbEnt)
  match first with
  | some e => if bit c.pipeCtl 1 then daOf (line + 8) 0 else if e.kind = 3 then c.rstack.headD e.target else e.target
  | none => daOf (line + 8) 0

/-- A line requested ahead into the L1 (R331): a request that fails a test of R59, or would reach another region, is dropped and leaves no more
than REF. -/
def State.requestLine (s : State) (n : CoreId) (p15 : PassReg) (pc : DAddr) : State :=
  match fetchRef n p15 pc s with
  | .ok r t => if isLocalMem r.pa && r.ent.mt != 1 then t.touchLine n r.pa else { s with mem := t.mem }
  | .error _ t => { s with mem := t.mem }

/-- The branch-target buffer runs ahead along the predicted path by k lines (R330). -/
def State.runAhead (s : State) (n : CoreId) (p15 : PassReg) : Nat → DAddr → State
  | 0, _ => s
  | k + 1, pc => (s.requestLine n p15 pc).runAhead n p15 k (s.cores[n].pathAfter pc)

/-- The fetch of the instruction word at a PC (R59, R329): from the word or line already fetched, which is neither translated nor read again (R286,
R341), or from memory. A line fetched outside deterministic mode enters the fetch buffer, which holds four, and the branch-target buffer runs
ahead of it, unless PFOFF is set. -/
def fetchAt (n : CoreId) (p15 : PassReg) (pc : DAddr) : M Word := do
  fetchPass p15 pc
  let s ← get
  let c := s.cores[n]
  let rt := s.rootOf (.core n 0)
  match heldIn (if c.det then c.fetchWord.toList else c.fetchBuf) rt (daWord pc) with
  | some (l, w) => do
    let _ ← fetchEnt n p15 pc l.ent
    return w.data
  | none => do
    let r ← fetchRef n p15 pc
    if c.det then chargeAccess n r.pa
    let w ← fetchData n r
    let line (va pa : WAddr) (ws : List MCell) : FetchLine := { va := va, root := rt.1, space := rt.2, ent := r.ent, pa := pa, words := ws }
    if c.det then modCore n fun c => { c with fetchWord := some (line (daWord pc) r.pa [{ data := w, tag := false, bad := false }]) }
    else do
      let ws := (← get).lineWords n r.pa
      if r.ent.mt != 1 && !ws.isEmpty then
        modCore n fun c =>
          { c with fetchBuf := (line (lineOf (daWord pc)) (lineOf r.pa) ws :: c.fetchBuf.filter fun l => l.va != lineOf (daWord pc)).take 4 }
        if !bit c.pipeCtl 2 then upd fun s => s.runAhead n p15 8 (s.cores[n].pathAfter pc)
    return w

/-- A word that the module reads by physical address: with no translation, pass or key test (R295, R301, R317). -/
def readPhys (n : CoreId) (pa : WAddr) : M Word := do
  chargeAccess n pa
  upd fun s => s.touchLine n pa
  let s ← get
  if (s.cell pa).bad then badWord n { va := pa, fa := 0, mask := maskAll, pa := pa, ent := flatEnt pa } else return s.data pa

/-- An aligned pair read by physical address as LDPS reads it. -/
def readPhysPass (n : CoreId) (pa : WAddr) : M PassReg := do
  chargeAccess n pa
  upd fun s => s.touchLine n pa
  let s ← get
  let ref (a : WAddr) : WordRef := { va := a, fa := 0, mask := maskAll, pa := a, ent := flatEnt a }
  if (s.cell pa).bad then badWord n (ref pa)
  else if (s.cell (pa + 1)).bad then badWord n (ref (pa + 1))
  else return s.getPass pa

/-- What the checks of an entry find (R314): where its frame goes and what its handler starts with; the cause with which it fails, and where its
frame goes if the stores of it pass their checks; or that it waits for the word at its vector (R321). -/
inductive EntryOut where
  | ok (pas : List WAddr) (vec : DAddr) (p15 p14 : PassReg)
  | fail (e : EntryFail) (frame : Option (List WAddr × PassReg × PassReg))
  | wait

/-- The fetch at the vector of an entry (R314): it is charged to the handler's first instruction, which fetches the word again (R347, R351). -/
def vectorFetch (n : CoreId) (p15 : PassReg) (vec : DAddr) (s : State) : EStateM.Result Stop State Word :=
  let restore (t : State) : State := t.updCore n fun c =>
    { c with detPend := s.cores[n].detPend, detVar := s.cores[n].detVar, pageRegs := s.cores[n].pageRegs, fetchWord := s.cores[n].fetchWord }
  match fetchAt n p15 vec s with
  | .ok w t => .ok w (restore t)
  | .error e t => .error e (restore t)

/-- The physical words of a frame, the vector and the passes, or the cause with which the entry fails: the lowest CODE (R314, R326). -/
def entryChecks (n : CoreId) (i : EntryInfo) (t : WAddr) (s : State) : EntryOut × State :=
  let ltb := s.cores[n].ltb
  let form (k : BitVec 8) : EntryOut := .fail { code := k, ucls := 0, ucode := 0 } none
  if ltb.toNat % 8 ≠ 0 ∨ !rangeInMem ltb 72 then (form 1, s)
  else
    match entryStep (readTable n i.kind t) 2 s with
    | (.error e, s) => (.fail e none, s)
    | (.ok (v, sp, p15, p14), s) =>
      let vec := bits v 0 57
      if bits v 57 15 ≠ 0 ∨ (daPos vec ≠ 0 ∧ daPos vec ≠ 9) then (form 3, s)
      else
        match entryStep (do handlerPass p15 permExec 15; handlerPass p14 permStore 14) 4 s with
        | (.error e, s) => (.fail e none, s)
        | (.ok _, s) =>
          if bit sp 0 ∨ bits sp 52 20 ≠ 0 then (form 5, s)
          else
            let f := bits sp 0 52 - (if i.kind = .fault then 24 else 12)
            match entryStep (frameRefs n p14 f) 5 s with
            | (.error e, s) => (.fail e none, s)
            | (.ok rs, s) =>
              match vectorFetch n p15 vec s with
              | .error .wait s => (.wait, s)
              | .error (.fault f) s => (.fail (uclassOf f 6) (some (rs.map (·.pa), p15, p14)), s)
              | .ok _ s => (.ok (rs.map (·.pa)) vec p15 p14, s)

/-- The ACTIVE bit that an entry sets (R310). -/
def entryBit (k : EntryKind) (m : BitVec 3) : Nat :=
  match k with
  | .event | .trap => m.toNat
  | .fault => 8 + m.toNat
  | .double => 16

/-- The entry of the level table that an entry reads (R311, R314). -/
def Core.tableEntry (c : Core) (i : EntryInfo) : WAddr := c.ltb + (if i.kind = .double then 64 else BitVec.ofNat 52 (8 * i.level.toNat))

/-- The frame of an entry stored, with its ten accesses charged (R315, R351). -/
def State.putFrame (s : State) (n : CoreId) (i : EntryInfo) (pas : List WAddr) : State :=
  let c := s.cores[n]
  let cause := causeWord i.kind.code i.fault.cls i.fault.code i.fault.preg i.level i.source i.merged
  stateOf (eachL (chargeAccess n) (frameAccesses pas)) (s.storeFrame n pas (s.frameWords n i.pc cause i.fault i.instr) c.p[15] c.p[14])

/-- The escalation of an entry that fails (R326): a source whose delivery fails is pending again (R314). -/
def State.failEntry (s : State) (n : CoreId) (i : EntryInfo) (t : WAddr) (e : EntryFail) : State :=
  let s := if i.kind = .event then
      (if h : i.source.toNat < 1024 then
        { s with srcs := s.srcs.set i.source.toNat { s.srcs[i.source.toNat] with pend := true } } else s)
    else s
  let own := i.kind = .event ∨ i.kind = .trap
  let cls := if own then 0 else i.fault.cls
  let code := if own then 0 else i.fault.code
  s.escalate n e.code
    { cls := 0, code := 0, preg := 0, faddr := if own then 0 else i.fault.faddr, fphys := t,
      detail := at' i.kind.code 68 ||| at' i.level 65 ||| at' cls 60 ||| at' code 52 ||| at' e.ucls 47 ||| at' e.ucode 39 }
    i.pc i.instr

/-- An entry other than level E (R314): the frame, the handler's passes, level and PC; or an escalation, for which the frame has been stored if
its own checks passed. None when the entry waits for the word at its vector: it is then made again. -/
def State.tryEnter (s : State) (n : CoreId) (i : EntryInfo) : Option State × State :=
  let s := s.drainAll n
  let t := s.cores[n].tableEntry i
  match entryChecks n i t s with
  | (.wait, s) => (none, s)
  | (.fail e fr, s) =>
    let s := match fr with
      | some (pas, _, _) => s.putFrame n i pas
      | none => s
    (some (s.failEntry n i t e), s)
  | (.ok pas vec p15 p14, s) =>
    let s := (s.putFrame n i pas).updCore n (Core.charge 22)
    let own := decide (i.kind = .event) || decide (i.kind = .trap)
    let s := s.updCore n fun c =>
      let c := c.entered (entryBit i.kind i.level) pas p15 p14 vec
      if own then { c with st := setBits c.st 55 3 i.level } else c
    (some (s.settleCharge n), s)

/-- An entry as it is made once nothing of it waits. -/
def State.enter (s : State) (n : CoreId) (i : EntryInfo) : State := (s.tryEnter n i).1.getD s

/-- An entry that waits for the word at its vector leaves its core as it was before the instruction, but for the stores that have left and the
word that it waits for (R321): the instruction is run again, and makes the entry again. -/
def State.waitEntry (t : State) (n : CoreId) (s : State) : State :=
  t.updCore n fun c =>
    { c with
      detPend := s.cores[n].detPend, detVar := s.cores[n].detVar, pageRegs := s.cores[n].pageRegs, fetchWord := s.cores[n].fetchWord,
      hold := s.cores[n].hold, dfCnt := s.cores[n].dfCnt, ftrap := s.cores[n].ftrap }

/-- A synchronous fault or a machine check with RETRY taken at the core's PC (R319, R325, R326, R328); none when its entry waits. -/
def State.takeFault (s : State) (n : CoreId) (f : FaultInfo) (instr : Word) : Option State × State :=
  let c := s.cores[n]
  if bit c.active 17 then (some (s.loseCore n c.pc (causeWord 3 f.cls f.code f.preg c.lvl 0 0)), s)
  else if bit c.active 16 then
    (some (s.escalate n 7 { f with detail := at' f.cls 47 ||| at' f.code 39, cls := 0, code := 0 } c.pc instr), s)
  else if bit c.active (8 + c.lvl.toNat) then
    (s.updCore n fun c => { c with dfCnt := inc c.dfCnt }).tryEnter n
      { kind := .double, level := c.lvl, fault := f, source := 0, merged := 0, pc := c.pc, instr := instr }
  else s.tryEnter n { kind := .fault, level := c.lvl, fault := f, source := 0, merged := 0, pc := c.pc, instr := instr }

/-- The memory word at a core's PC as it was fetched, for the INSTR word of a frame (R315); a free value where it cannot be read (log 12). -/
def State.instrWord (s : State) (n : CoreId) : Word × State :=
  match fetchAt n s.cores[n].p[15] s.cores[n].pc s with
  | .ok w _ => (w, s)
  | .error _ _ => s.draw

/-! ## Confluence (R308) -/

def Source.en (x : Source) : Bool := bit x.cfg 71
def Source.level (x : Source) : BitVec 3 := bits x.cfg 68 3

/-- Whether a core may take a source now, at a level (R308). -/
def State.eligibleAt (s : State) (k : SrcId) (n : CoreId) (l : BitVec 3) : Bool :=
  let x := s.srcs[k]
  let c := s.cores[n]
  x.pend && x.en && l != 0 && bit x.cfg n.val && c.run == 2 && !bit c.active 16 && !bit c.active 17 && decide (c.lvl.toNat < l.toNat)

/-- Whether a core may take a source now, at the level of its SRC_CFG. -/
def State.eligible (s : State) (k : SrcId) (n : CoreId) : Bool := s.eligibleAt k n s.srcs[k].level

/-- The core that Confluence chooses for a source: the lowest ST.LVL, then the lowest index (R308). -/
def State.chosenCore (s : State) (k : SrcId) : Option CoreId :=
  (allCores.filter (s.eligible k)).foldl (fun best n =>
    match best with
    | none => some n
    | some m => if (s.cores[n].lvl).toNat < (s.cores[m].lvl).toNat then some n else best) none

/-- The source that a core takes of those chosen for it: the highest level, then the lowest number (R308). -/
def State.sourceFor (s : State) (n : CoreId) : Option SrcId :=
  ((List.finRange 1024).filter fun k => s.eligible k n && s.chosenCore k == some n).foldl (fun best k =>
    match best with
    | none => some k
    | some m => if (s.srcs[m].level).toNat < (s.srcs[k].level).toNat then some k else best) none

/-- The source that a core takes at a boundary, and its level: the offer that it has accepted, at the level at which that delivery began,
while it is still eligible; else the choice made there (R308, R379). -/
def State.taken (s : State) (n : CoreId) : Option (SrcId × BitVec 3) :=
  let choice := (s.sourceFor n).map fun k => (k, s.srcs[k].level)
  match s.cores[n].offer with
  | some (k, l) => if s.eligibleAt k n l then some (k, l) else choice
  | none => choice

/-- Whether an event is to be taken before a core starts anything (R313): it stands at a boundary, and a source is there for it. -/
def State.eventFirst (s : State) (n : CoreId) : Bool :=
  s.cores[n].arrived.isEmpty && s.srcs.toList.any (fun x => x.pend) && (s.taken n).isSome

/-! ## Running an instruction -/

/-- Where the PC goes: to the sequential successor, to a target, or nowhere, when a long instruction has more units to run; `gone` when
the instruction began a start, which reset the core. -/
inductive Next where
  | seq
  | jump (pc : DAddr)
  | stay
  | gone
  deriving DecidableEq, Repr

/-- What decoding gives: the slots of the instruction, its deterministic steps (R352), whether its fields are legal (R54), the
general registers that it names (R150), whether it names an F register (R46), and whether it takes a pending float trap (R323). -/
structure Shape where
  slots : Nat := 1
  steps : Nat := 2
  legal : Bool := true
  regs : List Nat := []
  fp : Bool := false
  float : Bool := false

/-- Whether a core can start an instruction that names these registers: it is running, waits for nothing, and no outstanding
POST or COMMIT writes one of them (R150); in deterministic mode none is outstanding (R345). -/
def Core.ready (c : Core) (regs : List Nat) : Bool :=
  c.run == 2 && c.wait.isNone && (!c.det || c.posts.isEmpty) && !(c.posts.any fun p => p.rt != 0 && regs.contains p.rt.toNat)

/-- The PC moved on by k positions, or none when that leaves the address space (R58). -/
def pcAfter (pc : DAddr) (k : Int) : Option DAddr := match advance pc k with
  | (a, false) => some a
  | (_, true) => none

/-- The fetch and decode of an instruction (R59, R321 items 1 to 3). An S-format opcode at position 9 has no fields in its
slot, so F02 (R57) stands before the tests of its fields (DEDUCED, log 34). -/
def fetchDecode (n : CoreId) (sh : Shape) : M Unit := do
  let c ← getCore n
  let _ ← fetchAt n c.p[15] c.pc
  require (!(sh.slots = 2 && daPos c.pc != 0)) { cls := clsForm }
  require sh.legal illegal
  require (!(sh.fp && !bit c.st 64)) { cls := clsFp }
  match c.ftrap with
  | some (causes, at_) =>
    if sh.float then
      modCore n fun c => { c with ftrap := none }
      raise { cls := clsFloatTrap, faddr := at_, detail := causes.setWidth 72 }
  | none => pure ()

/-- Whether an instruction's successor lies beyond the address space (R58). -/
def overruns (c : Core) (sh : Shape) (nx : Next) : Bool := nx == .seq && (pcAfter c.pc (9 * sh.slots)).isNone

/-- The core after an instruction that completes: PC, RETIRE_COUNT and the steps of R352. A unit that leaves more units keeps what it holds; the
word at position 0 stays fetched for the instruction at position 9. -/
def Core.retire (c : Core) (sh : Shape) : Next → Core
  | .stay => { c with arrived := [] }
  | .gone => c
  | .jump pc => ({ c with pc := pc, retired := inc c.retired, fetchWord := none, hold := none, arrived := [] } : Core).charge sh.steps
  | .seq =>
    ({ c with
      pc := daAdd c.pc (9 * sh.slots), retired := inc c.retired, arrived := [], hold := none,
      fetchWord := if sh.slots = 1 && daPos c.pc = 0 then c.fetchWord else none } : Core).charge sh.steps

/-- The fault entry of an instruction that found `s`, in the state `t` it leaves, once nothing is outstanding (R313); the charge of
R352. An entry that waits leaves the instruction to be run again. -/
def State.faultAfter (t : State) (n : CoreId) (f : FaultInfo) (s : State) : State :=
  if s.cores[n].posts.isEmpty then
    let t := t.updCore n (Core.charge 1)
    let (w, t) := t.instrWord n
    match t.takeFault n f w with
    | (some u, _) => u
    | (none, u) => u.waitEntry n s
  else s

/-- The instruction waits and is given again; its deterministic charges, its walks and the fetch of its word are made then. -/
def State.waitAfter (t : State) (n : CoreId) (s : State) : State :=
  t.updCore n fun c =>
    { c with
      detPend := s.cores[n].detPend, detVar := s.cores[n].detVar, pageRegs := s.cores[n].pageRegs, fetchWord := s.cores[n].fetchWord,
      hold := s.cores[n].hold }

/-- Whether a store of a core still waits for its target's answer (R71). -/
def State.storesOut (s : State) (n : CoreId) : Bool :=
  s.lb.series.any fun x => x.waiting.any fun w => match w.2.1 with
    | .coreStore m _ => m == n
    | _ => false

/-- Whether an instruction can start whatever it names: the core runs and waits for nothing, no event is to be taken first (R313), and in
deterministic mode every earlier store is complete (R344). -/
def State.mayBegin (s : State) (n : CoreId) : Bool :=
  s.cores[n].run == 2 && !s.eventFirst n && !(s.cores[n].det && (s.storesOut n || !s.cores[n].windows.isEmpty))

/-- The PCIe reads that complete a core's stores to the host window in deterministic mode, before its next instruction (R71, R344). -/
def State.readBack (s : State) (n : CoreId) : State :=
  if s.cores[n].det then s.updCore n fun c => { c with windows := [] } else s

/-- A core runs one instruction. An instruction that cannot start leaves the state as it is, but for the PCIe reads that it makes the core wait
for. One that faults enters the handler (R319); while a POST is outstanding the entry waits for it (R313). FADDR of the F08 of a next PC that lies
beyond the address space, which no digit address can name, is the PC of the instruction (DESIGN CHOICE, log 60). -/
def State.runIns (s : State) (n : CoreId) (sh : Shape) (body : M Next) : State :=
  if s.cores[n].ready sh.regs && s.mayBegin n then
    match fetchDecode n sh s with
    | .error (.fault f) t => t.faultAfter n f s
    | .error .wait t => t.waitAfter n s
    | .ok _ t =>
      match body t with
      | .ok nx u =>
        if overruns t.cores[n] sh nx then
          (t.updCore n fun c => { c with detPend := u.cores[n].detPend, detVar := u.cores[n].detVar, late := u.cores[n].late }).faultAfter n
            { cls := clsRange, faddr := t.cores[n].pc } s
        else (u.updCore n fun c => c.retire sh nx).settleCharge n
      | .error (.fault f) u => u.faultAfter n f s
      | .error .wait u => u.waitAfter n s
  else if s.cores[n].run == 2 then s.readBack n
  else s

/-! ## Registers and flags of a core -/

/-- G[i]; G0 reads as zero (R43). -/
def Core.gr (c : Core) (i : BitVec 5) : Word := if i = 0 then 0 else c.g[i.toNat]'(i.isLt)

/-- G[i] := v; a write to G0 is discarded (R43). -/
def Core.setG (c : Core) (i : BitVec 5) (v : Word) : Core := if i = 0 then c else { c with g := c.g.set i.toNat v i.isLt }

/-- F[i]. -/
def Core.fr (c : Core) (i : BitVec 5) : BitVec 32 := c.f[i.toNat]'(i.isLt)

/-- F[i] := v. -/
def Core.setF (c : Core) (i : BitVec 5) (v : BitVec 32) : Core := { c with f := c.f.set i.toNat v i.isLt }

/-- P[i]. -/
def Core.pr (c : Core) (i : PassId) : PassReg := c.p[i.toNat]'(i.isLt)

/-- P[i] := v. -/
def Core.setP (c : Core) (i : PassId) (v : PassReg) : Core := { c with p := c.p.set i.toNat v i.isLt }

/-- G[i] of a core. -/
def gr (n : CoreId) (i : BitVec 5) : M Word := do return (← getCore n).gr i

/-- G[i] := v. -/
def setG (n : CoreId) (i : BitVec 5) (v : Word) : M Unit := modCore n fun c => c.setG i v

end Sys2Proof.Machine
end

