-- ==== Sys2Proof/Machine/Operands.lean ====
section
/-! DEFINITION. Operand forms: effective addresses (R61), the checks of M-format and S-format operands (R62, R64), and the
registers that each format names. -/

namespace Sys2Proof.Machine

/-- The general registers that format A can name. -/
def FmtA.regs (f : FmtA) : List Nat := [f.rd.toNat, f.ra.toNat, f.rb.toNat]
/-- The general registers that format I can name. -/
def FmtI.regs (f : FmtI) : List Nat := [f.rd.toNat, f.ra.toNat]
/-- The general registers that format M can name. -/
def FmtM.regs (f : FmtM) : List Nat := [f.rt.toNat, f.rb.toNat]
/-- The general registers that format S names, with the progress registers G2-G7 (R44, R150). -/
def FmtS.regs (f : FmtS) : List Nat := [f.b1.toNat, f.b2.toNat, 2, 3, 4, 5, 6, 7]

/-- A field that names a P register has a zero top bit (R55). -/
def isPass (r : BitVec 5) : Bool := !bit r 4

/-- The pass register that a field names. -/
def passOf (r : BitVec 5) : PassId := bits r 0 4

/-- The checks of an address in a register and the digit address it holds (R19, R20): F04, then F05. -/
def regAddr (v : Word) : M DAddr := do
  let da := bits v 0 57
  require (bits v 57 15 == 0) { cls := clsAddrForm, faddr := da }
  require (decide (daPos da ≤ 17)) { cls := clsDigitPos, faddr := da }
  return da

/-- Operand address formation (R61): checks 1 and 2 of R62. -/
def formEA (n : CoreId) (base : BitVec 5) (disp : Int) : M DAddr := do
  let v ← gr n base
  let da ← regAddr v
  return daAdd da disp

/-- The effective address of an M-format instruction (R61). -/
def mEA (n : CoreId) (f : FmtM) : M DAddr := formEA n f.rb f.disp.toInt

/-- The addresses of the two operands of an S-format instruction (R61). -/
def sEA1 (n : CoreId) (f : FmtS) : M DAddr := formEA n f.b1 f.d1.toInt
def sEA2 (n : CoreId) (f : FmtS) : M DAddr := formEA n f.b2 f.d2.toInt

/-- The lengths of the operands of an S-format instruction (R56). -/
def FmtS.len1 (f : FmtS) : Nat := f.l1.toNat + 1
def FmtS.len2 (f : FmtS) : Nat := f.l2.toNat + 1

/-- The checks 4 to 6 of R62 on a core's operand of `len` positions at `da` under pass register `pr`. -/
def operand (n : CoreId) (stream : Fin 3) (pr : PassId) (need : BitVec 12) (a : Acc) (da : DAddr) (len : Nat) : M (List WordRef) := do
  let c ← getCore n
  checkField (.core n stream) (c.pr pr) pr need a da len

/-- An alignment check on an address (R64). -/
def aligned (ok : Bool) (cls : BitVec 5) (da : DAddr) : M Unit := require ok { cls := cls, faddr := da }

end Sys2Proof.Machine
end

