-- ==== Sys2Proof/Machine/Flags.lean ====
section
/-! DEFINITION. The flags N, Z, V, C of ST (R48), how instructions set them (R65, R68, R353) and the branch conditions (R66). -/

namespace Sys2Proof.Machine

def Core.flagN (c : Core) : Bool := bit c.st 71
def Core.flagZ (c : Core) : Bool := bit c.st 70
def Core.flagV (c : Core) : Bool := bit c.st 69
def Core.flagC (c : Core) : Bool := bit c.st 68

/-- ST with N, Z, V and C set. -/
def Core.setNZVC (c : Core) (n z v cy : Bool) : Core :=
  { c with st := setBit (setBit (setBit (setBit c.st 71 n) 70 z) 69 v) 68 cy }

/-- N and Z from a result; V and C as given. -/
def Core.setFlags (c : Core) (r : Word) (v cy : Bool) : Core := c.setNZVC (bit r 71) (r == 0) v cy

/-- Whether a condition of R66 holds. -/
def Core.cond (c : Core) (k : BitVec 4) : Bool :=
  let n := c.flagN
  let z := c.flagZ
  let v := c.flagV
  let cy := c.flagC
  match k.toNat with
  | 0 => z | 1 => !z | 2 => cy | 3 => !cy | 4 => n | 5 => !n | 6 => v | 7 => !v
  | 8 => cy && !z | 9 => !cy || z | 10 => n == v | 11 => n != v | 12 => !z && n == v | 13 => z || n != v | 14 => true | _ => false

/-- Whether an integer lies outside the signed range of a word. -/
def outside (x : Int) : Bool := x < -(2 ^ 71 : Int) || x ≥ (2 ^ 71 : Int)

/-- A sum with carry in: result, signed overflow and carry out (R65). Subtraction adds the complement. -/
def addCarry (a b : Word) (cin : Bool) : Word × Bool × Bool :=
  let t := a.toNat + b.toNat + cin.toNat
  (BitVec.ofNat 72 t, outside (a.toInt + b.toInt + cin.toNat), decide (t ≥ 2 ^ 72))

/-- A left shift by k: result, V and, unless k is 0, the last bit shifted out (R65, R68). -/
def shiftLeft (a : Word) (k : Nat) : Word × Bool × Option Bool :=
  if k = 0 then (a, false, none)
  else if k ≤ 72 then
    let r := a <<< k
    (r, r.toInt != a.toInt * 2 ^ k, some (bit a (72 - k)))
  else (0, a != 0, some false)

/-- A logical right shift (R68). -/
def shiftRight (a : Word) (k : Nat) : Word × Option Bool :=
  if k = 0 then (a, none) else if k ≤ 72 then (a >>> k, some (bit a (k - 1))) else (0, some false)

/-- An arithmetic right shift (R68). -/
def shiftArith (a : Word) (k : Nat) : Word × Option Bool :=
  if k = 0 then (a, none)
  else if k ≤ 72 then (a.sshiftRight k, some (bit a (k - 1)))
  else (if bit a 71 then BitVec.allOnes 72 else 0, some (bit a 71))

/-- The number of leading zero bits (R67). -/
def leadingZeros (a : Word) : Nat := if a = 0 then 72 else 71 - a.toNat.log2

/-- The number of one bits (R67). -/
def popCount (a : Word) : Nat := ((List.range 72).filter fun i => bit a i).length

end Sys2Proof.Machine
end

