-- ==== Sys2Proof/Machine/Integer.lean ====
section
/-! DEFINITION. The integer and logical instructions (R23, R67, R68, R353-R355), RDST, WRST and NOP. -/

namespace Sys2Proof.Machine

/-- The outcome of a command. -/
abbrev Res := Host.Outcome State Fault Refusal

/-- An instruction that only changes its core's registers. -/
def regIns (n : CoreId) (sh : Shape) (f : Core → Core) (s : State) : State :=
  s.runIns n sh do
    modCore n f
    return .seq

/-- The shape of a format A instruction with fn = 0. -/
def shapeA (f : FmtA) : Shape := { legal := f.fn == 0, regs := FmtA.regs f }

/-- The shape of a format A instruction whose rb is unused. -/
def shapeA1 (f : FmtA) : Shape := { legal := f.fn == 0 && f.rb == 0, regs := FmtA.regs f }

/-- The shape of a format I instruction. -/
def shapeI (f : FmtI) : Shape := { regs := FmtI.regs f }

/-- The shape of a format I shift: imm 17:7 = 0 (R67). -/
def shapeShiftI (f : FmtI) : Shape := { legal := bits f.imm 7 11 == 0, regs := FmtI.regs f }

/-- imm sign-extended, and zero-extended (R55). -/
def FmtI.sext (f : FmtI) : Word := f.imm.signExtend 72
def FmtI.zext (f : FmtI) : Word := f.imm.setWidth 72
/-- The count of an immediate shift: imm 6:0. -/
def FmtI.count (f : FmtI) : Nat := (bits f.imm 0 7).toNat

/-- A sum written to a register with all four flags (R65). -/
def Core.addTo (c : Core) (rd : BitVec 5) (a b : Word) (cin : Bool) : Core :=
  let (r, v, cy) := addCarry a b cin
  (c.setG rd r).setFlags r v cy

/-- The flags of a sum, with no register written (CMP). -/
def Core.compare (c : Core) (a b : Word) : Core :=
  let (r, v, cy) := addCarry a (~~~b) true
  c.setFlags r v cy

/-- A logical result: N, Z from it, V = 0, C kept (R65). -/
def Core.logicTo (c : Core) (rd : BitVec 5) (r : Word) : Core := (c.setG rd r).setFlags r false c.flagC

/-- A left shift written (R65, R68). -/
def Core.shlTo (c : Core) (rd : BitVec 5) (a : Word) (k : Nat) : Core :=
  let (r, v, cy) := shiftLeft a k
  (c.setG rd r).setFlags r v (cy.getD c.flagC)

/-- A right shift written (R65, R68). -/
def Core.shrTo (c : Core) (rd : BitVec 5) (x : Word × Option Bool) : Core :=
  (c.setG rd x.1).setFlags x.1 false (x.2.getD c.flagC)

/-- A rotate written: V and C kept (R65). -/
def Core.rotTo (c : Core) (rd : BitVec 5) (a : Word) (k : Nat) : Core :=
  let r := a.rotateLeft (k % 72)
  (c.setG rd r).setFlags r c.flagV c.flagC

/-- A count written: N = 0, V and C kept (R65). -/
def Core.countTo (c : Core) (rd : BitVec 5) (k : Nat) : Core :=
  (c.setG rd (BitVec.ofNat 72 k)).setNZVC false (k == 0) c.flagV c.flagC

/-- A product half or a quotient written: C = 0 (R353). -/
def Core.mulTo (c : Core) (rd : BitVec 5) (r : Word) (v : Bool) : Core := (c.setG rd r).setFlags r v false

/-- ADVANCE of a register value by a signed count (R23); it changes no flag but V. -/
def advanceBody (n : CoreId) (rd ra : BitVec 5) (k : Int) : M Next := do
  let v ← gr n ra
  let da ← regAddr v
  let (r, o) := advance da k
  modCore n fun c => { (c.setG rd (daReg r)) with st := setBit c.st 69 o }
  return .seq

/-- Division (R353-R355): rd even and not 0; a zero divisor raises F19. -/
def divBody (n : CoreId) (f : FmtA) (q r : Word → Word → Word) (v : Word → Word → Bool) : M Next := do
  let a ← gr n f.ra
  let b ← gr n f.rb
  require (b != 0) { cls := clsIntDivide }
  modCore n fun c => (c.mulTo f.rd (q a b) (v a b)).setG (f.rd + 1) (r a b)
  return .seq

/-- The shape of DIV and DIVU. -/
def shapeDiv (f : FmtA) : Shape :=
  { legal := f.fn == 0 && !bit f.rd 0 && f.rd != 0, regs := (f.rd.toNat + 1) :: FmtA.regs f, steps := 42 }

/-- The shape of ILL. -/
def shapeIll (_f : FmtA) : Shape := { legal := false }

def execIll (n : CoreId) (f : FmtA) (s : State) : Res := .next (s.runIns n (shapeIll f) (return .seq))

/-- The shape of NOP. -/
def shapeNop (f : FmtA) : Shape := { legal := f.rd == 0 && f.ra == 0 && f.rb == 0 && f.fn == 0 }

def execNop (n : CoreId) (f : FmtA) (s : State) : Res :=
  .next (s.runIns n (shapeNop f) (return .seq))

def execAdd (n : CoreId) (f : FmtA) (s : State) : Res :=
  .next (regIns n (shapeA f) (fun c => c.addTo f.rd (c.gr f.ra) (c.gr f.rb) false) s)

def execSub (n : CoreId) (f : FmtA) (s : State) : Res :=
  .next (regIns n (shapeA f) (fun c => c.addTo f.rd (c.gr f.ra) (~~~(c.gr f.rb)) true) s)

def execAdc (n : CoreId) (f : FmtA) (s : State) : Res :=
  .next (regIns n (shapeA f) (fun c => c.addTo f.rd (c.gr f.ra) (c.gr f.rb) c.flagC) s)

def execSbc (n : CoreId) (f : FmtA) (s : State) : Res :=
  .next (regIns n (shapeA f) (fun c => c.addTo f.rd (c.gr f.ra) (~~~(c.gr f.rb)) c.flagC) s)

def execNeg (n : CoreId) (f : FmtA) (s : State) : Res :=
  .next (regIns n (shapeA1 f) (fun c => c.addTo f.rd 0 (~~~(c.gr f.ra)) true) s)

/-- The shape of CMP. -/
def shapeCmp (f : FmtA) : Shape := { legal := f.fn == 0 && f.rd == 0, regs := FmtA.regs f }

def execCmp (n : CoreId) (f : FmtA) (s : State) : Res :=
  .next (regIns n (shapeCmp f) (fun c => c.compare (c.gr f.ra) (c.gr f.rb)) s)

/-- The shape of MUL. -/
def shapeMul (f : FmtA) : Shape := { shapeA f with steps := 5 }

def execMul (n : CoreId) (f : FmtA) (s : State) : Res :=
  .next (regIns n (shapeMul f) (fun c =>
    c.mulTo f.rd (c.gr f.ra * c.gr f.rb) (outside ((c.gr f.ra).toInt * (c.gr f.rb).toInt))) s)

/-- The shape of MULH. -/
def shapeMulh (f : FmtA) : Shape := { shapeA f with steps := 6 }

def execMulh (n : CoreId) (f : FmtA) (s : State) : Res :=
  .next (regIns n (shapeMulh f) (fun c =>
    c.mulTo f.rd (BitVec.ofInt 72 (((c.gr f.ra).toInt * (c.gr f.rb).toInt).fdiv (2 ^ 72))) false) s)

/-- The shape of MULHU. -/
def shapeMulhu (f : FmtA) : Shape := { shapeA f with steps := 6 }

def execMulhu (n : CoreId) (f : FmtA) (s : State) : Res :=
  .next (regIns n (shapeMulhu f) (fun c =>
    c.mulTo f.rd (BitVec.ofNat 72 ((c.gr f.ra).toNat * (c.gr f.rb).toNat / 2 ^ 72)) false) s)

/-- DIV: the quotient truncates toward zero; -2^71 by -1 leaves -2^71 and 0 with V = 1 (R354). -/
def execDiv (n : CoreId) (f : FmtA) (s : State) : Res :=
  .next (s.runIns n (shapeDiv f) (divBody n f
    (fun a b => BitVec.ofInt 72 (a.toInt.tdiv b.toInt)) (fun a b => BitVec.ofInt 72 (a.toInt.tmod b.toInt))
    (fun a b => outside (a.toInt.tdiv b.toInt))))

def execDivu (n : CoreId) (f : FmtA) (s : State) : Res :=
  .next (s.runIns n (shapeDiv f) (divBody n f
    (fun a b => BitVec.ofNat 72 (a.toNat / b.toNat)) (fun a b => BitVec.ofNat 72 (a.toNat % b.toNat)) (fun _ _ => false)))

def execAdvance (n : CoreId) (f : FmtA) (s : State) : Res :=
  .next (s.runIns n (shapeA f) do
    let k ← gr n f.rb
    advanceBody n f.rd f.ra k.toInt)

def execAnd (n : CoreId) (f : FmtA) (s : State) : Res :=
  .next (regIns n (shapeA f) (fun c => c.logicTo f.rd (c.gr f.ra &&& c.gr f.rb)) s)

def execOr (n : CoreId) (f : FmtA) (s : State) : Res :=
  .next (regIns n (shapeA f) (fun c => c.logicTo f.rd (c.gr f.ra ||| c.gr f.rb)) s)

def execXor (n : CoreId) (f : FmtA) (s : State) : Res :=
  .next (regIns n (shapeA f) (fun c => c.logicTo f.rd (c.gr f.ra ^^^ c.gr f.rb)) s)

def execAndn (n : CoreId) (f : FmtA) (s : State) : Res :=
  .next (regIns n (shapeA f) (fun c => c.logicTo f.rd (c.gr f.ra &&& ~~~(c.gr f.rb))) s)

def execOrn (n : CoreId) (f : FmtA) (s : State) : Res :=
  .next (regIns n (shapeA f) (fun c => c.logicTo f.rd (c.gr f.ra ||| ~~~(c.gr f.rb))) s)

def execShl (n : CoreId) (f : FmtA) (s : State) : Res :=
  .next (regIns n (shapeA f) (fun c => c.shlTo f.rd (c.gr f.ra) (c.gr f.rb).toNat) s)

def execShr (n : CoreId) (f : FmtA) (s : State) : Res :=
  .next (regIns n (shapeA f) (fun c => c.shrTo f.rd (shiftRight (c.gr f.ra) (c.gr f.rb).toNat)) s)

def execSha (n : CoreId) (f : FmtA) (s : State) : Res :=
  .next (regIns n (shapeA f) (fun c => c.shrTo f.rd (shiftArith (c.gr f.ra) (c.gr f.rb).toNat)) s)

def execRot (n : CoreId) (f : FmtA) (s : State) : Res :=
  .next (regIns n (shapeA f) (fun c => c.rotTo f.rd (c.gr f.ra) (c.gr f.rb).toNat) s)

def execClz (n : CoreId) (f : FmtA) (s : State) : Res :=
  .next (regIns n (shapeA1 f) (fun c => c.countTo f.rd (leadingZeros (c.gr f.ra))) s)

def execPopc (n : CoreId) (f : FmtA) (s : State) : Res :=
  .next (regIns n (shapeA1 f) (fun c => c.countTo f.rd (popCount (c.gr f.ra))) s)

def execAddi (n : CoreId) (f : FmtI) (s : State) : Res :=
  .next (regIns n (shapeI f) (fun c => c.addTo f.rd (c.gr f.ra) (FmtI.sext f) false) s)

/-- The shape of CMPI. -/
def shapeCmpi (f : FmtI) : Shape := { shapeI f with legal := f.rd == 0 }

def execCmpi (n : CoreId) (f : FmtI) (s : State) : Res :=
  .next (regIns n (shapeCmpi f) (fun c => c.compare (c.gr f.ra) (FmtI.sext f)) s)

def execAndi (n : CoreId) (f : FmtI) (s : State) : Res :=
  .next (regIns n (shapeI f) (fun c => c.logicTo f.rd (c.gr f.ra &&& FmtI.zext f)) s)

def execOri (n : CoreId) (f : FmtI) (s : State) : Res :=
  .next (regIns n (shapeI f) (fun c => c.logicTo f.rd (c.gr f.ra ||| FmtI.zext f)) s)

def execXori (n : CoreId) (f : FmtI) (s : State) : Res :=
  .next (regIns n (shapeI f) (fun c => c.logicTo f.rd (c.gr f.ra ^^^ FmtI.zext f)) s)

def execShli (n : CoreId) (f : FmtI) (s : State) : Res :=
  .next (regIns n (shapeShiftI f) (fun c => c.shlTo f.rd (c.gr f.ra) (FmtI.count f)) s)

def execShri (n : CoreId) (f : FmtI) (s : State) : Res :=
  .next (regIns n (shapeShiftI f) (fun c => c.shrTo f.rd (shiftRight (c.gr f.ra) (FmtI.count f))) s)

def execShai (n : CoreId) (f : FmtI) (s : State) : Res :=
  .next (regIns n (shapeShiftI f) (fun c => c.shrTo f.rd (shiftArith (c.gr f.ra) (FmtI.count f))) s)

def execRoti (n : CoreId) (f : FmtI) (s : State) : Res :=
  .next (regIns n (shapeShiftI f) (fun c => c.rotTo f.rd (c.gr f.ra) (FmtI.count f)) s)

/-- The shape of LDI. -/
def shapeLdi (f : FmtI) : Shape := { shapeI f with legal := f.ra == 0 }

def execLdi (n : CoreId) (f : FmtI) (s : State) : Res :=
  .next (regIns n (shapeLdi f) (fun c => c.setG f.rd (FmtI.sext f)) s)

/-- The shape of INSI. -/
def shapeInsi (f : FmtI) : Shape := { legal := bits f.ra 2 3 == 0, regs := [f.rd.toNat] }

/-- INSI: bits (18q + 17):18q of G[rd] := imm, where q = ra 1:0 and ra 4:2 = 0 (R67). -/
def execInsi (n : CoreId) (f : FmtI) (s : State) : Res :=
  .next (regIns n (shapeInsi f)
    (fun c => c.setG f.rd (setBits (c.gr f.rd) (18 * (bits f.ra 0 2).toNat) 18 f.imm)) s)

def execAdvanceI (n : CoreId) (f : FmtI) (s : State) : Res :=
  .next (s.runIns n (shapeI f) (advanceBody n f.rd f.ra f.imm.toInt))

/-- ST as RDST gives it: reserved bits zero (R49). -/
def Core.readSt (c : Core) : Word := c.st &&& ~~~((1 <<< 55 : Word) - 1)

/-- WRST (R49): N, Z, V, C, DRM and FTE; a DRM of 0b111 is ignored. -/
def Core.writeSt (c : Core) (v : Word) : Core :=
  let st := setBits (setBits c.st 68 4 (bits v 68 4)) 59 5 (bits v 59 5)
  { c with st := if bits v 65 3 = 7 then st else setBits st 65 3 (bits v 65 3) }

/-- The shape of RDST. -/
def shapeRdst (f : FmtA) : Shape := { legal := f.ra == 0 && f.rb == 0 && f.fn == 0, regs := FmtA.regs f }

def execRdst (n : CoreId) (f : FmtA) (s : State) : Res :=
  .next (regIns n (shapeRdst f) (fun c => c.setG f.rd c.readSt) s)

/-- The shape of WRST. -/
def shapeWrst (f : FmtA) : Shape := { legal := f.rd == 0 && f.rb == 0 && f.fn == 0, regs := FmtA.regs f, steps := 3 }

def execWrst (n : CoreId) (f : FmtA) (s : State) : Res :=
  .next (regIns n (shapeWrst f)
    (fun c => c.writeSt (c.gr f.ra)) s)

end Sys2Proof.Machine
end

