-- ==== Sys2Proof/Machine/Decimal.lean ====
section
/-! DEFINITION. Packed-decimal values, rounding and fitting (R12, R76-R88), and the decimal register instructions (R92-R97). -/

namespace Sys2Proof.Machine

/-- A decimal value as read: its sign nibble, whether it is minus, and its magnitude in units of the last digit. -/
structure Dec where
  sign : BitVec 4
  neg : Bool
  mag : Nat
  deriving DecidableEq, Repr

/-- The signed value. -/
def Dec.val (d : Dec) : Int := if d.neg then -(d.mag : Int) else d.mag

/-- A sign nibble of R12. -/
def isSign (x : BitVec 4) : Bool := decide (10 ≤ x.toNat)
/-- A sign nibble read as minus (R12). -/
def isMinus (x : BitVec 4) : Bool := x == 0xB || x == 0xD
/-- A valid digit (R12). -/
def isDigit (x : BitVec 4) : Bool := decide (x.toNat ≤ 9)

/-- A number from decimal digits, the first the most significant. -/
def natOfDigits (l : List (BitVec 4)) : Nat := l.foldl (fun a d => a * 10 + d.toNat) 0

/-- The last n decimal digits of a number, the most significant first. -/
def digitsOf : Nat → Nat → List (BitVec 4)
  | 0, _ => []
  | n + 1, v => digitsOf n (v / 10) ++ [BitVec.ofNat 4 (v % 10)]

/-- The index of the first invalid nibble of a packed field: digits, then one sign (R78). -/
def firstBad : List (BitVec 4) → Nat → Option Nat
  | [], _ => none
  | [x], i => if isSign x then none else some i
  | x :: r, i => if isDigit x then firstBad r (i + 1) else some i

/-- The value of a valid packed field (R12, R76). -/
def packedVal (l : List (BitVec 4)) : Dec :=
  let s := l.getLastD 0
  { sign := s, neg := isMinus s, mag := natOfDigits l.dropLast }

/-- A packed field of d digits with a sign nibble. -/
def packedField (d mag : Nat) (sign : BitVec 4) : List (BitVec 4) := digitsOf d mag ++ [sign]

/-- Rounding of num / den to an integer magnitude in a mode of R84: the magnitude, and whether a nonzero part was discarded. -/
def roundQ (mode : BitVec 3) (neg : Bool) (num den : Nat) : Nat × Bool :=
  let q := num / den
  let r := num % den
  let up := match mode.toNat with
    | 0 => decide (2 * r > den) || (decide (2 * r = den) && decide (q % 2 = 1))
    | 1 => decide (2 * r ≥ den)
    | 2 => decide (2 * r > den)
    | 4 => decide (r ≠ 0)
    | 5 => decide (r ≠ 0) && !neg
    | 6 => decide (r ≠ 0) && neg
    | _ => false
  (if up then q + 1 else q, decide (r ≠ 0))

/-- A result fitted to a destination (R80, R86): the magnitude written, its sign, and V. -/
structure Fit where
  mag : Nat
  neg : Bool
  exceeds : Bool
  deriving DecidableEq, Repr

/-- The value modulo 10^d with its sign (R86). -/
def fitDec (d : Nat) (neg : Bool) (mag : Nat) : Fit :=
  let m := mag % 10 ^ d
  { mag := m, neg := neg && m != 0, exceeds := decide (mag ≥ 10 ^ d) }

/-- The sign nibble that the module writes (R80). -/
def Fit.sign (f : Fit) : BitVec 4 := if f.neg then 0xD else 0xC

/-- The flags of a decimal result (R87). -/
def Core.decFlags (c : Core) (f : Fit) (inexact : Bool) : Core := c.setNZVC f.neg (f.mag == 0) f.exceeds inexact

/-- The rounding mode of a code: 7 selects ST.DRM (R83). -/
def Core.rounding (c : Core) (code : BitVec 3) : BitVec 3 := if code = 7 then bits c.st 65 3 else code

/-- The word of a single decimal result (R77). -/
def Fit.word (f : Fit) : Word := wordOfPos (packedField 17 f.mag f.sign)

/-- The data fault of a register operand (R78, R320). -/
def decRegFault (op : Nat) (r : BitVec 5) (pos : Nat) : FaultInfo :=
  { cls := clsDecData, detail := at' (BitVec.ofNat 2 op) 70 ||| at' r 5 ||| BitVec.ofNat 72 pos }

/-- A register operand, single or a pair (R77, R78). -/
def regDec (n : CoreId) (op : Nat) (r : BitVec 5) (pair : Bool) : M Dec := do
  let a ← gr n r
  if pair then
    let b ← gr n (r + 1)
    let l := posList a ++ posList b
    match firstBad l 0 with
    | some i => raise (decRegFault op (if i < 18 then r else r + 1) (i % 18))
    | none => return packedVal l
  else
    match firstBad (posList a) 0 with
    | some i => raise (decRegFault op r i)
    | none => return packedVal (posList a)

/-- A pair result written (R77): 18 digits, then 17 and the sign. -/
def Core.setPair (c : Core) (r : BitVec 5) (f : Fit) : Core :=
  let l := packedField 35 f.mag f.sign
  (c.setG r (wordOfPos (l.take 18))).setG (r + 1) (wordOfPos (l.drop 18))

/-- The registers that an operand names, a pair or a single register. -/
def pairRegs (pair : Bool) (r : BitVec 5) : List Nat := if pair then [r.toNat, r.toNat + 1] else [r.toNat]

/-- A pair source is even (R77); a pair destination is even and not G0. -/
def pairSrcOk (pair : Bool) (r : BitVec 5) : Bool := !pair || !bit r 0
def pairDstOk (pair : Bool) (r : BitVec 5) : Bool := !pair || (!bit r 0 && r != 0)

/-- A decimal sum of two single registers (R92). -/
def decSum (n : CoreId) (f : FmtA) (minus : Bool) : M Next := do
  let a ← regDec n 1 f.ra false
  let b ← regDec n 2 f.rb false
  let v := a.val + (if minus then -b.val else b.val)
  let r := fitDec 17 (v < 0) v.natAbs
  modCore n fun c => (c.setG f.rd r.word).decFlags r false
  return .seq

/-- The shape of DADD. -/
def shapeDadd (f : FmtA) : Shape := { shapeA f with steps := 3 }

def execDadd (n : CoreId) (f : FmtA) (s : State) : Res :=
  .next (s.runIns n (shapeDadd f) (decSum n f false))

/-- The shape of DSUB. -/
def shapeDsub (f : FmtA) : Shape := { shapeA f with steps := 3 }

def execDsub (n : CoreId) (f : FmtA) (s : State) : Res :=
  .next (s.runIns n (shapeDsub f) (decSum n f true))

/-- The shape of DMUL. -/
def shapeDmul (f : FmtA) : Shape := { legal := f.fn == 0 && pairDstOk true f.rd, regs := (f.rd.toNat + 1) :: FmtA.regs f, steps := 8 }

/-- DMUL (R93). -/
def execDmul (n : CoreId) (f : FmtA) (s : State) : Res :=
  .next (s.runIns n (shapeDmul f) do
    let a ← regDec n 1 f.ra false
    let b ← regDec n 2 f.rb false
    let r := fitDec 35 (a.neg != b.neg) (a.mag * b.mag)
    modCore n fun c => (c.setPair f.rd r).setNZVC r.neg (r.mag == 0) false false
    return .seq)

/-- The shape of DDIV. -/
def shapeDdiv (f : FmtA) : Shape :=
  let p := bit f.fn 10
  let q := bit f.fn 3
  { legal := f.fn &&& 0x1BF0 == 0 && pairSrcOk p f.ra && (q || (bits f.fn 0 3 == 0 && pairDstOk true f.rd)),
      regs := f.rb.toNat :: pairRegs p f.ra ++ pairRegs (!q) f.rd, steps := if p then 40 else 22 }

/-- DDIV (R94): fn 10 P, fn 3 Q, fn 2:0 RND. -/
def execDdiv (n : CoreId) (f : FmtA) (s : State) : Res :=
  let p := bit f.fn 10
  let q := bit f.fn 3
  .next (s.runIns n (shapeDdiv f) do
    let a ← regDec n 1 f.ra p
    let b ← regDec n 2 f.rb false
    require (b.mag != 0) { cls := clsDecDivide }
    let neg := a.neg != b.neg
    if q then
      let c ← getCore n
      let (m, x) := roundQ (c.rounding (bits f.fn 0 3)) neg a.mag b.mag
      let r := fitDec 17 neg m
      modCore n fun c => (c.setG f.rd r.word).decFlags r x
    else
      let r := fitDec 17 neg (a.mag / b.mag)
      let rem := fitDec 17 a.neg (a.mag % b.mag)
      modCore n fun c => ((c.setG f.rd r.word).setG (f.rd + 1) rem.word).decFlags r false
    return .seq)

/-- A value times 10^-n, as a numerator and a denominator. -/
def scaled (mag : Nat) (n : Int) : Nat × Nat := if n ≥ 0 then (mag, 10 ^ n.toNat) else (mag * 10 ^ (-n).toNat, 1)

/-- The shape of DSHR. -/
def shapeDshr (f : FmtA) : Shape :=
  let p := bit f.fn 10
  { legal := f.fn &&& 0x1800 == 0 && pairSrcOk p f.ra && (f.rb == 0 || bits f.fn 3 7 == 0),
      regs := f.rd.toNat :: f.rb.toNat :: pairRegs p f.ra, steps := if p then 4 else 3 }

/-- DSHR (R95). A count beyond 40 either way gives what a count of 40 gives, for every source has at most 35 digits. -/
def execDshr (n : CoreId) (f : FmtA) (s : State) : Res :=
  let p := bit f.fn 10
  .next (s.runIns n (shapeDshr f) do
    let g ← gr n f.rb
    let k : Int := if f.rb = 0 then (bits f.fn 3 7).toInt else max (-40) (min 40 g.toInt)
    let a ← regDec n 1 f.ra p
    let c ← getCore n
    let (num, den) := scaled a.mag k
    let (m, x) := roundQ (c.rounding (bits f.fn 0 3)) a.neg num den
    let r := fitDec 17 a.neg m
    modCore n fun c => (c.setG f.rd r.word).decFlags r x
    return .seq)

/-- The flags of a comparison of exact values (R96). -/
def Core.decCompare (c : Core) (a b : Int) : Core := c.setNZVC (a < b) (a == b) false (a ≥ b)

/-- The shape of DCMP. -/
def shapeDcmp (f : FmtA) : Shape := { legal := f.fn == 0 && f.rd == 0, regs := FmtA.regs f }

def execDcmp (n : CoreId) (f : FmtA) (s : State) : Res :=
  .next (s.runIns n (shapeDcmp f) do
    let a ← regDec n 1 f.ra false
    let b ← regDec n 2 f.rb false
    modCore n fun c => c.decCompare a.val b.val
    return .seq)

/-- The shape of CVBD. -/
def shapeCvbd (f : FmtA) : Shape :=
  let p := bit f.fn 10
  { legal := f.fn &&& 0x1BFF == 0 && f.rb == 0 && pairDstOk p f.rd, regs := f.ra.toNat :: pairRegs p f.rd,
      steps := if p then 9 else 7 }

/-- CVBD (R97). -/
def execCvbd (n : CoreId) (f : FmtA) (s : State) : Res :=
  let p := bit f.fn 10
  .next (s.runIns n (shapeCvbd f) do
    let v := (← gr n f.ra).toInt
    let r := fitDec (if p then 35 else 17) (v < 0) v.natAbs
    modCore n fun c => (if p then c.setPair f.rd r else c.setG f.rd r.word).decFlags r false
    return .seq)

/-- The shape of CVDB. -/
def shapeCvdb (f : FmtA) : Shape :=
  let p := bit f.fn 10
  { legal := f.fn &&& 0x1BFF == 0 && f.rb == 0 && pairSrcOk p f.ra, regs := f.rd.toNat :: pairRegs p f.ra,
      steps := if p then 7 else 5 }

/-- CVDB (R97). -/
def execCvdb (n : CoreId) (f : FmtA) (s : State) : Res :=
  let p := bit f.fn 10
  .next (s.runIns n (shapeCvdb f) do
    let a ← regDec n 1 f.ra p
    let w := BitVec.ofInt 72 a.val
    modCore n fun c => (c.setG f.rd w).setFlags w (outside a.val) false
    return .seq)

end Sys2Proof.Machine
end

