-- ==== Sys2Proof/Machine/Jobs.lean ====
section
/-! DEFINITION. Jobs in progress: their fields (R433), the order in which they start (R435), their statuses (R437, R492), and how they
complete on a queue pair, a job slot or the fabric (R436, R456, R490). -/

namespace Sys2Proof.Machine

/-! ## Finding and changing a job -/

/-- The job with an identifier. -/
def State.job (s : State) (j : JobId) : Option Job := s.hi.jobs.find? fun x => x.id == j

/-- One job replaced by a function of it. -/
def State.updJob (s : State) (j : JobId) (f : Job → Job) : State :=
  { s with hi := { s.hi with jobs := mapIf (fun x => x.id == j) f s.hi.jobs } }

/-- A job that is over. -/
def State.dropJob (s : State) (j : JobId) : State :=
  { s with hi := { s.hi with jobs := s.hi.jobs.filter fun x => x.id != j } }

/-! ## Fields of S0 (R433) -/

def Job.opc (x : Job) : BitVec 8 := bits x.s0 64 8
def Job.cid (x : Job) : BitVec 16 := bits x.s0 48 16
def Job.hv (x : Job) : Bool := bit x.s0 47
def Job.padded (x : Job) : Bool := bit x.s0 46
def Job.ord (x : Job) : Bool := bit x.s0 45
def Job.depth (x : Job) : Nat := (bits x.s0 37 3).toNat
def Job.pair (x : Job) : PairId := bits x.s0 25 12
def Job.side (x : Job) : Bool := bit x.s0 24
def Job.quad (x : Job) : Nat := (bits x.s0 20 4).toNat
def Job.core (x : Job) : Nat := (bits x.s0 18 2).toNat

/-- The queue pair that a job came from. -/
def Job.qp (x : Job) : Option QpId := match x.origin with
  | .qp q => some q
  | _ => none

/-- The jobs in progress of a queue pair. -/
def State.qpJobs (s : State) (q : QpId) : List Job := s.hi.jobs.filter fun x => x.qp == some q

/-- Whether a job may start (R435): jobs of a pair start in the order taken, and an ORD job and every job after it wait for every
earlier job of the pair. The jobs of one slot are one at a time. -/
def State.mayStart (s : State) (x : Job) : Bool :=
  match x.qp with
  | none => true
  | some q =>
    let l := s.qpJobs q
    (l.all fun y => decide (x.id ≤ y.id) || y.started) &&
      l.all fun o => !(o.ord && decide (o.id ≤ x.id)) || l.all fun y => decide (o.id ≤ y.id)

/-- The job of a command, when it is of the command's type and may act. -/
def State.jobFor (s : State) (j : JobId) (opc : Nat) : Option Job :=
  match s.job j with
  | some x => if x.opc.toNat = opc && (x.started || s.mayStart x) then some x else none
  | none => none

/-! ## Responses to requests of other modules (R458, R459) -/

/-- The entry that a target keeps for a source module and series. -/
def State.servedFor (s : State) (pair : PairId) (side events : Bool) : Served :=
  (s.lb.served.find? fun x => x.pair == pair && x.side == side && x.events == events).getD
    { pair := pair, side := side, events := events, expected := 0, held := [], heal := none }

/-- That entry replaced. -/
def State.setServed (s : State) (v : Served) : State :=
  { s with lb := { s.lb with
      served := v :: s.lb.served.filter fun x => !(x.pair == v.pair && x.side == v.side && x.events == v.events) } }

/-- The last n elements of a list. -/
def lastN {α : Type} (n : Nat) (l : List α) : List α := l.drop (l.length - n)

/-- A response held for repeats and issued. -/
def State.reply (s : State) (pair : PairId) (side events : Bool) (eseq : BitVec 16) (p : Packet) : State :=
  let p := { p with eseq := eseq }
  let v := s.servedFor pair side events
  (s.setServed { v with held := lastN 64 (v.held ++ [(eseq, p)]) }).issue p

/-! ## Unit control blocks (R489) -/

/-- The block of a unit. -/
def State.block (s : State) : UnitId → UnitBlock
  | .module => s.sr.modBlk
  | .quad q => s.sr.quads[q]
  | .core n => s.sr.cores[n]

/-- One block replaced by a function of it. -/
def State.updBlock (s : State) (f : UnitBlock → UnitBlock) : UnitId → State
  | .module => { s with sr := { s.sr with modBlk := f s.sr.modBlk } }
  | .quad q => { s with sr := { s.sr with quads := s.sr.quads.set q (f s.sr.quads[q]) } }
  | .core n => { s with sr := { s.sr with cores := s.sr.cores.set n (f s.sr.cores[n]) } }

/-- A slot of a block after its job has completed (R490). -/
def UnitBlock.slotDone (b : UnitBlock) (k : Fin 8) (status detail : BitVec 8) (result : Word) : UnitBlock :=
  { b with
    jobCnt := inc b.jobCnt
    slots := b.slots.set k { b.slots[k] with busy := false, done := true, status := status, detail := detail, res := result } }

/-! ## Completion -/

/-- HW1 of a UNIT response: the status, and the detail below it (log 24). -/
def unitHw1 (status detail : BitVec 8) : Word := at' status 64 ||| at' detail 56

/-- A job completes (R436, R437, R456, R490). -/
def State.finishJob (s : State) (x : Job) (status detail : BitVec 8) (result : Word) : State :=
  let s := s.dropJob x.id
  match x.origin with
  | .qp q =>
    let s : State := { s with hi := { s.hi with jobCnt := inc s.hi.jobCnt } }
    s.updQp q fun p =>
      { p with
        jobs := inc p.jobs
        waiting := p.waiting ++ [{ job := x.id, post := x.opc == 1 || x.opc == 2, cid := x.cid, status := status, detail := detail,
                                   result := result }] }
  | .slot u k => s.updBlock (fun b => b.slotDone k status detail result) u
  | .fabric pair side eseq => s.reply pair side false eseq (packet 8 1 pair side 0x62 (unitHw1 status detail) [result])
  | .part _ => s

/-- Job statuses of R437 that the model names. -/
abbrev jobDone : BitVec 8 := 0x00
abbrev jobBadOpcode : BitVec 8 := 0x01
abbrev jobBadField : BitVec 8 := 0x02
abbrev jobPass : BitVec 8 := 0x03
abbrev jobData : BitVec 8 := 0x08
abbrev jobHostDma : BitVec 8 := 0x09
abbrev jobRefused : BitVec 8 := 0x0A

/-- Where a refused store of a job lies: DETAIL of REGION (R434, R437). The start journal counts with the ledger regions, under whose
rules R470 refuses it. -/
def State.regionDetail (s : State) (pa : WAddr) : BitVec 8 :=
  match regionOf pa with
  | .device | .window | .rDevice => 0x01
  | .plain =>
    let x := s.applied
    if x.peCellCount != 0 && inRegions [(x.jnRingBase.toNat, 2 ^ x.jnRingLog2.toNat)] (offsetOf pa) then 0x03
    else if s.guarded (offsetOf pa) then 0x02 else 0x05
  | .basin => 0x05
  | _ => 0x05

/-- The job status and DETAIL of a fault of the checks of R62 and R242-R245 (R437). -/
def State.faultStatus (s : State) (i : FaultInfo) : BitVec 8 × BitVec 8 :=
  if i.cls = clsPass then (if i.code = 9 then (0x06, 0x04) else if i.code = 8 then (0x06, s.regionDetail i.fphys) else (jobPass, i.code))
  else if i.cls = clsKey then (0x04, 0)
  else if i.cls = clsTrans then (0x05, i.code)
  else if i.cls = clsRegion then (0x06, s.regionDetail i.fphys)
  else if i.cls = clsAddrForm ∨ i.cls = clsDigitPos then (0x07, 0x01)
  else if i.cls = clsRange then (0x07, 0x02)
  else if i.cls = clsWordAlign then (0x07, 0x03)
  else if i.cls = clsData then (jobData, 0)
  else (jobBadField, 0)

/-- The binding of a job's queue pair. -/
def State.binding (s : State) (x : Job) : Option Binding := x.qp.bind fun q => s.hi.qps[q].bind

/-- The authority of a Watershed or unit job from a queue pair (R430): APASS valid, unsealed and granting DEVICE; the status when it is
not. A job of a slot was submitted by a core under DEVICE, and one from the fabric was tested where it was submitted. -/
def State.authority (s : State) (x : Job) : Option (BitVec 8) :=
  match x.qp with
  | none => none
  | some _ =>
    match s.binding x with
    | none => some 1
    | some b =>
      if !b.apass.valid then some 1 else if b.apass.sealed then some 2
      else if !b.apass.grants permDevice then some 3 else none

/-- A completion word (R148). -/
def complWord (status : BitVec 8) (seq : BitVec 48) (leg : BitVec 4) (dup solo xp : Bool) (detail : BitVec 8) : Word :=
  at' status 64 ||| at' seq 16 ||| at' leg 12 ||| flagAt dup 11 ||| flagAt solo 10 ||| flagAt xp 9 ||| at' detail 0

end Sys2Proof.Machine
end

