-- ==== Sys2Proof/Machine/Ledger.lean ====
section
/-! DEFINITION. The ledger in the Plain: cells, limit rules, the filter ring and the journal ring (R137-R146, R161, R175-R189), the
records of the journal, and how a record is applied (R212). -/

namespace Sys2Proof.Machine

/-! ## Packed amounts -/

/-- Whether a word is a valid packed-decimal number (R12). -/
def packedOk (w : Word) : Bool := (firstBad (posList w) 0).isNone

/-- The value of a packed-decimal word. -/
def packedInt (w : Word) : Int := (packedVal (posList w)).val

/-- A balance or a limit as read. A word that is no packed-decimal number, as in a ledger newly created with zeros (R478), counts as
zero (log 17). -/
def balInt (w : Word) : Int := if packedOk w then packedInt w else 0

/-- A value as a packed word (R12, R80). -/
def packInt (v : Int) : Word := (fitDec 17 (decide (v < 0)) v.natAbs).word

/-! ## Cells and rules (R140, R142) -/

/-- The four words of a cell. -/
structure CellWords where
  bal : Word
  ctl : Word
  lseq : Word
  acct : Word
  deriving DecidableEq, Repr

def CellWords.state (c : CellWords) : Nat := (bits c.ctl 70 2).toNat
def CellWords.scale (c : CellWords) : BitVec 5 := bits c.ctl 65 5
def CellWords.cur (c : CellWords) : BitVec 12 := bits c.ctl 53 12
def CellWords.rule (c : CellWords) : Nat := (bits c.ctl 37 16).toNat

/-- The address of word k of cell i. -/
def State.cellAddr (s : State) (i k : Nat) : WAddr := plainAddr (s.applied.peCellBase.toNat + 4 * i + k)

/-- The address of word k of rule r. -/
def State.ruleAddr (s : State) (r k : Nat) : WAddr := plainAddr (s.applied.peRuleBase.toNat + 4 * r + k)

/-- The words of cell i in memory. -/
def State.cellWords (s : State) (i : Nat) : CellWords :=
  { bal := s.data (s.cellAddr i 0), ctl := s.data (s.cellAddr i 1), lseq := s.data (s.cellAddr i 2), acct := s.data (s.cellAddr i 3) }

/-! ## Legs (R145, R146) -/

def l0Op (w : Word) : BitVec 2 := bits w 70 2
def l0Cur (w : Word) : BitVec 12 := bits w 58 12
def l0Pair (w : Word) : PairId := bits w 46 12
def l0Ci (w : Word) : Nat := (bits w 24 22).toNat
def l0Rule (w : Word) : Nat := (bits w 24 16).toNat
def l0Sel (w : Word) : BitVec 2 := bits w 22 2

/-- A leg as a record carries it (R181). -/
structure LegEnt where
  op : BitVec 2
  rem : Bool
  /-- Cell index, or the rule index for OP 2. -/
  ci : Nat
  sel : BitVec 2
  amt : Int
  newBal : Int
  pair : PairId
  val : Word
  deriving DecidableEq, Repr

/-- The 144 bits of an entry as its two words. -/
def entWords (e : BitVec 144) : List Word := [bits e 72 72, bits e 0 72]

/-- A 58-bit two's-complement field of an entry. -/
def amtField (v : Int) : BitVec 144 := (BitVec.ofInt 58 v).setWidth 144

/-- The two words of a leg entry in an accepted or prepare record (R181, R182). -/
def LegEnt.words (e : LegEnt) : List Word :=
  let top : BitVec 144 := (e.op.setWidth 144 <<< 142) ||| ((BitVec.ofBool e.rem).setWidth 144 <<< 141) ||| (BitVec.ofNat 144 e.ci <<< 120)
  if e.op = 0 then
    entWords (top ||| (amtField e.amt <<< 58) ||| (if e.rem then e.pair.setWidth 144 <<< 46 else amtField e.newBal))
  else entWords (top ||| (e.sel.setWidth 144 <<< 118) ||| e.val.setWidth 144)

/-- A leg entry from its two words. -/
def LegEnt.ofWords (a b : Word) : LegEnt :=
  let e : BitVec 144 := (a.setWidth 144 <<< 72) ||| b.setWidth 144
  let op := bits e 142 2
  let rem := bit e 141 && op == 0
  { op := op, rem := rem, ci := (if op = 2 then (bits e 120 16).toNat else (bits e 120 21).toNat), sel := bits e 118 2,
    amt := (bits e 58 58).toInt, newBal := (bits e 0 58).toInt, pair := bits e 46 12, val := b }

/-- A leg of a flight as its record carries it. `own` is this module's pair. -/
def Leg.ent (own : PairId) (l : Leg) : LegEnt :=
  let op := l0Op l.l0
  { op := op, rem := op == 0 && l0Pair l.l0 != own, ci := (if op = 2 then l0Rule l.l0 else l0Ci l.l0),
    sel := (if op = 0 then 0 else l0Sel l.l0), amt := balInt l.l1, newBal := l.newBal, pair := l0Pair l.l0,
    val := l.l1 }

/-- What an accepted leg does to the words of its cell (R141, R146): `seq` goes into LSEQ and PCOUNT counts. -/
def LegEnt.onCell (e : LegEnt) (seq : BitVec 48) (c : CellWords) : CellWords :=
  let c := { c with lseq := at' seq 24 ||| (inc (bits c.lseq 0 24)).setWidth 72 }
  if e.op = 0 then { c with bal := packInt e.newBal }
  else match e.sel.toNat with
    | 0 => { c with ctl := setBits c.ctl 70 2 (bits e.val 0 2) }
    | 1 => { c with ctl := setBits c.ctl 37 16 (bits e.val 0 16) }
    | 2 => { c with acct := e.val }
    | _ => { c with ctl := setBits (setBits c.ctl 65 5 (bits e.val 12 5)) 53 12 (bits e.val 0 12) }

/-- A word written when it differs from what the array holds or the array holds it uncorrectable. -/
def State.putNew (s : State) (pa : WAddr) (v : Word) : State :=
  if (s.cell pa).bad || s.data pa != v then s.putWord pa v else s

/-- Whether this module's banks keep the cells of a posting in their reservation buffers (R153): it sequenced the posting itself. -/
def State.buffered (s : State) (seq : BitVec 48) : Bool := s.led.flights.any fun f => f.seq == seq

/-- The PCOUNT that a cell counts on from: a free value when the LSEQ word that held it is lost (R169, log 17). -/
def State.countBase (s : State) (seq : BitVec 48) (i : Nat) : Word × State :=
  let v := s.data (s.cellAddr i 2)
  if (s.cell (s.cellAddr i 2)).bad && !s.buffered seq then
    (setBits v 0 24 (bits (Config.freeWord s.free) 0 24), { s with free := s.free + 1 })
  else (v, s)

/-- The words of a cell that an accepted leg changes, written (R169, R212): BAL or the word of the changed field, and LSEQ. BAL, LSEQ and ACCT are
written whole, which replaces poison in them. A CTL word whose other fields are lost stays lost unless the bank holds the cell. -/
def State.putLeg (s : State) (seq : BitVec 48) (e : LegEnt) (d : CellWords) : State :=
  let s' := s.putNew (s.cellAddr e.ci 2) d.lseq
  if e.op = 0 then s'.putNew (s.cellAddr e.ci 0) d.bal
  else if e.sel = 2 then s'.putNew (s.cellAddr e.ci 3) d.acct
  else if (s.cell (s.cellAddr e.ci 1)).bad && !s.buffered seq then s'
  else s'.putNew (s.cellAddr e.ci 1) d.ctl

/-- An accepted leg applied (R212): a cell that already shows an LSEQ at or above `seq` is skipped; a remote leg touches nothing here. -/
def State.applyEnt (s : State) (seq : BitVec 48) (e : LegEnt) : State :=
  if e.rem then s
  else if e.op = 2 then s.putNew (s.ruleAddr e.ci e.sel.toNat) e.val
  else
    let c := s.cellWords e.ci
    if !(s.cell (s.cellAddr e.ci 2)).bad && decide (seq.toNat ≤ (bits c.lseq 24 48).toNat) then s
    else
      let (v, s) := s.countBase seq e.ci
      s.putLeg seq e (e.onCell seq { c with lseq := v })

/-! ## The journal ring (R175, R176, R179, R180) -/

/-- The physical address of the ring word at a position (R176). -/
def State.ringAddr (s : State) (p : Nat) : WAddr :=
  plainAddr (s.applied.jnRingBase.toNat + p % 2 ^ s.applied.jnRingLog2.toNat)

/-- The ring word at a position. -/
def State.ringWord (s : State) (p : Nat) : Word := s.data (s.ringAddr p)

/-- n ring words from a position. -/
def State.ringWords (s : State) (p n : Nat) : List Word := (List.range n).map fun i => s.ringWord (p + i)

/-- Ring words written from a position on. -/
def State.putRing (s : State) (p : Nat) : List Word → State
  | [] => s
  | v :: r => (s.putWord (s.ringAddr p) v).putRing (p + 1) r

/-- The TYPE of a record header. -/
def recType (w0 : Word) : Nat := (bits w0 68 4).toNat

/-- The length of a record by its header (R180). -/
def recLen (w0 : Word) : Option Nat :=
  let n := (bits w0 64 4).toNat + 1
  match recType w0 with
  | 1 | 2 | 3 => some (4 + 2 * n)
  | 4 => some 4
  | 5 => some (4 + n)
  | 6 => some 12
  | _ => none

def recSeq (w0 : Word) : BitVec 48 := bits w0 0 48
def recStatus (w0 : Word) : BitVec 8 := bits w0 56 8
def recLeg (w0 : Word) : BitVec 4 := bits w0 52 4
def recSolo (w0 : Word) : Bool := bit w0 51
def recXp (w0 : Word) : Bool := bit w0 50
def recPart (w0 : Word) : Bool := bit w0 49

/-- A record header W0 (R179). -/
def recHeader (type : BitVec 4) (nleg : Nat) (status : BitVec 8) (leg : BitVec 4) (solo xp part : Bool) (seq : BitVec 48) : Word :=
  at' type 68 ||| at' (BitVec.ofNat 4 nleg) 64 ||| at' status 56 ||| at' leg 52 ||| flagAt solo 51 ||| flagAt xp 50 ||| flagAt part 49
    ||| at' seq 0

/-- The HOME word (R180). -/
def homeWord (home : PairId) (n : BitVec 48) : Word := at' home 60 ||| at' n 12

/-- The leg entries of an accepted or prepare record from its words. -/
def entsOf : List Word → List LegEnt
  | a :: b :: r => LegEnt.ofWords a b :: entsOf r
  | _ => []

/-- The number of the block that holds a sequence number (R187). -/
def blockOf (seq : BitVec 48) : Nat := (seq.toNat - 1) / 64

/-- The position of the first record that has a number and is not written; JN_WPOS when there is none. -/
def State.ringEnd (s : State) : Nat :=
  match s.led.recs.find? fun r => !r.trailer && !r.written with
  | some r => r.pos.toNat
  | none => s.led.wpos.toNat

/-- The records and trailers from a position up to another, each as its position and header; the trailer slot after a block's 64th record
is passed over (R187). Fuel: words. -/
def State.scanRing (s : State) : Nat → Nat → Nat → List (Nat × Word)
  | 0, _, _ => []
  | f + 1, p, e =>
    if e ≤ p then []
    else
      let w := s.ringWord p
      match recLen w with
      | none => []
      | some n => (p, w) :: s.scanRing f (p + n + (if recType w ≠ 6 ∧ (recSeq w).toNat % 64 = 0 then 12 else 0)) e

/-- The records written in the ring from JN_APOS on, which a trailer may begin (R199). -/
def State.ringRecords (s : State) : List (Nat × Word) :=
  s.scanRing (s.ringEnd - s.led.apos.toNat) s.led.apos.toNat s.ringEnd

/-- The decision record of a posting (home, n) in the ring: whether it committed (R165, R167). -/
def State.decisionFor (s : State) (home : PairId) (n : BitVec 48) : Option Bool :=
  (s.ringRecords.find? fun r => recType r.2 == 4 && s.ringWord (r.1 + 1) == homeWord home n).map fun r => recStatus r.2 == 0

/-! ## The filter ring (R161) -/

/-- The address of word k of a filter slot. -/
def State.filterAddr (s : State) (slot k : Nat) : WAddr := plainAddr (s.applied.peFilterBase.toNat + 2 * slot + k)

/-- The slots that hold an entry: those whose first word is listed and not zero. -/
def State.filterEntries (s : State) : List (Nat × Word × Word) :=
  if s.applied.peCellCount = 0 then []
  else
    let base := 2 ^ 48 + s.applied.peFilterBase.toNat
    s.mem.filterMap fun e =>
      if base ≤ e.1 ∧ e.1 < base + 2 ^ 20 ∧ (e.1 - base) % 2 = 0 ∧ e.2.data ≠ 0 then
        some ((e.1 - base) / 2, e.2.data, s.data (BitVec.ofNat 52 (e.1 + 1)))
      else none

/-- The completion word of the filter entry with a reference. -/
def State.filterFind (s : State) (ref : BitVec 64) : Option Word :=
  (s.filterEntries.find? fun e => bits e.2.1 8 64 == ref).map fun e => e.2.2

/-- SEQ of a completion word (R148). -/
def complSeq (w : Word) : BitVec 48 := bits w 16 48

/-- The slot after the entry whose completion word holds the highest SEQ, or 0 (R161, R477). -/
def State.filterAfterScan (s : State) : BitVec 19 :=
  match s.filterEntries.foldl (fun (b : Option (Nat × Word × Word)) e =>
      match b with
      | none => some e
      | some x => if (complSeq x.2.2).toNat < (complSeq e.2.2).toNat then some e else b) none with
  | none => 0
  | some e => BitVec.ofNat 19 (e.1 + 1)

/-- An entry written in the next slot; a ring that already holds the entry of this posting is left as it is (R212). -/
def State.filterAdd (s : State) (ref : BitVec 64) (w : Word) : State :=
  if ref = 0 || s.filterEntries.any fun e => bits e.2.1 8 64 == ref && complSeq e.2.2 == complSeq w then s
  else
    let k := s.led.filterNext
    let s := (s.putNew (s.filterAddr k.toNat 0) (at' ref 8)).putNew (s.filterAddr k.toNat 1) w
    { s with led := { s.led with filterNext := inc k } }

/-- The entry of a cross-pair posting updated with its final word (R162). A final word of class T is not entered (R161), so its entry
no longer names a reference (log 17). -/
def State.filterFinal (s : State) (seq : BitVec 48) (w : Word) : State :=
  match s.filterEntries.find? fun e => complSeq e.2.2 == seq with
  | none => s
  | some e =>
    let s := s.putNew (s.filterAddr e.1 1) w
    if bits w 68 4 = 3 then s.putNew (s.filterAddr e.1 0) 0 else s

/-! ## Applying a record (R212) -/

/-- The leg entries of the accepted or prepare record at a position. -/
def State.entsAt (s : State) (pos : Nat) : List LegEnt :=
  entsOf (s.ringWords (pos + 4) (2 * ((bits (s.ringWord pos) 64 4).toNat + 1)))

/-- The legs of the record at a position applied under a sequence number. -/
def State.applyLegs (s : State) (pos : Nat) (seq : BitVec 48) : State := (s.entsAt pos).foldl (fun s e => s.applyEnt seq e) s

/-- What the prepare record at a position holds in doubt (R157, R160, R165): the cells of its local legs. -/
def State.prepAt (s : State) (pos : Nat) : Prep :=
  let w0 := s.ringWord pos
  let w1 := s.ringWord (pos + 1)
  let ents := s.entsAt pos
  { seq := recSeq w0, pos := BitVec.ofNat 64 pos, home := if recPart w0 then bits w1 60 12 else s.applied.lbPair,
    n := if recPart w0 then bits w1 12 48 else recSeq w0, part := recPart w0,
    cells := (ents.filter fun e => !e.rem && decide (e.op.toNat ≤ 1)).map (·.ci), rule := ents.any fun e => e.op == 2 }

/-- A prepare record that holds its legs in doubt from now on. -/
def State.addPrep (s : State) (p : Prep) : State :=
  if s.led.preps.any fun q => q.seq == p.seq then s else { s with led := { s.led with preps := s.led.preps ++ [p] } }

/-- A prepare record that holds nothing any more. -/
def State.dropPrep (s : State) (seq : BitVec 48) : State :=
  { s with led := { s.led with preps := s.led.preps.filter fun q => q.seq != seq } }

/-- The filter entry that the record at a position makes when it is applied (R161, R212): REF and completion word; none for one that is not
entered. -/
def State.entryAt (s : State) (pos : Nat) (solo : Bool) : Option (BitVec 64 × Word) :=
  let w0 := s.ringWord pos
  let ref := bits (s.ringWord (pos + 1)) 8 64
  let word (status : BitVec 8) (leg : BitVec 4) (xp : Bool) : Option (BitVec 64 × Word) :=
    some (ref, complWord status (recSeq w0) leg false (recSolo w0 || solo) xp 0)
  if recPart w0 || ref == 0 then none
  else match recType w0 with
    | 1 => word 0 0 (recXp w0)
    | 2 => if bits (recStatus w0) 4 4 == 3 then none else word (recStatus w0) (recLeg w0) (recXp w0)
    | 3 => word 1 0 true
    | _ => none

/-- The final completion word that the decision record at a position gives. -/
def State.finalAt (s : State) (pos : Nat) (solo : Bool) : Word :=
  let w0 := s.ringWord pos
  complWord (recStatus w0) (bits (s.ringWord (pos + 2)) 24 48) (recLeg w0) false (recSolo w0 || solo) true 0

/-- A record applied: `solo` says that its completion carries SOLO (R222), `final` the final word that a coordinator knows. -/
def State.applyRecord (s : State) (pos : Nat) (solo : Bool) (final : Option Word) : State :=
  let w0 := s.ringWord pos
  let enter (t : State) : State := match s.entryAt pos solo with
    | some (ref, w) => t.filterAdd ref w
    | none => t
  match recType w0 with
  | 1 => enter (s.applyLegs pos (recSeq w0))
  | 2 => enter s
  | 3 => enter (s.addPrep (s.prepAt pos))
  | 4 =>
    let pseq := bits (s.ringWord (pos + 2)) 24 48
    match s.led.preps.find? fun q => q.seq == pseq with
    | none => s
    | some p =>
      let t := if recStatus w0 = 0 then s.applyLegs p.pos.toNat pseq else s
      let t := t.dropPrep pseq
      if p.part then t else t.filterFinal pseq (final.getD (s.finalAt pos solo))
  | _ => s

/-! ## Credit, positions and the block chain (R173, R176, R189, R195) -/

/-- Words of credit (R189). -/
def State.credit (s : State) : Int :=
  (2 ^ s.applied.jnRingLog2.toNat : Int) - (s.led.wpos.toNat - s.led.apos.toNat : Int) - s.led.decisionWords

/-- Whether an entry of `recs` is durable: a record up to the horizon, and a trailer that is written, on both twins or under a solo
grant (R176, R211). A follower knows a trailer that its leader sent to be written on both. -/
def State.recDurable (s : State) (r : Rec) : Bool :=
  r.written && (if r.trailer then s.ws.role == 3 || decide (blockOf r.seq < s.ws.twinTblk.toNat) else decide (r.seq.toNat ≤ s.ws.ahor.toNat))

/-- TBLK: the first block whose trailer is not written and verified here (R208, R211). -/
def State.tblk (s : State) : BitVec 48 :=
  match s.led.recs.find? fun r => r.trailer && !r.written with
  | some r => BitVec.ofNat 48 (blockOf r.seq)
  | none => BitVec.ofNat 48 ((s.led.seqNext.toNat - 1) / 64)

/-- Four digest words as a digest (R186). -/
def digestOf (l : List Word) : BitVec 256 := l.foldl (fun (a : BitVec 256) w => (a <<< 64) ||| (bits w 8 64).setWidth 256) 0

/-- D of the last block whose trailer is written, from that trailer; the zero digest before the first (R178, R186, R195). -/
def State.prevDigest (s : State) : BitVec 256 :=
  match s.led.lastTrailer with
  | some p => digestOf (s.ringWords (p.toNat + 4) 4)
  | none => 0

/-- JN_HASH_BACKLOG: durable records without a digest, at most 4,096 (R173, R175). -/
def State.hashBacklog (s : State) : Nat :=
  min 4096 (s.led.recs.filter fun r => !r.trailer && r.digest.isNone && s.recDurable r).length

/-- The first position not yet durable (R176). -/
def State.firstUndurable (s : State) : List Rec → BitVec 64
  | [] => s.led.wpos
  | r :: l => if s.recDurable r then s.firstUndurable l else r.pos

/-- The records after the last durable trailer: what lies under it needs no entry. -/
def State.openRecs (s : State) : List Rec → List Rec → List Rec
  | [], acc => acc
  | r :: l, acc => if r.trailer && s.recDurable r then s.openRecs l [] else s.openRecs l (acc ++ [r])

/-- JN_DPOS brought up to date (R176): it goes back only with a tail that is discarded. Records under a durable trailer are forgotten. -/
def State.settleDpos (s : State) : State :=
  let d := s.firstUndurable s.led.recs
  let durable := s.led.recs.takeWhile s.recDurable
  let rest := s.led.recs.drop durable.length
  let kept := s.openRecs durable [] ++ rest
  { s with led := { s.led with dpos := if s.led.dpos.toNat < d.toNat then d else s.led.dpos, recs := kept, blockNext := BitVec.ofNat 48 ((s.led.seqNext.toNat - 1) / 64) } }

/-- JN_EVT bit k set, which raises posting-and-journal source 13 + k (R175). -/
def State.setJnEvt (s : State) (k : Nat) : State :=
  ({ s with led := { s.led with evt := setBit s.led.evt k true } } : State).raise (205 + k)

/-- Credit below LOWATER (R175). -/
def State.lowCredit (s : State) : Bool :=
  let lo := (bits s.applied.jnCtl 8 8).toNat
  lo != 0 && decide (s.credit < lo * 2 ^ (s.applied.jnRingLog2.toNat - 8))

/-- JN_EVT.LOW after a charge: set when credit has fallen below LOWATER. -/
def State.noteLow (s t : State) : State := if t.lowCredit && !s.lowCredit then t.setJnEvt 0 else t

end Sys2Proof.Machine
end

