-- ==== Sys2Proof/Machine/Posting.lean ====
section
/-! DEFINITION. POST and COMMIT, the posting sequencer, the bank posting units, decisions, the durable horizon and completions
(R147-R169, R187-R192). -/

namespace Sys2Proof.Machine

/-! ## Words of a request -/

def PostReq.word (r : PostReq) (k : Nat) : Word := r.words.getD k 0
/-- REF (R144); a COMMIT has none. -/
def PostReq.ref (r : PostReq) : BitVec 64 := if r.commit then 0 else bits (r.word 0) 8 64
/-- The header word with SRC and CTX: H1, or C0 of a commit block. -/
def PostReq.head (r : PostReq) : Word := if r.commit then r.word 0 else r.word 1
/-- Legs or payload words. -/
def PostReq.count (r : PostReq) : Nat := (bits r.head 64 4).toNat + 1
/-- The legs of a vector. -/
def PostReq.legs (r : PostReq) : List (Word × Word) :=
  (List.range r.count).map fun i => (r.word (3 + 2 * i), r.word (4 + 2 * i))
/-- The payload of a commit block. -/
def PostReq.payload (r : PostReq) : List Word := (List.range r.count).map fun i => r.word (2 + i)
/-- W2 of a record: SRC and CTX (R180). -/
def PostReq.w2 (r : PostReq) : Word := at' (bits r.head 48 16) 56 ||| at' (bits r.head 0 48) 8

/-- The home pair and number of a participant's part. -/
def PostReq.home (r : PostReq) : Option (PairId × BitVec 48) := match r.issuer with
  | .home p n => some (p, n)
  | _ => none

/-! ## Completions known and waiting to be written (R148) -/

/-- A completion word that is known. -/
def State.complete (s : State) (r : PostReq) (w : Word) : State :=
  { s with led := { s.led with done := s.led.done ++ [{ req := r, word := w, final := false }] } }

/-- The final word of a cross-pair posting. A coordinator that took the posting over with the lead knows no completion slot (R167, R222): the
record names none. -/
def State.completeFinal (s : State) (r : PostReq) (w : Word) : State :=
  if r.home.isSome then s else { s with led := { s.led with done := s.led.done ++ [{ req := r, word := w, final := true }] } }

/-- PE_NOTSEQ_COUNT. -/
def State.countNotSeq (s : State) (r : PostReq) : State :=
  if r.commit then s else { s with led := { s.led with notseq := inc s.led.notseq } }

/-! ## Messages between pairs (R164, R455) -/

/-- A POST-MSG from the posting engine. -/
def State.postMsg (s : State) (dst : PairId) (vc : BitVec 2) (home : PairId) (n : BitVec 48) (kind : BitVec 4) (status : BitVec 8)
    (payload : List Word) : State :=
  if (s.blocked dst).isSome then s
  else s.issue (packet 6 vc dst false 0x60 (at' home 60 ||| at' n 12 ||| at' kind 8 ||| at' status 0) payload)

/-- The SCALE octets of a YES (R168). -/
def scaleWords (l : List (BitVec 8)) : List Word := if l.length ≤ 9 then [wordOfOctets l] else [wordOfOctets (l.take 9), wordOfOctets (l.drop 9)]

/-- The vote of a participant: YES with its scales, or NO with its status. -/
def State.vote (s : State) (p : Part) : State :=
  if p.vote = 0 then s.postMsg p.home 1 p.home p.n 8 0 (scaleWords (p.legs.map fun l => l.scale.setWidth 8))
  else s.postMsg p.home 1 p.home p.n 9 p.vote []

/-- One coordinated posting replaced by a function of it. -/
def State.updCoord (s : State) (n : BitVec 48) (f : Coord → Coord) : State :=
  { s with led := { s.led with coords := mapIf (fun c => c.n == n) f s.led.coords } }

/-- One participant's posting replaced by a function of it. -/
def State.updPart (s : State) (home : PairId) (n : BitVec 48) (f : Part → Part) : State :=
  { s with led := { s.led with parts := mapIf (fun p => p.home == home && p.n == n) f s.led.parts } }

def State.coordFor (s : State) (n : BitVec 48) : Option Coord := s.led.coords.find? fun c => c.n == n
def State.partFor (s : State) (home : PairId) (n : BitVec 48) : Option Part := s.led.parts.find? fun p => p.home == home && p.n == n

/-! ## Vector checks, items 1 to 4 (R152) -/

/-- Whether L1 of an administrative leg has a nonzero bit where R146 gives 0. -/
def adminReserved (sel : BitVec 2) (v : Word) : Bool :=
  match sel.toNat with
  | 0 => bits v 2 70 != 0
  | 1 => bits v 16 56 != 0
  | 2 => bits v 0 8 != 0
  | _ => bits v 17 55 != 0

/-- What a leg names: its cell, or its rule word. -/
def legNames (l : Word × Word) : Nat × Nat × Nat :=
  let op := l0Op l.1
  if op = 2 then (2, l0Rule l.1, (l0Sel l.1).toNat) else (op.toNat / 2, (l0Pair l.1).toNat, l0Ci l.1)

/-- The checks of item 3 on one leg; `earlier` are the lower-indexed legs, `own` this module's pair. A participant's own legs and the
local legs of the home pair are held against this module's cells. -/
def State.legCheck (s : State) (earlier : List (Word × Word)) (l : Word × Word) : BitVec 8 :=
  let op := l0Op l.1
  let local_ := l0Pair l.1 == s.applied.lbPair
  let bad := op == 3 || bits l.1 0 22 != 0 || (op == 0 && l0Sel l.1 != 0) || (op != 0 && l0Cur l.1 != 0)
    || (op == 2 && bits l.1 40 6 != 0) || (op == 1 && adminReserved (l0Sel l.1) l.2) || (op != 0 && !local_)
  if bad then 0x1D
  else if op == 0 && !packedOk l.2 then 0x1A
  else if op != 2 && local_ && decide (s.applied.peCellCount.toNat ≤ l0Ci l.1) then 0x1B
  else if op == 2 && (l0Rule l.1 == 0 || decide (s.applied.peRuleCount.toNat ≤ l0Rule l.1)) then 0x1C
  else if op == 1 && l0Sel l.1 == 1 && decide (s.applied.peRuleCount.toNat ≤ (bits l.2 0 16).toNat) then 0x1C
  else if earlier.any fun e => legNames e == legNames l then 0x1E
  else 0

/-- Item 3 over all legs in index order. -/
def State.legChecks (s : State) : List (Word × Word) → List (Word × Word) → List (BitVec 8)
  | _, [] => []
  | earlier, l :: r => s.legCheck earlier l :: s.legChecks (earlier ++ [l]) r

/-- The first leg that failed, and its status. -/
def firstFail (l : List (BitVec 8)) : Option (BitVec 8 × BitVec 4) :=
  (findIdx (fun x => x != 0) l 0).map fun i => (l.getD i 0, BitVec.ofNat 4 i)

/-- Whether the amount legs of some CUR do not sum to zero (item 4). -/
def unbalanced (l : List (Word × Word)) : Bool :=
  let am := l.filter fun x => l0Op x.1 == 0
  am.any fun x => (am.filter fun y => l0Cur y.1 == l0Cur x.1).foldl (fun a y => a + packedInt y.2) (0 : Int) != 0

/-- The pairs that the legs name, each once. -/
def pairsOf (l : List (Word × Word)) : List PairId := (l.map fun x => l0Pair x.1).eraseDups

/-- Items 1 to 4 of R152: the failing status and LEG, and each leg's reason (R183). -/
def State.vectorChecks (s : State) (r : PostReq) : Option (BitVec 8 × BitVec 4) × List (BitVec 8) :=
  let legs := r.legs
  let none_ := legs.map fun _ => (0 : BitVec 8)
  if bits (r.word 1) 68 4 ≠ 1 ∨ bits (r.word 0) 0 8 ≠ 0 then (some (0x26, 0), none_)
  else if (pairsOf legs).length > 4 then (some (0x22, 0), none_)
  else
    let rs := s.legChecks [] legs
    match firstFail rs with
    | some x => (some x, rs)
    | none => if r.home.isNone && unbalanced legs then (some (0x10, 0), none_) else (none, none_)

/-! ## Assigning a sequence number (R151, R174, R189) -/

/-- Words charged for a record at a sequence number: its length, and the trailer slot after a block's 64th record. -/
def charge (seq : BitVec 48) (len : Nat) : Nat := len + (if seq.toNat % 64 = 0 then 12 else 0)

/-- A sequence number, a position and ring space taken for a record (R187, R189). -/
def State.takeSeq (s : State) (len : Nat) : State :=
  let q := s.led.seqNext
  let r : Rec := { trailer := false, seq := q, pos := s.led.wpos, len := len, written := false, digest := none }
  let t : List Rec := if q.toNat % 64 = 0 then
    [{ trailer := true, seq := q, pos := s.led.wpos + BitVec.ofNat 64 len, len := 12, written := false, digest := none }] else []
  { s with led := { s.led with
      seqNext := inc q, wpos := s.led.wpos + BitVec.ofNat 64 (charge q len), recs := s.led.recs ++ [r] ++ t,
      blockNext := BitVec.ofNat 48 (q.toNat / 64) } }

/-- The hash backlog stops the sequencer (R173): each time that it comes to a stop, JN_EVT.STALL is set (R175). -/
def State.noteStall (s : State) : State :=
  if s.led.stalled then s else ({ s with led := { s.led with stalled := true } } : State).setJnEvt 3

/-- The sequencer is not stopped by the backlog. -/
def State.clearStall (s : State) : State := { s with led := { s.led with stalled := false } }

/-- Whether the backlog of R173 keeps the sequencer from assigning a number. -/
def State.backlogged (s : State) : Bool := decide (4096 ≤ s.hashBacklog)

/-- Whether n further ring words would overwrite one at or above JN_APOS (R176, R190). -/
def State.ringFull (s : State) (n : Nat) : Bool :=
  decide (2 ^ s.applied.jnRingLog2.toNat < s.led.wpos.toNat + n - s.led.apos.toNat)

/-- A decision takes the next sequence number and the words charged with its prepare record (R184, R189). -/
def State.numberDecision (s : State) (d : WaitDec) : State :=
  let f : Flight :=
    { seq := s.led.seqNext, req := { d.req with words := [d.pseq.setWidth 72] }, pos := s.led.wpos, len := 4,
      kind := .decision d.home d.n (d.status == 0), legs := [], early := some (d.status, d.leg), decided := none, solo := false, xp := true,
      prepare := false }
  let t := s.takeSeq 4
  s.noteLow { t with led := { t.led with decisionWords := t.led.decisionWords - 4, flights := t.led.flights ++ [f] } }

/-- Decisions that wait take their numbers in order (R173). A decision that is the 64th record of its block also waits while the ring has no
room for the trailer slot after it, which no prepare record is charged with (R176, R189, R190, log 51). Fuel: the decisions that wait. -/
def State.numberDecisions (s : State) : Nat → State
  | 0 => s
  | k + 1 =>
    match s.led.decisions with
    | [] => s
    | d :: r =>
      if s.backlogged then s.noteStall
      else if s.ringFull (charge s.led.seqNext 4) then s
      else (({ s.clearStall with led := { s.clearStall.led with decisions := r } } : State).numberDecision d).numberDecisions k

/-- The decisions that can take a number now take it. -/
def State.releaseDecisions (s : State) : State := s.numberDecisions s.led.decisions.length

/-- A decision on a prepared posting (R184), made now (R188). -/
def State.decide_ (s : State) (r : PostReq) (home : PairId) (n : BitVec 48) (pseq : BitVec 48) (status : BitVec 8) (leg : BitVec 4) : State :=
  let d : WaitDec := { req := { r with since := s.now }, home := home, n := n, pseq := pseq, status := status, leg := leg }
  ({ s with led := { s.led with decisions := s.led.decisions ++ [d] } } : State).releaseDecisions

/-- The legs of a request as they enter a flight: reasons found so far; a remote leg of a coordinator needs no bank. -/
def State.newLegs (s : State) (r : PostReq) (failed : Bool) (rs : List (BitVec 8)) : List Leg :=
  (r.legs.zip rs).map fun x =>
    { l0 := x.1.1, l1 := x.1.2, res := if failed || l0Pair x.1.1 != s.applied.lbPair then some x.2 else none, newBal := 0, cur := 0,
      scale := 0, heal := none }

/-- The status with which a module that does not sequence answers (R149, R151); none on a LEADER or SOLO module with ENABLE 1. -/
def State.notSequencing (s : State) : Option (BitVec 8) :=
  match s.ws.role.toNat with
  | 0 => some 0x41
  | 2 => some 0x42
  | 4 | 5 => some 0x43
  | _ => if bit s.applied.peCtl 0 then none else some 0x45

/-- A participant's part that ends with a NO of class N, for which no record stands (R165): the vote is repeated when it is asked for again. -/
def State.partNo (s : State) (home : PairId) (n : BitVec 48) (status : BitVec 8) : State :=
  let s := s.updPart home n fun p => { p with phase := 2, vote := status }
  match s.partFor home n with
  | some p => s.vote p
  | none => s

/-- A request that completes with a status of class N. A participant's part ends with a NO (R165). -/
def State.refuseReq (s : State) (r : PostReq) (status : BitVec 8) : State :=
  match r.home with
  | some (h, n) => s.partNo h n status
  | none => (s.countNotSeq r).complete r (complWord status 0 0 false false false 0)

/-- A posting in flight with a reference (R162): its ticket. -/
def State.inFlight (s : State) (ref : BitVec 64) : Option Nat :=
  match s.led.flights.find? fun f => f.kind == .posting && f.req.ref == ref with
  | some f => some f.req.ticket
  | none => (s.led.done.find? fun d => !d.final && d.req.home.isNone && d.req.ref == ref).map fun d => d.req.ticket

/-- A completion word answered to a repeated REF: DUP = 1 (R162). -/
def dupWord (w : Word) : Word := setBit w 11 true

/-- A POST answered with DUP = 1, which PE_DUP_COUNT counts. -/
def State.answerDup (s : State) (r : PostReq) (w : Word) : State :=
  ({ s with led := { s.led with dup := inc s.led.dup } } : State).complete r (dupWord w)

/-- The first arrival removed. -/
def State.dropArrival (s : State) : State := { s with led := { s.led with arrivals := s.led.arrivals.drop 1 } }

/-- A request numbered: its flight, and the coordinator's or the participant's entry (R151, R164, R165). -/
def State.assign (s : State) (r : PostReq) (early : Option (BitVec 8 × BitVec 4)) (rs : List (BitVec 8)) (len : Nat) : State :=
  let q := s.led.seqNext
  let pos := s.led.wpos
  let own := s.applied.lbPair
  let remote := !r.commit && r.home.isNone && r.legs.any fun l => l0Pair l.1 != own
  let prepare := early.isNone && (remote || r.home.isSome)
  let legs := if r.commit then [] else s.newLegs r early.isSome rs
  let kind : FlightKind := match r.home with
    | some (h, n) => .part h n
    | none => if r.commit then .commit else .posting
  let f : Flight :=
    { seq := q, req := r, pos := pos, len := len, kind := kind, legs := legs, early := early, decided := none, solo := false,
      xp := remote || r.home.isSome, prepare := prepare }
  let s := s.takeSeq len
  let s : State := { s with led := { s.led with
    flights := s.led.flights ++ [f], decisionWords := s.led.decisionWords + (if prepare then 4 else 0) } }
  if remote && prepare then
    { s with led := { s.led with coords := s.led.coords ++
      [{ n := q, req := r, phase := 0, legs := legs, pairs := (pairsOf r.legs).filter fun p => p != own, yes := [], acks := [],
         commit := none, since := s.now, resent := s.now, revoted := false, final := 0 }] } }
  else s

/-- The length of a request's record (R180). -/
def PostReq.len (r : PostReq) : Nat := if r.commit then 4 + r.count else 4 + 2 * r.count

/-- The vector checks of a request; a commit block has none. -/
def State.checksOf (s : State) (r : PostReq) : Option (BitVec 8 × BitVec 4) × List (BitVec 8) := if r.commit then (none, []) else s.vectorChecks r

/-- The ring words that a request is charged with (R189): its record, the trailer slot after a block's 64th record, and the decision record of a
prepare record. -/
def State.need (s : State) (r : PostReq) : Nat :=
  let prepare := (s.checksOf r).1.isNone && !r.commit && (r.home.isSome || r.legs.any fun l => l0Pair l.1 != s.applied.lbPair)
  charge s.led.seqNext r.len + (if prepare then 4 else 0)

/-- Whether the ring has no room for a request's record (R174, R189). -/
def State.roomless (s : State) (r : PostReq) : Bool := decide (s.credit < s.need r)

/-- Whether a cross-pair posting with a rule write is neither applied nor rejected (R157). The sequencer numbers no posting after it until it is:
were one numbered before the decision, neither could ever become durable, since the decision takes a higher number (R154, log 50). -/
def State.ruleBarrier (s : State) : Bool :=
  (s.led.preps.any fun p => p.rule && !p.part)
    || s.led.flights.any fun f => f.prepare && f.early.isNone && ((f.decided.map (·.1)).getD 0) == 0 && f.legs.any fun l => l0Op l.l0 == 2

/-- SEQUENCE_ASSIGN (R151, R162, R174, R190): decisions that wait, and then the oldest waiting request. -/
def execSequenceAssign (s : State) : Host.Outcome State Fault Refusal :=
  let s := s.releaseDecisions
  .next (match s.led.arrivals with
  | [] => s
  | r :: rest =>
    match (if r.checked then none else s.notSequencing) with
    | some st => s.dropArrival.refuseReq r st
    | none =>
      match (if r.checked || r.commit || r.ref == 0 then none else s.inFlight r.ref) with
      | some t => { s.dropArrival with led := { s.dropArrival.led with dups := s.led.dups ++ [{ req := r, on := t, word := none }] } }
      | none =>
        match (if r.checked || r.commit || r.ref == 0 then none else s.filterFind r.ref) with
        | some w => s.dropArrival.answerDup r w
        | none =>
          let r := { r with checked := true }
          let waits : State := { s with led := { s.led with arrivals := r :: rest } }
          if (s.ws.role != 1 && s.ws.role != 3) || s.ruleBarrier || s.roomless r || !s.led.decisions.isEmpty && !s.backlogged then waits
          else if s.backlogged then waits.noteStall
          else
            let (early, rs) := s.checksOf r
            s.noteLow (s.dropArrival.clearStall.assign r early rs r.len))

/-- JOURNAL_FULL (R174, R190): the first waiting request whose FULLWAIT time has run out while room or the hash backlog holds it back. The
FULLWAIT time of a request with the same REF that stands behind it runs from now: it is taken again (R162). -/
def execJournalFull (s : State) : Host.Outcome State Fault Refusal :=
  let wait := 250 * 2 ^ min 6 (bits s.applied.peCtl 4 3).toNat
  .next (match s.led.arrivals.find? fun r => r.checked && decide (r.since.toNat + wait ≤ s.now.toNat) with
  | none => s
  | some r =>
    if !s.roomless r && !s.backlogged then s
    else
      let again (x : PostReq) : PostReq := if !x.commit && !r.commit && r.ref != 0 && x.ref == r.ref then { x with since := s.now } else x
      let s : State := { s with led := { s.led with arrivals := (s.led.arrivals.filter fun x => x.ticket != r.ticket).map again } }
      let s := if r.home.isNone then
        ({ s with led := { s.led with fullCnt := inc s.led.fullCnt } } : State).setJnEvt 1 else s
      s.refuseReq r 0x40)

/-! ## The bank posting units (R152 item 5, R153, R157-R160, R169) -/

/-- The bank of a local leg (R137, R138). -/
def State.legBank (s : State) (l : Leg) : Nat :=
  (if l0Op l.l0 = 2 then offsetOf (s.ruleAddr (l0Rule l.l0) (l0Sel l.l0).toNat) else offsetOf (s.cellAddr (l0Ci l.l0) 0)) / 4 % 64

/-- Whether a leg takes a cell, and which. -/
def Leg.cell (l : Leg) (own : PairId) : Option Nat := if l0Op l.l0 ≤ 1 && l0Pair l.l0 == own then some (l0Ci l.l0) else none

/-- Whether a flight writes a rule (R157). -/
def Flight.writesRule (f : Flight) : Bool := f.early.isNone && f.legs.any fun l => l0Op l.l0 == 2

/-- Whether a flight was decided as accepted and changes cells when it is applied. -/
def Flight.accepted (f : Flight) : Bool := !f.prepare && (f.decided.map (·.1)) == some 0 && f.kind == .posting

/-- The words of a cell with the effects of the earlier postings that were accepted and are not yet applied (R153). -/
def State.provisional (s : State) (seq : BitVec 48) (i : Nat) : CellWords :=
  let own := s.applied.lbPair
  (s.led.flights.filter fun f => f.accepted && decide (f.seq.toNat < seq.toNat)).foldl (fun c f =>
    f.legs.foldl (fun c l => if l.cell own == some i then (l.ent own).onCell f.seq c else c) c) (s.cellWords i)

/-- Whether a cell stands in its bank's reservation buffer (R153): an earlier posting that was accepted and is not yet applied holds it, or a
cross-pair posting in doubt does. -/
def State.reservedCell (s : State) (seq : BitVec 48) (i : Nat) : Bool :=
  let own := s.applied.lbPair
  (s.led.flights.any fun f => f.accepted && decide (f.seq.toNat < seq.toNat) && f.legs.any fun l => l.cell own == some i)
    || s.led.preps.any fun p => p.cells.contains i

/-- A word that is uncorrectable among those a bank reads from the array for a leg of posting `seq`: those of a cell that is not in the
reservation buffer (R153), and those of the rule that the cell names for an amount leg (R169). -/
def State.legPoison (s : State) (seq : BitVec 48) (l : Leg) : Option WAddr :=
  if l0Op l.l0 = 2 then none
  else
    let i := l0Ci l.l0
    let rule := (s.provisional seq i).rule
    let ws := (if s.reservedCell seq i then [] else (List.range 4).map (s.cellAddr i)) ++
      (if l0Op l.l0 = 0 ∧ rule ≠ 0 then (List.range 4).map (s.ruleAddr rule) else [])
    ws.find? fun a => (s.cell a).bad

/-- The limit checks of R143: 0 for a pass. -/
def State.limits (s : State) (c : CellWords) (a : Int) : BitVec 8 :=
  let b := balInt c.bal
  let w (k : Nat) : Word := s.data (s.ruleAddr c.rule k)
  let ctl := w 3
  if (b + a).natAbs ≥ 10 ^ 17 then 0x14
  else if c.rule = 0 then 0
  else if bit ctl 69 && decide (balInt (w 2) < a.natAbs) then 0x13
  else if bit ctl 71 && decide (a < 0) && decide (b + a < balInt (w 0)) then 0x11
  else if bit ctl 70 && decide (0 < a) && decide (balInt (w 1) < b + a) then 0x12
  else 0

/-- The conditions of an administrative or rule leg (R146). -/
def adminRefused (c : CellWords) (l : Leg) : Bool :=
  let v := l.l1
  match (l0Op l.l0).toNat, (l0Sel l.l0).toNat with
  | 1, 0 => bits v 0 2 == 3 && balInt c.bal != 0
  | 1, 3 => balInt c.bal != 0 || decide (16 < (bits v 12 5).toNat)
  | 1, _ => false
  | _, 3 => bits v 0 69 != 0
  | _, k => !packedOk v || (k == 2 && decide (packedInt v < 0))

/-- The checks of item 5 on a leg, but for SCALE MISMATCH (R152): the leg with its result. -/
def State.bankCheck (s : State) (seq : BitVec 48) (l : Leg) : Leg :=
  if l0Op l.l0 = 2 then { l with res := some (if adminRefused (s.cellWords 0) l then 0x21 else 0) }
  else
    let i := l0Ci l.l0
    let c := s.provisional seq i
    let l := { l with cur := c.cur, scale := c.scale }
    let am := l0Op l.l0 == 0
    if s.led.preps.any fun p => p.cells.contains i then { l with res := some 0x30 }
    else if c.state = 3 then { l with res := some 0x17 }
    else if am && c.state == 0 then { l with res := some 0x15 }
    else if am && c.state == 2 then { l with res := some 0x16 }
    else if am && c.cur != l0Cur l.l0 then { l with res := some 0x18 }
    else if am then { l with res := some (s.limits c (packedInt l.l1)), newBal := balInt c.bal + packedInt l.l1 }
    else { l with res := some (if adminRefused c l then 0x21 else 0) }

/-- The postings whose legs go to the banks: neither decided nor failed in the vector checks (R151 stage 4). -/
def State.toBanks (s : State) : List Flight := s.led.flights.filter fun f => f.early.isNone && f.decided.isNone

/-- The legs of a posting that wait in a bank. -/
def State.waitingIn (s : State) (f : Flight) (b : Nat) : Nat := (f.legs.filter fun l => l.res.isNone && decide (s.legBank l = b)).length

/-- The legs that a bank unit holds waiting (R158). -/
abbrev bankQueue : Nat := 16

/-- Whether a posting has been dispatched, given those numbered below it that go to the banks (R157, R158): no barrier stands before it, and the
queue of each of its banks has room for its legs behind theirs. -/
def State.dispatched (s : State) (f : Flight) : Bool :=
  let earlier := s.led.flights.filter fun g => decide (g.seq.toNat < f.seq.toNat)
  (earlier.all fun g => !g.writesRule || ((g.decided.map (·.1)).getD 0) != 0)
    && (List.range 64).all fun b =>
      s.waitingIn f b == 0 ||
        decide (((s.toBanks.filter fun g => decide (g.seq.toNat < f.seq.toNat)).map fun g => s.waitingIn g b).sum + s.waitingIn f b ≤ bankQueue)

/-- Whether a leg may be reserved now: its posting has been dispatched, no heal holds the leg, and no earlier undecided posting holds its cell
(R153). -/
def State.mayReserve (s : State) (f : Flight) (l : Leg) : Bool :=
  let own := s.applied.lbPair
  let earlier := s.led.flights.filter fun g => decide (g.seq.toNat < f.seq.toNat)
  l.res.isNone && l.heal.isNone && s.dispatched f
    && earlier.all fun g => g.decided.isSome || (l.cell own).isNone || g.legs.all fun m => m.cell own != l.cell own || m.res == some 0x30

/-- One leg of one flight replaced. -/
def State.updLeg (s : State) (seq : BitVec 48) (k : Nat) (f : Leg → Leg) : State :=
  { s with led := { s.led with flights := mapIf (fun x => x.seq == seq) (fun x => { x with legs := x.legs.modify k f }) s.led.flights } }

/-- The lowest-numbered leg that waits for a bank. -/
def State.frontLeg (s : State) (b : Nat) : Option (Flight × Nat × Leg) :=
  s.toBanks.findSome? fun f =>
    (findIdx (fun l => decide (s.legBank l = b) && l.res.isNone) f.legs 0).bind fun k => (f.legs[k]?).map fun l => (f, k, l)

/-- The leg that a bank reserves next (R159): strictly in sequence order, so that no later leg passes one that waits. -/
def State.nextLeg (s : State) (b : Nat) : Option (Flight × Nat × Leg) := (s.frontLeg b).filter fun x => s.mayReserve x.1 x.2.2

/-- BANK_RESERVE (R152, R153, R169). -/
def execBankReserve (b : Fin 64) (s : State) : Host.Outcome State Fault Refusal :=
  .next (match s.nextLeg b.val with
  | none => s
  | some (f, k, l) =>
    match s.legPoison f.seq l with
    | none => s.updLeg f.seq k (s.bankCheck f.seq)
    | some a =>
      if s.ws.role == 3 then (s.updLeg f.seq k fun l => { l with res := some 0x33 }).raise (400 + b.val)
      else
        let off := BitVec.ofNat 24 (offsetOf a)
        (s.startHeal off).updLeg f.seq k fun l => { l with heal := some off })

/-- The legs held for a heal go on: they are checked again (R169). -/
def State.resumeLegs (s : State) (off : BitVec 24) : State :=
  { s with led := { s.led with flights := s.led.flights.map fun f =>
      { f with legs := f.legs.map fun l => if l.heal == some off then { l with heal := none } else l } } }

/-- The legs held for a heal that failed: CELL POISONED, which raises the source of the bank (R169). -/
def State.failLegs (s : State) (off : BitVec 24) : State :=
  let held := s.led.flights.any fun f => f.legs.any fun l => l.heal == some off
  let s : State := { s with led := { s.led with flights := s.led.flights.map fun f =>
      { f with legs := f.legs.map fun l => if l.heal == some off then { l with heal := none, res := some 0x33 } else l } } }
  if held then s.raise (400 + off.toNat / 4 % 64) else s

/-! ## Decision and record (R151 stage 6, R179-R188) -/

/-- The reference SCALE of a CUR (R152). -/
def refScale (legs : List Leg) (cur : BitVec 12) (known : Leg → Bool) : Option (BitVec 5) :=
  (legs.find? fun l => l0Op l.l0 == 0 && l0Cur l.l0 == cur && known l && l.cur == cur).map (·.scale)

/-- A leg's status with SCALE MISMATCH in its place (R152): after CURRENCY MISMATCH, before ADMIN REFUSED. -/
def legStatus (own : PairId) (legs : List Leg) (l : Leg) : BitVec 8 :=
  let r := l.res.getD 0
  let known (x : Leg) : Bool := l0Pair x.l0 == own && x.res != some 0x33
  if l0Op l.l0 != 0 || !known l || r == 0x30 || r == 0x17 || r == 0x15 || r == 0x16 || r == 0x18 then r
  else match refScale legs (l0Cur l.l0) known with
    | some k => if k = l.scale then r else 0x19
    | none => r

/-- Whether ring words go to the twin: from a LEADER, and from the source of a synchronisation (R204, R226). -/
def State.streams (s : State) : Bool := s.ws.role == 1 || s.ws.sync == 1

/-- Where a frame begins that ends k words after p, fewer than six: it carries words before p again, which stand in the ring, or, where a trailer
slot or the ring's beginning stands there, words after them that are not yet written (R210, log 52). -/
def State.frameStart (s : State) (p k : Nat) : Nat :=
  if decide (p + k < 6) || s.led.recs.any fun r => !r.written && decide (p + k - 6 < r.pos.toNat + r.len) && decide (r.pos.toNat < p) then p
  else p + k - 6

/-- STREAM frames of the ring words that wait, six consecutive words each and back to back, alternating between the links in service, while a
link has room (R209, R210). At most 1,536 words are in flight: six in each of the 128 frames of two replay stores. Fuel: words and ranges that wait. -/
def State.pumpStream (s : State) : Nat → State
  | 0 => s
  | fuel + 1 =>
    match s.ws.txq with
    | [] => s
    | (p, n) :: r =>
      if n = 0 then ({ s with ws := { s.ws with txq := r } } : State).pumpStream fuel
      else match s.freeTwin with
        | none => s
        | some l =>
          let k := min 6 n
          let q := s.frameStart p k
          let t := s.sendFrame l 1 (BitVec.ofNat 16 q) (s.ringWords q 6)
          ({ t with ws := { t.ws with txq := (p + k, n - k) :: r, txLink := 1 - l } } : State).pumpStream fuel

/-- All that waits and finds room on the twin links is sent. -/
def State.pump (s : State) : State :=
  let t := s.pumpStream ((s.ws.txq.map fun x => x.2 + 1).sum)
  t.pumpQueue t.ws.queue.length

/-- A range of ring words put behind those that wait, joined to the last when it follows it. -/
def addRange : List (Nat × Nat) → Nat → Nat → List (Nat × Nat)
  | [], p, n => [(p, n)]
  | [(q, m)], p, n => if q + m = p then [(q, m + n)] else [(q, m), (p, n)]
  | x :: l, p, n => x :: addRange l p n

/-- Ring words to be streamed. -/
def State.stream (s : State) (p n : Nat) : State := ({ s with ws := { s.ws with txq := addRange s.ws.txq p n } } : State).pump

/-- Ring words written here and streamed to the twin. -/
def State.writeRing (s : State) (p : Nat) (ws : List Word) : State :=
  let s := s.putRing p ws
  if s.streams then s.stream p ws.length else s

/-- TIME of a record assembled at a time (R188). -/
def State.timeAt (s : State) (t : BitVec 64) : BitVec 64 := if s.led.lastTime.toNat < t.toNat then t else s.led.lastTime

/-- TIME of a flight's record (R188): a decision's is the time when it was made. -/
def State.recTime (s : State) (f : Flight) : BitVec 64 := match f.kind with
  | .decision _ _ _ => s.timeAt f.req.since
  | _ => s.timeAt s.now

/-- The words of a flight's record (R179-R185) once its status and LEG are known. ORIGIN of a COMMIT that a channel engine issues names the engine's
quad and core 0, and that of a host job quad 0 and core 0: the manual gives it for a core alone (DESIGN CHOICE, log 53). -/
def State.recordWords (s : State) (f : Flight) (status : BitVec 8) (leg : BitVec 4) : List Word :=
  let own := s.applied.lbPair
  let solo := s.ws.role == 3
  let time := at' (s.recTime f) 8
  let part := f.req.home.isSome
  let n := f.req.count - 1
  match f.kind with
  | .commit =>
    let origin : Word := match f.req.issuer with
      | .core c _ => s.unitWord (c.val / 4) (c.val % 4) 0
      | .engine e => s.unitWord (engQuad e).val 0 0
      | _ => s.unitWord 0 0 0
    [recHeader 5 n 0 0 solo false false f.seq, origin, f.req.w2, time] ++ f.req.payload
  | .decision home k _ =>
    [recHeader 4 0 status leg solo true (home != own) f.seq, homeWord home k, at' (bits (f.req.word 0) 0 48) 24, time]
  | _ =>
    let w1 := match f.req.home with
      | some (h, k) => homeWord h k
      | none => at' f.req.ref 8
    if status = 0 then
      let type : BitVec 4 := if f.prepare then 3 else 1
      let ents := f.legs.flatMap fun l => (l.ent own).words
      [recHeader type n 0 0 solo f.xp part f.seq, w1, f.req.w2, time] ++ ents
    else
      let reason (l : Leg) : BitVec 8 := if f.early.isSome then l.res.getD 0 else legStatus own f.legs l
      [recHeader 2 n status leg solo f.xp part f.seq, if part then w1 else at' f.req.ref 8, f.req.w2, time]
        ++ f.legs.flatMap fun l => [setBits l.l0 0 8 (reason l), l.l1]

/-- The status and LEG of a flight once every leg has a result; none while one is missing. -/
def State.outcome (s : State) (f : Flight) : Option (BitVec 8 × BitVec 4) :=
  match f.early with
  | some x => some x
  | none =>
    if f.legs.all fun l => l.res.isSome then
      let st := f.legs.map (legStatus s.applied.lbPair f.legs)
      some ((firstFail st).getD (0, 0))
    else none

/-! ## The durable horizon (R154, R155) and what completes at it -/

/-- The lowest leg of a posting in one of some pairs (R165). -/
def lowestLeg (legs : List Leg) (ps : List PairId) : BitVec 4 :=
  BitVec.ofNat 4 ((findIdx (fun l => ps.contains (l0Pair l.l0)) legs 0).getD 0)

/-- The coordinator decides (R165): the decision record, with the final word that becomes known when it is durable. -/
def State.coordDecide (s : State) (c : Coord) (status : BitVec 8) (leg : BitVec 4) (detail : BitVec 8) : State :=
  let s := s.updCoord c.n fun c =>
    { c with commit := some (status == 0), final := complWord status c.n leg false (s.ws.role == 3) true detail }
  s.decide_ c.req s.applied.lbPair c.n c.n status leg

/-- A participant's vote counts as NO (R165, R460). -/
def State.coordNo (s : State) (c : Coord) (src : PairId) (status : BitVec 8) : State :=
  if bits status 4 4 = 4 then s.coordDecide c 0x31 (lowestLeg c.legs [src]) 0
  else s.coordDecide c 0x24 (lowestLeg c.legs [src]) status

/-- PREPARE to each participant (R165); one that no route reaches counts as a NO of class N (R460). -/
def State.sendPrepares (s : State) (c : Coord) : State :=
  let own := s.applied.lbPair
  let s := c.pairs.foldl (fun s p =>
    s.postMsg p 0 own c.n 1 0 (c.req.w2 :: (c.req.legs.filter fun l => l0Pair l.1 == p).flatMap fun l => [l.1, l.2])) s
  match c.pairs.find? fun p => (s.blocked p).isSome with
  | some p => s.coordNo c p 0x41
  | none => s

/-- The counters of sequenced postings (R138). -/
def State.countOutcome (s : State) (ok : Bool) : State :=
  if ok then { s with led := { s.led with accept := inc s.led.accept } } else { s with led := { s.led with reject := inc s.led.reject } }

/-- What becomes known when a flight's record is durable and applied. -/
def State.confirmFlight (s : State) (f : Flight) : State :=
  let st := f.decided.getD (0, 0)
  let w (st : BitVec 8) (leg : BitVec 4) : Word := complWord st f.seq leg false f.solo f.xp 0
  match f.kind with
  | .commit => s.complete f.req (complWord 0 f.seq 0 false f.solo false 0)
  | .posting =>
    if st.1 ≠ 0 then
      ({ s with led := { s.led with coords := s.led.coords.filter fun c => c.n != f.seq } } : State).countOutcome false |>.complete f.req
        (w st.1 st.2)
    else if f.prepare then
      let s := s.complete f.req (w 1 0)
      let s := s.updCoord f.seq fun c => { c with phase := 1, legs := f.legs, since := s.now }
      match s.coordFor f.seq with
      | some c => if s.ws.role == 1 || s.ws.role == 3 then s.sendPrepares c else s
      | none => s
    else (s.countOutcome true).complete f.req (w 0 0)
  | .part home n =>
    let s := s.updPart home n fun p =>
      { p with phase := if st.1 = 0 then 1 else 2, vote := st.1, legs := f.legs, pseq := f.seq, since := s.now, queried := s.now }
    match s.partFor home n with
    | some p => s.vote p
    | none => s
  | .decision home n commit =>
    if home = s.applied.lbPair then
      match s.coordFor n with
      | none => s
      | some c =>
        let s := (s.countOutcome commit).completeFinal c.req c.final
        let s := c.pairs.foldl (fun s p => s.postMsg p 0 home n (if commit then 2 else 3) 0 []) s
        if commit then s.updCoord n fun c => { c with phase := 2, resent := s.now }
        else { s with led := { s.led with coords := s.led.coords.filter fun x => x.n != n } }
    else
      let s := s.updPart home n fun p => { p with phase := 2 }
      if commit then s.postMsg home 1 home n 11 0 [] else s

/-- The horizon advances to a sequence number (R154, R155): every record up to it is applied in sequence order, and what its
durability completes becomes known. `solo`: the completions carry SOLO (R222). -/
def State.advance (s : State) (h : BitVec 48) (solo : Bool) : State :=
  let rs := s.led.recs.filter fun r =>
    !r.trailer && r.written && decide (s.ws.ahor.toNat < r.seq.toNat) && decide (r.seq.toNat ≤ h.toNat)
  rs.foldl (fun s r =>
    let f := s.led.flights.find? fun f => f.seq == r.seq
    let final := f.bind fun f => match f.kind with
      | .decision home n _ => if home = s.applied.lbPair then (s.coordFor n).map (·.final) else none
      | _ => none
    let s := s.applyRecord r.pos.toNat solo final
    let s : State := { s with ws := { s.ws with ahor := r.seq } }
    match f with
    | none => s
    | some f => (({ s with led := { s.led with flights := s.led.flights.filter fun g => g.seq != r.seq } } : State)).confirmFlight f) s
    |>.settleDpos

/-- POSTING_DECISION (R151 stage 6): the oldest undecided posting. Its record is written and mirrored; under a solo grant it is then
durable. -/
def execPostingDecision (s : State) : Host.Outcome State Fault Refusal :=
  .next (match s.led.flights.find? fun f => f.decided.isNone with
  | none => s
  | some f =>
    match s.outcome f with
    | none => s
    | some (st, leg) =>
      let ws := s.recordWords f st leg
      let time := s.recTime f
      let s := s.writeRing f.pos.toNat ws
      let solo := s.ws.role == 3
      let held : List Prep := if f.prepare && st == 0 then [s.prepAt f.pos.toNat] else []
      let s : State := { s with led := { s.led with
        flights := mapIf (fun g => g.seq == f.seq) (fun g => { g with decided := some (st, leg), solo := solo }) s.led.flights,
        recs := mapIf (fun r => !r.trailer && r.seq == f.seq) (fun r => { r with written := true }) s.led.recs,
        lastTime := time, preps := s.led.preps ++ held,
        decisionWords := if f.prepare && st != 0 then s.led.decisionWords - 4 else s.led.decisionWords,
        commitCnt := if f.kind == .commit then inc s.led.commitCnt else s.led.commitCnt } }
      if solo then s.advance f.seq true else s)

/-! ## COMPLETION_WORD and DUPLICATE_RESOLVE (R148, R162, R164) -/

/-- The outstanding posting of an engine with a ticket leaves the list of those whose final word is still to come; a final word that H2 did not take
faults the program at its BUILD-POST, while the engine runs it (R148). -/
def Engine.finalWord (x : Engine) (ticket : Nat) (w : Word) (stored : Bool) : Engine :=
  let mine := x.xposts.filter fun p => p.ticket == ticket && !stored && x.running.any fun r => r.cpb == p.cpb
  { x with
    xposts := x.xposts.filter fun p => p.ticket != ticket
    posts := x.posts ++ mine.map fun p => { p with result := some w, stored := false } }

/-- A completion written to its slot; a refused store is reported by the issuer (R148). -/
def State.writeSlot (s : State) (d : DoneWord) : State × Bool :=
  let pa := d.req.slot
  if (regionOf pa == .plain && s.guarded (offsetOf pa)) || !isLocalMem pa then (s, false) else (s.putWord pa d.word, true)

/-- A completion word that comes later than the 112 steps charged for it (R345) is charged its actual length and departs from fixed cost (R350):
whether it does, and by how much, is free, since the steps that pass are the manual's timing alone (log 56). -/
def State.lateCompletion (s : State) (n : CoreId) : State :=
  if s.cores[n].det then
    let (f, s) := s.draw
    if bit f 71 then s.updCore n fun c => ({ c with detSteps := c.detSteps + bits f 0 64 } : Core).depart else s
  else s

/-- A completion reaches its issuer. -/
def State.deliver (s : State) (d : DoneWord) (stored : Bool) : State :=
  match d.req.issuer with
  | .core n rt =>
    if d.final then (if stored then s else s.lateStore n 2 d.req.slot).raise (192 + n.val / 4)
    else
      let s := (s.lateCompletion n).updCore n fun c =>
        { c with g := if rt = 0 then c.g else c.g.set rt.toNat d.word rt.isLt, posts := c.posts.filter fun p => p.ticket != d.req.ticket }
      if stored then s else s.lateStore n 2 d.req.slot
  | .engine e =>
    if d.final then (s.updEng e fun x => x.finalWord d.req.ticket d.word stored).raise (192 + (engQuad e).val)
    else s.updEng e fun x => { x with posts := mapIf (fun p => p.ticket == d.req.ticket) (fun p => { p with result := some d.word, stored := stored }) x.posts }
  | .job j =>
    match s.job j with
    | none => s
    | some x =>
      if !stored then s.finishJob x jobData 0 d.word
      else if bits d.word 64 8 = 1 && !bit d.word 11 then s
      else s.finishJob x jobDone 0 d.word
  | .home _ _ => s

/-- The first known completion written: to H2 or C1, and then to G[rt] (R148). -/
def State.completeFirst (s : State) : State :=
  match s.led.done with
  | [] => s
  | d :: rest =>
    let s : State := { s with led := { s.led with done := rest } }
    let (s, ok) := s.writeSlot d
    let s := s.deliver d ok
    if d.final then s
    else { s with led := { s.led with dups := mapIf (fun x => x.on == d.req.ticket) (fun x => { x with word := some d.word }) s.led.dups } }

/-- COMPLETION_WORD (R148, R154, R164). -/
def execCompletionWord (s : State) : Host.Outcome State Fault Refusal := .next s.completeFirst

/-- DUPLICATE_RESOLVE (R162): the first waiting duplicate whose posting has completed. -/
def execDuplicateResolve (s : State) : Host.Outcome State Fault Refusal :=
  .next (match s.led.dups.find? fun x => x.word.isSome with
  | none => s
  | some x =>
    let w := x.word.getD 0
    let s : State := { s with led := { s.led with dups := s.led.dups.filter fun y => y.req.ticket != x.req.ticket } }
    if decide ((bits w 64 8).toNat < 0x40) then s.answerDup x.req w
    else
      let r := { x.req with checked := false, since := s.now }
      { s with led := { s.led with arrivals := s.led.arrivals ++ [r] } })

/-- The completions of a core's outstanding POSTs and COMMITs that are known, in the order of issue. -/
def State.handOver (s : State) (n : CoreId) : Nat → State
  | 0 => s
  | k + 1 =>
    let mine (d : DoneWord) : Bool := !d.final && (match d.req.issuer with
      | .core m _ => m == n
      | _ => false)
    match s.led.done.find? mine with
    | none => s
    | some d =>
      let s : State := { s with led := { s.led with done := d :: s.led.done.filter fun x => x != d } }
      s.completeFirst.handOver n k

/-- TWIN_HANDOVER (R380): after a role change, the completion words of a core's outstanding POSTs and COMMITs. -/
def execTwinHandover (n : CoreId) (s : State) : Host.Outcome State Fault Refusal :=
  .next (if s.cores[n].run == 2 && s.cores[n].wait.isNone then s.handOver n s.led.done.length else s)

/-! ## Issuing: POST and COMMIT (R147, R191) -/

/-- A request passed to the sequencer, with its ticket. -/
def State.submit (s : State) (i : Issuer) (commit : Bool) (slot : WAddr) (words : List Word) : Nat × State :=
  let t := s.led.tickets + 1
  (t, { s with led := { s.led with
    tickets := t,
    arrivals := s.led.arrivals ++
      [{ ticket := t, issuer := i, commit := commit, slot := slot, words := words, since := s.now, checked := false }] } })

/-- Who reads a vector: a core with its pass register, or a unit that checks under a pass of its own. -/
structure Reader where
  x : Xl
  pass : PassReg
  preg : BitVec 4

/-- The word of one checked vector word as its issuer reads it (R156): every earlier store has left the buffer. -/
def readVec (rd : Reader) (r : WordRef) : M Word := do
  match rd.x with
  | .core n _ => do
    chargeAccess n r.pa
    let s ← get
    if (s.cell r.pa).bad then badWord n r else return s.data r.pa
  | _ => do
    let s ← get
    if (s.cell r.pa).bad then
      upd fun s => s.raiseBad r.pa
      raise (dataFault r.fa r.pa)
    else return s.data r.pa

/-- The checks of R62 over words of a vector or block from digit address `da`: the loads, and the store to its completion slot.
`slot` is the index of the slot among them. -/
def vecRefs (rd : Reader) (need : BitVec 12) (da : DAddr) (k : Nat) (slot : Option Nat) : M (List WordRef) := do
  let ws := (List.range k).map fun i => (daWord da + BitVec.ofNat 52 i, maskAll)
  passTests rd.pass rd.preg need .store da ws
  mapL (fun i => do
    let va := daWord da + BitVec.ofNat 52 i
    let a : Acc := if slot = some i then .postSlot else .post
    checkWord rd.x rd.pass rd.preg a va maskAll (daOf va 0)) (List.range k)

/-- The checks and the read of a posting vector (R147): its words and the physical address of H2. -/
def readVector (rd : Reader) (da : DAddr) : M (List Word × WAddr) := do
  let need := permLoad ||| permStore ||| permPost
  let h ← vecRefs rd need da 3 (some 2)
  let hw ← mapL (readVec rd) h
  let n := (bits (hw.getD 1 0) 64 4).toNat + 1
  let ls ← vecRefs rd need (daAdd da 54) (2 * n) none
  let lw ← mapL (readVec rd) ls
  match findIdx (fun (i : Nat) => let op := l0Op (lw.getD (2 * i) 0); op == 1 || op == 2) (List.range n) 0 with
  | some i => require (rd.pass.grants permDevice) (passFault 3 rd.preg (daAdd da (18 * (3 + 2 * (i : Int)))))
  | none => pure ()
  match h[2]? with
  | some r => do
    markChg rd.x r.ent
    return (hw ++ lw, r.pa)
  | none => return (hw ++ lw, 0)

/-- The checks and the read of a commit block (R191): its words and the physical address of C1. VER, which the manual does not order against the
R62 checks of the payload, is tested before them, since C0 is read first (DESIGN CHOICE, log 58). -/
def readBlock (rd : Reader) (da : DAddr) : M (List Word × WAddr) := do
  let need := permLoad ||| permStore ||| permJournal
  let h ← vecRefs rd need da 2 (some 1)
  let hw ← mapL (readVec rd) h
  let c0 := hw.getD 0 0
  require (bits c0 68 4 == 1) { cls := clsJournal }
  let m := (bits c0 64 4).toNat + 1
  let ls ← vecRefs rd need (daAdd da 36) m none
  let lw ← mapL (readVec rd) ls
  match h[1]? with
  | some r => do
    markChg rd.x r.ent
    return (hw ++ lw, r.pa)
  | none => return (hw ++ lw, 0)

/-- POST and COMMIT on a core (R147, R150, R191): at most four outstanding. -/
def issuePost (n : CoreId) (f : FmtM) (commit : Bool) : M Next := do
  let c ← getCore n
  if decide (4 ≤ c.posts.length) then throw .wait
  else
    upd fun s => s.drainAll n
    let da ← mEA n f
    aligned (daPos da == 0) clsWordAlign da
    let rd : Reader := { x := .core n 1, pass := c.pr f.pr, preg := f.pr }
    let (ws, slot) ← if commit then readBlock rd da else readVector rd da
    let t ← modifyGet fun s => s.submit (.core n f.rt) commit slot ws
    modCore n fun c => { c with posts := c.posts ++ [{ rt := f.rt, ticket := t }] }
    return .seq

/-- The shape of POST. -/
def shapePost (f : FmtM) : Shape := { regs := FmtM.regs f, steps := 115 }

/-- POST (R147, R150). -/
def execPost (n : CoreId) (f : FmtM) (s : State) : Host.Outcome State Fault Refusal :=
  .next (s.runIns n (shapePost f) (issuePost n f false))

/-- The shape of COMMIT. -/
def shapeCommit (f : FmtM) : Shape := { regs := FmtM.regs f, steps := 115 }

/-- COMMIT (R191, R192). -/
def execCommit (n : CoreId) (f : FmtM) (s : State) : Host.Outcome State Fault Refusal :=
  .next (s.runIns n (shapeCommit f) (issuePost n f true))

/-! ## Cross-pair postings (R164-R168) -/

/-- Whether this module leads its pair. -/
def State.leads (s : State) : Bool := s.ws.role == 1 || s.ws.role == 3

/-- The legs of a participant's prepare record, with the CUR and SCALE of their cells (R168, R181). -/
def State.prepLegs (s : State) (pos : Nat) : List Leg :=
  (s.entsAt pos).map fun e =>
    let c := s.cellWords e.ci
    { l0 := at' c.cur 58 ||| at' s.applied.lbPair 46 ||| at' (BitVec.ofNat 22 e.ci) 24, l1 := packInt e.amt, res := some 0, newBal := e.newBal,
      cur := c.cur, scale := c.scale, heal := none }

/-- A participant's entry for its prepare record, in doubt (R165, R167). -/
def State.partInDoubt (s : State) (p : Prep) : Part :=
  { home := p.home, n := p.n, pseq := p.seq, phase := 1, legs := s.prepLegs p.pos.toNat, w2 := s.ringWord (p.pos.toNat + 2), vote := 0,
    since := s.now, queried := s.now, aged := false, decision := none }

/-- What the ring says of a participant's posting (R165): done with a YES when a prepare record of it stands, done with a NO when a rejected one
does. -/
def State.partInRing (s : State) (home : PairId) (n : BitVec 48) : Option Part :=
  (s.ringRecords.find? fun r => recPart r.2 && (recType r.2 == 2 || recType r.2 == 3) && s.ringWord (r.1 + 1) == homeWord home n).map fun r =>
    let p := s.partInDoubt (s.prepAt r.1)
    if recType r.2 = 3 then { p with phase := if s.led.preps.any fun q => q.seq == recSeq r.2 then 1 else 2 }
    else { p with phase := 2, legs := [], vote := recStatus r.2 }

/-- A participant's posting: its entry, or what the ring says of it. -/
def State.partOf (s : State) (home : PairId) (n : BitVec 48) : Option Part := (s.partFor home n).orElse fun _ => s.partInRing home n

/-- PREPARE (R165): a new one is taken as a request in arrival order; a repeated one repeats the vote. A module that does not lead answers NO, unless
its prepare record is durable (R217). -/
def execPrepare (home : PairId) (n : BitVec 48) (w2 : Word) (legs : List (Word × Word)) (s : State) : Host.Outcome State Fault Refusal :=
  .next (match s.partOf home n, s.notSequencing with
  | some p, none => if p.phase = 0 then s else s.vote p
  | some p, some st => if p.phase = 0 then s.postMsg home 1 home n 9 st [] else s.vote p
  | none, nseq =>
    let p : Part :=
      { home := home, n := n, pseq := 0, phase := 0, legs := [], w2 := w2, vote := 0, since := s.now, queried := s.now, aged := false,
        decision := none }
    let t : State := { s with led := { s.led with parts := s.led.parts ++ [p] } }
    match nseq with
    | some st => t.partNo home n st
    | none =>
      let h1 : Word := at' (1 : BitVec 4) 68 ||| at' (BitVec.ofNat 4 (legs.length - 1)) 64 ||| (w2 >>> 8)
      (t.submit (.home home n) false 0 ([0, h1, 0] ++ legs.flatMap fun l => [l.1, l.2])).2)

/-- The scale that a leg of the posting has, by the home banks or the YES votes (R168). -/
def Coord.scaleOf (c : Coord) (own : PairId) (k : Nat) : BitVec 8 :=
  match c.legs[k]? with
  | none => 0
  | some l =>
    let p := l0Pair l.l0
    if p = own then l.scale.setWidth 8
    else
      let j := ((c.legs.take k).filter fun m => l0Pair m.l0 == p).length
      match c.yes.find? fun y => y.1 == p with
      | some y => y.2.getD j 0
      | none => 0

/-- The lowest leg whose SCALE differs from the reference of its CUR over all pairs (R168). -/
def Coord.scaleClash (c : Coord) (own : PairId) : Option Nat :=
  let am (k : Nat) : Bool := (c.legs[k]?.map fun l => l0Op l.l0 == 0).getD false
  let cur (k : Nat) : BitVec 12 := (c.legs[k]?.map fun l => l0Cur l.l0).getD 0
  let ks := (List.range c.legs.length).filter am
  ks.find? fun k => match ks.find? fun j => cur j == cur k with
    | some j => c.scaleOf own j != c.scaleOf own k
    | none => false

/-- YES (R165, R168). -/
def execYes (src : PairId) (n : BitVec 48) (scales : List (BitVec 8)) (s : State) : Host.Outcome State Fault Refusal :=
  .next (match s.coordFor n with
  | none => s
  | some c =>
    if c.phase != 1 || c.commit.isSome || !c.pairs.contains src || c.yes.any (fun y => y.1 == src) then s
    else
      let c := { c with yes := c.yes ++ [(src, scales)] }
      let s := s.updCoord n fun _ => c
      if !s.leads || !(c.pairs.all fun p => c.yes.any fun y => y.1 == p) then s
      else match c.scaleClash s.applied.lbPair with
        | some k => s.coordDecide c 0x19 (BitVec.ofNat 4 k) 0
        | none => s.coordDecide c 0 0 0)

/-- NO (R165). -/
def execNo (src : PairId) (n : BitVec 48) (status : BitVec 8) (s : State) : Host.Outcome State Fault Refusal :=
  .next (match s.coordFor n with
  | none => s
  | some c => if c.phase != 1 || c.commit.isSome || !c.pairs.contains src || !s.leads then s else s.coordNo c src status)

/-- WAIT (R165): the participant stays in doubt. -/
def execWaitMsg (_home : PairId) (_n : BitVec 48) (s : State) : Host.Outcome State Fault Refusal := .next s

/-- The request under whose name a participant's decision is recorded. -/
def partReq (home : PairId) (n : BitVec 48) (now : BitVec 64) : PostReq :=
  { ticket := 0, issuer := .home home n, commit := false, slot := 0, words := [], since := now, checked := true }

/-- A participant in doubt takes a decision (R165). -/
def State.partDecide (s : State) (home : PairId) (n : BitVec 48) (commit : Bool) : State :=
  match s.led.preps.find? fun q => q.part && q.home == home && q.n == n with
  | none => s
  | some q =>
    (s.updPart home n fun p => { p with decision := some commit }).decide_ (partReq home n s.now) home n q.seq (if commit then 0 else 0x24) 0

/-- COMMIT to a participant (R165): in doubt it decides, done it acknowledges again. -/
def execCommitMsg (home : PairId) (n : BitVec 48) (s : State) : Host.Outcome State Fault Refusal :=
  .next (match s.partFor home n with
  | some p =>
    if p.phase = 1 then (if p.decision.isNone && s.leads then s.partDecide home n true else s)
    else if p.phase = 2 && p.vote = 0 then s.postMsg home 1 home n 11 0 [] else s
  | none => if s.decisionFor home n == some true then s.postMsg home 1 home n 11 0 [] else s)

/-- ABORT to a participant (R165). -/
def execAbort (home : PairId) (n : BitVec 48) (s : State) : Host.Outcome State Fault Refusal :=
  .next (match s.partFor home n with
  | some p => if p.phase = 1 && p.decision.isNone && s.leads then s.partDecide home n false else s
  | none => s)

/-- ACK to the coordinator (R165). -/
def execPostingAck (src : PairId) (n : BitVec 48) (s : State) : Host.Outcome State Fault Refusal :=
  .next (match s.coordFor n with
  | none => s
  | some c =>
    if c.phase != 2 || !c.pairs.contains src then s
    else if c.pairs.all fun p => p == src || c.acks.contains p then
      { s with led := { s.led with coords := s.led.coords.filter fun x => x.n != n } }
    else s.updCoord n fun c => { c with acks := if c.acks.contains src then c.acks else src :: c.acks })

/-- QUERY to the coordinator (R165). -/
def execQuery (src : PairId) (n : BitVec 48) (s : State) : Host.Outcome State Fault Refusal :=
  let own := s.applied.lbPair
  .next (match s.coordFor n with
  | some c => s.postMsg src 1 own n (if c.phase = 2 then 2 else if s.led.preps.any (fun q => !q.part && q.seq == n) then 10 else 3) 0 []
  | none =>
    match s.decisionFor own n with
    | some true => s.postMsg src 1 own n 2 0 []
    | some false => s.postMsg src 1 own n 3 0 []
    | none => s.postMsg src 1 own n (if s.led.preps.any fun q => !q.part && q.seq == n then 10 else 3) 0 [])

/-- REVOTE to a participant (R165). -/
def execRevote (home : PairId) (n : BitVec 48) (s : State) : Host.Outcome State Fault Refusal :=
  .next (match s.partOf home n with
  | some p => if p.phase = 0 then s else s.vote p
  | none => s)

/-- VOTE_TIMER (R166): as a NO, with VOTE TIMEOUT; LEG is the lowest leg in a pair whose vote is missing. -/
def execVoteTimer (n : BitVec 48) (s : State) : Host.Outcome State Fault Refusal :=
  .next (match s.coordFor n with
  | none => s
  | some c =>
    if c.phase = 1 && c.commit.isNone && s.leads && decide (c.since.toNat + 20000 ≤ s.now.toNat) then
      s.coordDecide c 0x32 (lowestLeg c.legs (c.pairs.filter fun p => !(c.yes.any fun y => y.1 == p))) 0
    else s)

/-- REVOTE_POINT (R166). -/
def execRevotePoint (n : BitVec 48) (s : State) : Host.Outcome State Fault Refusal :=
  .next (match s.coordFor n with
  | none => s
  | some c =>
    if c.phase = 1 && c.commit.isNone && !c.revoted && decide (c.since.toNat + 10000 ≤ s.now.toNat) then
      (c.pairs.filter fun p => !(c.yes.any fun y => y.1 == p)).foldl (fun s p => s.postMsg p 0 s.applied.lbPair n 5 0 [])
        (s.updCoord n fun c => { c with revoted := true })
    else s)

/-- RESEND_TIMER (R166). -/
def execResendTimer (n : BitVec 48) (s : State) : Host.Outcome State Fault Refusal :=
  .next (match s.coordFor n with
  | none => s
  | some c =>
    if c.phase = 2 && decide (c.resent.toNat + 10000 ≤ s.now.toNat) then
      (c.pairs.filter fun p => !c.acks.contains p).foldl (fun s p => s.postMsg p 0 s.applied.lbPair n 2 0 [])
        (s.updCoord n fun c => { c with resent := s.now })
    else s)

/-- QUERY_TIMER (R166). -/
def execQueryTimer (home : PairId) (n : BitVec 48) (s : State) : Host.Outcome State Fault Refusal :=
  .next (match s.partFor home n with
  | none => s
  | some p =>
    if p.phase = 1 && decide (p.queried.toNat + 50000 ≤ s.now.toNat) then
      (s.updPart home n fun p => { p with queried := s.now }).postMsg home 0 home n 4 0 []
    else s)

/-- IN_DOUBT_AGING (R166). -/
def execInDoubtAging (home : PairId) (n : BitVec 48) (s : State) : Host.Outcome State Fault Refusal :=
  let age := (bits s.applied.peCtl 8 8).toNat
  .next (match s.partFor home n with
  | none => s
  | some p =>
    if p.phase = 1 && age != 0 && !p.aged && decide (p.since.toNat + age * 100000 < s.now.toNat) then
      (s.updPart home n fun p => { p with aged := true }).raise 204
    else s)

/-! ## Leaving and taking the lead (R167, R217, R222) -/

/-- The prepare records without a decision record (R167). -/
def State.openPreps (s : State) : List Prep :=
  s.led.preps.filter fun p => !(s.led.flights.any fun f => match f.kind with
    | .decision h n _ => h == p.home && n == p.n
    | _ => false)

/-- A coordinator's entry for a prepare record of this ledger that it did not sequence itself (R167): its legs and its completion slot are not in
the record. -/
def State.coordInDoubt (s : State) (p : Prep) : Coord :=
  { n := p.seq, req := partReq p.home p.n s.now, phase := 1, legs := [],
    pairs := (((s.entsAt p.pos.toNat).filter (·.rem)).map (·.pair)).eraseDups, yes := [], acks := [], commit := none, since := s.now,
    resent := s.now, revoted := true, final := 0 }

/-- Prepare records without a decision, for a module that starts to lead (R167): as coordinator it aborts, as participant it holds the
cells and queries the coordinator. Each is charged with its decision record (R189). -/
def State.settlePreps (s : State) : State :=
  let open_ := s.openPreps
  let s : State := { s with led := { s.led with decisionWords := 4 * open_.length } }
  open_.foldl (fun s p =>
    if p.part then
      let x := (s.partFor p.home p.n).getD (s.partInDoubt p)
      let x := { x with phase := 1, pseq := p.seq, legs := s.prepLegs p.pos.toNat, queried := s.now }
      let s : State := { s with led := { s.led with parts := x :: s.led.parts.filter fun y => !(y.home == p.home && y.n == p.n) } }
      s.postMsg p.home 0 p.home p.n 4 0 []
    else
      let c := (s.coordFor p.seq).getD (s.coordInDoubt p)
      let s : State := { s with led := { s.led with coords := { c with phase := 1 } :: s.led.coords.filter fun x => x.n != p.seq } }
      s.coordDecide c 0x32 0 0) s

/-- A decision that was made and is not recorded is made anew (R217 item 6). -/
def State.undecide (s : State) (home : PairId) (n : BitVec 48) : State :=
  (s.updCoord n fun c => if home == s.applied.lbPair then { c with commit := none } else c).updPart home n fun p => { p with decision := none }

/-- Postings that have a number and no record give it back (R217 item 1). -/
def State.unassign (s : State) : State :=
  let undecided := s.led.flights.filter fun f => f.decided.isNone
  match undecided with
  | [] => s
  | f :: _ =>
    { s with led := { s.led with
        seqNext := f.seq, wpos := f.pos, recs := s.led.recs.filter fun r => decide (r.pos.toNat < f.pos.toNat),
        coords := s.led.coords.filter fun c => !(undecided.any fun g => g.kind == .posting && g.seq == c.n) } }

/-- What becomes of a flight when its module stops leading (R217): an unconfirmed record completes with NOT CONFIRMED, a participant's part without
a record ends with a NO, and a decision without one is made anew. -/
def State.dropFlight (status : BitVec 8) (s : State) (f : Flight) : State :=
  match f.kind with
  | .posting | .commit => s.complete f.req (complWord 0x60 f.seq 0 false false f.xp 0)
  | .part h n => if f.decided.isNone then s.partNo h n status else s
  | .decision h n _ => if f.decided.isNone then s.undecide h n else s

/-- A module stops leading (R217): postings without a record give back their numbers, unconfirmed ones complete with NOT CONFIRMED,
and requests that wait complete with HELD or FENCED. Decisions keep their place: cross-pair postings keep their state. -/
def State.stopLeading (s : State) (status : BitVec 8) : State :=
  let t := s.unassign
  let t := s.led.flights.foldl (State.dropFlight status) t
  let t := s.led.decisions.foldl (fun t d => t.undecide d.home d.n) t
  let keep := s.led.flights.filter fun f => f.decided.isSome && (match f.kind with
    | .decision _ _ _ => true
    | _ => false)
  let t : State := { t with led := { t.led with flights := keep, arrivals := [], decisions := [], stalled := false } }
  let t : State := { t with led := { t.led with decisionWords := 4 * t.openPreps.length } }
  (s.led.arrivals.foldl (fun t r => t.refuseReq r status) t).settleDpos

end Sys2Proof.Machine
end

