-- ==== Sys2Proof/Machine/Channel.lean ====
section
/-! DEFINITION. Channel engines: programs and their blocks, starting, resuming, halting, dispatch and pre-emption (R386-R397, R407),
an engine's accesses (R390), and faults in mid-transfer (R409, R410). -/

namespace Sys2Proof.Machine

/-! ## Events and counters (R392) -/

/-- Bit k of CH_EVT set, which raises a source of the engine (R392): bit 0 source 8e, bits 1 and 2 source 8e + 1, bits 3 and 4 source
8e + 2, bits 5 and 6 none. -/
def State.chEvent (s : State) (e : EngId) (k : Nat) : State :=
  let s := s.updEng e fun x => { x with evt := setBit x.evt k true }
  if k = 0 then s.raise (8 * e.val) else if k ≤ 2 then s.raise (8 * e.val + 1) else if k ≤ 4 then s.raise (8 * e.val + 2) else s

/-- Credit added to counter k of an engine, saturating (R407). -/
def State.addCredit (s : State) (e : EngId) (k : Fin 4) (n : Nat) : State :=
  let v := (s.engines[e].credit[k]).toNat + n
  if v < 2 ^ 32 then s.updEng e fun x => { x with credit := x.credit.set k (BitVec.ofNat 32 v) }
  else (s.updEng e fun x => { x with credit := x.credit.set k (BitVec.allOnes 32) }).chEvent e 6

/-- The running program of an engine replaced. -/
def State.setProg (s : State) (e : EngId) (p : Option ChProg) : State := s.updEng e fun x => { x with running := p }

/-! ## The program block (R387-R389) -/

/-- The channel status word (R388). -/
def csw (state : Nat) (cc : BitVec 2) (cls : BitVec 5) (code : BitVec 8) (slot : BitVec 3) (stop : BitVec 16) : Word :=
  at' (BitVec.ofNat 4 state) 68 ||| at' cc 66 ||| at' cls 61 ||| at' code 53 ||| at' slot 50 ||| at' stop 32

/-- A word that a unit stores by physical address, which a region that takes only its owner's stores refuses (R139, R177, R470). -/
def State.putOwn (s : State) (pa : WAddr) (v : Word) : State :=
  if regionOf pa == .plain && s.guarded (offsetOf pa) then s else s.putWord pa v

/-- A pass that a unit stores by physical address. -/
def State.putOwnPass (s : State) (pa : WAddr) (p : PassReg) : State :=
  if regionOf pa == .plain && s.guarded (offsetOf pa) then s else s.putPass pa p

/-- The status word of a program. -/
def ChProg.csw (p : ChProg) (state : Nat) : Word := Machine.csw state p.cc p.cls p.code p.slot p.stopcode

/-- The block of a program that stops running, written back (R387). -/
def State.writeCpb (s : State) (p : ChProg) (state : Nat) : State :=
  let a (k : Nat) : WAddr := p.cpb + BitVec.ofNat 52 k
  let ws : List Word :=
    [p.cpc.setWidth 72, p.csw state, p.faddr.setWidth 72, p.fphys.setWidth 72, at' p.done 40 ||| at' p.elem 32 ||| at' p.waitns 0,
     p.w6, p.w7] ++ p.cr.toList
  let s := (ws.zipIdx 1).foldl (fun s x => s.putOwn (a x.2) x.1) s
  (p.cp.toList.zipIdx).foldl (fun s x => s.putOwnPass (a (24 + 2 * x.2)) x.1) s

/-- The program that a block holds, or none when a word of it is uncorrectable (R387, R397). -/
def State.loadCpb (s : State) (r : ChReady) : Option ChProg :=
  if s.anyBad r.cpb 40 then none
  else
    let w (k : Nat) : Word := s.data (r.cpb + BitVec.ofNat 52 k)
    let c := w 2
    some
      { cpb := r.cpb, w0 := w 0, cpc := bits (w 1) 0 52, cc := bits c 66 2, cls := bits c 61 5, code := bits c 53 8, slot := bits c 50 3,
        stopcode := bits c 32 16, faddr := bits (w 3) 0 57, fphys := bits (w 4) 0 52, done := bits (w 5) 40 32, elem := bits (w 5) 32 8,
        waitns := bits (w 5) 0 32, w6 := w 6, w7 := w 7, cr := Vector.ofFn fun (i : Fin 16) => w (8 + i.val),
        cp := Vector.ofFn fun (i : Fin 8) => s.getPass (r.cpb + BitVec.ofNat 52 (24 + 2 * i.val)), space := r.space, troot := r.troot,
        ccw := none, inElem := none, waitFrom := none, exportTo := none, reject := none, waitPost := none, ending := none, halt := false }

/-- A program abandoned because its block cannot be read (R397); the words that the engine read and found uncorrectable raise their banks' sources
(R321). -/
def State.chBroken (s : State) (e : EngId) (cpb : WAddr) (read : Nat) : State :=
  ((s.raiseBadIn cpb read).putOwn (cpb + 2) (csw 7 0 0 0 0 0)).chEvent e 2

/-! ## Running and leaving -/

/-- PRIO of a program. -/
def ChProg.prio (p : ChProg) : BitVec 3 := bits p.w0 65 3

/-- The ready program of highest PRIO, the first of equals (R396). -/
def bestReady (l : List ChReady) : Option ChReady :=
  l.foldl (fun b x => match b with
    | none => some x
    | some y => if y.prio.toNat < x.prio.toNat then some x else b) none

/-- The best ready program runs on an idle engine (R387, R396). -/
def State.chDispatch (s : State) (e : EngId) : State :=
  match bestReady s.engines[e].ready with
  | none => s
  | some r =>
    let s := s.updEng e fun x => { x with ready := x.ready.filter fun y => y.cpb != r.cpb }
    match s.loadCpb r with
    | none => s.chBroken e r.cpb 40
    | some p => (s.putOwn (p.cpb + 2) (p.csw 2)).setProg e (some p)

/-- The program leaves its engine; what it watched and waited for is dropped (R432). -/
def State.chLeave (s : State) (e : EngId) : State :=
  let s := s.updEng e fun x => { x with running := none, wait := none, arrived := [] }
  { s with hi := { s.hi with watch := s.hi.watch.filter fun w => w.word != .ack e } }

/-- A program that stops in the middle of a CCW: what the block keeps of it (R387, R407). -/
def ChProg.suspended (p : ChProg) (now : BitVec 64) : ChProg :=
  { p with
    waitns := match p.waitFrom with
      | some t => if p.waitns = 0 then 0 else BitVec.ofNat 32 (max 1 (p.waitns.toNat - (now.toNat - t.toNat)))
      | none => p.waitns }

/-- A program stops (R395, R408). -/
def State.chStop (s : State) (e : EngId) (p : ChProg) (code : BitVec 16) : State :=
  ((s.writeCpb { p.suspended s.now with stopcode := code } 5).chLeave e).chEvent e 1

/-- A program faults (R409); a channel check has class 0. -/
def State.chFault (s : State) (e : EngId) (p : ChProg) (f : FaultInfo) : State :=
  let p := { p.suspended s.now with cls := f.cls, code := f.code, slot := bits f.preg 0 3, faddr := f.faddr, fphys := f.fphys }
  (((s.writeCpb p 3).chLeave e).updEng e fun x => { x with faultCnt := inc x.faultCnt }).chEvent e 0

/-- A channel register as an address. -/
def ChProg.reg (p : ChProg) (k : BitVec 4) : Word := p.cr[k.toNat]'(k.isLt)

/-- A channel register written. -/
def ChProg.setReg (p : ChProg) (k : BitVec 4) (v : Word) : ChProg := { p with cr := p.cr.set k.toNat v k.isLt }

/-- A pass slot. -/
def ChProg.pass (p : ChProg) (k : BitVec 3) : PassReg := p.cp[k.toNat]'(k.isLt)

/-- The fields that every CCW begins with (R398). -/
def ccwCmd (w : Word) : BitVec 4 := bits w 68 4
def ccwRA (w : Word) : BitVec 4 := bits w 64 4
def ccwRB (w : Word) : BitVec 4 := bits w 60 4
def ccwRC (w : Word) : BitVec 4 := bits w 56 4
def ccwSA (w : Word) : BitVec 3 := bits w 53 3
def ccwSB (w : Word) : BitVec 3 := bits w 50 3

/-- Whether a store of an engine still waits for its target's answer (R71, R410). -/
def State.engStoresOut (s : State) (e : EngId) : Bool :=
  s.lb.series.any fun x => x.waiting.any fun w => match w.2.1 with
    | .engineStore f _ => f == e
    | _ => false

/-- A store of an engine that has failed (R410): a late answer with the CODE of R322 above 0x10. -/
def Engine.failed (x : Engine) : Option Arrived := x.arrived.find? fun a => decide (0x10 ≤ a.status.toNat)

/-- Whether a JOURNAL-EXPORT that has begun waits (R406): the module does not lead, or with CONT nothing new is durable. -/
def State.exportIdle (s : State) (p : ChProg) (w : Word) : Bool :=
  ccwCmd w == 7 && p.exportTo.isSome && p.ending.isNone && (!s.leads || (bit w 0 && decide (s.led.dpos.toNat ≤ s.led.xpos.toNat)))

/-- Whether a program stands at a pre-emption point (R396). -/
def State.atPoint (s : State) (p : ChProg) : Bool :=
  match p.ccw with
  | none => true
  | some w =>
    p.waitFrom.isSome || p.reject.isSome || s.exportIdle p w ||
      (ccwCmd w == 1 && p.ending.isNone &&
        (let da := daAdd (bits (p.reg (ccwRA w)) 0 57) p.done.toNat
         daPos da == 0 && (daWord da).toNat % 8 == 0))

/-- Whether a program is to give way at its next pre-emption point (R395, R396): a halt was asked for, or a program of higher PRIO is ready. -/
def Engine.givesWay (x : Engine) (p : ChProg) : Bool := p.halt || x.ready.any fun r => decide (p.prio.toNat < r.prio.toNat)

/-- Whether an engine can put its program aside now (R395, R396): at a pre-emption point, with no POST outstanding, no access waiting, no reject
entry on its way, and every store complete, without a failure (R410). -/
def State.canLeave (s : State) (e : EngId) (p : ChProg) : Bool :=
  let x := s.engines[e]
  s.atPoint p && x.posts.isEmpty && x.wait.isNone && x.windows.isEmpty && x.failed.isNone && !s.engStoresOut e
    && !(p.reject.any fun r => r.written.isSome)

/-- The PCIe reads by which an engine completes its stores to the host window (R71); an error of one comes before they do (log 45). -/
def State.engReadBack (s : State) (e : EngId) : State := s.updEng e fun x => { x with windows := [] }

/-- A halt that was asked for takes place (R395). -/
def State.haltPoint (s : State) (e : EngId) : State :=
  match s.engines[e].running with
  | some p => if !p.halt then s else if s.canLeave e p then s.chStop e p 0xFFFF else if s.atPoint p then s.engReadBack e else s
  | none => s

/-! ## Starting, resuming and halting (R393-R395) -/

/-- Item 1 of R393: the address translated and the pass tested over the 40 words; the physical address of the first. CHG is set once every
word has passed (R50). -/
def cpbTests (x : Xl) (p : PassReg) (preg : BitVec 4) (cpb : WAddr) : M WAddr := do
  let ws := (List.range 40).map fun k => (cpb + BitVec.ofNat 52 k, maskAll)
  passTests p preg (permLoad ||| permStore ||| permLoadPass ||| permStorePass) .update (daOf cpb 0) ws
  let pas ← mapL (fun w => do
    let fa := daOf w.1 0
    let t ← xlate x w.1 true preg fa
    require (t.acc &&& 6 == 6) (transFault 5 (leafLevel t.size) t.entry preg fa)
    let s ← get
    let pa := s.localise (t.phys w.1)
    require (keyOk p.key t true) { cls := clsKey, preg := preg, faddr := fa, fphys := pa, detail := at' p.key 4 ||| at' t.key 0 }
    if isLocalMem pa then
      match s.regionFault none .update maskAll t pa preg fa with
      | some i => raise i
      | none => pure ()
    return (pa, t)) ws
  eachL (fun y => if isLocalMem y.1 then markChg x y.2 else pure ()) pas
  return (pas.head?.map (·.1)).getD 0

/-- The checks of code 0x02 (R393) on a stored value, the address's alignment and W0. -/
def State.cpbForm (s : State) (v : Word) (pa : WAddr) : Bool :=
  bits v 56 16 == 0 && (bits v 0 52).toNat % 64 == 0 && rangeInMem pa 40
    && (let w := s.data pa
        bits w 68 4 == 1 && !bit w 64 && bits w 0 56 == 0)

/-- Whether a block is running or ready on any engine (R393). -/
def State.cpbInUse (s : State) (pa : WAddr) : Bool :=
  allEngines.any fun e => (s.engines[e].running.any fun p => p.cpb == pa) || s.engines[e].ready.any fun r => r.cpb == pa

/-- W2 of a refused program (R393), wherever its block lies; a word of device control takes none (log 13). -/
def State.refuseCpb (s : State) (x : Xl) (e : EngId) (pa : WAddr) (w : Word) : State :=
  match regionOf pa with
  | .basin | .plain => s.putOwn pa w
  | .window => s.storeWindow pa maskAll w
  | .rBasin | .rPlain | .rDevice =>
    match x, s.blocked (remotePair pa) with
    | .core n _, _ => s.storeRemote n pa maskAll w
    | _, none => s.sendStore pa maskAll w (.engineStore e pa)
    | _, _ => s
  | _ => s

/-- A program started, refused or found broken (R393, R397, R475); W2 as written. -/
def chStart (x : Xl) (p : PassReg) (e : EngId) (v : Word) : M Word := do
  let pa ← cpbTests x p (bits v 52 4) (bits v 0 52)
  let s ← get
  let (troot, space) := s.rootOf x
  let refuse (code : BitVec 8) : M Word := do
    let w := csw 6 0 0 code 0 0
    upd fun s => s.refuseCpb x e (pa + 2) w
    return w
  if isLocalMem pa && (s.cell pa).bad then
    upd fun s => s.chBroken e pa 1
    return csw 7 0 0 0 0 0
  else if !s.cpbForm v pa then refuse 2
  else if s.engines[e].fenced then refuse 4
  else if s.cpbInUse pa then refuse 3
  else if decide (8 ≤ s.engines[e].ready.length) then refuse 1
  else
    let w := csw 1 0 0 0 0 0
    upd fun s =>
      let s := (((s.putOwn (pa + 3) 0).putOwn (pa + 4) 0).putOwn (pa + 5) 0).putOwn (pa + 2) w
      let r : ChReady := { cpb := pa, prio := bits (s.data pa) 65 3, space := space, troot := troot, preempted := false }
      s.updEng e fun x => { x with ready := x.ready ++ [r] }
    return w

/-- A request to CH_RESUME or CH_HALT that is ignored (R394). -/
def State.chIgnored (s : State) (e : EngId) : State := (s.updEng e fun x => { x with reqErr := inc x.reqErr }).chEvent e 5

/-- A program resumed (R394). A full ready list and a fenced engine refuse it as a failed check does. -/
def chResume (x : Xl) (p : PassReg) (e : EngId) (v : Word) : M Unit := do
  let pa ← cpbTests x p (bits v 52 4) (bits v 0 52)
  upd fun s =>
    let (troot, space) := s.rootOf x
    let s := if isLocalMem pa then (s.raiseBadIn pa 1).raiseBadIn (pa + 2) 1 else s
    if !s.cpbForm v pa || (s.cell pa).bad || (s.cell (pa + 2)).bad || bits (s.data (pa + 2)) 68 4 != 3 || s.cpbInUse pa
        || s.engines[e].fenced || decide (8 ≤ s.engines[e].ready.length) then s.chIgnored e
    else
      let r : ChReady := { cpb := pa, prio := bits (s.data pa) 65 3, space := space, troot := troot, preempted := false }
      (s.putOwn (pa + 2) (setBits (s.data (pa + 2)) 68 4 1)).updEng e fun x => { x with ready := x.ready ++ [r] }

/-- A program halted (R395): a ready one at once, the running one at its next pre-emption point. -/
def chHalt (x : Xl) (p : PassReg) (e : EngId) (v : Word) : M Unit := do
  let pa ← cpbTests x p (bits v 52 4) (bits v 0 52)
  upd fun s =>
    if s.engines[e].ready.any fun r => r.cpb == pa then
      let w := setBits (setBits (s.data (pa + 2)) 68 4 5) 32 16 0xFFFF
      ((s.updEng e fun x => { x with ready := x.ready.filter fun r => r.cpb != pa }).putOwn (pa + 2) w).chEvent e 1
    else match s.engines[e].running with
      | some q => if q.cpb == pa then (s.setProg e (some { q with halt := true })).haltPoint e else s.chIgnored e
      | none => s.chIgnored e

/-- PROGRAM_DISPATCH (R396). -/
def execProgramDispatch (e : EngId) (s : State) : Host.Outcome State Fault Refusal :=
  .next (if s.engines[e].running.isNone && !s.engines[e].fenced then s.chDispatch e else s)

/-- PREEMPTION (R396). -/
def execPreemption (e : EngId) (s : State) : Host.Outcome State Fault Refusal :=
  .next (match s.engines[e].running, bestReady s.engines[e].ready with
  | some p, some r =>
    if p.halt || decide (r.prio.toNat ≤ p.prio.toNat) then s.haltPoint e
    else if s.canLeave e p then
      let s := ((s.writeCpb (p.suspended s.now) 4).chLeave e).chDispatch e
      let back : ChReady := { cpb := p.cpb, prio := p.prio, space := p.space, troot := p.troot, preempted := true }
      s.updEng e fun x => { x with ready := x.ready ++ [back], preemptCnt := inc x.preemptCnt }
    else if s.atPoint p then s.engReadBack e else s
  | _, _ => s.haltPoint e)

/-! ## An engine's accesses (R390, R391) -/

/-- Work whose faults name a pass slot. -/
def atSlot {α : Type} (k : BitVec 3) (m : M α) : M α := fun s =>
  match m s with
  | .error (.fault i) t => .error (.fault { i with preg := k.setWidth 4 }) t
  | r => r

/-- The word that an engine waited for, if it has come; a failed store is no load's answer. -/
def Engine.got (x : Engine) (pa : WAddr) : Option Arrived := x.arrived.find? fun a => a.pa == pa && decide (a.status.toNat < 0x10)

/-- An engine's load of a checked word. -/
def engLoad (e : EngId) (r : WordRef) : M Word := do
  let s ← get
  let got := s.engines[e].got r.pa
  match regionOf r.pa with
  | .basin | .plain =>
    if !(s.cell r.pa).bad then return s.data r.pa
    else if got.any fun a => a.status != 0 then raise (dataFault r.fa r.pa)
    else
      upd fun s => s.raiseBad r.pa
      if s.canHeal r.pa then
        upd fun s => (s.startHeal (BitVec.ofNat 24 (offsetOf r.pa))).updEng e fun x => { x with wait := some r.pa }
        throw .wait
      else raise (dataFault r.fa r.pa)
  | .window =>
    if got.any fun a => a.status != 0 then raise (dataFault r.fa r.pa)
    else match s.aperture (offsetOf r.pa) with
      | some (a, k) => do
        upd fun s => s.updEng e fun x => { x with windows := x.windows.filter fun i => i != apertureOf r.pa }
        return s.aptWord a k
      | none => raise { cls := clsRange, faddr := r.fa }
  | _ =>
    match got with
    | some a => if a.status == 0 then return a.word else raise (statusFault a.status r.fa r.pa)
    | none =>
      match s.blocked (remotePair r.pa) with
      | some true => raise (statusFault 1 r.fa r.pa)
      | some false => do
        upd fun s => ({ s with lb := { s.lb with undeliv := inc s.lb.undeliv } } : State).setLbEvt 11
        raise (dataFault r.fa r.pa)
      | none => do
        upd fun s => (s.sendLoad r.pa 1 (.engineLoad e r.pa)).updEng e fun x => { x with wait := some r.pa }
        throw .wait

/-- A store of an engine that failed, with the CODE of R322 (R410). -/
def State.engStoreFailed (s : State) (e : EngId) (pa : WAddr) (code : BitVec 8) : State :=
  s.updEng e fun x => { x with arrived := x.arrived ++ [{ pa := pa, status := code + 0x10, word := 0 }] }

/-- An engine's store to a checked word. A part of an uncorrectable word is not stored: the CCW meets a data error (R409). -/
def engStore (e : EngId) (r : WordRef) (v : Word) : M Unit := do
  markChg (.engine e) r.ent
  match regionOf r.pa with
  | .basin | .plain => do
    let s ← get
    if (s.cell r.pa).bad && r.mask != maskAll then
      upd fun s => s.raiseBad r.pa
      raise (dataFault r.fa r.pa)
    else upd fun s => s.putMasked r.pa r.mask v
  | .window => upd fun s =>
    (s.storeWindow r.pa r.mask v).updEng e fun x => { x with windows := noteAperture r.pa x.windows }
  | _ => upd fun s =>
    let line := r.pa &&& ~~~(7 : WAddr)
    let s := s.updQuad (engQuad e) fun q =>
      { q with remote := mapIf (fun y => y.1 == line) (fun y => (y.1, y.2.modify (r.pa &&& 7).toNat (merge r.mask v))) q.remote }
    match s.blocked (remotePair r.pa) with
    | some true => s.engStoreFailed e r.pa 1
    | some false => (({ s with lb := { s.lb with undeliv := inc s.lb.undeliv } } : State).setLbEvt 11).engStoreFailed e r.pa 3
    | none => s.sendStore r.pa r.mask v (.engineStore e r.pa)

/-- The checked words of an operand of an engine under a slot, each with all its tests before the next (R390). -/
def engRefs (e : EngId) (p : ChProg) (k : BitVec 3) (need : BitVec 12) (a : Acc) (da : DAddr) (n : Nat) : M (List WordRef) :=
  atSlot k (checkByWord (.engine e) (p.pass k) (k.setWidth 4) need a da n)

/-- Positions stored to checked words. -/
def engWrite (e : EngId) (k : BitVec 3) (rs : List WordRef) (l : List (BitVec 4)) : M Unit :=
  atSlot k (eachL (fun x => engStore e x.1 x.2) (rs.zip (scatterPos rs l)))

/-- The positions that an engine loads of one word under a slot: its tests, then the access (R390). -/
def engPart (e : EngId) (p : ChProg) (k : BitVec 3) (da : DAddr) (w : WAddr × BitVec 18) : M (List (BitVec 4)) := do
  let fa := firstPos da w.1
  passTests (p.pass k) (k.setWidth 4) permLoad .load fa [w]
  let r ← checkWord (.engine e) (p.pass k) (k.setWidth 4) .load w.1 w.2 fa
  let v ← engLoad e r
  return gather [r] [v]

/-- n positions that a CCW loads under a slot, word by word. -/
def engField (e : EngId) (p : ChProg) (k : BitVec 3) (da : DAddr) (n : Nat) : M (List (BitVec 4)) := do
  let ls ← atSlot k (mapL (engPart e p k da) (fieldWords n da n))
  return ls.flatten

/-- One word that a CCW loads under a slot, from any position. -/
def engWord (e : EngId) (p : ChProg) (k : BitVec 3) (da : DAddr) : M Word := do
  let l ← engField e p k da 18
  return wordOfPos l

end Sys2Proof.Machine
end

