-- ==== Sys2Proof/Machine/DecStore.lean ====
section
/-! DEFINITION. The storage-to-storage decimal instructions (R81, R82, R89-R91, R98-R107). -/

namespace Sys2Proof.Machine

/-- The decimal-operand fault (R88). -/
def decOperand : FaultInfo := { cls := clsDecOperand }

/-- The digit groups of an operand (R107). -/
def groups (len : Nat) : Nat := (len + 15) / 16

/-- Permissions of an operand that is loaded and stored. -/
abbrev permUpdate : BitVec 12 := 0xC00

/-- The data fault of a storage operand: its nibble i (R78, R320). -/
def decMemFault (op : Nat) (da : DAddr) (i : Nat) : FaultInfo :=
  { cls := clsDecData, faddr := daAdd da i, detail := at' (BitVec.ofNat 2 op) 70 }

/-- A packed operand whose positions have been read, checked (R78). -/
def memDec (op : Nat) (da : DAddr) (l : List (BitVec 4)) : M Dec :=
  match firstBad l 0 with
  | some i => raise (decMemFault op da i)
  | none => return packedVal l

/-- The scale count k (R81). -/
def scaleCount (n : CoreId) : M Int := do
  let g ← gr n 2
  require (bits g 7 65 == 0) decOperand
  return (bits g 0 7).toInt

/-- The two packed operands of an S-format instruction, checked in the order of R88 and read whole (R90); none for an operand 1
that is not read. Both are read before either is tested, so that an uncorrectable word of operand 2 (F13) stands before an invalid nibble of
operand 1 (F17), which R88 and R321 do not order (DESIGN CHOICE, log 49). -/
def packedOperands (n : CoreId) (f : FmtS) (acc : Acc) (need : BitVec 12) (read1 : Bool) : M (List WordRef × Dec × Dec) := do
  let a1 ← sEA1 n f
  let r1 ← operand n 1 f.p1 need acc a1 (FmtS.len1 f)
  let a2 ← sEA2 n f
  let r2 ← operand n 2 f.p2 permLoad .load a2 (FmtS.len2 f)
  let l1 ← if read1 then loadField n r1 else pure []
  let l2 ← loadField n r2
  let d1 ← if read1 then memDec 1 a1 l1 else pure { sign := 0xC, neg := false, mag := 0 }
  let d2 ← memDec 2 a2 l2
  return (r1, d1, d2)

/-- An exact result num / den written to operand 1: rounded, fitted and stored, with the flags (R83-R87, R91). -/
def writeDec (n : CoreId) (f : FmtS) (r1 : List WordRef) (neg : Bool) (num den : Nat) : M Next := do
  let c ← getCore n
  let (m, x) := roundQ (c.rounding f.rnd) neg num den
  let r := fitDec f.l1.toNat neg m
  storeField n 1 r1 (packedField f.l1.toNat r.mag r.sign)
  modCore n fun c => c.decFlags r x
  return .seq

/-- The lengths that R76 allows for two packed operands. -/
def lengthsOk (f : FmtS) : Bool := decide (1 ≤ f.l1.toNat) && decide (1 ≤ f.l2.toNat)

/-- The charge that depends on k (R107). -/
def chargeScale (n : CoreId) (k : Int) : M Unit := if k = 0 then pure () else modCore n (Core.charge 2)

/-- The shape of an S-format decimal instruction. -/
def shapeS (f : FmtS) (steps : Nat) (legal : Bool) : Shape :=
  { slots := 2, steps := steps, legal := f.res == 0 && legal, regs := FmtS.regs f }

/-- op1 + op2 x 10^-k as a signed numerator over a denominator (R82). -/
def decSumM (n : CoreId) (f : FmtS) (minus : Bool) : M Next := do
  require (lengthsOk f) decOperand
  let k ← scaleCount n
  let (r1, d1, d2) ← packedOperands n f .update permUpdate true
  let (num2, den) := scaled d2.mag k
  let v2 : Int := if d2.neg != minus then -(num2 : Int) else num2
  let v : Int := d1.val * den + v2
  chargeScale n k
  writeDec n f r1 (v < 0) v.natAbs den

/-- The shape of DADDM. -/
def shapeDaddM (f : FmtS) : Shape := shapeS f (5 + groups (FmtS.len1 f) + groups (FmtS.len2 f)) true

def execDaddM (n : CoreId) (f : FmtS) (s : State) : Res :=
  .next (s.runIns n (shapeDaddM f) (decSumM n f false))

/-- The shape of DSUBM. -/
def shapeDsubM (f : FmtS) : Shape := shapeS f (5 + groups (FmtS.len1 f) + groups (FmtS.len2 f)) true

def execDsubM (n : CoreId) (f : FmtS) (s : State) : Res :=
  .next (s.runIns n (shapeDsubM f) (decSumM n f true))

/-- The shape of DMULM. -/
def shapeDmulM (f : FmtS) : Shape := shapeS f (8 + 2 * groups (FmtS.len1 f) * groups (FmtS.len2 f)) true

def execDmulM (n : CoreId) (f : FmtS) (s : State) : Res :=
  .next (s.runIns n (shapeDmulM f) do
    require (lengthsOk f) decOperand
    let k ← scaleCount n
    let (r1, d1, d2) ← packedOperands n f .update permUpdate true
    let (num2, den) := scaled d2.mag k
    writeDec n f r1 (d1.neg != d2.neg) (d1.mag * num2) den)

/-- The shape of DDIVM. -/
def shapeDdivM (f : FmtS) : Shape := shapeS f (10 + 2 * (f.l1.toNat + 1)) true

/-- DDIV.M: op1 x 10^k / op2 (R98, R99). -/
def execDdivM (n : CoreId) (f : FmtS) (s : State) : Res :=
  .next (s.runIns n (shapeDdivM f) do
    require (lengthsOk f) decOperand
    let k ← scaleCount n
    let (r1, d1, d2) ← packedOperands n f .update permUpdate true
    require (d2.mag != 0) { cls := clsDecDivide }
    let (num2, den) := scaled d2.mag k
    writeDec n f r1 (d1.neg != d2.neg) (d1.mag * den) num2)

/-- The shape of DSHRM. -/
def shapeDshrM (f : FmtS) : Shape := shapeS f (5 + groups (FmtS.len1 f) + groups (FmtS.len2 f)) true

def execDshrM (n : CoreId) (f : FmtS) (s : State) : Res :=
  .next (s.runIns n (shapeDshrM f) do
    require (lengthsOk f) decOperand
    let k ← scaleCount n
    let (r1, _, d2) ← packedOperands n f .store permStore false
    let (num2, den) := scaled d2.mag k
    chargeScale n k
    writeDec n f r1 d2.neg num2 den)

/-- The shape of DCMPM. -/
def shapeDcmpM (f : FmtS) : Shape := shapeS f (4 + groups (FmtS.len1 f) + groups (FmtS.len2 f)) (f.rnd == 0)

def execDcmpM (n : CoreId) (f : FmtS) (s : State) : Res :=
  .next (s.runIns n (shapeDcmpM f) do
    require (lengthsOk f) decOperand
    let k ← scaleCount n
    let (_, d1, d2) ← packedOperands n f .load permLoad true
    let (num2, den) := scaled d2.mag k
    let v2 : Int := if d2.neg then -(num2 : Int) else num2
    chargeScale n k
    modCore n fun c => c.decCompare (d1.val * den) v2
    return .seq)

/-- An octet operand must start at an even position (R21). -/
def evenStart (da : DAddr) : M Unit := aligned (daPos da % 2 == 0) clsOctetAlign da

/-- The index of the first invalid nibble of a zoned field (R100). -/
def firstBadZoned : List (BitVec 4) → Nat → Option Nat
  | [z, d], i => if !(isSign z || z == 3) then some i else if isDigit d then none else some (i + 1)
  | z :: d :: r, i => if !(z == 3 || z == 0xF) then some i else if !isDigit d then some (i + 1) else firstBadZoned r (i + 2)
  | _, _ => none

/-- The digits of a zoned field. -/
def zonedDigits : List (BitVec 4) → List (BitVec 4)
  | _ :: d :: r => d :: zonedDigits r
  | _ => []

/-- The shape of PACK. -/
def shapePack (f : FmtS) : Shape := shapeS f (5 + groups (FmtS.len1 f) + groups (FmtS.len2 f)) (f.rnd == 0)

/-- PACK (R100): operand 2 zoned, operand 1 packed. -/
def execPack (n : CoreId) (f : FmtS) (s : State) : Res :=
  .next (s.runIns n (shapePack f) do
    require (decide (1 ≤ f.l1.toNat) && (FmtS.len2 f) % 2 == 0) decOperand
    let a1 ← sEA1 n f
    let r1 ← operand n 1 f.p1 permStore .store a1 (FmtS.len1 f)
    let a2 ← sEA2 n f
    evenStart a2
    let r2 ← operand n 2 f.p2 permLoad .load a2 (FmtS.len2 f)
    let l ← loadField n r2
    match firstBadZoned l 0 with
    | some i => raise (decMemFault 2 a2 i)
    | none => pure ()
    let z := (l.drop (l.length - 2)).headD 0
    let r := fitDec f.l1.toNat (isMinus z) (natOfDigits (zonedDigits l))
    let sign : BitVec 4 := if z == 0xF || z == 3 then 0xF else r.sign
    storeField n 1 r1 (packedField f.l1.toNat r.mag sign)
    modCore n fun c => c.decFlags r false
    return .seq)

/-- The octets of a zoned field: 0x30 plus each digit, the last with a zone of its own. -/
def zonedField (l : List (BitVec 4)) (zone : BitVec 4) : List (BitVec 4) :=
  (l.dropLast.flatMap fun d => [3, d]) ++ [zone, l.getLastD 0]

/-- The shape of UNPK. -/
def shapeUnpk (f : FmtS) : Shape := shapeS f (5 + groups (FmtS.len1 f) + groups (FmtS.len2 f)) (f.rnd == 0)

/-- UNPK (R101): operand 2 packed, operand 1 zoned. -/
def execUnpk (n : CoreId) (f : FmtS) (s : State) : Res :=
  .next (s.runIns n (shapeUnpk f) do
    require (decide (1 ≤ f.l2.toNat) && (FmtS.len1 f) % 2 == 0) decOperand
    let a1 ← sEA1 n f
    evenStart a1
    let r1 ← operand n 1 f.p1 permStore .store a1 (FmtS.len1 f)
    let a2 ← sEA2 n f
    let r2 ← operand n 2 f.p2 permLoad .load a2 (FmtS.len2 f)
    let l ← loadField n r2
    let d ← memDec 2 a2 l
    let k := (FmtS.len1 f) / 2
    let r := fitDec k d.neg d.mag
    let zone : BitVec 4 := if d.sign == 0xF then 0xF else r.sign
    storeField n 1 r1 (zonedField (digitsOf k r.mag) zone)
    modCore n fun c => c.decFlags r false
    return .seq)

/-! ## CVTX (R102-R105) -/

/-- Where the text of R103 stands while it is read. -/
inductive TextAt where
  | lead | signed | whole | point | frac | trail
  deriving DecidableEq, Repr

/-- What the text holds so far: sign octet, integer and fraction digits. -/
structure TextNum where
  sign : Option Bool
  whole : List (BitVec 4)
  frac : List (BitVec 4)
  deriving DecidableEq, Repr

def TextNum.anyDigit (t : TextNum) : Bool := !t.whole.isEmpty || !t.frac.isEmpty

/-- A decimal digit of octet text (R14). -/
def textDigit (o : BitVec 8) : Option (BitVec 4) := if bits o 4 4 = 3 ∧ (bits o 0 4).toNat ≤ 9 then some (bits o 0 4) else none

/-- One octet more of the text, or none where it departs from R103. -/
def textStep (a : TextAt) (t : TextNum) (o : BitVec 8) : Option (TextAt × TextNum) :=
  let blank := o == 0x20
  let dot := o == 0x2E
  let sgn : Option Bool := if o = 0x2D then some true else if o = 0x2B then some false else none
  match textDigit o with
  | some d =>
    match a with
    | .lead | .signed | .whole => some (.whole, { t with whole := t.whole ++ [d] })
    | .point | .frac => some (.frac, { t with frac := t.frac ++ [d] })
    | .trail => none
  | none =>
    if blank then
      match a with
      | .lead => some (.lead, t)
      | _ => if t.anyDigit then some (.trail, t) else none
    else if dot then
      match a with
      | .lead | .signed | .whole => some (.point, t)
      | _ => none
    else
      match sgn, a with
      | some b, .lead => some (.signed, { t with sign := some b })
      | _, _ => none

/-- The text read, or the octet index at which it departs from R103; text that ends without a digit departs at its last octet. -/
def parseText : List (BitVec 8) → Nat → TextAt → TextNum → Except Nat TextNum
  | [], i, _, t => if t.anyDigit then .ok t else .error (i - 1)
  | o :: r, i, a, t =>
    match textStep a t o with
    | some (a', t') => parseText r (i + 1) a' t'
    | none => .error i

/-- Octets from pairs of positions. -/
def octetsOfPos : List (BitVec 4) → List (BitVec 8)
  | a :: b :: r => (a ++ b) :: octetsOfPos r
  | _ => []

/-- Positions from octets. -/
def posOfOctets (l : List (BitVec 8)) : List (BitVec 4) := l.flatMap fun o => [bits o 4 4, bits o 0 4]

/-- The significant digits of a number, at least one. -/
def sigDigits (v : Nat) : List (BitVec 4) :=
  let l := (digitsOf 64 v).dropWhile (· == 0)
  if l.isEmpty then [0] else l

/-- The characters of a value at scale s (R105). -/
def decText (d : Dec) (s : Nat) : List (BitVec 8) :=
  let chars (l : List (BitVec 4)) : List (BitVec 8) := l.map fun x => (3 : BitVec 4) ++ x
  (if d.neg && d.mag != 0 then [0x2D] else []) ++ chars (sigDigits (d.mag / 10 ^ s))
    ++ (if s = 0 then [] else 0x2E :: chars (digitsOf s (d.mag % 10 ^ s)))

/-- CVTX direction 0: text operand 2 to packed operand 1 (R103, R104). -/
def cvtxIn (n : CoreId) (f : FmtS) (sc : Nat) : M Next := do
  require (decide (1 ≤ f.l1.toNat) && (FmtS.len2 f) % 2 == 0) decOperand
  let a1 ← sEA1 n f
  let r1 ← operand n 1 f.p1 permStore .store a1 (FmtS.len1 f)
  let a2 ← sEA2 n f
  evenStart a2
  let r2 ← operand n 2 f.p2 permLoad .load a2 (FmtS.len2 f)
  let l ← loadField n r2
  modCore n (Core.charge ((FmtS.len2 f) / 2))
  match parseText (octetsOfPos l) 0 .lead { sign := none, whole := [], frac := [] } with
  | .error i =>
    modCore n fun c => (c.setNZVC false false true false).setG 3 (BitVec.ofNat 72 (i + 1))
    return .seq
  | .ok t =>
    let c ← getCore n
    let neg := t.sign == some true
    let (num, den) := scaled (natOfDigits (t.whole ++ t.frac)) ((t.frac.length : Int) - sc)
    let (m, x) := roundQ (c.rounding f.rnd) neg num den
    let r := fitDec f.l1.toNat neg m
    storeField n 1 r1 (packedField f.l1.toNat r.mag (if t.sign.isNone then 0xF else r.sign))
    modCore n fun c => (c.decFlags r x).setG 3 0
    return .seq

/-- CVTX direction 1: packed operand 2 to text operand 1 (R105). -/
def cvtxOut (n : CoreId) (f : FmtS) (sc : Nat) : M Next := do
  require (decide (1 ≤ f.l2.toNat) && (FmtS.len1 f) % 2 == 0 && f.rnd == 0) decOperand
  let a1 ← sEA1 n f
  evenStart a1
  let r1 ← operand n 1 f.p1 permStore .store a1 (FmtS.len1 f)
  let a2 ← sEA2 n f
  let r2 ← operand n 2 f.p2 permLoad .load a2 (FmtS.len2 f)
  let l ← loadField n r2
  let d ← memDec 2 a2 l
  let k := (FmtS.len1 f) / 2
  let t := decText d sc
  let fits := decide (t.length ≤ k)
  modCore n (Core.charge k)
  storeField n 1 r1 (posOfOctets (if fits then List.replicate (k - t.length) 0x20 ++ t else List.replicate k 0x2A))
  modCore n fun c => (c.setNZVC (d.neg && d.mag != 0) (d.mag == 0) (!fits) false).setG 3 0
  return .seq

/-- The shape of CVTX. -/
def shapeCvtx (f : FmtS) : Shape := shapeS f 8 true

def execCvtx (n : CoreId) (f : FmtS) (s : State) : Res :=
  .next (s.runIns n (shapeCvtx f) do
    let g ← gr n 2
    require (bits g 8 64 == 0 && decide ((bits g 0 7).toNat ≤ 63)) decOperand
    if bit g 7 then cvtxOut n f (bits g 0 7).toNat else cvtxIn n f (bits g 0 7).toNat)

end Sys2Proof.Machine
end

