-- ==== Sys2Proof/Machine/Sha.lean ====
section
/-! DEFINITION. SHA-256 as FIPS 180-4 defines it (R194), over the module's 256-bit digests: the hash value is one 256-bit value of eight
lanes, and the message schedule one 512-bit window that each round shifts by a lane. -/

namespace Sys2Proof.Machine

/-! ## The constants: the first 32 bits of the fractional parts of roots of the first primes -/

/-- Whether no number from 2 up to its square root divides n. -/
def isPrime (n : Nat) : Bool := decide (2 ≤ n) && (List.range 18).all fun d => decide (d < 2) || decide (n < d * d) || n % d != 0

/-- The primes below 312: the first 64. -/
def primes : List Nat := (List.range 312).filter isPrime

/-- The greatest r + x below r + 2^k with (r + x)^e at most n. -/
def rootFrom (e n : Nat) : Nat → Nat → Nat
  | 0, r => r
  | k + 1, r => rootFrom e n k (if (r + 2 ^ k) ^ e ≤ n then r + 2 ^ k else r)

/-- The first 32 bits of the fractional part of the e-th root of a number below 2^9. -/
def rootBits (e p : Nat) : BitVec 32 := BitVec.ofNat 32 (rootFrom e (p * 2 ^ (32 * e)) 41 0)

/-- The initial hash value: from the square roots of the first eight primes, the first in the highest lane. -/
def hashStart : BitVec 256 := (primes.take 8).foldl (fun h p => (h <<< 32) ||| (rootBits 2 p).setWidth 256) 0

/-- The constants of the rounds: from the cube roots of the first 64 primes. -/
def roundConsts : List (BitVec 32) := primes.map (rootBits 3)

/-! ## Rounds -/

/-- Lane k of a hash value; lane 0 is the highest. -/
def lane (h : BitVec 256) (k : Nat) : BitVec 32 := bits h (224 - 32 * k) 32

/-- Word k of a schedule window. -/
def windowWord (w : BitVec 512) (k : Nat) : BitVec 32 := bits w (480 - 32 * k) 32

/-- The exclusive or of three rotations. -/
def threeTurns (x : BitVec 32) (i j k : Nat) : BitVec 32 := x.rotateRight i ^^^ x.rotateRight j ^^^ x.rotateRight k

/-- Bit by bit, y where x is set and z elsewhere. -/
def pickBits (x y z : BitVec 32) : BitVec 32 := z ^^^ (x &&& (y ^^^ z))

/-- Bit by bit, what two of three agree on. -/
def agreeBits (x y z : BitVec 32) : BitVec 32 := pickBits (x ^^^ y) z x

/-- The window after one round: its oldest word leaves and the next of the schedule enters. -/
def nextWindow (w : BitVec 512) : BitVec 512 :=
  let turned (k i j d : Nat) : BitVec 32 := (windowWord w k).rotateRight i ^^^ (windowWord w k).rotateRight j ^^^ windowWord w k >>> d
  (w <<< 32) ||| (windowWord w 0 + turned 1 7 18 3 + windowWord w 9 + turned 14 17 19 10).setWidth 512

/-- One round with its constant: every lane moves down by one, the lowest leaves into the sum that enters the first and is added to the
fifth. -/
def hashRound (x : BitVec 256 × BitVec 512) (k : BitVec 32) : BitVec 256 × BitVec 512 :=
  let l := lane x.1
  let sum := l 7 + threeTurns (l 4) 6 11 25 + pickBits (l 4) (l 5) (l 6) + k + windowWord x.2 0
  let first := sum + threeTurns (l 0) 2 13 22 + agreeBits (l 0) (l 1) (l 2)
  (setBits (setBits (x.1 >>> 32) 224 32 first) 96 32 (l 3 + sum), nextWindow x.2)

/-- Two hash values added lane by lane. -/
def addLanes (a b : BitVec 256) : BitVec 256 :=
  (List.range 8).foldl (fun h k => (h <<< 32) ||| (lane a k + lane b k).setWidth 256) 0

/-- One block of 512 bits taken into a hash value. -/
def hashBlock (h : BitVec 256) (m : BitVec 512) : BitVec 256 := addLanes h (roundConsts.foldl hashRound (h, m)).1

/-! ## Messages -/

/-- The 64 octets of a block, the first the most significant. -/
def messageBlock (l : List (BitVec 8)) : BitVec 512 := l.foldl (fun b o => (b <<< 8) ||| o.setWidth 512) 0

/-- The blocks of a padded message in order. Fuel: blocks. -/
def hashBlocks : Nat → BitVec 256 → List (BitVec 8) → BitVec 256
  | 0, h, _ => h
  | n + 1, h, l => hashBlocks n (hashBlock h (messageBlock (l.take 64))) (l.drop 64)

/-- The padded message: a one bit, zeros up to eight octets short of a whole block, and the length in bits. -/
def padded (m : List (BitVec 8)) : List (BitVec 8) :=
  let bitsOf : BitVec 64 := BitVec.ofNat 64 (8 * m.length)
  m ++ 0x80 :: List.replicate ((119 - m.length % 64) % 64) 0 ++ (List.range 8).map fun k => bits bitsOf (56 - 8 * k) 8

/-- SHA-256 of octets. -/
def sha256 (m : List (BitVec 8)) : BitVec 256 := hashBlocks ((padded m).length / 64) hashStart (padded m)

/-- The octets of a digest. -/
def digestOctets (d : BitVec 256) : List (BitVec 8) := (List.range 32).map fun i => bits d (248 - 8 * i) 8

/-- The canonical serialisation of words (R194). -/
def serialise (l : List Word) : List (BitVec 8) := l.flatMap octetList

end Sys2Proof.Machine
end

