-- ==== Sys2Proof/Machine/Journal.lean ====
section
/-! DEFINITION. Record digests, block trailers and the host's acknowledgement (R173, R186, R194-R200). -/

namespace Sys2Proof.Machine

/-- RECORD_HASH (R173, R194): the oldest durable record without a digest. The sequencer resumes when the backlog falls below 4,096. -/
def execRecordHash (s : State) : Host.Outcome State Fault Refusal :=
  .next (match s.led.recs.find? fun r => !r.trailer && r.digest.isNone && s.recDurable r with
  | none => s
  | some r =>
    let d := sha256 (serialise (s.ringWords r.pos.toNat r.len))
    let t : State := { s with led := { s.led with recs := mapIf (fun x => !x.trailer && x.seq == r.seq) (fun x => { x with digest := some d }) s.led.recs } }
    if t.backlogged then t else t.clearStall.releaseDecisions)

/-- The four words of a digest in a trailer (R186). -/
def digestWords (d : BitVec 256) : List Word := (List.range 4).map fun j => at' (bits d (192 - 64 * j) 64) 8

/-- Words T0 to T3 of a trailer (R186). -/
def trailerHead (b : Nat) (term : BitVec 48) (time : BitVec 64) : List Word :=
  [at' (6 : BitVec 4) 68 ||| at' (64 : BitVec 8) 48 ||| BitVec.ofNat 72 b, at' (BitVec.ofNat 48 (64 * b + 1)) 24, at' term 24, at' time 8]

/-- The digest of a block (R195). -/
def blockDigest (hs : List (BitVec 256)) (head : List Word) (prev : BitVec 256) : BitVec 256 :=
  sha256 (hs.flatMap digestOctets ++ serialise head ++ digestOctets prev)

/-- BLOCK_TRAILER (R196): the oldest trailer slot whose block is durable and hashed, on a leader or solo module. -/
def execBlockTrailer (s : State) : Host.Outcome State Fault Refusal :=
  .next (match s.led.recs.find? fun r => r.trailer && !r.written with
  | none => s
  | some t =>
    let b := blockOf t.seq
    let rs := s.led.recs.filter fun r => !r.trailer && blockOf r.seq == b
    if !s.leads || rs.length ≠ 64 || !(rs.all fun r => r.digest.isSome && s.recDurable r) then s
    else
      let head := trailerHead b s.ws.term (s.timeAt s.now)
      let d := blockDigest (rs.filterMap (·.digest)) head s.prevDigest
      let s := s.writeRing t.pos.toNat (head ++ digestWords d ++ digestWords s.prevDigest)
      ({ s with led := { s.led with
          recs := mapIf (fun r => r.trailer && r.seq == t.seq) (fun r => { r with written := true }) s.led.recs,
          lastTrailer := some t.pos } } : State).settleDpos)

/-- Whether a position is the start of a record or trailer, or of the next one (R200); a record that has its number counts before it is written. -/
def State.recordStart (s : State) (p : Nat) : Bool :=
  p == s.led.wpos.toNat || (s.led.recs.any fun r => r.pos.toNat == p) || s.ringRecords.any fun r =>
    r.1 == p || (recType r.2 != 6 && (recSeq r.2).toNat % 64 == 0 && r.1 + (recLen r.2).getD 0 == p)

/-- An acknowledgement word as the doorbell watcher read it (R199, R200). -/
def State.ackWord (s : State) (w : Word) : State :=
  let a := (bits w 0 64).toNat
  if bits w 64 8 ≠ 0 ∨ s.led.xpos.toNat < a ∨ a < s.led.apos.toNat ∨ !(a == s.led.apos.toNat || s.recordStart a) then
    ({ s with led := { s.led with ackErr := inc s.led.ackErr } } : State).setJnEvt 2
  else
    let p := ((s.led.lastTrailer).getD 0).toNat
    ({ s with led := { s.led with apos := BitVec.ofNat 64 (max s.led.apos.toNat (min a p)) } } : State).releaseDecisions

end Sys2Proof.Machine
end

