-- ==== Sys2Proof/Machine/Strings.lean ====
section
/-! DEFINITION. The edit and string instructions (R108-R136). Each command runs the next unit of work; while units remain the PC
stays at the instruction and G2-G7 hold the progress (R112-R118). -/

namespace Sys2Proof.Machine

/-- The string-operand fault (R109). -/
def stringOperand : FaultInfo := { cls := clsString }

/-- The progress of a long instruction (R113): bits 63:0 of G2, and G3-G7. -/
structure Prog where
  par : BitVec 64
  g3 : Word
  a1 : DAddr
  a2 : DAddr
  n1 : Nat
  n2 : Nat
  deriving DecidableEq, Repr

/-- What distinguishes one of the eight instructions at a start (R108-R113). -/
structure LongKind where
  opcode : BitVec 8
  need1 : BitVec 12
  acc1 : Acc
  /-- Operand 1 must be octet text; for VDG this depends on FMT. -/
  text1 : BitVec 64 → Bool
  /-- 0 no operand 2, 1 an operand of L2 + 1 positions, 2 a table of 512 positions. -/
  second : Nat
  freshMask : BitVec 64
  stateMask : BitVec 64
  /-- First term of the deterministic count, paid at each start (R136). -/
  first : Nat
  /-- Further conditions on the length at a fresh start. -/
  freshOk : BitVec 64 → Nat → Bool := fun _ _ => true
  /-- G7 at a fresh start. -/
  freshN2 : Nat → Nat → Nat := fun _ n2 => n2
  /-- Further conditions on the state at a resume. -/
  resumeOk : Prog → Bool := fun _ => true
  /-- The state in G2 at a fresh start, from the parameters and the operands. -/
  freshPar : BitVec 64 → DAddr → Nat → DAddr → Nat → BitVec 64 := fun p _ _ _ _ => p
  /-- G3 at a fresh start. -/
  clearG3 : Bool := false

/-- What a unit leaves: more units to run, with what the next one holds, or completion with the result bits of G2 and the flags N, Z, V, C, if
any. `steps` is its share of the deterministic count (R136), charged as the unit completes (R351). -/
inductive UnitEnd where
  | more (steps : Nat) (p : Prog) (hold : LongHold)
  | done (steps : Nat) (p : Prog) (g2 : Word) (flags : Option (Bool × Bool × Bool × Bool))

/-- The position number of a digit address, counted in valid positions (R24). -/
def linear (da : DAddr) : Nat := (daWord da).toNat * 18 + daPos da

/-- The operand checks of R114 item 3, checks 3 and 4 of R62. Of an empty remaining footprint nothing is tested, its pass register included
(DESIGN CHOICE, log 48). -/
def stringTests (n : CoreId) (pr : PassId) (need : BitVec 12) (a : Acc) (da : DAddr) (len : Nat) : M Unit := do
  if len = 0 then pure ()
  else
    let c ← getCore n
    passTests (c.pr pr) pr need a da (fieldWords len da len)

/-- A fresh start (R112, R114). -/
def freshStart (n : CoreId) (f : FmtS) (k : LongKind) (g2 : BitVec 64) : M Prog := do
  let n1 := FmtS.len1 f
  let n2 := FmtS.len2 f
  let text := k.text1 g2
  require (g2 &&& ~~~k.freshMask == 0 && (!text || n1 % 2 == 0) && k.freshOk g2 n1) stringOperand
  let a1 ← sEA1 n f
  if text then evenStart a1
  stringTests n f.p1 k.need1 k.acc1 a1 n1
  let g3 ← gr n 3
  let g5 ← gr n 5
  let a2 ← match k.second with
    | 0 => pure (bits g5 0 57)
    | m => do
      let a2 ← sEA2 n f
      if m = 2 then evenStart a2
      stringTests n f.p2 permLoad .load a2 (if m = 2 then 512 else n2)
      pure a2
  return {
    par := k.freshPar g2 a1 n1 a2 n2, g3 := if k.clearG3 then 0 else g3, a1 := a1, a2 := a2, n1 := n1,
    n2 := match k.second with
      | 0 => 0
      | 2 => 512
      | _ => k.freshN2 n1 n2 }

/-- Whether a register holds a digit address for an operand (R19, R20, R110). -/
def addrOk (v : Word) (text : Bool) : Bool :=
  bits v 57 15 == 0 && decide (daPos (bits v 0 57) ≤ 17) && (!text || daPos (bits v 0 57) % 2 == 0)

/-- A resume (R112, R114): the state in G2-G7 checked, then the passes over the remaining footprints. G3 is no field with a range: any value of it
is taken (DESIGN CHOICE, log 48). -/
def resumeStart (n : CoreId) (f : FmtS) (k : LongKind) (g2 : BitVec 64) : M Prog := do
  let g3 ← gr n 3
  let g4 ← gr n 4
  let g5 ← gr n 5
  let g6 ← gr n 6
  let g7 ← gr n 7
  let text := k.text1 g2
  let p : Prog := { par := g2, g3 := g3, a1 := bits g4 0 57, a2 := bits g5 0 57, n1 := g6.toNat, n2 := g7.toNat }
  require (g2 &&& ~~~k.stateMask == 0 && addrOk g4 text && (k.second == 0 || addrOk g5 (k.second == 2))
    && decide (p.n1 ≤ 64) && (decide (1 ≤ p.n1) || (k.opcode == 0x83 && p.n2 != 0)) && (!text || p.n1 % 2 == 0)
    && (match k.second with
      | 0 => p.n2 == 0
      | 2 => p.n2 == 512
      | _ => decide (p.n2 ≤ 64))
    && k.resumeOk p) stringOperand
  stringTests n f.p1 k.need1 k.acc1 p.a1 p.n1
  if k.second != 0 then stringTests n f.p2 permLoad .load p.a2 p.n2
  return p

/-- The fields that must be zero (R109). -/
def LongKind.fieldsOk (k : LongKind) (f : FmtS) : Bool :=
  f.rnd == 0 && (k.second == 1 || f.l2 == 0) && (k.second != 0 || (f.b2 == 0 && f.p2 == 0 && f.d2 == 0))

/-- The registers after a unit (R113, R115). -/
def Core.setProg (c : Core) (p : Prog) (g2 : Word) (keepG5 : Bool) : Core :=
  let c := ((c.setG 2 g2).setG 3 p.g3).setG 4 (daReg p.a1)
  let c := if keepG5 then c else c.setG 5 (daReg p.a2)
  (c.setG 6 (BitVec.ofNat 72 p.n1)).setG 7 (BitVec.ofNat 72 p.n2)

/-- The next unit of a long instruction. A start, fresh or resumed, pays the first term (R136); a unit that follows the one before with nothing
between them does not. -/
def longBody (n : CoreId) (f : FmtS) (k : LongKind) (unit : Option LongHold → Prog → M UnitEnd) : M Next := do
  require (k.fieldsOk f) stringOperand
  let g2 ← gr n 2
  let held := (← getCore n).hold
  let tag := bits g2 64 8
  require (tag == 0 || tag == k.opcode) stringOperand
  let p ← if tag == 0 then freshStart n f k (bits g2 0 64) else resumeStart n f k (bits g2 0 64)
  let held := if tag == 0 then none else held
  let first := if held.isSome then 0 else k.first
  match ← unit held p with
  | .more steps q h => do
    modCore n fun c =>
      { c.setProg q (at' k.opcode 64 ||| q.par.setWidth 72) (k.second == 0) with hold := some h }.charge (first + steps)
    return .stay
  | .done steps q r fl => do
    modCore n fun c =>
      let c := (c.setProg q r (k.second == 0)).charge (first + steps)
      match fl with
      | some (a, b, v, cy) => c.setNZVC a b v cy
      | none => c
    return .seq

/-- The shape of a long instruction; its counts are charged unit by unit (R351). -/
def shapeLong (f : FmtS) : Shape := { slots := 2, steps := 0, legal := f.res == 0, regs := FmtS.regs f }

/-- Checks 5 and 6 of R62 for a part of operand 1 that a unit reaches (R114). -/
def unitRefs (n : CoreId) (stream : Fin 3) (pr : PassId) (a : Acc) (da : DAddr) (len : Nat) : M (List WordRef) := do
  let c ← getCore n
  mapL (fun w => checkWord (.core n stream) (c.pr pr) pr a w.1 w.2 (firstPos da w.1)) (fieldWords len da len)

/-- One word of operand 2 that a unit reaches: its checks and its read come before those of the next word (R114). A word that is held is not
read again (R136). -/
def readOp2 (n : CoreId) (pr : PassId) (da : DAddr) (held : Option (WAddr × Word)) (w : WAddr × BitVec 18) : M Word := do
  match held.filter fun h => h.1 == w.1 with
  | some h => return h.2
  | none => do
    let c ← getCore n
    let r ← checkWord (.core n 2) (c.pr pr) pr .load w.1 w.2 (firstPos da w.1)
    loadRef n r

/-- The positions of a word under a mask, first to last. -/
def maskedPos (m : BitVec 18) (w : Word) : List (BitVec 4) :=
  (List.range 18).filterMap fun p => if bit m (17 - p) then some (posOf w p) else none

/-- The words of operand 2 that a unit reads, in ascending order, each with its address and the positions read of it. -/
def unitWords (n : CoreId) (pr : PassId) (held : Option (WAddr × Word)) (da : DAddr) (len : Nat) : M (List ((WAddr × Word) × List (BitVec 4))) :=
  mapL (fun w => do
    let x ← readOp2 n pr da held w
    return ((w.1, x), maskedPos w.2 x)) (fieldWords len da len)

/-- Positions of operand 2 that a unit reads. -/
def unitRead (n : CoreId) (pr : PassId) (da : DAddr) (len : Nat) : M (List (BitVec 4)) := do
  return (← unitWords n pr none da len).flatMap (·.2)

/-- What a unit holds for the next one when it holds no open field. -/
def holdWord (w : Option (WAddr × Word)) : LongHold := { digits := [], word := w }

/-- The positions of operand 1 that lie in its first word (R115). -/
def firstChunk (p : Prog) : Nat := min p.n1 (18 - daPos p.a1)

/-- The positions of operand 1 that lie in its last word. -/
def lastChunk (p : Prog) : Nat := min p.n1 (daPos (daAdd p.a1 ((p.n1 : Int) - 1)) + 1)

/-- The pad nibble of a position (R121, R123). -/
def padNibble (pad : BitVec 8) (pos : Nat) : BitVec 4 := if pos % 2 = 0 then bits pad 4 4 else bits pad 0 4

/-- The pad nibbles of k positions from da. -/
def padRun (pad : BitVec 8) (da : DAddr) (k : Nat) : List (BitVec 4) :=
  (List.range k).map fun (i : Nat) => padNibble pad (daPos (daAdd da (i : Int)))

/-! ## MVS (R121, R122) -/

/-- Whether MVS descends: the operands overlap and operand 1 starts higher (R122). -/
def mvsDown (a1 : DAddr) (a2 : DAddr) (n2 : Nat) : Bool :=
  decide (linear a2 < linear a1) && decide (linear a1 < linear a2 + n2)

def mvsKind : LongKind :=
  { opcode := 0x82, need1 := permStore, acc1 := .store, text1 := fun _ => false, second := 1, freshMask := 0xFF, stateMask := 0x1FF,
    first := 6, freshN2 := min, resumeOk := fun p => decide (p.n2 ≤ p.n1),
    freshPar := fun g a1 _ a2 n2 => if mvsDown a1 a2 n2 then g ||| 0x100 else g }

def mvsUnit (n : CoreId) (f : FmtS) (held : Option LongHold) (p : Prog) : M UnitEnd := do
  let pad := bits p.par 0 8
  let down := bit p.par 8
  let m := if down then lastChunk p else firstChunk p
  let i := if down then p.n1 - m else 0
  let copies := min (p.n2 - i) m
  let da := daAdd p.a1 i
  let ws ← unitWords n f.p2 (held.bind (·.word)) (daAdd p.a2 i) copies
  let rs ← unitRefs n 1 f.p1 .store da m
  storeField n 1 rs (ws.flatMap (·.2) ++ padRun pad (daAdd da copies) (m - copies))
  let last := ((if down then ws.head? else ws.getLast?).map (·.1)).or (held.bind (·.word))
  let q : Prog :=
    if down then { p with n1 := p.n1 - m, n2 := min p.n2 (p.n1 - m) }
    else { p with a1 := daAdd p.a1 m, a2 := daAdd p.a2 copies, n1 := p.n1 - m, n2 := p.n2 - copies }
  return if q.n1 = 0 then .done 1 q 0 none else .more 1 q (holdWord last)

def execMvs (n : CoreId) (f : FmtS) (s : State) : Res := .next (s.runIns n (shapeLong f) (longBody n f mvsKind (mvsUnit n f)))

/-! ## CLS (R123) -/

def clsKind : LongKind :=
  { opcode := 0x83, need1 := permLoad, acc1 := .load, text1 := fun _ => false, second := 1, freshMask := 0xFF, stateMask := 0xFF,
    first := 5, clearG3 := true }

/-- The index of the first difference of two lists. -/
def firstDiff : List (BitVec 4) → List (BitVec 4) → Nat → Option Nat
  | a :: r, b :: t, i => if a = b then firstDiff r t (i + 1) else some i
  | _, _, _ => none

/-- A unit of CLS: the positions in one word of operand 1, or, once it is exhausted, of operand 2. It reads all its words before it compares, so
that a fault in a later word of operand 2 is taken although an earlier position differs (DESIGN CHOICE, log 48). -/
def clsUnit (n : CoreId) (f : FmtS) (held : Option LongHold) (p : Prog) : M UnitEnd := do
  let pad := bits p.par 0 8
  let m := if p.n1 = 0 then min p.n2 (18 - daPos p.a2) else firstChunk p
  let k1 := min p.n1 m
  let k2 := min p.n2 m
  let x ← if k1 = 0 then pure [] else do
    let rs ← unitRefs n 1 f.p1 .load p.a1 k1
    loadField n rs
  let ws ← unitWords n f.p2 (held.bind (·.word)) p.a2 k2
  let l1 := x ++ padRun pad (daAdd p.a2 k1) (m - k1)
  let l2 := ws.flatMap (·.2) ++ padRun pad (daAdd p.a1 k2) (m - k2)
  let d := (firstDiff l1 l2 0).getD m
  let q : Prog :=
    { p with
      a1 := daAdd p.a1 (min d k1), a2 := daAdd p.a2 (min d k2), n1 := p.n1 - min d k1, n2 := p.n2 - min d k2,
      g3 := p.g3 + BitVec.ofNat 72 d }
  match firstDiff l1 l2 0 with
  | some d =>
    let less := decide ((l1.getD d 0).toNat < (l2.getD d 0).toNat)
    return .done 1 q 0 (some (less, false, false, !less))
  | none =>
    return if q.n1 = 0 ∧ q.n2 = 0 then .done 1 q 0 (some (false, true, false, true)) else .more 1 q (holdWord (ws.getLast?.map (·.1)))

def execCls (n : CoreId) (f : FmtS) (s : State) : Res := .next (s.runIns n (shapeLong f) (longBody n f clsKind (clsUnit n f)))

/-! ## TRX and TSC (R111, R124, R125) -/

/-- The entry of the table for an octet (R111). -/
def lookup (n : CoreId) (f : FmtS) (table : DAddr) (v : BitVec 8) : M (BitVec 8) := do
  let l ← unitRead n f.p2 (daAdd table (2 * v.toNat)) 2
  return (octetsOfPos l).headD 0

def trxKind : LongKind :=
  { opcode := 0x84, need1 := permUpdate, acc1 := .update, text1 := fun _ => true, second := 2, freshMask := 0, stateMask := 0, first := 6 }

def trxUnit (n : CoreId) (f : FmtS) (_ : Option LongHold) (p : Prog) : M UnitEnd := do
  let m := firstChunk p
  let rs ← unitRefs n 1 f.p1 .update p.a1 m
  let l ← loadField n rs
  let r ← mapL (lookup n f p.a2) (octetsOfPos l)
  storeField n 1 rs (posOfOctets r)
  let q : Prog := { p with a1 := daAdd p.a1 m, n1 := p.n1 - m }
  return if q.n1 = 0 then .done (1 + m / 2) q 0 none else .more (1 + m / 2) q (holdWord none)

def execTrx (n : CoreId) (f : FmtS) (s : State) : Res := .next (s.runIns n (shapeLong f) (longBody n f trxKind (trxUnit n f)))

def tscKind : LongKind :=
  { opcode := 0x85, need1 := permLoad, acc1 := .load, text1 := fun _ => true, second := 2, freshMask := 0, stateMask := 0, first := 5 }

/-- The first octet whose table entry is not zero: its index and the entry. -/
def scanTable (n : CoreId) (f : FmtS) (table : DAddr) : List (BitVec 8) → Nat → M (Option (Nat × BitVec 8))
  | [], _ => pure none
  | v :: r, i => do
    let e ← lookup n f table v
    if e != 0 then return some (i, e) else scanTable n f table r (i + 1)

def tscUnit (n : CoreId) (f : FmtS) (_ : Option LongHold) (p : Prog) : M UnitEnd := do
  let m := firstChunk p
  let rs ← unitRefs n 1 f.p1 .load p.a1 m
  let l ← loadField n rs
  match ← scanTable n f p.a2 (octetsOfPos l) 0 with
  | some (i, e) =>
    let a := daAdd p.a1 (2 * i)
    return .done (2 + i) { p with a1 := a, n1 := p.n1 - 2 * i, g3 := daReg a } (e.setWidth 72) (some (false, false, false, true))
  | none =>
    let q : Prog := { p with a1 := daAdd p.a1 m, n1 := p.n1 - m }
    return if q.n1 = 0 then .done (1 + m / 2) { q with g3 := 0 } 0 (some (false, true, false, false)) else .more (1 + m / 2) q (holdWord none)

def execTsc (n : CoreId) (f : FmtS) (s : State) : Res := .next (s.runIns n (shapeLong f) (longBody n f tscKind (tscUnit n f)))

/-! ## SCD (R126) -/

def scdKind : LongKind :=
  { opcode := 0x86, need1 := permLoad, acc1 := .load, text1 := fun _ => true, second := 0, freshMask := 0x3FFFF, stateMask := 0x3FFFF,
    first := 5 }

/-- Whether an octet matches (R126). -/
def scdMatch (par : BitVec 64) (o : BitVec 8) : Bool := (o == bits par 0 8 || o == bits par 8 8) != bit par 16

def scdUnit (n : CoreId) (f : FmtS) (_ : Option LongHold) (p : Prog) : M UnitEnd := do
  let back := bit p.par 17
  let m := if back then lastChunk p else firstChunk p
  let da := if back then daAdd p.a1 (p.n1 - m : Nat) else p.a1
  let rs ← unitRefs n 1 f.p1 .load da m
  let l ← loadField n rs
  let os := octetsOfPos l
  let hit := findIdx (scdMatch p.par) (if back then os.reverse else os) 0
  match hit with
  | some i =>
    if back then
      let left := p.n1 - 2 * i
      return .done 1 { p with n1 := left, g3 := daReg (daAdd p.a1 ((left : Int) - 2)) } 0 (some (false, false, false, true))
    else
      let a := daAdd p.a1 (2 * i)
      return .done 1 { p with a1 := a, n1 := p.n1 - 2 * i, g3 := daReg a } 0 (some (false, false, false, true))
  | none =>
    let q : Prog := { p with a1 := if back then p.a1 else daAdd p.a1 m, n1 := p.n1 - m }
    return if q.n1 = 0 then .done 1 { q with g3 := 0 } 0 (some (false, true, false, false)) else .more 1 q (holdWord none)

def execScd (n : CoreId) (f : FmtS) (s : State) : Res := .next (s.runIns n (shapeLong f) (longBody n f scdKind (scdUnit n f)))

/-! ## VDG (R127) -/

def vdgKind : LongKind :=
  { opcode := 0x87, need1 := permLoad, acc1 := .load, text1 := fun g => bits g 0 2 == 1 || bits g 0 2 == 2, second := 0, freshMask := 3,
    stateMask := 0x103, first := 5, freshOk := fun g n1 => bits g 0 2 == 3 || decide (2 ≤ n1),
    resumeOk := fun p => !bit p.par 8 || !bit p.par 1, clearG3 := true }

/-- The index at which a part of the operand is invalid: positions for formats 0 and 3, the octet's first position for 1 and 2.
`last` says that the part ends the operand. -/
def vdgBad (fmt : BitVec 2) (last : Bool) (l : List (BitVec 4)) : Option Nat :=
  match fmt.toNat with
  | 0 => if last then firstBad l 0 else findIdx (fun x => !isDigit x) l 0
  | 1 =>
    let zonesOk (o : BitVec 8) (final : Bool) : Bool :=
      let z := bits o 4 4
      isDigit (bits o 0 4) && (if final then isSign z || z == 3 else z == 3 || z == 0xF)
    let os := octetsOfPos l
    (findIdx (fun x : BitVec 8 × Bool => !zonesOk x.1 x.2)
      (os.zip (List.replicate (os.length - 1) false ++ [last])) 0).map (2 * ·)
  | 2 => (findIdx (fun o => (textDigit o).isNone) (octetsOfPos l) 0).map (2 * ·)
  | _ => findIdx (fun x => !isDigit x) l 0

/-- The digits of a valid part. -/
def vdgDigits (fmt : BitVec 2) (last : Bool) (l : List (BitVec 4)) : List (BitVec 4) :=
  if fmt = 0 then (if last then l.dropLast else l) else if fmt = 1 then zonedDigits l else []

/-- The sign nibble of a valid last part. -/
def vdgSign (fmt : BitVec 2) (l : List (BitVec 4)) : BitVec 4 :=
  if fmt = 0 then l.getLastD 0 else if fmt = 1 then (l.drop (l.length - 2)).headD 0 else 0xC

def vdgUnit (n : CoreId) (f : FmtS) (_ : Option LongHold) (p : Prog) : M UnitEnd := do
  let fmt := bits p.par 0 2
  let m := firstChunk p
  let last := m == p.n1
  let rs ← unitRefs n 1 f.p1 .load p.a1 m
  let l ← loadField n rs
  match vdgBad fmt last l with
  | some i =>
    return .done 1 { p with a1 := daAdd p.a1 i, n1 := p.n1 - i, g3 := p.g3 + BitVec.ofNat 72 (i + 1) } 0 (some (false, false, true, false))
  | none =>
    let nz := bit p.par 8 || (vdgDigits fmt last l).any (· != 0)
    let q : Prog :=
      { p with
        a1 := daAdd p.a1 m, n1 := p.n1 - m, g3 := p.g3 + BitVec.ofNat 72 m, par := setBit p.par 8 nz }
    if last then return .done 1 { q with g3 := 0 } 0 (some (isMinus (vdgSign fmt l) && nz, true, false, false))
    else return .more 1 q (holdWord none)

def execVdg (n : CoreId) (f : FmtS) (s : State) : Res := .next (s.runIns n (shapeLong f) (longBody n f vdgKind (vdgUnit n f)))

/-! ## EDIT and EDMK (R128-R135) -/

/-- The state of EDIT (R133) within a unit, with the digits of the open field that have been read. -/
structure EditSt where
  fill : BitVec 8
  drem : Nat
  fld : Bool
  neg : Bool
  sig : Bool
  zf : Bool
  a2 : DAddr
  n2 : Nat
  digits : List (BitVec 4)
  mark : Word
  /-- The last word of operand 2 that has been read, and the fields opened in this unit (R136). -/
  word : Option (WAddr × Word)
  opened : Nat
  deriving DecidableEq, Repr

def editOf (p : Prog) (digits : List (BitVec 4)) (word : Option (WAddr × Word)) : EditSt :=
  { fill := bits p.par 0 8, drem := (bits p.par 8 6).toNat, fld := bit p.par 14, neg := bit p.par 15, sig := bit p.par 16,
    zf := bit p.par 17, a2 := p.a2, n2 := p.n2, digits := digits, mark := p.g3, word := word, opened := 0 }

/-- The state in G2 (R133). -/
def EditSt.par (e : EditSt) : BitVec 64 :=
  (flagAt e.zf 17 ||| flagAt e.sig 16 ||| flagAt e.neg 15 ||| flagAt e.fld 14 ||| at' (BitVec.ofNat 6 e.drem) 8 ||| at' e.fill 0).setWidth 64

def isDigitPlace (o : BitVec 8) : Bool := o == 0x18 || o == 0x19
def opensField (o : BitVec 8) : Bool := o == 0x18 || o == 0x19 || o == 0x1B || o == 0x1C

/-- One word of the source, read where R130 and R134 say even when it is held; a held one is charged no second access (R136). -/
def readAgain (n : CoreId) (pr : PassId) (da : DAddr) (held : Option (WAddr × Word)) (w : WAddr × BitVec 18) : M Word := do
  if held.any fun h => h.1 == w.1 then do
    let before ← getCore n
    let x ← readOp2 n pr da none w
    modCore n fun c => { c with detPend := before.detPend, detVar := before.detVar }
    return x
  else readOp2 n pr da none w

/-- The source digits and sign of an open field, read and checked word by word (R114, R130, R134): `l` are the nibbles read, of `k` digits and the
sign. -/
def readSource (n : CoreId) (f : FmtS) (a2 : DAddr) (k : Nat) :
    List (WAddr × BitVec 18) → Option (WAddr × Word) → List (BitVec 4) → M (List (BitVec 4) × Option (WAddr × Word))
  | [], held, l => pure (l, held)
  | w :: ws, held, l => do
    let x ← readAgain n f.p2 a2 held w
    let l := l ++ maskedPos w.2 x
    match (if k < l.length then firstBad l 0 else findIdx (fun d => !isDigit d) l 0) with
    | some i => raise (decMemFault 2 a2 i)
    | none => readSource n f a2 k ws (some (w.1, x)) l

/-- The digit places from a point of the pattern up to the next BK or its end, reading ahead word by word (R130): `here` are the octets
of the current word that follow, `da` and `left` what of the pattern lies beyond it. Fuel: words. -/
def countPlaces (n : CoreId) (f : FmtS) : Nat → List (BitVec 8) → DAddr → Nat → Nat → M Nat
  | 0, here, _, _, k => return k + (here.filter isDigitPlace).length
  | fuel + 1, here, da, left, k =>
    match findIdx (· == 0x1A) here 0 with
    | some i => return k + ((here.take i).filter isDigitPlace).length
    | none => do
      let k := k + (here.filter isDigitPlace).length
      if left = 0 then return k
      else
        let m := min left (18 - daPos da)
        let rs ← unitRefs n 1 f.p1 .load da m
        let l ← loadField n rs
        countPlaces n f fuel (octetsOfPos l) (daAdd da m) (left - m) k

/-- A field opens (R130). -/
def openField (n : CoreId) (f : FmtS) (e : EditSt) (k : Nat) : M EditSt := do
  if k = 0 then return { e with neg := false, zf := true, fld := true, drem := 0, digits := [], opened := e.opened + 1 }
  else
    require (decide (k + 1 ≤ e.n2)) stringOperand
    let (l, w) ← readSource n f e.a2 k (fieldWords (k + 1) e.a2 (k + 1)) e.word []
    let zero := l.dropLast.all (· == 0)
    return {
      e with
      neg := isMinus (l.getLastD 0) && !zero, zf := zero, fld := true, drem := k, digits := l.dropLast, word := w, opened := e.opened + 1 }

/-- One source digit taken at the octet at `at_` (R131, R132). -/
def takeDigit (e : EditSt) (keep mark : Bool) (at_ : DAddr) : EditSt × BitVec 8 :=
  let d := e.digits.headD 0
  let shown := e.sig || d != 0
  let out : BitVec 8 := if shown then (3 : BitVec 4) ++ d else e.fill
  let m := if mark && !e.sig && d != 0 then daReg at_ else e.mark
  let e := { e with digits := e.digits.drop 1, drem := e.drem - 1, a2 := daAdd e.a2 1, n2 := e.n2 - 1, sig := shown || keep, mark := m }
  (if e.drem = 0 then { e with sig := e.neg, a2 := daAdd e.a2 1, n2 := e.n2 - 1 } else e, out)

/-- One pattern octet (R129-R131); the field has been opened where it opens one. -/
def editOctet (e : EditSt) (mark : Bool) (o : BitVec 8) (at_ : DAddr) : M (EditSt × BitVec 8) :=
  match o.toNat with
  | 0x18 => if e.drem = 0 then raise stringOperand else pure (takeDigit e false mark at_)
  | 0x19 => if e.drem = 0 then raise stringOperand else pure (takeDigit e true mark at_)
  | 0x1A => pure ({ e with sig := false, fld := false }, e.fill)
  | 0x1B => pure (e, if e.neg then 0x2D else e.fill)
  | 0x1C => pure (e, if e.neg then 0x2D else 0x2B)
  | _ => pure (e, if e.sig then o else e.fill)

/-- The octets of a unit in order. -/
def editRun (n : CoreId) (f : FmtS) (mark : Bool) (next : DAddr) (left : Nat) :
    List (BitVec 8) → DAddr → EditSt → List (BitVec 8) → M (EditSt × List (BitVec 8))
  | [], _, e, out => pure (e, out)
  | o :: r, da, e, out => do
    let e ← if opensField o && !e.fld then do
        let k ← countPlaces n f 5 (o :: r) next left 0
        openField n f e k
      else pure e
    let (e, x) ← editOctet e mark o da
    editRun n f mark next left r (daAdd da 2) e (out ++ [x])

def editKind (op : BitVec 8) : LongKind :=
  { opcode := op, need1 := permUpdate, acc1 := .update, text1 := fun _ => true, second := 1, freshMask := 0xFF, stateMask := 0x3FFFF,
    first := 7, freshPar := fun g _ _ _ _ => g ||| 0x20000,
    resumeOk := fun p =>
      let d := (bits p.par 8 6).toNat
      decide (d ≤ 32) && (d == 0 || bit p.par 14) && (d == 0 || decide (d + 1 ≤ p.n2)) }

/-- A unit of EDIT or EDMK. A resume reads the digits of an open field again (R134); a unit that follows the one before holds them. -/
def editUnit (n : CoreId) (f : FmtS) (mark : Bool) (held : Option LongHold) (p : Prog) : M UnitEnd := do
  let m := firstChunk p
  let rs ← unitRefs n 1 f.p1 .update p.a1 m
  let l ← loadField n rs
  let e0 := editOf p [] none
  let e ← match held with
    | some h => pure { e0 with digits := h.digits, word := h.word }
    | none =>
      if e0.fld && e0.drem != 0 then do
        let (ds, w) ← readSource n f p.a2 e0.drem (fieldWords (e0.drem + 1) p.a2 (e0.drem + 1)) none []
        pure { e0 with digits := ds.dropLast, word := w }
      else pure e0
  let (e, out) ← editRun n f mark (daAdd p.a1 m) (p.n1 - m) (octetsOfPos l) p.a1 e []
  storeField n 1 rs (posOfOctets out)
  let steps := 1 + m / 2 + 2 * e.opened
  let q : Prog := { par := e.par, g3 := e.mark, a1 := daAdd p.a1 m, a2 := e.a2, n1 := p.n1 - m, n2 := e.n2 }
  return if q.n1 = 0 then .done steps q 0 (some (e.neg, e.zf, false, false)) else .more steps q { digits := e.digits, word := e.word }

def execEdit (n : CoreId) (f : FmtS) (s : State) : Res :=
  .next (s.runIns n (shapeLong f) (longBody n f (editKind 0x80) (editUnit n f false)))

def execEdmk (n : CoreId) (f : FmtS) (s : State) : Res :=
  .next (s.runIns n (shapeLong f) (longBody n f (editKind 0x81) (editUnit n f true)))

end Sys2Proof.Machine
end

