-- ==== Sys2Proof/Machine/Ccw.lean ====
section
/-! DEFINITION. The channel command words (R398-R408), reject entries (R411, R412) and the events that end an engine's waits. -/

namespace Sys2Proof.Machine

/-! ## The checks before a CCW's accesses (R399, R400) -/

/-- A channel check (R400). -/
def chCheck (code : BitVec 8) : FaultInfo := { cls := 0, code := code }

/-- A word whose nonzero bits all lie in the given fields (first bit, length). -/
def onlyBits (w : Word) (l : List (Nat × Nat)) : Bool :=
  w &&& ~~~(l.foldl (fun (m : Word) x => m ||| BitVec.ofNat 72 ((2 ^ x.2 - 1) * 2 ^ x.1)) 0) == 0

/-- CONVERT's fields (R403). -/
def cvtMode (w : Word) : Nat := (bits w 46 2).toNat
def cvtLen1 (w : Word) : Nat := (bits w 31 6).toNat + 1
def cvtLen2 (w : Word) : Nat := (bits w 25 6).toNat + 1

/-- VALIDATE's fields (R399, R404). -/
def valLen (w : Word) : Nat := (bits w 3 6).toNat + 1
def valFmt (w : Word) : BitVec 3 := bits w 0 3

/-- N of a MOVE (R401). -/
def moveCount (p : ChProg) (w : Word) : Nat := if bits w 0 48 = 0 then (bits (p.reg (ccwRC w)) 0 32).toNat else (bits w 0 32).toNat

/-- n of a GATHER or SCATTER (R402). -/
def listCount (w : Word) : Nat := (bits w 0 8).toNat + 1

/-- Whether a CCW names only fields that its command has, with values in their ranges (R399, R403-R408). -/
def ccwFieldsOk (w : Word) : Bool :=
  match (ccwCmd w).toNat with
  | 0 => onlyBits w [(68, 4), (0, 16)]
  | 1 => onlyBits w [(60, 12), (56, 4), (48, 8), (0, 32)] && (bits w 0 48 == 0 || ccwRC w == 0)
  | 2 | 3 => onlyBits w [(60, 12), (48, 8), (0, 8)]
  | 4 =>
    let m := cvtMode w
    onlyBits w [(60, 12), (48, 8), (22, 26)] && (if m = 0 then bits w 43 3 != 7 else bits w 43 3 == 0)
      && (m < 2 || bits w 37 6 == 0) && (m == 0 || m == 2 || !bit w 22)
  | 5 =>
    let f := (valFmt w).toNat
    decide (f < 6) && onlyBits w ([(68, 4), (64, 4), (53, 3), (49, 1), (0, 9)] ++ if f = 5 then [(60, 4), (56, 4)] else [])
  | 6 => onlyBits w [(68, 4), (64, 4), (56, 4), (53, 3), (28, 20), (0, 2)]
  | 7 => onlyBits w [(60, 12), (56, 4), (50, 6), (0, 1)]
  | 8 => onlyBits w [(68, 4), (18, 30)] && bits w 30 16 != 0
  | 9 => onlyBits w [(68, 4), (44, 4), (0, 24)]
  | 10 => onlyBits w [(68, 4), (56, 4), (0, 24)]
  | _ =>
    let raised := bit w 47
    let cred := bit w 46
    onlyBits w ([(68, 4), (46, 2)] ++ (if cred then [(39, 7), (0, 16)] else []) ++ if raised then [(0, 3)] else [])
      && (!raised || decide (3 ≤ (bits w 0 3).toNat)) && (!cred || decide ((bits w 41 5).toNat < 24))

/-- The addresses of a CCW's operands A and B, where they have one. -/
def ccwAddrs (p : ChProg) (w : Word) : List Word :=
  match (ccwCmd w).toNat with
  | 1 | 2 | 3 | 4 => [p.reg (ccwRA w), p.reg (ccwRB w)]
  | 5 | 6 => [p.reg (ccwRA w)]
  | 7 => [p.reg (ccwRA w), p.reg (ccwRB w), p.reg (ccwRC w)]
  | _ => []

/-- Operands A and B as digit addresses. -/
def ccwA (p : ChProg) (w : Word) : DAddr := bits (p.reg (ccwRA w)) 0 57
def ccwB (p : ChProg) (w : Word) : DAddr := bits (p.reg (ccwRB w)) 0 57
def ccwC (p : ChProg) (w : Word) : DAddr := bits (p.reg (ccwRC w)) 0 57

/-- A text operand at an even position and of even length (R110). -/
def textOk (da : DAddr) (len : Nat) : Bool := daPos da % 2 == 0 && len % 2 == 0

/-- The length rules of a CCW (R76, R100-R105, R110, R127). -/
def ccwLengthOk (p : ChProg) (w : Word) : Bool :=
  match (ccwCmd w).toNat with
  | 4 =>
    if cvtMode w % 2 = 0 then decide (2 ≤ cvtLen1 w) && textOk (ccwB p w) (cvtLen2 w)
    else decide (2 ≤ cvtLen2 w) && textOk (ccwA p w) (cvtLen1 w)
  | 5 =>
    match (valFmt w).toNat with
    | 0 | 5 => decide (2 ≤ valLen w)
    | 1 | 2 | 4 => textOk (ccwA p w) (valLen w)
    | _ => true
  | _ => true

/-- The lengths by which a completed CCW's operands advance (R399). -/
def ccwLens (p : ChProg) (w : Word) : Nat × Nat :=
  match (ccwCmd w).toNat with
  | 1 => (moveCount p w, moveCount p w)
  | 2 => (p.done.toNat, 18 * listCount w)
  | 3 => (18 * listCount w, p.done.toNat)
  | 4 => (cvtLen1 w, cvtLen2 w)
  | 5 => (valLen w, 0)
  | _ => (0, 0)

/-- Whether the advances of a CCW stay in the address space (R400, ADV-RANGE). -/
def advancesOk (p : ChProg) (w : Word) : Bool :=
  let (a, b) := ccwLens p w
  (!bit w 49 || !(advance (ccwA p w) a).2) && (!bit w 48 || !(advance (ccwB p w) b).2)

/-- The target of a BRANCH or LOOP (R408). -/
def ccwTarget (p : ChProg) (w : Word) : Int := (p.cpc.toNat : Int) + (bits w 0 24).toInt

/-- The checks of a CCW in the order of their codes, the addresses of R19 and R20 after the fields (R399, R400). -/
def ccwChecks (p : ChProg) (w : Word) : M Unit := do
  require (ccwFieldsOk w) (chCheck 2)
  eachL (fun v => do
    let _ ← regAddr v
    return ()) (ccwAddrs p w)
  require (ccwLengthOk p w) (chCheck 3)
  let c := (ccwCmd w).toNat
  require (!(c == 9 || c == 10) || (decide (0 ≤ ccwTarget p w) && decide (ccwTarget p w < 2 ^ 52))) (chCheck 4)
  require (advancesOk p w) (chCheck 6)
  if c = 5 && valFmt w == 5 then
    require ((firstBad (posList (p.reg (ccwRB w))) 0).isNone && (firstBad (posList (p.reg (ccwRC w))) 0).isNone) (chCheck 7)

/-! ## Completing a CCW -/

/-- The program after a CCW has completed with a condition code: the advances, and CPC at `next`. -/
def ChProg.completed (p : ChProg) (w : Word) (cc : BitVec 2) (next : WAddr) : ChProg :=
  let (a, b) := ccwLens p w
  let q := if bit w 49 then p.setReg (ccwRA w) (daReg (daAdd (ccwA p w) a)) else p
  let q := if bit w 48 then q.setReg (ccwRB w) (daReg (daAdd (ccwB q w) b)) else q
  { q with
    cc := cc, cpc := next, done := 0, elem := 0, waitns := 0, ccw := none, inElem := none, waitFrom := none, exportTo := none, reject := none,
    waitPost := none, ending := none }

/-- A CCW completes: CH_CCW_COUNT, and nothing that came for it stays. -/
def State.chDone (s : State) (e : EngId) (p : ChProg) (w : Word) (cc : BitVec 2) (next : WAddr) : State :=
  s.updEng e fun x => { x with running := some (p.completed w cc next), ccwCnt := inc x.ccwCnt, arrived := [] }

/-- A CCW completes and the next one follows. -/
def nextCcw (e : EngId) (p : ChProg) (w : Word) (cc : BitVec 2) : M Unit := upd fun s => s.chDone e p w cc (p.cpc + 1)

/-- A store of the CCW that has failed (R410) puts the program in FAULTED with class 25, and DONE 0. -/
def lateCheck (e : EngId) (p : ChProg) (w : Word) : M Unit := do
  let s ← get
  match s.engines[e].failed with
  | some a => do
    upd fun s => (s.updEng e fun x => { x with arrived := [] }).setProg e
      (some { p with done := 0, elem := 0, inElem := none, reject := none, ending := none })
    raise { cls := clsLateStore, code := a.status - 0x10, fphys := a.pa, preg := (ccwSA w).setWidth 4 }
  | none => pure ()

/-- A CCW that has made its stores completes once they are complete (R410): those at other modules when they are answered, those to the host
window after a PCIe read, before which an error is reported (log 45). -/
def endCcw (e : EngId) (p : ChProg) (w : Word) (cc : BitVec 2) : M Unit := do
  require (advancesOk p w) (chCheck 6)
  lateCheck e p w
  let s ← get
  if s.engStoresOut e || !s.engines[e].windows.isEmpty then
    upd fun s => (s.engReadBack e).setProg e (some { p with ending := some cc })
  else nextCcw e p w cc

/-! ## Running a CCW -/

/-- The CCW at CPC, fetched under CP0 (R398). -/
def ccwFetch (e : EngId) (p : ChProg) : M Word := do
  let rs ← engRefs e p 0 permLoad .post (daOf p.cpc 0) 18
  let ws ← atSlot 0 (mapL (engLoad e) rs)
  return ws.getD 0 0

/-- Whether a running program can go on: nothing that it waits for is missing, and it has not come to a point at which it gives way (R395,
R396). A store that has failed is met first. -/
def State.canRun (s : State) (e : EngId) (p : ChProg) : Bool :=
  let x := s.engines[e]
  !x.fenced && x.wait.isNone && p.reject.isNone && p.waitPost.isNone && (x.failed.isSome || !(x.givesWay p && s.atPoint p))

/-- What follows a unit of a CCW on an engine that found `s`: a halt that was asked for takes place, a fault waits for the outstanding
POSTs (R395, R409). -/
def State.afterUnit (s : State) (e : EngId) (p : ChProg) : EStateM.Result Stop State Unit → State
  | .ok _ t => t.haltPoint e
  | .error .wait t => t
  | .error (.fault f) t =>
    if s.engines[e].posts.isEmpty then t.chFault e ((t.engines[e].running).getD p) f else s

/-- One unit of the CCW at CPC, when it is of command k. A CCW whose fetch fails or whose CMD is none of R399 faults whichever command
was given; one of another command is left as it is (log 13). -/
def State.runCcw (s : State) (e : EngId) (k : Nat) (body : ChProg → Word → M Unit) : State :=
  match s.engines[e].running with
  | none => s
  | some p =>
    if !s.canRun e p then s.haltPoint e
    else
      match p.ccw with
      | some w =>
        if (ccwCmd w).toNat = k then
          s.afterUnit e p ((do
            lateCheck e p w
            body p w) s)
        else s
      | none =>
        match ccwFetch e p s with
        | .error x t => s.afterUnit e p (.error x t)
        | .ok w t =>
          if 0xC ≤ (ccwCmd w).toNat then s.afterUnit e p (.error (.fault (chCheck 1)) t)
          else if (ccwCmd w).toNat ≠ k then s
          else
            let p := { p with ccw := some w }
            s.afterUnit e p ((do
              ccwChecks p w
              upd fun s => s.setProg e (some p)
              body p w) t)

/-! ## Rejects (R411, R412) -/

/-- The entry number of a reject ring's control pair. -/
def ringCtl (p : ChProg) (k : Nat) : DAddr := daOf (bits p.w7 0 52 + BitVec.ofNat 52 k) 0

/-- The record copy of a reject entry, or none when an access of it fails. -/
def rejectCopy (e : EngId) (p : ChProg) : M (Option (List (BitVec 4))) := fun s =>
  match (do
    let da ← regAddr (p.reg (bits p.w0 60 4))
    engField e p 1 da 72 : M (List (BitVec 4))) s with
  | .ok l t => .ok (some l) t
  | .error (.fault _) t => .ok none t
  | .error .wait t => .error .wait t

/-- Words that an engine loaded and has kept are read again (R411). -/
def State.forget (s : State) (e : EngId) : State := s.updEng e fun x => { x with arrived := x.arrived.filter fun a => decide (0x10 ≤ a.status.toNat) }

/-- Steps 1 to 3 of R411: the words stored, or none while the ring is full. -/
def writeReject (e : EngId) (p : ChProg) (r : ChReject) : M (Option (List WAddr)) := do
  let log := (bits p.w6 68 4).toNat
  if log = 0 then return some []
  else
    let cons ← engWord e p 1 (ringCtl p 1)
    let prod ← engWord e p 1 (ringCtl p 0)
    let used := bits prod 0 64 - bits cons 0 64
    if decide (2 ^ log ≤ used.toNat) then
      upd fun s => s.forget e
      return none
    else
      let copy ← rejectCopy e p
      let base := bits p.w6 0 52 + BitVec.ofNat 52 (8 * ((bits prod 0 64).toNat % 2 ^ log))
      let entry ← engRefs e p 1 permStore .store (daOf base 0) 144
      let ctl ← engRefs e p 1 permStore .store (ringCtl p 0) 18
      let s ← get
      let e0 := at' r.reason 64 ||| at' r.cmd 60 ||| at' (BitVec.ofNat 5 e.val) 55 ||| flagAt copy.isNone 54 ||| at' r.cpc 0
      let ws : List Word := [e0, at' r.detail 64 ||| daReg r.addr, r.recno, at' s.now 8]
      engWrite e 1 entry (ws.flatMap posList ++ copy.getD (List.replicate 72 0))
      engWrite e 1 ctl (posList (at' (bits prod 0 64 + 1) 0))
      upd fun s => s.forget e
      return some ((entry ++ ctl).map (·.pa))

/-- The stores of a reject entry once all are made (R412): whether they are complete; one that has failed is a fault of the CCW. -/
def rejectStored (e : EngId) (pas : List WAddr) : M Bool := do
  let s ← get
  let x := s.engines[e]
  match x.arrived.find? fun a => decide (0x10 ≤ a.status.toNat) && pas.contains a.pa with
  | some a => raise { cls := clsLateStore, code := a.status - 0x10, fphys := a.pa, preg := 1 }
  | none =>
    let out := s.lb.series.any fun y => y.waiting.any fun w => match w.2.1 with
      | .engineStore f pa => f == e && pas.contains pa
      | _ => false
    if out then return false
    else
      let window := pas.any fun pa => regionOf pa == .window && x.windows.contains (apertureOf pa)
      upd fun s => s.engReadBack e
      return !window

/-- The condition code that goes with a reject of CONVERT (R403). -/
def cvtCc (reason : BitVec 8) : BitVec 2 := if reason = 3 then 2 else if reason = 4 then 1 else 3

/-- The condition code of a completion word by its class (R405): 0 A, 1 R, 2 T or U, 3 N. -/
def postCc (status : BitVec 8) : BitVec 2 :=
  let n := status.toNat
  if n < 0x10 then 0 else if n < 0x30 then 1 else if n < 0x40 then 2 else if n < 0x60 then 3 else 2

/-- Step 4 of R411, and what the reject ends: the CCW of a CONVERT or VALIDATE, the report of a POST. -/
def rejected (e : EngId) (p : ChProg) (r : ChReject) : M Unit := do
  upd fun s => (s.updEng e fun x =>
    { x with
      rejCvt := if r.cmd = 4 then inc x.rejCvt else x.rejCvt
      rejVal := if r.cmd = 5 then inc x.rejVal else x.rejVal
      rejPost := if r.cmd = 6 then inc x.rejPost else x.rejPost }).chEvent e 3
  let p := { p with reject := none }
  match r.ticket, p.ccw with
  | some t, w => do
    let s ← get
    let res := (s.engines[e].posts.find? fun q => q.ticket == t).bind fun q => q.result
    upd fun s => s.updEng e fun x => { x with posts := x.posts.filter fun q => q.ticket != t }
    match w with
    | some w => if p.waitPost == some t then nextCcw e p w (postCc (bits (res.getD 0) 64 8)) else upd fun s => s.setProg e (some p)
    | none => upd fun s => s.setProg e (some p)
  | none, some w => endCcw e p w (if r.cmd = 4 then cvtCc r.reason else 3)
  | none, none => upd fun s => s.setProg e (some p)

/-- A reject entry written, or awaited while the ring is full; REJFULL is set when the wait begins (R411). An entry whose stores are not yet
complete is awaited too. -/
def tryReject (e : EngId) (p : ChProg) (r : ChReject) : M Unit := do
  upd fun s => s.setProg e (some { p with reject := some r })
  let stored ← match r.written with
    | some l => pure (some l)
    | none => writeReject e p r
  match stored with
  | some l => do
    upd fun s => s.setProg e (some { p with reject := some { r with written := some l } })
    if ← rejectStored e l then rejected e p r else pure ()
  | none =>
    upd fun s => if r.full then s else (s.setProg e (some { p with reject := some { r with full := true } })).chEvent e 4

/-- Whether the program still owes something for a POST that is complete (R148, R405): a reject entry, or a fault for a completion word that H2
refused. -/
def EngPost.owes (q : EngPost) : Bool := !q.stored || (q.rej && decide (0x10 ≤ (bits (q.result.getD 0) 64 8).toNat))

/-- What follows an attempt to write a reject entry on an engine that found `s`. A fault is one of the CCW that the entry reports (R412), once
every outstanding POST has its completion: of the earliest BUILD-POST whose reject entry or completion word is still to be written, or of the
CONVERT or VALIDATE in progress. -/
def State.afterReject (s : State) (e : EngId) (p : ChProg) (x : EStateM.Result Stop State Unit) : State :=
  match x with
  | .error (.fault f) t =>
    let posts := t.engines[e].posts
    if posts.all fun q => q.result.isSome then
      let t := t.updEng e fun x => { x with posts := [], arrived := [] }
      t.chFault e (((posts.find? EngPost.owes).map fun q => { p with cpc := q.cpc, done := 0, elem := 0, waitns := 0, waitFrom := none }).getD p) f
    else s
  | x => s.afterUnit e p x

/-- REJECT_RING_RETRY (R411): CONS is read again. -/
def execRejectRingRetry (e : EngId) (s : State) : Host.Outcome State Fault Refusal :=
  .next (match s.engines[e].running with
  | none => s
  | some p =>
    match p.reject with
    | none => s
    | some r =>
      if s.engines[e].wait.isSome || s.engines[e].fenced then s
      else if p.halt && s.canLeave e p then s.haltPoint e
      else s.afterReject e p (tryReject e p r s))

/-- The record number for a reject entry. -/
def ChProg.recno (p : ChProg) : Word := p.reg (bits p.w0 56 4)

/-! ## MOVE, GATHER and SCATTER (R401, R402) -/

/-- A unit done: the positions transferred, the element, and one more word written. -/
def unitDone (e : EngId) (p : ChProg) (n elem : Nat) (inElem : Option ListElem) : M ChProg := do
  let q := { p with done := p.done + BitVec.ofNat 32 n, elem := BitVec.ofNat 8 elem, inElem := inElem }
  upd fun s => ((s.setProg e (some q)).forget e).updEng e fun x => { x with wordCnt := inc x.wordCnt }
  return q

/-- MOVE (R401): one destination word. -/
def moveUnit (e : EngId) (p : ChProg) (w : Word) : M Unit := do
  let n := moveCount p w
  let d := p.done.toNat
  match p.ending with
  | some cc => endCcw e p w cc
  | none =>
    if n ≤ d then endCcw e p w p.cc
    else
      let da := daAdd (ccwA p w) d
      let m := min (18 - daPos da) (n - d)
      let dst ← engRefs e p (ccwSA w) permStore .store da m
      let l ← engField e p (ccwSB w) (daAdd (ccwB p w) d) m
      engWrite e (ccwSA w) dst l
      let q ← unitDone e p m 0 none
      if n ≤ d + m then endCcw e q w q.cc else pure ()

/-- A descriptor's element length (R402). -/
def descLen (v : Word) : Nat := (bits v 66 6).toNat + 1

/-- One descriptor of a list (R402): the element's length and address. -/
def descriptor (e : EngId) (p : ChProg) (k : BitVec 3) (list : DAddr) (i : Nat) : M (Nat × DAddr) := do
  let v ← engWord e p k (daAdd list (18 * i))
  require (bits v 57 9 == 0) (chCheck 2)
  let da ← atSlot k (regAddr (bits v 0 57 |>.setWidth 72))
  return (descLen v, da)

/-- The element in hand of a list. A program that was put aside in the middle of the command goes on from DONE and ELEM (R409): the lengths of the
elements before ELEM, read again but not tested, say how much of element ELEM is done (log 13). -/
def elemInHand (e : EngId) (p : ChProg) (k : BitVec 3) (list : DAddr) : M ListElem := do
  match p.inElem with
  | some x => return x
  | none =>
    if p.done = 0 then return { off := 0, desc := none }
    else
      let ls ← mapL (fun i => do
        let v ← engWord e p k (daAdd list (18 * i))
        return descLen v) (List.range p.elem.toNat)
      return { off := p.done.toNat - ls.sum, desc := none }

/-- The length and the address of the element in hand, its descriptor read when it is reached. -/
def ListElem.reach (e : EngId) (p : ChProg) (k : BitVec 3) (list : DAddr) (i : Nat) (x : ListElem) : M (Nat × DAddr) :=
  match x.desc with
  | some d => return d
  | none => descriptor e p k list i

/-- What follows t more positions of element i: the element that holds the next position, and it in hand. -/
def ListElem.after (i len : Nat) (da : DAddr) (x : ListElem) (t : Nat) : Nat × ListElem :=
  if len ≤ x.off + t then (i + 1, { off := 0, desc := none }) else (i, { off := x.off + t, desc := some (len, da) })

/-- Up to m positions gathered from element i on: the positions, and the element that holds the next. -/
def gatherFrom (e : EngId) (p : ChProg) (k : BitVec 3) (list : DAddr) (n : Nat) :
    Nat → Nat → Nat → ListElem → M (List (BitVec 4) × Nat × ListElem)
  | 0, _, i, x => return ([], i, x)
  | f + 1, m, i, x => do
    if m = 0 ∨ n ≤ i then return ([], i, x)
    else
      let (len, da) ← x.reach e p k list i
      let t := min m (len - x.off)
      let l ← engField e p k (daAdd da x.off) t
      let (j, y) := x.after i len da t
      let (r, k') ← gatherFrom e p k list n f (m - t) j y
      return (l ++ r, k')

/-- GATHER (R402): one word of the destination. -/
def gatherUnit (e : EngId) (p : ChProg) (w : Word) : M Unit := do
  match p.ending with
  | some cc => endCcw e p w cc
  | none =>
    let n := listCount w
    let list := ccwB p w
    let k := ccwSB w
    let x ← elemInHand e p k list
    let da := daAdd (ccwA p w) p.done.toNat
    let room := 18 - daPos da
    let (l, j, y) ← gatherFrom e p k list n (room + 2) room p.elem.toNat x
    let dst ← engRefs e p (ccwSA w) permStore .store da l.length
    engWrite e (ccwSA w) dst l
    let q ← unitDone e p l.length j (some y)
    if n ≤ j then endCcw e q w q.cc else pure ()

/-- SCATTER (R402): one word of an element. -/
def scatterUnit (e : EngId) (p : ChProg) (w : Word) : M Unit := do
  match p.ending with
  | some cc => endCcw e p w cc
  | none =>
    let n := listCount w
    let i := p.elem.toNat
    if n ≤ i then return (← endCcw e p w p.cc)
    let x ← elemInHand e p (ccwSA w) (ccwA p w)
    let (len, base) ← x.reach e p (ccwSA w) (ccwA p w) i
    let da := daAdd base x.off
    let m := min (18 - daPos da) (len - x.off)
    let dst ← engRefs e p (ccwSA w) permStore .store da m
    let l ← engField e p (ccwSB w) (daAdd (ccwB p w) p.done.toNat) m
    engWrite e (ccwSA w) dst l
    let (j, y) := x.after i len base m
    let q ← unitDone e p m j (some y)
    if n ≤ j then endCcw e q w q.cc else pure ()

def execMove (e : EngId) (s : State) : Host.Outcome State Fault Refusal := .next (s.runCcw e 1 (moveUnit e))
def execGather (e : EngId) (s : State) : Host.Outcome State Fault Refusal := .next (s.runCcw e 2 (gatherUnit e))
def execScatter (e : EngId) (s : State) : Host.Outcome State Fault Refusal := .next (s.runCcw e 3 (scatterUnit e))

/-! ## CONVERT (R403) -/

/-- What a conversion gives: the destination's positions, unless the source is refused, and the reject that it makes. -/
structure Converted where
  out : Option (List (BitVec 4))
  cc : BitVec 2
  reason : BitVec 8
  detail : BitVec 8

/-- A conversion that wrote a fitted value. -/
def convertedTo (out : List (BitVec 4)) (exceeds inexact : Bool) : Converted :=
  if exceeds then { out := some out, cc := 2, reason := 3, detail := 0 }
  else if inexact then { out := some out, cc := 1, reason := 4, detail := 0 }
  else { out := some out, cc := 0, reason := 0, detail := 0 }

/-- A source that is refused at an index. -/
def convertRefused (reason : BitVec 8) (i : Nat) : Converted := { out := none, cc := 3, reason := reason, detail := BitVec.ofNat 8 (i + 1) }

/-- The packed field of a converted value, negated when NEG is 1; `signed` says that the input carried a sign. -/
def cvtPacked (d : Nat) (neg signed flip : Bool) (mag : Nat) : List (BitVec 4) × Bool :=
  let r := fitDec d (if signed then neg != flip else flip) mag
  let sign : BitVec 4 := if r.mag = 0 then (if signed then 0xC else 0xF) else if !signed && !flip then 0xF else r.sign
  (packedField d r.mag sign, r.exceeds)

/-- What CONVERT makes of the source's positions. -/
def convert (w : Word) (l : List (BitVec 4)) : Converted :=
  let flip := bit w 22
  let sc := (bits w 37 6).toNat
  match cvtMode w with
  | 0 =>
    match parseText (octetsOfPos l) 0 .lead { sign := none, whole := [], frac := [] } with
    | .error i => convertRefused 1 i
    | .ok t =>
      let neg := t.sign == some true
      let (num, den) := scaled (natOfDigits (t.whole ++ t.frac)) ((t.frac.length : Int) - sc)
      let (m, x) := roundQ (bits w 43 3) neg num den
      let (o, v) := cvtPacked (cvtLen1 w - 1) neg t.sign.isSome flip m
      convertedTo o v x
  | 1 =>
    match firstBad l 0 with
    | some i => convertRefused 2 i
    | none =>
      let t := decText (packedVal l) sc
      let k := cvtLen1 w / 2
      if t.length ≤ k then convertedTo (posOfOctets (List.replicate (k - t.length) 0x20 ++ t)) false false
      else convertedTo (posOfOctets (List.replicate k 0x2A)) true false
  | 2 =>
    match firstBadZoned l 0 with
    | some i => convertRefused 2 i
    | none =>
      let z := (l.drop (l.length - 2)).headD 0
      let (o, v) := cvtPacked (cvtLen1 w - 1) (isMinus z) (!(z == 0xF || z == 3)) flip (natOfDigits (zonedDigits l))
      convertedTo o v false
  | _ =>
    match firstBad l 0 with
    | some i => convertRefused 2 i
    | none =>
      let d := packedVal l
      let k := cvtLen1 w / 2
      let r := fitDec k d.neg d.mag
      convertedTo (zonedField (digitsOf k r.mag) (if d.sign == 0xF then 0xF else r.sign)) r.exceeds false

/-- A reject entry of the CCW in progress. -/
def ChProg.rejects (p : ChProg) (w : Word) (reason detail : BitVec 8) (addr : DAddr) : ChReject :=
  { reason := reason, detail := detail, addr := addr, recno := p.recno, cmd := ccwCmd w, cpc := p.cpc, ticket := none, full := false, written := none }

/-- CONVERT (R403): every word of both operands is tested before any is written. -/
def convertUnit (e : EngId) (p : ChProg) (w : Word) : M Unit := do
  match p.ending with
  | some cc => endCcw e p w cc
  | none =>
    let dst ← engRefs e p (ccwSA w) permStore .store (ccwA p w) (cvtLen1 w)
    let l ← engField e p (ccwSB w) (ccwB p w) (cvtLen2 w)
    let c := convert w l
    let s ← get
    match dst.find? fun r => isLocalMem r.pa && (s.cell r.pa).bad && r.mask != maskAll && c.out.isSome with
    | some r => do
      upd fun s => s.raiseBad r.pa
      raise { dataFault r.fa r.pa with preg := (ccwSA w).setWidth 4 }
    | none => pure ()
    match c.out with
    | some o => engWrite e (ccwSA w) dst o
    | none => pure ()
    upd fun s => s.forget e
    if bit w 24 && (decide (2 ≤ c.cc.toNat) || (c.cc == 1 && bit w 23)) then tryReject e p (p.rejects w c.reason c.detail (ccwB p w))
    else endCcw e p w c.cc

def execConvert (e : EngId) (s : State) : Host.Outcome State Fault Refusal := .next (s.runCcw e 4 (convertUnit e))

/-! ## VALIDATE (R404) -/

/-- The first invalid position of a field of format 0 to 3 (R127, R412): in formats 1 and 2, the zone of an octet comes before its digit. -/
def firstInvalid (f : BitVec 2) (l : List (BitVec 4)) : Option Nat :=
  (vdgBad f true l).map fun i =>
    let z := l.getD i 0
    let zoneOk := match f.toNat with
      | 1 => if i + 2 = l.length then isSign z || z == 3 else z == 3 || z == 0xF
      | 2 => z == 3
      | _ => false
    if zoneOk then i + 1 else i

/-- What VALIDATE finds wrong with a field: REASON and DETAIL. -/
def invalid (p : ChProg) (w : Word) (l : List (BitVec 4)) : Option (BitVec 8 × BitVec 8) :=
  let f := valFmt w
  match f.toNat with
  | 4 =>
    match parseText (octetsOfPos l) 0 .lead { sign := none, whole := [], frac := [] } with
    | .error i => some (0x14, BitVec.ofNat 8 (2 * i + 1))
    | .ok _ => none
  | 5 =>
    match firstBad l 0 with
    | some i => some (0x10, BitVec.ofNat 8 (i + 1))
    | none =>
      let v := (packedVal l).val
      if v < (packedVal (posList (p.reg (ccwRB w)))).val then some (0x15, 1)
      else if (packedVal (posList (p.reg (ccwRC w)))).val < v then some (0x15, 2)
      else none
  | _ => (firstInvalid (bits f 0 2) l).map fun i => (0x10 + f.setWidth 8, BitVec.ofNat 8 (i + 1))

/-- VALIDATE (R404). -/
def validateUnit (e : EngId) (p : ChProg) (w : Word) : M Unit := do
  match p.ending with
  | some cc => endCcw e p w cc
  | none =>
  let l ← engField e p (ccwSA w) (ccwA p w) (valLen w)
  match invalid p w l with
  | none => nextCcw e p w 0
  | some (reason, detail) => do
    upd fun s => s.forget e
    tryReject e p (p.rejects w reason detail (ccwA p w))

def execValidate (e : EngId) (s : State) : Host.Outcome State Fault Refusal := .next (s.runCcw e 5 (validateUnit e))

/-! ## BUILD-POST (R405) -/

/-- BUILD-POST (R405): the header completed and the vector issued under slot SA; every word is tested before any is written. -/
def buildPostUnit (e : EngId) (p : ChProg) (w : Word) : M Unit := do
  let da := ccwA p w
  let s ← get
  let posts := s.engines[e].posts
  require (daPos da == 0) { cls := clsWordAlign, faddr := da }
  if (posts.any fun q => q.h0 == da) || decide (4 ≤ posts.length) then pure ()
  else
    let k := ccwSA w
    let rd : Reader := { x := .engine e, pass := p.pass k, preg := k.setWidth 4 }
    let need := permLoad ||| permStore ||| permPost
    let h ← atSlot k do
      let _ ← vecRefs rd need da 3 (some 0)
      let _ ← vecRefs rd need da 3 (some 1)
      vecRefs rd need da 3 (some 2)
    let h0 ← atSlot k (match h[0]? with
      | some r => engLoad e r
      | none => return 0)
    let n := (bits w 44 4).toNat + 1
    let ls ← atSlot k (vecRefs rd need (daAdd da 54) (2 * n) none)
    let lw ← atSlot k (mapL (engLoad e) ls)
    match findIdx (fun (i : Nat) => let op := l0Op (lw.getD (2 * i) 0); op == 1 || op == 2) (List.range n) 0 with
    | some i => require (rd.pass.grants permDevice) (passFault 3 rd.preg (daAdd da (18 * (3 + 2 * (i : Int)))))
    | none => pure ()
    let h0' := h0 &&& ~~~(0xFF : Word)
    let h1 := at' (1 : BitVec 4) 68 ||| at' (bits w 44 4) 64 ||| at' (bits w 28 16) 48 ||| at' (bits (p.reg (ccwRC w)) 0 48) 0
    atSlot k (eachL (fun x => engStore e x.1 x.2) (h.zip [h0', h1, 0]))
    let slot := (h[2]?.map (·.pa)).getD 0
    let t ← modifyGet fun s => s.submit (.engine e) false slot ([h0', h1, 0] ++ lw)
    let post : EngPost :=
      { ticket := t, cpb := p.cpb, h0 := da, rej := bit w 1, recno := p.recno, cpc := p.cpc, slot := slot, result := none, stored := true }
    upd fun s => s.updEng e fun x => { x with posts := x.posts ++ [post], postCnt := inc x.postCnt }
    if bit w 0 then upd fun s => s.setProg e (some { p with waitPost := some t }) else nextCcw e p w p.cc

def execBuildPost (e : EngId) (s : State) : Host.Outcome State Fault Refusal := .next (s.runCcw e 6 (buildPostUnit e))

/-- The reject entry of a POST whose completion is not of class A (R405, R412). -/
def EngPost.rejects (q : EngPost) (st : BitVec 8) : ChReject :=
  let n := st.toNat
  { reason := if n < 0x30 then 0x20 else if n < 0x40 then 0x21 else if n < 0x60 then 0x22 else 0x23, detail := st, addr := q.h0, recno := q.recno,
    cmd := 6, cpc := q.cpc, ticket := some q.ticket, full := false, written := none }

/-- Completions that H2 refused, once no other is outstanding: the program faults at the first BUILD-POST of them (R148, R409); a resume repeats
the later ones with it. -/
def State.postsRefused (s : State) (e : EngId) (p : ChProg) : State :=
  match s.engines[e].posts with
  | [] => s
  | q :: r =>
    if (q :: r).all fun y => y.result.isSome && !y.stored then
      let p := { p with cpc := q.cpc, done := 0, elem := 0, waitns := 0, waitFrom := none }
      (s.updEng e fun x => { x with posts := [], arrived := [] }).chFault e p { cls := clsLateStore, code := 2, fphys := q.slot }
    else s

/-- BUILD_POST_COMPLETION (R405, R148): a completion that H2 took; its reject entry, where it makes one, waits for one in progress. -/
def execBuildPostCompletion (e : EngId) (s : State) : Host.Outcome State Fault Refusal :=
  .next (match s.engines[e].running with
  | none => s
  | some p =>
    if s.engines[e].wait.isSome || s.engines[e].fenced then s
    else
      let st (q : EngPost) : BitVec 8 := bits (q.result.getD 0) 64 8
      match s.engines[e].posts.find? fun q => q.result.isSome && q.stored && (p.reject.isNone || !q.owes) with
      | some q =>
        if q.owes then s.afterReject e p (tryReject e p (q.rejects (st q)) s)
        else
          let s := s.updEng e fun x => { x with posts := x.posts.filter fun y => y.ticket != q.ticket }
          match p.ccw with
          | some w => (if p.waitPost == some q.ticket then s.chDone e p w (postCc (st q)) (p.cpc + 1) else s).haltPoint e
          | none => s.haltPoint e
      | none => s.postsRefused e p)

/-! ## JOURNAL-EXPORT (R199, R406) -/

/-- The aperture word of a checked word that lies in an aperture of a layout; none otherwise. -/
def State.aptOf (s : State) (r : WordRef) (padded : Bool) : Option (Aperture × Nat) :=
  match regionOf r.pa with
  | .window => (s.aperture (offsetOf r.pa)).filter fun a => bit a.1.ctl 46 == padded
  | _ => none

/-- The first and last word of every 512-word block that 2^k words from a virtual word touch. -/
def exportProbes (va : WAddr) (k : Nat) : List WAddr :=
  let a := va.toNat
  let b := a + 2 ^ k
  (List.range (2 ^ k / 512 + 2)).flatMap fun i =>
    let lo := max a ((a / 512 + i) * 512)
    let hi := min b ((a / 512 + i + 1) * 512)
    if lo < hi then [BitVec.ofNat 52 lo, BitVec.ofNat 52 (hi - 1)] else []

/-- The tests before an export begins (R406): the area, the position word and the acknowledgement word; the host address of the last. -/
def exportTests (e : EngId) (p : ChProg) (w : Word) (k : Nat) : M (BitVec 64) := do
  eachL (fun da => require (daPos da == 0) { cls := clsWordAlign, faddr := da }) [ccwA p w, ccwB p w, ccwC p w]
  eachL (fun va => do
    let rs ← engRefs e p (ccwSA w) permStore .store (daOf va 0) 18
    let s ← get
    require (rs.all fun r => (s.aptOf r false).isSome) (chCheck 2)) (exportProbes (daWord (ccwA p w)) k)
  let pos ← engRefs e p (ccwSB w) permStore .store (ccwB p w) 18
  let ack ← engRefs e p (ccwSA w) permLoad .load (ccwC p w) 18
  let s ← get
  require (pos.all fun r => (s.aptOf r true).isSome) (chCheck 2)
  match ack.head?.bind fun r => s.aptOf r true with
  | some (a, o) => return a.base + BitVec.ofNat 64 (16 * o)
  | none => raise (chCheck 2)

/-- One batch (R406): the words, the position word, JN_XPOS. -/
def exportBatch (e : EngId) (p : ChProg) (w : Word) (k n : Nat) : M Unit := do
  let s ← get
  let from_ := s.led.xpos.toNat
  let area := daWord (ccwA p w)
  eachL (fun i => do
    let pa := s.ringAddr (from_ + i)
    let v ← engLoad e { va := pa, fa := 0, mask := maskAll, pa := pa, ent := flatEnt pa }
    let rs ← engRefs e p (ccwSA w) permStore .store (daOf (area + BitVec.ofNat 52 ((from_ + i) % 2 ^ k)) 0) 18
    engWrite e (ccwSA w) rs (posList v)) (List.range n)
  let pos ← engRefs e p (ccwSB w) permStore .store (ccwB p w) 18
  engWrite e (ccwSB w) pos (posList (BitVec.ofNat 72 (from_ + n)))
  upd fun s => ({ s with led := { s.led with xpos := BitVec.ofNat 64 (from_ + n) } } : State).updEng e fun x =>
    { x with wordCnt := x.wordCnt + BitVec.ofNat 64 (n + 1) }

/-- Whether another engine is running JOURNAL-EXPORT (R400). -/
def State.exportBusy (s : State) (e : EngId) : Bool :=
  allEngines.any fun f => f != e && (s.engines[f].running.any fun p => p.exportTo.isSome)

/-- The acknowledgement word enters the doorbell watcher's list (R406, R432). -/
def State.watchAck (s : State) (e : EngId) (addr : BitVec 64) : State :=
  let ival := max 100 s.hi.pollMin.toNat
  { s with hi := { s.hi with watch :=
      (s.hi.watch.filter fun x => x.word != .ack e) ++
        [{ word := .ack e, addr := addr, ival := ival, due := s.now, inFlight := false, last := 0 }] } }

/-- JOURNAL-EXPORT completes; nothing watches its acknowledgement word any longer. -/
def exportEnd (e : EngId) (p : ChProg) (w : Word) (cc : BitVec 2) : M Unit := do
  upd fun s => { s with hi := { s.hi with watch := s.hi.watch.filter fun x => x.word != .ack e } }
  endCcw e p w cc

/-- JOURNAL-EXPORT (R406): one batch; only a leader or solo module makes progress. -/
def exportUnit (e : EngId) (p : ChProg) (w : Word) : M Unit := do
  match p.ending with
  | some cc => exportEnd e p w cc
  | none =>
  let s ← get
  let k := s.applied.jnRingLog2.toNat
  if p.exportTo.isNone then
    require (!s.exportBusy e) (chCheck 5)
    let a ← exportTests e p w k
    upd fun s => s.watchAck e a
  let p := { p with exportTo := some (p.exportTo.getD s.led.dpos) }
  upd fun s => s.setProg e (some p)
  if s.leads then
    let n := min (s.led.dpos.toNat - s.led.xpos.toNat) 4096
    let end_ := s.led.xpos.toNat + n
    if n = 0 && bit w 0 then pure ()
    else
      exportBatch e p w k n
      if !bit w 0 && decide ((p.exportTo.getD 0).toNat ≤ end_) then
        exportEnd e p w p.cc
      else upd fun s => s.forget e

def execJournalExport (e : EngId) (s : State) : Host.Outcome State Fault Refusal := .next (s.runCcw e 7 (exportUnit e))

/-! ## WAIT-CREDIT (R407) -/

/-- The counter and the number of credits that a WAIT-CREDIT names. -/
def creditOf (w : Word) : Fin 4 × Nat := (Fin.ofNat 4 (bits w 46 2).toNat, (bits w 30 16).toNat)

/-- WAIT-CREDIT (R407): the credits taken when they are there, else the wait begins. -/
def waitCreditUnit (e : EngId) (p : ChProg) (w : Word) : M Unit := do
  let s ← get
  let (c, n) := creditOf w
  if n ≤ (s.engines[e].credit[c]).toNat then
    upd fun s => s.updEng e fun x => { x with credit := x.credit.set c (x.credit[c] - BitVec.ofNat 32 n) }
    nextCcw e p w 0
  else if p.waitFrom.isSome then pure ()
  else
    let t := (bits w 18 12).toNat * 1000
    upd fun s => s.setProg e (some { p with waitFrom := some s.now, waitns := if p.waitns = 0 then BitVec.ofNat 32 t else p.waitns })

def execWaitCredit (e : EngId) (s : State) : Host.Outcome State Fault Refusal := .next (s.runCcw e 8 (waitCreditUnit e))

/-- CREDIT_WAIT_TIMEOUT (R407): credit that is there in the same instant completes the wait with CC 0. -/
def execCreditWaitTimeout (e : EngId) (s : State) : Host.Outcome State Fault Refusal :=
  .next (match s.engines[e].running with
  | none => s
  | some p =>
    match p.ccw, p.waitFrom with
    | some w, some t =>
      if bits w 18 12 = 0 || s.now.toNat < t.toNat + p.waitns.toNat || p.reject.isSome || s.engines[e].fenced then s
      else if (creditOf w).2 ≤ (s.engines[e].credit[(creditOf w).1]).toNat then s.afterUnit e p (waitCreditUnit e p w s)
      else (s.chDone e p w 1 (p.cpc + 1)).haltPoint e
    | _, _ => s)

/-! ## The control commands (R408) -/

def execBranch (e : EngId) (s : State) : Host.Outcome State Fault Refusal :=
  .next (s.runCcw e 9 fun p w =>
    let taken := bits w 44 4 == 0xF || bit (bits w 44 4) p.cc.toNat
    upd fun s => s.chDone e p w p.cc (if taken then BitVec.ofInt 52 (ccwTarget p w) else p.cpc + 1))

def execLoop (e : EngId) (s : State) : Host.Outcome State Fault Refusal :=
  .next (s.runCcw e 10 fun p w =>
    let v := p.reg (ccwRC w) - 1
    upd fun s => s.chDone e (p.setReg (ccwRC w) v) w p.cc (if v != 0 then BitVec.ofInt 52 (ccwTarget p w) else p.cpc + 1))

def execSignal (e : EngId) (s : State) : Host.Outcome State Fault Refusal :=
  .next (s.runCcw e 11 fun p w => do
    upd fun s => if bit w 47 then s.raise (8 * e.val + (bits w 0 3).toNat) else s
    upd fun s => if bit w 46 then
        s.addCredit (Fin.ofNat 24 (bits w 41 5).toNat) (Fin.ofNat 4 (bits w 39 2).toNat) (bits w 0 16).toNat
      else s
    let s ← get
    match s.engines[e].running with
    | some _ => nextCcw e p w p.cc
    | none => pure ())

/-- STOP (R408): it waits for the program's outstanding POSTs. -/
def execStop (e : EngId) (s : State) : Host.Outcome State Fault Refusal :=
  .next (s.runCcw e 0 fun p w => upd fun s =>
    if s.engines[e].posts.isEmpty then
      (s.updEng e fun x => { x with ccwCnt := inc x.ccwCnt }).chStop e { p with ccw := none } (bits w 0 16)
    else s)

end Sys2Proof.Machine
end

