-- ==== Sys2Proof/Machine/Sync.lean ====
section
/-! DEFINITION. SYNC.M, SYNC.I and SYNC.C (R71-R73, R343) and the invalidation instructions (R284-R287). -/

namespace Sys2Proof.Machine

/-- The recorded late store error taken as F25 (R322). -/
def lateFault (c : Core) : FaultInfo := { cls := clsLateStore, code := bits c.lseStat 0 8, fphys := c.lseAddr }

/-- What SYNC.M does (R71): buffered stores leave, a PCIe read of each aperture stored to completes the stores there, for which the instruction
waits once (log 45), remote stores are answered, the quad's copies of remote lines are dropped (R462), and a recorded late store error is taken. -/
def syncMemory (n : CoreId) : M Unit := do
  upd fun s => s.drainAll n
  let s ← get
  if s.storesOut n || !s.cores[n].windows.isEmpty then do
    modCore n fun c => { c with windows := [] }
    throw .wait
  else
    upd fun s => s.updQuad (quadOf n) fun q => { q with remote := [] }
    require (!bit s.cores[n].lseStat 71) (lateFault s.cores[n])

/-- What SYNC.I does (R72): the core's own stores leave, so that later fetches see them, and the instructions fetched are discarded. -/
def syncFetch (n : CoreId) : M Unit := do
  upd fun s => s.drainAll n
  modCore n fun c => { c with fetchBuf := [], fetchWord := none }

/-- A format A instruction with no operands. -/
def shapeNone (f : FmtA) (steps : Nat) : Shape := { legal := f.rd == 0 && f.ra == 0 && f.rb == 0 && f.fn == 0, steps := steps }

/-- The shape of SYNCI. -/
def shapeSyncI (f : FmtA) : Shape := shapeNone f 2

/-- SYNC.I (R72). -/
def execSyncI (n : CoreId) (f : FmtA) (s : State) : Res :=
  .next (s.runIns n (shapeSyncI f) do
    syncFetch n
    return .seq)

/-- The shape of SYNCM. -/
def shapeSyncM (f : FmtA) : Shape := shapeNone f 2

/-- SYNC.M (R71). -/
def execSyncM (n : CoreId) (f : FmtA) (s : State) : Res :=
  .next (s.runIns n (shapeSyncM f) do
    syncMemory n
    return .seq)

/-- The shape of SYNCC. -/
def shapeSyncC (f : FmtA) : Shape := shapeNone f 0

/-- The steps that instruction reads have waited for the L1 port since they were last counted (R336): the manual gives no course of single steps,
so FILL_WAIT_COUNT rises by a free value (log 10). A deterministic core waits for no port (R344). -/
def fillWaits (n : CoreId) : M Unit := do
  let c ← getCore n
  if c.det then pure ()
  else do
    let v ← draw
    modCore n fun c => { c with fillWait := c.fillWait + bits v 0 32 }

/-- SYNC.C (R73, R343): it is charged in the mode in which it starts, drops the page registers (R346) and installs DETREQ. -/
def execSyncC (n : CoreId) (f : FmtA) (s : State) : Res :=
  .next (s.runIns n (shapeSyncC f) do
    syncMemory n
    syncFetch n
    fillWaits n
    modCore n (Core.charge 3)
    modCore n fun c => { c with pageRegs := Vector.replicate 3 none, st := setBit c.st 58 (bit c.pipeCtl 0) }
    return .seq)

/-! ## Invalidation -/

/-- What an invalidation names (R284). -/
inductive Scope where
  | page (space : BitVec 16) (va : WAddr)
  | space (space : BitVec 16)
  | all
  deriving DecidableEq, Repr

/-- Whether an invalidation names a held leaf. -/
def Scope.names (k : Scope) (t : TlbEnt) : Bool :=
  match k with
  | .page sp va => t.serves sp va
  | .space sp => t.space == sp && !t.glb
  | .all => true

/-- Whether an invalidation names a walk-cache entry. -/
def Scope.namesWalk (k : Scope) (w : WalkEnt) : Bool :=
  match k with
  | .page sp va => w.space == sp && w.idx == va.toNat / 2 ^ (9 + 9 * w.level)
  | .space sp => w.space == sp
  | .all => true

/-- A core's stores drop what an invalidation names; each page register dropped is a departure (R346, R350). -/
def Core.invalidate (c : Core) (k : Scope) : Core :=
  let keep (l : List TlbEnt) : List TlbEnt := l.filter fun t => !k.names t
  let hits := c.pageRegs.toList.countP fun r => r.any k.names
  { c with
    itlb := keep c.itlb, dtlb := keep c.dtlb,
    pageRegs := c.pageRegs.map fun r => r.filter fun t => !k.names t,
    detVar := if c.det then c.detVar + BitVec.ofNat 32 hits else c.detVar }

/-- Every translation store of the module drops what an invalidation names (R285). -/
def State.dropTranslations (s : State) (k : Scope) : State :=
  let keep (l : List TlbEnt) : List TlbEnt := l.filter fun t => !k.names t
  { s with
    cores := s.cores.map fun c => c.invalidate k,
    quads := s.quads.map fun q => { q with tlb := keep q.tlb, walkCache := q.walkCache.filter fun w => !k.namesWalk w },
    engines := s.engines.map fun e => { e with tlb := keep e.tlb } }

/-- Whether some agent's access that an earlier translation serves is still under way: a remote load or store not yet answered, or
a heal that an access waits for (R285). -/
def State.accessesOut (s : State) : Bool :=
  s.lb.series.any (fun x => x.waiting.any fun w => match w.2.1 with
    | .coreLoad _ _ | .coreStore _ _ | .engineLoad _ _ | .engineStore _ _ => true
    | _ => false)
  || s.cores.toList.any (fun c => c.wait.isSome) || s.engines.toList.any (fun e => e.wait.isSome)

/-- Every core's buffered stores leave in order. -/
def State.drainEvery (s : State) : State := allCores.foldl State.drainAll s

/-- The pass tests on the fn 3:0 register (R284, R294): no bounds test. -/
def devicePass (n : CoreId) (i : PassId) : M Unit := do
  let p := (← getCore n).pr i
  require p.valid (passFault 1 i 0)
  require (!p.sealed) (passFault 2 i 0)
  require (p.grants permDevice) (passFault 3 i 0)

/-- The rest of an invalidation (R285): its own accesses complete and report, then the broadcast, which waits for the accesses made
under what it drops; a wait makes it longer than its count (R352). -/
def broadcast (n : CoreId) (k : Scope) : M Next := do
  syncMemory n
  upd State.drainEvery
  if (← get).accessesOut then do
    modCore n fun c => { c with late := c.det }
    throw .wait
  else
    upd fun s => s.dropTranslations k
    return .seq

/-- The shape of INVPG. -/
def shapeInvpg (f : FmtA) : Shape := { legal := f.rd == 0 && bits f.fn 4 9 == 0, steps := 192, regs := [f.ra.toNat, f.rb.toNat] }

/-- INVPG (R284). -/
def execInvpg (n : CoreId) (f : FmtA) (s : State) : Res :=
  .next (s.runIns n (shapeInvpg f) do
    let a ← gr n f.ra
    let b ← gr n f.rb
    require (bits b 16 56 == 0) illegal
    devicePass n (bits f.fn 0 4)
    require (bits a 57 15 == 0) { cls := clsAddrForm, faddr := bits a 0 57 }
    broadcast n (.page (bits b 0 16) (bits a 5 52)))

/-- The shape of INVSP. -/
def shapeInvsp (f : FmtA) : Shape := { legal := f.rd == 0 && f.rb == 0 && bits f.fn 4 9 == 0, steps := 192, regs := [f.ra.toNat] }

/-- INVSP (R284). -/
def execInvsp (n : CoreId) (f : FmtA) (s : State) : Res :=
  .next (s.runIns n (shapeInvsp f) do
    let a ← gr n f.ra
    require (bits a 16 56 == 0) illegal
    devicePass n (bits f.fn 0 4)
    broadcast n (.space (bits a 0 16)))

/-- The shape of INVALL. -/
def shapeInvall (f : FmtA) : Shape := { legal := f.rd == 0 && f.ra == 0 && f.rb == 0 && bits f.fn 4 9 == 0, steps := 192 }

/-- INVALL (R284). -/
def execInvall (n : CoreId) (f : FmtA) (s : State) : Res :=
  .next (s.runIns n (shapeInvall f) do
    devicePass n (bits f.fn 0 4)
    broadcast n .all)

end Sys2Proof.Machine
end

