-- ==== Sys2Proof/Machine/Context.lean ====
section
/-! DEFINITION. The switchback chain (R290-R299) and the exchange of the float registers (R300-R304). -/

namespace Sys2Proof.Machine

/-- The context fault (R297). -/
def ctxFault (code : BitVec 8) (area : WAddr) : FaultInfo := { cls := clsContext, code := code, fphys := area }

/-- A context area is a range of words in the local Plain or Basin at a multiple of 8, or 2 for an FP area (R290, R302). -/
def areaOk (a : WAddr) (align len : Nat) : Bool := decide (a.toNat % align = 0) && rangeInMem a len

/-- A word k of an area. -/
def areaWord (a : WAddr) (k : Nat) : WAddr := a + BitVec.ofNat 52 k

/-- Whether a region that takes only its owner's stores holds one of the words of an area that will be stored (R139, R177, R470). -/
def State.guardedWords (s : State) (a : WAddr) (stored : List Nat) : Bool :=
  regionOf a == .plain && stored.any fun i => s.guarded (offsetOf a + i)

/-- The checks of an area of which the words `stored` will be written. -/
def areaCheck (a : WAddr) (align len : Nat) (code : BitVec 8) (stored : List Nat) : M Unit := do
  require (areaOk a align len) (ctxFault code a)
  let s ← get
  require (!s.guardedWords a stored) { cls := clsRegion, fphys := a }

/-- An uncorrectable word of an area: CHAIN-DATA, with the source of its bank or stack (R297, R321). -/
def chainData {α : Type} (area pa : WAddr) : M α := do
  upd fun s => s.raiseBad pa
  raise (ctxFault 3 area)

/-- A word of an area read by physical address: CHAIN-DATA when it is uncorrectable (R297). -/
def areaRead (n : CoreId) (area pa : WAddr) : M Word := do
  chargeAccess n pa
  upd fun s => s.touchLine n pa
  let s ← get
  if (s.cell pa).bad then chainData area pa else return s.data pa

/-- A pass of an area (R291). -/
def areaReadPass (n : CoreId) (area pa : WAddr) : M PassReg := do
  chargeAccess n pa
  upd fun s => s.touchLine n pa
  let s ← get
  if (s.cell pa).bad then chainData area pa else if (s.cell (pa + 1)).bad then chainData area (pa + 1) else return s.getPass pa

/-- A word of an area written: an ordinary store by physical address (R295). -/
def areaWrite (n : CoreId) (pa : WAddr) (v : Word) : M Unit := do
  chargeAccess n pa
  upd fun s => s.bufferStore n { pa := pa, mask := maskAll, data := v, pass := none }

/-- A pass of an area written as STPS writes it. -/
def areaWritePass (n : CoreId) (pa : WAddr) (p : PassReg) : M Unit := do
  chargeAccess n pa
  upd fun s => s.bufferStore n { pa := pa, mask := maskAll, data := p.w0, pass := some (p.w1, p.valid) }

/-- The general registers of a half with their area words (R290). -/
def halfRegs (upper : Bool) : List (Nat × BitVec 5) :=
  if upper then (List.range 16).map fun i => (2 + i, BitVec.ofNat 5 (16 + i))
  else (List.range 15).map fun i => (2 + i, BitVec.ofNat 5 (1 + i))

/-- The pass registers of a half with their area words (R290). -/
def halfPasses (upper : Bool) : List (Nat × PassId) :=
  (List.range 7).map fun i => (18 + 2 * i, BitVec.ofNat 4 (if upper then 7 + i else i))

/-- The head of a chain (R292). -/
def Core.head (c : Core) (x : Bool) : WAddr := if x then c.swx else c.swh
def Core.setHead (c : Core) (x : Bool) (a : WAddr) : Core := if x then { c with swx := a } else { c with swh := a }

/-- HDR of a used area (R290). -/
def areaHdr (n : CoreId) (upper x : Bool) : Word := at' (if upper then 2#4 else 1#4) 68 ||| flagAt x 67 ||| at' (BitVec.ofNat 6 n.val) 61

/-- The words of an area that a save of a half stores (R290, R295): HDR, the registers, the passes and, for the upper half, SSPASS and SSP. -/
def savedWords (upper : Bool) : List Nat :=
  1 :: (halfRegs upper).map (·.1) ++ (halfPasses upper).flatMap (fun r => [r.1, r.1 + 1]) ++ if upper then [32, 33, 34] else []

/-- SAVE.L and SAVE.U (R295, R297). -/
def saveBody (n : CoreId) (f : FmtA) (upper : Bool) : M Next := do
  devicePass n (bits f.fn 0 4)
  let c ← getCore n
  let x := bit f.fn 4
  let a := c.head x
  if a = 0 then
    modCore n fun c => { c with swExh := inc c.swExh }
    raise { cls := clsChain }
  else
    areaCheck a 8 40 1 (savedWords upper)
    upd fun s => s.drainAll n
    let link ← areaRead n a a
    areaWrite n (areaWord a 1) (areaHdr n upper x)
    eachL (fun r => areaWrite n (areaWord a r.1) (c.gr r.2)) (halfRegs upper)
    eachL (fun r => areaWritePass n (areaWord a r.1) (c.pr r.2)) (halfPasses upper)
    if upper then
      areaWritePass n (areaWord a 32) c.sspass
      areaWrite n (areaWord a 34) (c.ssp.setWidth 72)
    modCore n fun c => (c.setHead x (bits link 0 52)).setG f.rd (a.setWidth 72)
    return .seq

/-- The general registers that a save or restore of a half names. -/
def halfNames (upper : Bool) (r : BitVec 5) : List Nat := r.toNat :: (halfRegs upper).map fun x => x.2.toNat

/-- The shape of SAVE. -/
def shapeSave (f : FmtA) (upper : Bool) (steps : Nat) : Shape :=
  { legal := f.ra == 0 && f.rb == 0 && bits f.fn 5 8 == 0, regs := halfNames upper f.rd, steps := steps }

/-- The shape of SAVEL. -/
def shapeSaveL (f : FmtA) : Shape := shapeSave f false 29

def execSaveL (n : CoreId) (f : FmtA) (s : State) : Res := .next (s.runIns n (shapeSaveL f) (saveBody n f false))

/-- The shape of SAVEU. -/
def shapeSaveU (f : FmtA) : Shape := shapeSave f true 32

def execSaveU (n : CoreId) (f : FmtA) (s : State) : Res := .next (s.runIns n (shapeSaveU f) (saveBody n f true))

/-- REST.L and REST.U (R296, R297): every read before any write; the registers are loaded last. -/
def restBody (n : CoreId) (f : FmtA) (upper : Bool) : M Next := do
  devicePass n (bits f.fn 0 4)
  let v ← gr n f.ra
  let a := bits v 0 52
  require (bits v 52 20 == 0) (ctxFault 1 a)
  areaCheck a 8 40 1 [0, 1]
  upd fun s => s.drainAll n
  let hdr ← areaRead n a (areaWord a 1)
  require (bits hdr 68 4 == if upper then 2 else 1) (ctxFault 2 a)
  let gs ← mapL (fun r => do return (r.2, ← areaRead n a (areaWord a r.1))) (halfRegs upper)
  let ps ← mapL (fun r => do return (r.2, ← areaReadPass n a (areaWord a r.1))) (halfPasses upper)
  let ss ← if upper then do
      let p ← areaReadPass n a (areaWord a 32)
      let w ← areaRead n a (areaWord a 34)
      pure (some (p, bits w 0 52))
    else pure none
  let x := bit hdr 67
  let c ← getCore n
  areaWrite n (areaWord a 1) 0
  areaWrite n a ((c.head x).setWidth 72)
  modCore n fun c =>
    let c := c.setHead x a
    let c := gs.foldl (fun c r => c.setG r.1 r.2) c
    let c := ps.foldl (fun c r => c.setP r.1 r.2) c
    match ss with
    | some (p, w) => { c with sspass := p, ssp := w }
    | none => c
  return .seq

/-- The shape of REST. -/
def shapeRest (f : FmtA) (upper : Bool) (steps : Nat) : Shape :=
  { legal := f.rd == 0 && f.rb == 0 && bits f.fn 4 9 == 0, regs := halfNames upper f.ra, steps := steps }

/-- The shape of RESTL. -/
def shapeRestL (f : FmtA) : Shape := shapeRest f false 30

def execRestL (n : CoreId) (f : FmtA) (s : State) : Res := .next (s.runIns n (shapeRestL f) (restBody n f false))

/-- The shape of RESTU. -/
def shapeRestU (f : FmtA) : Shape := shapeRest f true 33

def execRestU (n : CoreId) (f : FmtA) (s : State) : Res := .next (s.runIns n (shapeRestU f) (restBody n f true))

/-! ## Float exchange (R301-R303) -/

/-- The eighteen words of an FP area (R302). -/
def Core.fpWords (c : Core) : List Word :=
  ((List.range 16).map fun j => at' (c.fr (BitVec.ofNat 5 (2 * j))) 32 ||| at' (c.fr (BitVec.ofNat 5 (2 * j + 1))) 0)
    ++ [c.fs.setWidth 72, match c.ftrap with
      | some (causes, _) => flagAt true 71 ||| at' causes 0
      | none => 0]

/-- The float registers, status and pending trap of an FP area. Where the trapping instruction stood is not in the area: `at_`. -/
def Core.fpLoad (c : Core) (l : List Word) (at_ : DAddr) : Core :=
  let w (j : Nat) : Word := l.getD j 0
  { c with
    f := Vector.ofFn fun i => bits (w (i.val / 2)) (if i.val % 2 = 0 then 32 else 0) 32,
    fs := bits (w 16) 0 10 &&& 0x31F,
    ftrap := if bit (w 17) 71 then some (bits (w 17) 0 5, at_) else none }

/-- The registers saved to FPOWN's area; a pending trap moves there (R303). -/
def fpSave (n : CoreId) : M Unit := do
  let c ← getCore n
  let a := bits c.fpown 0 52
  eachL (fun x => areaWrite n (areaWord a x.2) x.1) (c.fpWords.zip (List.range 18))
  modCore n fun c => { c with ftrap := none, fpown := setBit c.fpown 71 false, fpxchCnt := inc c.fpxchCnt }

/-- The second half of what a store to FPXCH does (R301): FPOWN's area saved, and CTXFP's loaded, from `early` when no flush comes
first. -/
def fpMove (n : CoreId) (flush saves loads : Bool) (b : WAddr) (early : List Word) : M Unit := do
  if saves then fpSave n
  upd fun s => s.drainAll n
  if loads then
    let l ← if flush then mapL (fun i => areaRead n b (areaWord b i)) (List.range 18) else pure early
    let at_ ← draw
    modCore n fun c =>
      { (c.fpLoad l (bits at_ 0 57)) with fpown := flagAt true 71 ||| b.setWidth 72, fpxchCnt := if saves && !flush then c.fpxchCnt else inc c.fpxchCnt }

/-- What a store to FPXCH does (R301, R302), charged as R298 gives. Every check comes before any change. -/
def fpxch (n : CoreId) (v : Word) : M Unit := do
  let flush := bit v 1
  let xch := bit v 0
  let c ← getCore n
  let own := bit c.fpown 71
  let a := bits c.fpown 0 52
  let b := c.ctxfp
  let same := own && a == b
  let saves := own && (flush || (xch && !same))
  let loads := xch && (flush || !same)
  if loads then areaCheck b 2 18 4 []
  if saves then areaCheck a 2 18 4 (List.range 18)
  upd fun s => s.drainAll n
  -- An exchange reads CTXFP's area before it saves; a flush that comes first may write words of that area.
  let s ← get
  if loads then
    let covered (i : Nat) : Bool := flush && own && decide (a.toNat ≤ b.toNat + i) && decide (b.toNat + i < a.toNat + 18)
    match (List.range 18).find? fun i => !covered i && (s.cell (areaWord b i)).bad with
    | some i => chainData b (areaWord b i)
    | none => pure ()
  let early ← if loads && !flush then mapL (fun i => areaRead n b (areaWord b i)) (List.range 18) else pure []
  fpMove n flush saves loads b early
  if flush || xch then modCore n (Core.charge (3 + (if saves then 18 else 0) + if loads then 18 else 0))
  if xch then modCore n fun c => { c with st := setBit c.st 64 true }

end Sys2Proof.Machine
end

