-- ==== Sys2Proof/Machine/Control.lean ====
section
/-! DEFINITION. Branches and calls (R60, R66, R67), the shadow stack (R256-R259) and protected calls (R252-R254). -/

namespace Sys2Proof.Machine

/-! ## Prediction (R330); it decides no result -/

/-- The direction counter moved toward taken or not taken. -/
def stepCtr (x : BitVec 2) (taken : Bool) : BitVec 2 :=
  if taken then (if x = 3 then 3 else x + 1) else (if x = 0 then 0 else x - 1)

/-- The set of the branch-target buffer in which a branch stands (R330): 2,048 entries, 4-way; the sets take the slots in turn (log 44). -/
def BtbEnt.set (e : BtbEnt) : Nat := ((daWord e.addr).toNat * 2 + daPos e.addr / 9) % 512

/-- Where a branch at the PC was predicted to go (R330, R342): none for the sequential successor, which is the prediction without an entry of the
buffer and under BTBOFF. -/
def Core.predicted (c : Core) : Option DAddr :=
  if bit c.pipeCtl 1 then none
  else (c.btb.find? fun e => e.addr == c.pc).bind fun e =>
    if e.kind = 0 && decide (e.ctr.toNat < 2) then none
    else if e.kind = 3 then some (c.rstack.headD e.target) else some e.target

/-- A branch that completes (R330, R342): BTB_MISPRED_COUNT counts a wrong prediction, and the buffer takes its kind, its last target and its
direction. Deterministic mode predicts nothing (R344). -/
def Core.predict (c : Core) (kind : BitVec 3) (target : DAddr) (taken : Bool) : Core :=
  if c.det then c
  else
    let c := if c.predicted == (if taken then some target else none) then c else { c with mispred := inc c.mispred }
    if bit c.pipeCtl 1 then c
    else
      let old := (c.btb.find? fun e => e.addr == c.pc).getD { addr := c.pc, kind := kind, target := target, ctr := 1 }
      let e : BtbEnt := { addr := c.pc, kind := kind, target := if taken then target else old.target, ctr := stepCtr old.ctr taken }
      { c with btb := addWays 4 BtbEnt.set c.pc.toNat e (c.btb.filter fun e => e.addr != c.pc) }

/-- The return stack after a call, or after a return (R330). -/
def Core.pushReturn (c : Core) (a : DAddr) : Core :=
  if c.det || bit c.pipeCtl 1 then c else { c with rstack := (a :: c.rstack).take 16 }
def Core.popReturn (c : Core) : Core := if c.det || bit c.pipeCtl 1 then c else { c with rstack := c.rstack.drop 1 }

/-! ## Branch targets -/

/-- The check of a target against P15 when a branch is taken (R60). -/
def checkTarget (n : CoreId) (pc : DAddr) : M Unit := do
  let c ← getCore n
  passTests c.p[15] 15 permExec .fetch pc [(daWord pc, maskAll)]

/-- A register target (R60): address form, then position 0 or 9. -/
def regTarget (v : Word) : M DAddr := do
  let da := bits v 0 57
  require (bits v 57 15 == 0) { cls := clsAddrForm, faddr := da }
  require (daPos da == 0 || daPos da == 9) { cls := clsInstrAlign }
  return da

/-- A relative target (R60). -/
def relTarget (n : CoreId) (disp : BitVec 24) : M DAddr := do
  let c ← getCore n
  match pcAfter c.pc (9 * disp.toInt) with
  | some a => return a
  | none => raise { cls := clsRange, faddr := c.pc }

/-- The sequential successor that a call records (R58). -/
def returnAddr (n : CoreId) : M DAddr := do
  let c ← getCore n
  match pcAfter c.pc 9 with
  | some a => return a
  | none => raise { cls := clsRange, faddr := c.pc }

/-! ## The shadow stack -/

/-- SSPASS must be valid, unsealed and a shadow pass (R259 item 1). -/
def shadowPass (n : CoreId) : M PassReg := do
  let c ← getCore n
  require (c.sspass.valid && !c.sspass.sealed && c.sspass.shadow) (passFault 9 0 (daOf c.ssp 0))
  return c.sspass

/-- The tests of R259 items 3 and 4 on k shadow words from `lo`, then the region rules (R62). -/
def shadowWords (n : CoreId) (p : PassReg) (a : Acc) (lo : WAddr) (k : Nat) : M (List WordRef) := do
  let ws := (List.range k).map fun i => lo + BitVec.ofNat 52 i
  match ws.find? fun w => !p.covers lo w with
  | some w => raise (passFault 4 0 (daOf w 0))
  | none => pure ()
  let rs ← mapL (fun w => do
    let t ← xlate (.core n 1) w a.isStore 0 (daOf w 0)
    require (t.acc &&& a.needs == a.needs) (transFault 5 (leafLevel t.size) t.entry 0 (daOf w 0))
    let s ← get
    let pa := s.localise (t.phys w)
    require (t.mt == 2 && (regionOf pa == .basin || regionOf pa == .plain)) (passFault 9 0 (daOf w 0))
    require (keyOk p.key t a.isStore)
      { cls := clsKey, faddr := daOf w 0, fphys := pa, detail := at' p.key 4 ||| at' t.key 0 }
    return { va := w, fa := daOf w 0, mask := maskAll, pa := pa, ent := t }) ws
  eachL (checkRegion (.core n 1) 0 a) rs
  return rs

/-- The checks of a push of k words (R258, R259). -/
def pushCheck (n : CoreId) (k : Nat) : M (List WordRef) := do
  let c ← getCore n
  let p ← shadowPass n
  require (decide (p.base + k ≤ c.ssp.toNat)) { cls := clsFlow, code := 4 }
  shadowWords n p .push (c.ssp - BitVec.ofNat 52 k) k

/-- The checks of reading k words from SSP (R258, R259). -/
def popCheck (n : CoreId) (k : Nat) : M (List WordRef) := do
  let c ← getCore n
  let p ← shadowPass n
  require (decide (c.ssp.toNat + k ≤ p.base + p.len)) { cls := clsFlow, code := 3 }
  shadowWords n p .pop c.ssp k

/-- A checked call entry pushed (R257, R258). -/
def pushCall (n : CoreId) (rs : List WordRef) (a : DAddr) : M Unit := do
  eachL (fun r => storeRef n 1 r (at' (1 : BitVec 4) 68 ||| daReg a)) rs
  modCore n fun c => { c with ssp := c.ssp - 1 }

/-- CALL and CALLR after their target checks: the push, the link register and the target (R67, R258). -/
def callTo (n : CoreId) (rd : BitVec 5) (target : DAddr) (kind : BitVec 3) : M Next := do
  checkTarget n target
  let ra ← returnAddr n
  let rs ← pushCheck n 1
  pushCall n rs ra
  modCore n fun c => ((c.setG rd (daReg ra)).predict kind target true).pushReturn ra
  return .jump target

/-- The shape of B. -/
def shapeB (_f : FmtB) : Shape := {}

def execB (n : CoreId) (f : FmtB) (s : State) : Res :=
  .next (s.runIns n (shapeB f) do
    let c ← getCore n
    if c.cond f.cond then
      let t ← relTarget n f.disp
      checkTarget n t
      modCore n fun c => (c.predict (if f.cond = 14 then 1 else 0) t true).charge 1
      return .jump t
    else
      modCore n fun c => c.predict 0 0 false
      return .seq)

/-- The shape of CALL. -/
def shapeCall (f : FmtB) : Shape := { legal := f.cond == 14, regs := [31], steps := 3 }

def execCall (n : CoreId) (f : FmtB) (s : State) : Res :=
  .next (s.runIns n (shapeCall f) do
    let t ← relTarget n f.disp
    callTo n 31 t 2)

/-- The shape of BR. -/
def shapeBr (f : FmtA) : Shape := { legal := f.rd == 0 && f.rb == 0 && f.fn == 0, regs := FmtA.regs f, steps := 3 }

def execBr (n : CoreId) (f : FmtA) (s : State) : Res :=
  .next (s.runIns n (shapeBr f) do
    let v ← gr n f.ra
    let t ← regTarget v
    checkTarget n t
    modCore n fun c => c.predict 4 t true
    return .jump t)

/-- The shape of CALLR; it waits for G31 too (R150). -/
def shapeCallr (f : FmtA) : Shape := { legal := f.rb == 0 && f.fn == 0, regs := 31 :: FmtA.regs f, steps := 3 }

def execCallr (n : CoreId) (f : FmtA) (s : State) : Res :=
  .next (s.runIns n (shapeCallr f) do
    let v ← gr n f.ra
    let t ← regTarget v
    callTo n f.rd t 2)

/-- The shape of RET. -/
def shapeRet (f : FmtA) : Shape := { legal := f.rd == 0 && f.rb == 0 && f.fn == 0, regs := FmtA.regs f, steps := 3 }

/-- RET (R258): KIND, then MISMATCH, then the pop. -/
def execRet (n : CoreId) (f : FmtA) (s : State) : Res :=
  .next (s.runIns n (shapeRet f) do
    let v ← gr n f.ra
    let t ← regTarget v
    checkTarget n t
    let rs ← popCheck n 1
    let ws ← mapL (loadRef n) rs
    let top := ws.headD 0
    require (bits top 68 4 == 1) { cls := clsFlow, code := 2 }
    require (bits top 0 57 == t) { cls := clsFlow, code := 1 }
    modCore n fun c => (({ c with ssp := c.ssp + 1 } : Core).predict 3 t true).popReturn
    return .jump t)

/-- A pass unsealed (R251). -/
def PassReg.unsealed (p : PassReg) : PassReg := { p with w0 := setBit p.w0 3 false, w1 := setBits p.w1 4 16 0 }

/-- The words of a domain frame, pushed from lowest to highest (R257): return, PAD, the two passes and, when SSP is odd, a pad. -/
def pushFrame (n : CoreId) (rs : List WordRef) (a : DAddr) (pad : Bool) : M Unit := do
  let c ← getCore n
  match rs with
  | r0 :: r1 :: r2 :: _ :: r4 :: _ :: rest => do
    eachL (fun r => markChg (.core n 1) r.ent) rs
    eachL (fun r => storeRef n 1 r (at' (0xF : BitVec 4) 68)) rest
    storeRef n 1 r0 (at' (2 : BitVec 4) 68 ||| daReg a)
    storeRef n 1 r1 (flagAt pad 0)
    storePassRef n 1 r2 c.p[15]
    storePassRef n 1 r4 c.p[13]
  | _ => pure ()
  modCore n fun c => { c with ssp := c.ssp - (if pad then 7 else 6) }

/-- The shape of ENTER. -/
def shapeEnter (f : FmtA) : Shape := { legal := f.rd == 0 && f.fn == 0 && isPass f.ra && isPass f.rb, steps := 6 }

/-- ENTER (R252). -/
def execEnter (n : CoreId) (f : FmtA) (s : State) : Res :=
  .next (s.runIns n (shapeEnter f) do
    let c ← getCore n
    let a := c.pr (passOf f.ra)
    let b := c.pr (passOf f.rb)
    require a.valid (passFault 1 (passOf f.ra) 0)
    require b.valid (passFault 1 (passOf f.rb) 0)
    require a.sealed (passFault 2 (passOf f.ra) 0)
    require b.sealed (passFault 2 (passOf f.rb) 0)
    require (a.sealType == b.sealType) (passFault 0xA (passOf f.rb) 0)
    require (a.grants permEnter) (passFault 3 (passOf f.ra) 0)
    require (b.grants permEnter) (passFault 3 (passOf f.rb) 0)
    require (a.grants permExec) (passFault 3 (passOf f.ra) 0)
    let ra ← returnAddr n
    let pad := bit c.ssp 0
    let rs ← pushCheck n (if pad then 7 else 6)
    pushFrame n rs ra pad
    let target := daOf (bits a.w0 20 52) 0
    modCore n fun c => ((c.setP 15 a.unsealed).setP 13 b.unsealed).predict 2 target true
    return .jump target)

/-- The shape of LEAVE. -/
def shapeLeave (f : FmtA) : Shape := { legal := f.rd == 0 && f.ra == 0 && f.rb == 0 && f.fn == 0, steps := 6 }

/-- LEAVE (R253, R258). -/
def execLeave (n : CoreId) (f : FmtA) (s : State) : Res :=
  .next (s.runIns n (shapeLeave f) do
    let r0 ← popCheck n 1
    let w0 ← mapL (loadRef n) r0
    let top := w0.headD 0
    require (bits top 68 4 == 2) { cls := clsFlow, code := 2 }
    let rs ← popCheck n 6
    match rs with
    | _ :: r1 :: r2 :: r3 :: r4 :: r5 :: _ => do
      let w1 ← loadRef n r1
      let pad := bit w1 0
      if pad then
        let r6 ← popCheck n 7
        eachL (fun r => do let _ ← loadRef n r; return) (r6.drop 6)
      let p15 ← loadPassRef n r2 r3
      let p13 ← loadPassRef n r4 r5
      modCore n fun c =>
        ((({ c with ssp := c.ssp + (if pad then 7 else 6) } : Core).setP 15 p15).setP 13 p13).predict 4 (bits top 0 57) true
      return .jump (bits top 0 57)
    | _ => return .seq)

end Sys2Proof.Machine
end

