-- ==== Sys2Proof/Machine/Events.lean ====
section
/-! DEFINITION. Events, timers, TRAP, FREL, machine checks and late store errors (R305-R328), and the stores, lines and walks that a
core's memory system performs on its own (R272, R336, R337). -/

namespace Sys2Proof.Machine

/-! ## Event entries -/

/-- Whether a core stands at a boundary at which an entry can be taken (R313): it runs, no access is under way, and no
POST or COMMIT is outstanding. A word that has arrived for an instruction that then gives way is read again. -/
def Core.atBoundary (c : Core) : Bool := c.run == 2 && c.wait.isNone && c.posts.isEmpty

/-- A source as a core takes it (R308): PEND cleared and SRC_LAST written, the accepted offer gone, and a departure from fixed cost (R350). -/
def State.takeSource (s : State) (n : CoreId) (k : SrcId) : State :=
  ({ s with srcs := s.srcs.set k { s.srcs[k] with pend := false, last := BitVec.ofNat 7 (64 + n.val) } } : State).updCore n fun c =>
    ({ c with offer := none } : Core).depart

/-- EVENT_ENTRY (R308, R313, R314). An entry that waits for the word at its vector (R321) leaves its source and the offer as they were. -/
def execEventEntry (n : CoreId) (s : State) : Res :=
  .next (if s.cores[n].atBoundary then
    match s.taken n with
    | none => s.updCore n fun c => { c with offer := none }
    | some (k, l) =>
      let x := s.srcs[k]
      match (s.takeSource n k).tryEnter n
        { kind := .event, level := l, fault := { cls := 0 }, source := BitVec.ofNat 10 k.val, merged := x.merges - x.mark,
          pc := s.cores[n].pc, instr := 0 } with
      | (some t, _) => t
      | (none, t) =>
        ({ t with srcs := t.srcs.set k { t.srcs[k] with pend := true, last := x.last } } : State).updCore n fun c =>
          { c with detPend := s.cores[n].detPend, detVar := s.cores[n].detVar, offer := s.cores[n].offer }
  else s)

/-- SOURCE_RAISE (R307): a hardware source; sources 768 and above are raised only by SRC_RAISE. -/
def execSourceRaise (src : SrcId) (s : State) : Res := .next (if src.val < 768 then s.raise src.val else s)

/-- Whether SRC_RAISE raises a source: a message source of a core, or a software-defined one (R307). -/
def softSource (k : Nat) : Bool := decide (768 ≤ k) || (decide (464 ≤ k) && decide (k < 656) && decide ((k - 464) % 4 < 2))

/-- A store to SRC_RAISE (R307). -/
def State.srcRaise (s : State) (k : Nat) (v : Word) : State := if bit v 0 && softSource k then s.raise k else s

/-! ## Timers (R309) -/

/-- Whether a timer word is due. -/
def timerDue (w : Word) (now : BitVec 64) : Bool := bit w 71 && decide ((bits w 0 64).toNat ≤ now.toNat)

/-- The timer word of a timer. -/
def State.timer (s : State) : TimerId → Word
  | .core n => s.cores[n].tmr
  | .module j => s.mtmr[j]

/-- The timer word replaced. -/
def State.setTimer (s : State) (v : Word) : TimerId → State
  | .core n => s.updCore n fun c => { c with tmr := v }
  | .module j => { s with mtmr := s.mtmr.set j v }

/-- The source of a timer (R305). -/
def timerSource : TimerId → Nat
  | .core n => 656 + n.val
  | .module j => 704 + j.val

/-- A due timer raises its source once and clears EN. -/
def State.fireTimer (s : State) (t : TimerId) : State :=
  if timerDue (s.timer t) s.now then (s.setTimer (setBit (s.timer t) 71 false) t).raise (timerSource t) else s

/-- TIMER_EXPIRY (R309). -/
def execTimerExpiry (t : TimerId) (s : State) : Res := .next (s.fireTimer t)

/-! ## FREL and TRAP -/

/-- The innermost ACTIVE bit (R310). -/
def Core.innermost (c : Core) : Option Nat :=
  if bit c.active 17 then some 17
  else if bit c.active 16 then some 16
  else if bit c.active (8 + c.lvl.toNat) then some (8 + c.lvl.toNat)
  else if bit c.active c.lvl.toNat then some c.lvl.toNat
  else none

/-- The highest level below m whose EV bit is set, else 0 (R317). -/
def levelBelow (active : BitVec 18) (m : Nat) : BitVec 3 :=
  ([7, 6, 5, 4, 3, 2, 1].find? fun (k : Nat) => decide (k < m) && bit active k).elim 0 (BitVec.ofNat 3)

/-- FPA as FREL sets it (R300). -/
def Core.fpaAfter (c : Core) : Bool := bit c.fpown 71 && bits c.fpown 0 52 == c.ctxfp

/-- The core after FREL (R317): `st` is word 1 of the frame. -/
def Core.afterFrel (c : Core) (b : Nat) (st : Word) (p15 p14 : PassReg) : Core :=
  let c := c.writeSt st
  let active := setBit c.active b false
  let st := setBit c.st 64 c.fpaAfter
  { c with
    active := active, frames := c.frames.drop 1, p := (c.p.set 15 p15).set 14 p14,
    st := if 1 ≤ b ∧ b ≤ 7 then setBits st 55 3 (levelBelow active b) else st,
    pageRegs := Vector.replicate 3 none, hold := none }

/-- The shape of FREL. -/
def shapeFrel (f : FmtA) : Shape := { legal := f.rd == 0 && f.ra == 0 && f.rb == 0 && f.fn == 0, steps := 9 }

/-- FREL (R317). The stores of the frame leave the buffer before it is read. -/
def execFrel (n : CoreId) (f : FmtA) (s : State) : Res :=
  .next (s.runIns n (shapeFrel f) do
    let c ← getCore n
    match c.innermost, c.frames with
    | some b, fr :: _ => do
      upd fun s => s.drainAll n
      let pa (k : Nat) : WAddr := fr.addrs.getD k 0
      let w0 ← readPhys n (pa 0)
      let w1 ← readPhys n (pa 1)
      let p15 ← readPhysPass n (pa 2)
      let p14 ← readPhysPass n (pa 4)
      let pc := bits w0 0 57
      require (bits w0 57 15 == 0) { cls := clsAddrForm, faddr := pc }
      require (daPos pc == 0 || daPos pc == 9) { cls := clsInstrAlign }
      modCore n fun c => c.afterFrel b w1 p15 p14
      return .jump pc
    | _, _ => raise illegal)

/-- The shape of TRAP. -/
def shapeTrap (f : FmtI) : Shape := { legal := f.rd == 0 && f.ra == 0, steps := 1 }

/-- TRAP (R318). The entry waits for outstanding POSTs and COMMITs (R313). -/
def execTrap (n : CoreId) (f : FmtI) (s : State) : Res :=
  .next (s.runIns n (shapeTrap f) do
    let c ← getCore n
    if !c.posts.isEmpty then throw .wait
    else
      require (c.lvl != 7 && !bit c.active 16 && !bit c.active 17) { cls := clsNesting, detail := f.imm.setWidth 72 }
      match pcAfter c.pc 9 with
      | none => raise { cls := clsRange, faddr := c.pc }
      | some next => do
        let (w, t) := (← get).instrWord n
        match t.tryEnter n
            { kind := .trap, level := c.lvl + 1, fault := { cls := 0, detail := f.imm.setWidth 72 }, source := 0, merged := 0, pc := next,
              instr := w } with
        | (some u, _) => do
          set u
          return .jump (← getCore n).pc
        | (none, u) => do
          set u
          throw .wait)

/-! ## Machine checks (R324) -/

/-- A machine check at a core's PC. One that has to be entered waits for outstanding POSTs and COMMITs (R313). -/
def State.machineCheck (s : State) (n : CoreId) (cause : BitVec 8) (retry : Bool) : State :=
  let c := s.cores[n]
  let f : FaultInfo := { cls := clsMachine, code := cause, detail := flagAt retry 0 }
  if c.run != 2 then s
  else if bit c.active 17 then s.loseCore n c.pc (causeWord 3 f.cls f.code 0 c.lvl 0 0)
  else if !c.posts.isEmpty then s
  else
    let s0 := s
    let s := s.updCore n fun c => { c with wait := none }
    let (w, s) := s.instrWord n
    if retry then
      match s.takeFault n f w with
      | (some t, _) => t
      | (none, t) => t.waitEntry n s0
    else (s.drainAll n).escalate n 8 { cls := 0, detail := at' clsMachine 47 ||| at' cause 39 } c.pc w

/-- A machine check that can be entered now: a core with a level-E handler in force is lost at once, any other waits for outstanding POSTs and
COMMITs (R313, R324). -/
def State.checkable (s : State) (n : CoreId) : Bool := s.cores[n].run == 2 && (bit s.cores[n].active 17 || s.cores[n].posts.isEmpty)

/-- A parity error at a micro-address, or at a match register, 0x8000 plus its index: MC_ADDR and MC_PAR_COUNT record it (R381). -/
def Core.noteParity (addr : BitVec 16) (c : Core) : Core := { c with mcAddr := addr, mcPar := inc c.mcPar }

/-- A word of the control stores or a match register that has failed: its first parity bit no longer agrees (R369). ROM is not written. -/
def Core.corrupt (addr : BitVec 16) (c : Core) : Core :=
  let flip (k : Nat) (l : List (Nat × MicroWord)) : List (Nat × MicroWord) :=
    l.map fun e => if e.1 == k then (e.1, { e.2 with parity := e.2.parity ^^^ 1 }) else e
  let a := addr.toNat
  if h : 0x8000 ≤ a ∧ a < 0x8020 then
    { c with matchRegs := c.matchRegs.set (a - 0x8000) { c.matchRegs[a - 0x8000] with parity := !c.matchRegs[a - 0x8000].parity } }
  else if 0x4000 ≤ a ∧ a < 0x4200 then { c with patch := flip (a - 0x4000) c.patch }
  else if 0x4800 ≤ a ∧ a < 0x5000 then { c with ocs := flip (a - 0x4800) c.ocs }
  else c

/-- MACHINE_CHECK (R324, R381). Causes 0x01 and 0x02 are a parity error that the command brings; whether the word itself has failed, and not only
this read of it, is a free value (log 46). The sequencer's cause 0x05 has RETRY 0 (R368, R380). -/
def execMachineCheck (n : CoreId) (cause : BitVec 8) (retry : Bool) (addr : BitVec 16) (s : State) : Res :=
  .next (if s.checkable n then
    (if cause == 1 || cause == 2 then
      let (f, s) := s.draw
      s.updCore n fun c => (if bit f 0 then c.corrupt addr else c).noteParity addr
    else s).machineCheck n cause (retry && cause != 5)
  else s)

/-! ## Late store errors, the store buffer, lines and walks -/

/-- LATE_STORE_ERROR (R322). -/
def execLateStoreError (n : CoreId) (cause : BitVec 8) (pa : BitVec 52) (s : State) : Res :=
  .next (if 1 ≤ cause.toNat ∧ cause.toNat ≤ 7 then s.lateStore n cause pa else s)

/-- STORE_DRAIN (R337). -/
def execStoreDrain (n : CoreId) (s : State) : Res := .next (s.drainOne n)

/-- A line of the local Plain or Basin arrives in the L1 by way of the quad's L2 (R329, R336); no other line is requested (R331), and in deterministic
mode the core does not use its L1 (R344). -/
def State.fillLine (s : State) (n : CoreId) (line : WAddr) : State := if isLocalMem line then s.touchLine n line else s

/-- LINE_FILL (R336). -/
def execLineFill (n : CoreId) (line : BitVec 52) (s : State) : Res := .next (s.fillLine n line)

/-- A translation made ahead of the access that needs it (R272, R279). A fault belongs to that access: a walk that finds one, or whose result
conflicts with a held translation, leaves nothing, and is made again by the access, which raises it. -/
def State.translateFor (s : State) (x : Xl) (va : WAddr) (acc : Access) : State :=
  match xlate x va (acc == .store || acc == .loadStore) 0 (daOf va 0) s with
  | .ok _ t => t
  | .error _ _ => s

/-- The stream of a core that an access belongs to. -/
def streamOf (acc : Access) : Fin 3 := if acc = .fetch then 0 else 1

/-- TABLE_WALK (R272-R275). A fenced agent walks nothing; in deterministic mode a core uses its page registers instead (R346). -/
def execTableWalk (a : Agent) (va : BitVec 52) (acc : Access) (s : State) : Res :=
  .next (match a with
    | .core n => if s.cores[n].run == 2 && !s.cores[n].det then s.translateFor (.core n (streamOf acc)) va acc else s
    | .engine e => if s.engines[e].running.isSome && !s.engines[e].fenced then s.translateFor (.engine e) va acc else s)

/-! ## Micro-traps (R379, R380) -/

/-- The service of a micro-trap cause (R379); none where the cause does not arise: a WALK that the L1 TLB serves, a FILL of a line that the L1
holds, an EVT without an offer. Deterministic mode uses neither TLB nor L1 (R344). -/
def State.microService (s : State) (n : CoreId) : MicroCause → Option State
  | .walk va acc =>
    let x : Xl := .core n (streamOf acc)
    if s.cores[n].det || !bit (s.rootOf x).1 0 || (tlbFind (s.ownTlb x) (s.rootOf x).2 va).isSome then none else some (s.translateFor x va acc)
  | .fill line => if s.cores[n].det || !isLocalMem line || s.cores[n].l1.contains (lineOf line) then none else some (s.touchLine n line)
  | .corr pa => if isLocalMem pa then some (s.putCell pa (s.cell pa)) else none
  | .evt => (s.sourceFor n).map fun k => s.updCore n fun c => { c with offer := some (k, s.srcs[k].level) }

/-- MICRO_TRAP (R379): the cause is pending before a word whose TMASK is 0 and is served there, the routine that it interrupts going on from the
slot that it was saved to; MTRAP_COUNT counts it (log 47). -/
def execMicroTrap (n : CoreId) (c : MicroCause) (s : State) : Res :=
  .next (if s.cores[n].run == 2 then
    match s.microService n c with
    | some t => t.updCore n fun c => { c with mtrapCnt := inc c.mtrapCnt }
    | none => s
  else s)

/-- MICRO_STEP_LIMIT (R380): the machine check with cause 0x05 and RETRY 0. -/
def execMicroStepLimit (n : CoreId) (s : State) : Res := .next (s.machineCheck n 5 false)

end Sys2Proof.Machine
end

