-- ==== Sys2Proof/Machine/ControlStore.lean ====
section
/-! DEFINITION. The control stores (R368-R385): loading images, the rules for open routines, and UOP0-UOP15. -/

namespace Sys2Proof.Machine

/-! ## The micro-word (R370) -/

abbrev Micro := BitVec 128

def uSeq (w : Micro) : Nat := (bits w 124 4).toNat
def uNext (w : Micro) : BitVec 16 := bits w 104 16
/-- CSELi. -/
def uCsel (w : Micro) (i : Nat) : Nat := (bits w (88 + 4 * i) 4).toNat
def uAlu (w : Micro) : Nat := (bits w 80 8).toNat
def uA (w : Micro) : BitVec 8 := bits w 72 8
def uB (w : Micro) : BitVec 8 := bits w 64 8
def uD (w : Micro) : BitVec 8 := bits w 56 8
def uMem (w : Micro) : Nat := (bits w 52 4).toNat
def uMpr (w : Micro) : PassId := bits w 48 4
def uUnit (w : Micro) : Nat := (bits w 40 4).toNat
def uKpos (w : Micro) : Nat := (bits w 120 2).toNat

/-- A name of R371, and one that may be a destination. -/
def srcName (x : BitVec 8) : Bool := decide (x.toNat ≤ 0x36)
def dstName (x : BitVec 8) : Bool := srcName x && x != 0x30 && x != 0x34 && x != 0x36

/-- Whether a micro-word keeps the rules for open routines (R382). -/
def openOk (w : Micro) : Bool :=
  let jumps := uSeq w == 1 || uSeq w == 2
  let nx := (uNext w).toNat
  decide (uSeq w ≤ 3) && bits w 122 2 == 0 && decide (uKpos w ≤ 2)
    && [0, 1, 2, 3].all (fun i => uCsel w i != 13 && uCsel w i != 14)
    && decide (uAlu w ≤ 0xF) && decide (uUnit w ≤ 3) && decide (uMem w ≤ 6) && (uUnit w == 0 || uAlu w == 0)
    && srcName (uA w) && srcName (uB w) && dstName (uD w)
    && (if jumps then decide (0x4800 ≤ nx) && decide (nx ≤ 0x4FFF) && [0, 1, 2, 3].all (fun i => uCsel w i == 0 || !bit (uNext w) i)
        else nx == 0)
    && bits w 36 4 == 0

/-! ## Parity (R369) -/

/-- Whether a number of set bits is odd. -/
def oddBits {w : Nat} (x : BitVec w) : Bool := (List.range w).foldl (fun p i => p != x.getLsbD i) false

/-- The parity bits of a micro-word: even parity over each half with its bit (log 46). -/
def parityOf (w : Micro) : BitVec 2 := BitVec.ofBool (oddBits (bits w 64 64)) ++ BitVec.ofBool (oddBits (bits w 0 64))

/-- A micro-word as the module writes it, and its check. -/
def MicroWord.of (w : Micro) : MicroWord := { word := w, parity := parityOf w }
def MicroWord.ok (x : MicroWord) : Bool := x.parity == parityOf x.word

/-- The parity of a match register. -/
def MatchReg.parityOf (r : MatchReg) : Bool := (r.en != oddBits r.maddr) != oddBits r.paddr

/-- A match register as the module writes it, and its check. -/
def MatchReg.of (en : Bool) (maddr : BitVec 15) (paddr : BitVec 9) : MatchReg :=
  let r : MatchReg := { en := en, maddr := maddr, paddr := paddr, parity := false }
  { r with parity := r.parityOf }
def MatchReg.ok (r : MatchReg) : Bool := r.parity == r.parityOf

/-! ## The sequencer (R368, R373, R374, R380, R383) -/

/-- The micro-state of a routine: the µPC, the stack, the micro-flags N, Z, V, C, the temporaries, MDR and where it was loaded from,
the general registers as the routine sees them, its speculative stores, the ST flags it has set, and its counts: stores issued, deterministic
steps, and micro-steps with TMASK set since the last safe point. -/
structure Routine where
  upc : Nat
  stack : List Nat
  flags : BitVec 4
  t : Vector Word 16
  mdr : Word
  mdrAt : DAddr
  g : Vector Word 32
  stores : List (WordRef × Word)
  issued : Nat
  steps : Nat
  masked : Nat
  stN : Option Bool
  stZ : Option Bool
  stV : Option Bool
  stC : Option Bool

/-- How a micro-step ends: the routine goes on, has ended, or meets a machine check with its cause and the address that MC_ADDR records. -/
inductive MicroEnd where
  | run (r : Routine)
  | done (r : Routine)
  | check (cause : BitVec 8) (addr : Nat)

/-- A general register of a routine. -/
def Routine.gr (r : Routine) (i : BitVec 5) : Word := if i = 0 then 0 else r.g[i.toNat]'(i.isLt)
def Routine.setG (r : Routine) (i : BitVec 5) (v : Word) : Routine := if i = 0 then r else { r with g := r.g.set i.toNat v i.isLt }

/-- The general register that a name stands for (R371). -/
def nameReg (f : FmtA) (x : BitVec 8) : Option (BitVec 5) :=
  if x.toNat < 0x20 then some (bits x 0 5) else if x = 0x31 then some f.rd else if x = 0x32 then some f.ra
  else if x = 0x33 then some f.rb else none

/-- The K operand (R370). -/
def uK (w : Micro) : Word :=
  let k := bits w 0 36
  match uKpos w with
  | 0 => k.setWidth 72
  | 1 => k.signExtend 72
  | _ => k.setWidth 72 <<< 36

/-- A source operand (R371). -/
def Routine.source (r : Routine) (f : FmtA) (pc : DAddr) (w : Micro) (x : BitVec 8) : Word :=
  match nameReg f x with
  | some i => r.gr i
  | none =>
    if x.toNat < 0x30 then r.t[(bits x 0 4).toNat]'((bits x 0 4).isLt)
    else if x = 0x30 then uK w else if x = 0x34 then f.fn.setWidth 72 else if x = 0x35 then r.mdr else daReg pc

/-- A destination written (R371). -/
def Routine.dest (r : Routine) (f : FmtA) (x : BitVec 8) (v : Word) : Routine :=
  match nameReg f x with
  | some i => r.setG i v
  | none => if x = 0x35 then { r with mdr := v } else { r with t := r.t.set (bits x 0 4).toNat v (bits x 0 4).isLt }

/-- The micro-flags. -/
def mkFlags (n z v c : Bool) : BitVec 4 := BitVec.ofBool n ++ BitVec.ofBool z ++ BitVec.ofBool v ++ BitVec.ofBool c

/-- N and Z of a result with V and C. -/
def resFlags (x : Word) (v c : Bool) : BitVec 4 := mkFlags (bit x 71) (x == 0) v c

/-- An ALU operation (R372): the result, if any, and the micro-flags. -/
def aluOp (code : Nat) (a b : Word) (fl : BitVec 4) : M (Option Word × BitVec 4) :=
  let v := bit fl 1
  let c := bit fl 0
  let logic (x : Word) : M (Option Word × BitVec 4) := pure (some x, resFlags x false c)
  match code with
  | 0x01 => pure (some a, resFlags a false false)
  | 0x02 => pure (some b, resFlags b false false)
  | 0x03 => let (x, o, cy) := addCarry a b false; pure (some x, resFlags x o cy)
  | 0x04 => let (x, o, cy) := addCarry a (~~~b) true; pure (some x, resFlags x o cy)
  | 0x05 => logic (a &&& b)
  | 0x06 => logic (a ||| b)
  | 0x07 => logic (a ^^^ b)
  | 0x08 => logic (a &&& ~~~b)
  | 0x09 => let (x, o, cy) := shiftLeft a b.toNat; pure (some x, resFlags x o (cy.getD c))
  | 0x0A => let (x, cy) := shiftRight a b.toNat; pure (some x, resFlags x false (cy.getD c))
  | 0x0B => let (x, cy) := shiftArith a b.toNat; pure (some x, resFlags x false (cy.getD c))
  | 0x0C => let x := a.rotateLeft (b.toNat % 72); pure (some x, resFlags x v c)
  | 0x0D => do
    let da ← regAddr a
    let (x, o) := advance da b.toInt
    return (some (daReg x), mkFlags false false o false)
  | 0x0E => let k := leadingZeros a; pure (some (BitVec.ofNat 72 k), mkFlags false (k == 0) v c)
  | 0x0F => let k := popCount a; pure (some (BitVec.ofNat 72 k), mkFlags false (k == 0) v c)
  | _ => pure (none, fl)

/-- A decimal operand of a UNIT word, with the fault details of R372. -/
def unitDec (r : Routine) (f : FmtA) (op : Nat) (x : BitVec 8) (v : Word) : M Dec :=
  match firstBad (posList v) 0 with
  | none => pure (packedVal (posList v))
  | some i =>
    match nameReg f x with
    | some g => raise (decRegFault op g i)
    | none => if x = 0x35 then raise { cls := clsDecData, faddr := r.mdrAt, detail := at' (BitVec.ofNat 2 op) 70 } else raise (decRegFault op 0 i)

/-- A UNIT operation (R372). -/
def unitOp (r : Routine) (f : FmtA) (w : Micro) (a b : Word) (fl : BitVec 4) : M (Option Word × BitVec 4) :=
  if uUnit w = 0 then pure (none, fl)
  else do
    let x ← unitDec r f 1 (uA w) a
    let y ← unitDec r f 2 (uB w) b
    if uUnit w = 3 then return (none, mkFlags (x.val < y.val) (x.val == y.val) false (x.val ≥ y.val))
    else
      let v := x.val + (if uUnit w = 2 then -y.val else y.val)
      let d := fitDec 17 (v < 0) v.natAbs
      return (some d.word, mkFlags d.neg (d.mag == 0) d.exceeds false)

/-- How many positions a MEM operation covers. -/
def memLen (k : Nat) : Nat := if k ≤ 2 then 18 else if k ≤ 4 then 2 else 1

/-- The checks of a MEM operand (R62, R372, R383): regions 2 and 3 raise the region-access fault. -/
def microRefs (n : CoreId) (w : Micro) (a : Word) (store : Bool) : M (DAddr × List WordRef) := do
  let da ← regAddr a
  if memLen (uMem w) = 2 then aligned (daPos da % 2 == 0) clsOctetAlign da
  let rs ← operand n 1 (uMpr w) (if store then permStore else permLoad) (if store then .store else .load) da (memLen (uMem w))
  eachL (fun r => match regionOf r.pa with
    | .device | .window | .rDevice => raise { cls := clsRegion, faddr := r.fa, fphys := r.pa }
    | _ => pure ()) rs
  return (da, rs)

/-- The data that a routine's own stores give a word over what memory holds. -/
def overlay (l : List (WordRef × Word)) (pa : WAddr) (v : Word) : Word :=
  l.foldl (fun v x => if x.1.pa == pa then merge x.1.mask x.2 v else v) v

/-- A MEM load. -/
def microLoad (n : CoreId) (w : Micro) (r : Routine) (a : Word) : M (DAddr × Word) := do
  let (da, rs) ← microRefs n w a false
  let ws ← mapL (fun x => do return overlay r.stores x.pa (← loadRef n x)) rs
  return (da, BitVec.ofNat 72 (natOfPos (gather rs ws)))

/-- A MEM store: it stays speculative until the routine completes (R383); the seventeenth raises F01. -/
def microStore (n : CoreId) (w : Micro) (r : Routine) (a b : Word) : M Routine := do
  require (decide (r.issued < 16)) { illegal with code := 3 }
  let (_, rs) ← microRefs n w a true
  let k := memLen (uMem w)
  let l := posOfNat k (b.toNat % 16 ^ k)
  return { r with stores := r.stores ++ rs.zip (scatterPos rs l), issued := r.issued + 1 }

/-- Whether a condition of R373 holds after a word; `trap` says whether a micro-trap cause is pending. -/
def microCond (r : Routine) (f : FmtA) (det trap : Bool) (a : Word) (k : Nat) : Bool :=
  match k with
  | 1 => bit r.flags 2 | 2 => bit r.flags 3 | 3 => bit r.flags 0 | 4 => bit r.flags 1
  | 5 => r.t[15] == 0
  | 6 => posOf r.mdr 17 == 0xB || posOf r.mdr 17 == 0xD
  | 7 => bit a 0
  | 8 => bit f.fn 0 | 9 => bit f.fn 1 | 10 => bit f.fn 2 | 11 => bit f.fn 3
  | 12 => det
  | 13 => trap
  | 15 => true
  | _ => false

/-- The ST flags that FL of a word copies. -/
def Routine.copyFl (r : Routine) (w : Micro) : Routine :=
  { r with
    stN := if bit w 47 then some (bit r.flags 3) else r.stN
    stZ := if bit w 46 then some (bit r.flags 2) else r.stZ
    stV := if bit w 45 then some (bit r.flags 1) else r.stV
    stC := if bit w 44 then some (bit r.flags 0) else r.stC }

/-- The deterministic steps of a micro-step (R384). -/
def microSteps (w : Micro) : Nat := if uMem w ≠ 0 then 2 else match uUnit w with
  | 0 => 1
  | 3 => 2
  | _ => 3

/-- The next micro-address (R373); a fifth nested call raises F01 in open code and the machine check in ROM and patch code. -/
def microNext (r : Routine) (f : FmtA) (det trap own : Bool) (w : Micro) (a : Word) : M MicroEnd :=
  let c := [3, 2, 1, 0].foldl (fun x i => 2 * x + (microCond r f det trap a (uCsel w i)).toNat) 0
  let target := (uNext w ||| BitVec.ofNat 16 c).toNat
  match uSeq w with
  | 0 => pure (.run { r with upc := r.upc + 1 })
  | 1 => pure (.run { r with upc := target })
  | 2 =>
    if r.stack.length < 4 then pure (.run { r with upc := target, stack := (r.upc + 1) :: r.stack })
    else if own then pure (.check 5 r.upc)
    else raise { illegal with code := 4 }
  | _ => match r.stack with
    | [] => pure (.done r)
    | x :: l => pure (.run { r with upc := x, stack := l })

/-- What a fetch of the sequencer gives: a word, and whether it is of ROM or the patch RAM, or a machine check. -/
inductive MicroGot where
  | word (w : Micro) (own : Bool)
  | check (cause : BitVec 8) (addr : Nat)

/-- A word of a loadable store, checked as it is fetched (R369); one that no image has loaded holds free bits (log 3). -/
def storeFetch (l : List (Nat × MicroWord)) (k : Nat) (own : Bool) (cause : BitVec 8) (addr : Nat) : M MicroGot := do
  match l.find? fun e => e.1 == k with
  | some e => return if e.2.ok then .word e.2.word own else .check cause addr
  | none => do
    let hi ← draw
    let lo ← draw
    return .word (bits hi 0 64 ++ bits lo 0 64 : BitVec 128) own

/-- The fetch of a micro-address (R368, R374). An address of 0x0400-0x3FFF is compared with the match registers, each checked for parity, and
an enabled one that equals it puts its patch word in place of the ROM word. What ROM holds the manual does not give (log 47). -/
def microFetch (n : CoreId) (upc : Nat) : M MicroGot := do
  let c ← getCore n
  if upc < 0x4000 then
    match (if upc < 0x400 then none else findIdx (fun r => !r.ok) c.matchRegs.toList 0) with
    | some i => return .check 2 (0x8000 + i)
    | none =>
      match (if upc < 0x400 then none else c.matchRegs.toList.find? fun r => r.en && r.maddr.toNat == upc) with
      | some r => storeFetch c.patch r.paddr.toNat true 2 (0x4000 + r.paddr.toNat)
      | none => return .word (Config.romWord upc) true
  else if upc < 0x4200 then storeFetch c.patch (upc - 0x4000) true 2 upc
  else if 0x4800 ≤ upc ∧ upc < 0x5000 then storeFetch c.ocs (upc - 0x4800) false 1 upc
  else return .check 5 upc

/-- Whether a micro-word names a general register that an outstanding POST or COMMIT writes (R150). -/
def namesPost (c : Core) (f : FmtA) (w : Micro) : Bool :=
  [uA w, uB w, uD w].any fun x => (nameReg f x).any fun i => c.posts.any fun p => p.rt != 0 && p.rt == i

/-- Micro-steps with TMASK set since the last safe point, once a word has been counted (R380). -/
def maskedAfter (k : Nat) (w : Micro) : Nat := (if bit w 123 then 0 else k) + (bit w 122).toNat

/-- The operation of a word (R372). Codes that belong to ROM and patch microcode have a result that the manual does not give, a free value. -/
def microOp (r : Routine) (f : FmtA) (w : Micro) (a b : Word) : M (Option Word × BitVec 4) :=
  if uAlu w ≥ 0x10 || uUnit w ≥ 4 then do
    let v ← draw
    let x ← draw
    return (some v, bits x 0 4)
  else if uUnit w = 0 then aluOp (uAlu w) a b r.flags
  else unitOp r f w a b r.flags

/-- One micro-step. A word of the open store that breaks the rules for open routines meets the machine check of R368, and so does the 65th step
with TMASK set since a safe point (R380). When a word's ALU or UNIT and its MEM both write MDR, MDR is a free value. -/
def microStep (n : CoreId) (f : FmtA) (pc : DAddr) (r : Routine) : M MicroEnd := do
  match ← microFetch n r.upc with
  | .check cause addr => return .check cause addr
  | .word w own =>
    let masked := maskedAfter r.masked w
    if (!own && !openOk w) || 64 < masked then return .check 5 r.upc
    else
      let c ← getCore n
      if namesPost c f w then throw .wait
      else
        let r := { r with steps := r.steps + microSteps w, masked := masked }
        let a := r.source f pc w (uA w)
        let b := r.source f pc w (uB w)
        let (x, fl) ← microOp r f w a b
        let (r, loaded) ← match uMem w with
          | 0 => pure (r, false)
          | 1 | 3 | 5 => do
            let (da, v) ← microLoad n w r a
            pure ({ r with mdr := v, mdrAt := da }, true)
          | 2 | 4 | 6 => do
            let r ← microStore n w r a b
            pure (r, false)
          | _ => pure (r, false)
        let clash ← draw
        let r := match x with
          | some v => if loaded && uD w == 0x35 then { r with mdr := clash } else r.dest f (uD w) v
          | none => r
        let trap ← look fun s => (s.sourceFor n).isSome
        microNext (({ r with flags := fl } : Routine).copyFl w) f c.det trap own w a

/-- A routine from where it stands; the 257th micro-step raises F01. Fuel: micro-steps. -/
def microRun (n : CoreId) (f : FmtA) (pc : DAddr) : Nat → Routine → M MicroEnd
  | 0, _ => raise { illegal with code := 2 }
  | k + 1, r => do
    match ← microStep n f pc r with
    | .run r => microRun n f pc k r
    | e => return e

/-- The core after a routine: its registers and the ST flags that it set. -/
def Core.finish (c : Core) (r : Routine) : Core :=
  { c.setNZVC (r.stN.getD c.flagN) (r.stZ.getD c.flagZ) (r.stV.getD c.flagV) (r.stC.getD c.flagC) with g := r.g }

/-- UOPn (R75, R383): the routine completes whole or raises a fault that changes nothing. A parity error has RETRY 1, for the commit point of an
ordinary instruction is its completion (R381). -/
def uopBody (n : CoreId) (k : Fin 16) (f : FmtA) : M Next := do
  let s0 ← get
  let c ← getCore n
  require (bit c.ocsv k.val) { illegal with code := 1 }
  let t ← mapL (fun _ => draw) (List.range 16)
  let mdr ← draw
  let at_ ← draw
  let r0 : Routine :=
    { upc := 0x4800 + 128 * k.val, stack := [], flags := 0, t := Vector.ofFn fun i => t.getD i.val 0, mdr := mdr, mdrAt := bits at_ 0 57,
      g := c.g, stores := [], issued := 0, steps := 0, masked := 0, stN := none, stZ := none, stV := none, stC := none }
  match ← microRun n f c.pc 256 r0 with
  | .done r => do
    eachL (fun x => markChg (.core n 1) x.1.ent) r.stores
    eachL (fun x => putRef n x.1 x.2) r.stores
    modCore n fun c => (c.finish r).charge r.steps
    return .seq
  | .check cause addr => do
    set (if s0.checkable n then
      (if cause = 5 then s0.machineCheck n 5 false
       else (s0.updCore n (Core.noteParity (BitVec.ofNat 16 addr))).machineCheck n cause true)
     else s0)
    return .stay
  | .run _ => return .stay

/-- The shape of UOP: the registers that its fields name; the routine waits for those that its words name as it comes to them (R150). -/
def shapeUop (f : FmtA) : Shape := { regs := FmtA.regs f, steps := 3 }

/-- UOP (R383). -/
def execUop (n : CoreId) (k : Fin 16) (f : FmtA) (s : State) : Res := .next (s.runIns n (shapeUop f) (uopBody n k f))

/-! ## Loading (R376-R378) -/

/-- LRES codes. -/
abbrev lresDone : BitVec 8 := 0
abbrev lresHeader : BitVec 8 := 1
abbrev lresCount : BitVec 8 := 2
abbrev lresMatch : BitVec 8 := 3
abbrev lresWord : BitVec 8 := 4
abbrev lresChanged : BitVec 8 := 5
abbrev lresRequest : BitVec 8 := 6

/-- The micro-words of an image: pairs of image words. -/
def microWords : List Word → List Micro
  | hi :: lo :: r => (bits hi 0 64 ++ bits lo 0 64 : BitVec 128) :: microWords r
  | _ => []

/-- A match word (R377). -/
def matchOf (w : Word) : MatchReg := MatchReg.of (bit w 71) (bits w 56 15) (bits w 47 9)

/-- The counts of an image, when IH and IC are well formed: match words and micro-words (R377). -/
def imageCounts (ih ic : Word) : Except (BitVec 8) (Nat × Nat) :=
  if (bits ih 68 4 != 1 && bits ih 68 4 != 2) || bits ih 64 4 != 1 || bits ih 0 64 == 0 then .error lresHeader
  else if bits ih 68 4 = 1 then
    let m := (bits ic 66 6).toNat
    let w := (bits ic 56 10).toNat
    if bits ic 0 56 != 0 then .error lresHeader else if m > 32 ∨ w > 512 then .error lresCount else .ok (m, w)
  else
    let w := (bits ic 33 12).toNat
    if bits ic 0 33 != 0 then .error lresHeader
    else if w < 1 ∨ w > 2048 ∨ (bits ic 45 11).toNat + w > 2048 then .error lresCount else .ok (0, w)

/-- The checks on the rest of an image (R378): match words, then micro-words. -/
def imageCheck (ih ic : Word) (ms ws : List Word) (nword : Nat) : Option (BitVec 8) :=
  let rs := ms.map matchOf
  let matchesOk := ms.all (fun w => bit w 71 && bits w 0 47 == 0) && decide (rs.Pairwise fun a b => a.maddr ≠ b.maddr)
    && rs.all fun r => decide (0x400 ≤ r.maddr.toNat) && decide (r.maddr.toNat ≤ 0x3FFF) && decide (r.paddr.toNat < nword)
  let first := (bits ic 45 11).toNat
  let entriesOk := bits ih 68 4 == 1 || (List.range 16).all fun n =>
    !bit ic (56 + n) || (decide (first ≤ 128 * n) && decide (128 * n < first + nword))
  let wordsOk := ws.all (fun w => bits w 64 8 == 0) && (bits ih 68 4 == 1 || (microWords ws).all openOk)
  if !matchesOk then some lresMatch else if !(entriesOk && wordsOk) then some lresWord else none

/-- A patch image installed (R378). -/
def Core.loadPatch (c : Core) (id : BitVec 64) (ms ws : List Word) : Core :=
  let rs := ms.map matchOf
  { c with
    matchRegs := Vector.ofFn fun i => rs.getD i.val (MatchReg.of false 0 0),
    patch := (List.range (ws.length / 2)).zip ((microWords ws).map MicroWord.of), mcPid := id }

/-- An open image installed over its range (R378). -/
def Core.loadOpen (c : Core) (id : BitVec 64) (ic : Word) (ws : List Word) (nword : Nat) : Core :=
  let first := (bits ic 45 11).toNat
  let inside (k : Nat) : Bool := decide (first ≤ k) && decide (k < first + nword)
  { c with
    ocs := ((List.range nword).map (first + ·)).zip ((microWords ws).map MicroWord.of) ++ c.ocs.filter fun e => !inside e.1,
    ocsv := (List.range 16).foldl (fun m n => if inside (128 * n) then setBit m n (bit ic (56 + n)) else m) c.ocsv, mcOid := id }

/-- LRES set. -/
def setLres (n : CoreId) (r : BitVec 8) : M Unit := modCore n fun c => { c with lres := r, mcLoad := inc c.mcLoad }

/-- Words of an image tested and read under P[PREG] (R378). -/
def imageRead (n : CoreId) (p : PassReg) (i : PassId) (addr : WAddr) (len : Nat) : M (List WordRef × List Word) := do
  let rs ← checkField (.core n 1) p i permLoad .post (daOf addr 0) (18 * len)
  let ws ← mapL (loadRef n) rs
  return (rs, ws)

/-- A patch set disabled (R376, R378). -/
def Core.noPatches (c : Core) : Core := { c with matchRegs := Vector.replicate 32 (MatchReg.of false 0 0) }

/-- The target of a load emptied (R378): every match register of a patch image, the entries of an open image's range. -/
def Core.emptyTarget (c : Core) (ih ic : Word) : Core :=
  if bits ih 68 4 = 1 then c.noPatches
  else
    let first := (bits ic 45 11).toNat
    let inside (k : Nat) : Bool := decide (first ≤ k) && decide (k < first + (bits ic 33 12).toNat)
    { c with ocsv := (List.range 16).foldl (fun m n => if inside (128 * n) then setBit m n false else m) c.ocsv }

/-- Pass 2 of a load (R378): the target is emptied, the image read again and written. A fault, or a word that now fails a check of pass 1, ends it
with CHANGED. -/
def loadAgain (n : CoreId) (p : PassReg) (i : PassId) (addr : WAddr) (ih ic : Word) (m w : Nat) : M Unit := do
  let before ← getCore n
  modCore n fun c => c.emptyTarget ih ic
  let changed : M Unit := do
    modCore n fun c => { c with mcPid := if bits ih 68 4 = 1 then 0 else c.mcPid }
    setLres n lresChanged
  match imageRead n p i addr (2 + m + 2 * w) (← get) with
  | .error .wait t => do
    set (t.updCore n fun c => { c with matchRegs := before.matchRegs, ocsv := before.ocsv })
    throw .wait
  | .error (.fault _) t => do
    set t
    changed
  | .ok (_, l) t => do
    set t
    let ih := l.getD 0 0
    let ic := l.getD 1 0
    let ms := (l.drop 2).take m
    let ws := l.drop (2 + m)
    let same := match imageCounts ih ic with
      | .ok k => k == (m, w)
      | .error _ => false
    if same && (imageCheck ih ic ms ws w).isNone then
      modCore n fun c => (if bits ih 68 4 = 1 then c.loadPatch (bits ih 0 64) ms ws else c.loadOpen (bits ih 0 64) ic ws w).charge (14 + m + 2 * w)
      setLres n lresDone
    else changed

/-- The load of an image (R378), charged as R378 gives. -/
def loadImage (n : CoreId) (p : PassReg) (i : PassId) (addr : WAddr) : M Unit := do
  let (_, head) ← imageRead n p i addr 2
  let ih := head.getD 0 0
  let ic := head.getD 1 0
  match imageCounts ih ic with
  | .error r => setLres n r
  | .ok (m, w) => do
    let rest ← if m + 2 * w = 0 then pure ([], []) else imageRead n p i (addr + 2) (m + 2 * w)
    match imageCheck ih ic (rest.2.take m) (rest.2.drop m) w with
    | some r => setLres n r
    | none => loadAgain n p i addr ih ic m w

/-- What a store to MC_LOAD does (R376). -/
def mcLoadStore (n : CoreId) (v : Word) : M Unit := do
  let op := bits v 68 2
  let i : PassId := bits v 64 4
  let p := (← getCore n).pr i
  require p.valid (passFault 1 i 0)
  require (!p.sealed) (passFault 2 i 0)
  require (p.grants (if op = 0 then permPatch ||| permLoad else permPatch)) (passFault 3 i 0)
  if bits v 70 2 != 0 || bits v 52 12 != 0 || op == 3 then setLres n lresRequest
  else if op = 0 then loadImage n p i (bits v 0 52)
  else if op = 1 then do
    modCore n fun c => { c.noPatches with mcPid := 0 }
    setLres n lresDone
  else do
    modCore n fun c => { c with ocsv := 0 }
    setLres n lresDone

/-- MC_STAT (R385). -/
def Core.mcStat (c : Core) : Word :=
  at' c.ocsv 56 ||| at' (BitVec.ofNat 6 (c.matchRegs.toList.filter fun r => r.en).length) 50 ||| at' (1 : BitVec 8) 42 ||| at' c.lres 0

end Sys2Proof.Machine
end

