-- ==== Sys2Proof/Machine/Host.lean ====
section
/-! DEFINITION. The Wynex host interface: queue pairs, doorbells, jobs and completions (R422-R443). The registers of the setup space
are in Setup.lean. -/

namespace Sys2Proof.Machine

/-! ## Events and errors -/

/-- Bit k of HI_EVT set, which raises source 304 + k (R443). -/
def State.hiEvt (s : State) (k : Nat) : State :=
  ({ s with hi := { s.hi with evt := setBit s.hi.evt k true } } : State).raise (304 + k)

/-- Bit k of HI_QP_EVT of a pair set, which raises source 320 + (q >> 5) (R427). -/
def State.qpEvt (s : State) (q : QpId) (k : Nat) : State :=
  (s.updQp q fun p => { p with evt := setBit p.evt k true }).raise (320 + q.val / 32)

/-- A setup write without effect (R418, R422). -/
def State.barErr (s : State) : State := ({ s with hi := { s.hi with barErr := inc s.hi.barErr } } : State).hiEvt 1

/-- A request answered with an error or not answered (R426). -/
def State.dmaErr (s : State) : State := ({ s with hi := { s.hi with dmaErr := inc s.hi.dmaErr } } : State).hiEvt 2

/-- STATE of a pair (R427). -/
abbrev qpDisabled : BitVec 4 := 0
abbrev qpActive : BitVec 4 := 1
abbrev qpError : BitVec 4 := 2
abbrev qpDraining : BitVec 4 := 3

/-- Fields of HI_QP_CTL (R427). -/
def Qp.en (p : Qp) : Bool := bit p.ctl 31
def Qp.credit (p : Qp) : Bool := bits p.ctl 29 2 == 1
def Qp.fn (p : Qp) : Nat := (bits p.ctl 24 5).toNat
def Qp.sqSlots (p : Qp) : Nat := 2 ^ max 4 (bits p.ctl 20 4).toNat
def Qp.cqLog (p : Qp) : Nat := max 4 (bits p.ctl 16 4).toNat
def Qp.cqSlots (p : Qp) : Nat := 2 ^ p.cqLog

/-- INPROG: jobs taken and not yet completed (R427). -/
def State.inProgress (s : State) (q : QpId) : Nat := (s.qpJobs q).length

/-- Whether the pair has completion room: its jobs in progress, the completions that wait in the module and the written ones not yet consumed are
fewer than its slots (R435, log 16). -/
def State.cqRoom (s : State) (q : QpId) : Bool :=
  let p := s.hi.qps[q]
  decide (s.inProgress q + p.waiting.length + (p.cqt.toNat - p.cqh.toNat) < p.cqSlots)

/-- Whether the pair may take an entry (R435). -/
def State.mayTake (s : State) (q : QpId) : Bool :=
  s.hi.qps[q].state == qpActive && decide (s.inProgress q < 16) && decide (s.hi.jobs.length < 256) && s.cqRoom q

/-! ## The doorbell watcher's list (R432) -/

/-- The shortest and longest poll interval as they are used (R422). -/
def State.pollMin (s : State) : Nat := max 100 s.hi.pollMin.toNat
def State.pollMax (s : State) : Nat := max s.pollMin (min 100000 s.hi.pollMax.toNat)

/-- A word on the list or off it. A word enters with the shortest interval and is due at once. -/
def State.watchWord (s : State) (w : Watched) (addr : BitVec 64) (want : Bool) : State :=
  let on := s.hi.watch.any fun x => x.word == w
  if want == on then s
  else if want then
    { s with hi := { s.hi with watch :=
        s.hi.watch ++ [{ word := w, addr := addr, ival := s.pollMin, due := s.now, inFlight := false, last := 0 }] } }
  else { s with hi := { s.hi with watch := s.hi.watch.filter fun x => x.word != w } }

/-- The words of a pair that are watched (R432, R439, R442): the SQ doorbell of an active pair with room or an active credit pair, and
the CQ head of a pair without completion room. Finding none sets CQWAIT. -/
def State.settleWatch (s : State) (q : QpId) : State :=
  let p := s.hi.qps[q]
  let active := p.state == qpActive
  let full := !p.credit && p.state != qpDisabled && p.err != 6 && !s.cqRoom q
  let had := s.hi.watch.any fun x => x.word == .cq q
  let s := s.watchWord (.sq q) p.sqDb (active && (p.credit || (decide (s.inProgress q < 16) && s.cqRoom q)))
  let s := s.watchWord (.cq q) p.cqDb full
  if full && !had then s.qpEvt q 1 else s

/-- A pair enters ERROR (R440). A draining pair goes on draining. -/
def State.failQp (s : State) (q : QpId) (code : BitVec 8) : State :=
  let p := s.hi.qps[q]
  if p.state == qpDisabled || p.state == qpError then s
  else
    let s := s.updQp q fun p => { p with state := if p.state == qpDraining then qpDraining else qpError, err := code }
    (((s.qpEvt q 0).hiEvt 3).settleWatch q)

/-! ## Enabling and disabling (R428, R429) -/

/-- The binding entry of a pair, or none when none is in force or it cannot be read (R428, R429). -/
def State.readBinding (s : State) (q : QpId) : Option Binding :=
  let a := s.hi.bindBase + BitVec.ofNat 52 (16 * q.val)
  if s.hi.bindBase = 0 ∨ !rangeInMem a 11 ∨ s.anyBad a 11 ∨ !bit (s.data a) 71 then none
  else
    some
      { space := bits (s.data a) 0 16, troot := bits (s.data (a + 1)) 0 52, dpass := s.getPass (a + 2), ppass := s.getPass (a + 4),
        cpass := s.getPass (a + 6), apass := s.getPass (a + 8), vstage := bits (s.data (a + 10)) 0 52 }

/-- The words of a pair's binding entry that the module reads and finds uncorrectable raise their banks' sources (R321). -/
def State.readsBinding (s : State) (q : QpId) : State :=
  let a := s.hi.bindBase + BitVec.ofNat 52 (16 * q.val)
  if s.hi.bindBase = 0 ∨ !rangeInMem a 11 then s else s.raiseBadIn a 11

/-- Enabling a disabled pair (R428). A pair of a function that is off makes no request and ends with FN-OFF (R442). -/
def State.qpStart (s : State) (q : QpId) : State :=
  let s := (s.readsBinding q).updQp q fun p => { p with state := qpActive, err := 0, bind := s.readBinding q }
  let p := s.hi.qps[q]
  if p.bind.isNone then s.failQp q 1
  else if bit s.hi.fnOff p.fn then s.failQp q 6
  else if s.hostPadded p.sqDb.toNat != 0 || s.hostPadded p.cqDb.toNat != 0 then s.failQp q 2
  else (s.updQp q fun p => { p with sqh := 0, sqt := 0, cqt := 0, cqh := 0, waiting := [] }).settleWatch q

/-- A draining pair with nothing left becomes DISABLED (R428); with EN set again meanwhile it is then enabled. -/
def State.qpDrained (s : State) (q : QpId) : State :=
  let p := s.hi.qps[q]
  if p.state == qpDraining && s.inProgress q == 0 && p.waiting.isEmpty then
    let s := (s.updQp q fun p => { p with state := qpDisabled }).settleWatch q
    if p.en then s.qpStart q else s
  else s

/-- EN of a pair changes (R428). -/
def State.setEn (s : State) (q : QpId) (en : Bool) : State :=
  let p := s.hi.qps[q]
  let s := s.updQp q fun p => { p with ctl := setBit p.ctl 31 en }
  if en && !p.en && p.state == qpDisabled then s.qpStart q
  else if !en && (p.state == qpActive || p.state == qpError) then
    ((s.updQp q fun p => { p with state := qpDraining }).settleWatch q).qpDrained q
  else s

/-! ## Polling (R431, R432, R441) -/

/-- The function under which a watched word is read. -/
def State.watchFn (s : State) (x : WatchEnt) : Nat :=
  match x.word with
  | .sq q | .cq q => s.hi.qps[q].fn
  | .ack _ => 0

/-- DOORBELL_POLL (R432): up to 64 reads are in flight, and when more fall due they are issued in the order of their due times. -/
def execDoorbellPoll (w : Watched) (s : State) : Host.Outcome State Fault Refusal :=
  .next (match s.hi.watch.find? fun x => x.word == w with
  | none => s
  | some x =>
    let flying := (s.hi.watch.filter fun y => y.inFlight).length
    let before := (s.hi.watch.filter fun y => !y.inFlight && decide (y.due.toNat < x.due.toNat)).length
    if x.inFlight || decide (s.now.toNat < x.due.toNat) || decide (64 ≤ flying + before) || bit s.hi.fnOff (s.watchFn x) then s
    else
      let s : State := { s with hi := { s.hi with
        watch := mapIf (fun y => y.word == w) (fun y => { y with inFlight := true }) s.hi.watch, pollCnt := inc s.hi.pollCnt } }
      if x.due.toNat + 1000 < s.now.toNat then
        ({ s with hi := { s.hi with pollLate := inc s.hi.pollLate } } : State).hiEvt 4
      else s)

/-- A submission count that the watcher read (R431, R441). -/
def State.takeSq (s : State) (q : QpId) (t : Nat) : State :=
  let p := s.hi.qps[q]
  if p.state != qpActive then s
  else if p.credit then
    if t < p.sqt.toNat || p.sqt.toNat + 2 ^ 32 ≤ t then s.failQp q 3
    else
      let d := t - p.sqt.toNat
      let s := s.updQp q fun p => { p with sqt := BitVec.ofNat 64 t }
      let e := (bits p.ctl 11 5).toNat
      if h : e < 24 then (if d = 0 then s else s.addCredit ⟨e, h⟩ (Fin.ofNat 4 (bits p.ctl 9 2).toNat) d) else s
  else if t < p.sqh.toNat || p.sqh.toNat + p.sqSlots < t then s.failQp q 3
  else s.updQp q fun p => { p with sqt := BitVec.ofNat 64 t }

/-- A completion head that the watcher read (R431). -/
def State.takeCq (s : State) (q : QpId) (h : Nat) : State :=
  let p := s.hi.qps[q]
  if h < p.cqh.toNat || p.cqt.toNat < h then s.failQp q 4
  else (s.updQp q fun p => { p with cqh := BitVec.ofNat 64 h }).settleWatch q

/-- A watched word's read returns: the next interval (R432), then what the value says. -/
def State.pollResult (s : State) (x : WatchEnt) : State :=
  let v := s.hostPadded x.addr.toNat
  let n := bits v 0 64
  let ival := if n != x.last then s.pollMin else min (2 * x.ival) s.pollMax
  let s : State := { s with hi := { s.hi with watch := mapIf (fun y => y.word == x.word) (fun y =>
    { y with inFlight := false, ival := ival, due := s.now + BitVec.ofNat 64 ival, last := n }) s.hi.watch } }
  match x.word with
  | .sq q => s.takeSq q n.toNat
  | .cq q => s.takeCq q n.toNat
  | .ack _ => s.ackWord v

/-- DOORBELL_READ_RESULT (R431). -/
def execDoorbellReadResult (w : Watched) (s : State) : Host.Outcome State Fault Refusal :=
  .next (match s.hi.watch.find? fun x => x.word == w && x.inFlight with
  | some x => s.pollResult x
  | none => s)

/-- JOURNAL_ACK_READ (R200): the read of the acknowledgement word of a running export that is in flight, or that falls due now. -/
def execJournalAckRead (s : State) : Host.Outcome State Fault Refusal :=
  let isAck (x : WatchEnt) : Bool := match x.word with
    | .ack _ => true
    | _ => false
  .next (match s.hi.watch.find? fun x => isAck x && (x.inFlight || decide (x.due.toNat ≤ s.now.toNat)) with
  | some x => if x.inFlight then s.pollResult x else
      ({ s with hi := { s.hi with pollCnt := inc s.hi.pollCnt } } : State).pollResult x
  | none => s)

/-! ## Taking an entry (R433-R435) -/

/-- The parameter bits that a job of an assigned type names, for S1, S2 and S3; none for an unassigned type (R434). Unit jobs check their
own parameters. -/
def jobParams (opc : Nat) : Option (Nat × Nat × Nat) :=
  let all := 2 ^ 72 - 1
  match opc with
  | 0x00 | 0x11 | 0x12 => some (0, 0, 0)
  | 0x01 | 0x02 => some (2 ^ 64 - 1, 0, 0)
  | 0x03 | 0x04 => some (2 ^ 52 - 1, 2 ^ 64 - 1, 2 ^ 21 - 1)
  | 0x05 => some (31, 2 ^ 52 - 1, 0)
  | 0x10 => some (all, 0, 0)
  | 0x13 => some (all, all, 0)
  | n => if 0x40 ≤ n ∧ n ≤ 0x4B then some (all, all, all) else none

/-- Whether a word has bits outside a mask. -/
def beyond (w : Word) (m : Nat) : Bool := w &&& ~~~(BitVec.ofNat 72 m) != 0

/-- The status with which an entry completes at once: BAD-OPCODE for an unassigned type, BAD-FIELD for a nonzero bit that no field names or
a DEPTH other than 0 in a job that is not a unit job (R433, R434). -/
def entryStatus (s0 s1 s2 s3 : Word) : Option (BitVec 8) :=
  let opc := (bits s0 64 8).toNat
  match jobParams opc with
  | none => some jobBadOpcode
  | some (a, b, c) =>
    let unit := decide (0x40 ≤ opc)
    if bits s0 40 5 != 0 || bits s0 0 18 != 0 || beyond s1 a || beyond s2 b || beyond s3 c || (!unit && bits s0 37 3 != 0)
        || ((opc == 1 || opc == 2) && !bit s0 47 && bits s1 52 20 != 0) then some jobBadField
    else none

/-- A new job in progress. -/
def State.addJob (s : State) (o : JobOrigin) (s0 s1 s2 s3 : Word) : Job × State :=
  let x : Job :=
    { id := s.hi.nextJob, origin := o, s0 := s0, s1 := s1, s2 := s2, s3 := s3, started := false, progress := 0, ticket := none,
      since := s.now, wait := none, arrived := [], tally := none }
  (x, { s with hi := { s.hi with jobs := s.hi.jobs ++ [x], nextJob := s.hi.nextJob + 1 } })

/-- JOB_FETCH (R435): the next entry is read whole and its job is in progress. -/
def execJobFetch (q : QpId) (s : State) : Host.Outcome State Fault Refusal :=
  let p := s.hi.qps[q]
  .next (if !p.credit && s.mayTake q && decide (p.sqh.toNat < p.sqt.toNat) && !bit s.hi.fnOff p.fn then
    let a := p.sqBase.toNat + 64 * (p.sqh.toNat % p.sqSlots)
    let w (k : Nat) : Word := s.hostPadded (a + 16 * k)
    let s := s.updQp q fun p => { p with sqh := inc p.sqh }
    let (x, s) := s.addJob (.qp q) (w 0) (w 1) (w 2) (w 3)
    let s := match entryStatus (w 0) (w 1) (w 2) (w 3) with
      | some st => s.finishJob x st 0 0
      | none => s
    s.settleWatch q
  else s)

/-! ## The jobs of the host (R434) -/

/-- What follows work of a job on a state: the job goes on, or it completes with the status of a fault (R437) and a RESULT. -/
def State.jobResult (x : Job) (result : Word) : EStateM.Result Stop State Unit → State
  | .ok _ t => t
  | .error .wait t => t
  | .error (.fault f) t =>
    let (st, d) := t.faultStatus f
    let t := t.finishJob x st d result
    match x.qp with
    | some q => (t.settleWatch q).qpDrained q
    | none => t

/-- A job that completes, and what its queue pair does then. -/
def State.jobOver (s : State) (x : Job) (status detail : BitVec 8) (result : Word) : State :=
  let s := s.finishJob x status detail result
  match x.qp with
  | some q => (s.settleWatch q).qpDrained q
  | none => s

/-- A job at pair or vale scope with what it has gathered (R491, R492): it completes when no answer is to come. At vale scope the RESULT
counts the pairs that completed, and PARTIAL names the status of the first that did not. -/
def State.tallied (s : State) (x : Job) (t : Tally) : State :=
  if t.left ≠ 0 then s.updJob x.id fun y => { y with tally := some t }
  else if t.vale then
    if t.status = 0 then s.jobOver x jobDone 0 (BitVec.ofNat 72 t.done) else s.jobOver x 0x86 t.status (BitVec.ofNat 72 t.done)
  else s.jobOver x t.status t.detail t.result

/-- One answer counted. At pair scope a failure of the other side stands when this side had none, and so does its CHECK code. -/
def Tally.answer (t : Tally) (check : Bool) (status detail : BitVec 8) (result : Word) : Tally :=
  let t := { t with left := t.left - 1 }
  if t.vale then
    if status = 0 then { t with done := t.done + 1 } else { t with status := if t.status = 0 then status else t.status }
  else if t.status ≠ 0 then t
  else if status ≠ 0 then { t with status := status, detail := detail, result := result }
  else if check && bits t.result 64 8 == 0 then { t with result := result }
  else t

/-- The answer to one part of a unit job. -/
def State.unitAnswer (s : State) (j : JobId) (status detail : BitVec 8) (result : Word) : State :=
  match s.job j with
  | none => s
  | some x =>
    match x.tally with
    | none => s.jobOver x status detail result
    | some t => s.tallied x (t.answer (x.opc == 0x46) status detail result)

/-- A job that completes; one that is a part of another answers it. -/
def State.jobEnd (s : State) (x : Job) (status detail : BitVec 8) (result : Word) : State :=
  match x.origin with
  | .part j => (s.dropJob x.id).unitAnswer j status detail result
  | _ => s.jobOver x status detail result

/-- JOB_NOP (R434). -/
def execJobNop (j : JobId) (s : State) : Host.Outcome State Fault Refusal :=
  .next (match s.jobFor j 0 with
  | some x => s.jobEnd x jobDone 0 0
  | none => s)

/-- Padded words from host memory. -/
def State.hostWords (s : State) (a n : Nat) : List Word := (List.range n).map fun i => s.hostPadded (a + 16 * i)

/-- The vector or block of a POST or COMMIT with HV 1, read from the host into VSTAGE under PPASS (R434). -/
def stageVector (b : Binding) (commit : Bool) (h : Nat) : M Unit := do
  let s ← get
  let n := if commit then 2 + ((bits (s.hostPadded h) 64 4).toNat + 1) else 3 + 2 * ((bits (s.hostPadded (h + 16)) 64 4).toNat + 1)
  let x : Xl := .job b.space b.troot
  let rs ← checkField x b.ppass 0 permStore .store (daOf b.vstage 0) (18 * n)
  eachL (fun r => require (isLocalMem r.pa) { cls := clsRegion, faddr := r.fa, fphys := r.pa }) rs
  eachL (fun y => do
    markChg x y.1.ent
    upd fun s => s.putWord y.1.pa y.2) (rs.zip (s.hostWords h n))

/-- A POST or COMMIT issued (R434): once it is submitted, its completion word completes the job. -/
def jobPosting (x : Job) (b : Binding) (commit : Bool) : M Unit := do
  if x.hv then
    require ((bits x.s1 0 4) == 0) { cls := clsWordAlign }
    stageVector b commit (bits x.s1 0 64).toNat
  let da := daOf (if x.hv then b.vstage else bits x.s1 0 52) 0
  let rd : Reader := { x := .job b.space b.troot, pass := b.ppass, preg := 0 }
  let (ws, slot) ← if commit then readBlock rd da else readVector rd da
  upd fun s =>
    let (t, s) := s.submit (.job x.id) commit slot ws
    s.updJob x.id fun y => { y with started := true, ticket := some t }

/-- A POST or COMMIT job that has not been issued yet. -/
def State.issueJob (s : State) (j : JobId) (commit : Bool) : State :=
  match s.jobFor j (if commit then 2 else 1) with
  | none => s
  | some x =>
    if x.ticket.isSome then s
    else match s.binding x with
      | none => s.jobEnd x jobPass 1 0
      | some b => State.jobResult x 0 (jobPosting x b commit s)

/-- JOB_POST (R434). -/
def execJobPost (j : JobId) (s : State) : Host.Outcome State Fault Refusal := .next (s.issueJob j false)

/-- JOB_COMMIT (R434). -/
def execJobCommit (j : JobId) (s : State) : Host.Outcome State Fault Refusal := .next (s.issueJob j true)

/-- The checked module word of a MEMREAD or MEMWRITE (R434): word i. -/
def jobWord (x : Job) (b : Binding) (a : Acc) (need : BitVec 12) : M WordRef := do
  let va := (bits x.s1 0 52).toNat + x.progress
  let fa := daOf (BitVec.ofNat 52 va) 0
  require (decide (va < 2 ^ 52)) { cls := clsRange, faddr := fa }
  let rs ← checkField (.job b.space b.troot) b.dpass 0 need a fa 18
  match rs with
  | r :: _ => do
    require (isLocalMem r.pa) { cls := clsRegion, faddr := fa, fphys := r.pa }
    return r
  | [] => raise { cls := clsRange, faddr := fa }

/-- The host octet address of word i of a job's host data. -/
def Job.hostAt (x : Job) : Nat := (bits x.s2 0 64).toNat + (if x.padded then 16 else 9) * x.progress

/-- One word moved (R434). A poisoned word of a region that heals is waited for (R321). -/
def moveWord (x : Job) (b : Binding) (write : Bool) : M Unit := do
  let r ← jobWord x b (if write then .store else .load) (if write then permStore else permLoad)
  if write then
    markChg (.job b.space b.troot) r.ent
    upd fun s =>
      let v := if x.padded then s.hostPadded x.hostAt else wordOfOctets (s.hostOctets x.hostAt 9)
      s.putWord r.pa v
  else
    let s ← get
    if (s.cell r.pa).bad then
      if x.arrived.any fun a => a.pa == r.pa then raise (dataFault r.fa r.pa)
      else
        upd fun s => s.raiseBad r.pa
        if s.canHeal r.pa then
          upd fun s => (s.startHeal (BitVec.ofNat 24 (offsetOf r.pa))).updJob x.id fun y => { y with wait := some r.pa, started := true }
          throw .wait
        else raise (dataFault r.fa r.pa)
    else upd fun s =>
      if x.padded then s.putHostPadded x.hostAt (s.data r.pa) else s.putHostOctets x.hostAt (octetList (s.data r.pa))

/-- One word of a MEMREAD or MEMWRITE; the last completes the job with the words transferred. -/
def State.moveJob (s : State) (j : JobId) (write : Bool) : State :=
  match s.jobFor j (if write then 4 else 3) with
  | none => s
  | some x =>
    let n := (bits x.s3 0 21).toNat
    if x.wait.isSome then s
    else if n = 0 || 2 ^ 20 < n then s.jobEnd x jobBadField 0 0
    else if x.padded && bits x.s2 0 4 != 0 then s.jobEnd x 0x07 0x03 0
    else match s.binding x with
      | none => s.jobEnd x jobPass 1 0
      | some b =>
        if bit s.hi.fnOff ((x.qp.map fun q => s.hi.qps[q].fn).getD 0) then s.jobEnd x jobHostDma 0 (BitVec.ofNat 72 x.progress)
        else match moveWord x b write s with
          | .ok _ t =>
            if x.progress + 1 = n then t.jobEnd x jobDone 0 (BitVec.ofNat 72 n)
            else t.updJob j fun y => { y with started := true, progress := x.progress + 1, arrived := [] }
          | r => State.jobResult x (BitVec.ofNat 72 x.progress) r

/-- MEMREAD (R434). -/
def execMemread (j : JobId) (s : State) : Host.Outcome State Fault Refusal := .next (s.moveJob j false)

/-- MEMWRITE (R434). -/
def execMemwrite (j : JobId) (s : State) : Host.Outcome State Fault Refusal := .next (s.moveJob j true)

/-- CHSTART (R434): as a store to CH_START with CPASS. -/
def execChstart (j : JobId) (s : State) : Host.Outcome State Fault Refusal :=
  .next (match s.jobFor j 5 with
  | none => s
  | some x =>
    let e := (bits x.s1 0 5).toNat
    match s.binding x with
    | none => s.jobEnd x jobPass 1 0
    | some b =>
      if h : e < 24 then
        match chStart (.job b.space b.troot) b.cpass ⟨e, h⟩ (bits x.s2 0 52 |>.setWidth 72) s with
        | .ok w t => t.jobEnd x jobDone 0 w
        | .error r t => State.jobResult x 0 (.error r t)
      else s.jobEnd x jobBadField 0 0)

/-! ## Completions (R436, R439, R440) -/

/-- Whether a waiting completion keeps the order of R435: a POST or COMMIT follows every one of its pair that was taken before it. -/
def State.mayWrite (s : State) (q : QpId) (c : Completion) : Bool :=
  !c.post || (!((s.qpJobs q).any fun x => (x.opc == 1 || x.opc == 2) && decide (x.id < c.job))
    && !(s.hi.qps[q].waiting.any fun d => d.post && decide (d.job < c.job)))

/-- The completion that the module writes next for a pair: C1, then C0, at the next slot, when the ring has a slot that the host has
released (R436). -/
def State.writeCompletion (s : State) (q : QpId) : State :=
  let p := s.hi.qps[q]
  if p.err == 6 && p.state != qpDisabled then
    ((s.updQp q fun p => { p with waiting := [] }).settleWatch q).qpDrained q
  else
    match p.waiting.find? (s.mayWrite q) with
    | none => s
    | some c =>
      if p.state == qpDisabled || decide (p.cqSlots ≤ p.cqt.toNat - p.cqh.toNat) || bit s.hi.fnOff p.fn then s
      else
        let a := p.cqBase.toNat + 32 * (p.cqt.toNat % p.cqSlots)
        let c0 := at' c.cid 48 ||| at' (bits p.sqh 0 16) 32 ||| at' c.status 24 ||| at' c.detail 16 ||| flagAt (!bit p.cqt p.cqLog) 0
        let s := (s.putHostPadded (a + 16) c.result).putHostPadded a c0
        ((s.updQp q fun p => { p with cqt := inc p.cqt, waiting := p.waiting.filter fun d => d.job != c.job }).settleWatch q).qpDrained q

/-- COMPLETION_WRITE (R436). -/
def execCompletionWrite (q : QpId) (s : State) : Host.Outcome State Fault Refusal := .next (s.writeCompletion q)

/-! ## Resets and errors (R426, R442) -/

/-- FUNCTION_RESET (R442). -/
def execFunctionReset (fn : Fin 32) (s : State) : Host.Outcome State Fault Refusal :=
  let mine := (List.finRange 1024).filter fun q => s.hi.qps[q].fn == fn.val && s.hi.qps[q].state != qpDisabled
  let s := mine.foldl (fun s q =>
    let s := (s.failQp q 6).updQp q fun p => { p with err := 6, waiting := [] }
    (s.settleWatch q).qpDrained q) s
  .next (({ s with hi := { s.hi with fnOff := setBit s.hi.fnOff fn.val true } } : State).hiEvt 6)

/-- A PCIe error through an aperture (R426). -/
def State.aptErr (s : State) : State := (s.dmaErr).hiEvt 5

/-- HOST_DMA_ERROR (R426): the requester reports it. A core's load faults precisely, an engine's load and store end its CCW (R409, R410), a
core's store is a late store error, a ring access puts its pair in ERROR, and job data end the job. -/
def execHostDmaError (r : Requester) (s : State) : Host.Outcome State Fault Refusal :=
  .next (match r with
  | .coreLoad n f =>
    let check : M WordRef := do
      let _ ← fetchDecode n { regs := FmtM.regs f }
      let da ← mEA n f
      let rs ← operand n 1 f.pr permLoad .load da 1
      return rs.headD { va := 0, fa := 0, mask := 0, pa := 0, ent := flatEnt 0 }
    match (if s.cores[n].ready (FmtM.regs f) then check s else .error .wait s) with
    | .ok w _ =>
      if regionOf w.pa == .window then
        s.aptErr.runIns n { regs := FmtM.regs f } (raise (dataFault w.fa w.pa))
      else s
    | .error _ _ => s
  | .coreStore n pa => if regionOf pa == .window then s.aptErr.lateStore n 6 pa else s
  | .engineLoad e pa =>
    if regionOf pa == .window && s.engines[e].running.isSome then
      s.aptErr.updEng e fun x => { x with arrived := x.arrived ++ [{ pa := pa, status := 3, word := 0 }] }
    else s
  | .engineStore e pa =>
    if regionOf pa == .window && s.engines[e].running.isSome then s.aptErr.engStoreFailed e pa 6 else s
  | .ring q => if s.hi.qps[q].state == qpDisabled then s else s.dmaErr.failQp q 5
  | .jobData j =>
    match s.job j with
    | some x =>
      if x.qp.isSome && x.ticket.isNone && (x.opc == 3 || x.opc == 4 || ((x.opc == 1 || x.opc == 2) && x.hv)) && (x.started || s.mayStart x) then
        s.dmaErr.jobEnd x jobHostDma 0 (BitVec.ofNat 72 x.progress)
      else s
    | none => s)

/-- PCIE_LINK_CHANGE (R422). -/
def execPcieLinkChange (link : BitVec 16) (s : State) : Host.Outcome State Fault Refusal :=
  let v := link &&& 0x0FFF
  .next (if v == s.hi.link then s else ({ s with hi := { s.hi with link := v } } : State).hiEvt 0)

end Sys2Proof.Machine
end

