-- ==== Sys2Proof/Machine/Fabric.lean ====
section
/-! DEFINITION. The Luabo fabric: links, forwarding, responses, resends and time (R444-R464). The requests that this module serves as a
target are in Target.lean. -/

namespace Sys2Proof.Machine

/-- One fabric link replaced by a function of it. -/
def State.updLink (s : State) (l : Fin 8) (f : FabLink → FabLink) : State :=
  { s with lb := { s.lb with links := s.lb.links.set l (f s.lb.links[l]) } }

/-! ## Links (R444-R449) -/

/-- The room of the seven buffers of R461. -/
def bufferRoom : Vector Nat 7 := #v[64, 64, 64, 64, 16, 16, 8]

/-- Credits returned in a codeword's CRED field, 4 bits for each buffer in the order of R444. -/
def FabLink.credited (x : FabLink) (c : BitVec 28) : FabLink :=
  { x with cred := Vector.ofFn fun (i : Fin 7) => min bufferRoom[i] (x.cred[i] + (bits c (24 - 4 * i.val) 4).toNat) }

/-- A link goes out of service, or an attempt to return it fails, and retraining begins (R446). The packets that it holds go by the other plane, or
are dropped, as R452 gives; a late time packet is worthless. -/
def State.linkDown (s : State) (l : Fin 8) : State :=
  let x := s.lb.links[l]
  let s := s.updLink l fun x =>
    { x with up := false, key := false, train := true, good := 0, dropped := 0, nak := false, store := [], fullSince := none, held := [], turn := 0 }
  let s := if x.up then s.setLbEvt l.val else s
  (x.held.filter fun p => p.vc != 3).foldl State.route s

/-- The codewords after CACK are still unacknowledged (R445). -/
def afterAck (cack : BitVec 12) (l : List (BitVec 12 × Packet)) : List (BitVec 12 × Packet) :=
  match findIdx (fun c => c.1 == cack) l 0 with
  | some i => l.drop (i + 1)
  | none => l

/-- What a replay of codewords sends again: slots of VC3 are sent as empty (R445). -/
def replayed (l : Fin 8) (rest : List (BitVec 12 × Packet)) : List SentPacket :=
  (rest.filter fun c => c.2.vc != 3).map fun c => { link := some l, packet := c.2 }

/-- CODEWORD_RECEIVE (R445, R446): on a link in service or in its last 64 codewords before service. -/
def execCodewordReceive (l : Fin 8) (cw : Codeword) (s : State) : Host.Outcome State Fault Refusal :=
  let x := s.lb.links[l]
  .next (if !x.up && !x.key then s
  else
    let s := if cw.corrected && cw.fecOk then s.updLink l fun x => { x with corr := inc x.corr } else s
    if !cw.fecOk || !cw.lcrcOk || cw.cseq != inc x.csRx then
      let s := (s.updLink l fun x => { x with uncorr := inc x.uncorr, nak := true, dropped := x.dropped + 1, good := 0 }).setLbEvt 8
      if 8 ≤ x.dropped + 1 then s.linkDown l else s
    else
      let rest := afterAck cw.cack x.store
      let s := s.updLink l fun x =>
        ({ x.credited cw.cred with
            csRx := cw.cseq, lastGood := s.now, dropped := 0, good := x.good + 1, nak := false, store := rest,
            replay := if cw.nak then x.replay + BitVec.ofNat 32 rest.length else x.replay } : FabLink).noteFull s.now
      let s : State := if cw.nak then { s with lb := { s.lb with out := s.lb.out ++ replayed l rest } } else s
      let s := if x.key && decide (64 ≤ x.good + 1) then (s.updLink l fun x => { x with up := true, key := false }).setLbEvt l.val else s
      s.pumpLink l)

/-- FABRIC_LINK_SILENCE (R446). -/
def execFabricLinkSilence (l : Fin 8) (s : State) : Host.Outcome State Fault Refusal :=
  let x := s.lb.links[l]
  .next (if (x.up || x.key) && decide (x.lastGood.toNat + 2000 ≤ s.now.toNat) then s.linkDown l else s)

/-- FABRIC_REPLAY_STORE_FULL (R446): the store has held its 128 codewords for 2 us. -/
def execFabricReplayStoreFull (l : Fin 8) (s : State) : Host.Outcome State Fault Refusal :=
  let x := s.lb.links[l]
  .next (match x.fullSince with
  | some t => if x.up && decide (t.toNat + 2000 ≤ s.now.toNat) then s.linkDown l else s
  | none => s)

/-- A coordinate moved on by k in a dimension of size S. -/
def movedCoord (p : PairId) (d : Nat) (k S : Nat) : PairId := setBits p (8 - 4 * d) 4 (BitVec.ofNat 4 ((coord p d + k) % S))

/-- The neighbour of a link (R448), or none when it would be the module itself or the express link is not enabled (R447). -/
def State.neighbour (s : State) (l : Fin 8) : Option PairId :=
  let d := if l.val < 6 then l.val / 2 else l.val - 6
  let S := s.dimSize d
  let p := s.applied.lbPair
  if l.val < 6 then (if S = 1 then none else some (movedCoord p d (if l.val % 2 = 0 then 1 else S - 1) S))
  else if s.express d then some (movedCoord p d (S / 2) S) else none

/-- The link number at the far end of a link (R448, R449). -/
def farLink (l : Fin 8) : Fin 8 := if l.val < 6 then Fin.ofNat 8 (if l.val % 2 = 0 then l.val + 1 else l.val - 1) else l

/-- What the far end of a link reported in training, judged (R447). -/
def State.trained (s : State) (l : Fin 8) (f : FarEnd) : State :=
  let ok := s.neighbour l == some f.pair && f.side == s.ws.side && f.link == farLink l
  let s := s.updLink l fun x => { x with far := f.pair ++ BitVec.ofBool f.side, miswire := !ok }
  if ok then
    s.updLink l fun x =>
      { x with train := false, key := true, delay := f.delay, csTx := 0, csRx := 0, store := [], fullSince := none, held := [], turn := 0,
               good := 0, dropped := 0, nak := false, lastGood := s.now, cred := bufferRoom }
  else s.setLbEvt 15

/-- Whether a link is trained at all: it has a neighbour (R447), and its cable ties Ll_KEY to GND (R506). -/
def State.trainable (s : State) (l : Fin 8) : Bool := (s.neighbour l).isSome && bit s.brd.linkKeys l.val

/-- FABRIC_RETRAIN_DONE (R446, R447): an attempt on a link that trains; with no answer it is repeated. -/
def execFabricRetrainDone (l : Fin 8) (far : Option FarEnd) (s : State) : Host.Outcome State Fault Refusal :=
  .next (match far with
  | some f => if s.brd.powered && s.lb.links[l].train && s.trainable l then s.trained l f else s
  | none => s)

/-! ## Forwarding (R450-R453) -/

/-- PACKET_FORWARD (R450, R452, R453): a packet that is not at its destination. -/
def execPacketForward (p : Packet) (s : State) : Host.Outcome State Fault Refusal :=
  let pairCast := p.type == 6 || p.type == 8 || (p.type == 7 && (bits p.hw1 8 4).toNat == 1)
  .next (if p.dpair == s.applied.lbPair && (p.dside == s.ws.side || pairCast) then s
  else if p.ttl = 0 then s.dropPacket
  else s.route { p with ttl := p.ttl - 1 })

/-! ## Responses (R456, R458) -/

/-- Whether a packet's ECRC is good (R454). -/
def packetIntact (p : Packet) : Bool := p.ecrc == packetCode p

/-- Whether a packet of a type is delivered here (R454): the destination drops it when its ECRC fails. -/
def State.here (s : State) (p : Packet) (type : BitVec 4) : Bool :=
  s.brd.powered && p.type == type && packetIntact p && p.dpair == s.applied.lbPair && p.dside == s.ws.side

/-- A packet counted as delivered (R466). -/
def State.received (s : State) : State := { s with lb := { s.lb with rxCnt := inc s.lb.rxCnt } }

/-- The request of a type that a response answers: the series' waiting list loses it, and the wait of the next oldest begins (R458). Either
side of a pair may answer a UNIT request (R456). -/
def State.answered (s : State) (p : Packet) (type : BitVec 4) : Option ReqFor × State :=
  let events := type == 3
  let from_ (x : Series) : Bool := x.pair == p.spair && (x.side == p.sside || type == 8) && x.events == events
  match s.lb.series.find? fun x => from_ x && x.waiting.any fun w => w.1 == p.eseq && w.2.2.type == type with
  | none => (none, s)
  | some x =>
    let isIt (y : Series) : Bool := y.pair == x.pair && y.side == x.side && y.events == x.events
    match x.waiting.find? fun w => w.1 == p.eseq && w.2.2.type == type with
    | none => (none, s)
    | some w =>
      let oldest := x.waiting.head?.any fun v => v.1 == p.eseq
      let y : Series :=
        { x with waiting := x.waiting.filter fun v => v.1 != p.eseq, since := if oldest then s.now else x.since,
                 resends := if oldest then 0 else x.resends }
      (some w.2.1, { s with lb := { s.lb with series := mapIf isIt (fun _ => y) s.lb.series } })

/-- A remote word reaches the unit that waits for it. -/
def State.loadAnswer (s : State) (f : ReqFor) (status : BitVec 8) (words : List Word) : State :=
  let a (pa : WAddr) : Arrived :=
    { pa := pa, status := status, word := words.getD (if words.length = 8 then (pa &&& 7).toNat else 0) 0 }
  match f with
  | .coreLoad n pa =>
    let s := if status = 0 && words.length == 8 then
        s.updQuad (quadOf n) fun q =>
          { q with remote := (pa &&& ~~~(7 : WAddr), words) :: q.remote.filter fun e => e.1 != (pa &&& ~~~(7 : WAddr)) }
      else s
    if s.cores[n].wait == some pa then s.updCore n fun c => { c with wait := none, arrived := c.arrived ++ [a pa] } else s
  | .engineLoad e pa =>
    if s.engines[e].wait == some pa then s.updEng e fun x => { x with wait := none, arrived := x.arrived ++ [a pa] } else s
  | _ => s

/-- LOAD_RSP (R456). -/
def execLoadRsp (p : Packet) (s : State) : Host.Outcome State Fault Refusal :=
  .next (if !s.here p 4 then s
  else match s.received.answered p 1 with
    | (some f, s) => s.loadAnswer f (bits p.hw1 64 8) p.payload
    | (none, s) => s)

/-- The cause of R322 for a status of R456. -/
def storeCause (status : BitVec 8) : BitVec 8 := match status.toNat with
  | 1 => 1 | 2 => 2 | 3 => 5 | _ => 7

/-- A store's status reaches its issuer. -/
def State.storeAnswer (s : State) (f : ReqFor) (cause : BitVec 8) : State :=
  match f with
  | .coreStore n pa => s.lateStore n cause pa
  | .event n => s.lateStore n cause 0
  | .engineStore e pa => if s.engines[e].running.isSome then s.engStoreFailed e pa cause else s
  | _ => s

/-- ACK (R456): of a store, or of an EVENT, whose ESEQ series is its own. A number that waits in both series answers the store, unless the
status is one that only an EVENT has (log 25). -/
def execAck (p : Packet) (s : State) : Host.Outcome State Fault Refusal :=
  .next (if !s.here p 5 then s
  else
    let s := s.received
    let status := bits p.hw1 64 8
    let r := match (if status = 5 then (none, s) else s.answered p 2) with
      | (some f, t) => (some f, t)
      | (none, t) => t.answered p 3
    match r with
    | (some f, t) => if status = 0 then t else t.storeAnswer f (storeCause status)
    | (none, t) => t)

/-! ## Resends (R458) -/

/-- A request completes as undelivered (R458). -/
def State.undelivered (s : State) (f : ReqFor) : State :=
  let s := ({ s with lb := { s.lb with undeliv := inc s.lb.undeliv } } : State).setLbEvt 11
  match f with
  | .coreLoad _ _ | .engineLoad _ _ => s.loadAnswer f 3 []
  | .unit j => s.unitAnswer j jobHostDma 0 0
  | _ => s.storeAnswer f 3

/-- ESEQ_RESEND (R458). -/
def execEseqResend (pair : PairId) (side : Bool) (events : Bool) (s : State) : Host.Outcome State Fault Refusal :=
  let isIt (x : Series) : Bool := x.pair == pair && x.side == side && x.events == events
  .next (match s.lb.series.find? isIt with
  | none => s
  | some x =>
    if x.waiting.isEmpty || decide (s.now.toNat < x.since.toNat + 10000) then s
    else
      let set_ (y : Series) (s : State) : State := { s with lb := { s.lb with series := mapIf isIt (fun _ => y) s.lb.series } }
      if x.resends < 3 then
        let s := set_ { x with resends := x.resends + 1, since := s.now } s
        let s := ({ s with lb := { s.lb with retryCnt := inc s.lb.retryCnt } } : State).setLbEvt 14
        x.waiting.foldl (fun s w => s.issue w.2.2) s
      else x.waiting.foldl (fun s w => s.undelivered w.2.1) (set_ { x with waiting := [], resends := 0 } s))

/-! ## Time (R464) -/

/-- A TIME packet on every link in service that a test picks. -/
def State.sendTime (s : State) (t : BitVec 64) (pick : Fin 8 → Bool) : State :=
  (List.finRange 8).foldl (fun s l =>
    if pick l && s.lb.links[l].up then
      ({ s with lb := { s.lb with txCnt := inc s.lb.txCnt } } : State).emit (some l)
        (packetCoded { packet 9 3 0 s.ws.side 0x7F (at' t 8) [] with spair := s.applied.lbPair, sside := s.ws.side })
    else s) s

/-- The counter's new reference (R464). -/
def State.setReference (s : State) (ref : BitVec 64) : State :=
  let d : Int := (ref.toNat : Int) - s.now.toNat
  let s : State := { s with lb := { s.lb with lastTime := ref, timeErr := BitVec.ofInt 32 d } }
  if 1000 < d then ({ s with now := ref, lb := { s.lb with drift := 0 } } : State).setLbEvt 10
  else { s with lb := { s.lb with drift := d, lastTime := s.now } }

/-- TIME_PACKET (R464): accepted only from the upstream link. -/
def execTimePacket (l : Fin 8) (t : BitVec 64) (s : State) : Host.Outcome State Fault Refusal :=
  .next (match s.nextLink s.applied.lbTmaster with
  | some (u, _) =>
    if u == l && s.lb.links[l].up then
      let ref := t + (s.lb.links[l].delay).setWidth 64
      (s.received.setReference ref).sendTime ref fun k => k != l
    else s
  | none => s)

/-- TIME_MASTER_SEND (R464): every 1 us on the master pair. -/
def execTimeMasterSend (s : State) : Host.Outcome State Fault Refusal :=
  .next (if s.applied.lbPair == s.applied.lbTmaster && decide (s.lb.lastMaster.toNat + 1000 ≤ s.now.toNat) then
    ({ s with lb := { s.lb with lastMaster := s.now } } : State).sendTime s.now fun _ => true
  else s)

/-- TIME_LOST (R464): the counter runs free. -/
def execTimeLost (s : State) : Host.Outcome State Fault Refusal :=
  .next (if s.applied.lbPair != s.applied.lbTmaster && decide (s.lb.lastTime.toNat + 10000 ≤ s.now.toNat) then
    ({ s with lb := { s.lb with drift := 0 } } : State).setLbEvt 9
  else s)

end Sys2Proof.Machine
end

