-- ==== Sys2Proof/Machine/Twin.lean ====
section
/-! DEFINITION. The Watershed: roles and the role record, the twin links, the journal stream, reconnection and synchronisation, healing,
witnesses and the Watershed jobs (R203-R236). -/

namespace Sys2Proof.Machine

/-! ## The role record (R205) -/

/-- The four words of the role record. -/
def State.roleWords (s : State) : List Word :=
  [at' s.ws.term 24 ||| at' s.ws.role 21 ||| at' s.ws.lrole 19 ||| flagAt s.ws.side 18 ||| at' s.ws.gen 0, at' s.ws.mseq 24,
   at' s.ws.soloFirst 24, at' s.ws.ahor 24]

/-- The role record written to the copy that is not current, which becomes current. No Plain write begins without power (R500). -/
def State.writeRole (s : State) : State :=
  if !s.brd.powered then s else
  let c := !s.ws.copy
  let s : State := { s with ws := { s.ws with gen := inc s.ws.gen, copy := c, lastWrite := s.now } }
  s.putWords (plainAddr (0xFF0010 + (if c then 4 else 0))) s.roleWords

/-- WSEQ: the last sequence number written (R208). -/
def State.wseq (s : State) : BitVec 48 :=
  match s.led.recs.find? fun r => !r.trailer && !r.written with
  | some r => r.seq - 1
  | none => if s.led.seqNext = 0 then 0 else s.led.seqNext - 1

/-- The WS_EVT bit of entering a role (R236), where there is one. -/
def roleEvt (r : BitVec 3) : Option Nat := match r.toNat with
  | 0 => some 1
  | 3 => some 2
  | 4 => some 6
  | 5 => some 5
  | _ => none

/-- A role change (R216): counted, recorded, and reported. A module that starts to sequence exports from its own JN_APOS (R201). -/
def State.setRole (s : State) (r : BitVec 3) : State :=
  if s.ws.role = r then s
  else
    let leads := s.leads
    let s : State := { s with ws := { s.ws with
      role := r, roleCnt := inc s.ws.roleCnt, lrole := if 1 ≤ r.toNat ∧ r.toNat ≤ 3 then bits r 0 2 else s.ws.lrole } }
    let s : State := if !leads && s.leads then { s with led := { s.led with xpos := s.led.apos } } else s
    let s := s.writeRole
    match roleEvt r with
    | some k => s.setWsEvt k
    | none => s

/-- The status with which waiting requests complete when a role is left for another (R217). -/
def leaveStatus (r : BitVec 3) : BitVec 8 := if r = 4 ∨ r = 5 then 0x43 else 0x41

/-- A role taken, with what R217 asks of a module that leaves LEADER or SOLO. -/
def State.toRole (s : State) (r : BitVec 3) : State :=
  let s := if s.leads && r != 1 && r != 3 then s.stopLeading (leaveStatus r) else s
  let s : State := if r = 1 ∨ r = 3 then s else { s with ws := { s.ws with synced := false } }
  s.setRole r

/-! ## Frames sent -/

/-- ACK (R208, R211). -/
def State.sendAck (s : State) : State := s.sendBoth 2 (six [at' s.wseq 24, at' s.ws.term 24, at' s.tblk 24])

/-- The words of a HEARTBEAT (R208). -/
def State.beatWords (s : State) : List Word :=
  six [at' s.ws.term 24 ||| at' s.ws.role 21 ||| flagAt s.ws.side 20 ||| flagAt s.ws.synced 19, at' s.wseq 24, at' s.led.apos 0,
       at' s.ws.ahor 24]

/-- The settings digest (R223): SHA-256 over the applied settings of R138 and R175, each a packed word, in ascending offset; its first
nine octets (log 18). -/
def Settings.digest (x : Settings) : Word :=
  wordOfOctets ((digestOctets (sha256 (serialise [x.peCellBase.setWidth 72, x.peCellCount.setWidth 72, x.peRuleBase.setWidth 72,
    x.peRuleCount.setWidth 72, x.peFilterBase.setWidth 72, x.peCtl.setWidth 72, x.jnRingBase.setWidth 72, x.jnRingLog2.setWidth 72,
    x.jnCtl.setWidth 72]))).take 9)

/-- RECON on each link in service; the exchange is under way (R215, R223). -/
def State.sendRecon (s : State) : State :=
  let w0 := (s.roleWords).getD 0 0
  ({ s with ws := { s.ws with recon := some s.now } } : State).sendBoth 8
    [w0, at' s.ws.mseq 24, at' s.ws.soloFirst 24, at' s.ws.ahor 24, at' s.wseq 24, s.applied.digest]

/-- The exchange starts unless it is under way (R223); a module in a side conflict does not pair (R203). -/
def State.startRecon (s : State) : State := if s.ws.recon.isSome || s.ws.sideConflict then s else s.sendRecon

/-- A grant word of R218, solo, with zero in its low bits. -/
def grantWord (term : BitVec 48) (pair : PairId) (side : Bool) : Word := at' term 24 ||| at' pair 12 ||| flagAt side 11

/-- A GRANT-MSG of the Watershed (R455). -/
def State.grantMsg (s : State) (dst : PairId) (side : Bool) (vc : BitVec 2) (kind : BitVec 4) (role : BitVec 3) (payload : List Word) :
    State :=
  if (s.blocked dst).isSome then s else s.issue (packet 7 vc dst side 0x61 (at' kind 8 ||| at' role 0) payload)

/-- Whether the module asks a peer witness (R221, R236). -/
def State.asksWitness (s : State) : Bool := let m := (bits s.applied.wsCtl 0 2).toNat; m == 1 || m == 2

/-- GREQ to the witness pair (R221). -/
def State.sendGreq (s : State) : State :=
  ({ s with ws := { s.ws with lastGreq := s.now } } : State).grantMsg s.applied.wsWitness false 0 1 0
    [grantWord s.ws.term s.applied.lbPair s.ws.side, at' s.wseq 24]

/-! ## Links (R209) -/

/-- The position after the record of a sequence number, by the ring (R225); JN_WPOS when the ring does not show it. -/
def State.endOf (s : State) (c : BitVec 48) : Nat :=
  let rs := s.ringRecords.filter fun r => recType r.2 != 6
  match rs.find? fun r => recSeq r.2 == c + 1 with
  | some r => r.1
  | none =>
    match rs.find? fun r => recSeq r.2 == c with
    | some r => r.1 + (recLen r.2).getD 0 + (if c.toNat % 64 = 0 then 12 else 0)
    | none => s.led.wpos.toNat

/-- The records and the written trailers in the ring from JN_APOS on, each as its position, its length, its last sequence number and whether it is a
trailer. -/
def State.ringPieces (s : State) : List (Nat × Nat × BitVec 48 × Bool) :=
  s.ringRecords.flatMap fun r =>
    let n := (recLen r.2).getD 0
    if recType r.2 = 6 then [(r.1, n, BitVec.ofNat 48 (64 * (bits r.2 0 48).toNat + 64), true)]
    else
      let slot := r.1 + n
      let written := !(s.led.recs.any fun x => x.trailer && !x.written && x.pos.toNat == slot)
      (r.1, n, recSeq r.2, false) :: (if (recSeq r.2).toNat % 64 = 0 && written then [(slot, 12, recSeq r.2, true)] else [])

/-- The ring words that no ACK covers: records above a number, and trailers of blocks from TBLK on (R209, R211). -/
def State.unackedWords (s : State) (aseq : BitVec 48) : List (Nat × Nat) :=
  (s.ringPieces.filter fun x =>
    if x.2.2.2 then decide (s.ws.twinTblk.toNat ≤ blockOf x.2.2.1) else decide (aseq.toNat < x.2.2.1.toNat)).foldl
      (fun l x => addRange l x.1 x.2.1) []

/-- Nothing waits to be sent to the twin. -/
def State.quiet (s : State) : State := { s with ws := { s.ws with txq := [], queue := [] } }

/-- Runs of a Plain region as COPY-START and COPY frames (R227), each read at the module's horizon. A run holds whole cells: at most 65,532 words. Fuel:
words. -/
def State.runFrames (s : State) (off len : Nat) : Nat → Nat → List WaitFrame
  | 0, _ => []
  | fuel + 1, i =>
    if len ≤ i then []
    else
      let n := min 65532 (len - i / 65532 * 65532)
      let k := min 6 (n - i % 65532)
      (if i % 65532 = 0 then
        [{ kind := 6, pos := 0, words := six [BitVec.ofNat 72 (off + i), BitVec.ofNat 72 n, at' s.ws.ahor 24] }] else []) ++
      { kind := 7, pos := BitVec.ofNat 16 (i % 65532), words := six (s.getWords (plainAddr (off + i)) k) } :: s.runFrames off len fuel (i + k)

/-- The ring words from JN_APOS to the last record written as Plain regions: one, or two when they wrap. -/
def State.ringRegions (s : State) : List (Nat × Nat) :=
  let b := s.applied.jnRingBase.toNat
  let n := 2 ^ s.applied.jnRingLog2.toNat
  let p := s.led.apos.toNat % n
  let k := s.ringEnd - s.led.apos.toNat
  if p + k ≤ n then [(b + p, k)] else [(b + p, n - p), (b, k - (n - p))]

/-- The number of Plain words a full copy brings beside the ring (R227). -/
def State.copyTotal (s : State) : Nat :=
  let x := s.applied
  (if x.peCellCount = 0 then 0 else 2 ^ 20) + 4 * x.peCellCount.toNat + 4 * x.peRuleCount.toNat

/-- A full copy (R227): a HEARTBEAT with the JN_APOS that it begins at, then the filter, the ring, the cells and the rules, all at the source's
horizon. -/
def State.sendCopy (s : State) : State :=
  let x := s.applied
  let rs := (if x.peCellCount = 0 then [] else [(x.peFilterBase.toNat, 2 ^ 20)]) ++ s.ringRegions ++
    [(x.peCellBase.toNat, 4 * x.peCellCount.toNat), (x.peRuleBase.toNat, 4 * x.peRuleCount.toNat)]
  let fr : List WaitFrame := { kind := 3, pos := 0, words := s.beatWords } :: rs.flatMap fun r => s.runFrames r.1 r.2 r.2 0
  ({ s with ws := { s.ws with copied := s.copyTotal, queue := s.ws.queue ++ fr } } : State).pump

/-- A twin link goes out of service: it retrains, and what no ACK covers is sent again on the other link, or on the first that returns (R209). A full
copy that was under way begins again (log 52). -/
def State.twinDown (s : State) (l : Fin 2) : State :=
  let s := (s.updTwin l fun t =>
    { t with up := false, training := true, good := 0, store := [], fullSince := none, rtry := false }).setWsEvt 7
  if s.streams then
    let s : State := { s with ws := { s.ws with txq := s.unackedWords s.ws.twinAseq } }
    if s.ws.sync == 1 && s.ws.copied != 0 && !s.ws.twinSynced then
      ({ s with ws := { s.ws with queue := s.ws.queue.filter fun f => f.kind != 6 && f.kind != 7 } } : State).sendCopy
    else s.pump
  else s.pump

/-- The frames that the far end has not taken, by its FACK. -/
def unacked (fack : BitVec 8) (l : List SentFrame) : List SentFrame :=
  match findIdx (fun x => x.fseq == fack) l 0 with
  | some i => l.drop (i + 1)
  | none => l

/-- The frames of a link replayed in order (R209); a frame replayed for the eighth time takes the link out of service. -/
def State.replayTwin (s : State) (l : Fin 2) : State :=
  let t := s.ws.links[l]
  let fr := t.store.map fun x => { x.stamp t.rx false with replays := x.replays + 1 }
  let s := s.updTwin l fun t => { t with store := fr }
  let s : State := { s with ws := { s.ws with replayCnt := s.ws.replayCnt + BitVec.ofNat 32 fr.length, out := s.ws.out ++ fr } }
  if fr.any fun x => decide (8 ≤ x.replays) then s.twinDown l else s

/-- The payload of a frame. -/
def frameWords (fr : Frame) : List Word := [fr.w0, fr.w1, fr.w2, fr.w3, fr.w4, fr.w5]

/-- The CRC that a frame should carry (R207). -/
def frameCode (fr : Frame) : BitVec 32 := frameCrc fr.kind fr.fseq fr.fack fr.rtry fr.pos (frameWords fr)

/-- Whether a frame of a kind passes its CRC; one of a reserved kind is discarded as if it had failed (R208). -/
def frameGood (fr : Frame) (kind : BitVec 4) : Bool := fr.kind == kind && fr.crc == frameCode fr

/-- A frame arrives on a link (R207, R209). The state after it, and whether its content is taken: a valid frame on a link in service. -/
def State.frameIn (s : State) (l : Fin 2) (kind : BitVec 4) (fr : Frame) : State × Bool :=
  let t := s.ws.links[l]
  if t.training then (s, false)
  else if !frameGood fr kind || fr.fseq != inc t.rx then
    (s.updTwin l fun t => { t with crcCnt := inc t.crcCnt, rtry := true, good := 0 }, false)
  else
    let st := unacked fr.fack t.store
    let s := s.updTwin l fun t => ({ t with rx := fr.fseq, lastGood := s.now, store := st, good := t.good + 1 } : TwinLink).noteFull s.now
    let s := if fr.rtry then s.replayTwin l else s
    let t := s.ws.links[l]
    if t.up then (s.pump, true)
    else if !t.training && decide (64 ≤ t.good) then
      (((s.updTwin l fun t => { t with up := true, lastBeat := s.now }).setWsEvt 7).pump, true)
    else (s, false)

/-- A valid frame of the module's term: the lease is renewed (R214). -/
def State.renew (s : State) : State := { s with ws := { s.ws with contact := true, lastTerm := s.now } }

/-- FENCED or DIVERGENT (R214). -/
def apart (r : BitVec 3) : Bool := r == 4 || r == 5

/-- A valid frame that names a term (R214): the lease renewed, or the reconnection exchange started. The state, and whether the frame is
of the module's own term and contact. -/
def State.termIn (s : State) (term : BitVec 48) (role : BitVec 3) : State × Bool :=
  if apart role || apart s.ws.role || s.ws.sideConflict then (s.renew, term == s.ws.term)
  else if term != s.ws.term then (s.startRecon, false)
  else if !s.ws.contact then (s.renew.startRecon, true)
  else (s.renew, true)

/-- A valid frame that names no term (R214): it renews the lease while the twin is in contact under the module's term. -/
def State.plainIn (s : State) : State := if s.ws.contact then s.renew else s

/-- IDLE (R208, R214). -/
def execIdle (l : Fin 2) (fr : Frame) (s : State) : Host.Outcome State Fault Refusal :=
  .next (match s.frameIn l 0 fr with
  | (s, true) => s.plainIn
  | (s, false) => s)

/-! ## The follower (R210-R213, R227) -/

/-- The full position that a POS stands for: the one nearest to JN_WPOS (R210). -/
def State.fullPos (s : State) (pos : BitVec 16) : Int :=
  (s.led.wpos.toNat : Int) + (pos - bits s.led.wpos 0 16).toInt

/-- Whether a position lies in the slot of a trailer that is not known to be on both twins: what the leader sends for it is taken. -/
def State.openSlot (s : State) (q : Nat) : Bool :=
  s.led.recs.any fun r => r.trailer && decide (s.ws.twinTblk.toNat ≤ blockOf r.seq) && decide (r.pos.toNat ≤ q) && decide (q < r.pos.toNat + 12)

/-- STREAM (R210): the words are taken for their positions; those already held are discarded. -/
def execStream (l : Fin 2) (fr : Frame) (s : State) : Host.Outcome State Fault Refusal :=
  .next (match s.frameIn l 1 fr with
  | (s, false) => s
  | (s, true) =>
    let s := s.plainIn
    if s.ws.role != 2 then s
    else
      let p := s.fullPos fr.pos
      let ws := ((frameWords fr).zip (List.range 6)).filterMap fun x =>
        let q := p + x.2
        if 0 ≤ q && (decide (s.led.wpos.toNat ≤ q.toNat) || s.openSlot q.toNat) then some (q.toNat, x.1) else none
      { s with ws := { s.ws with rxWords := (s.ws.rxWords.filter fun x => !(ws.any fun y => y.1 == x.1)) ++ ws } })

/-- Whether n ring words from a position are written and verified. -/
def State.holds (s : State) (p n : Nat) : Bool := (List.range n).all fun i => s.ws.rxHave.contains (p + i)

/-- A trailer of the leader's that stands whole in its slot (R197, R211): it is the last trailer, and known to be on both twins. -/
def State.takeTrailer (s : State) (r : Rec) : State :=
  { s with
    led := { s.led with
      recs := mapIf (fun x => x.trailer && x.seq == r.seq) (fun x => { x with written := true }) s.led.recs, lastTrailer := some r.pos },
    ws := { s.ws with twinTblk := BitVec.ofNat 48 (blockOf r.seq + 1) } }

/-- Trailers taken in block order, up to the first that has not come whole (R211). -/
def State.takeTrailersOf (s : State) : List Rec → State
  | [] => s
  | r :: l =>
    let p := r.pos.toNat
    if s.holds p 12 && recType (s.ringWord p) == 6 && (bits (s.ringWord p) 0 48).toNat == blockOf r.seq then (s.takeTrailer r).takeTrailersOf l
    else s

/-- The trailer slots that now hold their leader's trailers. -/
def State.takeTrailers (s : State) : State :=
  s.takeTrailersOf (s.led.recs.filter fun r => r.trailer && decide (s.ws.twinTblk.toNat ≤ blockOf r.seq))

/-- A record that a full copy has already applied, by its number (R227): a prepare record holds its legs in doubt, and its decision ends that. -/
def State.noteCopied (s : State) (pos : Nat) : State :=
  let w0 := s.ringWord pos
  if s.ws.sync != 3 || decide (s.ws.ahor.toNat < (recSeq w0).toNat) then s
  else match recType w0 with
    | 3 => s.addPrep (s.prepAt pos)
    | 4 => s.dropPrep (bits (s.ringWord (pos + 2)) 24 48)
    | _ => s

/-- Whole records at JN_WPOS taken in sequence order (R211). At the start of a full copy the first record or trailer at JN_APOS says where
the series stands (R227). Fuel: words held. -/
def State.takeRecords (s : State) : Nat → State
  | 0 => s
  | k + 1 =>
    let p := s.led.wpos.toNat
    let w0 := s.ringWord p
    if !s.ws.rxHave.contains p then s
    else match recLen w0 with
      | none => s
      | some n =>
        if !s.holds p n then s
        else if recType w0 = 6 then
          (if s.ws.sync = 3 && s.led.recs.isEmpty && s.led.seqNext = 0 then
            ({ s with
              led := { s.led with
                wpos := s.led.wpos + 12, lastTrailer := some s.led.wpos, lastTime := bits (s.ringWord (p + 3)) 8 64,
                seqNext := BitVec.ofNat 48 (64 * (bits w0 0 48).toNat + 65) },
              ws := { s.ws with twinTblk := inc (bits w0 0 48) } } : State).takeRecords k
          else s)
        else if recSeq w0 == s.led.seqNext || (s.ws.sync = 3 && s.led.recs.isEmpty && s.led.seqNext = 0) then
          let s : State := { s with led := { s.led with seqNext := recSeq w0 } }
          let s := s.takeSeq n
          (({ s with led := { s.led with
              lastTime := bits (s.ringWord (p + 3)) 8 64,
              recs := mapIf (fun r => !r.trailer && r.seq == recSeq w0) (fun r => { r with written := true }) s.led.recs } } : State).noteCopied
                p).takeRecords k
        else s

/-- The Plain offsets that applying a record writes: cells, rule words and its filter slot (R227). -/
def State.recordOffsets (s : State) (r : Rec) : List Nat :=
  let p := r.pos.toNat
  let w0 := s.ringWord p
  let legs (q : Nat) : List Nat :=
    (entsOf (s.ringWords (q + 4) (2 * ((bits (s.ringWord q) 64 4).toNat + 1)))).flatMap fun e =>
      if e.rem then [] else if e.op = 2 then [offsetOf (s.ruleAddr e.ci e.sel.toNat)] else (List.range 4).map fun k => offsetOf (s.cellAddr e.ci k)
  let filter := (List.range 2).map fun k => offsetOf (s.filterAddr s.led.filterNext.toNat k)
  match recType w0 with
  | 1 => legs p ++ filter
  | 2 | 3 => filter
  | 4 => match s.led.preps.find? fun q => q.seq == bits (s.ringWord (p + 2)) 24 48 with
    | some q => legs q.pos.toNat
    | none => []
  | _ => []

/-- The follower's records applied one by one up to a sequence number (R212); during a full copy what each wrote is noted (R227). -/
def State.applyTo (s : State) (h : BitVec 48) : State :=
  if s.ws.sync != 3 then s.advance h false
  else
    let rs := s.led.recs.filter fun r =>
      !r.trailer && r.written && decide (s.ws.ahor.toNat < r.seq.toNat) && decide (r.seq.toNat ≤ h.toNat)
    rs.foldl (fun s r =>
      let o := (s.recordOffsets r).map fun k => (k, r.seq)
      ({ s with ws := { s.ws with live := s.ws.live ++ o } } : State).advance r.seq false) s

/-! ## Healing (R229, R230) -/

/-- The units that wait for a word go on: with the word, or with a failure. -/
def State.wakeHeal (s : State) (pa : WAddr) (ok : Bool) : State :=
  let a : List Arrived := if ok then [] else [{ pa := pa, status := 3, word := 0 }]
  let core (c : Core) : Core := if c.wait == some pa then { c with wait := none, arrived := c.arrived ++ a } else c
  let eng (e : Engine) : Engine := if e.wait == some pa then { e with wait := none, arrived := e.arrived ++ a } else e
  let job (j : Job) : Job := if j.wait == some pa then { j with wait := none, arrived := j.arrived ++ a } else j
  let srv (x : Served) : Served := if x.heal == some (pa, false) then { x with heal := if ok then none else some (pa, true) } else x
  { s with
    cores := s.cores.map core, engines := s.engines.map eng, hi := { s.hi with jobs := s.hi.jobs.map job },
    lb := { s.lb with served := s.lb.served.map srv } }

/-- The records that this module has applied from its own ring, oldest first. -/
def State.appliedRecords (s : State) : List (Nat × Word) :=
  s.ringRecords.filter fun r => recType r.2 != 6 && decide ((recSeq r.2).toNat ≤ s.ws.ahor.toNat)

/-- The legs of applied records above a horizon that touch a Plain offset, applied again (R230). -/
def State.reapplyLegs (s : State) (h : BitVec 48) (off : Nat) : State :=
  let touches (s : State) (e : LegEnt) : Bool :=
    !e.rem && (if e.op = 2 then offsetOf (s.ruleAddr e.ci e.sel.toNat) == off
      else decide (offsetOf (s.cellAddr e.ci 0) ≤ off) && decide (off < offsetOf (s.cellAddr e.ci 0) + 4))
  let again (s : State) (p : Nat) (seq : BitVec 48) : State := ((s.entsAt p).filter (touches s)).foldl (fun s e => s.applyEnt seq e) s
  (s.appliedRecords.filter fun r => decide (h.toNat < (recSeq r.2).toNat)).foldl (fun s r =>
    match recType r.2 with
    | 1 => again s r.1 (recSeq r.2)
    | 4 =>
      let pseq := bits (s.ringWord (r.1 + 2)) 24 48
      if recStatus r.2 = 0 then
        match s.ringRecords.find? fun q => recType q.2 == 3 && recSeq q.2 == pseq with
        | some q => again s q.1 pseq
        | none => s
      else s
    | _ => s) s

/-- The filter slot that a Plain offset lies in. -/
def State.slotOf (s : State) (off : Nat) : Option Nat :=
  let b := s.applied.peFilterBase.toNat
  if s.applied.peCellCount != 0 && decide (b ≤ off) && decide (off < b + 2 ^ 20) then some ((off - b) / 2) else none

/-- The record whose entry a filter slot holds, when the ring still has it: entries stand slot by slot behind the next one (R161). -/
def State.enteredBy (s : State) (slot : Nat) : Option (Nat × Word) :=
  let l := (s.appliedRecords.filter fun r => (s.entryAt r.1 false).isSome).reverse
  l[(s.led.filterNext.toNat + 2 ^ 19 - 1 - slot) % 2 ^ 19]?

/-- The entry of a filter slot written again, when the record that made it, or the decision record that changed it, was applied above a horizon
(R162, R230). -/
def State.reapplyFilter (s : State) (h : BitVec 48) (slot : Nat) : State :=
  match s.enteredBy slot with
  | none => s
  | some r =>
    let dec := s.appliedRecords.find? fun d => recType d.2 == 4 && bits (s.ringWord (d.1 + 2)) 24 48 == recSeq r.2
    let newer (q : Nat × Word) : Bool := decide (h.toNat < (recSeq q.2).toNat)
    match s.entryAt r.1 false with
    | some (ref, w) =>
      if newer r || dec.any newer then
        let w := (dec.map fun d => s.finalAt d.1 false).getD w
        (s.putNew (s.filterAddr slot 0) (if bits w 68 4 = 3 then 0 else at' ref 8)).putNew (s.filterAddr slot 1) w
      else s
    | none => s

/-- The records applied above a horizon that touch a Plain offset, applied again (R230). -/
def State.reapply (s : State) (h : BitVec 48) (off : Nat) : State :=
  match s.slotOf off with
  | some k => s.reapplyFilter h k
  | none => s.reapplyLegs h off

/-- The cell that a Plain offset lies in: its first offset. -/
def State.cellBaseOf (s : State) (off : Nat) : Option Nat :=
  let b := s.applied.peCellBase.toNat
  if b ≤ off ∧ off < b + 4 * s.applied.peCellCount.toNat then some (b + (off - b) / 4 * 4) else none

/-- Heals whose words have come and whose horizon is reached are installed (R230). -/
def State.settleHeals (s : State) : State :=
  s.ws.heals.foldl (fun s h =>
    match h.data with
    | none => s
    | some (hz, ws) =>
      if s.ws.ahor.toNat < hz.toNat then s
      else
        let off := h.off.toNat
        let s := match s.cellBaseOf off with
          | some b => s.putWords (plainAddr b) (ws.take 4)
          | none => s.putWords (plainAddr off) (ws.take 1)
        let s := s.reapply hz off
        let s : State := { s with ws := { s.ws with healCnt := inc s.ws.healCnt, heals := s.ws.heals.filter fun x => x.off != h.off } }
        (s.resumeLegs h.off).wakeHeal (plainAddr off) true) s

/-- A heal fails (R169, R230). -/
def State.failHeal (s : State) (off : BitVec 24) : State :=
  let s : State := { s with ws := { s.ws with healFail := inc s.ws.healFail, heals := s.ws.heals.filter fun x => x.off != off } }
  ((s.setWsEvt 8).failLegs off).wakeHeal (plainAddr off.toNat) false

/-- HEAL_WAIT_EXPIRY (R169, R215). -/
def execHealWaitExpiry (off : BitVec 24) (s : State) : Host.Outcome State Fault Refusal :=
  .next (if s.ws.heals.any fun h => h.off == off && decide (h.since.toNat + 2000 ≤ s.now.toNat) then s.failHeal off else s)

/-- Whether the module holds the ring word at a Plain offset (R229): a position below JN_WPOS and not in an unwritten trailer slot. -/
def State.ringHeld (s : State) (off : Nat) : Bool :=
  let b := s.applied.jnRingBase.toNat
  let n := 2 ^ s.applied.jnRingLog2.toNat
  if s.applied.peCellCount != 0 && decide (b ≤ off) && decide (off < b + n) then
    let w := s.led.wpos.toNat
    let x := (w + 2 * n - 1 - (off - b)) % n
    decide (x < w) && !(s.led.recs.any fun r =>
      !r.written && decide (r.pos.toNat ≤ w - 1 - x) && decide (w - 1 - x < r.pos.toNat + r.len))
  else true

/-- HEAL_REQ (R229). -/
def execHealReq (l : Fin 2) (fr : Frame) (s : State) : Host.Outcome State Fault Refusal :=
  .next (match s.frameIn l 4 fr with
  | (s, false) => s
  | (s, true) =>
    let s := s.plainIn
    let off := bits fr.w0 0 24
    let o := off.toNat
    let (b, n) := match s.cellBaseOf o with
      | some b => (b, 4)
      | none => (o, 1)
    let serve := (s.ws.role == 1 || (s.ws.role == 2 && s.ws.synced)) && s.healable o && s.ringHeld o && !s.anyBad (plainAddr b) n
    if serve then s.sendFirst 5 0 (six ([flagAt true 71 ||| at' off 0, at' s.ws.ahor 24] ++ s.getWords (plainAddr b) n))
    else s.sendFirst 5 0 (six [at' off 0, at' s.ws.ahor 24]))

/-- HEAL_DATA (R230). An answer with OK = 0 leaves the heal to its wait. -/
def execHealData (l : Fin 2) (fr : Frame) (s : State) : Host.Outcome State Fault Refusal :=
  .next (match s.frameIn l 5 fr with
  | (s, false) => s
  | (s, true) =>
    let s := s.plainIn
    let off := bits fr.w0 0 24
    if bit fr.w0 71 then
      let d := some (bits fr.w1 24 48, [fr.w2, fr.w3, fr.w4, fr.w5])
      ({ s with ws := { s.ws with heals := mapIf (fun h => h.off == off) (fun h => { h with data := d }) s.ws.heals } } : State).settleHeals
    else s)

/-! ## Synchronised (R228) -/

/-- The follower reaches SYNCED: all received is applied and its ASEQ equals the source's WSEQ (R228). -/
def State.followerSynced (s : State) : State :=
  if s.ws.role == 2 && s.ws.sync != 0 && s.wseq == s.ws.twinWseq && s.ws.ahor == s.wseq
      && (s.ws.sync != 3 || decide (s.copyTotal ≤ s.ws.copied)) then
    let s : State := { s with ws := { s.ws with sync := 0, synced := true, live := [], lostApplied := false, mseq := s.wseq, run := none } }
    ((s.writeRole).setWsEvt 10).setWsEvt 3
  else s

/-- The source becomes LEADER (R216, R228): its records up to the follower's are durable on both twins. -/
def State.sourceSynced (s : State) (aseq : BitVec 48) : State :=
  if s.ws.sync == 1 && aseq == s.wseq && (s.ws.role == 0 || s.ws.role == 3) && (s.ws.copied == 0 || s.ws.twinSynced) then
    let held := s.ws.role == 0
    let s : State := { s with ws := { s.ws with sync := 0, synced := true, soloFirst := 0, copied := 0, mseq := aseq } }
    let s := (s.setRole 1).advance aseq false
    let s := if held then s.settlePreps else s
    ((s.writeRole).setWsEvt 10).setWsEvt 3
  else s

/-- FOLLOWER_WRITE_VERIFIED (R211, R212): the words taken are written and verified, an ACK goes out on each link, and the records up to
ASEQ are applied. -/
def execFollowerWriteVerified (s : State) : Host.Outcome State Fault Refusal :=
  .next (if s.ws.role != 2 then s
  else
    let ws := s.ws.rxWords
    let s := ws.foldl (fun s x => s.putWord (s.ringAddr x.1) x.2) s
    let s : State := { s with ws := { s.ws with rxWords := [], rxHave := s.ws.rxHave.filter (fun p => !(ws.any fun x => x.1 == p)) ++ ws.map (·.1) } }
    let s := (s.takeRecords s.ws.rxHave.length).takeTrailers
    let s : State := { s with ws := { s.ws with rxHave := s.ws.rxHave.filter fun p => decide (s.led.wpos.toNat ≤ p) || s.openSlot p } }
    let s := if s.ws.sync == 3 && s.led.seqNext == 0 then s else (s.sendAck).applyTo s.wseq
    (s.settleDpos.settleHeals).followerSynced)

/-- TWIN_ACK (R211): taken only under the module's own term; it raises MSEQ and the durable horizon, and TBLK lets JN_DPOS pass trailer
slots. A follower that holds less than C acknowledges less, and its source sends it a full copy (R226, log 52). -/
def execTwinAck (l : Fin 2) (fr : Frame) (s : State) : Host.Outcome State Fault Refusal :=
  .next (match s.frameIn l 2 fr with
  | (s, false) => s
  | (s, true) =>
    match s.termIn (bits fr.w1 24 48) s.ws.twinRole with
    | (s, false) => s
    | (s, true) =>
      let aseq := bits fr.w0 24 48
      let tblk := bits fr.w2 24 48
      let s : State := if s.ws.twinTblk.toNat < tblk.toNat then { s with ws := { s.ws with twinTblk := tblk } } else s
      let s : State := if s.ws.twinAseq.toNat < aseq.toNat then { s with ws := { s.ws with twinAseq := aseq } } else s
      if s.ws.role == 1 then
        let s := if s.ws.mseq.toNat < aseq.toNat && decide (aseq.toNat ≤ s.wseq.toNat) then
          ({ s with ws := { s.ws with mseq := aseq } } : State).advance aseq false else s
        s.settleDpos.settleHeals
      else if s.ws.sync == 1 && s.ws.copied == 0 && decide (aseq.toNat < s.ws.divPfx.toNat) then s.sendCopy
      else s.settleDpos.sourceSynced aseq)

/-! ## Side conflicts, losing the twin -/

/-- The twin claims this module's side (R203, R216). -/
def State.sideClash (s : State) : State :=
  (({ s.quiet with ws := { s.quiet.ws with sideConflict := true, sync := 0, recon := none } } : State).toRole 0).setWsEvt 12

/-- A module loses its twin, or sees it FENCED (R216). -/
def State.loseTwin (s : State) : State :=
  let s := s.quiet
  let s : State := { s with ws := { s.ws with sync := if s.ws.role = 3 ∨ s.ws.role = 0 then 0 else s.ws.sync } }
  match s.ws.role.toNat with
  | 1 => s.toRole 0
  | 2 =>
    let s := ({ s with ws := { s.ws with sync := 0 } } : State).toRole 0
    if s.asksWitness then s.sendGreq else s
  | _ => s

/-- What a follower takes from a HEARTBEAT of its leader (R197, R205): JN_APOS, below which all is exported; and the leader's AHOR, up to which
all is durable on both twins. At the start of a full copy, JN_APOS is where the copied ring words begin (R227). -/
def State.takeBeat (s : State) (apos : BitVec 64) (ahor : BitVec 48) : State :=
  let s : State :=
    if s.ws.sync == 3 && s.led.seqNext == 0 && s.ws.rxHave.isEmpty then
      { s with led := { s.led with wpos := apos, apos := apos, dpos := apos, xpos := apos } }
    else if (s.ws.sync != 3 || s.led.seqNext != 0) && decide (s.led.apos.toNat ≤ apos.toNat) && decide (apos.toNat ≤ s.led.wpos.toNat) then
      let up (p : BitVec 64) : BitVec 64 := if p.toNat < apos.toNat then apos else p
      { s with led := { s.led with apos := apos, xpos := up s.led.xpos, dpos := up s.led.dpos } }
    else s
  if decide (s.ws.mseq.toNat < ahor.toNat) && decide (ahor.toNat ≤ s.wseq.toNat) then { s with ws := { s.ws with mseq := ahor } } else s

/-- HEARTBEAT (R197, R214, R228, R233). -/
def execHeartbeat (l : Fin 2) (fr : Frame) (s : State) : Host.Outcome State Fault Refusal :=
  .next (match s.frameIn l 3 fr with
  | (s, false) => s
  | (s, true) =>
    let role := bits fr.w0 21 3
    let s : State := { s with ws := { s.ws with
      twinRole := role, twinSynced := bit fr.w0 19, twinWseq := bits fr.w1 24 48, twinApos := bits fr.w2 0 64 } }
    if bit fr.w0 20 == s.ws.side then s.sideClash
    else
      let (s, own) := s.termIn (bits fr.w0 24 48) role
      if role == 4 then s.loseTwin
      else if !own then s
      else if s.ws.role == 2 then (s.takeBeat (bits fr.w2 0 64) (bits fr.w3 24 48)).followerSynced
      else if bit fr.w0 19 && role == 2 then s.sourceSynced (bits fr.w1 24 48) else s)

/-! ## Reconnection (R223-R225) -/

/-- The last written trailer of a block that ends at or below a record, by the ring (R225). -/
def State.trailerUpTo (s : State) (c : BitVec 48) : Option (BitVec 64) :=
  ((s.ringPieces.filter fun x => x.2.2.2 && decide (x.2.2.1.toNat ≤ c.toNat)).getLast?).map fun x => BitVec.ofNat 64 x.1

/-- DISCARD (R225): the records above C are removed, and the trailers of blocks that end above it. -/
def State.discardTail (s : State) (c : BitVec 48) : State :=
  if s.wseq.toNat ≤ c.toNat then s
  else
    let e := s.endOf c
    let lost := decide (c.toNat < s.ws.ahor.toNat)
    let preps := s.led.preps.filter fun p => decide (p.seq.toNat ≤ c.toNat)
    let blocks := c.toNat / 64
    let s : State := { s with
      led := { s.led with
        seqNext := inc c, wpos := BitVec.ofNat 64 e, dpos := 0, recs := s.led.recs.filter fun r => decide (r.seq.toNat ≤ c.toNat),
        lastTrailer := s.trailerUpTo c,
        flights := s.led.flights.filter fun f => decide (f.seq.toNat ≤ c.toNat),
        coords := s.led.coords.filter fun x => decide (x.n.toNat ≤ c.toNat), preps := preps, decisionWords := 4 * preps.length },
      ws := { s.ws with ahor := if lost then c else s.ws.ahor, mseq := if c.toNat < s.ws.mseq.toNat then c else s.ws.mseq,
                        twinTblk := if blocks < s.ws.twinTblk.toNat then BitVec.ofNat 48 blocks else s.ws.twinTblk,
                        lostApplied := s.ws.lostApplied || lost } }
    s.settleDpos.setWsEvt 4

/-- The winner of a reconnection: source of the synchronisation (R224). A SOLO source stays SOLO, another is HELD. In a catch-up it sends its records
above C, and its trailers, of which the follower discards those that it holds (R197, R226). -/
def State.becomeSource (s : State) (term : BitVec 48) (c : BitVec 48) (full : Bool) : State :=
  let s := if s.ws.role == 3 then s else s.toRole 0
  let s : State := { s with ws := { s.ws with
    term := term, sync := 1, recon := none, copied := 0, twinSynced := false, twinAseq := if full then 0 else c, twinTblk := 0 } }
  let s := s.writeRole
  if full then s.sendCopy else ({ s with ws := { s.ws with txq := s.ws.txq ++ s.unackedWords c } } : State).pump

/-- The loser of a reconnection: it discards its tail and follows, by catch-up or by full copy (R224-R227). For a full copy it holds no record, and
says so. -/
def State.becomeFollower (s : State) (term : BitVec 48) (c : BitVec 48) (full : Bool) : State :=
  let s := (s.toRole 0).discardTail c
  let s : State := { s with ws := { s.ws with term := term, sync := if full then 3 else 2, recon := none, soloFirst := 0, synced := false,
                                              rxWords := [], rxHave := [], live := [], copied := 0, run := none } }
  let s := s.setRole 2
  if full then
    ({ s with
      led := { s.led with
        seqNext := 0, wpos := s.ws.twinApos, apos := s.ws.twinApos, dpos := s.ws.twinApos, xpos := s.ws.twinApos, recs := [], preps := [],
        flights := [], decisionWords := 0, lastTrailer := none, blockNext := 0 },
      ws := { s.ws with twinTblk := 0 } } : State).sendAck
  else s.applyTo c

/-- Whether a follower must have a full copy (R226): it has discarded a record that it had applied. -/
def needsCopy (c ahor : BitVec 48) : Bool := decide (c.toNat < ahor.toNat)

/-- Whether the ring holds every position from the source's JN_APOS up to the end of record C (R226). JN_APOS is that of the twin's last HEARTBEAT; before the
first nothing says that the ring falls short. -/
def State.ringCovers (s : State) : Bool := s.ws.twinApos == 0 || decide (s.led.wpos.toNat ≤ s.ws.twinApos.toNat + 2 ^ s.applied.jnRingLog2.toNat)

/-- The records that ring words hold, one after another. Fuel: words. -/
def splitRecords : Nat → List Word → List (List Word)
  | 0, _ => []
  | _, [] => []
  | f + 1, w :: r => match recLen w with
    | some n => (w :: r).take n :: splitRecords f ((w :: r).drop n)
    | none => []

/-- The first of this module's records that differs from the twin's record of the same number. A number below the first that the twin
still has in its ring is not compared. -/
def State.firstDiff (s : State) (mine : List (Nat × Word)) (theirs : List (List Word)) : Option (BitVec 48) :=
  let first := (theirs.head?.map fun r => (recSeq (r.getD 0 0)).toNat).getD (2 ^ 48)
  (mine.find? fun x =>
    match theirs.find? fun r => recSeq (r.getD 0 0) == recSeq x.2 with
    | some r => s.ringWords x.1 ((recLen x.2).getD 0) != r
    | none => decide (first < (recSeq x.2).toNat)).map fun x => recSeq x.2

/-- Whether a tail holds a record with SOLO = 1, of the twin (R224): by the bits of the records that it sent, and beyond them by its SOLOFIRST
(log 19). -/
def tailSolo (c wseq soloFirst : BitVec 48) (theirs : List (List Word)) : Bool :=
  (theirs.any fun r => decide (c.toNat < (recSeq (r.getD 0 0)).toNat) && recSolo (r.getD 0 0))
    || (soloFirst != 0 && decide (soloFirst.toNat ≤ wseq.toNat) && decide (c.toNat < wseq.toNat))

/-- This module's records with numbers in a range, in the ring. -/
def State.recordsIn (s : State) (lo hi : Nat) : List (Nat × Word) :=
  s.ringRecords.filter fun r => recType r.2 != 6 && decide (lo < (recSeq r.2).toNat) && decide ((recSeq r.2).toNat ≤ hi)

/-- The ring words of this module's records with numbers in a range sent to the twin (R223). -/
def State.sendRecords (s : State) (lo hi : Nat) : State :=
  ({ s with ws := { s.ws with
    txq := (s.recordsIn lo hi).foldl (fun l r => addRange l r.1 ((recLen r.2).getD 0)) s.ws.txq } } : State).pump

/-- RECON (R203, R223, R224): the twin's RECON frame with the ring words of its records from min(MSEQ) + 1 to min(WSEQ). -/
def State.reconnect (s : State) (w0 w1 w2 w3 w4 w5 : Word) (words : List Word) : State :=
  let term := bits w0 24 48
  let role := bits w0 21 3
  let lrole := bits w0 19 2
  let side := bit w0 18
  let mseq := bits w1 24 48
  let ahor := bits w3 24 48
  let wseq := bits w4 24 48
  let s : State := { s with ws := { s.ws with twinRole := role, twinWseq := wseq } }
  let s := if term == s.ws.term then s.renew else s
  if side == s.ws.side then s.sideClash
  else if apart role || apart s.ws.role || s.ws.sideConflict then s.renew
  else if w5 != s.applied.digest then ({ s with ws := { s.ws with recon := none } } : State).setWsEvt 13
  else
    let s := s.quiet.startRecon
    let lo := min s.ws.mseq.toNat mseq.toNat
    let hi := min s.wseq.toNat wseq.toNat
    let s := s.sendRecords lo hi
    let theirs := splitRecords words.length words
    let c : BitVec 48 := match s.firstDiff (s.recordsIn lo hi) theirs with
      | some q => q - 1
      | none => BitVec.ofNat 48 hi
    let twinSolo := tailSolo c wseq (bits w2 24 48) theirs
    let ownSolo := s.ringRecords.any fun r => recType r.2 != 6 && decide (c.toNat < (recSeq r.2).toNat) && recSolo r.2
    let s : State := { s with ws := { s.ws with divPfx := c, divTail := s.wseq } }
    if ownSolo && twinSolo then ({ s with ws := { s.ws with recon := none, sync := 0 } } : State).renew.toRole 5
    else
      let leads (r : BitVec 2) : Bool := r == 1 || r == 3
      let wins : Bool :=
        if s.ws.term != term then decide (term.toNat < s.ws.term.toNat)
        else if leads s.ws.lrole != leads lrole then leads s.ws.lrole
        else !s.ws.side
      let source := if ownSolo then true else if twinSolo then false else wins
      let t := if s.ws.term.toNat < term.toNat then term else s.ws.term
      if source then
        let gone := decide (c.toNat < s.wseq.toNat) && !(s.ringRecords.any fun r => recType r.2 != 6 && recSeq r.2 == c + 1)
        s.renew.becomeSource t c (gone || needsCopy c ahor)
      else s.renew.becomeFollower t c (s.ws.lostApplied || needsCopy c s.ws.ahor || !s.ringCovers)

/-- RECON (R223). -/
def execRecon (l : Fin 2) (fr : Frame) (words : List Word) (s : State) : Host.Outcome State Fault Refusal :=
  .next (match s.frameIn l 8 fr with
  | (s, true) => s.reconnect fr.w0 fr.w1 fr.w2 fr.w3 fr.w4 fr.w5 words
  | (s, false) => s)

/-- COPY_START (R227). The first run of a copy may come again: the copy then begins again. -/
def execCopyStart (l : Fin 2) (fr : Frame) (s : State) : Host.Outcome State Fault Refusal :=
  .next (match s.frameIn l 6 fr with
  | (s, false) => s
  | (s, true) =>
    let s := s.plainIn
    if s.ws.role == 2 && s.ws.sync == 3 then
      let off := (bits fr.w0 0 24).toNat
      let h := bits fr.w2 24 48
      { s with ws := { s.ws with
          run := some { off := off, len := (bits fr.w1 0 16).toNat, horizon := h, got := 0, cell := [] },
          copied := if off = s.applied.peFilterBase.toNat then 0 else s.ws.copied,
          ahor := if s.ws.run.isNone then h else s.ws.ahor } }
    else s)

/-- Whether a live record numbered above a run's horizon has written a Plain offset on the follower (R227). -/
def State.liveAbove (s : State) (r : CopyRun) (off : Nat) : Bool := s.ws.live.any fun x => x.1 == off && decide (r.horizon.toNat < x.2.toNat)

/-- A copied ring word installed at its position, unless the stream already brought it (R227). -/
def State.installRing (s : State) (off : Nat) (w : Word) : State :=
  let n := 2 ^ s.applied.jnRingLog2.toNat
  let a := s.led.apos.toNat
  let p := a + (off - s.applied.jnRingBase.toNat + n - a % n) % n
  if s.ws.rxHave.contains p || (s.ws.rxWords.any fun x => x.1 == p) || (decide (p < s.led.wpos.toNat) && !s.openSlot p) then s
  else { (s.putWord (s.ringAddr p) w) with ws := { s.ws with rxHave := p :: s.ws.rxHave } }

/-- A copied cell installed (R227): skipped when its LSEQ is below the one that the follower holds, or when a live record above the run's horizon has
written it. -/
def State.installCell (s : State) (r : CopyRun) (base : Nat) (ws : List Word) : State :=
  let held := plainAddr (base + 2)
  let older := !(s.cell held).bad && decide ((bits (ws.getD 2 0) 24 48).toNat < (bits (s.data held) 24 48).toNat)
  if older || (List.range 4).any fun k => s.liveAbove r (base + k) then s else s.putWords (plainAddr base) ws

/-- One word of a run installed (R227); the words of a cell together, once it has come whole. -/
def State.installCopied (s : State) (r : CopyRun) (w : Word) : State × CopyRun :=
  let off := r.off + r.got
  let r := { r with got := r.got + 1 }
  let b := s.applied.jnRingBase.toNat
  if s.applied.peCellCount != 0 && decide (b ≤ off) && decide (off < b + 2 ^ s.applied.jnRingLog2.toNat) then (s.installRing off w, r)
  else
    let s : State := { s with ws := { s.ws with copied := s.ws.copied + 1 } }
    match s.cellBaseOf off with
    | some c =>
      let ws := r.cell ++ [w]
      if ws.length < 4 then (s, { r with cell := ws }) else (s.installCell r c ws, { r with cell := [] })
    | none => (if s.liveAbove r off || !s.healable off then s else s.putWord (plainAddr off) w, r)

/-- COPY (R227): the next words of the run. When the filter has come whole, the next entry goes in the slot after its newest (R161). -/
def execCopy (l : Fin 2) (fr : Frame) (s : State) : Host.Outcome State Fault Refusal :=
  .next (match s.frameIn l 7 fr with
  | (s, false) => s
  | (s, true) =>
    let s := s.plainIn
    match (if s.ws.role == 2 && s.ws.sync == 3 then s.ws.run else none) with
    | none => s
    | some r =>
      if fr.pos.toNat ≠ r.got then s
      else
        let (s, r) := ((frameWords fr).take (r.len - r.got)).foldl (fun (x : State × CopyRun) w => x.1.installCopied x.2 w) (s, r)
        let s : State := { s with ws := { s.ws with run := some r } }
        if r.got = r.len && r.off + r.len = s.applied.peFilterBase.toNat + 2 ^ 20 then
          { s with led := { s.led with filterNext := s.filterAfterScan } }
        else s)

/-! ## Timers and links (R209, R215, R216) -/

/-- HEARTBEAT_TIMER (R214, R215). -/
def execHeartbeatTimer (l : Fin 2) (s : State) : Host.Outcome State Fault Refusal :=
  .next (if s.ws.links[l].up && decide (s.ws.links[l].lastBeat.toNat + 500 ≤ s.now.toNat) then
    (s.updTwin l fun t => { t with lastBeat := s.now }).sendFrame l 3 0 s.beatWords else s)

/-- LINK_SILENCE (R209). -/
def execLinkSilence (l : Fin 2) (s : State) : Host.Outcome State Fault Refusal :=
  .next (if s.ws.links[l].up && decide (s.ws.links[l].lastGood.toNat + 2000 ≤ s.now.toNat) then s.twinDown l else s)

/-- TWIN_RETRAIN_DONE (R209): after a success frames are numbered from the start again, and 64 valid ones return the link to
service; a failure is repeated. -/
def execTwinRetrainDone (l : Fin 2) (ok : Bool) (s : State) : Host.Outcome State Fault Refusal :=
  .next (if ok && s.ws.links[l].training && s.brd.powered then
    s.updTwin l fun t => { t with training := false, good := 0, tx := 0, rx := 0, rtry := false, store := [], fullSince := none } else s)

/-- TWIN_REPLAY_STORE_FULL (R209): the store has held its 128 frames for 2 us. -/
def execTwinReplayStoreFull (l : Fin 2) (s : State) : Host.Outcome State Fault Refusal :=
  .next (if s.ws.links[l].up && s.ws.links[l].fullSince.any fun t => decide (t.toNat + 2000 ≤ s.now.toNat) then s.twinDown l else s)

/-- LEASE_EXPIRY (R214-R217). -/
def execLeaseExpiry (s : State) : Host.Outcome State Fault Refusal :=
  .next (if s.ws.contact && decide (s.ws.lastTerm.toNat + 20000 ≤ s.now.toNat) then
    (({ s with ws := { s.ws with contact := false } } : State).setWsEvt 0).loseTwin else s)

/-- GRANT_REQUEST_TIMER (R215, R221). -/
def execGrantRequestTimer (s : State) : Host.Outcome State Fault Refusal :=
  .next (if s.ws.role == 0 && !s.ws.contact && s.asksWitness && decide (s.ws.lastGreq.toNat + 50000 ≤ s.now.toNat) then s.sendGreq else s)

/-- RECONNECTION_TIMER (R215). -/
def execReconnectionTimer (s : State) : Host.Outcome State Fault Refusal :=
  .next (match s.ws.recon with
  | some t => if t.toNat + 100000 ≤ s.now.toNat then s.sendRecon else s
  | none => s)

/-- ROLE_RECORD_REWRITE (R205). -/
def execRoleRecordRewrite (s : State) : Host.Outcome State Fault Refusal := .next s.writeRole

/-! ## Witnesses and grants (R218-R222) -/

/-- The result code of a grant (R219). -/
def State.grantCode (s : State) (w : Word) : BitVec 8 :=
  if bits w 12 12 ≠ s.applied.lbPair ∨ bit w 11 ≠ s.ws.side then 0x01
  else if (bits w 24 48).toNat ≤ s.ws.term.toNat then 0x02
  else if s.ws.role != 0 && s.ws.role != 3 then 0x03
  else if s.ws.contact && s.ws.twinRole != 4 then 0x04
  else if bits w 0 11 ≠ 0 then 0x05
  else if s.ws.sideConflict then 0x06
  else 0

/-- A grant taken or refused (R219, R222). -/
def State.takeGrant (s : State) (w : Word) : State :=
  let code := s.grantCode w
  let s : State := { s with ws := { s.ws with grantLast := setBits w 0 8 code } }
  if code ≠ 0 then s.setWsEvt 9
  else
    let term := bits w 24 48
    if s.ws.role = 3 then ({ s with ws := { s.ws with term := term } } : State).writeRole
    else
      let s : State := { s.quiet with ws := { s.quiet.ws with term := term, soloFirst := s.led.seqNext, sync := 0, recon := none } }
      ((s.setRole 3).advance (s.wseq) true).settlePreps.settleDpos

/-- GRANT_MSG (R222). -/
def execGrantMsg (w : Word) (s : State) : Host.Outcome State Fault Refusal := .next (s.takeGrant w)

/-- The witness's table word of a pair (R221): the last granted term and its side. -/
def State.witnessWord (s : State) (p : PairId) : Word := s.data (plainAddr (s.applied.wsWtable.toNat + p.toNat))

/-- Whether this module serves as a witness (R221). -/
def State.isWitness (s : State) : Bool := s.leads && s.applied.wsWtable != 0

/-- The grant decided: the table word is written and sent to the follower (R221); without one in contact the grant goes out at once. -/
def State.sendGrant (s : State) (x : WitReq) (side : Bool) : State :=
  let s : State := { s with ws := { s.ws with wits := s.ws.wits.filter fun y => y.pair != x.pair } }
  (s.grantMsg x.pair side 1 9 0 [grantWord x.term x.pair side]).setWsEvt 11

/-- The side chosen by the witness. -/
def State.chooseSide (s : State) (x : WitReq) (side : Bool) : State :=
  let w := at' x.term 24 ||| flagAt side 23
  let off := s.applied.wsWtable.toNat + x.pair.toNat
  let s := s.putWord (plainAddr off) w
  if s.ws.role == 1 then
    ({ s with ws := { s.ws with wits := mapIf (fun y => y.pair == x.pair) (fun y => { y with chosen := some side }) s.ws.wits } } : State).sendFirst
      9 0 (six [w, BitVec.ofNat 72 off])
  else s.sendGrant x side

/-- GREQ (R221). One of a pair that is being served waits: its answer goes out once the table word is acknowledged. -/
def execGreq (w : Word) (wseq : BitVec 48) (s : State) : Host.Outcome State Fault Refusal :=
  let p := bits w 12 12
  let side := bit w 11
  let term := bits w 24 48
  .next (if !s.isWitness then s
  else
    let e := s.witnessWord p
    let g := bits e 24 48
    if s.ws.wits.any fun x => x.pair == p then s
    else if g != 0 && bit e 23 == side && decide (term.toNat < g.toNat) then s.grantMsg p side 1 9 0 [grantWord g p side]
    else
      let t := BitVec.ofNat 48 (max term.toNat g.toNat + 1)
      let x : WitReq := { pair := p, side := side, term := t, wseq := wseq, since := s.now, chosen := none }
      ({ s with ws := { s.ws with wits := s.ws.wits ++ [x] } } : State).grantMsg p (!side) 0 2 0 [w])

/-- PROBE (R221): answered with the module's role, term and WSEQ. -/
def execProbe (src : PairId) (side : Bool) (s : State) : Host.Outcome State Fault Refusal :=
  .next (s.grantMsg src side 1 8 s.ws.role [grantWord s.ws.term s.applied.lbPair s.ws.side, at' s.wseq 24])

/-- PROBE_ANS (R221). A DIVERGENT twin counts as one that may not be passed over: nothing is granted (log 19). -/
def execProbeAns (role : BitVec 3) (w : Word) (wseq : BitVec 48) (s : State) : Host.Outcome State Fault Refusal :=
  .next (match s.ws.wits.find? fun x => x.pair == bits w 12 12 && x.side != bit w 11 && x.chosen.isNone with
  | none => s
  | some x =>
    match role.toNat with
    | 0 => s.chooseSide x (if x.wseq = wseq then false else if wseq.toNat < x.wseq.toNat then x.side else !x.side)
    | 4 => s.chooseSide x x.side
    | _ => ({ s with ws := { s.ws with wits := s.ws.wits.filter fun y => y.pair != x.pair } } : State).setWsEvt 11)

/-- WITNESS_PROBE_TIMER (R215, R221): no answer; the requester is granted. -/
def execWitnessProbeTimer (pair : PairId) (s : State) : Host.Outcome State Fault Refusal :=
  .next (match s.ws.wits.find? fun x => x.pair == pair && x.chosen.isNone && decide (x.since.toNat + 10000 ≤ s.now.toNat) with
  | none => s
  | some x => s.chooseSide x x.side)

/-- WTAB (R221): the witness's follower writes the table word and acknowledges it. -/
def execWtab (l : Fin 2) (fr : Frame) (s : State) : Host.Outcome State Fault Refusal :=
  .next (match s.frameIn l 9 fr with
  | (s, false) => s
  | (s, true) =>
    let s := s.plainIn
    let off := (bits fr.w1 0 24).toNat
    let b := s.applied.wsWtable.toNat
    if s.ws.role == 2 && b != 0 && decide (b ≤ off) && decide (off < b + 4096) then (s.putWord (plainAddr off) fr.w0).sendAck else s)

/-- WITNESS_TABLE_ACKED (R221): the grant goes to the chosen side. -/
def execWitnessTableAcked (pair : PairId) (s : State) : Host.Outcome State Fault Refusal :=
  .next (match s.ws.wits.find? fun x => x.pair == pair with
  | some x => match x.chosen with
    | some side => s.sendGrant x side
    | none => s
  | none => s)

/-! ## Watershed jobs (R233-R235, R434) -/

/-- A Watershed job: DEPTH 0, no bits that no field names, and authority; then what it does. `named` are the parameter words' unused
bits that must be zero. -/
def State.wsJob (s : State) (j : JobId) (opc : Nat) (act : Job → State → State) : State :=
  match s.jobFor j opc with
  | none => s
  | some x =>
    match s.authority x with
    | some c => s.finishJob x jobPass c 0
    | none => act x (s.updJob j fun y => { y with started := true })

/-- GRANT (R219, R434). -/
def execGrant (j : JobId) (s : State) : Host.Outcome State Fault Refusal :=
  .next (s.wsJob j 0x10 fun x s => let s := s.takeGrant x.s1; s.finishJob x jobDone 0 s.ws.grantLast)

/-- FENCE (R233). -/
def execFence (j : JobId) (s : State) : Host.Outcome State Fault Refusal :=
  .next (s.wsJob j 0x11 fun x s =>
    if s.ws.role = 5 then s.finishJob x jobRefused 1 0
    else (({ s.quiet with ws := { s.quiet.ws with sync := 0, recon := none } } : State).toRole 4).finishJob x jobDone 0 0)

/-- UNFENCE (R216, R233): with the twin in contact the reconnection exchange starts. -/
def execUnfence (j : JobId) (s : State) : Host.Outcome State Fault Refusal :=
  .next (s.wsJob j 0x12 fun x s =>
    if s.ws.role ≠ 4 then s.finishJob x jobRefused 1 0
    else
      let s := s.toRole 0
      (if s.ws.contact && !apart s.ws.twinRole then s.startRecon else s).finishJob x jobDone 0 0)

/-- The words of a RECONCILE job (R235). -/
def reconcileOf (x : Job) (own : BitVec 48) : ReconcileWords :=
  { term := bits x.s1 24 48, keep := bit x.s1 23, pfx := bits x.s2 24 48, ownTerm := own }

/-- RECONCILE accepted (R235): the keeper becomes the source, the yielder discards its tail, and both go by full copy. -/
def State.reconciled (s : State) (w : ReconcileWords) : State :=
  let s : State := { s with ws := { s.ws with reconcile := none } }
  let s := s.quiet.renew.toRole 0
  if w.keep then s.becomeSource w.term w.pfx true else s.becomeFollower w.term w.pfx true

/-- RECONCILE (R235, R434). `twin` is the RECONCILE that the twin has received, if any. A job whose match has not come waits. -/
def execReconcile (j : JobId) (twin : Option ReconcileWords) (s : State) : Host.Outcome State Fault Refusal :=
  .next (s.wsJob j 0x13 fun x s =>
    let w := reconcileOf x s.ws.term
    let tterm := (twin.map (·.ownTerm)).getD 0
    if bits x.s1 0 23 ≠ 0 ∨ bits x.s2 0 24 ≠ 0 then s.finishJob x jobBadField 0 0
    else if s.ws.role ≠ 5 then s.finishJob x jobRefused 1 0
    else if w.pfx ≠ s.ws.divPfx ∨ w.term.toNat ≤ max s.ws.term.toNat tterm.toNat then s.finishJob x jobRefused 2 0
    else
      let s := match s.ws.reconcile with
        | some (k, _, _) => if k = j then s else
          match s.job k with
          | some y => s.finishJob y jobRefused 3 0
          | none => s
        | none => s
      match twin with
      | some t =>
        if t.term = w.term ∧ t.pfx = w.pfx ∧ t.keep ≠ w.keep then (s.reconciled w).finishJob x jobDone 0 0
        else { s with ws := { s.ws with reconcile := some (j, w, match s.ws.reconcile with
                | some (k, _, t0) => if k = j then t0 else s.now
                | none => s.now) } }
      | none => { s with ws := { s.ws with reconcile := some (j, w, match s.ws.reconcile with
                | some (k, _, t0) => if k = j then t0 else s.now
                | none => s.now) } })

/-- RECONCILE_TIMEOUT (R434): 1 ms without a match. -/
def execReconcileTimeout (j : JobId) (s : State) : Host.Outcome State Fault Refusal :=
  .next (match s.ws.reconcile with
  | some (k, _, t) =>
    if k = j && decide (t.toNat + 1000000 ≤ s.now.toNat) then
      let s : State := { s with ws := { s.ws with reconcile := none } }
      match s.job j with
      | some x => s.finishJob x jobRefused 3 0
      | none => s
    else s
  | none => s)

end Sys2Proof.Machine
end

