-- ==== Sys2Proof/Machine/Stage.lean ====
section
/-! DEFINITION. Staged configuration: the staged settings, CHECK, APPLY and DISCARD, and the settings copies (R479, R485-R488). -/

namespace Sys2Proof.Machine

/-! ## The staged settings (R485) -/

/-- Every staged setting with the octet offset of its register in the setup space, in ascending offset (R138, R175, R236, R466). -/
def Settings.list (x : Settings) : List (Nat × Word) :=
  [(0x4000, x.peCellBase.setWidth 72), (0x4010, x.peCellCount.setWidth 72), (0x4020, x.peRuleBase.setWidth 72),
   (0x4030, x.peRuleCount.setWidth 72), (0x4040, x.peFilterBase.setWidth 72), (0x4050, x.peCtl.setWidth 72),
   (0x4100, x.jnRingBase.setWidth 72), (0x4110, x.jnRingLog2.setWidth 72), (0x4120, x.jnCtl.setWidth 72),
   (0x4230, x.wsCtl.setWidth 72), (0x4240, x.wsWitness.setWidth 72), (0x4250, x.wsWtable.setWidth 72),
   (0x5000, x.lbDim.setWidth 72), (0x5010, x.lbPair.setWidth 72), (0x5020, x.lbCtl.setWidth 72), (0x5030, x.lbTmaster.setWidth 72)]
  ++ (List.finRange 16).flatMap fun v =>
    [(0x5400 + 0x20 * v.val, x.lbVale[v].setWidth 72), (0x5410 + 0x20 * v.val, x.lbHead[v].setWidth 72)]

/-- One setting written by the offset of its register; an offset that names no staged setting changes nothing. -/
def Settings.put (x : Settings) (off : Nat) (v : Word) : Settings :=
  match off with
  | 0x4000 => { x with peCellBase := bits v 0 24 }
  | 0x4010 => { x with peCellCount := bits v 0 22 }
  | 0x4020 => { x with peRuleBase := bits v 0 24 }
  | 0x4030 => { x with peRuleCount := bits v 0 17 }
  | 0x4040 => { x with peFilterBase := bits v 0 24 }
  | 0x4050 => { x with peCtl := bits v 0 16 }
  | 0x4100 => { x with jnRingBase := bits v 0 24 }
  | 0x4110 => { x with jnRingLog2 := bits v 0 5 }
  | 0x4120 => { x with jnCtl := bits v 0 16 }
  | 0x4230 => { x with wsCtl := bits v 0 16 }
  | 0x4240 => { x with wsWitness := bits v 0 12 }
  | 0x4250 => { x with wsWtable := bits v 0 24 }
  | 0x5000 => { x with lbDim := bits v 0 12 }
  | 0x5010 => { x with lbPair := bits v 0 12 }
  | 0x5020 => { x with lbCtl := bits v 0 2 }
  | 0x5030 => { x with lbTmaster := bits v 0 12 }
  | n =>
    if h : 0x5400 ≤ n ∧ n < 0x5600 then
      let i := (n - 0x5400) / 0x20
      have hi : i < 16 := by omega
      if n % 0x20 = 0 then { x with lbVale := x.lbVale.set i (bits v 0 36) hi }
      else if n % 0x20 = 0x10 then { x with lbHead := x.lbHead.set i (bits v 0 12) hi } else x
    else x

/-- Whether an offset is that of a staged setting. -/
def isStaged (off : Nat) : Bool := Settings.reset.list.any fun e => e.1 == off

/-- Settings from words in the order of `Settings.list`. -/
def Settings.ofWords (ws : List Word) : Settings :=
  ((Settings.reset.list.map (·.1)).zip ws).foldl (fun x e => x.put e.1 e.2) Settings.reset

/-! ## CHECK (R486) -/

abbrev chkOutside : Nat := 1
abbrev chkOverlap : Nat := 2
abbrev chkAlign : Nat := 3
abbrev chkRange : Nat := 4
abbrev chkLive : Nat := 5
abbrev chkRingBusy : Nat := 6
abbrev chkExpress : Nat := 7
abbrev chkPairRange : Nat := 8
abbrev chkVale : Nat := 9
abbrev chkPairScope : Nat := 10
abbrev chkReserved : Nat := 11

/-- A finding: the offset of a register and a code, when a condition holds. -/
def finding (c : Bool) (off code : Nat) : List (Nat × Nat) := if c then [(off, code)] else []

/-- The regions of a set of settings, each as the offset of its base register, its first Plain offset and its size. A region of zero size
occupies nothing, and the filter and the journal ring lie in the Plain when PE_CELL_COUNT is not 0 (R483). -/
def Settings.regions (x : Settings) : List (Nat × Nat × Nat) :=
  let live := x.peCellCount != 0
  [(0x4000, x.peCellBase.toNat, x.peCellCount.toNat * 4), (0x4020, x.peRuleBase.toNat, x.peRuleCount.toNat * 4),
   (0x4040, x.peFilterBase.toNat, if live then 2 ^ 20 else 0), (0x4100, x.jnRingBase.toNat, if live then 2 ^ x.jnRingLog2.toNat else 0),
   (0x4250, x.wsWtable.toNat, if x.wsWtable = 0 then 0 else 4096)].filter fun r => r.2.2 != 0

/-- Whether two ranges of words overlap. -/
def overlap (a n b m : Nat) : Bool := decide (a < b + m) && decide (b < a + n)

/-- Overlaps of each region with a later one, reported at the lower register. -/
def overlaps : List (Nat × Nat × Nat) → List (Nat × Nat)
  | [] => []
  | r :: l => (l.flatMap fun q => finding (overlap r.2.1 r.2.2 q.2.1 q.2.2) r.1 chkOverlap) ++ overlaps l

/-- The findings on regions (R138, R175, R236). -/
def Settings.regionFindings (x : Settings) : List (Nat × Nat) :=
  let rs := x.regions
  (rs.flatMap fun r =>
    finding (decide (2 ^ 24 < r.2.1 + r.2.2)) r.1 chkOutside ++ finding (overlap r.2.1 r.2.2 0xFF0000 0x10000) r.1 chkOverlap)
  ++ overlaps rs
  ++ finding (x.peCellBase.toNat % 256 != 0) 0x4000 chkAlign ++ finding (x.peRuleBase.toNat % 4 != 0) 0x4020 chkAlign
  ++ finding (x.peFilterBase.toNat % 2 ^ 20 != 0) 0x4040 chkAlign
  ++ finding (x.jnRingBase.toNat % 2 ^ x.jnRingLog2.toNat != 0) 0x4100 chkAlign
  ++ finding (x.wsWtable.toNat % 4096 != 0) 0x4250 chkAlign

/-- The findings on counts, codes and reserved bits. -/
def Settings.fieldFindings (x : Settings) : List (Nat × Nat) :=
  finding (x.peCellCount.toNat % 64 != 0 || decide (2 ^ 21 < x.peCellCount.toNat)) 0x4010 chkRange
  ++ finding (decide (2 ^ 16 < x.peRuleCount.toNat)) 0x4030 chkRange
  ++ finding (decide (x.jnRingLog2.toNat < 16) || decide (22 < x.jnRingLog2.toNat)) 0x4110 chkRange
  ++ finding (x.peCtl &&& 0x008E != 0) 0x4050 chkReserved ++ finding (x.jnCtl &&& 0x00FF != 0) 0x4120 chkReserved
  ++ finding (x.wsCtl &&& 0xFFFC != 0) 0x4230 chkReserved
  ++ (List.finRange 16).flatMap fun v => finding (bits x.lbVale[v] 0 11 != 0) (0x5400 + 0x20 * v.val) chkReserved

/-- Whether an express link may be enabled in a dimension of a size (R449). -/
def expressOk (size : Nat) : Bool := size % 2 == 0 && decide (8 ≤ size)

/-- The findings on the fabric settings (R449, R465, R466). A disabled vale is not examined (log 31). -/
def Settings.fabricFindings (x : Settings) : List (Nat × Nat) :=
  let size (d : Nat) : Nat := coord x.lbDim d + 1
  let inside (p : PairId) : Bool := (List.range 3).all fun d => decide (coord p d < size d)
  finding (bit x.lbCtl 0 && !expressOk (size 0)) 0x5000 chkExpress ++ finding (bit x.lbCtl 1 && !expressOk (size 1)) 0x5000 chkExpress
  ++ finding (!inside x.lbPair) 0x5000 chkPairRange
  ++ (List.finRange 16).flatMap fun v =>
    let w := x.lbVale[v]
    let lo (d : Nat) : Nat := (bits w (31 - 8 * d) 4).toNat
    let hi (d : Nat) : Nat := (bits w (27 - 8 * d) 4).toNat
    let off := 0x5400 + 0x20 * v.val
    if !bit w 35 then []
    else
      finding ((List.range 3).any fun d => decide (hi d < lo d)) off chkVale
      ++ finding ((List.range 3).any fun d => decide (size d ≤ hi d)) 0x5000 chkVale
      ++ finding ((List.range 3).any fun d => decide (coord x.lbHead[v] d < lo d) || decide (hi d < coord x.lbHead[v] d)) off chkVale

/-- The findings against the live state: codes 0x05, 0x06 and 0x0A (R138, R175, R486). `pair` says that the operation is of pair scope. -/
def State.liveFindings (s : State) (pair : Bool) : List (Nat × Nat) :=
  let en := bit s.applied.peCtl 0
  ((s.staged.list.zip s.applied.list).take 9).flatMap fun e =>
    let off := e.1.1
    if e.1.2 == e.2.2 then []
    else
      finding (en && off != 0x4050 && off != 0x4120) off chkLive
      ++ finding ((off == 0x4100 || off == 0x4110) && s.led.wpos != s.led.apos) off chkRingBusy
      ++ finding (!pair && (s.ws.role == 1 || s.ws.role == 2)) off chkPairScope

/-- The first finding: the lowest offset, and the lowest code there (log 31). -/
def firstFinding : List (Nat × Nat) → Option (Nat × Nat)
  | [] => none
  | f :: r => match firstFinding r with
    | none => some f
    | some g => if g.1 < f.1 ∨ (g.1 = f.1 ∧ g.2 < f.2) then some g else some f

/-- STATE of ST_STAGE_STAT (R485). -/
abbrev stClean : BitVec 4 := 0
abbrev stDirty : BitVec 4 := 1
abbrev stChecked : BitVec 4 := 2
abbrev stBusy : BitVec 4 := 3

/-- CHECK (R486), which nothing refuses here. -/
def State.checkStage (s : State) (pair : Bool) : State :=
  let x := s.staged
  let (off, code) := (firstFinding (x.regionFindings ++ x.fieldFindings ++ x.fabricFindings ++ s.liveFindings pair)).getD (0, 0)
  { s with sr := { s.sr with
    stState := if code = 0 then stChecked else stDirty, stCode := BitVec.ofNat 8 code, stCheckAddr := BitVec.ofNat 18 off,
    stSdigest := x.digest, stCheckFail := if code = 0 then s.sr.stCheckFail else inc s.sr.stCheckFail } }

/-- DISCARD (R486). -/
def State.discardStage (s : State) : State := { s with staged := s.applied, sr := { s.sr with stState := stClean } }

/-! ## The settings copies (R479) -/

/-- A word of a settings copy in the start journal (R470): word 0 holds the generation, word 1 + i the i-th setting in ascending offset
(log 31). -/
def copyAddr (c : Bool) (k : Nat) : WAddr := plainAddr ((if c then 0xFF3000 else 0xFF2000) + k)

/-- The generation of a settings copy; one that was never written has 0. -/
def State.copyGen (s : State) (c : Bool) : BitVec 48 := bits (s.data (copyAddr c 0)) 24 48

/-- The current copy: the one with the higher generation. -/
def State.currentCopy (s : State) : Bool := decide ((s.copyGen false).toNat < (s.copyGen true).toNat)

/-- The settings that a copy holds. A copy of generation 0 holds the reset values (log 31). -/
def State.copySettings (s : State) (c : Bool) : Settings :=
  if s.copyGen c = 0 then Settings.reset else Settings.ofWords (s.getWords (copyAddr c 1) Settings.reset.list.length)

/-- Settings written to a copy, its word 0 last (R487). -/
def State.writeCopy (s : State) (c : Bool) (gen : BitVec 48) (x : Settings) : State :=
  (s.putWords (copyAddr c 1) (x.list.map (·.2))).putWord (copyAddr c 0) (at' gen 24)

/-! ## APPLY (R487) -/

/-- The status of an APPLY that may not act: GEN-MISMATCH, NOT-CHECKED, or CHECK-FAIL with its code. -/
def State.applyFault (s : State) (gen : BitVec 48) (pair : Bool) : Option (BitVec 8 × BitVec 8) :=
  if gen ≠ s.sr.stGen then some (0x84, 0)
  else if s.sr.stState ≠ stChecked ∧ !(pair && s.sr.stState == stBusy) then some (0x85, 0)
  else match firstFinding (s.liveFindings pair) with
    | some f => some (0x83, BitVec.ofNat 8 f.2)
    | none => none

/-- An APPLY that failed (R487): counted, and a failed evaluation makes STATE DIRTY. -/
def State.applyFailed (s : State) (status : BitVec 8) : State :=
  { s with sr := { s.sr with
    stCheckFail := inc s.sr.stCheckFail, stState := if status = 0x83 then stDirty else s.sr.stState } }

/-- The instant of an APPLY (R487): the other copy is written, every unit takes the values, and an APPLY entry is written. -/
def State.applyNow (s : State) : State :=
  let g := inc s.sr.stGen
  let x := s.staged
  let s := s.writeCopy (!s.currentCopy) g x
  let s : State := { s with
    applied := x,
    sr := { s.sr with stGen := g, stState := stClean, stApplyTime := s.now, stApplyCnt := inc s.sr.stApplyCnt } }
  s.journalEntry 3 0 0 0 0 0 (s.unitWord 0 0 2) (at' g 24) x.digest 0

/-- APPLY with its status and DETAIL. -/
def State.applyStage (s : State) (gen : BitVec 48) (pair : Bool) : State × BitVec 8 × BitVec 8 :=
  match s.applyFault gen pair with
  | some (st, d) => (s.applyFailed st, st, d)
  | none => (s.applyNow, 0, 0)

/-! ## The commands -/

/-- A stage operation written to ST_STAGE_CTL: while STATE is BUSY it has no effect and is counted (R486, R418). -/
def State.stageOp (s : State) (act : State → State) : State := if s.sr.stState = stBusy then s.barErr else act s

/-- CHECK (R486). -/
def execCheck (s : State) : Host.Outcome State Fault Refusal := .next (s.stageOp fun s => s.checkStage false)

/-- DISCARD (R486). -/
def execDiscard (s : State) : Host.Outcome State Fault Refusal := .next (s.stageOp State.discardStage)

/-- APPLY (R487). -/
def execApply (gen : BitVec 48) (s : State) : Host.Outcome State Fault Refusal := .next (s.stageOp fun s => (s.applyStage gen false).1)

/-- PAIR_APPLY_INSTANT (R488): the time counter reaches the agreed T. The job that asked, on the leader, completes. -/
def execPairApplyInstant (s : State) : Host.Outcome State Fault Refusal :=
  .next (match s.sr.pairApply with
  | none => s
  | some (t, j) =>
    if s.now.toNat < t.toNat then s
    else
      let s : State := { s with sr := { s.sr with pairApply := none } }
      let (s, st, d) := s.applyStage s.sr.stGen true
      match j with
      | some j => s.unitAnswer j st d (if st = 0 then s.sr.stGen.setWidth 72 else 0)
      | none => s)

end Sys2Proof.Machine
end

