-- ==== Sys2Proof/Machine/Start.lean ====
section
/-! DEFINITION. The start steps S01 to S24, their policies, calibration under load, and power (R467-R484, R496-R503). -/

namespace Sys2Proof.Machine

/-! ## The header and the policy words of the start journal (R470, R472) -/

/-- The policy word of step k. -/
def policyAddr (k : Nat) : WAddr := plainAddr (0xFF0017 + k)

/-- FAILSEQ of H5. -/
def State.failSeq (s : State) : BitVec 8 := bits (s.data (hdrAddr 5)) 0 8

/-- The last method of a step (R467). -/
def lastMethod (k : Nat) : Nat := if k = 8 ∨ k = 9 then 2 else if k = 4 ∨ k = 11 ∨ k = 22 then 1 else 0

/-- The action on failure of a step (R467): Halt. -/
def halts (k : Nat) : Bool := !(k == 5 || k == 6 || k == 7 || k == 12 || k == 13 || k == 14 || k == 17 || k == 18 || k == 19)

/-- OUTCOME codes (R471). -/
abbrev outOk : Nat := 0
abbrev outFailed : Nat := 1
abbrev outSkipped : Nat := 2
abbrev outStopped : Nat := 3
abbrev outFenced : Nat := 4

/-- PHASE codes (R482). -/
abbrev phRunning : BitVec 3 := 0
abbrev phDone : BitVec 3 := 1
abbrev phFailed : BitVec 3 := 2
abbrev phStopped : BitVec 3 := 3
abbrev phBootWait : BitVec 3 := 4

/-- A STEP entry of the module (R471). -/
def State.stepEntry (s : State) (k attempt method outcome : Nat) (detail : BitVec 24) (e3 : Word) : State :=
  s.journalEntry 1 k attempt method outcome detail (s.unitWord 0 0 2) e3 0 0

/-- The field of a step in SR_STEPS (R482). -/
def State.markStep (s : State) (k : Nat) (v : BitVec 2) : State := { s with sr := { s.sr with steps := setBits s.sr.steps (2 * (k - 1)) 2 v } }

/-- LASTM and LASTO of a policy word (R472, R473). -/
def State.notePolicy (s : State) (k method outcome : Nat) : State :=
  s.putWord (policyAddr k) (setBits (setBits (s.data (policyAddr k)) 62 2 (BitVec.ofNat 2 method)) 59 3 (BitVec.ofNat 3 outcome))

/-- The value that a list gives a step. -/
def stepVal {α : Type} (l : List (Nat × α)) (k : Nat) (d : α) : α := ((l.find? fun e => e.1 == k).map (·.2)).getD d

/-! ## What a start or a loss of power leaves (R467, R500) -/

/-- A core that no longer runs; a fence stays (R475). -/
def Core.stopped (c : Core) : Core := { Core.reset with run := if c.run = 4 then 4 else 1, fstep := if c.run = 4 then c.fstep else 0 }

/-- Every register at its reset value, and nothing in progress. The memories stay, and so do fences (R475), the settings until S11
restores them, the side, the measured values, the margins of the Basin channels and what the model keeps of time. -/
def State.cleared (s : State) : State :=
  { s with
    cores := s.cores.map Core.stopped
    quads := s.quads.map fun q => { Quad.reset with fenced := q.fenced, fstep := q.fstep }
    engines := s.engines.map fun e => { Engine.reset with fenced := e.fenced, s19 := e.s19 }
    srcs := Source.resets
    mtmr := Vector.replicate 16 0
    led := Ledger.reset
    ws := { Watershed.reset with side := s.ws.side }
    hi := HostIf.reset
    lb := Fabric.reset
    sr := { StartBlk.reset with chans := s.sr.chans.map fun c => { c with stored := none }, taps := s.sr.taps }
    brd := { s.brd with tjWarn := 95, vcoreSet := 820, throtCnt := 0, evt := 0, fordMerge := Vector.replicate 18 0,
                        fordStop := Vector.replicate 18 0, throttling := false, stepAt := 0, coolSince := none } }

/-- The sequence of R500: PWROK is pulled low, nothing more is written or sent, and the logic is powered down. -/
def State.powerDown (s : State) : State :=
  let t := s.cleared
  { t with brd := { t.brd with powered := false, pwrok := false, vcore := 0 } }

/-! ## The work of the steps -/

/-- The cores that fail a fencing step. -/
def badMask (e : StartEnv) (k : Nat) : BitVec 48 := stepVal e.badCores k 0

/-- The words of a role-record copy (R205). -/
def State.roleCopy (s : State) (c : Bool) : List Word := s.getWords (plainAddr (0xFF0010 + (if c then 4 else 0))) 4

/-- Whether a role-record copy is usable (R205): readable, and its reserved bits zero. -/
def State.roleUsable (s : State) (c : Bool) : Bool :=
  let w := s.roleCopy c
  !s.anyBad (plainAddr (0xFF0010 + (if c then 4 else 0))) 4 && bits (w.getD 0 0) 8 10 == 0 && (w.drop 1).all fun x => bits x 0 24 == 0

/-- The current copy of the role record (R205). -/
def State.currentRole (s : State) : Option Bool :=
  let g (c : Bool) : BitVec 8 := bits ((s.roleCopy c).getD 0 0) 0 8
  let t (c : Bool) (k : Nat) : Nat := (bits ((s.roleCopy c).getD k 0) 24 48).toNat
  match s.roleUsable false, s.roleUsable true with
  | false, false => none
  | true, false => some false
  | false, true => some true
  | true, true =>
    if g true == g false + 1 then some true else if g false == g true + 1 then some false
    else if t false 0 < t true 0 then some true else if t true 0 < t false 0 then some false
    else some (decide (t false 1 < t true 1))

/-- S04: the header and the role record (R205, R482). When neither copy is usable, none is current: the next write goes to copy 0 with GEN 0 (DESIGN CHOICE,
log 54). -/
def State.readRole (s : State) : State :=
  let s : State := { s with sr := { s.sr with lock := bit (s.data (hdrAddr 2)) 71 } }
  match s.currentRole with
  | none => { s with ws := { s.ws with role := 4, copy := true, gen := 0xFF } }
  | some c =>
    let w (k : Nat) : Word := (s.roleCopy c).getD k 0
    { s with ws := { s.ws with
        term := bits (w 0) 24 48, lrole := bits (w 0) 19 2, gen := bits (w 0) 0 8, copy := c, mseq := bits (w 1) 24 48,
        soloFirst := bits (w 2) 24 48, ahor := bits (w 3) 24 48 } }

/-- A core fenced by a step, or by a job (step 0). -/
def State.fenceCore (s : State) (n : CoreId) (step : Nat) : State :=
  let s := s.drainAll n
  s.updCore n fun c => { c with run := 4, fstep := BitVec.ofNat 5 step, wait := none, arrived := [], offer := none }

/-- A quad fenced with its cores and engines (R475). -/
def State.fenceQuad (s : State) (q : QuadId) (step : Nat) : State :=
  let s := s.updQuad q fun x => { x with fenced := true, fstep := BitVec.ofNat 5 step }
  let s := (allCores.filter fun n => quadOf n == q).foldl (fun s n => s.fenceCore n step) s
  (allEngines.filter fun e => engQuad e == q).foldl (fun s e => s.updEng e fun x => { x with fenced := true }) s

/-- A fencing step (R468, R475): units that fail are fenced and recorded, and those that the step had fenced and that pass are released. A
core fenced by a job or by R328 is released once it has passed S05 to S07. -/
def State.fencing (s : State) (k : Nat) (attempt method : Nat) (bad : BitVec 48) (badQuads : BitVec 12) : State :=
  let ranAll := k == 7 && bits s.sr.steps 8 2 != 3 && bits s.sr.steps 10 2 != 3
  let frees (step : BitVec 5) : Bool := step.toNat == k || (step == 0 && ranAll)
  let s := allQuads.foldl (fun s q =>
    if k = 7 ∧ bit badQuads q.val then
      let s := s.fenceQuad q k
      s.journalEntry 1 k attempt method outFenced 0 (s.unitWord q.val 0 3) 0 0 0
    else if s.quads[q].fenced && frees s.quads[q].fstep then s.updQuad q fun x => { x with fenced := false, fstep := 0 } else s) s
  allCores.foldl (fun s n =>
    if bit bad n.val then
      let s := s.fenceCore n k
      s.journalEntry 1 k attempt method outFenced 0 (s.unitWord (n.val / 4) (n.val % 4) 4) 0 0 0
    else if s.cores[n].run == 4 && frees s.cores[n].fstep && !s.quads[quadOf n].fenced then
      s.updCore n fun c => { c with run := 1, fstep := 0 } else s) s

/-- S19 (R467, R475): engines idle; one that fails is fenced, and one that passes is released unless its quad is fenced. -/
def State.fenceEngines (s : State) (bad : BitVec 24) : State :=
  allEngines.foldl (fun s e =>
    s.updEng e fun _ => { Engine.reset with fenced := bit bad e.val || s.quads[engQuad e].fenced, s19 := bit bad e.val }) s

/-- S11 (R467, R479): the applied settings restored. Method 1 invalidates the current copy. -/
def State.restoreSettings (s : State) (m : Nat) : Option State :=
  let c := s.currentCopy
  let use := if m = 1 then !c else c
  if s.anyBad (copyAddr use 0) (1 + Settings.reset.list.length) then none
  else
    let s := if m = 1 then s.putWord (copyAddr c 0) 0 else s
    let x := s.copySettings use
    some { s with applied := x, staged := x, sr := { s.sr with stGen := s.copyGen use, stState := stClean } }

/-- S12 (R203, R506): the cable keys read, and the twin links that train are in service. -/
def State.trainTwin (s : State) (up : BitVec 2) : State :=
  let clash := bit s.brd.twinKeys 0 != bit s.brd.twinKeys 1
  let s : State := { s with ws := { s.ws with side := !bit s.brd.twinKeys 0, sideConflict := clash } }
  let s := if clash then s.setWsEvt 12 else s
  (List.finRange 2).foldl (fun s l =>
    if bit up l.val then
      (s.updTwin l fun t => { t with up := true, training := false, lastGood := s.now, lastBeat := s.now }).setWsEvt 7
    else s) s

/-- S14 (R447, R506): the fabric links that have a neighbour and a cable trained under the applied settings. Whether every one of them is in
service. -/
def State.trainFabric (s : State) (far : List (Fin 8 × FarEnd)) : State × Bool :=
  let ls := (List.finRange 8).filter s.trainable
  ls.foldl (fun (x : State × Bool) l =>
    let s := x.1.updLink l fun k => { k with train := true }
    match far.find? fun f => f.1 == l with
    | none => (s, false)
    | some f =>
      let s := s.trained l f.2
      if s.lb.links[l].train then (s, false)
      else ((s.updLink l fun k => { k with up := true }).setLbEvt l.val, x.2)) (s, true)

/-! ### The ledger (R476, R477) -/

/-- What the scan of the ring has found: the records and trailer slots, the position after them, the last record, the last trailer with its
block, and the TIME of the last record, or of the trailer that the scan began with, whose TIME is never less (R186). -/
structure Scan where
  recs : List Rec
  pos : Nat
  last : Option (BitVec 48)
  trailer : Option (Nat × BitVec 64)
  time : BitVec 64
  deriving DecidableEq, Repr

/-- Whether n ring words from a position read without an uncorrectable error. -/
def State.ringGood (s : State) (p n : Nat) : Bool := (List.range n).all fun i => !(s.cell (s.ringAddr (p + i))).bad

/-- Whether a block trailer stands at a position and follows the previous one (R476). -/
def State.trailerAt (s : State) (x : Scan) (p : Nat) : Bool :=
  let b := (bits (s.ringWord p) 0 48).toNat
  recType (s.ringWord p) == 6 && s.ringGood p 12 && (match x.trailer, x.last with
    | some (c, _), _ => b == c + 1
    | none, some q => b == blockOf q
    | none, none => true)

/-- The scan of S15 (R476). Fuel: the words of the ring. -/
def State.scanWhole (s : State) : Nat → Scan → Scan
  | 0, x => x
  | k + 1, x =>
    let p := x.pos
    let w := s.ringWord p
    match recLen w with
    | none => x
    | some n =>
      if recType w = 6 then
        if x.last.isNone && x.trailer.isNone && s.trailerAt x p then
          let b := (bits w 0 48).toNat
          s.scanWhole k { x with
            pos := p + 12, trailer := some (b, BitVec.ofNat 64 p), time := bits (s.ringWord (p + 3)) 8 64,
            recs := [{ trailer := true, seq := BitVec.ofNat 48 (64 * b + 64), pos := BitVec.ofNat 64 p, len := 12, written := true, digest := none }],
            last := some (BitVec.ofNat 48 (64 * b + 64)) }
        else x
      else if !s.ringGood p n || (match x.last with
          | some q => recSeq w != inc q
          | none => p == 0 && recSeq w != 1) then x
      else
        let r : Rec := { trailer := false, seq := recSeq w, pos := BitVec.ofNat 64 p, len := n, written := true, digest := none }
        let y := { x with recs := x.recs ++ [r], pos := p + n, last := some (recSeq w), time := bits (s.ringWord (p + 3)) 8 64 }
        if (recSeq w).toNat % 64 ≠ 0 then s.scanWhole k y
        else
          let t := s.trailerAt y (p + n)
          let slot : Rec := { trailer := true, seq := recSeq w, pos := BitVec.ofNat 64 (p + n), len := 12, written := t, digest := none }
          s.scanWhole k { y with
            recs := y.recs ++ [slot], pos := p + n + 12,
            trailer := if t then some (blockOf (recSeq w), BitVec.ofNat 64 (p + n)) else y.trailer }

/-- S15 (R476): positions and sequence restored. The role record's MSEQ is kept as the second result when it was limited. -/
def State.scanLedger (s : State) : State × Word :=
  if s.applied.peCellCount = 0 then (s, 0)
  else
    let a := bits (s.data (hdrAddr 4)) 0 64
    let x := s.scanWhole (2 ^ s.applied.jnRingLog2.toNat)
      { recs := [], pos := a.toNat, last := none, trailer := none, time := 0 }
    let last := x.last.getD 0
    let covered := ((x.trailer.map fun t => 64 * t.1 + 64)).getD 0
    let role := s.ws.mseq
    let mseq := min (max role.toNat covered) last.toNat
    let limited := decide (last.toNat < role.toNat)
    let blocks := (x.trailer.map fun t => t.1 + 1).getD 0
    ({ s with
       led := { s.led with
         apos := a, xpos := a, wpos := BitVec.ofNat 64 x.pos, seqNext := inc last, recs := x.recs,
         lastTrailer := x.trailer.map (·.2), lastTime := x.time, blockNext := BitVec.ofNat 48 (last.toNat / 64),
         dpos := ((x.recs.find? fun r => !r.trailer && decide (mseq < r.seq.toNat)).map (·.pos)).getD (BitVec.ofNat 64 x.pos) },
       ws := { s.ws with
         mseq := BitVec.ofNat 48 mseq, lostApplied := limited, twinTblk := BitVec.ofNat 48 blocks } },
     if limited then role.setWidth 72 else 0)

/-- S16 (R477): the records up to MSEQ applied, AHOR set, and the filter's next slot found. -/
def State.applyLedger (s : State) : State :=
  if s.applied.peCellCount = 0 then s
  else
    let s : State := { s with led := { s.led with filterNext := s.filterAfterScan } }
    let rs := s.led.recs.filter fun r => !r.trailer && decide (r.seq.toNat ≤ s.ws.mseq.toNat)
    let s := rs.foldl (fun s r => s.applyRecord r.pos.toNat false none) s
    let s : State := { s with
      ws := { s.ws with ahor := s.ws.mseq }
      led := { s.led with filterNext := s.filterAfterScan, decisionWords := 4 * s.led.preps.length } }
    s.settleDpos.writeRole

/-- S17 (R216, R223): the role of the start, counted and recorded, and the reconnection exchange begun on a link in service. -/
def State.startRole (s : State) : State :=
  let s := ({ s with ws := { s.ws with roleCnt := inc s.ws.roleCnt } } : State).writeRole
  let s := s.setWsEvt (if s.ws.role = 4 then 6 else 1)
  if s.ws.role = 4 || s.ws.sideConflict || s.twinLink.isNone then s else s.startRecon

/-! ### Boot and release (R483, R484) -/

/-- The checks of an image's place (R483). -/
def State.imageFits (s : State) (dest words : Nat) : Bool :=
  decide (dest + words ≤ 0xFF0000) && decide (1 ≤ words) && (s.applied.regions.all fun r => !overlap dest words r.2.1 r.2.2)

/-- The image read from the host under the PF and written to the Plain, and recorded in H1 (R483). -/
def State.loadImage (s : State) : State :=
  let n := s.sr.bootWords.toNat
  let s := s.putWords (plainAddr s.sr.bootDest.toNat) (s.hostWords s.sr.bootHost.toNat n)
  s.putWord (hdrAddr 1) (flagAt true 71 ||| at' s.sr.bootWords 40 ||| at' s.sr.bootDest 0)

/-- A core started (R47, R263, R484). -/
def State.startCore (s : State) (n : CoreId) (pc : DAddr) : State := s.updCore n fun _ => { Core.reset with run := 2, pc := pc }

/-- S23 (R484): the start core released; every other core that is not fenced is STOPPED. -/
def State.releaseCores (s : State) : Option State :=
  match allCores.find? fun n => s.cores[n].run != 4 with
  | none => none
  | some n =>
    let s : State := { s with cores := s.cores.map fun c => if c.run = 4 then c else { c with run := 3 } }
    some (s.startCore n (daOf (plainAddr (bits (s.data (hdrAddr 1)) 0 24).toNat) 0))

/-- Whether the clock of a Basin PHY has stopped (R505). -/
def State.basinStopped (s : State) : Bool := (List.range 4).any fun i => (s.brd.fordSince.toList.getD (11 + i) none).isSome

/-- The work of one attempt at a step, with the DETAIL and E3 of its entry; none when the attempt fails (R467). S02 needs the clock of the time
counter and S09 those of the Basin (R505). -/
def State.stepWork (env : StartEnv) (k m : Nat) (s : State) : Option State × BitVec 24 × Word :=
  let e3 := stepVal env.measured k 0
  match k with
  | 1 =>
    let s : State := { s with brd := { s.brd with holdup := bits e3 0 16 } }
    (if (bits e3 0 16).toNat < 10000 then none
     else some { s with brd := { s.brd with pwrok := true, vcore := s.brd.vcoreSet } }, 0, e3)
  | 2 => (if s.brd.fordSince[17].isSome then none else some { s with now := 0 }, 0, e3)
  | 4 => (some s.readRole, if s.currentRole.isNone then 1 else 0, e3)
  | 5 | 6 => (if badMask env k = 0 then some s else none, 0, e3)
  | 7 => (if badMask env k = 0 && env.badQuads = 0 then some s else none, 0, e3)
  | 9 => (if s.basinStopped then none else some { s with sr := { s.sr with
      calMethods := (List.range 4).foldl (fun v i => setBits v (2 * i) 2 (BitVec.ofNat 2 m)) s.sr.calMethods,
      chans := s.sr.chans.map fun c => { c with conservative := m == 2, retrain := false } } }, 0, e3)
  | 11 => (s.restoreSettings m, 0, e3)
  | 12 => (if env.twinUp = 3 then some (s.trainTwin 3) else none, 0, e3)
  | 13 => (if bit env.hiLink 10 then some { s with hi := { s.hi with link := env.hiLink &&& 0x0FFF } } else none, 0, e3)
  | 14 => let (t, ok) := s.trainFabric env.far
    (if ok then some t else none, 0, e3)
  | 15 => let (t, w) := s.scanLedger
    (some t, 0, w)
  | 16 => (some s.applyLedger, 0, e3)
  | 17 => (some s.startRole, 0, e3)
  | 18 => (if env.timeOk then some { s with lb := { s.lb with lastTime := s.now } } else none, 0, e3)
  | 19 => (if env.badEngines = 0 then some s else none, 0, e3)
  | 20 => (some { s with
      srcs := Source.resets, cores := s.cores.map fun c => { c with active := 0 } }, 0, e3)
  | 21 => (some { s with sr := { s.sr with hostServed := true } }, 0, e3)
  | 23 => (s.releaseCores, 0, e3)
  | _ => (some s, 0, e3)

/-- What a step leaves when it has run, whether it passed or failed: units fenced and released, links out of service, PCIe answering
(R468, R469, R475). -/
def State.afterStep (env : StartEnv) (k attempt method : Nat) (ok : Bool) (s : State) : State :=
  match k with
  | 5 | 6 => s.fencing k attempt method (badMask env k) 0
  | 7 => s.fencing k attempt method (badMask env k) env.badQuads
  | 12 => if ok then s else s.trainTwin env.twinUp
  | 13 => { s with
      hi := { s.hi with link := if ok then s.hi.link else env.hiLink &&& 0x0BFF }, sr := { s.sr with pcieServed := true } }
  | 14 => if ok then s else (s.trainFabric env.far).1
  | 19 => s.fenceEngines env.badEngines
  | _ => s

/-! ## Running the steps (R468, R473, R474) -/

/-- A start that fails at a step (R468, R474). -/
def State.failStart (s : State) (k : Nat) : State :=
  let s := s.journalEntry 5 k 0 0 outFailed 0 (s.unitWord 0 0 2) 0 0 0
  let s := s.putWord (hdrAddr 5) ((s.failSeq + 1).setWidth 72)
  { s with sr := { s.sr with phase := phFailed, failedAt := some s.now } }

/-- A start that reaches the end of S24 (R474). -/
def State.endStart (s : State) : State :=
  let s := (s.putWord (hdrAddr 5) 0).journalEntry 5 24 0 0 outOk 0 (s.unitWord 0 0 2) 0 0 0
  { s with sr := { s.sr with phase := phDone } }

/-- Attempts a to the last of a step with one method, each recorded. Whether one passed, and the number of the last. Fuel: the attempts
left. -/
def State.attempts (env : StartEnv) (k m : Nat) : Nat → Nat → State → State × Bool × Nat
  | 0, a, s => (s, false, a - 1)
  | f + 1, a, s =>
    let fails := decide (a ≤ stepVal env.fails k 0)
    match s.stepWork env k m with
    | (some t, d, e3) =>
      if fails then
        State.attempts env k m f (a + 1) (s.stepEntry k a m outFailed (stepVal env.detail k 0) (if k = 15 then 0 else e3))
      else (t.stepEntry k a m outOk d e3, true, a)
    | (none, _, e3) => State.attempts env k m f (a + 1) (s.stepEntry k a m outFailed (stepVal env.detail k 0) e3)

/-- A step whose attempts are over: its policy word and SR_STEPS; whether the start goes on. -/
def State.stepOver (s : State) (env : StartEnv) (k m a : Nat) (ok : Bool) : State × Bool :=
  let s := (s.notePolicy k m (if ok then outOk else outFailed)).markStep k (if ok then 1 else 2)
  let s := s.afterStep env k a m ok
  if ok then (if k = 24 then (s.endStart, false) else (s, true))
  else if halts k then (s.failStart k, false) else (s, true)

/-- ATT of a step (R472). -/
def State.attOf (s : State) (k : Nat) : Nat := max 1 (bits (s.data (policyAddr k)) 66 4).toNat

/-- Attempts of S22 from the a-th on (R483). One that loads from the host waits for GO, and the start goes no further now. Fuel: the
attempts left. -/
def State.bootAttempts (env : StartEnv) (m : Nat) : Nat → Nat → State → State × Bool
  | 0, a, s => s.stepOver env 22 m (a - 1) false
  | f + 1, a, s =>
    let h1 := s.data (hdrAddr 1)
    if m = 0 ∧ bit h1 71 then
      if s.imageFits (bits h1 0 24).toNat (bits h1 40 24).toNat && decide (stepVal env.fails 22 0 < a) then
        (s.stepEntry 22 a m outOk 0 0).stepOver env 22 m a true
      else State.bootAttempts env m f (a + 1) (s.stepEntry 22 a m outFailed 0 0)
    else if m = 1 ∧ s.sr.lock then State.bootAttempts env m f (a + 1) (s.stepEntry 22 a m outFailed 0 0)
    else ({ s with sr := { s.sr with phase := phBootWait, bootTry := a - 1, bootMethod := m, resume := 22 } }, false)

/-- A step run with a method (R468). -/
def State.runStep (env : StartEnv) (k m : Nat) (s : State) : State × Bool :=
  if k = 22 then State.bootAttempts env m (s.attOf k) 1 s
  else
    let (t, ok, a) := State.attempts env k m (s.attOf k) 1 s
    t.stepOver env k m a ok

/-- Steps k to S24 (R473). Fuel: the steps left. -/
def State.runFrom (env : StartEnv) : Nat → Nat → State → State
  | 0, _, s => s
  | f + 1, k, s =>
    if 24 < k then s
    else
      let s : State := { s with sr := { s.sr with step := BitVec.ofNat 5 k } }
      let p := s.data (policyAddr k)
      let lastm := (bits p 62 2).toNat
      let failed := bits p 59 3 == 1 || bits p 59 3 == 3
      let go (m : Nat) (s : State) : State := match s.runStep env k m with
        | (t, true) => State.runFrom env f (k + 1) t
        | (t, false) => t
      if !failed then go 0 s
      else match (bits p 70 2).toNat with
        | 0 => go lastm s
        | 1 => go (min (lastm + 1) (lastMethod k)) s
        | 2 => State.runFrom env f (k + 1) ((s.stepEntry k 0 lastm outSkipped 0 0).markStep k 3)
        | _ =>
          let s := s.stepEntry k 0 lastm outStopped 0 0
          { s with sr := { s.sr with phase := phStopped, resume := k } }

/-- A new start (R467): causes 1 power-on, 2 RESTART job, 3 SR_START_CTL, 4 automatic (R471). -/
def State.beginStart (s : State) (cause : Nat) (env : StartEnv) : State :=
  let s := s.cleared
  let n := bits (s.data (hdrAddr 0)) 0 48 + 1
  let s := s.putWord (hdrAddr 0) (setBits (s.data (hdrAddr 0)) 0 48 n)
  let s : State := { s with sr := { s.sr with start := n } }
  (s.journalEntry 4 0 0 0 0 (BitVec.ofNat 24 cause) (s.unitWord 0 0 2) 0 0 0).runFrom env 24 1

/-- Boot goes on after GO (R483): the image is checked, read and recorded, and the start goes on with S23. -/
def State.bootGo (s : State) (env : StartEnv) : State :=
  let m := s.sr.bootMethod
  let a := s.sr.bootTry + 1
  let s : State := { s with sr := { s.sr with phase := phRunning } }
  let ok := s.imageFits s.sr.bootDest.toNat s.sr.bootWords.toNat && stepVal env.fails 22 0 == 0
  let r := if ok then (s.loadImage.stepEntry 22 a m outOk 0 0).stepOver env 22 m a true
    else State.bootAttempts env m (s.attOf 22 - a) (a + 1) (s.stepEntry 22 a m outFailed 0 0)
  match r with
  | (t, true) => t.runFrom env 2 23
  | (t, false) => t

/-! ## The commands of a start -/

/-- POWER_ON (R467, R499): both inputs have been in range for 10 ms. After a thermal trip or a boundary-scan test both must have cycled
(R503, R511). The Basin holds nothing after a loss of power (log 5). -/
def execPowerOn (env : StartEnv) (s : State) : Host.Outcome State Fault Refusal :=
  .next (if s.brd.powered || (s.brd.latched && (s.brd.mainOk || s.brd.stbyOk)) then s
  else
    let s : State := { s with
      mem := s.mem.filter fun e => decide (2 ^ 48 ≤ e.1)
      brd := { s.brd with powered := true, mainOk := true, stbyOk := true, latched := false, thermtrip := false } }
    s.beginStart 1 env)

/-- RESTART of SR_START_CTL (R482): ignored while PHASE is RUNNING. -/
def State.startRestart (s : State) (env : StartEnv) : State :=
  if s.brd.powered && s.sr.phase != phRunning then s.beginStart 3 env else s

/-- CONTINUE of SR_START_CTL (R473, R482): the stopped step runs with its last method. -/
def State.startContinue (s : State) (env : StartEnv) : State :=
  if s.brd.powered && s.sr.phase == phStopped then
    let k := s.sr.resume
    let m := (bits (s.data (policyAddr k)) 62 2).toNat
    match ({ s with sr := { s.sr with phase := phRunning } } : State).runStep env k m with
    | (t, true) => t.runFrom env (24 - k) (k + 1)
    | (t, false) => t
  else s

/-- START_CTL_RESTART (R482). -/
def execStartCtlRestart (env : StartEnv) (s : State) : Host.Outcome State Fault Refusal := .next (s.startRestart env)

/-- CONTINUE (R473). -/
def execContinueStart (env : StartEnv) (s : State) : Host.Outcome State Fault Refusal := .next (s.startContinue env)

/-- AUTOMATIC_RESTART (R474). -/
def execAutomaticRestart (env : StartEnv) (s : State) : Host.Outcome State Fault Refusal :=
  .next (match s.sr.failedAt with
  | some t =>
    if s.brd.powered && s.sr.phase == phFailed && decide (s.failSeq.toNat < 3) && decide (t.toNat + 10000000 ≤ s.now.toNat) then
      s.beginStart 4 env
    else s
  | none => s)

/-- GO of SR_BOOT_CTL (R483): it acts while S22 waits for it. -/
def State.startGo (s : State) (env : StartEnv) : State := if s.brd.powered && s.sr.phase == phBootWait then s.bootGo env else s

/-- GO (R483). -/
def execGo (env : StartEnv) (s : State) : Host.Outcome State Fault Refusal := .next (s.startGo env)

/-- APOS_RECORD (R470): H4 holds a lower bound of JN_APOS. -/
def execAposRecord (s : State) : Host.Outcome State Fault Refusal :=
  .next (if s.brd.powered && s.applied.peCellCount != 0 && s.sr.hostServed then s.putWord (hdrAddr 4) (s.led.apos.setWidth 72) else s)

/-! ## Calibration under load (R480, R481) -/

/-- One Basin channel replaced by a function of it. -/
def State.updChan (s : State) (c : Fin 64) (f : Chan → Chan) : State := { s with sr := { s.sr with chans := s.sr.chans.set c (f s.sr.chans[c]) } }

/-- MARGIN_MEASURE (R480): at WATCH a retrain is scheduled, at GUARD the channel changes to conservative timings. -/
def execMarginMeasure (ch : Fin 64) (margin : BitVec 8) (s : State) : Host.Outcome State Fault Refusal :=
  .next (if !s.brd.powered then s
  else
    let c := s.sr.chans[ch]
    let k := ch.val / 16
    let watch := decide (margin.toNat ≤ 12)
    let guard := decide (margin.toNat ≤ 6)
    let t := s.updChan ch fun c =>
      { c with margin := margin, retrain := c.retrain || watch, conservative := c.conservative || guard }
    let t := if watch && !c.retrain then t.raise (368 + k) else t
    if guard && !c.conservative then t.raise (376 + k) else t)

/-- RETRAIN_SLICE (R480, R481): the slice that ends a scheduled retrain, with the margin after it. -/
def execRetrainSlice (ch : Fin 64) (margin : BitVec 8) (s : State) : Host.Outcome State Fault Refusal :=
  .next (if !s.brd.powered || !s.sr.chans[ch].retrain then s
  else
    let c := s.sr.chans[ch]
    let k := ch.val / 16
    let good := decide (12 < margin.toNat)
    let reason : Nat := if margin.toNat ≤ 6 then 3 else 0
    let s := s.journalEntry 6 0 0 0 0 (BitVec.ofNat 24 (65536 * k + 256 * (ch.val % 16) + reason)) (s.unitWord 0 0 2) (at' c.margin 0)
      (at' margin 0) 0
    let store := good && (match c.stored with
      | none => true
      | some t => decide (t.toNat + 1000000000 ≤ s.now.toNat))
    let s := s.updChan ch fun c =>
      { c with margin := margin, retrain := false, conservative := c.conservative && !good, stored := if store then some s.now else c.stored }
    s.raise (if good then 372 + k else 380 + k))

/-- SENSE_DELAY_TAP (R480): at most once each us. -/
def execSenseDelayTap (s : State) : Host.Outcome State Fault Refusal :=
  .next (if s.brd.powered && decide (s.sr.lastTap.toNat + 1000 ≤ s.now.toNat) then
    { s with sr := { s.sr with taps := s.sr.taps + 1, lastTap := s.now } } else s)

end Sys2Proof.Machine
end

