-- ==== Sys2Proof/Machine/Power.lean ====
section
/-! DEFINITION. Power, temperature, fords and the test access port (R496-R511). -/

namespace Sys2Proof.Machine

/-- Bit k of TM_EVT set, which raises source 720 + k (R509). -/
def State.tmEvt (s : State) (k : Nat) : State := ({ s with brd := { s.brd with evt := setBit s.brd.evt k true } } : State).raise (720 + k)

/-- A change of the board's state. -/
def State.updBrd (s : State) (f : Board → Board) : State := { s with brd := f s.brd }

/-! ## Power (R499-R501, R509) -/

/-- POWER_FAIL (R500). -/
def execPowerFail (s : State) : Host.Outcome State Fault Refusal :=
  .next ((if s.brd.powered then s.powerDown else s).updBrd fun b => { b with mainOk := false })

/-- HOLDUP_LOW (R501). -/
def execHoldupLow (uj : BitVec 16) (s : State) : Host.Outcome State Fault Refusal :=
  .next (if s.brd.powered && decide (uj.toNat < 10000) then (s.updBrd fun b => { b with holdup := uj }).tmEvt 4 else s)

/-- STANDBY_LOST (R499). -/
def execStandbyLost (s : State) : Host.Outcome State Fault Refusal :=
  .next (let t := s.updBrd fun b => { b with stbyOk := false }
  if s.brd.powered && s.brd.stbyOk then t.tmEvt 3 else t)

/-- UNDERVOLTAGE (R509): main between the power-failure threshold and 11.4 V. -/
def execUndervoltage (mv : BitVec 16) (s : State) : Host.Outcome State Fault Refusal :=
  .next (if s.brd.powered && decide (10800 ≤ mv.toNat) && decide (mv.toNat < 11400) then
    (s.updBrd fun b => { b with p12mMv := mv }).tmEvt 2 else s)

/-- OVERPOWER (R509). -/
def execOverpower (mw : BitVec 20) (s : State) : Host.Outcome State Fault Refusal :=
  .next (if s.brd.powered && decide (480000 < mw.toNat) then (s.updBrd fun b => { b with power := mw }).tmEvt 5 else s)

/-! ## Temperature (R503) -/

/-- A temperature in 1/16 degrees Celsius. -/
def tjOf (tj : BitVec 16) : Int := tj.toInt

/-- A junction temperature read: TM_TJ, and how long it has been below 100 degrees. -/
def State.readTj (s : State) (tj : BitVec 16) : State :=
  s.updBrd fun b => { b with tj := tj, coolSince := if tjOf tj < 1600 then some (b.coolSince.getD s.now) else none }

/-- THERMAL_WARN (R503): a threshold above 103 is treated as 103 (R509). -/
def execThermalWarn (tj : BitVec 16) (s : State) : Host.Outcome State Fault Refusal :=
  .next (if !s.brd.powered then s
  else
    let t := s.readTj tj
    if 16 * (min 103 s.brd.tjWarn.toNat : Int) ≤ tjOf tj then t.tmEvt 0 else t)

/-- THROTTLE (R503): one 10 mV step toward 0.68 V, one each us; the first is an entry. -/
def execThrottle (tj : BitVec 16) (s : State) : Host.Outcome State Fault Refusal :=
  .next (if !s.brd.powered then s
  else
    let t := s.readTj tj
    if tjOf tj < 1648 || (s.brd.throttling && decide (s.now.toNat < s.brd.stepAt.toNat + 1000)) then t
    else
      let t := t.updBrd fun b => { b with vcore := BitVec.ofNat 10 (max 680 (b.vcore.toNat - 10)), throttling := true, stepAt := s.now }
      if s.brd.throttling then t else (t.updBrd fun b => { b with throtCnt := inc b.throtCnt }).tmEvt 1)

/-- THROTTLE_RESTORE (R503): 1 ms below 100 degrees. -/
def execThrottleRestore (s : State) : Host.Outcome State Fault Refusal :=
  .next (match s.brd.coolSince with
  | some t =>
    if s.brd.powered && s.brd.throttling && decide (t.toNat + 1000000 ≤ s.now.toNat) then
      s.updBrd fun b => { b with vcore := b.vcoreSet, throttling := false }
    else s
  | none => s)

/-- The sequence of R500, after which the module stays off until both inputs cycle (R503, R511). -/
def State.shutOff (s : State) : State := (if s.brd.powered then s.powerDown else s).updBrd fun b => { b with latched := true }

/-- THERMAL_TRIP (R503). -/
def execThermalTrip (tj : BitVec 16) (s : State) : Host.Outcome State Fault Refusal :=
  .next (if s.brd.powered && decide (1760 ≤ tjOf tj) then (s.readTj tj).shutOff.updBrd fun b => { b with thermtrip := true } else s)

/-! ## Fords (R504, R505) -/

/-- FORD_CLOCK_STOP (R504): a stop, or a return, of 1 us or longer. -/
def execFordClockStop (ford : Fin 18) (stopped : Bool) (s : State) : Host.Outcome State Fault Refusal :=
  .next (if !s.brd.powered || s.brd.fordSince[ford].isSome == stopped then s
  else
    (s.updBrd fun b =>
      { b with
        fordSince := b.fordSince.set ford (if stopped then some s.now else none)
        fordStop := b.fordStop.set ford (inc b.fordStop[ford]) }).raise (736 + ford.val))

/-- FORD_CLOCK_STOP_TIMEOUT (R505): a Basin PHY clock or the time counter's, 10 us after it stopped. -/
def execFordClockStopTimeout (ford : Fin 18) (s : State) : Host.Outcome State Fault Refusal :=
  .next (match s.brd.fordSince[ford] with
  | some t =>
    if s.brd.powered && (ford == 17 || (decide (11 ≤ ford.val) && decide (ford.val ≤ 14) && decide (t.toNat + 10000 ≤ s.now.toNat))) then
      s.powerDown
    else s
  | none => s)

/-! ## The test access port (R499, R511) -/

/-- A TAP instruction, which runs on standby power. -/
def State.tapIns (s : State) (name : String) (act : State → State) : State :=
  if s.brd.stbyOk then act (s.updBrd fun b => { b with tap := name }) else s

/-- BYPASS (R511). -/
def execBypass (s : State) : Host.Outcome State Fault Refusal := .next (s.tapIns "BYPASS" id)

/-- IDCODE (R511). -/
def execIdcode (s : State) : Host.Outcome State Fault Refusal :=
  .next (s.tapIns "IDCODE" fun s => s.updBrd fun b => { b with mgmtOut := 0x17248B67 })

/-- SAMPLE/PRELOAD (R511). -/
def execSamplePreload (s : State) : Host.Outcome State Fault Refusal := .next (s.tapIns "SAMPLE_PRELOAD" id)

/-- EXTEST (R511). -/
def execExtest (s : State) : Host.Outcome State Fault Refusal := .next (s.tapIns "EXTEST" State.shutOff)

/-- EXTEST_PULSE (R511). -/
def execExtestPulse (s : State) : Host.Outcome State Fault Refusal := .next (s.tapIns "EXTEST_PULSE" State.shutOff)

/-- EXTEST_TRAIN (R511). -/
def execExtestTrain (s : State) : Host.Outcome State Fault Refusal := .next (s.tapIns "EXTEST_TRAIN" State.shutOff)

/-- CLAMP (R511). -/
def execClamp (s : State) : Host.Outcome State Fault Refusal := .next (s.tapIns "CLAMP" State.shutOff)

/-- HIGHZ (R511). -/
def execHighz (s : State) : Host.Outcome State Fault Refusal := .next (s.tapIns "HIGHZ" State.shutOff)

/-- INTEST (R511). -/
def execIntest (s : State) : Host.Outcome State Fault Refusal := .next (s.tapIns "INTEST" State.shutOff)

/-! ## The passing of time (R464) -/

/-- One nanosecond of the reference passes. The time counter counts it; ahead of its reference it counts at half rate, and behind it at 1.5
times rate, until it meets the reference. A counter without power, or whose clock has stopped (ford 17), does not count. -/
def State.tick (s : State) : State :=
  let d := s.lb.drift
  if !s.brd.powered || s.brd.fordSince[17].isSome then s
  else if d = 0 then { s with now := s.now + 1 }
  else if d < 0 then
    (if s.lb.half then { s with now := s.now + 1, lb := { s.lb with half := false } }
    else { s with lb := { s.lb with half := true, drift := d + 1 } })
  else if s.lb.half then { s with now := s.now + 2, lb := { s.lb with half := false, drift := d - 1 } }
  else { s with now := s.now + 1, lb := { s.lb with half := true } }

end Sys2Proof.Machine
end

