-- ==== Sys2Proof/Machine/Units.lean ====
section
/-! DEFINITION. Unit control: the states of units, the paths of unit jobs, and the unit jobs (R465, R475, R478, R489-R492). -/

namespace Sys2Proof.Machine

/-! ## States (R236, R489) -/

/-- WS_STATE (R236). -/
def State.wsState (s : State) : Word :=
  at' s.ws.role 0 ||| flagAt s.ws.side 3 ||| flagAt s.ws.links[0].up 4 ||| flagAt s.ws.links[1].up 5 ||| flagAt s.ws.contact 6
    ||| flagAt s.ws.synced 7

/-- The cores of a unit. -/
def unitCores : UnitId → List CoreId
  | .module => allCores
  | .quad q => allCores.filter fun n => quadOf n == q
  | .core n => [n]

/-- Bits 15:12 of UC_STATE (R489). A module is running once its start is done; a quad is running while a core of it is (log 32). -/
def State.ucCode (s : State) : UnitId → BitVec 4
  | .module => if s.sr.phase = phDone then 2 else if s.sr.phase = phStopped ∨ s.sr.phase = phFailed then 3 else 1
  | .quad q =>
    if s.quads[q].fenced then 4 else if (unitCores (.quad q)).any fun n => s.cores[n].run == 2 then 2
    else if s.sr.phase = phDone then 3 else 1
  | .core n => s.cores[n].run

/-- UC_STATE (R489). -/
def State.ucState (s : State) (u : UnitId) : Word :=
  at' (s.ucCode u) 12 ||| at' (match u with
    | .module => 0
    | .quad q => s.quads[q].fstep
    | .core n => s.cores[n].fstep) 7

/-! ## Paths (R491) -/

/-- Where a unit job is carried out. -/
inductive Place where
  /-- A unit of this module. -/
  | unit (u : UnitId)
  /-- This module's pair. -/
  | pair
  /-- The other side of this module's pair. -/
  | twin
  /-- Another pair, or a unit in it. -/
  | remote (p : PairId)
  | vale (v : Fin 16)
  deriving DecidableEq, Repr

/-- Job statuses of R492 that the model names. -/
abbrev jobNoUnit : BitVec 8 := 0x80
abbrev jobWrongDepth : BitVec 8 := 0x81
abbrev jobUnitState : BitVec 8 := 0x82
abbrev jobLedgerLive : BitVec 8 := 0x87
abbrev jobBadStep : BitVec 8 := 0x88
abbrev jobStageBusy : BitVec 8 := 0x89

/-- The unit that DEPTH 0 names: the one whose block received the job, or the module. -/
def Job.ownUnit (x : Job) : UnitId := match x.origin with
  | .slot u _ => u
  | _ => .module

/-- Whether the path fields that a DEPTH does not use are zero (R491). The reserved depths 6 and 7, for which R433 gives no status, are answered
BAD-FIELD (DESIGN CHOICE, log 33). -/
def Job.pathClean (x : Job) : Bool :=
  match x.depth with
  | 0 => x.pair == 0 && !x.side && x.quad == 0 && x.core == 0
  | 1 | 5 => !x.side && x.quad == 0 && x.core == 0
  | 2 => x.quad == 0 && x.core == 0
  | 3 => x.core == 0
  | 4 => true
  | _ => false

/-- The unit of a module that a path of DEPTH 2 to 4 names. -/
def Job.pathUnit (x : Job) : Option UnitId :=
  if x.depth = 2 then some .module
  else if h : x.quad < 12 then
    (if x.depth = 3 then some (.quad ⟨x.quad, h⟩) else some (.core (Fin.ofNat 48 (4 * x.quad + x.core))))
  else none

/-- The place that a path names, or the status of one that names none (R491). -/
def State.place (s : State) (x : Job) : Place ⊕ BitVec 8 :=
  if !x.pathClean then .inr jobBadField
  else match x.depth with
    | 0 => .inl (.unit x.ownUnit)
    | 5 =>
      if h : x.pair.toNat < 16 then
        (if bit s.applied.lbVale[x.pair.toNat] 35 then .inl (.vale ⟨x.pair.toNat, h⟩) else .inr jobNoUnit)
      else .inr jobNoUnit
    | 1 => if !s.pairInDim x.pair then .inr jobNoUnit else if x.pair == s.applied.lbPair then .inl .pair else .inl (.remote x.pair)
    | _ =>
      match x.pathUnit with
      | none => .inr jobNoUnit
      | some u =>
        if !s.pairInDim x.pair then .inr jobNoUnit
        else if x.pair != s.applied.lbPair then .inl (.remote x.pair)
        else if x.side != s.ws.side then .inl .twin else .inl (.unit u)

/-- The depths of a unit job (R491). -/
def jobDepths (opc : Nat) : List Nat :=
  match opc with
  | 0x40 => [1, 2, 3, 4, 5]
  | 0x41 | 0x42 | 0x43 => [3, 4]
  | 0x44 | 0x45 | 0x4A => [1, 2]
  | 0x46 | 0x47 | 0x48 => [1, 2, 5]
  | 0x49 => [2]
  | 0x4B => [2, 3, 4]
  | _ => []

/-- The depth at which a job acts: DEPTH 0 names a unit with a depth of its own. -/
def Job.actDepth (x : Job) : Nat :=
  if x.depth ≠ 0 then x.depth else match x.ownUnit with
    | .module => 2
    | .quad _ => 3
    | .core _ => 4

/-- Whether parameter bits that the job's row does not name are zero (R433, R491). The other side's part of a pair-scope APPLY names the
agreed time in P2 (log 33). -/
def Job.paramsClean (x : Job) (part : Bool) : Bool :=
  let ok (a b c : Nat) : Bool := !beyond x.s1 a && !beyond x.s2 b && !beyond x.s3 c
  let all := 2 ^ 72 - 1
  match x.opc.toNat with
  | 0x41 => ok all 0 0
  | 0x44 => ok 31 (2 ^ 72 - 2 ^ 66) 0
  | 0x47 => ok (2 ^ 48 - 1) (if part then 2 ^ 64 - 1 else 0) 0
  | 0x49 => ok 15 0 0
  | 0x4A => ok all (if x.actDepth = 1 then all else 0) 0
  | _ => ok 0 0 0

/-! ## Forwarding (R456, R460, R465, R491) -/

/-- The words of a job as a UNIT request at another depth. -/
def Job.wordsAt (x : Job) (depth : BitVec 3) (pair : PairId) : List Word :=
  [setBits (setBits (setBits x.s0 37 3 depth) 25 12 pair) 18 7 0, x.s1, x.s2, x.s3]

/-- A UNIT request to a pair, or to the other side of this one. With no route the part completes with HOST-DMA (R460). -/
def State.sendUnit (s : State) (j : JobId) (p : PairId) (side : Bool) (words : List Word) : State :=
  if (s.blocked p).isSome then
    (({ s with lb := { s.lb with undeliv := inc s.lb.undeliv } } : State).setLbEvt 11).unitAnswer j jobHostDma 0 0
  else s.request (packet 8 0 p side 0x62 0 words) (.unit j)

/-- A job that waits for answers. -/
def State.startJob (s : State) (x : Job) (t : Option Tally) : State := s.updJob x.id fun y => { y with started := true, tally := t }

/-- A whole job passed on. -/
def State.forwardJob (s : State) (x : Job) (p : PairId) (side : Bool) : State :=
  (s.startJob x none).sendUnit x.id p side [x.s0, x.s1, x.s2, x.s3]

/-- The twin is in contact and sequences (R456). -/
def State.twinLeads (s : State) : Bool := s.ws.contact && (s.ws.twinRole == 1 || s.ws.twinRole == 3)

/-- A part of a pair-scope job that the twin's leader sent (R488, R491): this module does its own side only. -/
def State.isPart (s : State) (x : Job) : Bool := match x.origin with
  | .fabric p side _ => p == s.applied.lbPair && side != s.ws.side && !s.leads
  | _ => false

/-- A job whose own side is done, and whose other side is asked when the twin is in contact. -/
def State.bothSides (s : State) (x : Job) (words : List Word) (status detail : BitVec 8) (result : Word) : State :=
  if s.isPart x || !s.ws.contact then s.jobEnd x status detail result
  else
    (s.startJob x (some { vale := false, left := 1, done := 0, status := status, detail := detail, result := result })).sendUnit x.id
      s.applied.lbPair (!s.ws.side) words

/-- The pairs of a vale's box (R465). -/
def State.valePairs (s : State) (v : Fin 16) : List PairId :=
  let w := s.applied.lbVale[v]
  let span (d : Nat) : List Nat :=
    let lo := (bits w (31 - 8 * d) 4).toNat
    (List.range ((bits w (27 - 8 * d) 4).toNat + 1 - lo)).map (· + lo)
  (span 0).flatMap fun a => (span 1).flatMap fun b => (span 2).map fun c => BitVec.ofNat 12 (256 * a + 16 * b + c)

/-- A job at vale scope: a pair-scope job for every pair in the box, the own pair's as a job of its own here. -/
def State.valeJob (s : State) (x : Job) (v : Fin 16) : State :=
  let ps := s.valePairs v
  let s := s.startJob x (some { vale := true, left := ps.length, done := 0, status := 0, detail := 0, result := 0 })
  ps.foldl (fun s p =>
    let ws := x.wordsAt 1 p
    if p == s.applied.lbPair then (s.addJob (.part x.id) (ws.getD 0 0) x.s1 x.s2 x.s3).2
    else s.sendUnit x.id p s.ws.side ws) s

/-! ## Carrying a unit job out -/

/-- A unit job (R491): authority, path, depth and parameters, in that order; then the job at its place. A job at pair scope is done by the
leader, or passed to it; without one it is REFUSED, but CREATE-LEDGER, which has no leader yet, is done where it was submitted
(log 33). -/
def State.unitJob (s : State) (j : JobId) (opc : Nat) (atUnit : UnitId → Job → State → State) (atPair : Job → State → State) : State :=
  match s.jobFor j opc with
  | none => s
  | some x =>
    if x.started then s
    else match s.authority x with
      | some c => s.jobEnd x jobPass c 0
      | none =>
        match s.place x with
        | .inr st => s.jobEnd x st 0 0
        | .inl pl =>
          let local_ := match x.origin with
            | .fabric _ _ _ => false
            | _ => true
          let asLeader (act : State → State) : State :=
            if s.leads || s.isPart x then act s
            else if s.twinLeads then s.forwardJob x s.applied.lbPair (!s.ws.side)
            else if opc = 0x4A && local_ then act s
            else s.jobEnd x jobRefused 1 0
          if !(jobDepths opc).contains x.actDepth then s.jobEnd x jobWrongDepth 0 0
          else if !x.paramsClean (s.isPart x) then s.jobEnd x jobBadField 0 0
          else match pl with
            | .unit u => atUnit u x s
            | .pair => asLeader (atPair x)
            | .twin => if s.leads || s.twinLeads then s.forwardJob x s.applied.lbPair (!s.ws.side) else s.jobEnd x jobRefused 1 0
            | .remote p => s.forwardJob x p s.ws.side
            | .vale v =>
              if s.applied.lbHead[v] == s.applied.lbPair then asLeader fun s => s.valeJob x v
              else s.forwardJob x s.applied.lbHead[v] s.ws.side

/-- What a job has at no pair: its row gives it only units. -/
def noPair (x : Job) (s : State) : State := s.jobEnd x jobWrongDepth 0 0

/-- QUERY_JOB (R491). -/
def execQueryJob (j : JobId) (s : State) : Host.Outcome State Fault Refusal :=
  .next (s.unitJob j 0x40 (fun u x s => s.jobEnd x jobDone 0 (s.ucState u)) fun x s => s.jobEnd x jobDone 0 s.wsState)

/-- The start digit address of a START: bits 71:57 zero and position 0 or 9 (R60, R484). -/
def startAddr (w : Word) : Option DAddr :=
  let da := bits w 0 57
  if bits w 57 15 = 0 ∧ (daPos da = 0 ∨ daPos da = 9) then some da else none

/-- START on a unit (R475, R484, R491): a fenced one runs S05 to S07 first, and `passes` says whether it passed. -/
def State.startUnit (s : State) (u : UnitId) (x : Job) (passes : Bool) : State :=
  let cs := unitCores u
  let quadHeld := match u with
    | .core n => s.quads[quadOf n].fenced
    | _ => false
  let fenced := (match u with
    | .quad q => s.quads[q].fenced
    | _ => false) || cs.any fun n => s.cores[n].run == 4
  let todo := cs.filter fun n => s.cores[n].run != 2
  match startAddr x.s1 with
  | none => s.jobEnd x jobRefused 2 0
  | some pc =>
    if todo.isEmpty then s.jobEnd x jobUnitState 2 0
    else if quadHeld || (fenced && !passes) then s.jobEnd x jobUnitState 4 0
    else
      let s := match u with
        | .quad q =>
          let s := s.updQuad q fun y => { y with fenced := false, fstep := 0 }
          (allEngines.filter fun e => engQuad e == q).foldl (fun (s : State) e => s.updEng e fun y => { y with fenced := y.s19 }) s
        | _ => s
      let s := todo.foldl (fun s n => s.startCore n pc) s
      s.jobEnd x jobDone 0 (BitVec.ofNat 72 todo.length)

/-- START_JOB (R484, R491). -/
def execStartJob (j : JobId) (passes : Bool) (s : State) : Host.Outcome State Fault Refusal :=
  .next (s.unitJob j 0x41 (fun u x s => s.startUnit u x passes) noPair)

/-- Whether a running core is at a boundary with no POST or COMMIT outstanding (R150). -/
def Core.canStop (c : Core) : Bool := c.run != 2 || (c.wait.isNone && c.arrived.isEmpty && c.posts.isEmpty)

/-- STOP on a unit (R491): its running cores stop at their next boundary; until then the job waits. -/
def State.stopUnit (s : State) (u : UnitId) (x : Job) : State :=
  let cs := (unitCores u).filter fun n => s.cores[n].run == 2
  if s.ucCode u = 4 then s.jobEnd x jobUnitState 4 0
  else if (unitCores u).all fun n => s.cores[n].canStop then
    let s := cs.foldl (fun s n => (s.drainAll n).updCore n fun c => { c with run := 3 }) s
    s.jobEnd x jobDone 0 (BitVec.ofNat 72 cs.length)
  else s

/-- STOP_JOB (R491). -/
def execStopJob (j : JobId) (s : State) : Host.Outcome State Fault Refusal := .next (s.unitJob j 0x42 (fun u x s => s.stopUnit u x) noPair)

/-- FENCE_UNIT (R475, R491). -/
def execFenceUnit (j : JobId) (s : State) : Host.Outcome State Fault Refusal :=
  .next (s.unitJob j 0x43 (fun u x s =>
    (match u with
    | .quad q => s.fenceQuad q 0
    | .core n => s.fenceCore n 0
    | .module => s).jobEnd x jobDone 0 0) noPair)

/-- POLICY on this module (R472): the old policy word, or BAD-STEP. -/
def State.setPolicy (s : State) (x : Job) : State × BitVec 8 × Word :=
  let k := (bits x.s1 0 5).toNat
  let next := bits x.s2 70 2
  if k = 0 ∨ 24 < k ∨ (next = 2 ∧ halts k) then (s, jobBadStep, 0)
  else
    let p := s.data (policyAddr k)
    (s.putWord (policyAddr k) (setBits p 66 6 (bits x.s2 66 6)), jobDone, p)

/-- POLICY (R472, R491). -/
def execPolicy (j : JobId) (s : State) : Host.Outcome State Fault Refusal :=
  .next (s.unitJob j 0x44
    (fun _ x s => let (s, st, r) := s.setPolicy x; s.jobEnd x st 0 r)
    fun x s => let (s, st, r) := s.setPolicy x; s.bothSides x [x.s0, x.s1, x.s2, x.s3] st 0 r)

/-- The completions that wait on a pair written, as far as the ring has room. -/
def State.writeAll (s : State) (q : QpId) : Nat → State
  | 0 => s
  | k + 1 => (s.writeCompletion q).writeAll q k

/-- A RESULT written before the start begins (R491): the job completes and its completion is written; while the ring has no room nothing
happens yet. Then every queue pair ends with the start. -/
def State.restartWith (s : State) (x : Job) (env : StartEnv) : State :=
  let t := s.jobEnd x jobDone 0 0
  match x.qp with
  | none => t.beginStart 2 env
  | some q =>
    let u := t.writeAll q t.hi.qps[q].waiting.length
    if u.hi.qps[q].waiting.any fun c => c.job == x.id then s else u.beginStart 2 env

/-- RESTART (R467, R491). At pair scope the twin is asked first. -/
def execRestart (j : JobId) (env : StartEnv) (s : State) : Host.Outcome State Fault Refusal :=
  .next (s.unitJob j 0x45 (fun _ x s => s.restartWith x env) fun x s =>
    let t := if s.isPart x || !s.ws.contact then s
      else s.request (packet 8 0 s.applied.lbPair (!s.ws.side) 0x62 0 [x.s0, x.s1, x.s2, x.s3]) (.unit x.id)
    t.restartWith x env)

/-- RESULT of a CHECK (R491). -/
def State.checkResult (s : State) : Word := at' s.sr.stCode 64 ||| at' s.sr.stCheckAddr 0

/-- CHECK_JOB (R486, R491). -/
def execCheckJob (j : JobId) (s : State) : Host.Outcome State Fault Refusal :=
  .next (s.unitJob j 0x46
    (fun _ x s =>
      if s.sr.stState = stBusy then s.jobEnd x jobStageBusy 0 0
      else let s := s.checkStage false; s.jobEnd x jobDone 0 s.checkResult)
    fun x s =>
      if s.sr.stState = stBusy then s.jobEnd x jobStageBusy 0 0
      else let s := s.checkStage true; s.bothSides x [x.s0, x.s1, x.s2, x.s3] jobDone 0 s.checkResult)

/-- A pair-scope APPLY agreed for time t (R488). -/
def State.agreeApply (s : State) (x : Job) (t : BitVec 64) : State :=
  { s with sr := { s.sr with stState := stBusy, pairApply := some (t, some x.id) } }

/-- A pair-scope APPLY (R488). On the leader both modules must be CHECKED at one ST_GEN with equal digests, and T is 20 us ahead; the other
side takes the T that it is sent. -/
def State.applyPair (s : State) (x : Job) (twin : Option TwinStage) : State :=
  let gen := bits x.s1 0 48
  let fail (st d : BitVec 8) : State := (s.applyFailed st).jobEnd x st d 0
  if s.sr.stState = stBusy then s.jobEnd x jobStageBusy 0 0
  else match s.applyFault gen true with
    | some (st, d) => fail st d
    | none =>
      if s.isPart x then (s.startJob x none).agreeApply x (bits x.s2 0 64)
      else match (if s.ws.contact then twin else none) with
        | none => s.jobEnd x jobRefused 3 0
        | some w =>
          if w.gen ≠ gen then fail 0x84 0
          else if !w.checked then fail 0x85 0
          else if w.sdigest ≠ s.sr.stSdigest then fail 0x83 0
          else
            let t := s.now + 20000
            let s := s.startJob x (some { vale := false, left := 2, done := 0, status := 0, detail := 0, result := (inc gen).setWidth 72 })
            (s.agreeApply x t).sendUnit x.id s.applied.lbPair (!s.ws.side) [x.s0, x.s1, at' t 0, 0]

/-- APPLY_JOB (R487, R488). -/
def execApplyJob (j : JobId) (twin : Option TwinStage) (s : State) : Host.Outcome State Fault Refusal :=
  .next (s.unitJob j 0x47
    (fun _ x s =>
      if s.sr.stState = stBusy then s.jobEnd x jobStageBusy 0 0
      else
        let (s, st, d) := s.applyStage (bits x.s1 0 48) false
        s.jobEnd x st d (if st = 0 then s.sr.stGen.setWidth 72 else 0))
    fun x s => s.applyPair x twin)

/-- DISCARD_JOB (R486, R491). -/
def execDiscardJob (j : JobId) (s : State) : Host.Outcome State Fault Refusal :=
  .next (s.unitJob j 0x48
    (fun _ x s => if s.sr.stState = stBusy then s.jobEnd x jobStageBusy 0 0 else s.discardStage.jobEnd x jobDone 0 0)
    fun x s =>
      if s.sr.stState = stBusy then s.jobEnd x jobStageBusy 0 0
      else s.discardStage.bothSides x [x.s0, x.s1, x.s2, x.s3] jobDone 0 0)

/-- RECAL (R481): every channel of the stacks named is retrained at once. -/
def execRecal (j : JobId) (s : State) : Host.Outcome State Fault Refusal :=
  .next (s.unitJob j 0x49 (fun _ x s =>
    let s := (List.finRange 64).foldl (fun s c =>
      if bit x.s1 (c.val / 16) then s.updChan c fun y => { y with retrain := true } else s) s
    s.jobEnd x jobDone 0 0) noPair)

/-- Whether this module takes a CREATE-LEDGER with a serial (R478). -/
def State.mayCreate (s : State) (serial : Word) : Bool :=
  (s.ws.role == 0 || s.ws.role == 4) && !bit s.applied.peCtl 0 && serial == Config.serial.setWidth 72

/-- The empty ledger (R178, R478). -/
def State.createLedger (s : State) : State :=
  let s := s.applied.ledgerRegions.foldl (fun s r => s.zeroRange (plainAddr r.1) r.2) s
  let l := Ledger.reset
  let s : State := { s with
    led := { l with
      seqNext := 1, accept := s.led.accept, reject := s.led.reject, dup := s.led.dup, notseq := s.led.notseq, fullCnt := s.led.fullCnt,
      ackErr := s.led.ackErr, commitCnt := s.led.commitCnt, evt := s.led.evt, tickets := s.led.tickets, done := s.led.done }
    ws := { s.ws with
      term := 0, lrole := 0, mseq := 0, ahor := 0, soloFirst := 0, copy := false, gen := 1, lostApplied := false, twinAseq := 0, twinTblk := 0 } }
  let s := s.putWord (hdrAddr 4) 0
  let old := ({ s with ws := { s.ws with gen := 0 } } : State).roleWords
  (s.putWords (plainAddr 0xFF0010) s.roleWords).putWords (plainAddr 0xFF0014) old

/-- CREATE_LEDGER (R478). The pair form carries side A's serial in P1 and side B's in P2. -/
def execCreateLedger (j : JobId) (s : State) : Host.Outcome State Fault Refusal :=
  .next (s.unitJob j 0x4A
    (fun _ x s => if s.mayCreate x.s1 then s.createLedger.jobEnd x jobDone 0 0 else s.jobEnd x jobLedgerLive 0 0)
    fun x s =>
      if s.mayCreate (if s.ws.side then x.s2 else x.s1) then s.createLedger.bothSides x [x.s0, x.s1, x.s2, x.s3] jobDone 0 0
      else s.jobEnd x jobLedgerLive 0 0)

/-- CLEAR_FAIL (R491). -/
def execClearFail (j : JobId) (s : State) : Host.Outcome State Fault Refusal :=
  .next (s.unitJob j 0x4B (fun u x s =>
    let s := s.updBlock (fun b => { b with fail0 := 0, fail1 := 0 }) u
    let s := match u with
      | .module => s.putWord (hdrAddr 5) 0
      | _ => s
    s.jobEnd x jobDone 0 0) noPair)

end Sys2Proof.Machine
end

