-- ==== Sys2Proof/Machine/Setup.lean ====
section
/-! DEFINITION. The registers of the setup space: what each reads as and what a write does (R418-R427, R469, R482, R485, R509), the
writes of the host, and the management port (R508). -/

namespace Sys2Proof.Machine

/-! ## Free values for the start that a plain register write begins -/

/-- The list of a free value for each key. -/
def drawList {α : Type} (f : Word → α) : List Nat → M (List (Nat × α))
  | [] => pure []
  | k :: r => do
    let v ← draw
    let l ← drawList f r
    return (k, f v) :: l

/-- What the far ends report, each a free value. -/
def drawFar : List (Fin 8) → M (List (Fin 8 × FarEnd))
  | [] => pure []
  | l :: r => do
    let v ← draw
    let t ← drawFar r
    return if bit v 0 then (l, { pair := bits v 1 12, side := bit v 13, link := Fin.ofNat 8 (bits v 14 3).toNat, delay := bits v 17 16 }) :: t
      else t

/-- What the parts outside the logic do during a start that a register write begins: free values (log 14). -/
def drawEnv : M StartEnv := do
  let fails ← drawList (fun v => (bits v 0 8).toNat) (List.range 25)
  let bad ← drawList (fun v => bits v 0 48) [5, 6, 7]
  let a ← draw
  let b ← draw
  let far ← drawFar (List.finRange 8)
  let measured ← drawList id (List.range 25)
  let detail ← drawList (fun v => bits v 0 24) [8, 9]
  return { fails := fails, badCores := bad, badQuads := bits a 0 12, badEngines := bits a 12 24, twinUp := bits a 36 2, hiLink := bits a 38 16,
           far := far, timeOk := bit b 0, measured := measured, detail := detail }

/-- A start with what `drawEnv` gives. -/
def State.withEnv (s : State) (f : State → StartEnv → State) : State :=
  match drawEnv s with
  | .ok env t => f t env
  | .error _ t => t

/-! ## Reading -/

/-- The identity block (R421). -/
def State.idSlot (s : State) (o : Nat) : Word :=
  match o with
  | 0x00 => if Config.extended then 0x505837323438423045 else 0x505837323438423043
  | 0x10 => Config.serial.setWidth 72
  | 0x20 => at' s.applied.lbPair 1 ||| flagAt s.ws.side 0
  | 0x30 => 1
  | 0x40 => s.now.setWidth 72
  | 0x50 => 0x040040
  | _ => 0

/-- The identification registers of PCIe configuration space (R510). -/
structure ConfigIds where
  vendor : BitVec 16
  device : BitVec 16
  revision : BitVec 8
  classCode : BitVec 24
  deriving DecidableEq, Repr

/-- What the physical function, and each virtual function, of a module with power reports in configuration space (R510). -/
def State.configIds (s : State) (fn : Option (Fin 32)) : Option ConfigIds :=
  if s.brd.powered then some { vendor := 0x1F6C, device := if fn.isNone then 0x7248 else 0x7249, revision := 0xB0, classCode := 0x120000 }
  else none

/-- Whether a unit is fenced (SR_STATE.DEGRADED). -/
def State.degraded (s : State) : Bool :=
  (s.cores.toList.any fun c => c.run == 4) || (s.quads.toList.any fun q => q.fenced) || s.engines.toList.any fun e => e.fenced

/-- One bit for each member of a list that a test picks, the first in bit 0. -/
def maskWord {α : Type} (p : α → Bool) (l : List α) : Nat := l.foldr (fun x n => 2 * n + (if p x then 1 else 0)) 0

/-- The lowest margin of the Basin channels, in taps. -/
def State.lowestMargin (s : State) : Nat := s.sr.chans.toList.foldl (fun m c => min m c.margin.toNat) 255

/-- The start report (R482). -/
def State.srSlot (s : State) (o : Nat) : Word :=
  match o with
  | 0x00 => at' s.sr.phase 13 ||| at' s.sr.step 8 ||| flagAt s.degraded 7
  | 0x10 => s.sr.start.setWidth 72
  | 0x20 => s.sr.steps.setWidth 72
  | 0x30 => BitVec.ofNat 72 (maskWord (fun c : Core => c.run == 4) s.cores.toList)
  | 0x40 => BitVec.ofNat 72 (maskWord (fun q : Quad => q.fenced) s.quads.toList + 2 ^ 12 * maskWord (fun e : Engine => e.fenced) s.engines.toList)
  | 0x60 => s.sr.bootHost.setWidth 72
  | 0x70 => s.sr.bootWords.setWidth 72
  | 0x80 => s.sr.bootDest.setWidth 72
  | 0x90 => flagAt s.sr.lock 1
  | 0xA0 => s.sr.calMethods.setWidth 72 ||| BitVec.ofNat 72 (s.lowestMargin * 2 ^ 64)
  | 0xB0 => s.failSeq.setWidth 72
  | _ => 0

/-- The host-interface registers (R422). -/
def State.hiSlot (s : State) (o : Nat) : Word :=
  match o with
  | 0x00 => s.hi.pollMin.setWidth 72
  | 0x10 => s.hi.pollMax.setWidth 72
  | 0x20 => s.hi.bindBase.setWidth 72
  | 0x30 => s.hi.link.setWidth 72
  | 0x40 => s.hi.pollCnt.setWidth 72
  | 0x50 => s.hi.pollLate.setWidth 72
  | 0x60 => s.hi.barErr.setWidth 72
  | 0x70 => s.hi.dmaErr.setWidth 72
  | 0x80 => s.hi.jobCnt.setWidth 72
  | 0x90 => s.hi.evt.setWidth 72
  | _ => 0

/-- The aperture registers (R424). -/
def State.aptSlot (s : State) (o : Nat) : Word :=
  if h : o / 0x20 < 64 then
    let a := s.hi.apts[o / 0x20]
    if o % 0x20 = 0 then a.base.setWidth 72 else a.ctl.setWidth 72
  else 0

/-- The stage registers (R485). -/
def State.stSlot (s : State) (o : Nat) : Word :=
  match o with
  | 0x10 => at' s.sr.stState 68 ||| at' s.sr.stCode 60
  | 0x20 => s.sr.stGen.setWidth 72
  | 0x30 => s.sr.stCheckAddr.setWidth 72
  | 0x40 => s.sr.stApplyTime.setWidth 72
  | 0x50 => s.applied.digest
  | 0x60 => s.sr.stSdigest
  | 0x70 => s.sr.stApplyCnt.setWidth 72
  | 0x80 => s.sr.stCheckFail.setWidth 72
  | _ => 0

/-- The live registers of the PE, JN and WS blocks (R138, R175, R236). -/
def State.ledgerSlot (s : State) (o : Nat) : Word :=
  match o with
  | 0x4060 => s.led.seqNext.setWidth 72
  | 0x4070 => s.led.accept.setWidth 72
  | 0x4080 => s.led.reject.setWidth 72
  | 0x4090 => s.led.dup.setWidth 72
  | 0x40A0 => s.led.notseq.setWidth 72
  | 0x40B0 => BitVec.ofNat 72 ((s.led.parts.filter fun p => p.phase == 1).length % 2 ^ 16)
  | 0x4130 => s.led.wpos.setWidth 72
  | 0x4140 => s.led.dpos.setWidth 72
  | 0x4150 => s.led.xpos.setWidth 72
  | 0x4160 => s.led.apos.setWidth 72
  | 0x4170 => s.led.blockNext.setWidth 72
  | 0x4180 => BitVec.ofNat 72 s.hashBacklog
  | 0x4190 => s.led.fullCnt.setWidth 72
  | 0x41A0 => s.led.ackErr.setWidth 72
  | 0x41B0 => s.led.commitCnt.setWidth 72
  | 0x41C0 => s.led.evt.setWidth 72
  | 0x4200 => s.wsState
  | 0x4210 => s.ws.term.setWidth 72
  | 0x4220 => s.ws.mseq.setWidth 72
  | 0x4260 => s.ws.grantLast
  | 0x4270 => s.ws.divPfx.setWidth 72
  | 0x4280 => s.ws.divTail.setWidth 72
  | 0x4290 => s.ws.links[0].crcCnt.setWidth 72
  | 0x42A0 => s.ws.links[1].crcCnt.setWidth 72
  | 0x42B0 => s.ws.replayCnt.setWidth 72
  | 0x42C0 => s.ws.healCnt.setWidth 72
  | 0x42D0 => s.ws.healFail.setWidth 72
  | 0x42E0 => s.ws.roleCnt.setWidth 72
  | 0x42F0 => s.ws.evt.setWidth 72
  | _ => 0

/-- The registers of a fabric link (R466). -/
def FabLink.slot (x : FabLink) (o : Nat) : Word :=
  match o with
  | 0x00 => flagAt x.up 15 ||| flagAt x.miswire 14 ||| flagAt x.train 13 ||| at' x.far 0
  | 0x10 => x.corr.setWidth 72
  | 0x20 => x.uncorr.setWidth 72
  | 0x30 => x.replay.setWidth 72
  | _ => 0

/-- The live registers of the LB block (R466). -/
def State.lbSlot (s : State) (o : Nat) : Word :=
  if h : 0x100 ≤ o ∧ o < 0x300 then s.lb.links[(o - 0x100) / 0x40].slot ((o - 0x100) % 0x40)
  else match o with
  | 0x40 => s.lb.timeErr.setWidth 72
  | 0x50 => s.lb.txCnt.setWidth 72
  | 0x60 => s.lb.rxCnt.setWidth 72
  | 0x70 => s.lb.retryCnt.setWidth 72
  | 0x80 => s.lb.undeliv.setWidth 72
  | 0x90 => s.lb.dropCnt.setWidth 72
  | 0xA0 => s.lb.planeCnt.setWidth 72
  | 0xB0 => s.lb.evt.setWidth 72
  | _ => 0

/-- The telemetry registers (R509). -/
def State.tmSlot (s : State) (o : Nat) : Word :=
  if h : 0x100 ≤ o ∧ o < 0x220 then s.brd.fordMerge[(o - 0x100) / 0x10].setWidth 72
  else if h : 0x400 ≤ o ∧ o < 0x520 then s.brd.fordStop[(o - 0x400) / 0x10].setWidth 72
  else match o with
  | 0x00 => s.brd.tj.setWidth 72
  | 0x10 => s.brd.tjWarn.setWidth 72
  | 0x20 => s.brd.p12mMv.setWidth 72
  | 0x30 => s.brd.p12mMa.setWidth 72
  | 0x40 => s.brd.p12sMv.setWidth 72
  | 0x50 => s.brd.power.setWidth 72
  | 0x60 => s.brd.vcore.setWidth 72
  | 0x70 => s.brd.vcoreSet.setWidth 72
  | 0x80 => s.brd.holdup.setWidth 72
  | 0x90 => s.brd.throtCnt.setWidth 72
  | 0xA0 => s.brd.evt.setWidth 72
  | _ => 0

/-- The registers of queue pair q (R427). -/
def State.qpSlot (s : State) (q : QpId) (o : Nat) : Word :=
  let p := s.hi.qps[q]
  match o with
  | 0x00 => p.ctl.setWidth 72
  | 0x10 => p.sqBase.setWidth 72
  | 0x20 => p.cqBase.setWidth 72
  | 0x30 => p.sqDb.setWidth 72
  | 0x40 => p.cqDb.setWidth 72
  | 0x50 =>
    at' p.state 60 ||| at' p.err 52 ||| at' (bits p.sqh 0 16) 32 ||| at' (bits p.cqt 0 16) 16 ||| at' (BitVec.ofNat 8 (s.inProgress q)) 8
  | 0x60 => p.jobs.setWidth 72
  | 0x70 => p.evt.setWidth 72
  | _ => 0

/-- The setup slot at octet offset `o`, a multiple of 16 (R418-R420). A staged setting reads as its applied value; a reserved slot as zero. -/
def State.setupRead (s : State) (o : Nat) : Word :=
  match s.applied.list.find? fun e => e.1 == o with
  | some e => e.2
  | none =>
    if o < 0x400 then s.idSlot o
    else if o < 0x800 then s.srSlot (o - 0x400)
    else if o < 0x1000 then s.hiSlot (o - 0x800)
    else if o < 0x1800 then s.aptSlot (o - 0x1000)
    else if o < 0x2000 then 0
    else if o < 0x4000 then s.stSlot (o - 0x2000)
    else if o < 0x5000 then s.ledgerSlot o
    else if o < 0x6000 then s.lbSlot (o - 0x5000)
    else if o < 0x8000 then s.tmSlot (o - 0x6000)
    else if h : 0x20000 ≤ o ∧ o < 0x40000 then s.qpSlot ⟨(o - 0x20000) / 0x80, by omega⟩ ((o - 0x20000) % 0x80)
    else 0

/-! ## Writing -/

/-- Who writes a setup register (R423): a core, the physical function or a virtual function. -/
inductive SetupBy where
  | core
  | pf
  | vf
  deriving DecidableEq, Repr

/-- Some fields of a 72-bit value that a register of width w takes. -/
def low {w : Nat} (v : Word) : BitVec w := v.setWidth w

/-- A W1C register after a write (R6). -/
def w1c {w : Nat} (x : BitVec w) (v : Word) : BitVec w := x &&& ~~~(low v)

/-- Start control and host boot (R482, R483). The host writes the boot registers only while LOCK is 0; only a core writes LOCK, and only
the host the rest. -/
def State.srWrite (s : State) (by_ : SetupBy) (o : Nat) (v : Word) : State :=
  let boot (f : StartBlk → StartBlk) : State := if by_ == .core || s.sr.lock then s.barErr else { s with sr := f s.sr }
  match o with
  | 0x50 => if bit v 0 then s.withEnv State.startRestart else if bit v 1 then s.withEnv State.startContinue else s
  | 0x60 => boot fun x => { x with bootHost := low v }
  | 0x70 => boot fun x => { x with bootWords := low v }
  | 0x80 => boot fun x => { x with bootDest := low v }
  | 0x90 =>
    if by_ == .core then ({ s with sr := { s.sr with lock := bit v 1 } } : State).putWord (hdrAddr 2) (flagAt (bit v 1) 71)
    else if s.sr.lock || bit v 1 then s.barErr
    else if bit v 0 then s.withEnv State.startGo else s
  | _ => s

/-- The host-interface registers (R422, R423). -/
def State.hiWrite (s : State) (by_ : SetupBy) (o : Nat) (v : Word) : State :=
  match o with
  | 0x00 => { s with hi := { s.hi with pollMin := low v } }
  | 0x10 => { s with hi := { s.hi with pollMax := low v } }
  | 0x20 => if by_ == .core then { s with hi := { s.hi with bindBase := low v } } else s.barErr
  | 0x90 => { s with hi := { s.hi with evt := w1c s.hi.evt v } }
  | _ => s

/-- The aperture registers (R425): while EN is 1 only EN changes. -/
def State.aptWrite (s : State) (o : Nat) (v : Word) : State :=
  if h : o / 0x20 < 64 then
    let a := s.hi.apts[o / 0x20]
    let put (x : Aperture) : State := { s with hi := { s.hi with apts := s.hi.apts.set (o / 0x20) x } }
    if o % 0x20 = 0 then (if bit a.ctl 47 then s.barErr else put { a with base := low v })
    else if bit a.ctl 47 && bits v 0 47 != bits a.ctl 0 47 then s.barErr
    else put { a with ctl := low v }
  else s

/-- ST_STAGE_CTL (R485-R487). A value with another bit set, or an OP of 0, asks for nothing (log 31). -/
def State.stWrite (s : State) (o : Nat) (v : Word) : State :=
  if o = 0 ∧ bits v 48 22 = 0 then
    match (bits v 70 2).toNat with
    | 1 => s.stageOp fun s => s.checkStage false
    | 2 => s.stageOp fun s => (s.applyStage (bits v 0 48) false).1
    | 3 => s.stageOp State.discardStage
    | _ => s
  else s

/-- The event registers of the PE, JN and WS blocks. -/
def State.ledgerWrite (s : State) (o : Nat) (v : Word) : State :=
  match o with
  | 0x41C0 => { s with led := { s.led with evt := w1c s.led.evt v } }
  | 0x42F0 => { s with ws := { s.ws with evt := w1c s.ws.evt v } }
  | _ => s

/-- The telemetry registers (R509): a target outside its range is clamped. The core supply follows its target, but while it is throttled (R497,
R503). -/
def State.tmWrite (s : State) (o : Nat) (v : Word) : State :=
  match o with
  | 0x10 => s.updBrd fun b => { b with tjWarn := low v }
  | 0x70 =>
    let x : BitVec 10 := low v
    let y : BitVec 10 := BitVec.ofNat 10 (min 900 (max 680 x.toNat))
    let s := s.updBrd fun b => { b with vcoreSet := y, vcore := if b.throttling || !b.powered then b.vcore else y }
    if x = y then s else s.tmEvt 6
  | 0xA0 => s.updBrd fun b => { b with evt := w1c b.evt v }
  | _ => s

/-- The registers of a queue pair (R423, R427, R428). A write that changes FN, from elsewhere than a core, is refused whole (log 28). -/
def State.qpWrite (s : State) (by_ : SetupBy) (q : QpId) (o : Nat) (v : Word) : State :=
  let p := s.hi.qps[q]
  let base (f : Qp → Qp) : State := if p.state == qpDisabled then s.updQp q f else s.barErr
  match o with
  | 0x00 =>
    let x : BitVec 32 := low v &&& 0xFFFFFE00
    if by_ != .core && bits x 24 5 != bits p.ctl 24 5 then s.barErr
    else if p.state != qpDisabled && bits x 0 31 != bits p.ctl 0 31 then s.barErr
    else (s.updQp q fun p => { p with ctl := setBit x 31 (bit p.ctl 31) }).setEn q (bit x 31)
  | 0x10 => base fun p => { p with sqBase := low v }
  | 0x20 => base fun p => { p with cqBase := low v }
  | 0x30 => base fun p => { p with sqDb := low v }
  | 0x40 => base fun p => { p with cqDb := low v }
  | 0x70 => s.updQp q fun p => { p with evt := w1c p.evt v }
  | _ => s

/-- A write of a setup slot by a core or the physical function (R418-R423). A staged setting takes it in its staged copy. -/
def State.setupWrite (s : State) (by_ : SetupBy) (o : Nat) (v : Word) : State :=
  if isStaged o then { s with staged := s.staged.put o v, sr := { s.sr with stState := stDirty } }
  else if o < 0x400 then s
  else if o < 0x800 then s.srWrite by_ (o - 0x400) v
  else if o < 0x1000 then s.hiWrite by_ (o - 0x800) v
  else if o < 0x1800 then s.aptWrite (o - 0x1000) v
  else if o < 0x2000 then s
  else if o < 0x4000 then s.stWrite (o - 0x2000) v
  else if o < 0x5000 then s.ledgerWrite o v
  else if o < 0x6000 then (if o = 0x50B0 then { s with lb := { s.lb with evt := w1c s.lb.evt v } } else s)
  else if o < 0x8000 then s.tmWrite (o - 0x6000) v
  else if h : 0x20000 ≤ o ∧ o < 0x40000 then s.qpWrite by_ ⟨(o - 0x20000) / 0x80, by omega⟩ ((o - 0x20000) % 0x80) v
  else s

/-! ## Writes of the host -/

/-- Whether the module takes setup writes of the host at all: powered, S13 past, and a partner with Flit Mode (R415, R469). -/
def State.barOn (s : State) : Bool := s.brd.powered && s.sr.pcieServed && !bit s.hi.link 11

/-- Whether a slot takes a write of the physical function now (R469): before S21 only start control and the boot registers. -/
def State.barServes (s : State) (o : Nat) : Bool := s.barOn && (s.sr.hostServed || decide (0x450 ≤ o ∧ o < 0x4A0))

/-- The value that a request writes (R418): bits 71:64 are zero without octet 8. -/
def reqValue (c8 : Bool) (v : Word) : Word := if c8 then v else (bits v 0 64).setWidth 72

/-- The queue pairs that a virtual function sees (R417): at most 96, lowest first. -/
def State.vfPairs (s : State) (k : Nat) : List QpId := ((List.finRange 1024).filter fun q => s.hi.qps[q].fn == k).take 96

/-- A write of the physical function to BAR0. -/
def State.pfWrite (s : State) (off : Nat) (c07 c8 : Bool) (v : Word) : State :=
  let o := off / 16 * 16
  if !s.barServes o then s
  else if !c07 then s.barErr
  else s.setupWrite .pf o (reqValue c8 v)

/-- A write of virtual function k to VF BAR0 (R417, R423): only to the blocks of its own pairs. -/
def State.vfWrite (s : State) (k : Fin 32) (off : Nat) (c07 c8 : Bool) (v : Word) : State :=
  let o := off / 16 * 16
  if !(s.barOn && s.sr.hostServed) || k.val == 0 then s
  else if !c07 || decide (o < 0x1000) then s.barErr
  else match (s.vfPairs k.val)[(o - 0x1000) / 0x80]? with
    | some q => s.qpWrite .vf q ((o - 0x1000) % 0x80) (reqValue c8 v)
    | none => s.barErr

/-! ## The management port -/

/-- The protocol and the static address of the management port (R507): I3C with MSEL open, SMBus with it tied to GND. An address strap that is open
reads 1, by its pull-up (R496). -/
def State.mgmtPort (s : State) : Bool × BitVec 7 :=
  let pin (i : Nat) : BitVec 7 := if bit s.brd.straps i then 0 else 1
  (bit s.brd.straps 2, 0x58 + 2 * pin 1 + pin 0)

/-- The slots that the management port reads (R508): the ID, SR, HI and TM blocks. -/
def mgmtReads (o : Nat) : Bool := decide (o < 0x1000) || decide (0x6000 ≤ o ∧ o < 0x8000)

/-- MGMT_TRANSACTION (R508): it needs standby power. It writes only SR_START_CTL. -/
def execMgmtTransaction (op : MgmtOp) (s : State) : Host.Outcome State Fault Refusal :=
  .next (if !s.brd.stbyOk then s
  else match op with
    | .read off =>
      let o := off.toNat / 16 * 16
      s.updBrd fun b => { b with mgmtOut := if mgmtReads o then s.setupRead o else 0 }
    | .write off v => if off.toNat / 16 * 16 = 0x450 then s.srWrite .pf 0x50 v else s)

/-! ## Enabling and disabling a queue pair -/

/-- Whether the pairs are served (R469). -/
def State.pairsServed (s : State) : Bool := s.brd.powered && s.sr.hostServed

/-- QP_ENABLE (R428): EN is written 1. Nothing happens while the pairs are not served (R469). -/
def execQpEnable (q : QpId) (s : State) : Host.Outcome State Fault Refusal := .next (if s.pairsServed then s.setEn q true else s)

/-- QP_DISABLE (R428): EN is written 0. -/
def execQpDisable (q : QpId) (s : State) : Host.Outcome State Fault Refusal := .next (if s.pairsServed then s.setEn q false else s)

end Sys2Proof.Machine
end

