-- ==== Sys2Proof/Machine/Device.lean ====
section
/-! DEFINITION. The device-control region: the words that cores load and store (R37, R51-R53, R306, R392, R419, R489), and the
commands that are stores with an effect of their own. -/

namespace Sys2Proof.Machine

/-! ## Reading -/

/-- The control words of a core (R261, R281, R292, R312, R342, R385). -/
def Core.ctlWord (c : Core) (o : Nat) : Word :=
  match o with
  | 0x00 => c.pipeCtl.setWidth 72
  | 0x01 => c.retired.setWidth 72
  | 0x02 => c.mispred.setWidth 72
  | 0x03 => c.l1miss.setWidth 72
  | 0x04 => c.fillWait.setWidth 72
  | 0x05 => c.sbFull.setWidth 72
  | 0x06 => c.partialWait.setWidth 72
  | 0x07 => c.detSteps.setWidth 72
  | 0x08 => c.detVar.setWidth 72
  | 0x09 => 48
  | 0x0A => 112
  | 0x20 => c.troot.setWidth 72
  | 0x21 => c.space.setWidth 72
  | 0x22 => c.tlbMiss.setWidth 72
  | 0x23 => c.walkCnt.setWidth 72
  | 0x24 => c.conflictCnt.setWidth 72
  | 0x40 => c.ssp.setWidth 72
  | 0x42 => c.sspass.w0
  | 0x43 => c.sspass.w1
  | 0x44 => flagAt c.sspass.valid 0
  | 0x60 => c.swh.setWidth 72
  | 0x61 => c.swx.setWidth 72
  | 0x62 => c.swExh.setWidth 72
  | 0x63 => c.fpown
  | 0x64 => c.ctxfp.setWidth 72
  | 0x66 => c.fpxchCnt.setWidth 72
  | 0x80 => c.ltb.setWidth 72
  | 0x81 => c.active.setWidth 72
  | 0x82 => c.evec.setWidth 72
  | 0x83 => c.esp.setWidth 72
  | 0x85 => c.ep15.w0
  | 0x86 => c.ep15.w1
  | 0x87 => c.ep14.w0
  | 0x88 => c.ep14.w1
  | 0x89 => flagAt c.ep15.valid 0 ||| flagAt c.ep14.valid 1
  | 0x8A => c.lseStat
  | 0x8B => c.lseAddr.setWidth 72
  | 0x8C => c.lseCnt.setWidth 72
  | 0x8D => c.dfCnt.setWidth 72
  | 0x8E => c.escCnt.setWidth 72
  | 0x8F => c.tmr
  | 0xC1 => c.mcStat
  | 0xC2 => c.mcPid.setWidth 72
  | 0xC3 => c.mcOid.setWidth 72
  | 0xC4 => c.mcAddr.setWidth 72
  | 0xC5 => c.mcPar.setWidth 72
  | 0xC6 => c.mtrapCnt.setWidth 72
  | 0xC7 => c.mcLoad.setWidth 72
  | _ => 0

/-- A word of the source table (R306). -/
def Source.word (x : Source) (o : Nat) : Word :=
  match o with
  | 0 => x.cfg
  | 1 => flagAt x.pend 71 ||| at' x.raises 32 ||| at' x.merges 0
  | 3 => x.last.setWidth 72
  | _ => 0

/-- A word of an engine control block (R392). -/
def Engine.ctlWord (x : Engine) (o : Nat) : Word :=
  match o with
  | 0x03 =>
    (match x.running with
      | some p => flagAt true 71 ||| at' p.prio 68 ||| at' p.cpb 0
      | none => 0) ||| at' (BitVec.ofNat 4 x.ready.length) 64
  | 0x04 => x.credit[0].setWidth 72
  | 0x05 => x.credit[1].setWidth 72
  | 0x06 => x.credit[2].setWidth 72
  | 0x07 => x.credit[3].setWidth 72
  | 0x0C => x.ccwCnt.setWidth 72
  | 0x0D => x.wordCnt.setWidth 72
  | 0x0E => x.postCnt.setWidth 72
  | 0x0F => x.rejCvt.setWidth 72
  | 0x10 => x.rejVal.setWidth 72
  | 0x11 => x.rejPost.setWidth 72
  | 0x12 => x.faultCnt.setWidth 72
  | 0x13 => x.preemptCnt.setWidth 72
  | 0x14 => x.reqErr.setWidth 72
  | 0x15 => x.evt.setWidth 72
  | _ => 0

/-- The unit control block that a device offset lies in, and the offset in it (R489). -/
def unitAt (o : Nat) : Option (UnitId × Nat) :=
  if 0xD0000 ≤ o ∧ o < 0xD0100 then some (.module, o - 0xD0000)
  else if h : 0xD1000 ≤ o ∧ o < 0xD1C00 then some (.quad ⟨(o - 0xD1000) / 0x100, by omega⟩, (o - 0xD1000) % 0x100)
  else if h : 0xD2000 ≤ o ∧ o < 0xD5000 then some (.core ⟨(o - 0xD2000) / 0x100, by omega⟩, (o - 0xD2000) % 0x100)
  else none

/-- UC_ID: the unit layout of E2 (R471, R489). -/
def State.ucId (s : State) : UnitId → Word
  | .module => s.unitWord 0 0 2
  | .quad q => s.unitWord q.val 0 3
  | .core n => s.unitWord (n.val / 4) (n.val % 4) 4

/-- A word of a job slot (R489). -/
def JobSlot.word (j : JobSlot) (o : Nat) : Word :=
  match o with
  | 0 => j.s0
  | 1 => j.s1
  | 2 => j.s2
  | 3 => j.s3
  | 4 => flagAt j.busy 71 ||| flagAt j.done 70 ||| at' j.status 24 ||| at' j.detail 16
  | 5 => j.res
  | _ => 0

/-- A word of a unit control block (R489). -/
def State.ucWord (s : State) (u : UnitId) (o : Nat) : Word :=
  let b := s.block u
  if h : 0x10 ≤ o ∧ o < 0x50 then b.slots[(o - 0x10) / 8].word ((o - 0x10) % 8)
  else match o with
  | 0 => s.ucId u
  | 1 => s.ucState u
  | 2 => s.sr.stGen.setWidth 72
  | 3 => b.fail0
  | 4 => b.fail1
  | 5 => b.jobCnt.setWidth 72
  | 6 => b.jobErr.setWidth 72
  | _ => 0

/-- The core whose control words a device offset names, and the offset in its block (R51). The alias at the top names the core that
accesses; an access by none of this module's cores finds nothing there. -/
def ctlBlock (n : Option CoreId) (o : Nat) : Option (CoreId × Nat) :=
  if h : 0xC0000 ≤ o ∧ o < 0xC3000 then some (⟨(o - 0xC0000) / 0x100, by omega⟩, (o - 0xC0000) % 0x100)
  else if 0xFFF00 ≤ o then n.map fun n => (n, o - 0xFFF00)
  else none

/-- What a device-control word reads as; a reserved one is zero (R52, R419). -/
def State.deviceWord (s : State) (n : Option CoreId) (o : Nat) : Word :=
  match ctlBlock n o with
  | some (m, k) => s.cores[m].ctlWord k
  | none =>
    match unitAt o with
    | some (u, k) => s.ucWord u k
    | none =>
      if 0x80000 ≤ o ∧ o < 0x84000 then s.setupRead ((o - 0x80000) * 16)
      else if h : 0xA0000 ≤ o ∧ o < 0xA1000 then s.srcs[(o - 0xA0000) / 4].word ((o - 0xA0000) % 4)
      else if h : 0xA1000 ≤ o ∧ o < 0xA1010 then s.mtmr[o - 0xA1000]
      else if h : 0xB0000 ≤ o ∧ o < 0xB1800 then s.engines[(o - 0xB0000) / 0x100].ctlWord ((o - 0xB0000) % 0x100)
      else 0

/-- FILL_WAIT_COUNT takes the steps waited before it is read (log 10). -/
def drawCounters (n : Option CoreId) (o : Nat) : M Unit :=
  match ctlBlock n o with
  | some (m, 0x04) => fillWaits m
  | _ => pure ()

/-- A load of a device-control word. -/
def devLoad (n : Option CoreId) (o : Nat) : M Word := do
  drawCounters n o
  look fun s => s.deviceWord n o

/-! ## Writing -/

/-- SS_MOVE (R262). -/
def ssMove (n : CoreId) (v : Word) : M Unit := do
  let i : PassId := bits v 0 4
  if bits v 5 67 != 0 then pure ()
  else if bit v 4 then modCore n fun c => c.setP i c.sspass
  else do
    let p := (← getCore n).pr i
    require p.valid (passFault 1 i 0)
    require (!p.sealed) (passFault 2 i 0)
    require p.shadow (passFault 9 i 0)
    modCore n fun c => { c with sspass := p }

/-- E_MOVE (R312). -/
def eMove (n : CoreId) (v : Word) : M Unit := do
  let i : PassId := bits v 0 4
  if bits v 5 67 != 0 then pure ()
  else do
    let p := (← getCore n).pr i
    require p.valid (passFault 1 i 0)
    require (!p.sealed) (passFault 2 i 0)
    modCore n fun c => if bit v 4 then { c with ep14 := p } else { c with ep15 := p }

/-- A control word of a core written by its own core (R52). Each is in force at once, which R53 allows. -/
def ctlStore (n : CoreId) (o : Nat) (v : Word) : M Unit :=
  match o with
  | 0x00 => modCore n fun c => { c with pipeCtl := low v }
  | 0x07 => modCore n fun c => { c with detSteps := low v }
  | 0x08 => modCore n fun c => { c with detVar := low v }
  | 0x20 => modCore n fun c => { c with troot := low v &&& 0xFFFFFFFFFFE01#52 }
  | 0x21 => modCore n fun c => { c with space := low v }
  | 0x40 => modCore n fun c => { c with ssp := low v }
  | 0x41 => ssMove n v
  | 0x60 => modCore n fun c => { c with swh := low v }
  | 0x61 => modCore n fun c => { c with swx := low v }
  | 0x63 => modCore n fun c => { c with fpown := v &&& 0x80000FFFFFFFFFFFFF }
  | 0x64 => modCore n fun c => { c with ctxfp := low v }
  | 0x65 => fpxch n v
  | 0x80 => modCore n fun c => { c with ltb := low v }
  | 0x82 => modCore n fun c => { c with evec := low v }
  | 0x83 => modCore n fun c => { c with esp := low v }
  | 0x84 => eMove n v
  | 0x8A => modCore n fun c => { c with lseStat := c.lseStat &&& ~~~(v &&& 0xC00000000000000000) }
  | 0x8F => upd fun s => (s.setTimer v (.core n)).fireTimer (.core n)
  | 0xC0 => mcLoadStore n v
  | _ => pure ()

/-- A store to the source table (R306, R307). -/
def State.srcStore (s : State) (k : SrcId) (o : Nat) (v : Word) : State :=
  let put (f : Source → Source) : State := { s with srcs := s.srcs.set k (f s.srcs[k]) }
  match o with
  | 0 => put fun x => { x with cfg := v &&& 0xF00000FFFFFFFFFFFF }
  | 1 => put fun x => { x with pend := x.pend && !bit v 71 }
  | 2 => s.srcRaise k.val v
  | _ => s

/-- A store to an engine control block that is no request (R392, R407). -/
def State.engPut (s : State) (e : EngId) (o : Nat) (v : Word) : State :=
  match o with
  | 0x08 => s.addCredit e 0 (bits v 0 32).toNat
  | 0x09 => s.addCredit e 1 (bits v 0 32).toNat
  | 0x0A => s.addCredit e 2 (bits v 0 32).toNat
  | 0x0B => s.addCredit e 3 (bits v 0 32).toNat
  | 0x15 => s.updEng e fun x => { x with evt := w1c x.evt v }
  | _ => s

/-- One slot of a unit control block replaced by a function of it. -/
def State.updSlot (s : State) (u : UnitId) (k : Fin 8) (f : JobSlot → JobSlot) : State :=
  s.updBlock (fun b => { b with slots := b.slots.set k (f b.slots[k]) }) u

/-- A store that R490 refuses. -/
def State.slotRefused (s : State) (u : UnitId) : State := s.updBlock (fun b => { b with jobErr := inc b.jobErr }) u

/-- GO (R490): the slot's job is submitted. A slot takes NOP and the unit jobs (R433, log 16). -/
def State.slotGo (s : State) (u : UnitId) (k : Fin 8) : State :=
  let j := (s.block u).slots[k]
  if j.busy then s.slotRefused u
  else
    let s := s.updSlot u k fun j => { j with busy := true, done := false }
    let (x, s) := s.addJob (.slot u k) j.s0 j.s1 j.s2 j.s3
    let unitOpc := x.opc == 0 || decide (0x40 ≤ x.opc.toNat)
    match (if unitOpc then entryStatus j.s0 j.s1 j.s2 j.s3 else some jobBadOpcode) with
    | some st => s.finishJob x st 0 0
    | none => s

/-- A store to a unit control block (R489, R490). -/
def State.ucStore (s : State) (u : UnitId) (o : Nat) (v : Word) : State :=
  if h : 0x10 ≤ o ∧ o < 0x50 then
    let k : Fin 8 := ⟨(o - 0x10) / 8, by omega⟩
    let put (f : JobSlot → JobSlot) : State := if (s.block u).slots[k].busy then s.slotRefused u else s.updSlot u k f
    match (o - 0x10) % 8 with
    | 0 => put fun j => { j with s0 := v }
    | 1 => put fun j => { j with s1 := v }
    | 2 => put fun j => { j with s2 := v }
    | 3 => put fun j => { j with s3 := v }
    | 4 => if bit v 0 then s.slotGo u k else if bit v 70 then s.updSlot u k fun j => { j with done := false } else s
    | _ => s
  else s

/-- A store to a device-control word that is no control word of a core and no request to an engine (R306, R407, R419, R489); a reserved
word takes it without effect. -/
def State.devicePut (s : State) (o : Nat) (v : Word) : State :=
  match unitAt o with
  | some (u, k) => s.ucStore u k v
  | none =>
    if 0x80000 ≤ o ∧ o < 0x84000 then s.setupWrite .core ((o - 0x80000) * 16) v
    else if h : 0xA0000 ≤ o ∧ o < 0xA1000 then s.srcStore ⟨(o - 0xA0000) / 4, by omega⟩ ((o - 0xA0000) % 4) v
    else if h : 0xA1000 ≤ o ∧ o < 0xA1010 then
      (s.setTimer v (.module ⟨o - 0xA1000, by omega⟩)).fireTimer (.module ⟨o - 0xA1000, by omega⟩)
    else if h : 0xB0000 ≤ o ∧ o < 0xB1800 then s.engPut ⟨(o - 0xB0000) / 0x100, by omega⟩ ((o - 0xB0000) % 0x100) v
    else s

/-- The engine that a device offset sends a request to, and which: 0 CH_START, 1 CH_RESUME, 2 CH_HALT (R392). -/
def engRequest (o : Nat) : Option (EngId × Nat) :=
  if h : 0xB0000 ≤ o ∧ o < 0xB1800 then
    (if (o - 0xB0000) % 0x100 < 3 then some (⟨(o - 0xB0000) / 0x100, by omega⟩, (o - 0xB0000) % 0x100) else none)
  else none

/-- A request to an engine under a pass register of the core (R393-R395). -/
def engAsk (n : CoreId) (e : EngId) (k : Nat) (v : Word) : M Unit := do
  let p := (← getCore n).pr (bits v 52 4)
  match k with
  | 0 => do
    let _ ← chStart (.core n 1) p e v
    return
  | 1 => chResume (.core n 1) p e v
  | _ => chHalt (.core n 1) p e v

/-- A store of a core to a device-control word (R52, R392). -/
def devStore (n : CoreId) (o : Nat) (v : Word) : M Unit :=
  match ctlBlock (some n) o with
  | some (_, k) => ctlStore n k v
  | none =>
    match engRequest o with
    | some (e, k) => engAsk n e k v
    | none => upd fun s => s.devicePut o v

/-! ## A core's store that has an effect of its own -/

/-- A device-control store takes effect after every older store of the core (R337). A store that began a start has reset the core. -/
def devStoreNext (n : CoreId) (o : Nat) (v : Word) : M Next := do
  upd fun s => s.drainAll n
  let before ← look fun s => s.sr.start
  devStore n o v
  let after ← look fun s => s.sr.start
  return if before = after then .seq else .gone

/-- The STW of a core that writes a device-control word; the checks of its operand under its own pass and translation have passed, and
the rule of R52 on blocks of other cores is made here (log 14). -/
def State.coreStore (s : State) (n : CoreId) (o : Nat) (v : Word) : State :=
  let pa := deviceAddr o
  s.runIns n {} (do
    let s ← get
    match s.regionFault (some n) .stw maskAll (flatEnt pa) pa 0 0 with
    | some i => Machine.raise i
    | none => pure ()
    chargeAccess n pa
    devStoreNext n o v)

/-- The device offset of a control word of core n. -/
def ctlOff (n : CoreId) (k : Nat) : Nat := 0xC0000 + 0x100 * n.val + k

/-- The device offset of a word of engine e's control block. -/
def engOff (e : EngId) (k : Nat) : Nat := 0xB0000 + 0x100 * e.val + k

/-- The device offset of a word of a unit control block. -/
def unitOff (u : UnitId) (k : Nat) : Nat :=
  match u with
  | .module => 0xD0000 + k
  | .quad q => 0xD1000 + 0x100 * q.val + k
  | .core n => 0xD2000 + 0x100 * n.val + k

/-- SRC_RAISE (R307). -/
def execSrcRaise (n : CoreId) (src : SrcId) (v : Word) (s : State) : Host.Outcome State Fault Refusal :=
  .next (s.coreStore n (0xA0000 + 4 * src.val + 2) v)

/-- SSPASS_LOAD (R262): SS_MOVE with a value below 0x10. -/
def execSspassLoad (n : CoreId) (p : PassId) (s : State) : Host.Outcome State Fault Refusal :=
  .next (s.coreStore n (ctlOff n 0x41) (p.setWidth 72))

/-- SSPASS_COPY_OUT (R262). -/
def execSspassCopyOut (n : CoreId) (p : PassId) (s : State) : Host.Outcome State Fault Refusal :=
  .next (s.coreStore n (ctlOff n 0x41) (0x10 ||| p.setWidth 72))

/-- EP15_LOAD (R312). -/
def execEp15Load (n : CoreId) (p : PassId) (s : State) : Host.Outcome State Fault Refusal :=
  .next (s.coreStore n (ctlOff n 0x84) (p.setWidth 72))

/-- EP14_LOAD (R312). -/
def execEp14Load (n : CoreId) (p : PassId) (s : State) : Host.Outcome State Fault Refusal :=
  .next (s.coreStore n (ctlOff n 0x84) (0x10 ||| p.setWidth 72))

/-- FP_EXCHANGE (R301): FPXCH with 0b01. -/
def execFpExchange (n : CoreId) (s : State) : Host.Outcome State Fault Refusal := .next (s.coreStore n (ctlOff n 0x65) 1)

/-- FP_FLUSH (R301): FPXCH with 0b10. -/
def execFpFlush (n : CoreId) (s : State) : Host.Outcome State Fault Refusal := .next (s.coreStore n (ctlOff n 0x65) 2)

/-- MC_LOAD_IMAGE (R376, R378): MC_LOAD with OP 0. -/
def execMcLoadImage (n : CoreId) (p : PassId) (addr : BitVec 52) (s : State) : Host.Outcome State Fault Refusal :=
  .next (s.coreStore n (ctlOff n 0xC0) (at' p 64 ||| at' addr 0))

/-- CLEAR_PATCHES (R376): OP 1. -/
def execClearPatches (n : CoreId) (p : PassId) (s : State) : Host.Outcome State Fault Refusal :=
  .next (s.coreStore n (ctlOff n 0xC0) (at' (1 : BitVec 2) 68 ||| at' p 64))

/-- CLEAR_OPEN_STORE (R376): OP 2. -/
def execClearOpenStore (n : CoreId) (p : PassId) (s : State) : Host.Outcome State Fault Refusal :=
  .next (s.coreStore n (ctlOff n 0xC0) (at' (2 : BitVec 2) 68 ||| at' p 64))

/-- CH_START (R393). -/
def execChStart (n : CoreId) (e : EngId) (v : Word) (s : State) : Host.Outcome State Fault Refusal := .next (s.coreStore n (engOff e 0) v)

/-- CH_RESUME (R394). -/
def execChResume (n : CoreId) (e : EngId) (v : Word) (s : State) : Host.Outcome State Fault Refusal := .next (s.coreStore n (engOff e 1) v)

/-- CH_HALT (R395). -/
def execChHalt (n : CoreId) (e : EngId) (v : Word) (s : State) : Host.Outcome State Fault Refusal := .next (s.coreStore n (engOff e 2) v)

/-- CH_CREDIT_ADD (R407). -/
def execChCreditAdd (n : CoreId) (e : EngId) (k : Fin 4) (v : Word) (s : State) : Host.Outcome State Fault Refusal :=
  .next (s.coreStore n (engOff e (8 + k.val)) v)

/-- UNIT_JOB_GO (R490): GO written to UC_JCTL of a slot. -/
def execUnitJobGo (n : CoreId) (u : UnitId) (slot : Fin 8) (s : State) : Host.Outcome State Fault Refusal :=
  .next (s.coreStore n (unitOff u (0x14 + 8 * slot.val)) 1)

/-- REGISTER_WRITE (R6, R418, R423): by a core, the physical function or a virtual function. -/
def execRegisterWrite (w : Writer) (v : Word) (s : State) : Host.Outcome State Fault Refusal :=
  .next (match w with
  | .core n off => s.coreStore n off.toNat v
  | .pf off c07 c8 => s.pfWrite off.toNat c07 c8 v
  | .vf k off c07 c8 => s.vfWrite k off.toNat c07 c8 v)

end Sys2Proof.Machine
end

