-- ==== Sys2Proof/Machine/Float.lean ====
section
/-! DEFINITION. Binary32 arithmetic (R356-R367). Every finite binary32 number is an integer times 2^-149; results are computed exactly
and rounded once. -/

namespace Sys2Proof.Machine

/-! ## Values -/

/-- A binary32 value: its sign, and a magnitude in units of 2^-149. -/
inductive Fl where
  | nan (signalling : Bool)
  | inf (neg : Bool)
  | fin (neg : Bool) (mag : Nat)
  deriving DecidableEq, Repr

/-- The value of a bit pattern. -/
def flOf (x : BitVec 32) : Fl :=
  let e := (bits x 23 8).toNat
  let m := (bits x 0 23).toNat
  if e = 255 then (if m = 0 then .inf (bit x 31) else .nan (!bit x 22))
  else if e = 0 then .fin (bit x 31) m
  else .fin (bit x 31) ((2 ^ 23 + m) * 2 ^ (e - 1))

/-- A signed integer in units of 2^-149. -/
def Fl.int : Fl → Int
  | .fin n m => if n then -(m : Int) else m
  | _ => 0

def Fl.isNan : Fl → Bool
  | .nan _ => true
  | _ => false

def Fl.isSnan : Fl → Bool
  | .nan s => s
  | _ => false

/-- The flags of R358 in the order FI, FZ, FO, FU, FX. -/
abbrev fInvalid : BitVec 5 := 16
abbrev fDivZero : BitVec 5 := 8
abbrev fOverflow : BitVec 5 := 4
abbrev fUnderflow : BitVec 5 := 2
abbrev fInexact : BitVec 5 := 1

/-- The canonical NaN (R357). -/
def canonNan : BitVec 32 := 0x7FC00000

/-- A sign put on a bit pattern. -/
def withSign (neg : Bool) (x : BitVec 32) : BitVec 32 := setBit x 31 neg

def infBits (neg : Bool) : BitVec 32 := withSign neg 0x7F800000

def zeroBits (neg : Bool) : BitVec 32 := withSign neg 0

/-- The rounding of R84 that a rounding mode of R358 stands for. -/
def rmCode (rm : BitVec 2) : BitVec 3 :=
  match rm.toNat with
  | 0 => 0 | 1 => 3 | 2 => 5 | _ => 6

/-- num / den times 2^k, rounded to an integer. -/
def roundAt (rm : BitVec 2) (neg : Bool) (num den : Nat) (k : Int) : Nat × Bool :=
  if k ≥ 0 then roundQ (rmCode rm) neg (num * 2 ^ k.toNat) den else roundQ (rmCode rm) neg num (den * 2 ^ (-k).toNat)

/-- The exponent of the leading bit of num / den; both are positive. -/
def leadExp (num den : Nat) : Int :=
  let e : Int := (num.log2 : Int) - den.log2
  let below := if e ≥ 0 then decide (num < den * 2 ^ e.toNat) else decide (num * 2 ^ (-e).toNat < den)
  if below then e - 1 else e

/-- A positive value num / den with a sign, rounded to binary32, and its flags (R356, R364). -/
def roundF (rm : BitVec 2) (neg : Bool) (num den : Nat) : BitVec 32 × BitVec 5 :=
  let e := leadExp num den
  let e' := max e (-126)
  let (q, x) := roundAt rm neg num den (23 - e')
  let (u, _) := roundAt rm neg num den (23 - e)
  let tiny := decide (e < -127) || (e == -127 && decide (u < 2 ^ 24))
  let pat := (e' + 126).toNat * 2 ^ 23 + q
  if pat ≥ 0x7F800000 then
    let toInf := match rm.toNat with
      | 0 => true | 1 => false | 2 => !neg | _ => neg
    (if toInf then infBits neg else withSign neg 0x7F7FFFFF, fOverflow ||| fInexact)
  else (withSign neg (BitVec.ofNat 32 pat), (if x then fInexact else 0) ||| (if x && tiny then fUnderflow else 0))

/-- A signed exact value num / den rounded; zero takes the sign given. -/
def roundInt (rm : BitVec 2) (zneg : Bool) (num : Int) (den : Nat) : BitVec 32 × BitVec 5 :=
  if num = 0 then (zeroBits zneg, 0) else roundF rm (decide (num < 0)) num.natAbs den

/-- An invalid operation (R364). -/
def invalidF : BitVec 32 × BitVec 5 := (canonNan, fInvalid)

/-- The result when an operand is a NaN (R357). -/
def nanF (l : List Fl) : BitVec 32 × BitVec 5 := (canonNan, if l.any Fl.isSnan then fInvalid else 0)

/-- The sign of an exact zero sum or difference (R364), of like-signed zeros too (log 55). -/
def zeroSum (rm : BitVec 2) : Bool := rm == 3

/-! ## Operations (R359) -/

/-- Addition of two values given in units of 2^-149. -/
def addF (rm : BitVec 2) (a b : Fl) : BitVec 32 × BitVec 5 :=
  match a, b with
  | .inf m, .inf n => if m == n then (infBits m, 0) else invalidF
  | .inf m, .fin _ _ => (infBits m, 0)
  | .fin _ _, .inf n => (infBits n, 0)
  | .fin m x, .fin n y =>
    roundInt rm (zeroSum rm) ((Fl.fin m x).int + (Fl.fin n y).int) (2 ^ 149)
  | a, b => nanF [a, b]

/-- A value with its sign inverted. -/
def Fl.negated : Fl → Fl
  | .inf n => .inf (!n)
  | .fin n m => .fin (!n) m
  | x => x

def mulF (rm : BitVec 2) (a b : Fl) : BitVec 32 × BitVec 5 :=
  match a, b with
  | .inf m, .inf n => (infBits (m != n), 0)
  | .inf m, .fin n y => if y = 0 then invalidF else (infBits (m != n), 0)
  | .fin m x, .inf n => if x = 0 then invalidF else (infBits (m != n), 0)
  | .fin m x, .fin n y => if x * y = 0 then (zeroBits (m != n), 0) else roundF rm (m != n) (x * y) (2 ^ 298)
  | a, b => nanF [a, b]

def divF (rm : BitVec 2) (a b : Fl) : BitVec 32 × BitVec 5 :=
  match a, b with
  | .inf _, .inf _ => invalidF
  | .inf m, .fin n _ => (infBits (m != n), 0)
  | .fin m _, .inf n => (zeroBits (m != n), 0)
  | .fin m x, .fin n y =>
    if y = 0 then (if x = 0 then invalidF else (infBits (m != n), fDivZero))
    else if x = 0 then (zeroBits (m != n), 0)
    else roundF rm (m != n) x y
  | a, b => nanF [a, b]

/-- The integer square root, bit by bit from bit k - 1 down. -/
def isqrt (n : Nat) : Nat → Nat → Nat
  | 0, r => r
  | k + 1, r => if (r + 2 ^ k) * (r + 2 ^ k) ≤ n then isqrt n k (r + 2 ^ k) else isqrt n k r

def sqrtF (rm : BitVec 2) (a : Fl) : BitVec 32 × BitVec 5 :=
  match a with
  | .nan s => nanF [.nan s]
  | .inf n => if n then invalidF else (infBits false, 0)
  | .fin n x =>
    if x = 0 then (zeroBits n, 0)
    else if n then invalidF
    else
      let v := x * 2 ^ 269
      let r := isqrt v 280 0
      if r * r = v then roundF rm false r (2 ^ 209) else roundF rm false (2 * r + 1) (2 ^ 210)

/-- FMA with one rounding (R357, R359). -/
def fmaF (rm : BitVec 2) (a b c : Fl) : BitVec 32 × BitVec 5 :=
  let zeroTimesInf := match a, b with
    | .inf _, .fin _ y => y == 0
    | .fin _ x, .inf _ => x == 0
    | _, _ => false
  if zeroTimesInf then invalidF
  else match a, b, c with
    | .fin m x, .fin n y, .fin k z =>
      roundInt rm (zeroSum rm)
        ((Fl.fin m x).int * (Fl.fin n y).int + (Fl.fin k z).int * 2 ^ 149) (2 ^ 298)
    | .fin _ _, .fin _ _, .inf k => (infBits k, 0)
    | .nan s, b, c => nanF [.nan s, b, c]
    | a, .nan s, c => nanF [a, .nan s, c]
    | a, b, .nan s => nanF [a, b, .nan s]
    | a, b, c =>
      let neg (f : Fl) : Bool := match f with
        | .inf n => n
        | .fin n _ => n
        | .nan _ => false
      let p := neg a != neg b
      match c with
      | .inf k => if k == p then (infBits p, 0) else invalidF
      | _ => (infBits p, 0)

/-- The order of two values that are not NaNs: -0 and +0 are equal. -/
def cmpF (a b : Fl) : Ordering :=
  let key (f : Fl) : Int := match f with
    | .inf n => if n then -(2 ^ 300) else 2 ^ 300
    | f => f.int
  compare (key a) (key b)

/-- FMIN and FMAX (R361). -/
def minMaxF (max : Bool) (x y : BitVec 32) : BitVec 32 × BitVec 5 :=
  let a := flOf x
  let b := flOf y
  let fl := if a.isSnan || b.isSnan then fInvalid else 0
  if a.isNan && b.isNan then (canonNan, fl)
  else if a.isNan then (y, fl)
  else if b.isNan then (x, fl)
  else
    let less := match cmpF a b with
      | .lt => true
      | .gt => false
      | .eq => bit x 31
    (if less != max then x else y, fl)

/-- An integer result (R362): rounded, saturated, with its flags. -/
def toIntF (rm : BitVec 2) (unsigned : Bool) (a : Fl) : Word × BitVec 5 :=
  let hi : Int := if unsigned then 2 ^ 72 - 1 else 2 ^ 71 - 1
  let lo : Int := if unsigned then 0 else -(2 ^ 71)
  match a with
  | .nan _ => (0, fInvalid)
  | .inf n => (BitVec.ofInt 72 (if n then lo else hi), fInvalid)
  | .fin n m =>
    let (q, x) := roundQ (rmCode rm) n m (2 ^ 149)
    let v : Int := if n then -(q : Int) else q
    if v > hi then (BitVec.ofInt 72 hi, fInvalid)
    else if v < lo then (BitVec.ofInt 72 lo, fInvalid)
    else (BitVec.ofInt 72 v, if x then fInexact else 0)

/-! ## The instructions -/

/-- FS.RM. -/
def Core.rm (c : Core) : BitVec 2 := bits c.fs 8 2

/-- Flags raised: sticky, and a pending trap when an enabled cause is among them (R364, R365). -/
def Core.raiseF (c : Core) (fl : BitVec 5) : Core :=
  { c with
    fs := c.fs ||| fl.setWidth 10,
    ftrap := if fl &&& bits c.st 59 5 != 0 then some (fl, c.pc) else c.ftrap }

/-- An F result written with its flags. -/
def Core.floatTo (c : Core) (rd : BitVec 5) (r : BitVec 32 × BitVec 5) : Core := (c.setF rd r.1).raiseF r.2

/-- The shape of a float instruction: its steps, whether its unused fields are zero, and the general registers that it names. -/
def shapeF (legal : Bool) (steps : Nat) (regs : List Nat) : Shape := { steps := steps, legal := legal, regs := regs, fp := true, float := true }

/-- A float instruction with two F sources. -/
def floatBin (n : CoreId) (f : FmtA) (steps : Nat) (op : BitVec 2 → Fl → Fl → BitVec 32 × BitVec 5) (s : State) : State :=
  regIns n (shapeF (f.fn == 0) steps []) (fun c => c.floatTo f.rd (op c.rm (flOf (c.fr f.ra)) (flOf (c.fr f.rb)))) s

def execFadd (n : CoreId) (f : FmtA) (s : State) : Res := .next (floatBin n f 5 addF s)

def execFsub (n : CoreId) (f : FmtA) (s : State) : Res := .next (floatBin n f 5 (fun rm a b => addF rm a b.negated) s)

def execFmul (n : CoreId) (f : FmtA) (s : State) : Res := .next (floatBin n f 5 mulF s)

def execFdiv (n : CoreId) (f : FmtA) (s : State) : Res := .next (floatBin n f 14 divF s)

/-- The shape of FSQRT. -/
def shapeFsqrt (f : FmtA) : Shape := shapeF (f.rb == 0 && f.fn == 0) 16 []

def execFsqrt (n : CoreId) (f : FmtA) (s : State) : Res :=
  .next (regIns n (shapeFsqrt f) (fun c => c.floatTo f.rd (sqrtF c.rm (flOf (c.fr f.ra)))) s)

/-- The shape of FMA. -/
def shapeFma (f : FmtA) : Shape := shapeF (bits f.fn 0 8 == 0) 6 []

def execFma (n : CoreId) (f : FmtA) (s : State) : Res :=
  .next (regIns n (shapeFma f) (fun c =>
    c.floatTo f.rd (fmaF c.rm (flOf (c.fr f.ra)) (flOf (c.fr f.rb)) (flOf (c.fr (bits f.fn 8 5))))) s)

/-- The shape of FCMP. -/
def shapeFcmp (f : FmtA) : Shape := shapeF (f.rd == 0 && bits f.fn 1 12 == 0) 2 []

/-- FCMP (R360). -/
def execFcmp (n : CoreId) (f : FmtA) (s : State) : Res :=
  .next (regIns n (shapeFcmp f) (fun c =>
    let a := flOf (c.fr f.ra)
    let b := flOf (c.fr f.rb)
    if a.isNan || b.isNan then
      (c.setNZVC false false true true).raiseF (if bit f.fn 0 || a.isSnan || b.isSnan then fInvalid else 0)
    else match cmpF a b with
      | .lt => c.setNZVC true false false false
      | .eq => c.setNZVC false true false true
      | .gt => c.setNZVC false false false true) s)

/-- The shape of FMIN. -/
def shapeFmin (f : FmtA) : Shape := shapeF (f.fn == 0) 2 []

def execFmin (n : CoreId) (f : FmtA) (s : State) : Res :=
  .next (regIns n (shapeFmin f) (fun c => c.floatTo f.rd (minMaxF false (c.fr f.ra) (c.fr f.rb))) s)

/-- The shape of FMAX. -/
def shapeFmax (f : FmtA) : Shape := shapeF (f.fn == 0) 2 []

def execFmax (n : CoreId) (f : FmtA) (s : State) : Res :=
  .next (regIns n (shapeFmax f) (fun c => c.floatTo f.rd (minMaxF true (c.fr f.ra) (c.fr f.rb))) s)

/-- The shape of FABS. -/
def shapeFabs (f : FmtA) : Shape := shapeF (f.rb == 0 && f.fn == 0) 2 []

def execFabs (n : CoreId) (f : FmtA) (s : State) : Res :=
  .next (regIns n (shapeFabs f) (fun c => c.setF f.rd (withSign false (c.fr f.ra))) s)

/-- The shape of FNEG. -/
def shapeFneg (f : FmtA) : Shape := shapeF (f.rb == 0 && f.fn == 0) 2 []

def execFneg (n : CoreId) (f : FmtA) (s : State) : Res :=
  .next (regIns n (shapeFneg f) (fun c => c.setF f.rd (c.fr f.ra ^^^ 0x80000000)) s)

/-- The shape of FTOI. -/
def shapeFtoi (f : FmtA) : Shape := shapeF (f.rb == 0 && bits f.fn 4 9 == 0 && decide ((bits f.fn 0 3).toNat ≤ 4)) 4 [f.rd.toNat]

/-- FTOI (R362): fn 2:0 the mode, fn 3 U. -/
def execFtoi (n : CoreId) (f : FmtA) (s : State) : Res :=
  .next (regIns n (shapeFtoi f) (fun c =>
    let (r, fl) := toIntF (if bit f.fn 2 then c.rm else bits f.fn 0 2) (bit f.fn 3) (flOf (c.fr f.ra))
    (c.setG f.rd r).raiseF fl) s)

/-- The shape of ITOF. -/
def shapeItof (f : FmtA) : Shape := shapeF (f.rb == 0 && f.fn &&& 0x1FF7 == 0) 4 [f.ra.toNat]

/-- ITOF (R362). -/
def execItof (n : CoreId) (f : FmtA) (s : State) : Res :=
  .next (regIns n (shapeItof f) (fun c =>
    c.floatTo f.rd (roundInt c.rm false (if bit f.fn 3 then (c.gr f.ra).toNat else (c.gr f.ra).toInt) 1)) s)

/-- The shape of FTOD. -/
def shapeFtod (f : FmtA) : Shape := shapeF (f.rb == 0 && bits f.fn 8 5 == 0 && decide ((bits f.fn 0 5).toNat ≤ 16)) 9 [f.rd.toNat]

/-- FTOD (R363): fn 4:0 s, fn 7:5 RND. -/
def execFtod (n : CoreId) (f : FmtA) (s : State) : Res :=
  let k := (bits f.fn 0 5).toNat
  .next (regIns n (shapeFtod f) (fun c =>
    let bad : Core := ((c.setG f.rd 0xC).setNZVC false true true false).raiseF fInvalid
    match flOf (c.fr f.ra) with
    | .fin neg m =>
      let (q, x) := roundQ (c.rounding (bits f.fn 5 3)) neg (m * 10 ^ k) (2 ^ 149)
      if q ≥ 10 ^ 17 then bad
      else
        let r := fitDec 17 neg q
        ((c.setG f.rd r.word).decFlags r x).raiseF (if x then fInexact else 0)
    | _ => bad) s)

/-- The shape of DTOF. -/
def shapeDtof (f : FmtA) : Shape := shapeF (f.rb == 0 && bits f.fn 5 8 == 0 && decide ((bits f.fn 0 5).toNat ≤ 16)) 9 [f.ra.toNat]

/-- DTOF (R363): fn 4:0 s. -/
def execDtof (n : CoreId) (f : FmtA) (s : State) : Res :=
  let k := (bits f.fn 0 5).toNat
  .next (s.runIns n (shapeDtof f) do
    let a ← regDec n 1 f.ra false
    modCore n fun c => c.floatTo f.rd (roundInt c.rm false a.val (10 ^ k))
    return .seq)

/-- The shape of RDFS. -/
def shapeRdfs (f : FmtA) : Shape := shapeF (f.ra == 0 && f.rb == 0 && f.fn == 0) 2 [f.rd.toNat]

/-- RDFS (R358). -/
def execRdfs (n : CoreId) (f : FmtA) (s : State) : Res :=
  .next (regIns n (shapeRdfs f) (fun c => c.setG f.rd (c.fs.setWidth 72)) s)

/-- The shape of WRFS. -/
def shapeWrfs (f : FmtA) : Shape := shapeF (f.rd == 0 && f.rb == 0 && f.fn == 0) 2 [f.ra.toNat]

/-- WRFS (R358): RM and the sticky flags. -/
def execWrfs (n : CoreId) (f : FmtA) (s : State) : Res :=
  .next (regIns n (shapeWrfs f) (fun c =>
    { c with fs := bits (c.gr f.ra) 0 10 &&& 0x31F }) s)

/-- The shape of FMVGF. -/
def shapeFmvgf (f : FmtA) : Shape := shapeF (f.rb == 0 && f.fn == 0) 2 [f.ra.toNat]

def execFmvgf (n : CoreId) (f : FmtA) (s : State) : Res :=
  .next (regIns n (shapeFmvgf f) (fun c => c.setF f.rd (bits (c.gr f.ra) 0 32)) s)

/-- The shape of FMVFG. -/
def shapeFmvfg (f : FmtA) : Shape := shapeF (f.rb == 0 && f.fn == 0) 2 [f.rd.toNat]

def execFmvfg (n : CoreId) (f : FmtA) (s : State) : Res :=
  .next (regIns n (shapeFmvfg f) (fun c => c.setG f.rd ((c.fr f.ra).setWidth 72)) s)

/-- The shape of FBAR. -/
def shapeFbar (f : FmtA) : Shape := { legal := f.rd == 0 && f.ra == 0 && f.rb == 0 && f.fn == 0, float := true }

/-- FBAR (R366): a pending trap is taken; it names no F register (R300). -/
def execFbar (n : CoreId) (f : FmtA) (s : State) : Res :=
  .next (s.runIns n (shapeFbar f) (return .seq))

end Sys2Proof.Machine
end

