-- ==== Sys2Proof/Machine/LoadStore.lean ====
section
/-! DEFINITION. The memory instructions of a core: loads, stores, LEA, the atomic instructions and the pass loads and stores (R63, R64,
R67, R240, R241). -/

namespace Sys2Proof.Machine

/-! ## One word of a load or a store -/

/-- The word of a checked operand word in any region. -/
def loadWord (n : CoreId) (r : WordRef) : M Word :=
  if regionOf r.pa == .device then do
    chargeAccess n r.pa
    devLoad (some n) (offsetOf r.pa)
  else loadRef n r

/-- The positions of a checked operand as a word, the first the most significant. -/
def loadWords (n : CoreId) (rs : List WordRef) : M Word := do
  let ws ← mapL (loadWord n) rs
  return BitVec.ofNat 72 (natOfPos (gather rs ws))

/-- The last `k` positions of a value stored to a checked operand; a device-control word takes a whole one (R37), and CHG is set once the tests
of that word have passed too (R50, R283). -/
def storeWords (n : CoreId) (rs : List WordRef) (k : Nat) (v : Word) : M Next := do
  match rs with
  | [r] =>
    if regionOf r.pa == .device then
      chargeAccess n r.pa
      let nx ← devStoreNext n (offsetOf r.pa) v
      if nx != .gone then markChg (.core n 1) r.ent
      return nx
    else
      storeField n 1 rs (posOfNat k v.toNat)
      return .seq
  | _ =>
    storeField n 1 rs (posOfNat k v.toNat)
    return .seq

/-! ## Loads and stores -/

/-- A load of `k` positions, which `put` takes. -/
def loadBody (n : CoreId) (f : FmtM) (a : Acc) (k : Nat) (put : Core → Word → Core) : M Next := do
  let da ← mEA n f
  if k = 2 then aligned (daPos da % 2 == 0) clsOctetAlign da
  let rs ← operand n 1 f.pr permLoad a da k
  let v ← loadWords n rs
  modCore n fun c => put c v
  return .seq

/-- A store of the last `k` positions of a value. -/
def storeBody (n : CoreId) (f : FmtM) (a : Acc) (k : Nat) (v : Core → Word) : M Next := do
  let da ← mEA n f
  if k = 2 then aligned (daPos da % 2 == 0) clsOctetAlign da
  let rs ← operand n 1 f.pr permStore a da k
  let c ← getCore n
  storeWords n rs k (v c)

/-- The shape of an M-format instruction of a general register. -/
def shapeM (f : FmtM) : Shape := { regs := FmtM.regs f }

/-- The shape of LDF and STF, which name an F register (R46). -/
def shapeMF (f : FmtM) : Shape := { regs := [f.rb.toNat], fp := true }

/-- LDW (R63, R67). -/
def execLdw (n : CoreId) (f : FmtM) (s : State) : Res := .next (s.runIns n (shapeM f) (loadBody n f .ldw 18 fun c v => c.setG f.rt v))

/-- LDO (R64, R67). -/
def execLdo (n : CoreId) (f : FmtM) (s : State) : Res := .next (s.runIns n (shapeM f) (loadBody n f .load 2 fun c v => c.setG f.rt v))

/-- LDN (R67). -/
def execLdn (n : CoreId) (f : FmtM) (s : State) : Res := .next (s.runIns n (shapeM f) (loadBody n f .load 1 fun c v => c.setG f.rt v))

/-- LDF (R67). -/
def execLdf (n : CoreId) (f : FmtM) (s : State) : Res :=
  .next (s.runIns n (shapeMF f) (loadBody n f .load 18 fun c v => c.setF f.rt (bits v 0 32)))

/-- STW (R63, R67). -/
def execStw (n : CoreId) (f : FmtM) (s : State) : Res := .next (s.runIns n (shapeM f) (storeBody n f .stw 18 fun c => c.gr f.rt))

/-- STO (R64, R67): bits 7:0. -/
def execSto (n : CoreId) (f : FmtM) (s : State) : Res := .next (s.runIns n (shapeM f) (storeBody n f .store 2 fun c => c.gr f.rt))

/-- STN (R67): bits 3:0. -/
def execStn (n : CoreId) (f : FmtM) (s : State) : Res := .next (s.runIns n (shapeM f) (storeBody n f .store 1 fun c => c.gr f.rt))

/-- STF (R67): F[rt] in bits 31:0 and zero above. -/
def execStf (n : CoreId) (f : FmtM) (s : State) : Res :=
  .next (s.runIns n (shapeMF f) (storeBody n f .store 18 fun c => (c.fr f.rt).setWidth 72))

/-- The shape of LEA. -/
def shapeLea (f : FmtM) : Shape := { legal := f.pr == 0, regs := FmtM.regs f }

/-- LEA (R67): no access and no pass check. -/
def execLea (n : CoreId) (f : FmtM) (s : State) : Res :=
  .next (s.runIns n (shapeLea f) do
    let da ← mEA n f
    setG n f.rt (daReg da)
    return .seq)

/-! ## The atomic instructions (R64, R67, R339) -/

/-- Their one access of the word: `f` gives the new word from the old one, or none when no store is made. Every older store of the core
has left the buffer, so that its stores are seen in order (R69). Answers the old word and whether the store was made. -/
def atomicAccess (n : CoreId) (f : FmtM) (new : Core → Word → Option Word) : M (Word × Bool) := do
  let da ← mEA n f
  aligned (daPos da == 0) clsWordAlign da
  upd fun s => s.drainAll n
  let rs ← operand n 1 f.pr (permLoad ||| permStore) .atomic da 18
  match rs with
  | [r] =>
    chargeAccess n r.pa
    chargeAccess n r.pa
    if r.ent.mt != 1 then upd fun s => s.touchLine n r.pa
    let s ← get
    if (s.cell r.pa).bad then badWord n r
    else
      let old := s.data r.pa
      match new s.cores[n] old with
      | none => return (old, false)
      | some v =>
        markChg (.core n 1) r.ent
        upd fun s => s.putMasked r.pa maskAll v
        return (old, true)
  | _ => return (0, false)

/-- The shape of CASW. -/
def shapeCasw (f : FmtM) : Shape := { legal := !bit f.rt 0 && f.rt != 0, steps := 3, regs := [f.rt.toNat, f.rt.toNat + 1, f.rb.toNat] }

/-- CASW (R67): Z tells whether the store took place (R65). -/
def execCasw (n : CoreId) (f : FmtM) (s : State) : Res :=
  .next (s.runIns n (shapeCasw f) do
    let (old, hit) ← atomicAccess n f fun c old => if old = c.gr f.rt then some (c.gr (f.rt + 1)) else none
    modCore n fun c => let c := c.setG f.rt old; { c with st := setBit c.st 70 hit }
    return .seq)

/-- The shape of SWPW. -/
def shapeSwpw (f : FmtM) : Shape := { steps := 3, regs := FmtM.regs f }

/-- SWPW (R67). -/
def execSwpw (n : CoreId) (f : FmtM) (s : State) : Res :=
  .next (s.runIns n (shapeSwpw f) do
    let (old, _) ← atomicAccess n f fun c _ => some (c.gr f.rt)
    setG n f.rt old
    return .seq)

/-- The shape of FADW. -/
def shapeFadw (f : FmtM) : Shape := { steps := 3, regs := FmtM.regs f }

/-- FADW (R67). -/
def execFadw (n : CoreId) (f : FmtM) (s : State) : Res :=
  .next (s.runIns n (shapeFadw f) do
    let (old, _) ← atomicAccess n f fun c old => some (old + c.gr f.rt)
    setG n f.rt old
    return .seq)

/-! ## Pass loads and stores (R240, R241) -/

/-- The shape of LDPS and STPS: rt names a P register. -/
def shapePair (f : FmtM) : Shape := { legal := isPass f.rt, steps := 3, regs := [f.rb.toNat] }

/-- Position 0 of an even word (R64). -/
def pairAligned (da : DAddr) : M Unit := aligned (daPos da == 0 && !bit (daWord da) 0) clsWordAlign da

/-- LDPS (R240). Tags exist only in the local Plain and Basin, so that a pair from elsewhere is never valid (R18). -/
def execLdps (n : CoreId) (f : FmtM) (s : State) : Res :=
  .next (s.runIns n (shapePair f) do
    let da ← mEA n f
    pairAligned da
    let rs ← operand n 1 f.pr (permLoad ||| permLoadPass) .loadPass da 36
    match rs with
    | [r, r1] =>
      let p ← (if isLocalMem r.pa && isLocalMem r1.pa then loadPassRef n r r1
        else do
          let a ← loadRef n r
          let b ← loadRef n r1
          return { w0 := a, w1 := b, valid := false })
      modCore n fun c => c.setP (passOf f.rt) p
    | _ => pure ()
    return .seq)

/-- STPS (R241): the tests on P[pr], LOCAL, then translation and the region rules, REGION among them. -/
def execStps (n : CoreId) (f : FmtM) (s : State) : Res :=
  .next (s.runIns n (shapePair f) do
    let da ← mEA n f
    pairAligned da
    let c ← getCore n
    let p := c.pr f.pr
    let src := c.pr (passOf f.rt)
    let ws := fieldWords 36 da 36
    passTests p f.pr (permStore ||| permStorePass) .storePass da ws
    require (!(src.valid && !src.isGlobal && !p.isLocal)) (passFault 7 f.pr da)
    let rs ← checkWords (.core n 1) p f.pr .storePass da ws
    match rs with
    | r :: _ => storePassRef n 1 r src
    | [] => pure ()
    return .seq)

end Sys2Proof.Machine
end

