-- ==== Sys2Proof/Machine/Passes.lean ====
section
/-! DEFINITION. Deriving, sealing and reading passes (R246-R251). -/

namespace Sys2Proof.Machine

/-- A pass source that must be valid and unsealed (R246). -/
def openPass (n : CoreId) (i : PassId) : M PassReg := do
  let p := (← getCore n).pr i
  require p.valid (passFault 1 i 0)
  require (!p.sealed) (passFault 2 i 0)
  return p

/-- A pass derivation: source `ra`, result in `rd`. -/
def derive (n : CoreId) (f : FmtA) (m : PassReg → M PassReg) : M Next := do
  let p ← openPass n (passOf f.ra)
  let q ← m p
  modCore n fun c => c.setP (passOf f.rd) q
  return .seq

/-- A pass with a new length; 2^52 is encoded as 0 (R237). -/
def PassReg.setLen (p : PassReg) (n : Nat) : PassReg := { p with w1 := setBits p.w1 20 52 (BitVec.ofNat 52 n) }

/-- The shape of PMOV. -/
def shapePmov (f : FmtA) : Shape := { legal := f.rb == 0 && f.fn == 0 && isPass f.rd && isPass f.ra }

def execPmov (n : CoreId) (f : FmtA) (s : State) : Res :=
  .next (regIns n (shapePmov f) (fun c => c.setP (passOf f.rd) (c.pr (passOf f.ra))) s)

/-- The shape of PNAR. -/
def shapePnar (f : FmtA) : Shape := { legal := f.fn == 0 && isPass f.rd && isPass f.ra && !bit f.rb 0, steps := 3, regs := [f.rb.toNat, f.rb.toNat + 1] }

/-- PNAR (R247): FORM, then WIDEN. -/
def execPnar (n : CoreId) (f : FmtA) (s : State) : Res :=
  .next (s.runIns n
    (shapePnar f)
    (derive n f fun p => do
      let b ← gr n f.rb
      let l ← gr n (f.rb + 1)
      require (bits b 52 20 == 0 && decide (1 ≤ l.toNat) && decide (l.toNat ≤ 2 ^ 52)) (passFault 5 (passOf f.ra) 0)
      require (decide (p.base ≤ b.toNat) && decide (b.toNat + l.toNat ≤ p.base + p.len)) (passFault 6 (passOf f.ra) 0)
      return ({ p with w0 := setBits p.w0 20 52 (bits b 0 52) } : PassReg).setLen l.toNat))

/-- The shape of PPRM. -/
def shapePprm (f : FmtA) : Shape := { legal := f.fn == 0 && isPass f.rd && isPass f.ra, steps := 3, regs := [f.rb.toNat] }

/-- PPRM (R246). -/
def execPprm (n : CoreId) (f : FmtA) (s : State) : Res :=
  .next (s.runIns n (shapePprm f)
    (derive n f fun p => do
      let g ← gr n f.rb
      return { p with
        w0 := setBit (setBit (setBits p.w0 8 12 (p.perm &&& bits g 0 12)) 2 (p.isGlobal && bit g 12)) 1 (p.isLocal && bit g 13) }))

/-- The shape of PKEY. -/
def shapePkey (f : FmtA) : Shape := { legal := f.fn == 0 && isPass f.rd && isPass f.ra, steps := 3, regs := [f.rb.toNat] }

/-- PKEY (R247): FORM, then WIDEN. -/
def execPkey (n : CoreId) (f : FmtA) (s : State) : Res :=
  .next (s.runIns n (shapePkey f)
    (derive n f fun p => do
      let g ← gr n f.rb
      require (bits g 4 68 == 0) (passFault 5 (passOf f.ra) 0)
      require (p.key == 0 || p.key == bits g 0 4) (passFault 6 (passOf f.ra) 0)
      return { p with w0 := setBits p.w0 4 4 (bits g 0 4) }))

/-- A seal authority (R250, R251). -/
def authority (n : CoreId) (i : PassId) (need : BitVec 12) : M PassReg := do
  let b ← openPass n i
  require (b.grants need) (passFault 3 i 0)
  return b

/-- The shape of SEAL. -/
def shapeSeal (f : FmtA) : Shape := { legal := f.fn == 0 && isPass f.rd && isPass f.ra && isPass f.rb, steps := 3 }

/-- SEAL (R250). -/
def execSeal (n : CoreId) (f : FmtA) (s : State) : Res :=
  .next (s.runIns n (shapeSeal f)
    (derive n f fun p => do
      let b ← authority n (passOf f.rb) permSeal
      require (decide (1 ≤ b.base) && decide (b.base ≤ 0xFFFF)) (passFault 0xA (passOf f.rb) 0)
      return { p with w0 := setBit p.w0 3 true, w1 := setBits p.w1 4 16 (BitVec.ofNat 16 b.base) }))

/-- The shape of UNSEAL. -/
def shapeUnseal (f : FmtA) : Shape := { legal := f.fn == 0 && isPass f.rd && isPass f.ra && isPass f.rb, steps := 3 }

/-- UNSEAL (R251): the source valid and sealed, the authority, the type. -/
def execUnseal (n : CoreId) (f : FmtA) (s : State) : Res :=
  .next (s.runIns n (shapeUnseal f) do
    let p := (← getCore n).pr (passOf f.ra)
    require p.valid (passFault 1 (passOf f.ra) 0)
    require p.sealed (passFault 2 (passOf f.ra) 0)
    let b ← authority n (passOf f.rb) permUnseal
    require (decide (b.base ≤ p.sealType.toNat) && decide (p.sealType.toNat < b.base + b.len)) (passFault 0xA (passOf f.ra) 0)
    modCore n fun c =>
      c.setP (passOf f.rd) { p with w0 := setBit p.w0 3 false, w1 := setBits p.w1 4 16 0 }
    return .seq)

/-- Whether a pass grants nothing that another does not (R248). -/
def PassReg.within (a b : PassReg) : Bool :=
  a.valid && b.valid && decide (b.base ≤ a.base) && decide (a.base + a.len ≤ b.base + b.len) && a.perm &&& b.perm == a.perm
    && (!a.isGlobal || b.isGlobal) && (!a.isLocal || b.isLocal) && (b.key == 0 || b.key == a.key)
    && a.sealed == b.sealed && a.shadow == b.shadow && a.sealType == b.sealType

/-- The shape of PTST. -/
def shapePtst (f : FmtA) : Shape := { legal := f.rd == 0 && f.fn == 0 && isPass f.ra && isPass f.rb }

/-- PTST (R248). -/
def execPtst (n : CoreId) (f : FmtA) (s : State) : Res :=
  .next (regIns n (shapePtst f) (fun c =>
    let a := c.pr (passOf f.ra)
    c.setNZVC a.sealed (a.within (c.pr (passOf f.rb))) false a.valid) s)

/-- The shape of PGET. -/
def shapePget (f : FmtA) : Shape := { legal := f.rb == 0 && bits f.fn 2 11 == 0 && bits f.fn 0 2 != 3 && isPass f.ra, regs := [f.rd.toNat] }

/-- PGET (R249). -/
def execPget (n : CoreId) (f : FmtA) (s : State) : Res :=
  .next (regIns n (shapePget f) (fun c =>
    let a := c.pr (passOf f.ra)
    c.setG f.rd (if bits f.fn 0 2 = 0 then a.w0 else if bits f.fn 0 2 = 1 then a.w1 else flagAt a.valid 0)) s)

end Sys2Proof.Machine
end

