-- ==== Sys2Proof/Machine/Target.lean ====
section
/-! DEFINITION. The module as a target of the fabric: loads, stores and events of other modules, and jobs that reach it (R455-R459). -/

namespace Sys2Proof.Machine

/-! ## Serving in ESEQ order (R459) -/

/-- A response to a request, held for repeats; the expected number advances. -/
def State.replyTo (s : State) (p : Packet) (events : Bool) (type : BitVec 4) (hw1 : Word) (payload : List Word) : State :=
  let v := s.servedFor p.spair p.sside events
  (s.setServed { v with expected := inc p.eseq, heal := none }).reply p.spair p.sside events p.eseq
    (packet type 1 p.spair p.sside p.sagent hw1 payload)

/-- A request of another module: served when its number is the expected one, answered from the held response when it is an earlier one
that is still held, and dropped otherwise. -/
def State.inOrder (s : State) (p : Packet) (events : Bool) (serve : State → State) : State :=
  let v := s.servedFor p.spair p.sside events
  if p.eseq == v.expected then serve s
  else match v.held.find? fun h => h.1 == p.eseq with
    | some h => s.received.issue h.2
    | none => s.dropPacket

/-! ## Loads and stores -/

/-- The local physical word that a request names (R34, R455); the reserved region becomes a reserved local one. -/
def reqAddr (hw1 : Word) (k : Nat) : WAddr :=
  let r := (bits hw1 70 2).toNat
  BitVec.ofNat 52 ((if r < 3 then r else 4) * 2 ^ 48 + ((bits hw1 34 36).toNat + k) % 2 ^ 36)

/-- The words of a request: NW (R455). -/
def reqWords (hw1 : Word) : List WAddr := (List.range ((bits hw1 12 4).toNat + 1)).map (reqAddr hw1)

/-- Whether a device-control word belongs to no agent of another module: a core's control words for a store, the alias, and the requests to
an engine, which name a pass register (log 27). -/
def remoteBarred (o : Nat) (store : Bool) : Bool :=
  decide (0xFFF00 ≤ o) || (store && (decide (0xC0000 ≤ o ∧ o < 0xC3000) || (engRequest o).isSome))

/-- Whether a valid leaf of the shadow memory type maps a physical word, in the table at `tbl` of a level or below it (R268-R271). -/
def State.tableShadows (s : State) (pa : WAddr) : Nat → WAddr → Bool
  | 0, tbl => s.mem.any fun c => inTable 0 tbl c && shadowLeaf 0 pa c.2.data
  | L + 1, tbl => s.mem.any fun c => inTable (L + 1) tbl c &&
      (if bit c.2.data 7 then s.tableShadows pa L (entFrame c.2.data) else shadowLeaf (L + 1) pa c.2.data)
where
  /-- A readable valid entry of the table. -/
  inTable (L : Nat) (tbl : WAddr) (c : Nat × MCell) : Bool :=
    isLocalMem tbl && decide (tbl.toNat ≤ c.1) && decide (c.1 < tbl.toNat + (if L = 4 then 128 else 512)) && !c.2.bad && bit c.2.data 71
  /-- A leaf of the shadow memory type that maps the word. -/
  shadowLeaf (L : Nat) (pa : WAddr) (e : Word) : Bool :=
    !bit e 7 && leafOk L e && bits e 11 3 == 2 && decide ((entFrame e).toNat ≤ pa.toNat)
      && decide (pa.toNat < (entFrame e).toNat + 2 ^ (bits e 65 6).toNat)

/-- The roots of the translation tables in force: of the cores, of the channel programs and of the bound queue pairs. -/
def State.roots (s : State) : List WAddr :=
  s.cores.toList.map (·.troot) ++ (s.engines.toList.flatMap fun x => (x.running.map (·.troot)).toList ++ x.ready.map (·.troot)) ++
    s.hi.qps.toList.filterMap fun q => q.bind.map (·.troot)

/-- Whether a physical word lies in a shadow page (R260): one that a table in force maps with the shadow memory type (log 27). -/
def State.shadowPage (s : State) (pa : WAddr) : Bool := s.roots.any fun r => bit r 0 && s.tableShadows pa 4 (r &&& ~~~(0x1FF : WAddr))

/-- The status that the region rules of this module give an access of another (R36, R37, R260, R456). -/
def State.targetStatus (s : State) (pa : WAddr) (store : Bool) (mask : BitVec 18) : BitVec 8 :=
  if !s.populated pa then 1
  else match regionOf pa with
    | .plain => if store && (s.guarded (offsetOf pa) || s.shadowPage pa) then 2 else 0
    | .basin => if store && s.shadowPage pa then 2 else 0
    | .device => if remoteBarred (offsetOf pa) store || mask != maskAll then 4 else 0
    | _ => 0

/-- The first status that is not 0x00. -/
def firstStatus : List (BitVec 8) → BitVec 8
  | [] => 0
  | x :: r => if x = 0 then firstStatus r else x

/-- One word that a load of another module reads. -/
def State.targetWord (s : State) (pa : WAddr) : Word × State :=
  if regionOf pa == .device then
    match devLoad none (offsetOf pa) s with
    | .ok v t => (v, t)
    | .error _ t => (0, t)
  else (s.data pa, s)

/-- The words of a load, in order. -/
def State.targetWords (s : State) : List WAddr → List Word × State
  | [] => ([], s)
  | a :: r =>
    let (v, s) := s.targetWord a
    let (l, s) := s.targetWords r
    (v :: l, s)

/-- HW1 of a LOAD-RSP (R455). -/
def rspHw1 (status : BitVec 8) (hw1 : Word) : Word := at' status 64 ||| at' (bits hw1 12 4) 12

/-- A load with every word readable, or the word that is not. The load waits while the Watershed heals it (R321, R456). -/
def State.serveLoad (s : State) (p : Packet) : State :=
  let as := reqWords p.hw1
  let fail (s : State) (st : BitVec 8) : State := s.received.replyTo p false 4 (rspHw1 st p.hw1) []
  let st := firstStatus (as.map fun a => s.targetStatus a false maskAll)
  if st ≠ 0 then fail s st
  else match as.find? fun a => isLocalMem a && (s.cell a).bad with
    | none =>
      let (l, s) := s.targetWords as
      s.received.replyTo p false 4 (rspHw1 0 p.hw1) l
    | some a =>
      let v := s.servedFor p.spair p.sside false
      if v.heal == some (a, true) then fail s 3
      else if v.heal == some (a, false) then s
      else
        let s := s.raiseBad a
        if s.canHeal a then (s.setServed { v with heal := some (a, false) }).startHeal (BitVec.ofNat 24 (offsetOf a)) else fail s 3

/-- LOAD_REQ (R455, R456). -/
def execLoadReq (p : Packet) (s : State) : Host.Outcome State Fault Refusal :=
  .next (if !s.here p 1 then s else s.inOrder p false fun s => s.serveLoad p)

/-- One word that a store of another module writes. -/
def State.targetPut (s : State) (pa : WAddr) (mask : BitVec 18) (v : Word) : State :=
  if regionOf pa == .device then s.devicePut (offsetOf pa) v else s.putMasked pa mask v

/-- A store: every word is tested first. A part of an uncorrectable word is not stored (R322, R456). A store that began a start of this
module is not answered. -/
def State.serveStore (s : State) (p : Packet) : State :=
  let as := reqWords p.hw1
  let mask := bits p.hw1 16 18
  let st := firstStatus (as.map fun a => s.targetStatus a true mask)
  let bad := as.find? fun a => isLocalMem a && (s.cell a).bad && mask != maskAll
  if st ≠ 0 then s.received.replyTo p false 5 (at' st 64) []
  else match bad with
    | some a => (s.raiseBad a).received.replyTo p false 5 (at' (3 : BitVec 8) 64) []
    | none =>
      let t := (as.zip (p.payload ++ List.replicate as.length 0)).foldl (fun (s : State) x => s.targetPut x.1 mask x.2) s.received
      if t.sr.start = s.sr.start then t.replyTo p false 5 0 [] else t

/-- STORE_REQ (R455, R456). -/
def execStoreReq (p : Packet) (s : State) : Host.Outcome State Fault Refusal :=
  .next (if !s.here p 2 then s else s.inOrder p false fun s => s.serveStore p)

/-- EVENT_PACKET (R457): only an inter-core message source or a software-defined one. -/
def execEventPacket (p : Packet) (s : State) : Host.Outcome State Fault Refusal :=
  .next (if !s.here p 3 then s
  else s.inOrder p true fun s =>
    let k := (bits p.hw1 0 10).toNat
    if softSource k then (s.received.raise k).replyTo p true 5 0 [] else s.received.replyTo p true 5 (at' (5 : BitVec 8) 64) [])

/-! ## UNIT (R456) -/

/-- A job that reaches this module: it is in progress, or completes at once when its entry is not well formed. Only unit jobs travel. -/
def State.acceptJob (s : State) (p : Packet) : State :=
  let w (k : Nat) : Word := p.payload.getD k 0
  let v := s.servedFor p.spair p.sside false
  let s := s.received.setServed { v with expected := inc p.eseq }
  let (x, s) := s.addJob (.fabric p.spair p.sside p.eseq) (w 0) (w 1) (w 2) (w 3)
  match (if x.opc.toNat < 0x40 then some jobBadOpcode else entryStatus (w 0) (w 1) (w 2) (w 3)) with
  | some st => s.finishJob x st 0 0
  | none => s

/-- Whether the job of a request names this module, or a unit of it, by its path. -/
def State.namesSide (s : State) (p : Packet) : Bool :=
  let w := p.payload.getD 0 0
  let d := (bits w 37 3).toNat
  decide (2 ≤ d) && decide (d ≤ 4) && bits w 25 12 == s.applied.lbPair && bit w 24 == s.ws.side

/-- A request (R456): taken here by a leader, by the side that its path names, and by a side whose own leader asks it for its part; crossed
to a twin that leads; REFUSED with detail 1 otherwise. The number of a crossed request is not expected again (log 26). -/
def State.serveUnit (s : State) (p : Packet) : State :=
  if s.leads || s.namesSide p || (p.spair == s.applied.lbPair && p.sside != s.ws.side) then s.acceptJob p
  else if s.twinLeads then (s.setServed { s.servedFor p.spair p.sside false with expected := inc p.eseq }).emit none p
  else s.received.replyTo p false 8 (unitHw1 jobRefused 1) [0]

/-- UNIT (R455, R456): a request on VC 0, or a result on VC 1, which goes to the side that asked. -/
def execUnit (p : Packet) (s : State) : Host.Outcome State Fault Refusal :=
  .next (if !(s.brd.powered && p.type == 8 && packetIntact p && p.dpair == s.applied.lbPair) then s
  else if p.vc == 1 then
    (if p.dside != s.ws.side then (if s.ws.contact then s.emit none p else s.dropPacket)
    else match s.received.answered p 8 with
      | (some (.unit j), s) => s.unitAnswer j (bits p.hw1 64 8) (bits p.hw1 56 8) (p.payload.getD 0 0)
      | (_, s) => s)
  else s.inOrder p false fun s => s.serveUnit p)

end Sys2Proof.Machine
end

