-- ==== Sys2Proof/Machine/Dispatch.lean ====
section
/-! DEFINITION. One arm for each command of the table. -/

namespace Sys2Proof.Machine

/-- The effect of one command on everything but the queue. -/
def exec (i : Instr) (s : State) : Host.Outcome State Fault Refusal :=
  match i with
  | .ill n f => Sys2Proof.Machine.execIll n f s
  | .nop n f => Sys2Proof.Machine.execNop n f s
  | .add n f => Sys2Proof.Machine.execAdd n f s
  | .sub n f => Sys2Proof.Machine.execSub n f s
  | .adc n f => Sys2Proof.Machine.execAdc n f s
  | .sbc n f => Sys2Proof.Machine.execSbc n f s
  | .neg n f => Sys2Proof.Machine.execNeg n f s
  | .cmp n f => Sys2Proof.Machine.execCmp n f s
  | .mul n f => Sys2Proof.Machine.execMul n f s
  | .mulh n f => Sys2Proof.Machine.execMulh n f s
  | .mulhu n f => Sys2Proof.Machine.execMulhu n f s
  | .div n f => Sys2Proof.Machine.execDiv n f s
  | .divu n f => Sys2Proof.Machine.execDivu n f s
  | .advance n f => Sys2Proof.Machine.execAdvance n f s
  | .and n f => Sys2Proof.Machine.execAnd n f s
  | .or n f => Sys2Proof.Machine.execOr n f s
  | .xor n f => Sys2Proof.Machine.execXor n f s
  | .andn n f => Sys2Proof.Machine.execAndn n f s
  | .orn n f => Sys2Proof.Machine.execOrn n f s
  | .shl n f => Sys2Proof.Machine.execShl n f s
  | .shr n f => Sys2Proof.Machine.execShr n f s
  | .sha n f => Sys2Proof.Machine.execSha n f s
  | .rot n f => Sys2Proof.Machine.execRot n f s
  | .clz n f => Sys2Proof.Machine.execClz n f s
  | .popc n f => Sys2Proof.Machine.execPopc n f s
  | .addi n f => Sys2Proof.Machine.execAddi n f s
  | .cmpi n f => Sys2Proof.Machine.execCmpi n f s
  | .andi n f => Sys2Proof.Machine.execAndi n f s
  | .ori n f => Sys2Proof.Machine.execOri n f s
  | .xori n f => Sys2Proof.Machine.execXori n f s
  | .shli n f => Sys2Proof.Machine.execShli n f s
  | .shri n f => Sys2Proof.Machine.execShri n f s
  | .shai n f => Sys2Proof.Machine.execShai n f s
  | .roti n f => Sys2Proof.Machine.execRoti n f s
  | .ldi n f => Sys2Proof.Machine.execLdi n f s
  | .insi n f => Sys2Proof.Machine.execInsi n f s
  | .advanceI n f => Sys2Proof.Machine.execAdvanceI n f s
  | .ldw n f => Sys2Proof.Machine.execLdw n f s
  | .ldo n f => Sys2Proof.Machine.execLdo n f s
  | .ldn n f => Sys2Proof.Machine.execLdn n f s
  | .ldf n f => Sys2Proof.Machine.execLdf n f s
  | .stw n f => Sys2Proof.Machine.execStw n f s
  | .sto n f => Sys2Proof.Machine.execSto n f s
  | .stn n f => Sys2Proof.Machine.execStn n f s
  | .stf n f => Sys2Proof.Machine.execStf n f s
  | .lea n f => Sys2Proof.Machine.execLea n f s
  | .casw n f => Sys2Proof.Machine.execCasw n f s
  | .swpw n f => Sys2Proof.Machine.execSwpw n f s
  | .fadw n f => Sys2Proof.Machine.execFadw n f s
  | .ldps n f => Sys2Proof.Machine.execLdps n f s
  | .stps n f => Sys2Proof.Machine.execStps n f s
  | .pmov n f => Sys2Proof.Machine.execPmov n f s
  | .pnar n f => Sys2Proof.Machine.execPnar n f s
  | .pprm n f => Sys2Proof.Machine.execPprm n f s
  | .pkey n f => Sys2Proof.Machine.execPkey n f s
  | .seal n f => Sys2Proof.Machine.execSeal n f s
  | .unseal n f => Sys2Proof.Machine.execUnseal n f s
  | .ptst n f => Sys2Proof.Machine.execPtst n f s
  | .pget n f => Sys2Proof.Machine.execPget n f s
  | .b n f => Sys2Proof.Machine.execB n f s
  | .call n f => Sys2Proof.Machine.execCall n f s
  | .br n f => Sys2Proof.Machine.execBr n f s
  | .callr n f => Sys2Proof.Machine.execCallr n f s
  | .ret n f => Sys2Proof.Machine.execRet n f s
  | .enter n f => Sys2Proof.Machine.execEnter n f s
  | .leave n f => Sys2Proof.Machine.execLeave n f s
  | .trap n f => Sys2Proof.Machine.execTrap n f s
  | .frel n f => Sys2Proof.Machine.execFrel n f s
  | .syncI n f => Sys2Proof.Machine.execSyncI n f s
  | .syncC n f => Sys2Proof.Machine.execSyncC n f s
  | .syncM n f => Sys2Proof.Machine.execSyncM n f s
  | .fbar n f => Sys2Proof.Machine.execFbar n f s
  | .rdst n f => Sys2Proof.Machine.execRdst n f s
  | .wrst n f => Sys2Proof.Machine.execWrst n f s
  | .dadd n f => Sys2Proof.Machine.execDadd n f s
  | .dsub n f => Sys2Proof.Machine.execDsub n f s
  | .dmul n f => Sys2Proof.Machine.execDmul n f s
  | .ddiv n f => Sys2Proof.Machine.execDdiv n f s
  | .dshr n f => Sys2Proof.Machine.execDshr n f s
  | .dcmp n f => Sys2Proof.Machine.execDcmp n f s
  | .cvbd n f => Sys2Proof.Machine.execCvbd n f s
  | .cvdb n f => Sys2Proof.Machine.execCvdb n f s
  | .daddM n f => Sys2Proof.Machine.execDaddM n f s
  | .dsubM n f => Sys2Proof.Machine.execDsubM n f s
  | .dmulM n f => Sys2Proof.Machine.execDmulM n f s
  | .ddivM n f => Sys2Proof.Machine.execDdivM n f s
  | .dshrM n f => Sys2Proof.Machine.execDshrM n f s
  | .dcmpM n f => Sys2Proof.Machine.execDcmpM n f s
  | .pack n f => Sys2Proof.Machine.execPack n f s
  | .unpk n f => Sys2Proof.Machine.execUnpk n f s
  | .cvtx n f => Sys2Proof.Machine.execCvtx n f s
  | .edit n f => Sys2Proof.Machine.execEdit n f s
  | .edmk n f => Sys2Proof.Machine.execEdmk n f s
  | .mvs n f => Sys2Proof.Machine.execMvs n f s
  | .cls n f => Sys2Proof.Machine.execCls n f s
  | .trx n f => Sys2Proof.Machine.execTrx n f s
  | .tsc n f => Sys2Proof.Machine.execTsc n f s
  | .scd n f => Sys2Proof.Machine.execScd n f s
  | .vdg n f => Sys2Proof.Machine.execVdg n f s
  | .post n f => Sys2Proof.Machine.execPost n f s
  | .commit n f => Sys2Proof.Machine.execCommit n f s
  | .saveL n f => Sys2Proof.Machine.execSaveL n f s
  | .saveU n f => Sys2Proof.Machine.execSaveU n f s
  | .restL n f => Sys2Proof.Machine.execRestL n f s
  | .restU n f => Sys2Proof.Machine.execRestU n f s
  | .invpg n f => Sys2Proof.Machine.execInvpg n f s
  | .invsp n f => Sys2Proof.Machine.execInvsp n f s
  | .invall n f => Sys2Proof.Machine.execInvall n f s
  | .fadd n f => Sys2Proof.Machine.execFadd n f s
  | .fsub n f => Sys2Proof.Machine.execFsub n f s
  | .fmul n f => Sys2Proof.Machine.execFmul n f s
  | .fdiv n f => Sys2Proof.Machine.execFdiv n f s
  | .fsqrt n f => Sys2Proof.Machine.execFsqrt n f s
  | .fma n f => Sys2Proof.Machine.execFma n f s
  | .fcmp n f => Sys2Proof.Machine.execFcmp n f s
  | .fmin n f => Sys2Proof.Machine.execFmin n f s
  | .fmax n f => Sys2Proof.Machine.execFmax n f s
  | .fabs n f => Sys2Proof.Machine.execFabs n f s
  | .fneg n f => Sys2Proof.Machine.execFneg n f s
  | .ftoi n f => Sys2Proof.Machine.execFtoi n f s
  | .itof n f => Sys2Proof.Machine.execItof n f s
  | .ftod n f => Sys2Proof.Machine.execFtod n f s
  | .dtof n f => Sys2Proof.Machine.execDtof n f s
  | .rdfs n f => Sys2Proof.Machine.execRdfs n f s
  | .wrfs n f => Sys2Proof.Machine.execWrfs n f s
  | .fmvgf n f => Sys2Proof.Machine.execFmvgf n f s
  | .fmvfg n f => Sys2Proof.Machine.execFmvfg n f s
  | .uop n k f => Sys2Proof.Machine.execUop n k f s
  | .eventEntry n => Sys2Proof.Machine.execEventEntry n s
  | .machineCheck n cause retry addr => Sys2Proof.Machine.execMachineCheck n cause retry addr s
  | .microTrap n c => Sys2Proof.Machine.execMicroTrap n c s
  | .microStepLimit n => Sys2Proof.Machine.execMicroStepLimit n s
  | .twinHandover n => Sys2Proof.Machine.execTwinHandover n s
  | .tableWalk a va acc => Sys2Proof.Machine.execTableWalk a va acc s
  | .lineFill n line => Sys2Proof.Machine.execLineFill n line s
  | .storeDrain n => Sys2Proof.Machine.execStoreDrain n s
  | .lateStoreError n cause pa => Sys2Proof.Machine.execLateStoreError n cause pa s
  | .sourceRaise src => Sys2Proof.Machine.execSourceRaise src s
  | .srcRaise n src v => Sys2Proof.Machine.execSrcRaise n src v s
  | .timerExpiry t => Sys2Proof.Machine.execTimerExpiry t s
  | .sspassLoad n p => Sys2Proof.Machine.execSspassLoad n p s
  | .sspassCopyOut n p => Sys2Proof.Machine.execSspassCopyOut n p s
  | .ep15Load n p => Sys2Proof.Machine.execEp15Load n p s
  | .ep14Load n p => Sys2Proof.Machine.execEp14Load n p s
  | .fpExchange n => Sys2Proof.Machine.execFpExchange n s
  | .fpFlush n => Sys2Proof.Machine.execFpFlush n s
  | .mcLoadImage n p addr => Sys2Proof.Machine.execMcLoadImage n p addr s
  | .clearPatches n p => Sys2Proof.Machine.execClearPatches n p s
  | .clearOpenStore n p => Sys2Proof.Machine.execClearOpenStore n p s
  | .registerWrite w v => Sys2Proof.Machine.execRegisterWrite w v s
  | .sequenceAssign => Sys2Proof.Machine.execSequenceAssign s
  | .duplicateResolve => Sys2Proof.Machine.execDuplicateResolve s
  | .journalFull => Sys2Proof.Machine.execJournalFull s
  | .bankReserve b => Sys2Proof.Machine.execBankReserve b s
  | .postingDecision => Sys2Proof.Machine.execPostingDecision s
  | .healWaitExpiry off => Sys2Proof.Machine.execHealWaitExpiry off s
  | .completionWord => Sys2Proof.Machine.execCompletionWord s
  | .recordHash => Sys2Proof.Machine.execRecordHash s
  | .blockTrailer => Sys2Proof.Machine.execBlockTrailer s
  | .journalAckRead => Sys2Proof.Machine.execJournalAckRead s
  | .prepare home n w2 legs => Sys2Proof.Machine.execPrepare home n w2 legs s
  | .yes src n scales => Sys2Proof.Machine.execYes src n scales s
  | .no src n status => Sys2Proof.Machine.execNo src n status s
  | .waitMsg home n => Sys2Proof.Machine.execWaitMsg home n s
  | .commitMsg home n => Sys2Proof.Machine.execCommitMsg home n s
  | .abort home n => Sys2Proof.Machine.execAbort home n s
  | .postingAck src n => Sys2Proof.Machine.execPostingAck src n s
  | .query src n => Sys2Proof.Machine.execQuery src n s
  | .revote home n => Sys2Proof.Machine.execRevote home n s
  | .voteTimer n => Sys2Proof.Machine.execVoteTimer n s
  | .revotePoint n => Sys2Proof.Machine.execRevotePoint n s
  | .resendTimer n => Sys2Proof.Machine.execResendTimer n s
  | .queryTimer home n => Sys2Proof.Machine.execQueryTimer home n s
  | .inDoubtAging home n => Sys2Proof.Machine.execInDoubtAging home n s
  | .idle l fr => Sys2Proof.Machine.execIdle l fr s
  | .stream l fr => Sys2Proof.Machine.execStream l fr s
  | .followerWriteVerified => Sys2Proof.Machine.execFollowerWriteVerified s
  | .twinAck l fr => Sys2Proof.Machine.execTwinAck l fr s
  | .heartbeat l fr => Sys2Proof.Machine.execHeartbeat l fr s
  | .healReq l fr => Sys2Proof.Machine.execHealReq l fr s
  | .healData l fr => Sys2Proof.Machine.execHealData l fr s
  | .copyStart l fr => Sys2Proof.Machine.execCopyStart l fr s
  | .copy l fr => Sys2Proof.Machine.execCopy l fr s
  | .recon l fr words => Sys2Proof.Machine.execRecon l fr words s
  | .wtab l fr => Sys2Proof.Machine.execWtab l fr s
  | .witnessTableAcked pair => Sys2Proof.Machine.execWitnessTableAcked pair s
  | .heartbeatTimer l => Sys2Proof.Machine.execHeartbeatTimer l s
  | .linkSilence l => Sys2Proof.Machine.execLinkSilence l s
  | .twinRetrainDone l ok => Sys2Proof.Machine.execTwinRetrainDone l ok s
  | .leaseExpiry => Sys2Proof.Machine.execLeaseExpiry s
  | .grantRequestTimer => Sys2Proof.Machine.execGrantRequestTimer s
  | .reconnectionTimer => Sys2Proof.Machine.execReconnectionTimer s
  | .roleRecordRewrite => Sys2Proof.Machine.execRoleRecordRewrite s
  | .greq w wseq => Sys2Proof.Machine.execGreq w wseq s
  | .probe src side => Sys2Proof.Machine.execProbe src side s
  | .probeAns role w wseq => Sys2Proof.Machine.execProbeAns role w wseq s
  | .witnessProbeTimer pair => Sys2Proof.Machine.execWitnessProbeTimer pair s
  | .grantMsg w => Sys2Proof.Machine.execGrantMsg w s
  | .grant j => Sys2Proof.Machine.execGrant j s
  | .fence j => Sys2Proof.Machine.execFence j s
  | .unfence j => Sys2Proof.Machine.execUnfence j s
  | .reconcile j twin => Sys2Proof.Machine.execReconcile j twin s
  | .reconcileTimeout j => Sys2Proof.Machine.execReconcileTimeout j s
  | .chStart n e v => Sys2Proof.Machine.execChStart n e v s
  | .chResume n e v => Sys2Proof.Machine.execChResume n e v s
  | .chHalt n e v => Sys2Proof.Machine.execChHalt n e v s
  | .chCreditAdd n e k v => Sys2Proof.Machine.execChCreditAdd n e k v s
  | .programDispatch e => Sys2Proof.Machine.execProgramDispatch e s
  | .preemption e => Sys2Proof.Machine.execPreemption e s
  | .stop e => Sys2Proof.Machine.execStop e s
  | .move e => Sys2Proof.Machine.execMove e s
  | .gather e => Sys2Proof.Machine.execGather e s
  | .scatter e => Sys2Proof.Machine.execScatter e s
  | .convert e => Sys2Proof.Machine.execConvert e s
  | .validate e => Sys2Proof.Machine.execValidate e s
  | .buildPost e => Sys2Proof.Machine.execBuildPost e s
  | .buildPostCompletion e => Sys2Proof.Machine.execBuildPostCompletion e s
  | .journalExport e => Sys2Proof.Machine.execJournalExport e s
  | .waitCredit e => Sys2Proof.Machine.execWaitCredit e s
  | .creditWaitTimeout e => Sys2Proof.Machine.execCreditWaitTimeout e s
  | .branch e => Sys2Proof.Machine.execBranch e s
  | .loop e => Sys2Proof.Machine.execLoop e s
  | .signal e => Sys2Proof.Machine.execSignal e s
  | .rejectRingRetry e => Sys2Proof.Machine.execRejectRingRetry e s
  | .powerOn env => Sys2Proof.Machine.execPowerOn env s
  | .startCtlRestart env => Sys2Proof.Machine.execStartCtlRestart env s
  | .continueStart env => Sys2Proof.Machine.execContinueStart env s
  | .automaticRestart env => Sys2Proof.Machine.execAutomaticRestart env s
  | .go env => Sys2Proof.Machine.execGo env s
  | .aposRecord => Sys2Proof.Machine.execAposRecord s
  | .marginMeasure ch margin => Sys2Proof.Machine.execMarginMeasure ch margin s
  | .retrainSlice ch margin => Sys2Proof.Machine.execRetrainSlice ch margin s
  | .check => Sys2Proof.Machine.execCheck s
  | .apply gen => Sys2Proof.Machine.execApply gen s
  | .discard => Sys2Proof.Machine.execDiscard s
  | .pairApplyInstant => Sys2Proof.Machine.execPairApplyInstant s
  | .unitJobGo n u slot => Sys2Proof.Machine.execUnitJobGo n u slot s
  | .queryJob j => Sys2Proof.Machine.execQueryJob j s
  | .startJob j passes => Sys2Proof.Machine.execStartJob j passes s
  | .stopJob j => Sys2Proof.Machine.execStopJob j s
  | .fenceUnit j => Sys2Proof.Machine.execFenceUnit j s
  | .policy j => Sys2Proof.Machine.execPolicy j s
  | .restart j env => Sys2Proof.Machine.execRestart j env s
  | .checkJob j => Sys2Proof.Machine.execCheckJob j s
  | .applyJob j twin => Sys2Proof.Machine.execApplyJob j twin s
  | .discardJob j => Sys2Proof.Machine.execDiscardJob j s
  | .recal j => Sys2Proof.Machine.execRecal j s
  | .createLedger j => Sys2Proof.Machine.execCreateLedger j s
  | .clearFail j => Sys2Proof.Machine.execClearFail j s
  | .qpEnable q => Sys2Proof.Machine.execQpEnable q s
  | .qpDisable q => Sys2Proof.Machine.execQpDisable q s
  | .doorbellPoll w => Sys2Proof.Machine.execDoorbellPoll w s
  | .doorbellReadResult w => Sys2Proof.Machine.execDoorbellReadResult w s
  | .jobFetch q => Sys2Proof.Machine.execJobFetch q s
  | .jobNop j => Sys2Proof.Machine.execJobNop j s
  | .jobPost j => Sys2Proof.Machine.execJobPost j s
  | .jobCommit j => Sys2Proof.Machine.execJobCommit j s
  | .memread j => Sys2Proof.Machine.execMemread j s
  | .memwrite j => Sys2Proof.Machine.execMemwrite j s
  | .chstart j => Sys2Proof.Machine.execChstart j s
  | .completionWrite q => Sys2Proof.Machine.execCompletionWrite q s
  | .functionReset fn => Sys2Proof.Machine.execFunctionReset fn s
  | .hostDmaError r => Sys2Proof.Machine.execHostDmaError r s
  | .codewordReceive l cw => Sys2Proof.Machine.execCodewordReceive l cw s
  | .fabricLinkSilence l => Sys2Proof.Machine.execFabricLinkSilence l s
  | .fabricRetrainDone l far => Sys2Proof.Machine.execFabricRetrainDone l far s
  | .packetForward p => Sys2Proof.Machine.execPacketForward p s
  | .loadReq p => Sys2Proof.Machine.execLoadReq p s
  | .storeReq p => Sys2Proof.Machine.execStoreReq p s
  | .eventPacket p => Sys2Proof.Machine.execEventPacket p s
  | .loadRsp p => Sys2Proof.Machine.execLoadRsp p s
  | .ack p => Sys2Proof.Machine.execAck p s
  | .unit p => Sys2Proof.Machine.execUnit p s
  | .eseqResend pair side events => Sys2Proof.Machine.execEseqResend pair side events s
  | .timePacket l t => Sys2Proof.Machine.execTimePacket l t s
  | .timeMasterSend => Sys2Proof.Machine.execTimeMasterSend s
  | .timeLost => Sys2Proof.Machine.execTimeLost s
  | .powerFail => Sys2Proof.Machine.execPowerFail s
  | .holdupLow uj => Sys2Proof.Machine.execHoldupLow uj s
  | .standbyLost => Sys2Proof.Machine.execStandbyLost s
  | .undervoltage mv => Sys2Proof.Machine.execUndervoltage mv s
  | .thermalWarn tj => Sys2Proof.Machine.execThermalWarn tj s
  | .throttle tj => Sys2Proof.Machine.execThrottle tj s
  | .throttleRestore => Sys2Proof.Machine.execThrottleRestore s
  | .thermalTrip tj => Sys2Proof.Machine.execThermalTrip tj s
  | .fordClockStop ford stopped => Sys2Proof.Machine.execFordClockStop ford stopped s
  | .mgmtTransaction op => Sys2Proof.Machine.execMgmtTransaction op s
  | .bypass => Sys2Proof.Machine.execBypass s
  | .idcode => Sys2Proof.Machine.execIdcode s
  | .samplePreload => Sys2Proof.Machine.execSamplePreload s
  | .extest => Sys2Proof.Machine.execExtest s
  | .extestPulse => Sys2Proof.Machine.execExtestPulse s
  | .extestTrain => Sys2Proof.Machine.execExtestTrain s
  | .clamp => Sys2Proof.Machine.execClamp s
  | .highz => Sys2Proof.Machine.execHighz s
  | .intest => Sys2Proof.Machine.execIntest s
  | .pcieLinkChange link => Sys2Proof.Machine.execPcieLinkChange link s
  | .overpower mw => Sys2Proof.Machine.execOverpower mw s
  | .fordClockStopTimeout ford => Sys2Proof.Machine.execFordClockStopTimeout ford s
  | .twinReplayStoreFull l => Sys2Proof.Machine.execTwinReplayStoreFull l s
  | .fabricReplayStoreFull l => Sys2Proof.Machine.execFabricReplayStoreFull l s
  | .senseDelayTap => Sys2Proof.Machine.execSenseDelayTap s

end Sys2Proof.Machine
end

