-- ==== Sys2Proof/Decode.lean ====
section
/-! DEFINITION. The commands that words spell. The table of operations and events gives no row any bits, so no word spells a command of it by
those bits (log 1). The spec's own instruction words (R54-R57, R74, R75) are decoded here: which command of a core an instruction stands for. -/

/-- The command that an `nbits`-bit word spells by the table's bits: none, since the table gives no bits. -/
def Sys2Proof.decodeTableWord (_nbits _w : Nat) : Option Sys2Proof.Instr := none

namespace Sys2Proof

/-! ## The formats (R55, R56) -/

/-- Format A. -/
def FmtA.ofBits (x : BitVec 36) : FmtA :=
  { rd := x.extractLsb' 23 5, ra := x.extractLsb' 18 5, rb := x.extractLsb' 13 5, fn := x.extractLsb' 0 13 }

/-- Format I. -/
def FmtI.ofBits (x : BitVec 36) : FmtI := { rd := x.extractLsb' 23 5, ra := x.extractLsb' 18 5, imm := x.extractLsb' 0 18 }

/-- Format M. -/
def FmtM.ofBits (x : BitVec 36) : FmtM :=
  { rt := x.extractLsb' 23 5, rb := x.extractLsb' 18 5, pr := x.extractLsb' 14 4, disp := x.extractLsb' 0 14 }

/-- Format B. -/
def FmtB.ofBits (x : BitVec 36) : FmtB := { cond := x.extractLsb' 24 4, disp := x.extractLsb' 0 24 }

/-- Format S, of a whole word. -/
def FmtS.ofBits (w : Word) : FmtS :=
  { l1 := w.extractLsb' 58 6, l2 := w.extractLsb' 52 6, rnd := w.extractLsb' 49 3, res := w.extractLsb' 48 1, b1 := w.extractLsb' 43 5,
    p1 := w.extractLsb' 39 4, d1 := w.extractLsb' 24 15, b2 := w.extractLsb' 19 5, p2 := w.extractLsb' 15 4, d2 := w.extractLsb' 0 15 }

/-! ## The opcode map (R74) -/

/-- The format-A commands of a row of the map; ILL stands for a dash and for an opcode of another format. -/
def rowA (n : CoreId) : Nat → List (FmtA → Instr)
  | 0x0 => [.ill n, .nop n, .add n, .sub n, .adc n, .sbc n, .neg n, .cmp n, .mul n, .mulh n, .mulhu n, .div n, .divu n, .ill n, .advance n]
  | 0x1 => [.and n, .or n, .xor n, .andn n, .orn n, .shl n, .shr n, .sha n, .rot n, .clz n, .popc n]
  | 0x4 => [.pmov n, .pnar n, .pprm n, .pkey n, .seal n, .unseal n, .ptst n, .pget n]
  | 0x5 => [.ill n, .ill n, .br n, .callr n, .ret n, .enter n, .leave n, .ill n, .frel n, .syncI n, .syncC n, .syncM n, .fbar n, .rdst n, .wrst n]
  | 0x6 => [.dadd n, .dsub n, .dmul n, .ddiv n, .dshr n, .dcmp n, .cvbd n, .cvdb n]
  | 0x9 => [.ill n, .ill n, .saveL n, .saveU n, .restL n, .restU n, .invpg n, .invsp n, .invall n]
  | 0xA => [.fadd n, .fsub n, .fmul n, .fdiv n, .fsqrt n, .fma n, .fcmp n, .fmin n, .fmax n, .fabs n, .fneg n, .ftoi n, .itof n, .ftod n, .dtof n]
  | 0xB => [.rdfs n, .wrfs n, .fmvgf n, .fmvfg n]
  | 0xE => (List.finRange 16).map fun k => .uop n k
  | _ => []

/-- The format-I commands of row 0x2_. -/
def rowI (n : CoreId) : List (FmtI → Instr) :=
  [.addi n, .cmpi n, .andi n, .ori n, .xori n, .shli n, .shri n, .shai n, .roti n, .ldi n, .insi n, .advanceI n]

/-- The format-M commands of row 0x3_. -/
def rowM (n : CoreId) : List (FmtM → Instr) :=
  [.ldw n, .ldo n, .ldn n, .ldf n, .stw n, .sto n, .stn n, .stf n, .lea n, .casw n, .swpw n, .fadw n, .ldps n, .stps n]

/-- The format-S commands of rows 0x7_ and 0x8_. -/
def rowS (n : CoreId) : Nat → List (FmtS → Instr)
  | 0x7 => [.daddM n, .dsubM n, .dmulM n, .ddivM n, .dshrM n, .dcmpM n, .pack n, .unpk n, .cvtx n]
  | _ => [.edit n, .edmk n, .mvs n, .cls n, .trx n, .tsc n, .scd n, .vdg n]

/-- The command of core n that an instruction stands for (R54, R74, R75): `w` holds it in its upper bits, a 36-bit one in bits 71:36. An opcode
that the map leaves unassigned or reserved raises the illegal-instruction fault, as ILL does. -/
def decodeIns (n : CoreId) (w : Word) : Instr :=
  let x : BitVec 36 := w.extractLsb' 36 36
  let hi := (w.extractLsb' 68 4).toNat
  let lo := (w.extractLsb' 64 4).toNat
  let ill : Instr := .ill n (FmtA.ofBits x)
  let pick {α : Type} (l : List (α → Instr)) (f : α) : Instr := (l[lo]?.map fun c => c f).getD ill
  match hi, lo with
  | 0x5, 0x0 => .b n (FmtB.ofBits x)
  | 0x5, 0x1 => .call n (FmtB.ofBits x)
  | 0x5, 0x7 => .trap n (FmtI.ofBits x)
  | 0x9, 0x0 => .post n (FmtM.ofBits x)
  | 0x9, 0x1 => .commit n (FmtM.ofBits x)
  | 0x2, _ => pick (rowI n) (FmtI.ofBits x)
  | 0x3, _ => pick (rowM n) (FmtM.ofBits x)
  | 0x7, _ => pick (rowS n 0x7) (FmtS.ofBits w)
  | 0x8, _ => pick (rowS n 0x8) (FmtS.ofBits w)
  | _, _ => pick (rowA n hi) (FmtA.ofBits x)

/-! ## Encodings of the formats -/

/-- A 36-bit instruction as it stands at position 0 of its word, position 9 zero. -/
def slotWord (op : BitVec 8) (low : BitVec 28) : Word := ((op ++ low) ++ (0 : BitVec 36) : BitVec 72)

/-- The instruction word of a format and an opcode. -/
def FmtA.toWord (op : BitVec 8) (f : FmtA) : Word := slotWord op (f.rd ++ f.ra ++ f.rb ++ f.fn)
def FmtI.toWord (op : BitVec 8) (f : FmtI) : Word := slotWord op (f.rd ++ f.ra ++ f.imm)
def FmtM.toWord (op : BitVec 8) (f : FmtM) : Word := slotWord op (f.rt ++ f.rb ++ f.pr ++ f.disp)
def FmtB.toWord (op : BitVec 8) (f : FmtB) : Word := slotWord op (f.cond ++ f.disp)
def FmtS.toWord (op : BitVec 8) (f : FmtS) : Word :=
  (op ++ f.l1 ++ f.l2 ++ f.rnd ++ f.res ++ f.b1 ++ f.p1 ++ f.d1 ++ f.b2 ++ f.p2 ++ f.d2 : BitVec 72)

end Sys2Proof
end

