-- ==== Sys2Proof/Machine/Fetch.lean ====
section
/-! DEFINITION. The command that the instruction at a core's PC stands for (R54, R57-R59, R74, R75). -/

namespace Sys2Proof.Machine

/-- The instruction at a PC in the word that holds it, in the upper bits: at position 9 it is the lower half, and an S-format opcode there has no
fields (R57). -/
def instrAt (pc : DAddr) (w : Word) : Word := if daPos pc = 0 then w else w <<< 36

/-- The command that a core's PC stands at, as the fetch of R59 gives it; none where the fetch faults or waits. The commands given to the core are
not held to it (log 1). -/
def State.fetchedCommand (s : State) (n : CoreId) : Option Instr :=
  match fetchAt n s.cores[n].p[15] s.cores[n].pc s with
  | .ok w _ => some (decodeIns n (instrAt s.cores[n].pc w))
  | .error _ _ => none

end Sys2Proof.Machine
end

