-- ==== Sys2Proof/WellFormed.lean ====
section
/-! DEFINITION. Which commands are well formed: those whose operands the module's surroundings can send. The bit-vector and
`Fin` types of Syntax.lean hold every field to its width; the checks here are the bounds that no type states. -/

namespace Sys2Proof

/-- A packet of the fabric (R454, R455): at most 61 payload words. -/
def Packet.wellFormed (p : Packet) : Bool := decide (p.payload.length ≤ 61)

/-- What a start meets (R467, R468): steps S01-S24 only, and each unit at most once. -/
def StartEnv.wellFormed (e : StartEnv) : Bool :=
  (e.fails.all fun x => decide (1 ≤ x.1) && decide (x.1 ≤ 24)) && (e.badCores.all fun x => decide (5 ≤ x.1) && decide (x.1 ≤ 7))
    && (e.measured.all fun x => decide (1 ≤ x.1) && decide (x.1 ≤ 24)) && (e.detail.all fun x => x.1 == 8 || x.1 == 9)

/-- Whether a command is well formed. -/
def Instr.wellFormed : Instr → Bool
  /- The causes of R324. -/
  | .machineCheck _ cause _ _ => decide (1 ≤ cause.toNat) && decide (cause.toNat ≤ 5)
  /- The late store causes of R322. -/
  | .lateStoreError _ cause _ => decide (1 ≤ cause.toNat) && decide (cause.toNat ≤ 7)
  /- A vector has 1 to 16 legs (R145). -/
  | .prepare _ _ _ legs => decide (1 ≤ legs.length) && decide (legs.length ≤ 16)
  /- A YES carries one SCALE octet for each leg of the participant (R167). -/
  | .yes _ _ scales => decide (1 ≤ scales.length) && decide (scales.length ≤ 16)
  | .packetForward p | .loadReq p | .storeReq p | .eventPacket p | .loadRsp p | .ack p | .unit p => p.wellFormed
  | .powerOn e | .startCtlRestart e | .continueStart e | .automaticRestart e | .go e | .restart _ e => e.wellFormed
  /- Function 0 is the physical function; functions 1 to 31 are the virtual ones (R414). -/
  | .registerWrite (.vf k _ _ _) _ => decide (1 ≤ k.val)
  | _ => true

end Sys2Proof
end

