-- ==== Sys2Proof/Safety.lean ====
section
/-! DEFINITION. The terms in which claims are stated: the invariant of every state, when an instruction starts, and what an
instruction leaves as it was. -/

namespace Sys2Proof.Machine

/-! ## The invariant -/

/-- Memory and host memory are in canonical form. -/
def State.Inv (s : State) : Prop := Memory.wf s.mem = true ∧ hostWf s.hostMem = true

/-! ## The opcode map (R54, R74) -/

/-- The opcodes of format A, UOP0-UOP15 apart, each with its command of core n. -/
def opsA (n : CoreId) (f : FmtA) : List (BitVec 8 × Instr) :=
  [ (0x01, .nop n f), (0x02, .add n f), (0x03, .sub n f), (0x04, .adc n f), (0x05, .sbc n f), (0x06, .neg n f), (0x07, .cmp n f),
    (0x08, .mul n f), (0x09, .mulh n f), (0x0A, .mulhu n f), (0x0B, .div n f), (0x0C, .divu n f), (0x0E, .advance n f), (0x10, .and n f),
    (0x11, .or n f), (0x12, .xor n f), (0x13, .andn n f), (0x14, .orn n f), (0x15, .shl n f), (0x16, .shr n f), (0x17, .sha n f),
    (0x18, .rot n f), (0x19, .clz n f), (0x1A, .popc n f), (0x40, .pmov n f), (0x41, .pnar n f), (0x42, .pprm n f), (0x43, .pkey n f),
    (0x44, .seal n f), (0x45, .unseal n f), (0x46, .ptst n f), (0x47, .pget n f), (0x52, .br n f), (0x53, .callr n f), (0x54, .ret n f),
    (0x55, .enter n f), (0x56, .leave n f), (0x58, .frel n f), (0x59, .syncI n f), (0x5A, .syncC n f), (0x5B, .syncM n f), (0x5C, .fbar n f),
    (0x5D, .rdst n f), (0x5E, .wrst n f), (0x60, .dadd n f), (0x61, .dsub n f), (0x62, .dmul n f), (0x63, .ddiv n f), (0x64, .dshr n f),
    (0x65, .dcmp n f), (0x66, .cvbd n f), (0x67, .cvdb n f), (0x92, .saveL n f), (0x93, .saveU n f), (0x94, .restL n f), (0x95, .restU n f),
    (0x96, .invpg n f), (0x97, .invsp n f), (0x98, .invall n f), (0xA0, .fadd n f), (0xA1, .fsub n f), (0xA2, .fmul n f), (0xA3, .fdiv n f),
    (0xA4, .fsqrt n f), (0xA5, .fma n f), (0xA6, .fcmp n f), (0xA7, .fmin n f), (0xA8, .fmax n f), (0xA9, .fabs n f), (0xAA, .fneg n f),
    (0xAB, .ftoi n f), (0xAC, .itof n f), (0xAD, .ftod n f), (0xAE, .dtof n f), (0xB0, .rdfs n f), (0xB1, .wrfs n f), (0xB2, .fmvgf n f),
    (0xB3, .fmvfg n f) ]

/-- The opcodes of format I, each with its command of core n. -/
def opsI (n : CoreId) (f : FmtI) : List (BitVec 8 × Instr) :=
  [ (0x20, .addi n f), (0x21, .cmpi n f), (0x22, .andi n f), (0x23, .ori n f), (0x24, .xori n f), (0x25, .shli n f), (0x26, .shri n f),
    (0x27, .shai n f), (0x28, .roti n f), (0x29, .ldi n f), (0x2A, .insi n f), (0x2B, .advanceI n f), (0x57, .trap n f) ]

/-- The opcodes of format M, each with its command of core n. -/
def opsM (n : CoreId) (f : FmtM) : List (BitVec 8 × Instr) :=
  [ (0x30, .ldw n f), (0x31, .ldo n f), (0x32, .ldn n f), (0x33, .ldf n f), (0x34, .stw n f), (0x35, .sto n f), (0x36, .stn n f),
    (0x37, .stf n f), (0x38, .lea n f), (0x39, .casw n f), (0x3A, .swpw n f), (0x3B, .fadw n f), (0x3C, .ldps n f), (0x3D, .stps n f),
    (0x90, .post n f), (0x91, .commit n f) ]

/-- The opcodes of format B, each with its command of core n. -/
def opsB (n : CoreId) (f : FmtB) : List (BitVec 8 × Instr) :=
  [ (0x50, .b n f), (0x51, .call n f) ]

/-- The opcodes of format S, each with its command of core n. -/
def opsS (n : CoreId) (f : FmtS) : List (BitVec 8 × Instr) :=
  [ (0x70, .daddM n f), (0x71, .dsubM n f), (0x72, .dmulM n f), (0x73, .ddivM n f), (0x74, .dshrM n f), (0x75, .dcmpM n f),
    (0x76, .pack n f), (0x77, .unpk n f), (0x78, .cvtx n f), (0x80, .edit n f), (0x81, .edmk n f), (0x82, .mvs n f), (0x83, .cls n f),
    (0x84, .trx n f), (0x85, .tsc n f), (0x86, .scd n f), (0x87, .vdg n f) ]

/-- Whether R74 assigns an opcode to an instruction other than ILL. -/
def opAssigned (n : CoreId) (op : BitVec 8) : Prop :=
  op ∈ ((opsA n (FmtA.ofBits 0)).map (·.1) ++ (opsI n (FmtI.ofBits 0)).map (·.1) ++ (opsM n (FmtM.ofBits 0)).map (·.1) ++
    (opsB n (FmtB.ofBits 0)).map (·.1) ++ (opsS n (FmtS.ofBits 0)).map (·.1)) ∨ bits op 4 4 = 0xE

/-! ## When an instruction starts -/

/-- The state once an instruction of a shape is fetched and decoded: translation stores and the deterministic charge may have
changed, no register has. -/
def State.fetched (s : State) (n : CoreId) (sh : Shape) : State := stateOf (fetchDecode n sh) s

/-- The core as the fetch and decode leave it. -/
def State.core (s : State) (n : CoreId) (sh : Shape) : Core := (s.fetched n sh).cores[n]

/-- Whether core n starts an instruction of a shape: it is free to (R150, R344), no event is to be taken first (R313), and the fetch (R59) and
the decode (R54, R57, R46, R323) raise no fault and do not wait. -/
def State.starts (s : State) (n : CoreId) (sh : Shape) : Bool :=
  s.cores[n].ready sh.regs && s.mayBegin n &&
    match fetchDecode n sh s with
    | .ok _ _ => true
    | .error _ _ => false

/-- Whether core n starts an instruction of a shape whose sequential successor lies in the address space (R58). -/
def State.runs (s : State) (n : CoreId) (sh : Shape) : Bool := s.starts n sh && !overruns (s.core n sh) sh .seq

/-! ## What an instruction leaves as it was -/

/-- Nothing but core n differs, and the lines in its quad's L2, which decide no result: memory, queue, sources, engines and every other core are
the same. The counter of free values may have moved. -/
def OnlyCore (n : CoreId) (t u : State) : Prop :=
  u = { t with
    cores := t.cores.set n u.cores[n], free := u.free,
    quads := t.quads.set (quadOf n) { t.quads[quadOf n] with l2 := u.quads[quadOf n].l2 } }

/-- A core with the PC, RETIRE_COUNT, the lines in the L1 and the bookkeeping of the fetch and of deterministic mode of another. -/
def Core.bookkept (c d : Core) : Core :=
  { c with
    pc := d.pc, retired := d.retired, arrived := d.arrived, fetchWord := d.fetchWord, hold := d.hold, l1 := d.l1, l1miss := d.l1miss,
    detSteps := d.detSteps, detPend := d.detPend, detVar := d.detVar, late := d.late }

/-- The core went on past an instruction of k slots (R58). -/
def Core.WentOn (c d : Core) (k : Nat) : Prop := d.pc = daAdd c.pc (9 * k) ∧ d.retired = c.retired + 1

/-- The core went to a target. -/
def Core.WentTo (c d : Core) (t : DAddr) : Prop := d.pc = t ∧ d.retired = c.retired + 1

/-- Every general register but G[rd] is unchanged. -/
def Core.KeptG (c d : Core) (rd : BitVec 5) : Prop := ∀ i, i ≠ rd → d.gr i = c.gr i

/-- G[rd] holds v, or, for G0, nothing was written (R43). -/
def Core.Got (d : Core) (rd : BitVec 5) (v : Word) : Prop := d.gr rd = if rd = 0 then 0 else v

/-- N, Z, V and C, and every other bit of ST as it was. -/
def Core.Flags (c d : Core) (n z v cy : Bool) : Prop :=
  d.flagN = n ∧ d.flagZ = z ∧ d.flagV = v ∧ d.flagC = cy ∧ ∀ k, k < 68 → bit d.st k = bit c.st k

/-- Nothing of the core but general registers, ST and bookkeeping differs. -/
def Core.OnlyGSt (c d : Core) : Prop := d = { c.bookkept d with g := d.g, st := d.st }

/-- A one-slot instruction wrote v to G[rd] and the four flags, and nothing else. -/
def Core.Computed (c d : Core) (rd : BitVec 5) (v : Word) (n z o cy : Bool) : Prop :=
  c.OnlyGSt d ∧ c.WentOn d 1 ∧ d.Got rd v ∧ c.KeptG d rd ∧ c.Flags d n z o cy

/-- A sum with carry in: the flags of R65. -/
def Core.Added (c d : Core) (rd : BitVec 5) (a b : Word) (cin : Bool) : Prop :=
  let v := a + b + BitVec.ofNat 72 cin.toNat
  c.Computed d rd v v.msb (v == 0) (v.toInt != a.toInt + b.toInt + cin.toNat) (decide (2 ^ 72 ≤ a.toNat + b.toNat + cin.toNat))

/-- A difference with borrow in: the flags of R65; C = 1 means that there was no borrow. -/
def Core.Subtracted (c d : Core) (rd : BitVec 5) (a b : Word) (bin : Bool) : Prop :=
  let v := a - b - BitVec.ofNat 72 bin.toNat
  c.Computed d rd v v.msb (v == 0) (v.toInt != a.toInt - b.toInt - bin.toNat) (decide (b.toNat + bin.toNat ≤ a.toNat))

/-- A one-slot instruction wrote v to G[rd] and left ST as it was. -/
def Core.Loaded (c d : Core) (rd : BitVec 5) (v : Word) : Prop :=
  d = { c.bookkept d with g := d.g } ∧ c.WentOn d 1 ∧ d.Got rd v ∧ c.KeptG d rd

/-- A logical result (R65): N and Z from it, V 0, C kept. -/
def Core.Logical (c d : Core) (rd : BitVec 5) (v : Word) : Prop := c.Computed d rd v v.msb (v == 0) false c.flagC

/-- Two general registers written and the four flags, and nothing else. -/
def Core.ComputedPair (c d : Core) (r1 r2 : BitVec 5) (v1 v2 : Word) (n z o cy : Bool) : Prop :=
  c.OnlyGSt d ∧ c.WentOn d 1 ∧ d.Got r1 v1 ∧ d.Got r2 v2 ∧ (∀ i, i ≠ r1 → i ≠ r2 → d.gr i = c.gr i) ∧ c.Flags d n z o cy

/-- A register value is a digit address with a position below 18 (R19, R20). -/
def isDigitAddr (v : Word) : Prop := v.toNat < 2 ^ 57 ∧ v.toNat % 32 < 18

/-- The place of a digit address, counted in positions (R24). -/
def place (v : Word) : Int := (v.toNat / 32 : Nat) * 18 + (v.toNat % 32 : Nat)

/-- The digit address at a place, modulo the address space, as it stands in a register (R19, R23). -/
def atPlace (p : Int) : Word := BitVec.ofInt 72 ((p / 18 % 2 ^ 52) * 32 + p % 18)

/-! ## Memory operands -/

/-- The effective address of an M-format instruction whose base holds a digit address (R61). -/
def Core.ea (c : Core) (f : FmtM) : DAddr := daAdd (bits (c.gr f.rb) 0 57) f.disp.toInt

/-- The operand passes the checks 4 to 6 of R62 in state t: its words in order, and the state that translation leaves. -/
def OperandPasses (n : CoreId) (pr : PassId) (need : BitVec 12) (a : Acc) (da : DAddr) (len : Nat) (t : State) (rs : List WordRef) (t' : State) :
    Prop := operand n 1 pr need a da len t = .ok rs t'

/-- A word of the local Plain or Basin that is not uncorrectable, and of which the core's buffered stores hold nothing. -/
def State.settled (t : State) (n : CoreId) (r : WordRef) : Prop :=
  isLocalMem r.pa = true ∧ (t.cell r.pa).bad = false ∧ ∀ e ∈ t.cores[n].storeBuf, e.maskAt r.pa = 0

/-- The positions of an operand in memory, the first the most significant (R10). -/
def State.operandValue (t : State) (rs : List WordRef) : Nat := natOfPos (gather rs (rs.map fun r => t.data r.pa))

/-- Memory once the core's buffered stores have left: what every agent sees of them in the end (R69, R337). -/
def State.drainedCell (t : State) (n : CoreId) (pa : WAddr) : MCell := (t.drainAll n).cell pa

/-- A load that answers a next state: nothing but core n differs, and it has gone on with `put` done and nothing else. -/
def LoadAnswers (i : Instr) (s t : State) (n : CoreId) (put : Core → Core) : Prop :=
  ∃ u, exec i s = .next u ∧ OnlyCore n t u ∧ t.cores[n].WentOn u.cores[n] 1 ∧ u.cores[n] = put (t.cores[n].bookkept u.cores[n])

/-- A store of `l` to the words of an operand, and of nothing else: the positions of each word that its mask covers, the tags of the
word and of the other word of its pair (R16, R28). -/
def StoredTo (n : CoreId) (t u : State) (rs : List WordRef) (l : List Word) : Prop :=
  (∀ x ∈ rs.zip l, (u.drainedCell n x.1.pa).data = merge x.1.mask x.2 (t.drainedCell n x.1.pa).data) ∧
  (∀ pa, (∀ r ∈ rs, pa ≠ r.pa) → (u.drainedCell n pa).data = (t.drainedCell n pa).data) ∧
  (∀ pa, (u.drainedCell n pa).tag = ((t.drainedCell n pa).tag && rs.all fun r => pa != r.pa && pa != pairWord r.pa))

/-- The words of an operand whose store enters the buffer at once: local and correctable words of distinct places, CHG set already, and
room for each; outside deterministic mode, with memory in canonical form. -/
def State.storable (t : State) (n : CoreId) (rs : List WordRef) : Prop :=
  t.Inv ∧ t.cores[n].det = false ∧ (rs.map fun r => r.pa).Nodup ∧ t.cores[n].bufferUsed + rs.length ≤ 32 ∧
  ∀ r ∈ rs, isLocalMem r.pa = true ∧ (t.drainedCell n r.pa).bad = false ∧ r.ent.chg = true

/-- Nothing but core n differs, and of it nothing but the store buffer and the bookkeeping. -/
def OnlyBuffered (n : CoreId) (t u : State) : Prop :=
  OnlyCore n t u ∧ u.cores[n] = { t.cores[n].bookkept u.cores[n] with storeBuf := u.cores[n].storeBuf }

/-- A fault of an instruction that has fetched: no effect of its own, then the entry for the fault (R313, R319). -/
def Faults (i : Instr) (s : State) (n : CoreId) (sh : Shape) (f : FaultInfo) : Prop :=
  exec i s = .next ((s.fetched n sh).faultAfter n f s)

/-- The command answers a next state in which nothing but core n differs from what the fetch left, and the core is as `P` says of it
before and after; asked of every state in which the instruction runs. -/
def Completes (i : Instr) (s : State) (n : CoreId) (sh : Shape) (P : Core → Core → Prop) : Prop :=
  s.runs n sh = true → ∃ u, exec i s = .next u ∧ OnlyCore n (s.fetched n sh) u ∧ P (s.core n sh) u.cores[n]

/-- As `Completes`, for an instruction that goes to a target: it needs no successor in the address space (R58). -/
def Goes (i : Instr) (s : State) (n : CoreId) (sh : Shape) (P : Core → Core → Prop) : Prop :=
  s.starts n sh = true → ∃ u, exec i s = .next u ∧ OnlyCore n (s.fetched n sh) u ∧ P (s.core n sh) u.cores[n]

/-! ## Passes and control transfers -/

/-- A pass register that is valid and unsealed. -/
def PassReg.usable (p : PassReg) : Bool := p.valid && !p.sealed

/-- A one-slot instruction wrote P[rd] and nothing else. -/
def Core.WroteP (c d : Core) (rd : PassId) (q : PassReg) : Prop := d = (c.bookkept d).setP rd q ∧ c.WentOn d 1

/-- P15 lets a core fetch at a digit address (R59, R60, R242). -/
def Core.mayGo (c : Core) (t : DAddr) : Prop :=
  c.p[15].usable = true ∧ c.p[15].grants permExec = true ∧ c.p[15].base ≤ (daWord t).toNat ∧ (daWord t).toNat < c.p[15].base + c.p[15].len

/-- A register value is a branch target (R60). -/
def isTarget (v : Word) : Prop := v.toNat < 2 ^ 57 ∧ (v.toNat % 32 = 0 ∨ v.toNat % 32 = 9)

/-- A core's PC moved by positions stays in the address space (R58, R60). -/
def Core.reaches (c : Core) (k : Int) : Prop := 0 ≤ place (daReg c.pc) + k ∧ place (daReg c.pc) + k < 2 ^ 52 * 18

/-- The core is the same but for the bookkeeping and the predictors of R330 with their count, which decide no result. -/
def Core.sameBut (c d : Core) : Core := { c.bookkept d with btb := d.btb, rstack := d.rstack, mispred := d.mispred }

/-! ## Entries -/

/-- What an entry leaves in the core that takes it (R310, R314): PC, P15, P14, FPA, LVL, the ACTIVE bit and the kept frame; nothing
else but the store buffer and the bookkeeping. -/
def Core.Entered (c d : Core) (i : EntryInfo) (pas : List WAddr) (vec : DAddr) (p15 p14 : PassReg) : Prop :=
  d.pc = vec ∧ d.p = (c.p.set 15 p15).set 14 p14 ∧
  d.frames = { bit := BitVec.ofNat 5 (entryBit i.kind i.level), addrs := pas } :: c.frames ∧
  (∀ k, bit d.active k = (bit c.active k || k == entryBit i.kind i.level)) ∧
  (∀ k, bit d.st k = if k = 64 then false
    else if (i.kind = .event ∨ i.kind = .trap) ∧ 55 ≤ k ∧ k < 58 then bit i.level (k - 55) else bit c.st k) ∧
  d = { c.bookkept d with p := d.p, st := d.st, active := d.active, frames := d.frames, storeBuf := d.storeBuf, pageRegs := d.pageRegs }

/-- The checks of R314 pass for an entry: the twelve words of its frame, the vector and the handler passes, and the state that they
leave; outside deterministic mode. -/
def State.entryPasses (s : State) (n : CoreId) (i : EntryInfo) (pas : List WAddr) (vec : DAddr) (p15 p14 : PassReg) (t : State) : Prop :=
  entryChecks n i ((s.drainAll n).cores[n].tableEntry i) (s.drainAll n) = (.ok pas vec p15 p14, t) ∧ t.cores[n].det = false ∧
    t.cores[n].storeBuf = []

/-- An entry was taken: nothing but the core differs from the state that its checks left. -/
def EntryTaken (n : CoreId) (i : EntryInfo) (pas : List WAddr) (vec : DAddr) (p15 p14 : PassReg) (t u : State) : Prop :=
  OnlyCore n t u ∧ t.cores[n].Entered u.cores[n] i pas vec p15 p14

/-- The twelve words of an entry frame (R315). -/
def Core.entryFrame (c : Core) (i : EntryInfo) (now : BitVec 64) : List Word :=
  [daReg i.pc, c.st, c.p[15].w0, c.p[15].w1, c.p[14].w0, c.p[14].w1,
    at' i.kind.code 68 ||| at' i.fault.cls 63 ||| at' i.fault.code 55 ||| at' i.fault.preg 51 ||| at' i.level 48 ||| at' i.source 32 |||
      at' i.merged 0,
    daReg i.fault.faddr, i.fault.fphys.setWidth 72, i.fault.detail, i.instr, at' now 8]

/-! ## Decimal fields -/

/-- A packed field (R12, R76): digits, then one sign nibble. -/
def isPacked (l : List (BitVec 4)) : Prop := l ≠ [] ∧ (∀ d ∈ l.dropLast, d.toNat ≤ 9) ∧ 10 ≤ (l.getLastD 0).toNat

/-- The magnitude of the digits of a list, the first the most significant. -/
def digitsVal (l : List (BitVec 4)) : Nat := l.foldl (fun a d => 10 * a + d.toNat) 0

/-- Whether a packed field reads as minus (R12). -/
def packedNeg (l : List (BitVec 4)) : Bool := l.getLastD 0 == 0xB || l.getLastD 0 == 0xD

/-- The value of a packed field. -/
def fieldInt (l : List (BitVec 4)) : Int := if packedNeg l then -(digitsVal l.dropLast : Int) else digitsVal l.dropLast

/-- A field of k digits and a sign that holds a magnitude modulo 10^k (R86). -/
def PackedAs (l : List (BitVec 4)) (k m : Nat) (sign : BitVec 4) : Prop :=
  l.length = k + 1 ∧ (∀ d ∈ l.dropLast, d.toNat ≤ 9) ∧ digitsVal l.dropLast = m % 10 ^ k ∧ l.getLastD 0 = sign

/-- The sign that the module writes (R80): a zero is positive. -/
def signOf (k m : Nat) (neg : Bool) : BitVec 4 := if neg && m % 10 ^ k != 0 then 0xD else 0xC

/-- m is num / den rounded in a mode (R84), den not 0; code 7, which ST.DRM never holds (R49), reads as toward zero. -/
def RoundsTo (mode : BitVec 3) (neg : Bool) (num den m : Nat) : Prop :=
  let near := 2 * num ≤ (2 * m + 1) * den ∧ 2 * m * den ≤ 2 * num + den
  let down := m * den ≤ num ∧ num < (m + 1) * den
  let up := num ≤ m * den ∧ m * den < num + den
  match mode.toNat with
  | 0 => near ∧ ((2 * num = (2 * m + 1) * den ∨ 2 * m * den = 2 * num + den) → m % 2 = 0)
  | 1 => near ∧ 2 * num ≠ (2 * m + 1) * den
  | 2 => near ∧ 2 * m * den ≠ 2 * num + den
  | 4 => up
  | 5 => if neg then down else up
  | 6 => if neg then up else down
  | _ => down

/-- The flags of a decimal result fitted to k digits (R86, R87). -/
def Core.DecFlags (c d : Core) (k m : Nat) (neg inexact : Bool) : Prop :=
  c.Flags d (neg && m % 10 ^ k != 0) (m % 10 ^ k == 0) (decide (10 ^ k ≤ m)) inexact

/-- A single decimal result (R77, R80, R86, R87) in G[rd]. -/
def Core.DecGot (c d : Core) (rd : BitVec 5) (m : Nat) (neg inexact : Bool) : Prop :=
  ∃ v, PackedAs (posList v) 17 m (signOf 17 m neg) ∧ c.OnlyGSt d ∧ c.WentOn d 1 ∧ d.Got rd v ∧ c.KeptG d rd ∧ c.DecFlags d 17 m neg inexact

/-- The positions that a source register, or a pair of them, holds (R77). -/
def Core.decSource (c : Core) (r : BitVec 5) (pair : Bool) : List (BitVec 4) :=
  if pair then posList (c.gr r) ++ posList (c.gr (r + 1)) else posList (c.gr r)

/-! ## Operands of S-format and long instructions -/

/-- The len positions of operand 1 at a digit address, as a unit reads them of words that pass their tests and stand in memory: the words, the
positions, and the state that translation and the L1 leave. -/
def UnitReads (n : CoreId) (pr : PassId) (a : Acc) (da : DAddr) (len : Nat) (t : State) (rs : List WordRef) (l : List (BitVec 4))
    (t' : State) : Prop :=
  ∃ v, unitRefs n 1 pr a da len t = .ok rs v ∧ loadField n rs v = .ok l t' ∧ (∀ r ∈ rs, v.settled n r) ∧
    l = gather rs (rs.map fun r => v.data r.pa) ∧ l.length = len

/-- The len positions of operand 2 at a digit address, as a unit reads them word by word (R114): each word is the one that the unit before holds
(R136), or stands in memory. -/
def UnitReads2 (n : CoreId) (pr : PassId) (held : Option (WAddr × Word)) (da : DAddr) (len : Nat) (t : State) (l : List (BitVec 4)) (t' : State) :
    Prop :=
  ∃ ws, unitWords n pr held da len t = .ok ws t' ∧ l = ws.flatMap (·.2) ∧ l.length = len ∧
    ∀ w ∈ ws, held = some w.1 ∨ ∃ r : WordRef, r.va = w.1.1 ∧ t'.settled n r ∧ w.1.2 = t'.data r.pa

/-- Both operands of an S-format instruction that runs pass their checks, operand 1 first, in words that the core reads from memory: the
words of operand 1, the positions of both, and the state that translation leaves. -/
def OperandsPass (s : State) (n : CoreId) (f : FmtS) (sh : Shape) (need : BitVec 12) (a : Acc) (r1 : List WordRef) (l1 l2 : List (BitVec 4))
    (t : State) : Prop :=
  s.runs n sh = true ∧ isDigitAddr ((s.core n sh).gr f.b1) ∧
  ∃ (t1 : State) (r2 : List WordRef),
    operand n 1 f.p1 need a (daAdd (bits ((s.core n sh).gr f.b1) 0 57) f.d1.toInt) (f.l1.toNat + 1) (s.fetched n sh) = .ok r1 t1 ∧
    isDigitAddr (t1.cores[n].gr f.b2) ∧
    operand n 2 f.p2 permLoad .load (daAdd (bits (t1.cores[n].gr f.b2) 0 57) f.d2.toInt) (f.l2.toNat + 1) t1 = .ok r2 t ∧
    t.cores[n].det = false ∧ (∀ r ∈ r1 ++ r2, t.settled n r) ∧
    l1 = gather r1 (r1.map fun r => t.data r.pa) ∧ l2 = gather r2 (r2.map fun r => t.data r.pa)

/-- An S-format instruction stored a field to operand 1, set the flags and `put`, and did nothing else. -/
def StoresField (i : Instr) (s t : State) (n : CoreId) (r1 : List WordRef) (l : List (BitVec 4)) (put : Core → Core)
    (P : Core → Core → Prop) : Prop :=
  ∃ u, exec i s = .next u ∧ OnlyCore n t u ∧ t.cores[n].WentOn u.cores[n] 2 ∧ StoredTo n t u r1 (scatterPos r1 l) ∧
    u.cores[n] = { put (t.cores[n].bookkept u.cores[n]) with st := u.cores[n].st, storeBuf := u.cores[n].storeBuf } ∧ P t.cores[n] u.cores[n]

/-- A long instruction that runs makes its start, fresh or resumed, or goes on with what the unit before holds (R112, R114, R136): the progress it
starts from, and what is held. -/
def LongStarts (s : State) (n : CoreId) (f : FmtS) (k : LongKind) (p : Prog) (h : Option LongHold) (t : State) : Prop :=
  let g2 := (s.core n (shapeLong f)).gr 2
  h = (if bits g2 64 8 = 0 then none else (s.core n (shapeLong f)).hold) ∧
  s.runs n (shapeLong f) = true ∧ k.fieldsOk f = true ∧ t.cores[n].det = false ∧ (s.core n (shapeLong f)).det = false ∧
  ((bits g2 64 8 = 0 ∧ freshStart n f k (bits g2 0 64) (s.fetched n (shapeLong f)) = .ok p t) ∨
   (bits g2 64 8 = k.opcode ∧ resumeStart n f k (bits g2 0 64) (s.fetched n (shapeLong f)) = .ok p t))

/-- What a unit of a long instruction leaves in its core (R113, R115, R118): the progress in G2-G7, and, once operand 1 is done, the
result bits, the flags `P` and the PC past the instruction. -/
def Core.Progressed (c d : Core) (op : BitVec 8) (fin keepG5 : Bool) (res : Word) (p : Prog) (P : Core → Core → Prop) : Prop :=
  d.gr 2 = (if fin then res else at' op 64 ||| p.par.setWidth 72) ∧ d.gr 3 = p.g3 ∧ d.gr 4 = daReg p.a1 ∧
  d.gr 5 = (if keepG5 then c.gr 5 else daReg p.a2) ∧ d.gr 6 = BitVec.ofNat 72 p.n1 ∧ d.gr 7 = BitVec.ofNat 72 p.n2 ∧
  (∀ i, i = 0 ∨ i = 1 ∨ 8 ≤ i.toNat → d.gr i = c.gr i) ∧
  (if fin then c.WentOn d 2 ∧ P c d else d.pc = c.pc ∧ d.retired = c.retired ∧ d.st = c.st) ∧
  d = { c.bookkept d with g := d.g, st := d.st, storeBuf := d.storeBuf }

/-- The flags stay. -/
def Core.SameSt (c d : Core) : Prop := d.st = c.st

/-- The octets of a list of positions (R11). -/
def octetsAt (l : List (BitVec 4)) : List (BitVec 8) := (List.range (l.length / 2)).map fun j => l.getD (2 * j) 0 ++ l.getD (2 * j + 1) 0

/-- The pad nibbles for k positions from a digit address (R121, R123): the high nibble at an even position, the low one at an odd. -/
def padAt (pad : BitVec 8) (da : DAddr) (k : Nat) : List (BitVec 4) :=
  (List.range k).map fun (i : Nat) => if ((daPos da + i) % 18) % 2 = 0 then bits pad 4 4 else bits pad 0 4

/-! ## Binary32 -/

/-- The fields of a binary32 pattern (R356): what it encodes, and its value in units of 2^-149; an infinity counts as 2^128. -/
def f32Nan (x : BitVec 32) : Bool := bits x 23 8 == 255 && bits x 0 23 != 0
def f32Snan (x : BitVec 32) : Bool := f32Nan x && !bit x 22
def f32Inf (x : BitVec 32) : Bool := bits x 23 8 == 255 && bits x 0 23 == 0
def f32Mag (x : BitVec 32) : Nat :=
  if bits x 23 8 = 0 then (bits x 0 23).toNat else (2 ^ 23 + (bits x 0 23).toNat) * 2 ^ ((bits x 23 8).toNat - 1)
def f32Int (x : BitVec 32) : Int := if bit x 31 then -(f32Mag x : Int) else f32Mag x

/-- A result and its flags: FI 16, FZ 8, FO 4, FU 2, FX 1 (R358). -/
abbrev FloatResult := BitVec 32 × BitVec 5

/-- A pattern with its sign bit. -/
def signed32 (neg : Bool) (x : BitVec 32) : BitVec 32 := setBit x 31 neg

/-- The invalid operation (R364). -/
def floatInvalid : FloatResult := (0x7FC00000, 16)

/-- A result that is a NaN because an operand is (R357). -/
def floatNan (l : List (BitVec 32)) : FloatResult := (0x7FC00000, if l.any f32Snan then 16 else 0)

/-- The value num / den with a sign, num not 0, rounded once to binary32 (R356, R358, R364): a significand q in units of 2^(k - 149), with
k as small as 24 bits allow; tininess is that of a 24-bit significand in units of 2^-150, after rounding. -/
def Rounds32 (rm : BitVec 2) (neg : Bool) (num den : Nat) (r : FloatResult) : Prop :=
  ∃ k q u : Nat, RoundsTo (rmCode rm) neg (num * 2 ^ 149) (den * 2 ^ k) q ∧ RoundsTo (rmCode rm) neg (num * 2 ^ 150) den u ∧
    (k = 0 ∨ 2 ^ 23 * (den * 2 ^ k) ≤ num * 2 ^ 149) ∧ num * 2 ^ 149 < 2 ^ 24 * (den * 2 ^ k) ∧
    let inexact := decide (q * (den * 2 ^ k) ≠ num * 2 ^ 149)
    if k * 2 ^ 23 + q < 0x7F800000 then
      r = (signed32 neg (BitVec.ofNat 32 (k * 2 ^ 23 + q)), if inexact && decide (u < 2 ^ 24) then 3 else if inexact then 1 else 0)
    else r = (signed32 neg (if rm = 0 ∨ (rm = 2 ∧ neg = false) ∨ (rm = 3 ∧ neg = true) then 0x7F800000 else 0x7F7FFFFF), 5)

/-- A signed exact value; zero takes the sign given. -/
def FloatValue (rm : BitVec 2) (zneg : Bool) (num : Int) (den : Nat) (r : FloatResult) : Prop :=
  if num = 0 then r = (signed32 zneg 0, 0) else Rounds32 rm (decide (num < 0)) num.natAbs den r

/-- The sum, product and quotient of two patterns (R357, R359, R364). -/
def FloatSum (rm : BitVec 2) (a b : BitVec 32) (r : FloatResult) : Prop :=
  if f32Nan a || f32Nan b then r = floatNan [a, b]
  else if f32Inf a then r = if f32Inf b && a != b then floatInvalid else (a, 0)
  else if f32Inf b then r = (b, 0)
  else FloatValue rm (rm == 3) (f32Int a + f32Int b) (2 ^ 149) r
def FloatProduct (rm : BitVec 2) (a b : BitVec 32) (r : FloatResult) : Prop :=
  let neg := bit a 31 != bit b 31
  if f32Nan a || f32Nan b then r = floatNan [a, b]
  else if f32Inf a || f32Inf b then r = if f32Mag a = 0 ∨ f32Mag b = 0 then floatInvalid else (signed32 neg 0x7F800000, 0)
  else if f32Mag a * f32Mag b = 0 then r = (signed32 neg 0, 0)
  else Rounds32 rm neg (f32Mag a * f32Mag b) (2 ^ 298) r
def FloatQuotient (rm : BitVec 2) (a b : BitVec 32) (r : FloatResult) : Prop :=
  let neg := bit a 31 != bit b 31
  if f32Nan a || f32Nan b then r = floatNan [a, b]
  else if f32Inf a then r = if f32Inf b then floatInvalid else (signed32 neg 0x7F800000, 0)
  else if f32Inf b then r = (signed32 neg 0, 0)
  else if f32Mag b = 0 then r = if f32Mag a = 0 then floatInvalid else (signed32 neg 0x7F800000, 8)
  else if f32Mag a = 0 then r = (signed32 neg 0, 0)
  else Rounds32 rm neg (f32Mag a) (f32Mag b) r

/-- The square root (R359): of a positive finite value the significand q in units of 2^(k - 149), rounded; it neither overflows nor is tiny. -/
def FloatRoot (rm : BitVec 2) (a : BitVec 32) (r : FloatResult) : Prop :=
  if f32Nan a then r = floatNan [a]
  else if f32Mag a = 0 then r = (a, 0)
  else if bit a 31 then r = floatInvalid
  else if f32Inf a then r = (a, 0)
  else ∃ k q : Nat,
    let x := f32Mag a * 2 ^ 149
    2 ^ 46 * 4 ^ k ≤ x ∧ x < 2 ^ 48 * 4 ^ k ∧
    (match rm.toNat with
     | 0 => (2 * q - 1) ^ 2 * 4 ^ k ≤ 4 * x ∧ 4 * x ≤ (2 * q + 1) ^ 2 * 4 ^ k
     | 2 => (q - 1) ^ 2 * 4 ^ k < x ∧ x ≤ q ^ 2 * 4 ^ k
     | _ => q ^ 2 * 4 ^ k ≤ x ∧ x < (q + 1) ^ 2 * 4 ^ k) ∧
    r = (BitVec.ofNat 32 (k * 2 ^ 23 + q), if q ^ 2 * 4 ^ k = x then 0 else 1)

/-- The product plus a third operand, with one rounding (R357, R359). -/
def FloatFused (rm : BitVec 2) (a b c : BitVec 32) (r : FloatResult) : Prop :=
  let neg := bit a 31 != bit b 31
  if (f32Inf a && f32Mag b == 0) || (f32Inf b && f32Mag a == 0) then r = floatInvalid
  else if f32Nan a || f32Nan b || f32Nan c then r = floatNan [a, b, c]
  else if f32Inf a || f32Inf b then r = if f32Inf c && bit c 31 != neg then floatInvalid else (signed32 neg 0x7F800000, 0)
  else if f32Inf c then r = (c, 0)
  else FloatValue rm (rm == 3) (f32Int a * f32Int b + f32Int c * 2 ^ 149) (2 ^ 298) r

/-- Sticky flags, and the float trap that an enabled cause leaves pending (R364, R365). -/
def Core.FloatFlags (c d : Core) (fl : BitVec 5) : Prop :=
  d.fs = c.fs ||| fl.setWidth 10 ∧ d.ftrap = if fl &&& bits c.st 59 5 = 0 then c.ftrap else some (fl, c.pc)

/-- A float instruction wrote F[rd] and raised its flags, and did nothing else. -/
def Core.FloatGot (c d : Core) (rd : BitVec 5) (r : FloatResult) : Prop :=
  d = { c.bookkept d with f := d.f, fs := d.fs, ftrap := d.ftrap } ∧ c.WentOn d 1 ∧ d.fr rd = r.1 ∧ (∀ i, i ≠ rd → d.fr i = c.fr i) ∧
    c.FloatFlags d r.2

/-! ## Stores to device control -/

/-- What the STW of core n to a device-control word finds: the instruction is fetched, and the older stores of the core have left (R337). -/
def State.atDevice (s : State) (n : CoreId) : State := (s.fetched n {}).drainAll n

/-- A store by core n to a device-control word completes outside deterministic mode: the word's effect, `P` of the state before it and after it,
and the core goes on. -/
def ControlStore (i : Instr) (s : State) (n : CoreId) (P : State → State → Prop) : Prop :=
  s.runs n {} = true → (s.atDevice n).cores[n].det = false →
  ∃ v u, exec i s = .next u ∧ P (s.atDevice n) v ∧ OnlyCore n v u ∧ u.cores[n] = v.cores[n].bookkept u.cores[n] ∧ v.cores[n].WentOn u.cores[n] 1

/-- The effect is on the storing core alone. -/
def ControlWord (i : Instr) (s : State) (n : CoreId) (f : Core → Core) : Prop :=
  ControlStore i s n fun t v => v = { t with cores := t.cores.set n (f t.cores[n]) }

/-! ## Twin links -/

/-- A frame of a kind in order on a link in service, with its CRC, that asks for no replay (R207-R209). -/
def State.frameInOrder (s : State) (l : Fin 2) (kind : BitVec 4) (fr : Frame) : Prop :=
  s.ws.links[l].training = false ∧ s.ws.links[l].up = true ∧ fr.kind = kind ∧ fr.crc = frameCode fr ∧ fr.fseq = s.ws.links[l].rx + 1 ∧ fr.rtry = false

/-- What follows a frame in order (R209): the frames that its FACK covers leave the replay store, and what waits to be sent finds their room. -/
def State.heard (s : State) (l : Fin 2) (fr : Frame) : State :=
  let t := s.ws.links[l]
  let left := unacked fr.fack t.store
  let t' : TwinLink :=
    { t with
      rx := fr.fseq, lastGood := s.now, store := left, good := t.good + 1,
      fullSince := if left.length < 128 then none else some (t.fullSince.getD s.now) }
  ({ s with ws := { s.ws with links := s.ws.links.set l t' } } : State).pump

/-- The lease renewed (R214). -/
def State.leased (s : State) : State := { s with ws := { s.ws with contact := true, lastTerm := s.now } }

/-- The state once a frame in order that names no term is taken (R214). -/
def State.took (s : State) (l : Fin 2) (fr : Frame) : State := if s.ws.contact then (s.heard l fr).leased else s.heard l fr

/-- The journal ring lies in the Plain (R175). -/
def State.ringFits (s : State) : Prop := s.applied.jnRingLog2.toNat ≤ 23 ∧ s.applied.jnRingBase.toNat + 2 ^ s.applied.jnRingLog2.toNat ≤ 2 ^ 24

/-- A frame of a kind that each link in service with room in its replay store sends with these words (R207, R209). -/
def Sent (s u : State) (kind : BitVec 4) (ws : List Word) : Prop :=
  ∀ l : Fin 2, s.twinRoom l = true → ∃ f ∈ u.ws.out, f.link = l ∧ f.kind = kind ∧ f.words = ws

/-! ## Jobs -/

/-- The job of a command: of its type, free to start (R435), and with the authority that it needs (R430). -/
def State.jobActs (s : State) (j : JobId) (opc : Nat) (x : Job) : Prop := s.jobFor j opc = some x ∧ s.authority x = none

/-- The state once a job has started. -/
def State.begun (s : State) (j : JobId) : State :=
  { s with hi := { s.hi with jobs := s.hi.jobs.map fun y => if y.id = j then { y with started := true } else y } }

/-- The command's job is over with a status, DETAIL and result; `v` is the rest of what it did. -/
def JobEnds (i : Instr) (s v : State) (x : Job) (status detail : BitVec 8) (result : Word) : Prop :=
  exec i s = .next (v.finishJob x status detail result)

/-! ## Channel engines -/

/-- The next unit of an engine's CCW w of CMD k: the program runs, waits for nothing and is not to give way, no store of it has failed, and the CCW
is under way, or it is fetched under CP0 and passes its checks (R398-R400). `q` is the program with the CCW, `t` the state in which the unit
acts. -/
def State.ccwAt (s : State) (e : EngId) (k : Nat) (q : ChProg) (w : Word) (t : State) : Prop :=
  ∃ p, s.engines[e].running = some p ∧ s.canRun e p = true ∧ s.engines[e].failed = none ∧ p.halt = false ∧ (ccwCmd w).toNat = k ∧ q = { p with ccw := some w } ∧
    ((p.ccw = some w ∧ t = s) ∨ (p.ccw = none ∧ ∃ t0 t1, ccwFetch e p s = .ok w t0 ∧ ccwChecks q w t0 = .ok () t1 ∧
      t = { t1 with engines := t1.engines.set e { t1.engines[e] with running := some q } }))

/-- The words of an engine's operand that its stores reach at once: distinct local words, correctable, with CHG set. -/
def State.engReady (t : State) (rs : List WordRef) : Prop :=
  t.Inv ∧ (rs.map fun r => r.pa).Nodup ∧ ∀ r ∈ rs, isLocalMem r.pa = true ∧ (t.cell r.pa).bad = false ∧ r.ent.chg = true

/-- An engine stored positions to the words of an operand, and to no other word. -/
def EngStored (t u : State) (rs : List WordRef) (l : List (BitVec 4)) : Prop :=
  (∀ x ∈ rs.zip (scatterPos rs l), u.data x.1.pa = merge x.1.mask x.2 (t.data x.1.pa)) ∧ ∀ pa, (∀ r ∈ rs, pa ≠ r.pa) → u.data pa = t.data pa

/-- Nothing that the engine stored is outstanding or has failed (R410). -/
def State.engClear (t : State) (e : EngId) : Prop := t.engStoresOut e = false ∧ t.engines[e].windows = [] ∧ t.engines[e].failed = none

/-- Stores of the engine are not complete yet, and none has failed (R410). -/
def State.engBusy (t : State) (e : EngId) : Prop := (t.engStoresOut e = true ∨ t.engines[e].windows ≠ []) ∧ t.engines[e].failed = none

/-- A program block lies in local memory that no owner guards (R387, R393). -/
def State.blockFree (s : State) (pa : WAddr) : Prop :=
  pa.toNat % 64 = 0 ∧ rangeInMem pa 40 = true ∧ s.guardedWords pa (List.range 40) = false

/-- What a program that stops running leaves in its block (R387, R388), and that no other word of memory differs from t. -/
def BlockHolds (t u : State) (p : ChProg) (state : BitVec 4) : Prop :=
  let a (k : Nat) : WAddr := p.cpb + BitVec.ofNat 52 k
  u.data (a 1) = p.cpc.setWidth 72 ∧
  u.data (a 2) = at' state 68 ||| at' p.cc 66 ||| at' p.cls 61 ||| at' p.code 53 ||| at' p.slot 50 ||| at' p.stopcode 32 ∧
  u.data (a 3) = p.faddr.setWidth 72 ∧ u.data (a 4) = p.fphys.setWidth 72 ∧
  u.data (a 5) = at' p.done 40 ||| at' p.elem 32 ||| at' p.waitns 0 ∧ u.data (a 6) = p.w6 ∧ u.data (a 7) = p.w7 ∧
  (∀ i : Fin 16, u.data (a (8 + i.val)) = p.cr[i]) ∧ (∀ i : Fin 8, u.getPass (a (24 + 2 * i.val)) = p.cp[i]) ∧
  ∀ x, (∀ k : Nat, 1 ≤ k → k < 40 → x ≠ a k) → u.data x = t.data x

/-- The program that a ready block gives its engine (R387). -/
def ProgOf (s : State) (r : ChReady) (q : ChProg) : Prop :=
  let w (k : Nat) : Word := s.data (r.cpb + BitVec.ofNat 52 k)
  q.cpb = r.cpb ∧ q.w0 = w 0 ∧ q.cpc = bits (w 1) 0 52 ∧ q.cc = bits (w 2) 66 2 ∧ q.faddr = bits (w 3) 0 57 ∧ q.fphys = bits (w 4) 0 52 ∧
  q.done = bits (w 5) 40 32 ∧ q.elem = bits (w 5) 32 8 ∧ q.waitns = bits (w 5) 0 32 ∧ q.w6 = w 6 ∧ q.w7 = w 7 ∧ (∀ i : Fin 16, q.cr[i] = w (8 + i.val)) ∧
  (∀ i : Fin 8, q.cp[i] = s.getPass (r.cpb + BitVec.ofNat 52 (24 + 2 * i.val))) ∧ q.space = r.space ∧ q.troot = r.troot ∧ q.ccw = none ∧ q.inElem = none ∧ q.halt = false

/-- The ready program that an engine takes (R396): of the highest PRIO, and of equals the first to enter the list. -/
def Engine.best (x : Engine) (r : ChReady) : Prop :=
  ∃ pre post, x.ready = pre ++ r :: post ∧ (∀ y ∈ pre, y.prio.toNat < r.prio.toNat) ∧ ∀ y ∈ post, y.prio.toNat ≤ r.prio.toNat

/-- The 40 words of a program's block pass item 1 of R393 under the pass register of a core that a request names: the block's physical address,
and the state that translation leaves. -/
def State.asksFor (s : State) (n : CoreId) (v : Word) (pa : WAddr) (t : State) : Prop :=
  cpbTests (.core n 1) ((s.atDevice n).cores[n].pr (bits v 52 4)) (bits v 52 4) (bits v 0 52) (s.atDevice n) = .ok pa t

/-- A request of core n to an engine whose block passes those tests takes effect outside deterministic mode, and the core goes on. -/
def EngineAsk (i : Instr) (s : State) (n : CoreId) (v : Word) (P : WAddr → State → State → Prop) : Prop :=
  ∀ pa t, s.runs n {} = true → (s.atDevice n).cores[n].det = false → s.asksFor n v pa t →
  ∃ x u, exec i s = .next u ∧ P pa t x ∧ OnlyCore n x u ∧ u.cores[n] = x.cores[n].bookkept u.cores[n] ∧ x.cores[n].WentOn u.cores[n] 1

/-- The stored value and the block have the form of R393: reserved bits zero, VER 1, 64-word aligned, in the local Plain or Basin. -/
def State.blockForm (s : State) (v : Word) (pa : WAddr) : Prop :=
  bits v 56 16 = 0 ∧ (bits v 0 52).toNat % 64 = 0 ∧ rangeInMem pa 40 = true ∧ bits (s.data pa) 68 4 = 1 ∧ bit (s.data pa) 64 = false ∧
    bits (s.data pa) 0 56 = 0

/-- A block is running or ready on some engine. -/
def State.blockBusy (s : State) (pa : WAddr) : Prop :=
  ∃ e : EngId, (∃ p, s.engines[e].running = some p ∧ p.cpb = pa) ∨ ∃ r ∈ s.engines[e].ready, r.cpb = pa

/-- A unit of a CCW that has written its words, in v, on a program that becomes q: the unit counted, and the CCW completed once it was the last
and its stores are complete (R401, R410). -/
def UnitMade (i : Instr) (s v : State) (e : EngId) (w : Word) (q : ChProg) (fin : Bool) (cc : BitVec 2) (n : BitVec 64) : Prop :=
  (fin = true → v.engClear e ∨ v.engBusy e) →
  ∃ u, exec i s = .next u ∧
    u = { v with engines := v.engines.set e { v.engines[e] with
      running := u.engines[e].running, ccwCnt := u.engines[e].ccwCnt, wordCnt := v.engines[e].wordCnt + n, arrived := u.engines[e].arrived,
      windows := u.engines[e].windows } } ∧
    (fin = false → u.engines[e].running = some q ∧ u.engines[e].ccwCnt = v.engines[e].ccwCnt) ∧
    (fin = true → v.engClear e → u.engines[e].running = some (q.completed w cc (q.cpc + 1)) ∧ u.engines[e].ccwCnt = v.engines[e].ccwCnt + 1) ∧
    (fin = true → v.engBusy e → u.engines[e].running = some { q with ending := some cc } ∧ u.engines[e].ccwCnt = v.engines[e].ccwCnt)

/-! ## Starts and settings -/

/-- The policy word of a step records no failure and no stop, so that the step runs with method 0 (R473). -/
def State.freshStep (s : State) (k : Nat) : Prop := bits (s.data (policyAddr k)) 59 3 ≠ 1 ∧ bits (s.data (policyAddr k)) 59 3 ≠ 3

/-- An entry at the next place of the start journal (R471). -/
def Journalled (s u : State) (kind : BitVec 4) (detail : BitVec 24) (e3 e4 : Word) : Prop :=
  let next := bits (s.data (hdrAddr 3)) 0 64
  let a : Nat := 0xFF4000 + 8 * (next.toNat % 6144)
  bits (u.data (plainAddr a)) 68 4 = kind ∧ bits (u.data (plainAddr a)) 0 24 = detail ∧ u.data (plainAddr (a + 1)) = at' s.now 8 ∧
    u.data (plainAddr (a + 3)) = e3 ∧ u.data (plainAddr (a + 4)) = e4 ∧ u.data (hdrAddr 3) = (next + 1).setWidth 72

/-- The rules that settings keep among themselves (R138, R175, R236, R449, R465, R486): each region with words lies in the Plain below the start
journal, apart from the others, at its alignment; counts are in range; reserved bits are zero; the fabric settings fit the dimensions. -/
def Settings.sound (x : Settings) : Prop :=
  let size (d : Nat) : Nat := coord x.lbDim d + 1
  x.regions.Pairwise (fun r q => r.2.1 + r.2.2 ≤ q.2.1 ∨ q.2.1 + q.2.2 ≤ r.2.1) ∧ (∀ r ∈ x.regions, r.2.1 + r.2.2 ≤ 0xFF0000) ∧
  x.peCellBase.toNat % 256 = 0 ∧ x.peRuleBase.toNat % 4 = 0 ∧ x.peFilterBase.toNat % 2 ^ 20 = 0 ∧
  x.jnRingBase.toNat % 2 ^ x.jnRingLog2.toNat = 0 ∧ x.wsWtable.toNat % 4096 = 0 ∧
  x.peCellCount.toNat % 64 = 0 ∧ x.peCellCount.toNat ≤ 2 ^ 21 ∧ x.peRuleCount.toNat ≤ 2 ^ 16 ∧ 16 ≤ x.jnRingLog2.toNat ∧ x.jnRingLog2.toNat ≤ 22 ∧
  x.peCtl &&& 0x008E = 0 ∧ x.jnCtl &&& 0x00FF = 0 ∧ x.wsCtl &&& 0xFFFC = 0 ∧
  (∀ d : Nat, d < 2 → bit x.lbCtl d = true → size d % 2 = 0 ∧ 8 ≤ size d) ∧
  (∀ d : Nat, d < 3 → coord x.lbPair d < size d) ∧
  ∀ v : Fin 16, bits x.lbVale[v] 0 11 = 0 ∧ (bit x.lbVale[v] 35 = true → ∀ d : Nat, d < 3 →
    let lo := (bits x.lbVale[v] (31 - 8 * d) 4).toNat
    let hi := (bits x.lbVale[v] (27 - 8 * d) 4).toNat
    lo ≤ hi ∧ hi < size d ∧ lo ≤ coord x.lbHead[v] d ∧ coord x.lbHead[v] d ≤ hi)

/-- The rules that staged settings keep against the live state (R138, R175, R486), for an operation of module scope. -/
def State.liveOk (s : State) : Prop :=
  let a := s.staged
  let b := s.applied
  let regions : Prop := a.peCellBase = b.peCellBase ∧ a.peCellCount = b.peCellCount ∧ a.peRuleBase = b.peRuleBase ∧ a.peRuleCount = b.peRuleCount ∧
    a.peFilterBase = b.peFilterBase ∧ a.jnRingBase = b.jnRingBase ∧ a.jnRingLog2 = b.jnRingLog2
  (bit b.peCtl 0 = true → regions) ∧ (s.led.wpos ≠ s.led.apos → a.jnRingBase = b.jnRingBase ∧ a.jnRingLog2 = b.jnRingLog2) ∧
    (s.ws.role = 1 ∨ s.ws.role = 2 → regions ∧ a.peCtl = b.peCtl ∧ a.jnCtl = b.jnCtl)

/-! ## Unit jobs -/

/-- The unit job of a command, free to start, with its authority, whose path names a place of its depths and whose parameters are clean (R435, R491). -/
def State.unitJobAt (s : State) (j : JobId) (opc : Nat) (x : Job) (pl : Place) : Prop :=
  s.jobFor j opc = some x ∧ x.started = false ∧ s.authority x = none ∧ s.place x = .inl pl ∧ x.actDepth ∈ jobDepths opc ∧
    x.paramsClean (s.isPart x) = true

/-- The job of a command is over, on its queue pair, in its slot or where it came from; `v` is the rest of what it did. -/
def UnitEnds (i : Instr) (s v : State) (x : Job) (status detail : BitVec 8) (result : Word) : Prop := exec i s = .next (v.jobEnd x status detail result)

/-- A core at a start PC with the state of R47 and R263 (R484). -/
def Core.startedAt (pc : DAddr) : Core := { Core.reset with run := 2, pc := pc }

/-! ## The fabric -/

/-- A packet of a type that is delivered here (R453, R454). -/
def State.delivers (s : State) (p : Packet) (type : BitVec 4) : Prop :=
  s.brd.powered = true ∧ p.type = type ∧ p.ecrc = packetCode p ∧ p.dpair = s.applied.lbPair ∧ p.dside = s.ws.side

/-- A request was answered (R458, R459): it counts as delivered, its number is not expected again, and the response is held for a repeat. -/
def Answered (s u : State) (p : Packet) (events : Bool) (type : BitVec 4) (hw1 : Word) (payload : List Word) : Prop :=
  let v := u.servedFor p.spair p.sside events
  v.expected = p.eseq + 1 ∧ (p.eseq, { packet type 1 p.spair p.sside p.sagent hw1 payload with eseq := p.eseq }) ∈ v.held ∧ u.lb.rxCnt = s.lb.rxCnt + 1

/-- The one request that waits in the one series of this module, toward the sender of a packet and under its number (R458). -/
def State.awaits (s : State) (p : Packet) (x : Series) (events : Bool) (type : BitVec 4) (f : ReqFor) : Prop :=
  s.lb.series = [x] ∧ x.pair = p.spair ∧ x.side = p.sside ∧ x.events = events ∧ ∃ w : Packet, x.waiting = [(p.eseq, f, w)] ∧ w.type = type

/-- A link with nothing held, room in its replay store and a credit of VC3 (R461). -/
def FabLink.idle (x : FabLink) : Prop := x.held = [] ∧ x.store.length < 128 ∧ 0 < x.cred[6]

/-- A packet was put on a link. -/
def Emitted (u : State) (l : Fin 8) (type : BitVec 4) (hw1 : Word) : Prop :=
  ∃ o ∈ u.lb.out, o.link = some l ∧ o.packet.type = type ∧ o.packet.hw1 = hw1

end Sys2Proof.Machine
end

