-- ==== Sys2Proof/Certificates/Slice0/Obligations.lean ====
section
/-! DEFINITION. The statements about the model, for the provers. -/

open Sys2Proof Sys2Proof.Machine

/-! ## The integer unit -/

/-- ADD, ADC, ADDI, SUB, SBC, CMP, CMPI and NEG (R65, R67): the sum or difference modulo 2^72 in G[rd] and all four flags; a write to
G0 is discarded (R43), and nothing else changes. AND, OR, XOR, ANDN, ORN, ANDI, ORI and XORI: N and Z from the result, V 0 and C kept; LDI and INSI
write their constant and no flag; NOP does nothing. -/
def Obligations.SumsLogicAndConstants : Prop := ∀ (s : State) (n : CoreId),
  (∀ f : FmtA,
    Completes (.add n f) s n (shapeA f) (fun c d => c.Added d f.rd (c.gr f.ra) (c.gr f.rb) false) ∧
    Completes (.adc n f) s n (shapeA f) (fun c d => c.Added d f.rd (c.gr f.ra) (c.gr f.rb) c.flagC) ∧
    Completes (.sub n f) s n (shapeA f) (fun c d => c.Subtracted d f.rd (c.gr f.ra) (c.gr f.rb) false) ∧
    Completes (.sbc n f) s n (shapeA f) (fun c d => c.Subtracted d f.rd (c.gr f.ra) (c.gr f.rb) (!c.flagC)) ∧
    Completes (.neg n f) s n (shapeA1 f) (fun c d => c.Subtracted d f.rd 0 (c.gr f.ra) false) ∧
    Completes (.cmp n f) s n (shapeCmp f) (fun c d => c.Subtracted d 0 (c.gr f.ra) (c.gr f.rb) false)) ∧
  (∀ f : FmtI,
    Completes (.addi n f) s n (shapeI f) (fun c d => c.Added d f.rd (c.gr f.ra) (f.imm.signExtend 72) false) ∧
    Completes (.cmpi n f) s n (shapeCmpi f) (fun c d => c.Subtracted d 0 (c.gr f.ra) (f.imm.signExtend 72) false)) ∧
  (∀ f : FmtA,
    Completes (.and n f) s n (shapeA f) (fun c d => c.Logical d f.rd (c.gr f.ra &&& c.gr f.rb)) ∧
    Completes (.or n f) s n (shapeA f) (fun c d => c.Logical d f.rd (c.gr f.ra ||| c.gr f.rb)) ∧
    Completes (.xor n f) s n (shapeA f) (fun c d => c.Logical d f.rd (c.gr f.ra ^^^ c.gr f.rb)) ∧
    Completes (.andn n f) s n (shapeA f) (fun c d => c.Logical d f.rd (c.gr f.ra &&& ~~~ c.gr f.rb)) ∧
    Completes (.orn n f) s n (shapeA f) (fun c d => c.Logical d f.rd (c.gr f.ra ||| ~~~ c.gr f.rb)) ∧
    Completes (.nop n f) s n (shapeNop f) (fun c d => d = c.bookkept d ∧ c.WentOn d 1)) ∧
  (∀ f : FmtI,
    Completes (.andi n f) s n (shapeI f) (fun c d => c.Logical d f.rd (c.gr f.ra &&& f.imm.setWidth 72)) ∧
    Completes (.ori n f) s n (shapeI f) (fun c d => c.Logical d f.rd (c.gr f.ra ||| f.imm.setWidth 72)) ∧
    Completes (.xori n f) s n (shapeI f) (fun c d => c.Logical d f.rd (c.gr f.ra ^^^ f.imm.setWidth 72)) ∧
    Completes (.ldi n f) s n (shapeLdi f) (fun c d => c.Loaded d f.rd (f.imm.signExtend 72)) ∧
    Completes (.insi n f) s n (shapeInsi f) (fun c d => ∃ v, c.Loaded d f.rd v ∧
      ∀ i, i < 72 → bit v i =
        if i / 18 = (bits f.ra 0 2).toNat then bit f.imm (i % 18) else bit (c.gr f.rd) i))

/-- SHL, SHR, SHA, ROT and their immediate forms (R65, R67, R68): the count is all 72 bits of G[rb], or imm 6:0; a count of 0 keeps C,
and a count above 72 leaves 0, or copies of bit 71. -/
def Obligations.ShiftsAndRotates : Prop := ∀ (s : State) (n : CoreId),
  let shl (c d : Core) (rd : BitVec 5) (a : Word) (k : Nat) : Prop := c.Computed d rd (a <<< k) (a <<< k).msb (a <<< k == 0)
    (decide ((a <<< k).toInt ≠ a.toInt * 2 ^ k)) (if k = 0 then c.flagC else decide (k ≤ 72) && bit a (72 - k))
  let shr (c d : Core) (rd : BitVec 5) (a : Word) (k : Nat) : Prop := c.Computed d rd (a >>> k) (a >>> k).msb (a >>> k == 0) false
    (if k = 0 then c.flagC else bit a (k - 1))
  let sha (c d : Core) (rd : BitVec 5) (a : Word) (k : Nat) : Prop := c.Computed d rd (a.sshiftRight k) a.msb (a.sshiftRight k == 0) false
    (if k = 0 then c.flagC else if k ≤ 72 then bit a (k - 1) else a.msb)
  let rot (c d : Core) (rd : BitVec 5) (a : Word) (k : Nat) : Prop := ∃ v, c.Computed d rd v v.msb (v == 0) c.flagV c.flagC ∧
    ∀ i, i < 72 → bit v ((i + k) % 72) = bit a i
  (∀ f : FmtA,
    Completes (.shl n f) s n (shapeA f) (fun c d => shl c d f.rd (c.gr f.ra) (c.gr f.rb).toNat) ∧
    Completes (.shr n f) s n (shapeA f) (fun c d => shr c d f.rd (c.gr f.ra) (c.gr f.rb).toNat) ∧
    Completes (.sha n f) s n (shapeA f) (fun c d => sha c d f.rd (c.gr f.ra) (c.gr f.rb).toNat) ∧
    Completes (.rot n f) s n (shapeA f) (fun c d => rot c d f.rd (c.gr f.ra) (c.gr f.rb).toNat)) ∧
  (∀ f : FmtI,
    Completes (.shli n f) s n (shapeShiftI f) (fun c d => shl c d f.rd (c.gr f.ra) (bits f.imm 0 7).toNat) ∧
    Completes (.shri n f) s n (shapeShiftI f) (fun c d => shr c d f.rd (c.gr f.ra) (bits f.imm 0 7).toNat) ∧
    Completes (.shai n f) s n (shapeShiftI f) (fun c d => sha c d f.rd (c.gr f.ra) (bits f.imm 0 7).toNat) ∧
    Completes (.roti n f) s n (shapeShiftI f) (fun c d => rot c d f.rd (c.gr f.ra) (bits f.imm 0 7).toNat))

/-- MUL, MULH and MULHU (R353), CLZ and POPC (R65, R67): the halves of the exact product, and the counts of leading zeros and of ones. -/
def Obligations.ProductsAndCounts : Prop := ∀ (s : State) (n : CoreId) (f : FmtA),
  Completes (.mul n f) s n (shapeMul f) (fun c d =>
    let p := (c.gr f.ra).toInt * (c.gr f.rb).toInt
    let v := BitVec.ofInt 72 p
    c.Computed d f.rd v v.msb (v == 0) (decide (p < -2 ^ 71 ∨ 2 ^ 71 ≤ p)) false) ∧
  Completes (.mulh n f) s n (shapeMulh f) (fun c d => ∃ v : Word,
    (∃ low : Word, (c.gr f.ra).toInt * (c.gr f.rb).toInt = v.toInt * 2 ^ 72 + low.toNat) ∧
    c.Computed d f.rd v v.msb (v == 0) false false) ∧
  Completes (.mulhu n f) s n (shapeMulhu f) (fun c d => ∃ v : Word,
    (∃ low : Word, (c.gr f.ra).toNat * (c.gr f.rb).toNat = v.toNat * 2 ^ 72 + low.toNat) ∧
    c.Computed d f.rd v v.msb (v == 0) false false) ∧
  Completes (.clz n f) s n (shapeA1 f) (fun c d => ∃ k, k ≤ 72 ∧
    (∀ i, 72 - k ≤ i → bit (c.gr f.ra) i = false) ∧ (k < 72 → bit (c.gr f.ra) (71 - k) = true) ∧
    c.Computed d f.rd (BitVec.ofNat 72 k) false (k == 0) c.flagV c.flagC) ∧
  Completes (.popc n f) s n (shapeA1 f) (fun c d =>
    let k := (List.range 72).countP fun i => bit (c.gr f.ra) i
    c.Computed d f.rd (BitVec.ofNat 72 k) false (k == 0) c.flagV c.flagC)

/-- DIV and DIVU (R353-R355): truncated division into the pair; -2^71 by -1 leaves -2^71, 0 and V 1; a zero divisor raises F19. -/
def Obligations.DivisionIntoAPair : Prop := ∀ (s : State) (n : CoreId) (f : FmtA),
  let c := s.core n (shapeDiv f)
  let a := c.gr f.ra
  let b := c.gr f.rb
  (b ≠ 0 →
    Completes (.div n f) s n (shapeDiv f) (fun c d => ∃ q r : Word,
      (if a.toInt = -2 ^ 71 ∧ b.toInt = -1 then q = a ∧ r = 0
        else a.toInt = q.toInt * b.toInt + r.toInt ∧ r.toInt.natAbs < b.toInt.natAbs ∧ (r.toInt < 0 → a.toInt < 0) ∧ (0 < r.toInt → 0 < a.toInt)) ∧
      c.ComputedPair d f.rd (f.rd + 1) q r q.msb (q == 0) (decide (a.toInt = -2 ^ 71 ∧ b.toInt = -1)) false) ∧
    Completes (.divu n f) s n (shapeDiv f) (fun c d => ∃ q r : Word,
      a.toNat = q.toNat * b.toNat + r.toNat ∧ r.toNat < b.toNat ∧
      c.ComputedPair d f.rd (f.rd + 1) q r q.msb (q == 0) false false)) ∧
  (b = 0 → s.starts n (shapeDiv f) = true →
    Faults (.div n f) s n (shapeDiv f) { cls := 19 } ∧ Faults (.divu n f) s n (shapeDiv f) { cls := 19 })

/-- ADVANCE and ADVANCE_I (R23, R24): the place of the digit address moved by a signed count of positions, modulo the address space; V
says that it left the space, and no other flag changes. A value with a bit above 56 raises F04, a position above 17 raises F05. -/
def Obligations.AdvanceByPositions : Prop := ∀ (s : State) (n : CoreId),
  let moved (c d : Core) (rd : BitVec 5) (p : Int) : Prop :=
    c.Computed d rd (atPlace p) c.flagN c.flagZ (decide (p < 0 ∨ 2 ^ 52 * 18 ≤ p)) c.flagC
  (∀ f : FmtA, let v := (s.core n (shapeA f)).gr f.ra
    (isDigitAddr v → Completes (.advance n f) s n (shapeA f) (fun c d => moved c d f.rd (place v + (c.gr f.rb).toInt))) ∧
    (s.starts n (shapeA f) = true → 2 ^ 57 ≤ v.toNat → Faults (.advance n f) s n (shapeA f) { cls := 4, faddr := bits v 0 57 }) ∧
    (s.starts n (shapeA f) = true → v.toNat < 2 ^ 57 → 18 ≤ v.toNat % 32 →
      Faults (.advance n f) s n (shapeA f) { cls := 5, faddr := bits v 0 57 })) ∧
  (∀ f : FmtI, let v := (s.core n (shapeI f)).gr f.ra
    (isDigitAddr v → Completes (.advanceI n f) s n (shapeI f) (fun c d => moved c d f.rd (place v + f.imm.toInt))) ∧
    (s.starts n (shapeI f) = true → 2 ^ 57 ≤ v.toNat → Faults (.advanceI n f) s n (shapeI f) { cls := 4, faddr := bits v 0 57 }) ∧
    (s.starts n (shapeI f) = true → v.toNat < 2 ^ 57 → 18 ≤ v.toNat % 32 →
      Faults (.advanceI n f) s n (shapeI f) { cls := 5, faddr := bits v 0 57 }))

/-- RDST and WRST (R49): RDST reads ST with bits 54:0 zero; WRST writes N, Z, V, C, DRM and FTE alone, and a DRM of 7 is ignored. -/
def Obligations.StatusRegisterAccess : Prop := ∀ (s : State) (n : CoreId) (f : FmtA),
  Completes (.rdst n f) s n (shapeRdst f) (fun c d => ∃ v, c.Loaded d f.rd v ∧ ∀ i, bit v i = (decide (55 ≤ i) && bit c.st i)) ∧
  Completes (.wrst n f) s n (shapeWrst f) (fun c d =>
    let v := c.gr f.ra
    d = { c.bookkept d with st := d.st } ∧ c.WentOn d 1 ∧
    ∀ i, i < 72 → bit d.st i =
      if 68 ≤ i ∨ (59 ≤ i ∧ i < 64) ∨ (65 ≤ i ∧ i < 68 ∧ bits v 65 3 ≠ 7) then bit v i else bit c.st i)

/-! ## Memory operands -/

/-- The words that n positions from a digit address touch (R25): in ascending order, together exactly the n places from it on, and
at most five words for 64 positions. -/
def Obligations.FieldsTouchTheirWords : Prop := ∀ (da : DAddr) (n : Nat), daPos da < 18 →
  ((fieldWords n da n).flatMap fun w => (List.range 18).filterMap fun p => if bit w.2 (17 - p) then some (w.1, p) else none) =
    (List.range n).map (fun (i : Nat) =>
      let k := (daWord da).toNat * 18 + daPos da + i
      (BitVec.ofNat 52 (k / 18), k % 18)) ∧
  (fieldWords n da n).length = (if n = 0 then 0 else (daPos da + n + 17) / 18) ∧
  (n ≤ 64 → (fieldWords n da n).length ≤ 5)

/-- LDW, LDO, LDN and LDF (R61-R63, R67) of local words: the 18, 2 or 1 positions at EA, in one word or across several, zero-extended; no memory
changes. LEA writes EA and makes no access. It rests on the model's choices in log 7. -/
def Obligations.LoadsReadTheirPositions : Prop := ∀ (s t : State) (n : CoreId) (f : FmtM) (rs : List WordRef),
  let c := s.core n (shapeM f)
  let e := s.core n (shapeMF f)
  let v : Word := BitVec.ofNat 72 (t.operandValue rs)
  ((∀ r ∈ rs, t.settled n r) → t.cores[n].det = false → s.runs n (shapeM f) = true → isDigitAddr (c.gr f.rb) →
    (OperandPasses n f.pr permLoad .ldw (c.ea f) 18 (s.fetched n (shapeM f)) rs t →
      LoadAnswers (.ldw n f) s t n fun d => d.setG f.rt v) ∧
    (daPos (c.ea f) % 2 = 0 → OperandPasses n f.pr permLoad .load (c.ea f) 2 (s.fetched n (shapeM f)) rs t →
      LoadAnswers (.ldo n f) s t n fun d => d.setG f.rt v) ∧
    (OperandPasses n f.pr permLoad .load (c.ea f) 1 (s.fetched n (shapeM f)) rs t →
      LoadAnswers (.ldn n f) s t n fun d => d.setG f.rt v)) ∧
  ((∀ r ∈ rs, t.settled n r) → t.cores[n].det = false → s.runs n (shapeMF f) = true → isDigitAddr (e.gr f.rb) →
    OperandPasses n f.pr permLoad .load (e.ea f) 18 (s.fetched n (shapeMF f)) rs t →
      LoadAnswers (.ldf n f) s t n fun d => d.setF f.rt (bits v 0 32)) ∧
  (isDigitAddr ((s.core n (shapeLea f)).gr f.rb) →
    Completes (.lea n f) s n (shapeLea f) (fun c d => c.Loaded d f.rt (atPlace (place (c.gr f.rb) + f.disp.toInt))))

/-- STW, STO, STN and STF (R28, R61-R63, R67) to local words: the last 18, 2 or 1 positions of the register at EA, and no other position of
memory, once the store buffer has drained; the tags of the pairs are cleared (R16), and no register changes. It rests on the model's choices in
log 7. -/
def Obligations.StoresWriteTheirPositions : Prop := ∀ (s t : State) (n : CoreId) (f : FmtM) (rs : List WordRef),
  let c := s.core n (shapeM f)
  let e := s.core n (shapeMF f)
  let stores (i : Instr) (k v : Nat) : Prop := ∃ u, exec i s = .next u ∧ OnlyBuffered n t u ∧ t.cores[n].WentOn u.cores[n] 1 ∧
    StoredTo n t u rs (scatterPos rs (posOfNat k v))
  (t.storable n rs → s.runs n (shapeM f) = true → isDigitAddr (c.gr f.rb) →
    (OperandPasses n f.pr permStore .stw (c.ea f) 18 (s.fetched n (shapeM f)) rs t → stores (.stw n f) 18 (c.gr f.rt).toNat) ∧
    (daPos (c.ea f) % 2 = 0 → OperandPasses n f.pr permStore .store (c.ea f) 2 (s.fetched n (shapeM f)) rs t →
      stores (.sto n f) 2 (c.gr f.rt).toNat) ∧
    (OperandPasses n f.pr permStore .store (c.ea f) 1 (s.fetched n (shapeM f)) rs t → stores (.stn n f) 1 (c.gr f.rt).toNat)) ∧
  (t.storable n rs → s.runs n (shapeMF f) = true → isDigitAddr (e.gr f.rb) →
    OperandPasses n f.pr permStore .store (e.ea f) 18 (s.fetched n (shapeMF f)) rs t → stores (.stf n f) 18 (e.fr f.rt).toNat)

/-- CASW, SWPW and FADW (R64, R67) on a local word: every older store of the core leaves first; the old word goes to G[rt], and the new one to
memory; CASW stores only when the old word equals G[rt], and Z alone says whether it did. It rests on the model's choices in log 7. -/
def Obligations.AtomicsSwapOneWord : Prop := ∀ (s t : State) (n : CoreId) (f : FmtM) (r : WordRef),
  let w := t.cell r.pa
  let ready (sh : Shape) : Prop := s.runs n sh = true ∧ isDigitAddr ((s.core n sh).gr f.rb) ∧ daPos ((s.core n sh).ea f) = 0 ∧
    OperandPasses n f.pr (permLoad ||| permStore) .atomic ((s.core n sh).ea f) 18 ((s.fetched n sh).drainAll n) [r] t ∧
    t.Inv ∧ t.cores[n].det = false ∧ w.bad = false ∧ r.ent.chg = true
  let swaps (i : Instr) (new : Option Word) (put : Core → Core) : Prop := ∃ u, exec i s = .next u ∧
    (∀ a, (u.cell a).data = if a = r.pa then new.getD w.data else (t.cell a).data) ∧
    t.cores[n].WentOn u.cores[n] 1 ∧ u.cores[n] = put (t.cores[n].bookkept u.cores[n]) ∧ OnlyCore n { t with mem := u.mem } u
  let c := t.cores[n]
  (ready (shapeCasw f) → swaps (.casw n f) (if w.data = c.gr f.rt then some (c.gr (f.rt + 1)) else none)
    fun d => { d.setG f.rt w.data with st := setBit d.st 70 (w.data == c.gr f.rt) }) ∧
  (ready (shapeSwpw f) → swaps (.swpw n f) (some (c.gr f.rt)) fun d => d.setG f.rt w.data) ∧
  (ready (shapeFadw f) → swaps (.fadw n f) (some (w.data + c.gr f.rt)) fun d => d.setG f.rt w.data)

/-- LDPS and STPS (R240, R241) on a local pair: LDPS loads a pass register, valid only when both tags are set; STPS stores both words and sets or
clears both tags by the valid bit, in memory once the buffer has drained. It rests on the model's choices in log 7, 36. -/
def Obligations.PassLoadsAndStores : Prop := ∀ (s t : State) (n : CoreId) (f : FmtM) (r r1 : WordRef),
  let c := s.core n (shapePair f)
  let ready (need : BitVec 12) (a : Acc) : Prop := s.runs n (shapePair f) = true ∧ isDigitAddr (c.gr f.rb) ∧ daPos (c.ea f) = 0 ∧
    bit (daWord (c.ea f)) 0 = false ∧ OperandPasses n f.pr need a (c.ea f) 36 (s.fetched n (shapePair f)) [r, r1] t ∧
    t.cores[n].det = false ∧ isLocalMem r.pa = true ∧ isLocalMem r1.pa = true ∧ r1.pa = r.pa + 1 ∧ pairWord r.pa = r1.pa
  (ready (permLoad ||| permLoadPass) .loadPass → t.settled n r → t.settled n r1 →
    LoadAnswers (.ldps n f) s t n fun d => d.setP (bits f.rt 0 4)
      { w0 := (t.cell r.pa).data, w1 := (t.cell r1.pa).data, valid := (t.cell r.pa).tag && (t.cell r1.pa).tag }) ∧
  (let p := c.pr (bits f.rt 0 4)
   ready (permStore ||| permStorePass) .storePass → (p.valid && !p.isGlobal && !(c.pr f.pr).isLocal) = false → t.Inv →
    t.cores[n].bufferUsed + 2 ≤ 32 → r.ent.chg = true →
    ∃ u, exec (.stps n f) s = .next u ∧ OnlyBuffered n t u ∧ t.cores[n].WentOn u.cores[n] 1 ∧
      u.drainedCell n r.pa = { data := p.w0, tag := p.valid, bad := false } ∧
      u.drainedCell n r1.pa = { data := p.w1, tag := p.valid, bad := false } ∧
      ∀ a, a ≠ r.pa → a ≠ r1.pa → u.drainedCell n a = t.drainedCell n a)

/-! ## Passes -/

/-- PMOV, PNAR, PPRM, PKEY, SEAL and UNSEAL (R246, R247, R250, R251): the pass that each derives, written to P[rd] with nothing else
changed; PTST and PGET (R248, R249): what they read of a pass. -/
def Obligations.PassDerivations : Prop := ∀ (s : State) (n : CoreId) (f : FmtA),
  let a := passOf f.ra
  let b := passOf f.rb
  let d := passOf f.rd
  Completes (.pmov n f) s n (shapePmov f) (fun c x => c.WroteP x d (c.pr a)) ∧
  (let c := s.core n (shapePnar f)
   let p := c.pr a
   p.usable = true → (c.gr f.rb).toNat < 2 ^ 52 → 1 ≤ (c.gr (f.rb + 1)).toNat → (c.gr (f.rb + 1)).toNat ≤ 2 ^ 52 →
   p.base ≤ (c.gr f.rb).toNat → (c.gr f.rb).toNat + (c.gr (f.rb + 1)).toNat ≤ p.base + p.len →
   Completes (.pnar n f) s n (shapePnar f) (fun c x => ∃ q : PassReg, c.WroteP x d q ∧ q.valid = true ∧
     q.base = (c.gr f.rb).toNat ∧ q.len = (c.gr (f.rb + 1)).toNat ∧ ∀ i, i < 20 → bit q.w0 i = bit p.w0 i ∧ bit q.w1 i = bit p.w1 i)) ∧
  (let c := s.core n (shapePprm f)
   let p := c.pr a
   let g := c.gr f.rb
   p.usable = true → Completes (.pprm n f) s n (shapePprm f) (fun c x => ∃ q : PassReg, c.WroteP x d q ∧ q.valid = true ∧ q.w1 = p.w1 ∧
     ∀ i, bit q.w0 i = (bit p.w0 i && if 8 ≤ i ∧ i < 20 then bit g (i - 8) else if i = 2 then bit g 12 else if i = 1 then bit g 13 else true))) ∧
  (let c := s.core n (shapePkey f)
   let p := c.pr a
   let g := c.gr f.rb
   p.usable = true → g.toNat < 16 → (p.key = 0 ∨ p.key = bits g 0 4) →
   Completes (.pkey n f) s n (shapePkey f) (fun c x => ∃ q : PassReg, c.WroteP x d q ∧ q.valid = true ∧ q.w1 = p.w1 ∧
     ∀ i, bit q.w0 i = if 4 ≤ i ∧ i < 8 then bit g (i - 4) else bit p.w0 i)) ∧
  (let c := s.core n (shapeSeal f)
   let p := c.pr a
   let q := c.pr b
   p.usable = true → q.usable = true → q.grants permSeal = true → 1 ≤ q.base → q.base ≤ 0xFFFF →
   Completes (.seal n f) s n (shapeSeal f) (fun c x => ∃ r : PassReg, c.WroteP x d r ∧ r.valid = true ∧ r.sealType.toNat = q.base ∧
     (∀ i, bit r.w0 i = (bit p.w0 i || i == 3)) ∧ ∀ i, ¬(4 ≤ i ∧ i < 20) → bit r.w1 i = bit p.w1 i)) ∧
  (let c := s.core n (shapeUnseal f)
   let p := c.pr a
   let q := c.pr b
   p.valid = true → p.sealed = true → q.usable = true → q.grants permUnseal = true →
   q.base ≤ p.sealType.toNat → p.sealType.toNat < q.base + q.len →
   Completes (.unseal n f) s n (shapeUnseal f) (fun c x => ∃ r : PassReg, c.WroteP x d r ∧ r.valid = true ∧
     (∀ i, bit r.w0 i = (bit p.w0 i && i != 3)) ∧ ∀ i, bit r.w1 i = (bit p.w1 i && !(decide (4 ≤ i) && decide (i < 20))))) ∧
  Completes (.ptst n f) s n (shapePtst f) (fun c x => c.OnlyGSt x ∧ x.g = c.g ∧ c.WentOn x 1 ∧
    let p := c.pr a
    let q := c.pr b
    ∃ z, c.Flags x p.sealed z false p.valid ∧ (z = true ↔ p.valid = true ∧ q.valid = true ∧ q.base ≤ p.base ∧ p.base + p.len ≤ q.base + q.len ∧
      (∀ i, bit p.perm i = true → bit q.perm i = true) ∧ (p.isGlobal = true → q.isGlobal = true) ∧ (p.isLocal = true → q.isLocal = true) ∧
      (q.key = 0 ∨ q.key = p.key) ∧ p.sealed = q.sealed ∧ p.shadow = q.shadow ∧ p.sealType = q.sealType)) ∧
  Completes (.pget n f) s n (shapePget f) (fun c x =>
    let p := c.pr a
    c.Loaded x f.rd (match (bits f.fn 0 2).toNat with
      | 0 => p.w0
      | 1 => p.w1
      | _ => BitVec.ofNat 72 p.valid.toNat))

/-- The faults of pass derivation in their order (R246, R247, R250, R251): INVALID, SEALED, then PERMISSION and TYPE of a seal authority, or
FORM, then WIDEN. -/
def Obligations.PassDerivationFaults : Prop := ∀ (s : State) (n : CoreId) (f : FmtA),
  let a := passOf f.ra
  let b := passOf f.rb
  let fails (i : Instr) (sh : Shape) (k : Nat) (r : PassId) : Prop := s.starts n sh = true → Faults i s n sh (passFault (BitVec.ofNat 8 k) r 0)
  let source (i : Instr) (sh : Shape) : Prop :=
    let p := (s.core n sh).pr a
    (p.valid = false → fails i sh 1 a) ∧ (p.valid = true → p.sealed = true → fails i sh 2 a)
  let maker (i : Instr) (sh : Shape) (need : BitVec 12) (ok : Prop) : Prop :=
    let q := (s.core n sh).pr b
    ok → (q.valid = false → fails i sh 1 b) ∧ (q.valid = true → q.sealed = true → fails i sh 2 b) ∧
      (q.usable = true → q.grants need = false → fails i sh 3 b)
  source (.pnar n f) (shapePnar f) ∧ source (.pprm n f) (shapePprm f) ∧ source (.pkey n f) (shapePkey f) ∧ source (.seal n f) (shapeSeal f) ∧
  (let sh := shapePnar f
   let c := s.core n sh
   let p := c.pr a
   let g := (c.gr f.rb).toNat
   let l := (c.gr (f.rb + 1)).toNat
   p.usable = true → ((2 ^ 52 ≤ g ∨ l = 0 ∨ 2 ^ 52 < l) → fails (.pnar n f) sh 5 a) ∧
    (g < 2 ^ 52 → 1 ≤ l → l ≤ 2 ^ 52 → (g < p.base ∨ p.base + p.len < g + l) → fails (.pnar n f) sh 6 a)) ∧
  (let sh := shapePkey f
   let c := s.core n sh
   let p := c.pr a
   let g := c.gr f.rb
   p.usable = true → (16 ≤ g.toNat → fails (.pkey n f) sh 5 a) ∧
    (g.toNat < 16 → p.key ≠ 0 → p.key ≠ bits g 0 4 → fails (.pkey n f) sh 6 a)) ∧
  (let sh := shapeSeal f
   let c := s.core n sh
   maker (.seal n f) sh permSeal ((c.pr a).usable = true) ∧
   ((c.pr a).usable = true → (c.pr b).usable = true → (c.pr b).grants permSeal = true → ((c.pr b).base = 0 ∨ 0xFFFF < (c.pr b).base) →
    fails (.seal n f) sh 10 b)) ∧
  (let sh := shapeUnseal f
   let c := s.core n sh
   let p := c.pr a
   let q := c.pr b
   (p.valid = false → fails (.unseal n f) sh 1 a) ∧ (p.valid = true → p.sealed = false → fails (.unseal n f) sh 2 a) ∧
   maker (.unseal n f) sh permUnseal (p.valid = true ∧ p.sealed = true) ∧
   (p.valid = true → p.sealed = true → q.usable = true → q.grants permUnseal = true →
    (p.sealType.toNat < q.base ∨ q.base + q.len ≤ p.sealType.toNat) → fails (.unseal n f) sh 10 a))

/-- The five tests of R242 in their order: the first that fails raises its fault, and an operand that passes them raises none. -/
def Obligations.PassTestsInOrder : Prop := ∀ (s : State) (p : PassReg) (preg : PassId) (need : BitVec 12) (a : Acc) (da : DAddr) (len : Nat),
  let ws := fieldWords len da len
  let k : Nat := if p.valid = false then 1 else if p.sealed = true then 2 else if a.isStore = true ∧ p.shadow = true then 9
    else if need &&& ~~~p.perm ≠ 0 then 3 else 4
  let inside : Prop := ∀ i : Nat, i < ws.length → p.base ≤ (daWord da).toNat + i ∧ (daWord da).toNat + i < p.base + p.len
  (daPos da < 18 → len ≤ 64 → (k = 4 ∧ inside → passTests p preg need a da ws s = .ok () s) ∧
    (¬(k = 4 ∧ inside) → ∃ fa, passTests p preg need a da ws s = .error (.fault (passFault (BitVec.ofNat 8 k) preg fa)) s))

/-! ## Branches and calls -/

/-- B, BR and RET, CALL and CALLR (R60, R66, R67, R258): a branch goes to its target when P15 covers it; a call records the next
instruction's address in its register and on the shadow stack, and RET takes it off again. -/
def Obligations.BranchesAndCalls : Prop := ∀ (s : State) (n : CoreId),
  (∀ f : FmtB, let c := s.core n (shapeB f)
    let t := daAdd c.pc (9 * f.disp.toInt)
    (c.cond f.cond = false → Completes (.b n f) s n (shapeB f) (fun c d => d = c.sameBut d ∧ c.WentOn d 1)) ∧
    (c.cond f.cond = true → c.reaches (9 * f.disp.toInt) → c.mayGo t → Goes (.b n f) s n (shapeB f) (fun c d => d = c.sameBut d ∧ c.WentTo d t)) ∧
    (c.cond f.cond = true → ¬ c.reaches (9 * f.disp.toInt) → s.starts n (shapeB f) = true →
      Faults (.b n f) s n (shapeB f) { cls := 8, faddr := c.pc })) ∧
  (∀ f : FmtA, let v := (s.core n (shapeBr f)).gr f.ra
    isTarget v → (s.core n (shapeBr f)).mayGo (bits v 0 57) →
    Goes (.br n f) s n (shapeBr f) (fun c d => d = c.sameBut d ∧ c.WentTo d (bits v 0 57))) ∧
  (∀ (f : FmtA) (v : DAddr) (t : State) (r : WordRef), v = bits ((s.core n (shapeRet f)).gr f.ra) 0 57 →
    s.starts n (shapeRet f) = true → isTarget ((s.core n (shapeRet f)).gr f.ra) → (s.core n (shapeRet f)).mayGo v →
    popCheck n 1 (s.fetched n (shapeRet f)) = .ok [r] t → t.settled n r → t.cores[n].det = false →
    bits (t.data r.pa) 68 4 = 1 → bits (t.data r.pa) 0 57 = v →
    ∃ u, exec (.ret n f) s = .next u ∧ OnlyCore n t u ∧ u.cores[n] = { t.cores[n].sameBut u.cores[n] with ssp := t.cores[n].ssp + 1 } ∧
      t.cores[n].WentTo u.cores[n] v) ∧
  (let calls (i : Instr) (sh : Shape) (rd : BitVec 5) (v : DAddr) (t : State) (r : WordRef) : Prop :=
     s.starts n sh = true → (s.core n sh).mayGo v → (s.core n sh).reaches 9 → pushCheck n 1 (s.fetched n sh) = .ok [r] t → t.storable n [r] →
     ∃ u, exec i s = .next u ∧ OnlyCore n t u ∧
       u.cores[n] = { (t.cores[n].sameBut u.cores[n]).setG rd (daReg (daAdd (s.core n sh).pc 9)) with
         ssp := t.cores[n].ssp - 1, storeBuf := u.cores[n].storeBuf } ∧
       t.cores[n].WentTo u.cores[n] v ∧ StoredTo n t u [r] [at' (1 : BitVec 4) 68 ||| daReg (daAdd (s.core n sh).pc 9)]
   (∀ (f : FmtB) (t : State) (r : WordRef), let c := s.core n (shapeCall f)
     c.reaches (9 * f.disp.toInt) → calls (.call n f) (shapeCall f) 31 (daAdd c.pc (9 * f.disp.toInt)) t r) ∧
   (∀ (f : FmtA) (t : State) (r : WordRef), let v := (s.core n (shapeCallr f)).gr f.ra
     isTarget v → calls (.callr n f) (shapeCallr f) f.rd (bits v 0 57) t r))

/-- ENTER and LEAVE (R252, R253, R257): the domain frame on the shadow stack, with a pad word below an odd SSP; the unsealed passes in P15
and P13, or the saved ones; and the PC at the code pass's base, or at the saved address. -/
def Obligations.ProtectedCalls : Prop := ∀ (s t : State) (n : CoreId) (f : FmtA) (rs : List WordRef),
  (let c := s.core n (shapeEnter f)
   let a := c.pr (passOf f.ra)
   let b := c.pr (passOf f.rb)
   let pad := bit c.ssp 0
   s.starts n (shapeEnter f) = true → a.valid = true → b.valid = true → a.sealed = true → b.sealed = true → a.sealType = b.sealType →
   a.grants permEnter = true → b.grants permEnter = true → a.grants permExec = true → c.reaches 9 →
   pushCheck n (if pad then 7 else 6) (s.fetched n (shapeEnter f)) = .ok rs t → t.storable n rs → (∀ r ∈ rs, r.mask = maskAll) →
   (∀ k, k = 2 ∨ k = 4 → (rs.map fun r => r.pa)[k + 1]? = ((rs.map fun r => r.pa)[k]?).map (· + 1) ∧
     (rs.map fun r => r.pa)[k + 1]? = ((rs.map fun r => r.pa)[k]?).map pairWord) →
   ∃ u, exec (.enter n f) s = .next u ∧ OnlyCore n t u ∧
     (∃ p15 p13 : PassReg, u.cores[n] = { ((t.cores[n].sameBut u.cores[n]).setP 15 p15).setP 13 p13 with
        ssp := t.cores[n].ssp - (if pad then 7 else 6), storeBuf := u.cores[n].storeBuf } ∧
      p15 = { a with w0 := setBit a.w0 3 false, w1 := setBits a.w1 4 16 0 } ∧ p13 = { b with w0 := setBit b.w0 3 false, w1 := setBits b.w1 4 16 0 }) ∧
     t.cores[n].WentTo u.cores[n] (daOf (bits a.w0 20 52) 0) ∧
     (let w := [at' (2 : BitVec 4) 68 ||| daReg (daAdd c.pc 9), if pad then 1 else 0, t.cores[n].p[15].w0, t.cores[n].p[15].w1,
        t.cores[n].p[13].w0, t.cores[n].p[13].w1, at' (0xF : BitVec 4) 68]
      ∀ x ∈ rs.zip (w.zip [false, false, t.cores[n].p[15].valid, t.cores[n].p[15].valid, t.cores[n].p[13].valid, t.cores[n].p[13].valid, false]),
        (u.drainedCell n x.1.pa).data = x.2.1 ∧ (u.drainedCell n x.1.pa).tag = x.2.2)) ∧
  (s.starts n (shapeLeave f) = true → ∀ (t1 v1 t2 v2 : State) (r0 : WordRef) (pas : List WAddr),
   popCheck n 1 (s.fetched n (shapeLeave f)) = .ok [r0] t1 → t1.settled n r0 → loadRef n r0 t1 = .ok (t1.data r0.pa) v1 →
   bits (t1.data r0.pa) 68 4 = 2 → popCheck n 6 v1 = .ok rs t2 → (∀ r ∈ rs, t2.settled n r) → rs.map (fun r => r.pa) = pas →
   let w1 := t2.data (pas.getD 1 0)
   loadRef n (rs.getD 1 r0) t2 = .ok w1 v2 →
   (bit w1 0 = true → ∃ r6 : List WordRef, popCheck n 7 v2 = .ok r6 t ∧ ∀ r ∈ r6, t.settled n r) → (bit w1 0 = false → t = v2) →
   (∀ r ∈ rs, t.settled n r) → t.cores[n].det = false →
   ∃ u, exec (.leave n f) s = .next u ∧ OnlyCore n t u ∧
     u.cores[n] = { ((t.cores[n].sameBut u.cores[n]).setP 15 (t.getPass (pas.getD 2 0))).setP 13 (t.getPass (pas.getD 4 0)) with
       ssp := t.cores[n].ssp + (if bit w1 0 then 7 else 6) } ∧
     t.cores[n].WentTo u.cores[n] (bits (t1.data r0.pa) 0 57))

/-! ## Synchronisation and invalidation -/

/-- SYNC.M, SYNC.I and SYNC.C (R71-R73, R322, R343): every buffered store leaves, once no remote store is unanswered and no store to the host window
waits for its PCIe read, and the quad's copies of remote lines go; SYNC.I makes the stores leave and empties the fetch buffer; SYNC.C does both and
installs DETREQ in ST.DET. A recorded late store error raises F25. While a store is not complete, SYNC.M waits. It rests on the model's choices in
log 7, 10, 45. -/
def Obligations.SyncInstructions : Prop := ∀ (s : State) (n : CoreId) (f : FmtA),
  let t := (s.fetched n (shapeSyncM f)).drainAll n
  let v := t.updQuad (quadOf n) fun q => { q with remote := [] }
  let w := (s.fetched n (shapeSyncC f)).drainAll n
  let x := w.updQuad (quadOf n) fun q => { q with remote := [] }
  let y := (s.fetched n (shapeSyncI f)).drainAll n
  (s.runs n (shapeSyncI f) = true →
    ∃ u, exec (.syncI n f) s = .next u ∧ OnlyCore n y u ∧ y.cores[n].WentOn u.cores[n] 1 ∧
      u.cores[n] = { y.cores[n].bookkept u.cores[n] with fetchBuf := [] } ∧ u.cores[n].storeBuf = [] ∧ u.cores[n].fetchWord = none) ∧
  (s.runs n (shapeSyncM f) = true → t.storesOut n = false → t.cores[n].windows = [] → bit t.cores[n].lseStat 71 = false →
    ∃ u, exec (.syncM n f) s = .next u ∧ OnlyCore n v u ∧ u.cores[n] = t.cores[n].bookkept u.cores[n] ∧ t.cores[n].WentOn u.cores[n] 1 ∧
      u.cores[n].storeBuf = []) ∧
  (s.runs n (shapeSyncC f) = true → w.storesOut n = false → w.cores[n].windows = [] → bit w.cores[n].lseStat 71 = false →
    w.cores[n].det = false →
    ∃ u, exec (.syncC n f) s = .next u ∧ OnlyCore n x u ∧
      u.cores[n] = { w.cores[n].bookkept u.cores[n] with
        fetchBuf := [], pageRegs := u.cores[n].pageRegs, st := u.cores[n].st, fillWait := u.cores[n].fillWait } ∧
      (∀ i : Fin 3, u.cores[n].pageRegs[i] = none) ∧ (∀ k, bit u.cores[n].st k = if k = 58 then bit w.cores[n].pipeCtl 0 else bit w.cores[n].st k) ∧
      w.cores[n].WentOn u.cores[n] 1 ∧ u.cores[n].storeBuf = []) ∧
  (s.starts n (shapeSyncM f) = true → t.storesOut n = false → t.cores[n].windows = [] → bit t.cores[n].lseStat 71 = true →
    exec (.syncM n f) s = .next (v.faultAfter n { cls := 25, code := bits t.cores[n].lseStat 0 8, fphys := t.cores[n].lseAddr } s)) ∧
  (s.starts n (shapeSyncM f) = true → (t.storesOut n = true ∨ t.cores[n].windows ≠ []) →
    ∃ u, exec (.syncM n f) s = .next u ∧ u.cores[n].pc = t.cores[n].pc ∧ u.cores[n].retired = t.cores[n].retired ∧ u.cores[n].storeBuf = [] ∧
      u.cores[n].windows = [] ∧ u.mem = t.mem)

/-- INVPG, INVSP and INVALL (R284, R285): with a usable DEVICE pass, every core's buffered stores leave, and every translation store of the
module drops what the instruction names and keeps the rest; memory is as the stores leave it. It rests on the model's choices in log 7, 11, 45. -/
def Obligations.InvalidationsDropTranslations : Prop := ∀ (s : State) (n : CoreId) (f : FmtA),
  let drops (i : Instr) (sh : Shape) (k : Scope) : Prop :=
    let p := (s.core n sh).pr (bits f.fn 0 4)
    let t := ((s.fetched n sh).drainAll n).updQuad (quadOf n) fun q => { q with remote := [] }
    let w := t.drainEvery
    s.runs n sh = true → p.usable = true → p.grants permDevice = true → ((s.fetched n sh).drainAll n).storesOut n = false →
    t.cores[n].windows = [] → bit t.cores[n].lseStat 71 = false → w.accessesOut = false →
    ∃ u, exec i s = .next u ∧ u.mem = w.mem ∧ w.cores[n].WentOn u.cores[n] 1 ∧ u.cores[n].g = w.cores[n].g ∧ u.cores[n].p = w.cores[n].p ∧
      (∀ m : CoreId, u.cores[m].itlb = w.cores[m].itlb.filter (fun e => !k.names e) ∧
        u.cores[m].dtlb = w.cores[m].dtlb.filter (fun e => !k.names e) ∧
        ∀ i : Fin 3, u.cores[m].pageRegs[i] = (w.cores[m].pageRegs[i]).filter (fun e => !k.names e)) ∧
      (∀ q : QuadId, u.quads[q].tlb = w.quads[q].tlb.filter (fun e => !k.names e) ∧
        u.quads[q].walkCache = w.quads[q].walkCache.filter (fun e => !k.namesWalk e)) ∧
      (∀ e : EngId, u.engines[e] = { w.engines[e] with tlb := w.engines[e].tlb.filter (fun e => !k.names e) })
  let a := (s.core n (shapeInvpg f)).gr f.ra
  let b := (s.core n (shapeInvpg f)).gr f.rb
  let v := (s.core n (shapeInvsp f)).gr f.ra
  (b.toNat < 2 ^ 16 → a.toNat < 2 ^ 57 → drops (.invpg n f) (shapeInvpg f) (.page (bits b 0 16) (bits a 5 52))) ∧
  (v.toNat < 2 ^ 16 → drops (.invsp n f) (shapeInvsp f) (.space (bits v 0 16))) ∧
  drops (.invall n f) (shapeInvall f) .all

/-! ## The switchback chain -/

/-- SAVE.L, SAVE.U, REST.L and REST.U (R290-R296): a save takes the area at the head of its chain, writes the half's registers and passes there
with its header, and names it in G[rd]; a restore loads them from the area named by G[ra] and puts it back at the head. It rests on the model's
choices in log 7, 40. -/
def Obligations.SavesAndRestores : Prop := ∀ (s : State) (n : CoreId) (f : FmtA),
  let ready (sh : Shape) (a : WAddr) (stored : List Nat) (t : State) : Prop :=
    let p := (s.core n sh).pr (bits f.fn 0 4)
    t = (s.fetched n sh).drainAll n ∧ s.runs n sh = true ∧ p.usable = true ∧ p.grants permDevice = true ∧ a.toNat % 8 = 0 ∧ rangeInMem a 40 = true ∧
    (s.fetched n sh).guardedWords a stored = false ∧ t.Inv ∧ t.cores[n].det = false
  let saves (i : Instr) (sh : Shape) (up : Bool) (t : State) : Prop :=
    let x := bit f.fn 4
    let c := t.cores[n]
    let a := if x then (s.core n sh).swx else (s.core n sh).swh
    let lo : Nat := if up then 16 else 1
    let pl : Nat := if up then 7 else 0
    a ≠ 0 → ready sh a (savedWords up) t → (t.cell a).bad = false →
    ∃ u, exec i s = .next u ∧ OnlyCore n { t with mem := u.mem } u ∧ c.WentOn u.cores[n] 1 ∧
      u.cores[n] = { ((c.bookkept u.cores[n]).setHead x (bits (t.data a) 0 52)).setG f.rd (a.setWidth 72) with
        storeBuf := u.cores[n].storeBuf, sbFull := u.cores[n].sbFull } ∧
      (u.drainedCell n (a + 1)).data = at' (if up then 2#4 else 1#4) 68 ||| flagAt x 67 ||| at' (BitVec.ofNat 6 n.val) 61 ∧
      (∀ i : Nat, i < (if up then 16 else 15) → (u.drainedCell n (a + 2 + BitVec.ofNat 52 i)).data = c.gr (BitVec.ofNat 5 (lo + i))) ∧
      (∀ i : Nat, i < 7 → (u.drainAll n).getPass (a + 18 + BitVec.ofNat 52 (2 * i)) = c.pr (BitVec.ofNat 4 (pl + i))) ∧
      (up = true → (u.drainAll n).getPass (a + 32) = c.sspass ∧ (u.drainedCell n (a + 34)).data = c.ssp.setWidth 72) ∧
      ∀ b : WAddr, (b.toNat ≤ a.toNat ∨ a.toNat + (if up then 35 else 32) ≤ b.toNat) → (u.drainedCell n b).data = (t.drainedCell n b).data
  let restores (i : Instr) (sh : Shape) (up : Bool) (t : State) : Prop :=
    let v := (s.core n sh).gr f.ra
    let a := bits v 0 52
    let c := t.cores[n]
    let x := bit (t.data (a + 1)) 67
    let lo : Nat := if up then 16 else 1
    let pl : Nat := if up then 7 else 0
    v.toNat < 2 ^ 52 → ready sh a [0, 1] t → (∀ k : Nat, k < 35 → (t.cell (a + BitVec.ofNat 52 k)).bad = false) →
    bits (t.data (a + 1)) 68 4 = (if up then 2 else 1) →
    ∃ u, exec i s = .next u ∧ OnlyCore n t u ∧ c.WentOn u.cores[n] 1 ∧
      u.cores[n] = {
        (c.bookkept u.cores[n]).setHead x a with
        g := u.cores[n].g, p := u.cores[n].p, sspass := u.cores[n].sspass, ssp := u.cores[n].ssp, storeBuf := u.cores[n].storeBuf } ∧
      (∀ i : Nat, i < 32 → u.cores[n].gr (BitVec.ofNat 5 i) =
        if lo ≤ i ∧ i < (if up then 32 else 16) then t.data (a + 2 + BitVec.ofNat 52 (i - lo)) else c.gr (BitVec.ofNat 5 i)) ∧
      (∀ i : Nat, i < 16 → u.cores[n].pr (BitVec.ofNat 4 i) =
        if pl ≤ i ∧ i < pl + 7 then t.getPass (a + 18 + BitVec.ofNat 52 (2 * (i - pl))) else c.pr (BitVec.ofNat 4 i)) ∧
      (u.cores[n].sspass = if up then t.getPass (a + 32) else c.sspass) ∧
      (u.cores[n].ssp = if up then bits (t.data (a + 34)) 0 52 else c.ssp) ∧
      (u.drainedCell n a).data = (if x then c.swx else c.swh).setWidth 72 ∧ (u.drainedCell n (a + 1)).data = 0 ∧
      ∀ b : WAddr, b ≠ a → b ≠ a + 1 → (u.drainedCell n b).data = (t.drainedCell n b).data
  ∀ t : State, saves (.saveL n f) (shapeSaveL f) false t ∧ saves (.saveU n f) (shapeSaveU f) true t ∧
    restores (.restL n f) (shapeRestL f) false t ∧ restores (.restU n f) (shapeRestU f) true t

/-! ## Entries -/

/-- An entry whose checks pass (R310, R314, R315): the handler's vector, passes, level and ACTIVE bit, and FPA clear; and the twelve words of the
frame in memory, the passes with their tags, once the buffer has drained. It rests on the model's choices in log 7, 12. -/
def Obligations.EntriesReachTheHandler : Prop := ∀ (s t : State) (n : CoreId) (i : EntryInfo) (pas : List WAddr) (vec : DAddr) (p15 p14 : PassReg),
  s.entryPasses n i pas vec p15 p14 t → EntryTaken n i pas vec p15 p14 t (s.enter n i) ∧
  (t.Inv → t.cores[n].storeBuf = [] → pas.length = 12 → pas.Nodup → (∀ pa ∈ pas, isLocalMem pa = true) →
   (∀ k : Nat, k = 2 ∨ k = 4 → pas[k + 1]? = (pas[k]?).map (· + 1) ∧ pas[k + 1]? = (pas[k]?).map pairWord) →
   let c := t.cores[n]
   (∀ x ∈ pas.zip (c.entryFrame i t.now), ((s.enter n i).drainedCell n x.1).data = x.2) ∧
   (∀ x ∈ pas.zip [false, false, c.p[15].valid, c.p[15].valid, c.p[14].valid, c.p[14].valid, false, false, false, false, false, false],
     ((s.enter n i).drainedCell n x.1).tag = x.2) ∧
   ∀ a, a ∉ pas → ((s.enter n i).drainedCell n a).data = (t.cell a).data)

/-- EVENT_ENTRY, TRAP and FREL (R308, R313, R314, R317, R318): an entry at the source's level, or at the next one with the code in DETAIL; and
the return through the innermost frame, which restores PC, flags, DRM, FTE, P15 and P14, sets FPA by R300 and leaves the level. It rests on the
model's choices in log 7, 12, 39. -/
def Obligations.EventsTrapsAndReturns : Prop := ∀ (s t : State) (n : CoreId) (pas : List WAddr) (vec : DAddr) (p15 p14 : PassReg),
  (∀ (k : SrcId) (m : BitVec 3), s.cores[n].atBoundary = true → s.taken n = some (k, m) → s.cores[n].det = false →
    let i : EntryInfo :=
      { kind := .event, level := m, fault := { cls := 0 }, source := BitVec.ofNat 10 k.val,
        merged := s.srcs[k].merges - s.srcs[k].mark, pc := s.cores[n].pc, instr := 0 }
    (s.takeSource n k).entryPasses n i pas vec p15 p14 t →
    ∃ u, exec (.eventEntry n) s = .next u ∧ EntryTaken n i pas vec p15 p14 t u) ∧
  (∀ (f : FmtI) (w : Word) (v : State), let sh := shapeTrap f
    let c := s.core n sh
    s.starts n sh = true → c.posts = [] → c.lvl ≠ 7 → bit c.active 16 = false → bit c.active 17 = false → c.reaches 9 →
    (s.fetched n sh).instrWord n = (w, v) →
    let i : EntryInfo :=
      { kind := .trap, level := c.lvl + 1, fault := { cls := 0, detail := f.imm.setWidth 72 }, source := 0, merged := 0,
        pc := daAdd c.pc 9, instr := w }
    v.entryPasses n i pas vec p15 p14 t →
    ∃ u, exec (.trap n f) s = .next u ∧ EntryTaken n i pas vec p15 p14 t u ∧ u.cores[n].retired = t.cores[n].retired + 1) ∧
  (∀ f : FmtI, let sh := shapeTrap f
    let c := s.core n sh
    s.starts n sh = true → c.posts = [] → (c.lvl = 7 ∨ bit c.active 16 = true ∨ bit c.active 17 = true) →
    Faults (.trap n f) s n sh { cls := 24, detail := f.imm.setWidth 72 }) ∧
  (∀ (f : FmtA) (b : Nat) (fr : FrameRec) (r : List FrameRec), let sh := shapeFrel f
    let v := (s.fetched n sh).drainAll n
    let c := v.cores[n]
    let w (k : Nat) : Word := v.data (fr.addrs.getD k 0)
    s.starts n sh = true → (s.core n sh).innermost = some b → (s.core n sh).frames = fr :: r → c.frames = fr :: r → c.det = false →
    (∀ k : Nat, k < 6 → (v.cell (fr.addrs.getD k 0)).bad = false) →
    (v.cell (fr.addrs.getD 2 0 + 1)).bad = false → (v.cell (fr.addrs.getD 4 0 + 1)).bad = false → isTarget (w 0) →
    ∃ u, exec (.frel n f) s = .next u ∧ OnlyCore n v u ∧ c.WentTo u.cores[n] (bits (w 0) 0 57) ∧
      let d := u.cores[n]
      d.p = (c.p.set 15 (v.getPass (fr.addrs.getD 2 0))).set 14 (v.getPass (fr.addrs.getD 4 0)) ∧
      (∀ k, bit d.active k = (bit c.active k && k != b)) ∧ d.frames = r ∧
      (∀ k, k < 72 → bit d.st k =
        if 68 ≤ k ∨ (59 ≤ k ∧ k < 64) ∨ (65 ≤ k ∧ k < 68 ∧ bits (w 1) 65 3 ≠ 7) then bit (w 1) k
        else if k = 64 then bit c.fpown 71 && bits c.fpown 0 52 == c.ctxfp
        else if 55 ≤ k ∧ k < 58 ∧ 1 ≤ b ∧ b ≤ 7 then bit (levelBelow (setBit c.active b false) b) (k - 55)
        else bit c.st k) ∧
      d = { c.bookkept d with p := d.p, st := d.st, active := d.active, frames := d.frames, pageRegs := d.pageRegs }) ∧
  (∀ k : SrcId, k.val < 768 → exec (.sourceRaise k) s = .next (s.raise k.val))

/-- An escalation (R327): level E through EVEC, EP15 and EP14 when ESP names an even place in local memory that no owner guards, with E set and
FPA clear; the core is lost when one of these fails (R328). It rests on the model's choices in log 22. -/
def Obligations.EscalationsReachLevelE : Prop := ∀ (s : State) (n : CoreId) (k : BitVec 8) (f : FaultInfo) (pc : DAddr) (w : Word),
  let c := s.cores[n]
  let lo := c.esp - 12
  let ok : Prop := bit c.active 17 = false ∧ bit c.esp 0 = false ∧ rangeInMem lo 12 = true ∧ c.ep15.valid = true ∧ c.ep14.valid = true ∧
    ∀ i : Nat, i < 12 → regionOf (lo + BitVec.ofNat 52 i) = .plain → s.guarded (offsetOf (lo + BitVec.ofNat 52 i)) = false
  let u := s.escalate n k f pc w
  (ok → c.det = false → c.storeBuf = [] → OnlyCore n s u ∧
    let d := u.cores[n]
    d.pc = c.evec ∧ d.p = (c.p.set 15 c.ep15).set 14 c.ep14 ∧ d.escCnt = c.escCnt + 1 ∧
    (∀ j, bit d.active j = (bit c.active j || j == 17)) ∧ (∀ j, bit d.st j = (bit c.st j && j != 64)) ∧
    d = { c.bookkept d with
      p := d.p, st := d.st, active := d.active, escCnt := d.escCnt, frames := d.frames, storeBuf := d.storeBuf, pageRegs := d.pageRegs }) ∧
  (¬ok → u.cores[n].run = 4 ∧ u.cores[n].storeBuf = [])

/-- How a fault or a machine check with RETRY is taken (R319, R325, R326, R328): through FVEC of the current level; with FA of that level set, as
a double fault, which counts; with DF set, as an escalation THIRD; with E set, the core is lost. An entry that waits for the word at its vector
(R321) is none yet. It rests on the model's choices in log 12, 22. -/
def Obligations.FaultsChooseTheirEntry : Prop := ∀ (s : State) (n : CoreId) (f : FaultInfo) (w : Word),
  let c := s.cores[n]
  let i (k : EntryKind) : EntryInfo := { kind := k, level := c.lvl, fault := f, source := 0, merged := 0, pc := c.pc, instr := w }
  (bit c.active 17 = false → bit c.active 16 = false → bit c.active (8 + c.lvl.toNat) = false → s.takeFault n f w = s.tryEnter n (i .fault)) ∧
  (bit c.active 17 = false → bit c.active 16 = false → bit c.active (8 + c.lvl.toNat) = true →
    s.takeFault n f w = ({ s with cores := s.cores.set n { c with dfCnt := c.dfCnt + 1 } } : State).tryEnter n (i .double)) ∧
  (bit c.active 17 = false → bit c.active 16 = true → ∃ u, (s.takeFault n f w).1 = some u ∧ u.cores[n].escCnt = c.escCnt + 1) ∧
  (bit c.active 17 = true → ∃ u, (s.takeFault n f w).1 = some u ∧ u.cores[n].run = 4 ∧ u.cores[n].storeBuf = [] ∧ u.cores[n].g = c.g ∧
    u.cores[n].p = c.p)

/-! ## Decimal arithmetic -/

/-- The decimal register instructions (R77-R80, R84-R87, R92-R97) on valid packed sources: the exact result, rounded and fitted, in G[rd] or
in a pair, with its sign and flags; nothing else changes. -/
def Obligations.DecimalRegisterResults : Prop := ∀ (s : State) (n : CoreId) (f : FmtA),
  let pairOf (d : Core) (rd : BitVec 5) : List (BitVec 4) := posList (d.gr rd) ++ posList (d.gr (rd + 1))
  let kept (c d : Core) (rd : BitVec 5) : Prop := c.OnlyGSt d ∧ c.WentOn d 1 ∧ ∀ i, i ≠ rd → i ≠ rd + 1 → d.gr i = c.gr i
  let on2 (sh : Shape) (P : Core → List (BitVec 4) → List (BitVec 4) → Prop) : Prop :=
    let c := s.core n sh
    let a := posList (c.gr f.ra)
    let b := posList (c.gr f.rb)
    isPacked a → isPacked b → P c a b
  let pair := bit f.fn 10
  on2 (shapeDadd f) (fun _ a b => let v := fieldInt a + fieldInt b
    Completes (.dadd n f) s n (shapeDadd f) (fun c d => c.DecGot d f.rd v.natAbs (decide (v < 0)) false)) ∧
  on2 (shapeDsub f) (fun _ a b => let v := fieldInt a - fieldInt b
    Completes (.dsub n f) s n (shapeDsub f) (fun c d => c.DecGot d f.rd v.natAbs (decide (v < 0)) false)) ∧
  on2 (shapeDmul f) (fun _ a b => let v := fieldInt a * fieldInt b
    Completes (.dmul n f) s n (shapeDmul f) (fun c d => PackedAs (pairOf d f.rd) 35 v.natAbs (signOf 35 v.natAbs (decide (v < 0))) ∧
      kept c d f.rd ∧ c.Flags d (decide (v < 0)) (v == 0) false false)) ∧
  on2 (shapeDcmp f) (fun _ a b => let x := fieldInt a
    let y := fieldInt b
    Completes (.dcmp n f) s n (shapeDcmp f) (fun c d => c.OnlyGSt d ∧ c.WentOn d 1 ∧ d.g = c.g ∧
      c.Flags d (decide (x < y)) (x == y) false (decide (y ≤ x)))) ∧
  (let c := s.core n (shapeDdiv f)
   let a := c.decSource f.ra pair
   let b := posList (c.gr f.rb)
   let x := fieldInt a
   let y := fieldInt b
   isPacked a → isPacked b → y ≠ 0 →
   (bit f.fn 3 = false → Completes (.ddiv n f) s n (shapeDdiv f) (fun c d =>
      PackedAs (posList (d.gr f.rd)) 17 (x.natAbs / y.natAbs) (signOf 17 (x.natAbs / y.natAbs) (packedNeg a != packedNeg b)) ∧
      PackedAs (posList (d.gr (f.rd + 1))) 17 (x.natAbs % y.natAbs) (signOf 17 (x.natAbs % y.natAbs) (packedNeg a)) ∧
      kept c d f.rd ∧ c.DecFlags d 17 (x.natAbs / y.natAbs) (packedNeg a != packedNeg b) false)) ∧
   (bit f.fn 3 = true → Completes (.ddiv n f) s n (shapeDdiv f) (fun c d => ∃ m,
      RoundsTo (c.rounding (bits f.fn 0 3)) (packedNeg a != packedNeg b) x.natAbs y.natAbs m ∧
      c.DecGot d f.rd m (packedNeg a != packedNeg b) (decide (x.natAbs % y.natAbs ≠ 0))))) ∧
  (let c := s.core n (shapeDshr f)
   let a := c.decSource f.ra pair
   let k : Int := if f.rb = 0 then (bits f.fn 3 7).toInt else (c.gr f.rb).toInt
   let x := (fieldInt a).natAbs
   isPacked a →
   (0 ≤ k → Completes (.dshr n f) s n (shapeDshr f) (fun c d => ∃ m,
      RoundsTo (c.rounding (bits f.fn 0 3)) (packedNeg a) x (10 ^ k.toNat) m ∧
      c.DecGot d f.rd m (packedNeg a) (decide (x % 10 ^ k.toNat ≠ 0)))) ∧
   (k < 0 → Completes (.dshr n f) s n (shapeDshr f) (fun c d => c.DecGot d f.rd (x * 10 ^ (-k).toNat) (packedNeg a) false))) ∧
  (let v := ((s.core n (shapeCvbd f)).gr f.ra).toInt
   (pair = false → Completes (.cvbd n f) s n (shapeCvbd f) (fun c d => c.DecGot d f.rd v.natAbs (decide (v < 0)) false)) ∧
   (pair = true → Completes (.cvbd n f) s n (shapeCvbd f) (fun c d =>
      PackedAs (pairOf d f.rd) 35 v.natAbs (signOf 35 v.natAbs (decide (v < 0))) ∧ kept c d f.rd ∧
      c.Flags d (decide (v < 0)) (v == 0) false false))) ∧
  (let a := (s.core n (shapeCvdb f)).decSource f.ra pair
   let x := fieldInt a
   isPacked a → Completes (.cvdb n f) s n (shapeCvdb f) (fun c d =>
     let w := BitVec.ofInt 72 x
     c.Computed d f.rd w w.msb (w == 0) (decide (x < -2 ^ 71 ∨ 2 ^ 71 ≤ x)) false))

/-- The storage-to-storage decimal arithmetic (R81, R82, R84-R87, R98) on valid fields: operand 1 becomes the exact result, rounded and fitted
to its digits, with operand 2 scaled by the count in G2; DCMP.M sets flags alone. -/
def Obligations.DecimalStorageResults : Prop := ∀ (s t : State) (n : CoreId) (f : FmtS) (r1 : List WordRef) (l1 l2 : List (BitVec 4)),
  let k (sh : Shape) : Int := (bits ((s.core n sh).gr 2) 0 7).toInt
  let up (sh : Shape) : Nat := 10 ^ (k sh).toNat
  let dn (sh : Shape) : Nat := 10 ^ (-(k sh)).toNat
  let d := f.l1.toNat
  let ready (sh : Shape) (need : BitVec 12) (a : Acc) : Prop := OperandsPass s n f sh need a r1 l1 l2 t ∧ isPacked l2 ∧
    1 ≤ f.l1.toNat ∧ 1 ≤ f.l2.toNat ∧ ((s.core n sh).gr 2).toNat < 2 ^ 7
  let writes (i : Instr) (neg : Bool) (num den : Nat) : Prop := t.storable n r1 → ∃ (m : Nat) (l : List (BitVec 4)),
    RoundsTo (t.cores[n].rounding f.rnd) neg num den m ∧ PackedAs l d m (signOf d m neg) ∧
    StoresField i s t n r1 l id (fun c x => c.DecFlags x d m neg (decide (num % den ≠ 0)))
  (let sh := shapeDaddM f
   let v := fieldInt l1 * up sh + fieldInt l2 * dn sh
   ready sh permUpdate .update → isPacked l1 → writes (.daddM n f) (decide (v < 0)) v.natAbs (up sh)) ∧
  (let sh := shapeDsubM f
   let v := fieldInt l1 * up sh - fieldInt l2 * dn sh
   ready sh permUpdate .update → isPacked l1 → writes (.dsubM n f) (decide (v < 0)) v.natAbs (up sh)) ∧
  (let sh := shapeDmulM f
   ready sh permUpdate .update → isPacked l1 →
   writes (.dmulM n f) (packedNeg l1 != packedNeg l2) ((fieldInt l1).natAbs * (fieldInt l2).natAbs * dn sh) (up sh)) ∧
  (let sh := shapeDdivM f
   ready sh permUpdate .update → isPacked l1 → fieldInt l2 ≠ 0 →
   writes (.ddivM n f) (packedNeg l1 != packedNeg l2) ((fieldInt l1).natAbs * up sh) ((fieldInt l2).natAbs * dn sh)) ∧
  (let sh := shapeDshrM f
   ready sh permStore .store → writes (.dshrM n f) (packedNeg l2) ((fieldInt l2).natAbs * dn sh) (up sh)) ∧
  (let sh := shapeDcmpM f
   let x := fieldInt l1 * up sh
   let y := fieldInt l2 * dn sh
   ready sh permLoad .load → isPacked l1 → ∃ u, exec (.dcmpM n f) s = .next u ∧ OnlyCore n t u ∧ t.cores[n].WentOn u.cores[n] 2 ∧
     u.cores[n] = { t.cores[n].bookkept u.cores[n] with st := u.cores[n].st } ∧
     t.cores[n].Flags u.cores[n] (decide (x < y)) (x == y) false (decide (y ≤ x)))

/-- PACK, UNPK and CVTX (R100-R105) on valid operands: zoned octets to a packed field and back, and text to a packed field and back, with the
sign, the flags and G3 that the rules give. -/
def Obligations.DecimalConversions : Prop := ∀ (s t : State) (n : CoreId) (f : FmtS) (r1 : List WordRef) (l1 l2 : List (BitVec 4)),
  let d1 := f.l1.toNat
  let o1 := (d1 + 1) / 2
  let o2 := (f.l2.toNat + 1) / 2
  let ea1 (sh : Shape) : DAddr := daAdd (bits ((s.core n sh).gr f.b1) 0 57) f.d1.toInt
  let even2 (sh : Shape) : Prop := (f.l2.toNat + 1) % 2 = 0 ∧ ∀ t1 r, operand n 1 f.p1 permStore .store (ea1 sh) (d1 + 1) (s.fetched n sh) = .ok r t1 →
    daPos (daAdd (bits (t1.cores[n].gr f.b2) 0 57) f.d2.toInt) % 2 = 0
  let ready (sh : Shape) : Prop := OperandsPass s n f sh permStore .store r1 l1 l2 t ∧ t.storable n r1
  let num (l : List (BitVec 4)) : Nat := digitsVal ((List.range (l.length / 2)).map fun j => l.getD (2 * j + 1) 0)
  (let sh := shapePack f
   let z := l2.getD (2 * o2 - 2) 0
   let sign : BitVec 4 := if z = 0xF ∨ z = 3 then 0xF else signOf d1 (num l2) (z == 0xB || z == 0xD)
   ready sh → even2 sh → 1 ≤ d1 → l2.length = 2 * o2 →
   (∀ j : Nat, j < o2 → (l2.getD (2 * j + 1) 0).toNat ≤ 9 ∧
     (if j + 1 = o2 then l2.getD (2 * j) 0 = 3 ∨ 10 ≤ (l2.getD (2 * j) 0).toNat else l2.getD (2 * j) 0 = 3 ∨ l2.getD (2 * j) 0 = 0xF)) →
   ∃ l, PackedAs l d1 (num l2) sign ∧ StoresField (.pack n f) s t n r1 l id (fun c x => c.DecFlags x d1 (num l2) (z == 0xB || z == 0xD) false)) ∧
  (let sh := shapeUnpk f
   let m := (fieldInt l2).natAbs
   ready sh → 1 ≤ f.l2.toNat → (d1 + 1) % 2 = 0 → daPos (ea1 sh) % 2 = 0 → isPacked l2 →
   ∃ l : List (BitVec 4), l.length = 2 * o1 ∧ num l = m % 10 ^ o1 ∧ (∀ j : Nat, j < o1 → (l.getD (2 * j + 1) 0).toNat ≤ 9 ∧
       l.getD (2 * j) 0 = if j + 1 = o1 then (if l2.getLastD 0 = 0xF then 0xF else signOf o1 m (packedNeg l2)) else 3) ∧
     StoresField (.unpk n f) s t n r1 l id (fun c x => c.DecFlags x o1 m (packedNeg l2) false)) ∧
  (let sh := shapeCvtx f
   let g := (s.core n sh).gr 2
   let sc := (bits g 0 7).toNat
   let chars (l : List (BitVec 4)) : List (BitVec 8) := l.map fun x => (3 : BitVec 4) ++ x
   (∀ (w fr : List (BitVec 4)) (i j : Nat) (sg : Option Bool) (pt : Bool),
     ready sh → even2 sh → 1 ≤ d1 → g.toNat < 2 ^ 7 → sc ≤ 63 → (∀ x ∈ w ++ fr, x.toNat ≤ 9) → w ++ fr ≠ [] → (pt = false → fr = []) →
     octetsAt l2 = List.replicate i (0x20 : BitVec 8) ++ (match sg with
       | none => ([] : List (BitVec 8))
       | some true => [0x2D]
       | some false => [0x2B]) ++ chars w ++ (if pt then (0x2E : BitVec 8) :: chars fr else []) ++ List.replicate j 0x20 → l2.length = 2 * o2 →
     let neg := sg == some true
     let nu := digitsVal (w ++ fr) * 10 ^ (sc - fr.length)
     let de := 10 ^ (fr.length - sc)
     ∃ m l, RoundsTo (t.cores[n].rounding f.rnd) neg nu de m ∧ PackedAs l d1 m (if sg = none then 0xF else signOf d1 m neg) ∧
       StoresField (.cvtx n f) s t n r1 l (fun c => c.setG 3 0) (fun c x => c.DecFlags x d1 m neg (decide (nu % de ≠ 0)))) ∧
   (ready sh → 1 ≤ f.l2.toNat → (d1 + 1) % 2 = 0 → daPos (ea1 sh) % 2 = 0 → isPacked l2 → g.toNat < 2 ^ 8 → bit g 7 = true → sc ≤ 63 → f.rnd = 0 →
     let m := (fieldInt l2).natAbs
     ∃ w fr : List (BitVec 4), (∀ x ∈ w ++ fr, x.toNat ≤ 9) ∧ digitsVal (w ++ fr) = m ∧ fr.length = sc ∧ w ≠ [] ∧ (1 < w.length → w.headD 0 ≠ 0) ∧
       let tx := (if packedNeg l2 ∧ m ≠ 0 then [(0x2D : BitVec 8)] else []) ++ chars w ++ (if sc = 0 then [] else (0x2E : BitVec 8) :: chars fr)
       let out := if tx.length ≤ o1 then List.replicate (o1 - tx.length) 0x20 ++ tx else List.replicate o1 0x2A
       ∃ l, octetsAt l = out ∧ l.length = 2 * o1 ∧ StoresField (.cvtx n f) s t n r1 l (fun c => c.setG 3 0)
         (fun c x => c.Flags x (packedNeg l2 && m != 0) (m == 0) (decide (o1 < tx.length)) false)))

/-! ## Strings -/

/-- One unit of MVS, CLS, TRX and TSC (R115, R121-R125): the positions of operand 1 in one word, copied, compared, translated or looked up, with
the progress in G2-G7, and the results once operand 1 is done. It rests on the model's choices in log 1, 4, 48. -/
def Obligations.MoveCompareTranslateUnits : Prop := ∀ (s t0 : State) (n : CoreId) (f : FmtS) (p : Prog) (h : Option LongHold),
  let sh := shapeLong f
  let first := min p.n1 (18 - daPos p.a1)
  let runs (i : Instr) (t : State) (P : Core → Core → Prop) : Prop := ∃ u, exec i s = .next u ∧ OnlyCore n t u ∧
    (∀ a, u.drainedCell n a = t.drainedCell n a) ∧ P t.cores[n] u.cores[n]
  (∀ (t1 t : State) (rs : List WordRef) (l : List (BitVec 4)), LongStarts s n f mvsKind p h t0 →
    let pad := bits p.par 0 8
    let down := bit p.par 8
    let m := if down then min p.n1 (daPos (daAdd p.a1 ((p.n1 : Int) - 1)) + 1) else first
    let i := if down then p.n1 - m else 0
    let k := min (p.n2 - i) m
    let da := daAdd p.a1 i
    UnitReads2 n f.p2 (h.bind (·.word)) (daAdd p.a2 i) k t0 l t1 → daPos p.a1 < 18 → 1 ≤ p.n1 →
    unitRefs n 1 f.p1 .store da m t1 = .ok rs t → t.storable n rs →
    ∃ u, exec (.mvs n f) s = .next u ∧ OnlyCore n t u ∧ StoredTo n t u rs (scatterPos rs (l ++ padAt pad (daAdd da k) (m - k))) ∧
      t.cores[n].Progressed u.cores[n] 0x82 (decide (p.n1 = m)) false 0
        (if down then { p with n1 := p.n1 - m, n2 := min p.n2 (p.n1 - m) }
         else { p with a1 := daAdd p.a1 m, a2 := daAdd p.a2 k, n1 := p.n1 - m, n2 := p.n2 - k }) Core.SameSt) ∧
  (∀ (t1 t : State) (rs1 : List WordRef) (x y : List (BitVec 4)), LongStarts s n f clsKind p h t0 →
    let pad := bits p.par 0 8
    let m := if p.n1 = 0 then min p.n2 (18 - daPos p.a2) else first
    let k1 := min p.n1 m
    let k2 := min p.n2 m
    (k1 = 0 → x = [] ∧ t1 = t0) → (k1 ≠ 0 → UnitReads n f.p1 .load p.a1 k1 t0 rs1 x t1) →
    UnitReads2 n f.p2 (h.bind (·.word)) p.a2 k2 t1 y t → daPos p.a1 < 18 → daPos p.a2 < 18 →
    let a := x ++ padAt pad (daAdd p.a2 k1) (m - k1)
    let b := y ++ padAt pad (daAdd p.a1 k2) (m - k2)
    ∃ d, d ≤ m ∧ (∀ i : Nat, i < d → a[i]? = b[i]?) ∧ (d < m → a.getD d 0 ≠ b.getD d 0) ∧
      let q : Prog :=
        { p with
          a1 := daAdd p.a1 (min d k1), a2 := daAdd p.a2 (min d k2), n1 := p.n1 - min d k1, n2 := p.n2 - min d k2, g3 := p.g3 + BitVec.ofNat 72 d }
      let less := decide ((a.getD d 0).toNat < (b.getD d 0).toNat)
      runs (.cls n f) t fun c e => c.Progressed e 0x83 (decide (d < m) || decide (q.n1 = 0 ∧ q.n2 = 0)) false 0 q
        (fun c e => if d < m then c.Flags e less false false (!less) else c.Flags e false true false true)) ∧
  (∀ (t1 t : State) (rs : List WordRef) (l : List (BitVec 4)) (es : List (BitVec 8)), LongStarts s n f trxKind p h t0 →
    UnitReads n f.p1 .update p.a1 first t0 rs l t1 → mapL (lookup n f p.a2) (octetsAt l) t1 = .ok es t → t.storable n rs →
    ∃ u, exec (.trx n f) s = .next u ∧ OnlyCore n t u ∧ StoredTo n t u rs (scatterPos rs (es.flatMap fun o => [bits o 4 4, bits o 0 4])) ∧
      t.cores[n].Progressed u.cores[n] 0x84 (decide (p.n1 = first)) false 0 { p with a1 := daAdd p.a1 first, n1 := p.n1 - first } Core.SameSt) ∧
  (∀ (t1 t : State) (rs : List WordRef) (l : List (BitVec 4)) (i : Nat) (es : List (BitVec 8)), LongStarts s n f tscKind p h t0 →
    UnitReads n f.p1 .load p.a1 first t0 rs l t1 → i ≤ first / 2 → first % 2 = 0 →
    mapL (lookup n f p.a2) ((octetsAt l).take (min (i + 1) (first / 2))) t1 = .ok es t → (∀ j : Nat, j < i → es.getD j 0 = 0) →
    (i < first / 2 → es.getD i 0 ≠ 0) → t.cores[n].det = false →
    ∃ u, exec (.tsc n f) s = .next u ∧ OnlyCore n t u ∧
      (i < first / 2 → t.cores[n].Progressed u.cores[n] 0x85 true false ((es.getD i 0).setWidth 72)
        { p with a1 := daAdd p.a1 (2 * i), n1 := p.n1 - 2 * i, g3 := daReg (daAdd p.a1 (2 * i)) } (fun c e => c.Flags e false false false true)) ∧
      (i = first / 2 → t.cores[n].Progressed u.cores[n] 0x85 (decide (p.n1 = first)) false 0
        { p with a1 := daAdd p.a1 first, n1 := p.n1 - first, g3 := if p.n1 = first then 0 else p.g3 } (fun c e => c.Flags e false true false false)))

/-- One unit of SCD and VDG (R115, R126, R127): the octets of a word scanned forward or backward for a match, or its positions checked against a
format, up to the first that matches or fails. It rests on the model's choices in log 1, 4. -/
def Obligations.ScanAndValidateUnits : Prop := ∀ (s t0 t : State) (n : CoreId) (f : FmtS) (p : Prog) (h : Option LongHold) (rs : List WordRef)
    (l : List (BitVec 4)) (i : Nat),
  let first := min p.n1 (18 - daPos p.a1)
  (LongStarts s n f scdKind p h t0 →
    let back := bit p.par 17
    let m := if back then min p.n1 (daPos (daAdd p.a1 ((p.n1 : Int) - 1)) + 1) else first
    UnitReads n f.p1 .load (if back then daAdd p.a1 ((p.n1 : Int) - m) else p.a1) m t0 rs l t → m % 2 = 0 → 1 ≤ p.n1 → daPos p.a1 < 18 →
    let os := if back then (octetsAt l).reverse else octetsAt l
    let hit (o : BitVec 8) : Prop := (o = bits p.par 0 8 ∨ o = bits p.par 8 8) ↔ bit p.par 16 = false
    i ≤ m / 2 → (∀ j : Nat, j < i → ¬ hit (os.getD j 0)) → (i < m / 2 → hit (os.getD i 0)) →
    ∃ u, exec (.scd n f) s = .next u ∧ OnlyCore n t u ∧
      (i < m / 2 → t.cores[n].Progressed u.cores[n] 0x86 true true 0
        { p with a1 := if back then p.a1 else daAdd p.a1 (2 * i), n1 := p.n1 - 2 * i,
                 g3 := daReg (if back then daAdd p.a1 (((p.n1 - 2 * i : Nat) : Int) - 2) else daAdd p.a1 (2 * i)) }
        (fun c e => c.Flags e false false false true)) ∧
      (i = m / 2 → t.cores[n].Progressed u.cores[n] 0x86 (decide (p.n1 = m)) true 0
        { p with a1 := if back then p.a1 else daAdd p.a1 m, n1 := p.n1 - m, g3 := if p.n1 = m then 0 else p.g3 }
        (fun c e => c.Flags e false true false false))) ∧
  (LongStarts s n f vdgKind p h t0 → UnitReads n f.p1 .load p.a1 first t0 rs l t →
    let fmt := (bits p.par 0 2).toNat
    let last := decide (p.n1 = first)
    let octets := fmt = 1 ∨ fmt = 2
    let x (j : Nat) : Nat := (l.getD j 0).toNat
    let good (j : Nat) : Prop := match fmt with
      | 0 => if last = true ∧ j + 1 = first then 10 ≤ x j else x j ≤ 9
      | 1 => x (j + 1) ≤ 9 ∧ (x j = 3 ∨ if last = true ∧ j + 2 = first then 10 ≤ x j else x j = 15)
      | 2 => x j = 3 ∧ x (j + 1) ≤ 9
      | _ => x j ≤ 9
    let digit (j : Nat) : Prop := match fmt with
      | 0 => ¬(last = true ∧ j + 1 = first)
      | 1 => j % 2 = 1
      | _ => False
    let sign := if fmt = 0 then l.getD (first - 1) 0 else if fmt = 1 then l.getD (first - 2) 0 else 0xC
    1 ≤ first → i ≤ first → (octets → i % 2 = 0 ∧ first % 2 = 0) → (∀ j : Nat, j < i → (octets → j % 2 = 0) → good j) → (i < first → ¬ good i) →
    ∃ u, exec (.vdg n f) s = .next u ∧ OnlyCore n t u ∧
      (i < first → t.cores[n].Progressed u.cores[n] 0x87 true true 0
        { p with a1 := daAdd p.a1 i, n1 := p.n1 - i, g3 := p.g3 + BitVec.ofNat 72 (i + 1) } (fun c e => c.Flags e false false true false)) ∧
      (i = first → ∃ nz, (nz = true ↔ bit p.par 8 = true ∨ ∃ j : Nat, j < first ∧ digit j ∧ x j ≠ 0) ∧
        t.cores[n].Progressed u.cores[n] 0x87 last true 0
          { p with a1 := daAdd p.a1 first, n1 := p.n1 - first, g3 := if last then 0 else p.g3 + BitVec.ofNat 72 first, par := setBit p.par 8 nz }
          (fun c e => c.Flags e ((sign == 0xB || sign == 0xD) && nz) true false false)))

/-- EDIT and EDMK (R115, R129-R135): a unit writes the result octets of its pattern octets and keeps the state in G2-G7; and each pattern octet
writes, takes a digit and changes significance as the tables of R129 and R131 say. It rests on the model's choices in log 1, 4. -/
def Obligations.EditUnits : Prop :=
  (∀ (s t0 t1 t2 t : State) (n : CoreId) (f : FmtS) (p : Prog) (h : Option LongHold) (rs : List WordRef) (l ds : List (BitVec 4))
      (wd : Option (WAddr × Word)) (e : EditSt) (out : List (BitVec 8)),
    let first := min p.n1 (18 - daPos p.a1)
    let drem := (bits p.par 8 6).toNat
    let open_ := bit p.par 14 && decide (drem ≠ 0)
    let unit (i : Instr) (op : BitVec 8) (mark : Bool) : Prop :=
      LongStarts s n f (editKind op) p h t0 → UnitReads n f.p1 .update p.a1 first t0 rs l t1 →
      (∀ x, h = some x → ds = x.digits ∧ wd = x.word ∧ t2 = t1) →
      (h = none → open_ = true → ∃ dl, readSource n f p.a2 drem (fieldWords (drem + 1) p.a2 (drem + 1)) none [] t1 = .ok (dl, wd) t2 ∧ ds = dl.dropLast) →
      (h = none → open_ = false → ds = [] ∧ wd = none ∧ t2 = t1) →
      editRun n f mark (daAdd p.a1 first) (p.n1 - first) (octetsAt l) p.a1
        { fill := bits p.par 0 8, drem := drem, fld := bit p.par 14, neg := bit p.par 15, sig := bit p.par 16, zf := bit p.par 17,
          a2 := p.a2, n2 := p.n2, digits := ds, mark := p.g3, word := wd, opened := 0 } [] t2 = .ok (e, out) t →
      t.storable n rs → ∃ u, exec i s = .next u ∧ OnlyCore n t u ∧ StoredTo n t u rs (scatterPos rs (out.flatMap fun o => [bits o 4 4, bits o 0 4])) ∧
        t.cores[n].Progressed u.cores[n] op (decide (p.n1 = first)) false 0
          { par := e.par, g3 := e.mark, a1 := daAdd p.a1 first, a2 := e.a2, n1 := p.n1 - first, n2 := e.n2 }
          (fun c x => c.Flags x e.neg e.zf false false)
    unit (.edit n f) 0x80 false ∧ unit (.edmk n f) 0x81 true) ∧
  (∀ (s : State) (e : EditSt) (mark : Bool) (o : BitVec 8) (at_ : DAddr), (o.toNat < 0x18 ∨ 0x1C < o.toNat →
      editOctet e mark o at_ s = .ok (e, if e.sig then o else e.fill) s) ∧
    editOctet e mark 0x1A at_ s = .ok ({ e with sig := false, fld := false }, e.fill) s ∧
    editOctet e mark 0x1B at_ s = .ok (e, if e.neg then 0x2D else e.fill) s ∧
    editOctet e mark 0x1C at_ s = .ok (e, if e.neg then 0x2D else 0x2B) s ∧
    (∀ (keep : Bool) (d : BitVec 4) (r : List (BitVec 4)), e.digits = d :: r → d.toNat ≤ 9 → 1 ≤ e.drem →
      let fin := decide (e.drem = 1)
      let begins := !e.sig && d != 0
      editOctet e mark (if keep then 0x19 else 0x18) at_ s =
        .ok ({ e with
            digits := r, drem := e.drem - 1, a2 := if fin then daAdd (daAdd e.a2 1) 1 else daAdd e.a2 1, n2 := if fin then e.n2 - 1 - 1 else e.n2 - 1,
            sig := if fin then e.neg else e.sig || d != 0 || keep, mark := if mark && begins then daReg at_ else e.mark },
          if e.sig || d != 0 then (3 : BitVec 4) ++ d else e.fill) s) ∧
    (e.drem = 0 → editOctet e mark 0x18 at_ s = .error (.fault { cls := 20 }) s ∧ editOctet e mark 0x19 at_ s = .error (.fault { cls := 20 }) s))

/-! ## Posting -/

/-- POST and COMMIT (R147, R150, R156, R191): with fewer than four outstanding, the stores of the core leave, and the vector or block that was
read is given to the sequencer with the place of its completion slot; G[rt] waits for the completion word. It rests on the model's choices in log
4, 7. -/
def Obligations.RequestsReachTheSequencer : Prop := ∀ (s t v : State) (n : CoreId) (f : FmtM) (ws : List Word) (slot : WAddr),
  let issues (i : Instr) (sh : Shape) (commit : Bool) (read : Reader → DAddr → M (List Word × WAddr)) : Prop :=
    let c := s.core n sh
    t = (s.fetched n sh).drainAll n → s.runs n sh = true → c.posts.length < 4 → isDigitAddr (t.cores[n].gr f.rb) →
    daPos (t.cores[n].ea f) = 0 → read { x := .core n 1, pass := c.pr f.pr, preg := f.pr } (t.cores[n].ea f) t = .ok (ws, slot) v →
    ∃ u, exec i s = .next u ∧
      u.led = { v.led with
        tickets := v.led.tickets + 1,
        arrivals := v.led.arrivals ++
          [{ ticket := v.led.tickets + 1, issuer := .core n f.rt, commit := commit, slot := slot, words := ws,
             since := v.now, checked := false }] } ∧
      u.cores[n] = { v.cores[n].bookkept u.cores[n] with posts := v.cores[n].posts ++ [{ rt := f.rt, ticket := v.led.tickets + 1 }] } ∧
      v.cores[n].WentOn u.cores[n] 1 ∧ u = { v with led := u.led, cores := v.cores.set n u.cores[n], free := u.free }
  issues (.post n f) (shapePost f) false readVector ∧ issues (.commit n f) (shapeCommit f) true readBlock

/-- The vector checks of R152, items 1 to 4, in their order: BAD HEADER, TOO MANY PAIRS, the leg checks, and UNBALANCED, which asks that the
amount legs of every CUR sum to exactly zero. -/
def Obligations.VectorChecksInOrder : Prop := ∀ (s : State) (r : PostReq),
  let header : Prop := bits (r.word 1) 68 4 = 1 ∧ bits (r.word 0) 0 8 = 0
  let pairs := (r.legs.map fun l => l0Pair l.1).eraseDups.length
  let sound : Prop := ∀ x ∈ s.legChecks [] r.legs, x = 0
  let sum (cur : BitVec 12) : Int := ((r.legs.filter fun l => l0Op l.1 == 0 && l0Cur l.1 == cur).map fun l => fieldInt (posList l.2)).sum
  (¬header → (s.vectorChecks r).1 = some (0x26, 0)) ∧
  (header → 4 < pairs → (s.vectorChecks r).1 = some (0x22, 0)) ∧
  (header → pairs ≤ 4 → ¬sound → ∃ k : Nat, k < r.legs.length ∧ (∀ j : Nat, j < k → (s.legChecks [] r.legs).getD j 0 = 0) ∧
    (s.legChecks [] r.legs).getD k 0 ≠ 0 ∧ (s.vectorChecks r).1 = some ((s.legChecks [] r.legs).getD k 0, BitVec.ofNat 4 k)) ∧
  (header → pairs ≤ 4 → sound → r.home = none → (∃ cur, sum cur ≠ 0) → (s.vectorChecks r).1 = some (0x10, 0)) ∧
  (header → pairs ≤ 4 → sound → (∀ cur, sum cur = 0) → (s.vectorChecks r).1 = none)

/-- SEQUENCE_ASSIGN, DUPLICATE_RESOLVE and JOURNAL_FULL (R149, R151, R157, R162, R173, R174, R187, R189) on the oldest waiting request, when no decision
waits: the class N status of the role, the answer with DUP, the wait for a posting in flight, the next sequence number with its ring space, the wait
for ring room, the hash backlog or a rule write in doubt, or JOURNAL FULL. It rests on the model's choices in log 17, 50. -/
def Obligations.TheSequencerTakesRequests : Prop := ∀ (s : State) (r : PostReq) (rest : List PostReq),
  let answered (l : Ledger) (r : PostReq) (w : Word) : Ledger := { l with done := l.done ++ [{ req := r, word := w, final := false }] }
  let d : Ledger := { s.led with arrivals := rest }
  let sequencing : Prop := (s.ws.role = 1 ∨ s.ws.role = 3) ∧ bit s.applied.peCtl 0 = true
  let notseq (l : Ledger) : Ledger := { l with notseq := if r.commit then l.notseq else l.notseq + 1 }
  (s.led.decisions = [] → s.led.arrivals = r :: rest → r.home = none → r.checked = false → s.ws.role.toNat < 6 → ¬sequencing →
    ∃ st, exec .sequenceAssign s = .next { s with led := answered (notseq d) r (at' (BitVec.ofNat 8 st) 64) } ∧
      (s.ws.role = 0 → st = 0x41) ∧ (s.ws.role = 2 → st = 0x42) ∧ (s.ws.role = 4 ∨ s.ws.role = 5 → st = 0x43) ∧
      (s.ws.role = 1 ∨ s.ws.role = 3 → st = 0x45)) ∧
  (s.led.decisions = [] → s.led.arrivals = r :: rest → r.checked = false → r.commit = false → r.ref ≠ 0 → sequencing →
    (∀ k, s.inFlight r.ref = some k →
      exec .sequenceAssign s = .next { s with led := { d with dups := s.led.dups ++ [{ req := r, on := k, word := none }] } }) ∧
    (∀ w, s.inFlight r.ref = none → s.filterFind r.ref = some w →
      exec .sequenceAssign s = .next { s with led := answered { d with dup := s.led.dup + 1 } r (setBit w 11 true) })) ∧
  (s.led.decisions = [] → s.led.arrivals = r :: rest → (r.commit = true → r.home = none) → (s.ws.role = 1 ∨ s.ws.role = 3) → (r.checked = true ∨ (sequencing ∧ (r.commit = true ∨ r.ref = 0 ∨
      (s.inFlight r.ref = none ∧ s.filterFind r.ref = none)))) →
    let early := if r.commit then none else (s.vectorChecks r).1
    let remote := r.legs.any fun l => l0Pair l.1 != s.applied.lbPair
    let prepare := early.isNone && !r.commit && (r.home.isSome || remote)
    let len := if r.commit then 4 + r.count else 4 + 2 * r.count
    let need := len + (if s.led.seqNext.toNat % 64 = 0 then 12 else 0)
    let waits : State := { s with led := { s.led with arrivals := { r with checked := true } :: rest } }
    ((need + if prepare then 4 else 0 : Nat) ≤ s.credit → s.hashBacklog < 4096 → s.ruleBarrier = false →
      ∃ u, exec .sequenceAssign s = .next u ∧ u.led.seqNext = s.led.seqNext + 1 ∧ u.led.wpos = s.led.wpos + BitVec.ofNat 64 need ∧
        u.led.arrivals = rest ∧ u.mem = s.mem ∧ u.cores = s.cores ∧
        ∃ f : Flight, u.led.flights = s.led.flights ++ [f] ∧ f.seq = s.led.seqNext ∧ f.pos = s.led.wpos ∧ f.len = len ∧ f.early = early ∧
          f.decided = none ∧ f.prepare = prepare ∧ f.req.words = r.words ∧ f.req.ticket = r.ticket) ∧
    (s.credit < (need + if prepare then 4 else 0 : Nat) ∨ s.ruleBarrier = true → exec .sequenceAssign s = .next waits) ∧
    ((need + if prepare then 4 else 0 : Nat) ≤ s.credit → s.hashBacklog = 4096 → s.ruleBarrier = false →
      exec .sequenceAssign s = .next (if s.led.stalled then waits
        else ({ waits with led := { waits.led with stalled := true, evt := setBit s.led.evt 3 true } } : State).raise 208))) ∧
  (∀ (x : DupWait) (w : Word), s.led.dups.find? (fun y => y.word.isSome) = some x → x.word = some w →
    let l : Ledger := { s.led with dups := s.led.dups.filter fun y => y.req.ticket != x.req.ticket }
    ((bits w 64 8).toNat < 0x40 → exec .duplicateResolve s = .next { s with led := answered { l with dup := s.led.dup + 1 } x.req (setBit w 11 true) }) ∧
    (0x40 ≤ (bits w 64 8).toNat →
      exec .duplicateResolve s = .next { s with led := { l with arrivals := s.led.arrivals ++ [{ x.req with checked := false, since := s.now }] } })) ∧
  (s.led.arrivals = r :: rest → r.checked = true → r.home = none → r.since.toNat + 250 * 2 ^ min 6 (bits s.applied.peCtl 4 3).toNat ≤ s.now.toNat →
    (s.roomless r = false → s.hashBacklog < 4096 → exec .journalFull s = .next s) ∧
    ((s.roomless r = true ∨ s.hashBacklog = 4096) →
      ∃ u, exec .journalFull s = .next u ∧ bit u.led.evt 1 = true ∧ u.led.fullCnt = s.led.fullCnt + 1 ∧ u.mem = s.mem ∧ u.cores = s.cores ∧
        u.led.arrivals = (rest.filter fun x => x.ticket != r.ticket).map (fun x =>
          if r.commit = false ∧ x.commit = false ∧ r.ref ≠ 0 ∧ x.ref = r.ref then { x with since := s.now } else x) ∧
        u.led.done = s.led.done ++ [{ req := r, word := at' (0x40 : BitVec 8) 64, final := false }]))

/-- BANK_RESERVE (R143, R152 item 5, R153, R160): the checks of an amount leg on its cell, in their order, and the new balance; the limits are
read from the cell's rule; a leg on a cell that is in doubt fails at once. It rests on the model's choices in log 17. -/
def Obligations.BanksCheckTheirLegs : Prop := ∀ (s : State) (b : Fin 64) (f : Flight) (k : Nat) (l : Leg),
  s.nextLeg b.val = some (f, k, l) → s.legPoison f.seq l = none →
  let i := l0Ci l.l0
  let c := s.provisional f.seq i
  let rule (j : Nat) : Word := s.data (s.ruleAddr c.rule j)
  let a := packedInt l.l1
  let x := balInt c.bal
  let gives (st : BitVec 8) (bal : Int) : Prop := ∃ g : Leg → Leg, exec (.bankReserve b) s = .next (s.updLeg f.seq k g) ∧
    g l = { l with cur := c.cur, scale := c.scale, res := some st, newBal := bal }
  l0Op l.l0 = 0 →
  if ∃ p ∈ s.led.preps, i ∈ p.cells then gives 0x30 l.newBal
  else if c.state = 3 then gives 0x17 l.newBal
  else if c.state = 0 then gives 0x15 l.newBal
  else if c.state = 2 then gives 0x16 l.newBal
  else if c.cur ≠ l0Cur l.l0 then gives 0x18 l.newBal
  else if 10 ^ 17 ≤ (x + a).natAbs then gives 0x14 (x + a)
  else if c.rule = 0 then gives 0 (x + a)
  else if bit (rule 3) 69 = true ∧ balInt (rule 2) < (a.natAbs : Int) then gives 0x13 (x + a)
  else if bit (rule 3) 71 = true ∧ a < 0 ∧ x + a < balInt (rule 0) then gives 0x11 (x + a)
  else if bit (rule 3) 70 = true ∧ 0 < a ∧ balInt (rule 1) < x + a then gives 0x12 (x + a)
  else gives 0 (x + a)

/-- POSTING_DECISION (R151 stage 6, R179-R183) on a leader, for the oldest undecided posting once every leg has its result: its record in the
ring at its position, and nowhere else; accepted when every leg passes, else rejected with the status of its lowest failing leg. It rests on the
model's choices in log 17. -/
def Obligations.DecisionsAreRecorded : Prop := ∀ (s : State) (f : Flight) (st : BitVec 8) (leg : BitVec 4),
  s.Inv → s.ws.role = 1 → s.led.flights.find? (fun f => f.decided.isNone) = some f → f.kind = .posting → f.prepare = false → f.early = none →
  f.req.home = none → (∀ l ∈ f.legs, l.res.isSome = true) →
  let sts := f.legs.map (legStatus s.applied.lbPair f.legs)
  ((∀ x ∈ sts, x = 0) ∧ st = 0 ∧ leg = 0 ∨ (∃ k : Nat, k < sts.length ∧ (∀ j : Nat, j < k → sts.getD j 0 = 0) ∧ sts.getD k 0 = st ∧ st ≠ 0 ∧ leg = BitVec.ofNat 4 k)) →
  let ws : List Word :=
    [at' (if st = 0 then (1 : BitVec 4) else 2) 68 ||| at' (BitVec.ofNat 4 (f.req.count - 1)) 64 ||| at' st 56 ||| at' leg 52 ||| flagAt f.xp 50 |||
        at' f.seq 0, at' f.req.ref 8, at' (bits f.req.head 48 16) 56 ||| at' (bits f.req.head 0 48) 8,
      at' (if s.led.lastTime.toNat < s.now.toNat then s.now else s.led.lastTime) 8] ++
    f.legs.flatMap fun l => if st = 0 then (l.ent s.applied.lbPair).words else [setBits l.l0 0 8 (legStatus s.applied.lbPair f.legs l), l.l1]
  s.applied.jnRingLog2.toNat ≤ 23 → s.applied.jnRingBase.toNat + 2 ^ s.applied.jnRingLog2.toNat ≤ 2 ^ 24 → ws.length ≤ 2 ^ s.applied.jnRingLog2.toNat →
  ∃ u, exec .postingDecision s = .next u ∧ u.cores = s.cores ∧ u.ws.ahor = s.ws.ahor ∧
    (∀ i : Nat, i < ws.length → u.ringWord (f.pos.toNat + i) = ws.getD i 0) ∧
    (∀ a, (∀ i : Nat, i < ws.length → a ≠ s.ringAddr (f.pos.toNat + i)) → u.data a = s.data a) ∧
    (∀ g ∈ u.led.flights, g.seq = f.seq → g.decided = some (st, leg)) ∧
    u.led.flights.map (fun g => (g.seq, g.legs)) = s.led.flights.map (fun g => (g.seq, g.legs)) ∧
    ∀ r ∈ u.led.recs, r.trailer = false → r.seq = f.seq → r.written = true

/-- An accepted leg applied to its cell (R141, R146, R212): an amount leg leaves the new balance and no other field but LSEQ and PCOUNT; a cell
that already shows the sequence number or a higher one, and a cell in another pair, stay as they are. It rests on the model's choices in log 17.
-/
def Obligations.AcceptedLegsChangeTheirCells : Prop := ∀ (s : State) (seq : BitVec 48) (e : LegEnt),
  let a (k : Nat) : WAddr := s.cellAddr e.ci k
  let l := s.data (a 2)
  s.Inv → s.applied.peCellBase.toNat + 4 * e.ci + 4 ≤ 2 ^ 24 → (∀ k : Nat, k < 4 → (s.cell (a k)).bad = false) →
  let u := s.applyEnt seq e
  (e.rem = true → u = s) ∧
  (e.rem = false → e.op ≠ 2 → seq.toNat ≤ (bits l 24 48).toNat → u = s) ∧
  (e.rem = false → e.op = 0 → (bits l 24 48).toNat < seq.toNat →
    PackedAs (posList (u.data (a 0))) 17 e.newBal.natAbs (signOf 17 e.newBal.natAbs (decide (e.newBal < 0))) ∧ u.data (a 1) = s.data (a 1) ∧
    u.data (a 3) = s.data (a 3) ∧ bits (u.data (a 2)) 24 48 = seq ∧ bits (u.data (a 2)) 0 24 = bits l 0 24 + 1 ∧
    ∀ x, (∀ k : Nat, k < 4 → x ≠ a k) → u.data x = s.data x)

/-- COMPLETION_WORD and TWIN_HANDOVER (R148, R154, R380): the first known word goes to its slot in memory and to G[rt], whose POST is then no
longer outstanding; a slot that takes no store leaves the word in G[rt] and a late store error. In deterministic mode the charge of a late one is
free (log 56). It rests on the model's choices in log 17, 56. -/
def Obligations.CompletionsReachTheirIssuers : Prop := ∀ (s : State) (d : DoneWord) (rest : List DoneWord) (n : CoreId) (rt : BitVec 5),
  s.led.done = d :: rest → d.final = false → d.req.issuer = .core n rt →
  let put (t : State) : State := { t with
    cores := t.cores.set n { t.cores[n] with
      g := (t.cores[n].setG rt d.word).g, posts := t.cores[n].posts.filter fun p => p.ticket != d.req.ticket },
    led := { s.led with done := rest, dups := s.led.dups.map fun x => if x.on = d.req.ticket then { x with word := some d.word } else x } }
  let ends (i : Instr) (v : State) : Prop := ∃ u, exec i s = .next u ∧ (s.cores[n].det = false → u = v) ∧
    u = { v with free := u.free, cores := v.cores.set n { v.cores[n] with detSteps := u.cores[n].detSteps, detVar := u.cores[n].detVar } }
  (isLocalMem d.req.slot = true → (regionOf d.req.slot = .plain → s.guarded (offsetOf d.req.slot) = false) →
    ends .completionWord (put (s.putMasked d.req.slot maskAll d.word)) ∧
    (rest = [] → s.cores[n].run = 2 → s.cores[n].wait = none → ends (.twinHandover n) (put (s.putMasked d.req.slot maskAll d.word)))) ∧
  (isLocalMem d.req.slot = false → ends .completionWord (put (s.lateStore n 2 d.req.slot)))

/-- RECORD_HASH and BLOCK_TRAILER (R173, R186, R194-R196): the oldest durable record without a digest gets the SHA-256 of its words, and the sequencer
goes on once the backlog is below 4,096; once a block's 64
records have digests, a leading module writes the trailer, chained to the block before. -/
def Obligations.RecordsAndBlocksAreHashed : Prop := ∀ (s : State) (r : Rec),
  (s.led.recs.find? (fun r => !r.trailer && r.digest.isNone && s.recDurable r) = some r →
    let t : State := { s with led := { s.led with
      recs := s.led.recs.map fun x => if x.trailer = false ∧ x.seq = r.seq then { x with digest := some (sha256 (serialise (s.ringWords r.pos.toNat r.len))) }
        else x } }
    (t.hashBacklog = 4096 → exec .recordHash s = .next t) ∧
    (t.hashBacklog < 4096 → s.led.decisions = [] → exec .recordHash s = .next { t with led := { t.led with stalled := false } })) ∧
  (s.Inv → s.led.recs.find? (fun r => r.trailer && !r.written) = some r → (s.ws.role = 1 ∨ s.ws.role = 3) →
    let b := (r.seq.toNat - 1) / 64
    let rs := s.led.recs.filter fun x => !x.trailer && (x.seq.toNat - 1) / 64 == b
    rs.length = 64 → (∀ x ∈ rs, x.digest.isSome = true ∧ s.recDurable x = true) →
    s.applied.jnRingLog2.toNat ≤ 23 → s.applied.jnRingBase.toNat + 2 ^ s.applied.jnRingLog2.toNat ≤ 2 ^ 24 → 12 ≤ 2 ^ s.applied.jnRingLog2.toNat →
    let head := [at' (6 : BitVec 4) 68 ||| at' (64 : BitVec 8) 48 ||| BitVec.ofNat 72 b, at' (BitVec.ofNat 48 (64 * b + 1)) 24, at' s.ws.term 24,
      at' (if s.led.lastTime.toNat < s.now.toNat then s.now else s.led.lastTime) 8]
    let d := sha256 ((rs.filterMap fun x => x.digest).flatMap digestOctets ++ serialise head ++ digestOctets s.prevDigest)
    let ws := head ++ ((List.range 4).map fun j => at' (bits d (192 - 64 * j) 64) 8) ++ (List.range 4).map fun j => at' (bits s.prevDigest (192 - 64 * j) 64) 8
    ∃ u, exec .blockTrailer s = .next u ∧ u.prevDigest = d ∧ u.led.lastTrailer = some r.pos ∧ u.cores = s.cores ∧
      (∀ i : Nat, i < 12 → u.ringWord (r.pos.toNat + i) = ws.getD i 0) ∧
      ∀ a, (∀ i : Nat, i < 12 → a ≠ s.ringAddr (r.pos.toNat + i)) → u.data a = s.data a)

/-! ## Postings that span pairs -/

/-- The coordinator's messages and timers (R164-R168): the last YES commits, or aborts on a scale that differs; a NO and the vote timer abort;
ACK, QUERY, the revote point and the resend timer act as the table of R165 says. A decision takes the next sequence number, or waits for the hash
backlog or the ring. It rests on the model's choices in log 4, 51. -/
def Obligations.CoordinatorsFollowTheTable : Prop := ∀ (s : State) (c : Coord) (src : PairId) (n : BitVec 48) (st : BitVec 8) (scales : List (BitVec 8)),
  s.coordFor n = some c →
  let voting : Prop := c.phase = 1 ∧ c.commit = none ∧ (s.ws.role = 1 ∨ s.ws.role = 3)
  let missing := c.pairs.filter fun p => !(c.yes.any fun y => y.1 == p)
  let c' : Coord := { c with yes := c.yes ++ [(src, scales)] }
  let voted := s.updCoord n fun _ => c'
  let lowest (l : List PairId) : BitVec 4 := BitVec.ofNat 4 ((findIdx (fun x => l.contains (l0Pair x.l0)) c.legs 0).getD 0)
  let asked (l : List PairId) (kind : BitVec 4) (t : State) : State := l.foldl (fun s p => s.postMsg p 0 s.applied.lbPair n kind 0 []) t
  let drop : State := { s with led := { s.led with coords := s.led.coords.filter fun x => x.n != n } }
  (voting → src ∈ c.pairs → (∀ y ∈ c.yes, y.1 ≠ src) →
    ((∃ p ∈ c.pairs, p ≠ src ∧ ∀ y ∈ c.yes, y.1 ≠ p) → exec (.yes src n scales) s = .next voted) ∧
    ((∀ p ∈ c.pairs, p = src ∨ ∃ y ∈ c.yes, y.1 = p) → (c'.scaleClash s.applied.lbPair = none → exec (.yes src n scales) s = .next (voted.coordDecide c' 0 0 0)) ∧
      ∀ k, c'.scaleClash s.applied.lbPair = some k → exec (.yes src n scales) s = .next (voted.coordDecide c' 0x19 (BitVec.ofNat 4 k) 0))) ∧
  (voting → src ∈ c.pairs → exec (.no src n st) s =
    .next (if 0x40 ≤ st.toNat ∧ st.toNat < 0x50 then s.coordDecide c 0x31 (lowest [src]) 0 else s.coordDecide c 0x24 (lowest [src]) st)) ∧
  (voting → c.since.toNat + 20000 ≤ s.now.toNat → exec (.voteTimer n) s = .next (s.coordDecide c 0x32 (lowest missing) 0)) ∧
  (s.now.toNat < c.since.toNat + 20000 → exec (.voteTimer n) s = .next s) ∧
  (c.phase = 1 → c.commit = none → c.revoted = false → c.since.toNat + 10000 ≤ s.now.toNat →
    exec (.revotePoint n) s = .next (asked missing 5 (s.updCoord n fun c => { c with revoted := true }))) ∧
  (c.phase = 2 → c.resent.toNat + 10000 ≤ s.now.toNat →
    exec (.resendTimer n) s = .next (asked (c.pairs.filter fun p => !c.acks.contains p) 2 (s.updCoord n fun c => { c with resent := s.now }))) ∧
  (c.phase = 2 → src ∈ c.pairs → ((∀ p ∈ c.pairs, p = src ∨ p ∈ c.acks) → exec (.postingAck src n) s = .next drop) ∧
    ((∃ p ∈ c.pairs, p ≠ src ∧ p ∉ c.acks) →
      exec (.postingAck src n) s = .next (s.updCoord n fun c => { c with acks := if src ∈ c.acks then c.acks else src :: c.acks }))) ∧
  (∃ k : BitVec 4, exec (.query src n) s = .next (s.postMsg src 1 s.applied.lbPair n k 0 []) ∧ (c.phase = 2 → k = 2) ∧
    (c.phase ≠ 2 → k = if ∃ q ∈ s.led.preps, q.part = false ∧ q.seq = n then 10 else 3)) ∧
  (∀ (d : BitVec 8) (g : BitVec 4), let u := s.coordDecide c st g d
    let room := s.ringFull (if s.led.seqNext.toNat % 64 = 0 then 16 else 4) = false
    s.led.decisions = [] → (s.hashBacklog = 4096 ∨ ¬room →
      u.led.decisions.length = 1 ∧ u.led.seqNext = s.led.seqNext ∧ u.led.flights = s.led.flights ∧ u.mem = s.mem) ∧
    (s.hashBacklog < 4096 → room →
    u.led.seqNext = s.led.seqNext + 1 ∧ u.led.wpos = s.led.wpos + (if s.led.seqNext.toNat % 64 = 0 then 16 else 4) ∧ u.mem = s.mem ∧ u.lb = s.lb ∧
    ∃ f : Flight, u.led.flights = s.led.flights ++ [f] ∧ f.seq = s.led.seqNext ∧ f.kind = .decision s.applied.lbPair c.n (st == 0) ∧ f.decided = none))

/-- The participant's messages and timers (R164-R166): PREPARE is taken as a request, or refused by a module that does not lead; a repeated
PREPARE and REVOTE repeat the vote; COMMIT and ABORT decide a posting in doubt; a done one acknowledges again; WAIT changes nothing; the query
timer asks the home pair, and aging raises source 12 of the posting range. It rests on the model's choices in log 4, 17, 51. -/
def Obligations.ParticipantsFollowTheTable : Prop := ∀ (s : State) (home : PairId) (n : BitVec 48) (w2 : Word) (legs : List (Word × Word)),
  let say (t : State) (k : BitVec 4) (st : BitVec 8) : State := t.postMsg home 1 home n k st []
  exec (.waitMsg home n) s = .next s ∧
  (s.partOf home n = none → s.notSequencing = none → legs ≠ [] → legs.length ≤ 16 →
    ∃ (p : Part) (r : PostReq), exec (.prepare home n w2 legs) s = .next { s with led := { s.led with
        parts := s.led.parts ++ [p], tickets := s.led.tickets + 1, arrivals := s.led.arrivals ++ [r] } } ∧
      p.home = home ∧ p.n = n ∧ p.phase = 0 ∧ r.issuer = .home home n ∧ r.checked = false ∧ r.legs = legs ∧ r.commit = false) ∧
  (∀ st, s.partOf home n = none → s.notSequencing = some st → ∃ p : Part, p.home = home ∧ p.n = n ∧ p.phase = 2 ∧ p.vote = st ∧
    exec (.prepare home n w2 legs) s = .next (say { s with led := { s.led with parts := s.led.parts ++ [p] } } 9 st)) ∧
  (s.partOf home n = none → exec (.revote home n) s = .next s) ∧
  (s.partFor home n = none → (s.decisionFor home n = some true → exec (.commitMsg home n) s = .next (say s 11 0))) ∧
  (∀ p, s.partFor home n = some p →
    let vote : State := if p.vote = 0 then s.postMsg p.home 1 p.home p.n 8 0 (scaleWords (p.legs.map fun l => l.scale.setWidth 8))
      else s.postMsg p.home 1 p.home p.n 9 p.vote []
    (p.phase = 0 → exec (.revote home n) s = .next s ∧ (s.notSequencing = none → exec (.prepare home n w2 legs) s = .next s) ∧
      ∀ st, s.notSequencing = some st → exec (.prepare home n w2 legs) s = .next (say s 9 st)) ∧
    (p.phase ≠ 0 → exec (.revote home n) s = .next vote ∧ exec (.prepare home n w2 legs) s = .next vote) ∧
    (p.phase = 1 → p.decision = none → (s.ws.role = 1 ∨ s.ws.role = 3) → ∀ q, s.led.preps.find? (fun q => q.part && q.home == home && q.n == n) = some q →
      s.led.decisions = [] → s.hashBacklog < 4096 → s.ringFull (if s.led.seqNext.toNat % 64 = 0 then 16 else 4) = false →
      ∀ ok, ∃ u, exec (if ok then .commitMsg home n else .abort home n) s = .next u ∧ u.led.seqNext = s.led.seqNext + 1 ∧ u.mem = s.mem ∧
        (∃ f : Flight, u.led.flights = s.led.flights ++ [f] ∧ f.seq = s.led.seqNext ∧ f.kind = .decision home n ok) ∧
        ∀ x ∈ u.led.parts, x.home = home → x.n = n → x.decision = some ok) ∧
    (p.phase = 2 → p.vote = 0 → exec (.commitMsg home n) s = .next (say s 11 0) ∧ exec (.abort home n) s = .next s) ∧
    (p.phase = 1 → p.queried.toNat + 50000 ≤ s.now.toNat →
      exec (.queryTimer home n) s = .next ((s.updPart home n fun p => { p with queried := s.now }).postMsg home 0 home n 4 0 [])) ∧
    (let age := (bits s.applied.peCtl 8 8).toNat
     p.phase = 1 → age ≠ 0 → p.aged = false → p.since.toNat + age * 100000 < s.now.toNat →
      exec (.inDoubtAging home n) s = .next ((s.updPart home n fun p => { p with aged := true }).raise 204)) ∧
    (s.now.toNat < p.queried.toNat + 50000 → exec (.queryTimer home n) s = .next s))

/-! ## Float -/

/-- FADD, FSUB, FMUL, FDIV, FSQRT and FMA (R356, R357, R359, R364, R365): the result rounded once in the mode of FS.RM, the canonical NaN for an
invalid operation or a NaN operand, the flags of R358, and nothing else. -/
def Obligations.FloatArithmetic : Prop := ∀ (s : State) (n : CoreId) (f : FmtA),
  let on (i : Instr) (sh : Shape) (P : Core → FloatResult → Prop) : Prop :=
    Completes i s n sh (fun c d => ∃ r, P c r ∧ c.FloatGot d f.rd r)
  on (.fadd n f) (shapeF (f.fn == 0) 5 []) (fun c r => FloatSum c.rm (c.fr f.ra) (c.fr f.rb) r) ∧
  on (.fsub n f) (shapeF (f.fn == 0) 5 []) (fun c r => FloatSum c.rm (c.fr f.ra) (c.fr f.rb ^^^ 0x80000000) r) ∧
  on (.fmul n f) (shapeF (f.fn == 0) 5 []) (fun c r => FloatProduct c.rm (c.fr f.ra) (c.fr f.rb) r) ∧
  on (.fdiv n f) (shapeF (f.fn == 0) 14 []) (fun c r => FloatQuotient c.rm (c.fr f.ra) (c.fr f.rb) r) ∧
  on (.fsqrt n f) (shapeFsqrt f) (fun c r => FloatRoot c.rm (c.fr f.ra) r) ∧
  on (.fma n f) (shapeFma f) (fun c r => FloatFused c.rm (c.fr f.ra) (c.fr f.rb) (c.fr (bits f.fn 8 5)) r)

/-- FCMP, FMIN, FMAX, FABS, FNEG, the moves, RDFS, WRFS, the conversions and FBAR (R357-R363, R365, R366); a pending float trap is taken before the
instruction and recorded no longer. The N and C of an FTOD that is invalid are deduced (log 20) and are not stated. -/
def Obligations.FloatComparesAndConversions : Prop := ∀ (s : State) (n : CoreId) (f : FmtA),
  let mode (c : Core) : BitVec 2 := if bit f.fn 2 then c.rm else bits f.fn 0 2
  let k := (bits f.fn 0 5).toNat
  Completes (.fcmp n f) s n (shapeFcmp f) (fun c d =>
    let a := c.fr f.ra
    let b := c.fr f.rb
    let nan := f32Nan a || f32Nan b
    let lt := !nan && decide (f32Int a < f32Int b)
    let eq := !nan && f32Int a == f32Int b
    d = { c.bookkept d with st := d.st, fs := d.fs, ftrap := d.ftrap } ∧ c.WentOn d 1 ∧ c.Flags d lt eq nan (!lt) ∧
      c.FloatFlags d (if nan && (bit f.fn 0 || f32Snan a || f32Snan b) then 16 else 0)) ∧
  (let pick (max : Bool) (c d : Core) : Prop :=
     let a := c.fr f.ra
     let b := c.fr f.rb
     let first := decide (f32Int a < f32Int b) || (f32Int a == f32Int b && bit a 31)
     c.FloatGot d f.rd (if f32Nan a then (if f32Nan b then 0x7FC00000 else b) else if f32Nan b then a else if first != max then a else b,
       if f32Snan a || f32Snan b then 16 else 0)
   Completes (.fmin n f) s n (shapeFmin f) (pick false) ∧ Completes (.fmax n f) s n (shapeFmax f) (pick true)) ∧
  Completes (.fabs n f) s n (shapeFabs f) (fun c d => c.FloatGot d f.rd (c.fr f.ra &&& 0x7FFFFFFF, 0)) ∧
  Completes (.fneg n f) s n (shapeFneg f) (fun c d => c.FloatGot d f.rd (c.fr f.ra ^^^ 0x80000000, 0)) ∧
  Completes (.fmvgf n f) s n (shapeFmvgf f) (fun c d => c.FloatGot d f.rd ((c.gr f.ra).setWidth 32, 0)) ∧
  Completes (.fmvfg n f) s n (shapeFmvfg f) (fun c d => c.Loaded d f.rd ((c.fr f.ra).setWidth 72)) ∧
  Completes (.rdfs n f) s n (shapeRdfs f) (fun c d => c.Loaded d f.rd (c.fs.setWidth 72)) ∧
  Completes (.wrfs n f) s n (shapeWrfs f) (fun c d =>
    d = { c.bookkept d with fs := (c.gr f.ra).setWidth 10 &&& 0x31F } ∧ c.WentOn d 1) ∧
  Completes (.ftoi n f) s n (shapeFtoi f) (fun c d =>
    let a := c.fr f.ra
    let hi : Int := if bit f.fn 3 then 2 ^ 72 - 1 else 2 ^ 71 - 1
    let lo : Int := if bit f.fn 3 then 0 else -(2 ^ 71)
    ∃ (v : Word) (fl : BitVec 5), d = { c.bookkept d with g := d.g, fs := d.fs, ftrap := d.ftrap } ∧ c.WentOn d 1 ∧ d.Got f.rd v ∧ c.KeptG d f.rd ∧
      c.FloatFlags d fl ∧
      if f32Nan a then v = 0 ∧ fl = 16
      else if f32Inf a then v = BitVec.ofInt 72 (if bit a 31 then lo else hi) ∧ fl = 16
      else ∃ q, RoundsTo (rmCode (mode c)) (bit a 31) (f32Mag a) (2 ^ 149) q ∧
        let x : Int := if bit a 31 then -(q : Int) else q
        if hi < x then v = BitVec.ofInt 72 hi ∧ fl = 16
        else if x < lo then v = BitVec.ofInt 72 lo ∧ fl = 16
        else v = BitVec.ofInt 72 x ∧ fl = if q * 2 ^ 149 = f32Mag a then 0 else 1) ∧
  Completes (.itof n f) s n (shapeItof f) (fun c d =>
    ∃ r, FloatValue c.rm false (if bit f.fn 3 then (c.gr f.ra).toNat else (c.gr f.ra).toInt) 1 r ∧ c.FloatGot d f.rd r) ∧
  Completes (.ftod n f) s n (shapeFtod f) (fun c d =>
    let a := c.fr f.ra
    let kept : Prop := d = { c.bookkept d with g := d.g, st := d.st, fs := d.fs, ftrap := d.ftrap } ∧ c.WentOn d 1 ∧ c.KeptG d f.rd
    let bad : Prop := kept ∧ d.Got f.rd 0xC ∧ d.flagV = true ∧ (∀ i, i < 68 → bit d.st i = bit c.st i) ∧ c.FloatFlags d 16
    if f32Nan a || f32Inf a then bad
    else ∃ q, RoundsTo (c.rounding (bits f.fn 5 3)) (bit a 31) (f32Mag a * 10 ^ k) (2 ^ 149) q ∧
      if 10 ^ 17 ≤ q then bad
      else
        let inexact := decide (q * 2 ^ 149 ≠ f32Mag a * 10 ^ k)
        ∃ v, PackedAs (posList v) 17 q (signOf 17 q (bit a 31)) ∧ kept ∧ d.Got f.rd v ∧ c.DecFlags d 17 q (bit a 31) inexact ∧
          c.FloatFlags d (if inexact then 1 else 0)) ∧
  (isPacked (posList ((s.core n (shapeDtof f)).gr f.ra)) → Completes (.dtof n f) s n (shapeDtof f) (fun c d =>
    ∃ r, FloatValue c.rm false (fieldInt (posList (c.gr f.ra))) (10 ^ k) r ∧ c.FloatGot d f.rd r)) ∧
  Completes (.fbar n f) s n (shapeFbar f) (fun c d => d = c.bookkept d ∧ c.WentOn d 1) ∧
  (∀ (sh : Shape) (body : M Next) (t : State) (causes : BitVec 5) (at_ : DAddr), sh.float = true → s.cores[n].ready sh.regs = true →
    (s.cores[n].det && s.storesOut n) = false → s.cores[n].ftrap = some (causes, at_) → fetchDecode n { sh with float := false } s = .ok () t →
    s.runIns n sh body = (t.updCore n fun c => { c with ftrap := none }).faultAfter n
      { cls := clsFloatTrap, faddr := at_, detail := causes.setWidth 72 } s)

/-! ## Control words, and what a core's surroundings do -/

/-- The control words of a core (R52, R262, R281, R292, R301-R303, R312, R376, R378): SSPASS, EP15 and EP14 take a pass register that passes the
tests of their rule; the words of the core's own block take their fields; the control store is cleared; FPXCH stores and loads the float
registers. It rests on the model's choices in log 14. -/
def Obligations.ControlWordsOfACore : Prop := ∀ (s : State) (n : CoreId) (k : PassId) (w : Word),
  let t := s.atDevice n
  let c := t.cores[n]
  let q := c.pr k
  let at_ (o : Nat) : Instr := .registerWrite (.core n (BitVec.ofNat 20 (0xC0000 + 0x100 * n.val + o))) w
  (q.usable = true → q.shadow = true → ControlWord (.sspassLoad n k) s n fun c => { c with sspass := c.pr k }) ∧
  ControlWord (.sspassCopyOut n k) s n (fun c => c.setP k c.sspass) ∧
  (q.usable = true → ControlWord (.ep15Load n k) s n (fun c => { c with ep15 := c.pr k }) ∧
    ControlWord (.ep14Load n k) s n (fun c => { c with ep14 := c.pr k })) ∧
  (q.usable = true → q.grants permPatch = true →
    ControlWord (.clearPatches n k) s n (fun c => { c with
      matchRegs := Vector.replicate 32 (MatchReg.of false 0 0), mcPid := 0, lres := 0, mcLoad := c.mcLoad + 1 }) ∧
    ControlWord (.clearOpenStore n k) s n (fun c => { c with ocsv := 0, lres := 0, mcLoad := c.mcLoad + 1 })) ∧
  (∀ (a : BitVec 52) (rs : List WordRef) (ih ic : Word) (t1 : State), q.usable = true → q.grants (permPatch ||| permLoad) = true →
    imageRead n q k a 2 t = .ok (rs, [ih, ic]) t1 → t1.cores[n].det = false →
    (∀ r, imageCounts ih ic = .error r → ControlStore (.mcLoadImage n k a) s n fun _ v =>
      v = { t1 with cores := t1.cores.set n { t1.cores[n] with lres := r, mcLoad := t1.cores[n].mcLoad + 1 } }) ∧
    (∀ (m x : Nat) (rest : List WordRef × List Word) (t2 : State), imageCounts ih ic = .ok (m, x) → 0 < m + x →
      imageRead n q k (a + 2) (m + 2 * x) t1 = .ok rest t2 → t2.cores[n].det = false →
      (∀ r, imageCheck ih ic (rest.2.take m) (rest.2.drop m) x = some r → ControlStore (.mcLoadImage n k a) s n fun _ v =>
        v = { t2 with cores := t2.cores.set n { t2.cores[n] with lres := r, mcLoad := t2.cores[n].mcLoad + 1 } }) ∧
      (imageCheck ih ic (rest.2.take m) (rest.2.drop m) x = none →
        let emptied : State := { t2 with cores := t2.cores.set n (t2.cores[n].emptyTarget ih ic) }
        let changed (t3 : State) : Prop := ControlStore (.mcLoadImage n k a) s n fun _ v =>
          v = { t3 with cores := t3.cores.set n { t3.cores[n] with
            mcPid := if bits ih 68 4 = 1 then 0 else t3.cores[n].mcPid, lres := 5, mcLoad := t3.cores[n].mcLoad + 1 } }
        (∀ f t3, imageRead n q k a (2 + m + 2 * x) emptied = .error (.fault f) t3 → changed t3) ∧
        ∀ again t3, imageRead n q k a (2 + m + 2 * x) emptied = .ok again t3 →
        (imageCounts (again.2.getD 0 0) (again.2.getD 1 0) ≠ .ok (m, x) → changed t3) ∧
        (again.2 = ih :: ic :: rest.2 →
        let ws := (microWords (rest.2.drop m)).map MicroWord.of
        ControlStore (.mcLoadImage n k a) s n fun _ v => ∃ d, v = { t3 with cores := t3.cores.set n d } ∧ d.lres = 0 ∧
          d.mcLoad = t3.cores[n].mcLoad + 1 ∧
          (bits ih 68 4 = 1 → d.mcPid = bits ih 0 64 ∧ d.ocs = t3.cores[n].ocs ∧ d.ocsv = t3.cores[n].ocsv ∧
            (∀ i : Fin 32, d.matchRegs[i] = if i.val < m then matchOf (rest.2.getD i.val 0) else MatchReg.of false 0 0) ∧
            d.patch = (List.range x).zip ws) ∧
          (bits ih 68 4 ≠ 1 → d.mcOid = bits ih 0 64 ∧ d.matchRegs = t3.cores[n].matchRegs ∧ d.patch = t3.cores[n].patch ∧
            let first := (bits ic 45 11).toNat
            (∀ i : Nat, i < 2048 → (d.ocs.find? fun e => e.1 == i) =
              if first ≤ i ∧ i < first + x then some (i, ws.getD (i - first) (MicroWord.of 0)) else t3.cores[n].ocs.find? fun e => e.1 == i) ∧
            ∀ i : Nat, i < 16 → bit d.ocsv i = if first ≤ 128 * i ∧ 128 * i < first + x then bit ic (56 + i) else bit t3.cores[n].ocsv i))))) ∧
  ControlWord (at_ 0x00) s n (fun c => { c with pipeCtl := w.setWidth 3 }) ∧
  ControlWord (at_ 0x20) s n (fun c => { c with troot := w.setWidth 52 &&& 0xFFFFFFFFFFE01 }) ∧
  ControlWord (at_ 0x21) s n (fun c => { c with space := w.setWidth 16 }) ∧
  ControlWord (at_ 0x40) s n (fun c => { c with ssp := w.setWidth 52 }) ∧
  ControlWord (at_ 0x60) s n (fun c => { c with swh := w.setWidth 52 }) ∧
  ControlWord (at_ 0x61) s n (fun c => { c with swx := w.setWidth 52 }) ∧
  ControlWord (at_ 0x63) s n (fun c => { c with fpown := setBits (w &&& ((1 : Word) <<< 71)) 0 52 (w.setWidth 52) }) ∧
  ControlWord (at_ 0x64) s n (fun c => { c with ctxfp := w.setWidth 52 }) ∧
  ControlWord (at_ 0x80) s n (fun c => { c with ltb := w.setWidth 52 }) ∧
  ControlWord (at_ 0x82) s n (fun c => { c with evec := w.setWidth 57 }) ∧
  ControlWord (at_ 0x83) s n (fun c => { c with esp := w.setWidth 52 }) ∧
  ControlWord (at_ 0x01) s n (fun c => c) ∧
  (bit c.fpown 71 = false → ControlWord (.fpFlush n) s n (fun c => c)) ∧
  (let a := bits c.fpown 0 52
   let saved (v : State) : Prop := (∀ i : Nat, i < 18 → (v.drainedCell n (a + BitVec.ofNat 52 i)).data = c.fpWords.getD i 0) ∧
     ∀ b : WAddr, (b.toNat < a.toNat ∨ a.toNat + 18 ≤ b.toNat) → (v.drainedCell n b).data = (t.drainedCell n b).data
   let writable : Prop := t.Inv ∧ a.toNat % 2 = 0 ∧ rangeInMem a 18 = true ∧ t.guardedWords a (List.range 18) = false
   let b := c.ctxfp
   let readable : Prop := b.toNat % 2 = 0 ∧ rangeInMem b 18 = true ∧
     ∀ i : Nat, i < 18 → (t.cell (b + BitVec.ofNat 52 i)).bad = false
   let fromArea (d : Core) : Prop := (∀ i : Nat, i < 32 → d.fr (BitVec.ofNat 5 i) =
       bits (t.data (b + BitVec.ofNat 52 (i / 2))) (if i % 2 = 0 then 32 else 0) 32) ∧
     d.fs = (t.data (b + 16)).setWidth 10 &&& 0x31F ∧ d.ftrap.isSome = bit (t.data (b + 17)) 71 ∧ d.fpown = flagAt true 71 ||| b.setWidth 72 ∧
     bit d.st 64 = true
   let onlyFp (v : State) : Prop := v.cores[n].pc = c.pc ∧ v.cores[n].retired = c.retired ∧ OnlyCore n { t with mem := v.mem } v ∧
     v.cores[n] = { c.bookkept v.cores[n] with
       f := v.cores[n].f, fs := v.cores[n].fs, ftrap := v.cores[n].ftrap, fpown := v.cores[n].fpown, fpxchCnt := v.cores[n].fpxchCnt,
       st := setBit c.st 64 (bit v.cores[n].st 64), storeBuf := v.cores[n].storeBuf }
   (bit c.fpown 71 = true → writable → ControlStore (.fpFlush n) s n fun _ v => onlyFp v ∧ saved v ∧ v.cores[n].f = c.f ∧ v.cores[n].fs = c.fs ∧
     v.cores[n].ftrap = none ∧ bit v.cores[n].fpown 71 = false ∧ v.cores[n].fpxchCnt = c.fpxchCnt + 1) ∧
   (bit c.fpown 71 = true → a = b → ControlWord (.fpExchange n) s n (fun c => { c with st := setBit c.st 64 true })) ∧
   (bit c.fpown 71 = false → readable → ControlStore (.fpExchange n) s n fun _ v => onlyFp v ∧ v.mem = t.mem ∧ fromArea v.cores[n] ∧
     v.cores[n].fpxchCnt = c.fpxchCnt + 1) ∧
   (bit c.fpown 71 = true → a ≠ b → writable → readable → ControlStore (.fpExchange n) s n fun _ v => onlyFp v ∧ saved v ∧ fromArea v.cores[n] ∧
     v.cores[n].fpxchCnt = c.fpxchCnt + 1))

/-- What a core's surroundings do (R272, R307, R309, R322, R324, R329, R336, R337, R379-R381): a raise, a due timer, a draining store, a late
store error, a machine check, the micro-traps, a line that arrives and a walk; UOPn whose routine is one word of the ALU; ILL takes F01. Which command
each instruction word stands for (R54-R57, R74, R75). It rests on the model's choices in log 1, 2, 3, 4, 22. -/
def Obligations.SurroundingsOfACore : Prop := ∀ (s : State) (n : CoreId) (k : SrcId),
  let c := s.cores[n]
  let put (d : Core) : State := { s with cores := s.cores.set n d }
  (s.brd.powered = true → s.raise k.val = { s with srcs := s.srcs.set k { s.srcs[k] with
      pend := true, raises := s.srcs[k].raises + 1, merges := if s.srcs[k].pend then s.srcs[k].merges + 1 else s.srcs[k].merges,
      mark := if s.srcs[k].pend then s.srcs[k].mark else s.srcs[k].merges } }) ∧
  (k.val < 768 → exec (.sourceRaise k) s = .next (s.raise k.val)) ∧ (768 ≤ k.val → exec (.sourceRaise k) s = .next s) ∧
  (∀ w, ControlStore (.srcRaise n k w) s n fun t v =>
    v = if bit w 0 = true ∧ (768 ≤ k.val ∨ (464 ≤ k.val ∧ k.val < 656 ∧ (k.val - 464) % 4 < 2)) then t.raise k.val else t) ∧
  ((bit c.tmr 71 = true ∧ (bits c.tmr 0 64).toNat ≤ s.now.toNat →
      exec (.timerExpiry (.core n)) s = .next ((put { c with tmr := setBit c.tmr 71 false }).raise (656 + n.val))) ∧
   (bit c.tmr 71 = false ∨ s.now.toNat < (bits c.tmr 0 64).toNat → exec (.timerExpiry (.core n)) s = .next s)) ∧
  (∀ j : Fin 16, bit s.mtmr[j] 71 = true → (bits s.mtmr[j] 0 64).toNat ≤ s.now.toNat →
    exec (.timerExpiry (.module j)) s = .next (({ s with mtmr := s.mtmr.set j (setBit s.mtmr[j] 71 false) } : State).raise (704 + j.val))) ∧
  ((c.storeBuf = [] → exec (.storeDrain n) s = .next s) ∧
   ∀ e r, c.storeBuf = e :: r → s.Inv → ∃ u, exec (.storeDrain n) s = .next u ∧ u.cores[n].storeBuf = r ∧ u.cores[n].g = c.g ∧ u.cores[n].pc = c.pc ∧
     (e.pass = none → isLocalMem e.pa = true → (s.cell e.pa).bad = false → (u.cell e.pa).data = merge e.mask e.data (s.cell e.pa).data ∧
       OnlyCore n { put { c with storeBuf := r } with mem := u.mem } u ∧
       u.cores[n] = { c with storeBuf := r, l1 := u.cores[n].l1, l1miss := u.cores[n].l1miss } ∧ ∀ a, a ≠ e.pa → (u.cell a).data = (s.cell a).data) ∧
     (e.pass = none → regionOf e.pa = .window → u.mem = s.mem ∧ u.cores[n] = { c with storeBuf := r, windows := noteAperture e.pa c.windows }) ∧
     ∀ w1 v, e.pass = some (w1, v) → e.pa.toNat % 2 = 0 → u.getPass e.pa = { w0 := e.data, w1 := w1, valid := v }) ∧
  (∀ (cause : BitVec 8) (pa : WAddr), 1 ≤ cause.toNat → cause.toNat ≤ 7 → exec (.lateStoreError n cause pa) s = .next ((put { c with
      lseCnt := c.lseCnt + 1, lseAddr := if bit c.lseStat 71 then c.lseAddr else pa,
      lseStat := if bit c.lseStat 71 then setBit c.lseStat 70 true else flagAt true 71 ||| flagAt (bit c.lseStat 70) 70 ||| at' cause 0 }).raise (466 + 4 * n.val))) ∧
  (∀ (cause : BitVec 8) (retry : Bool) (x : BitVec 16), c.run = 2 → c.posts = [] → bit c.active 17 = false →
    let parity : Prop := cause = 1 ∨ cause = 2
    let c' : Core := if parity then { (if bit s.draw.1 0 then c.corrupt x else c) with mcAddr := x, mcPar := c.mcPar + 1 } else c
    let s1 : State := { (if parity then s.draw.2 else s) with cores := s.cores.set n c' }
    let s2 : State := { s1 with cores := s1.cores.set n { c' with wait := none } }
    let w := (s2.instrWord n).1
    let t := (s2.instrWord n).2
    let taken := t.takeFault n { cls := clsMachine, code := cause, detail := 1 } w
    (retry = true → cause ≠ 5 → exec (.machineCheck n cause retry x) s = .next (match taken with
      | (some u, _) => u
      | (none, u) => u.waitEntry n s1)) ∧
    (retry = false ∨ cause = 5 → exec (.machineCheck n cause retry x) s =
      .next ((t.drainAll n).escalate n 8 { cls := 0, detail := at' clsMachine 47 ||| at' cause 39 } c.pc w))) ∧
  (c.run = 2 → c.posts = [] → bit c.active 17 = false → ∃ (u v : State) (w : Word), exec (.microStepLimit n) s = .next u ∧ exec (.machineCheck n 5 false 0) s = .next u ∧
    u = v.escalate n 8 { cls := 0, detail := at' clsMachine 47 ||| at' (5 : BitVec 8) 39 } c.pc w) ∧
  (c.run = 2 → c.det = false → ∀ (va : WAddr) (acc : Access) (t : TlbEnt) (u : State),
    let x : Xl := .core n (if acc = .fetch then 0 else 1)
    xlate x va (acc == .store || acc == .loadStore) 0 (daOf va 0) s = .ok t u →
    exec (.tableWalk (.core n) va acc) s = .next u ∧
    (bit (s.rootOf x).1 0 = true → tlbFind (s.ownTlb x) c.space va = none →
      exec (.microTrap n (.walk va acc)) s = .next { u with cores := u.cores.set n { u.cores[n] with mtrapCnt := u.cores[n].mtrapCnt + 1 } }) ∧
    ((tlbFind (s.ownTlb x) c.space va).isSome = true → exec (.microTrap n (.walk va acc)) s = .next s)) ∧
  (c.det = false → ∀ line : WAddr, line.toNat % 8 = 0 → isLocalMem line = true →
    (line ∈ c.l1 → exec (.lineFill n line) s = .next s) ∧
    (line ∉ c.l1 → ∃ u, exec (.lineFill n line) s = .next u ∧ line ∈ u.cores[n].l1 ∧ line ∈ u.quads[quadOf n].l2 ∧ OnlyCore n s u ∧ u.free = s.free ∧
      u.cores[n] = { c with l1 := u.cores[n].l1, l1miss := c.l1miss + 1 } ∧
      (c.run = 2 → exec (.microTrap n (.fill line)) s =
        .next { u with cores := u.cores.set n { u.cores[n] with mtrapCnt := u.cores[n].mtrapCnt + 1 } }))) ∧
  (∀ line : WAddr, c.det = true ∨ isLocalMem line = false → exec (.lineFill n line) s = .next s) ∧
  (c.run = 2 → ∀ src, s.sourceFor n = some src →
    exec (.microTrap n .evt) s = .next (put { c with offer := some (src, s.srcs[src].level), mtrapCnt := c.mtrapCnt + 1 })) ∧
  (∀ f : FmtA, s.starts n {} = true → exec (.ill n f) s = .next ((s.fetched n {}).faultAfter n illegal s)) ∧
  (let spells (w : Word) (i : Instr) : Prop := ∀ y : BitVec 36, decodeIns n (bits w 36 36 ++ y : BitVec 72) = i
   (∀ f, ∀ x ∈ opsA n f, spells (f.toWord x.1) x.2) ∧ (∀ f, ∀ x ∈ opsI n f, spells (f.toWord x.1) x.2) ∧ (∀ f, ∀ x ∈ opsM n f, spells (f.toWord x.1) x.2) ∧
   (∀ f, ∀ x ∈ opsB n f, spells (f.toWord x.1) x.2) ∧ (∀ f, ∀ x ∈ opsS n f, decodeIns n (f.toWord x.1) = x.2) ∧
   (∀ (f : FmtA) (k : Fin 16), spells (f.toWord (0xE0 + BitVec.ofNat 8 k.val)) (.uop n k f)) ∧
   (∀ w : Word, ¬opAssigned n (bits w 64 8) → ∃ f, decodeIns n w = .ill n f) ∧
   ∀ (pc : DAddr) (x y : BitVec 36), instrAt pc (x ++ y : BitVec 72) = if daPos pc = 0 then (x ++ y : BitVec 72) else (y ++ (0 : BitVec 36) : BitVec 72)) ∧
  (∀ (j : Fin 16) (f : FmtA) (m : Micro), let sh : Shape := { regs := FmtA.regs f, steps := 3 }
    let b := s.core n sh
    s.runs n sh = true → bit b.ocsv j.val = true → (b.ocs.find? fun e => e.1 == 128 * j.val) = some (128 * j.val, MicroWord.of m) → openOk m = true → uSeq m = 3 →
    uMem m = 0 → uUnit m = 0 → uA m = 0x32 → uB m = 0x33 → uD m = 0x31 → bits m 44 4 = 0xF →
    let ends (v : Word) (o cy : Bool) : Prop := ∃ u, exec (.uop n j f) s = .next u ∧ u = { s.fetched n sh with free := u.free, cores := (s.fetched n sh).cores.set n u.cores[n] } ∧
      (b.det = false → b.Computed u.cores[n] f.rd v v.msb (v == 0) o cy)
    (uAlu m = 3 → ends (b.gr f.ra + b.gr f.rb) ((b.gr f.ra + b.gr f.rb).toInt != (b.gr f.ra).toInt + (b.gr f.rb).toInt)
      (decide (2 ^ 72 ≤ (b.gr f.ra).toNat + (b.gr f.rb).toNat))) ∧
    (uAlu m = 5 → ends (b.gr f.ra &&& b.gr f.rb) false false) ∧ (uAlu m = 7 → ends (b.gr f.ra ^^^ b.gr f.rb) false false)) ∧
  (∀ (j : Fin 16) (f : FmtA), let sh : Shape := { regs := FmtA.regs f, steps := 3 }
    s.runs n sh = true → bit (s.core n sh).ocsv j.val = false → Faults (.uop n j f) s n sh { cls := clsIllegal, code := 1 })

/-! ## The twin -/

/-- Frames and twin links (R207-R209, R214, R215): a frame that fails its CRC or comes out of order is counted and asks for a replay, whatever
its KIND; one in order is taken; a link is numbered, kept and timed as R209 says, and leaves and enters service. It rests on the model's choices
in log 19, 57. -/
def Obligations.TwinLinksTakeFramesInOrder : Prop := ∀ (s : State) (l : Fin 2) (fr : Frame) (words : List Word),
  let t := s.ws.links[l]
  let put (t : TwinLink) : State := { s with ws := { s.ws with links := s.ws.links.set l t } }
  let frames : List (BitVec 4 × Instr) := [(0, .idle l fr), (1, .stream l fr), (2, .twinAck l fr), (3, .heartbeat l fr), (4, .healReq l fr), (5, .healData l fr),
    (6, .copyStart l fr), (7, .copy l fr), (8, .recon l fr words), (9, .wtab l fr)]
  let valid : Prop := fr.kind = 0 ∧ fr.crc = frameCode fr ∧ fr.fseq = t.rx + 1 ∧ t.training = false
  let left := unacked fr.fack t.store
  let since (n : Nat) : Option (BitVec 64) := if n < 128 then none else some (t.fullSince.getD s.now)
  let down : State := (put { t with up := false, training := true, good := 0, store := [], fullSince := none, rtry := false }).setWsEvt 7
  let outOfService (i : Instr) : Prop := exec i s = .next (if s.ws.role = 1 ∧ s.ws.sync ≠ 1
    then ({ down with ws := { down.ws with txq := down.unackedWords s.ws.twinAseq } } : State).pump else down.pump)
  (∀ x ∈ frames, t.training = true → exec x.2 s = .next s) ∧
  (∀ x ∈ frames, t.training = false → (fr.kind ≠ x.1 ∨ fr.crc ≠ frameCode fr ∨ fr.fseq ≠ t.rx + 1) →
    exec x.2 s = .next (put { t with crcCnt := t.crcCnt + 1, rtry := true, good := 0 })) ∧
  (s.frameInOrder l 0 fr → exec (.idle l fr) s = .next (s.took l fr)) ∧
  (valid → t.up = false → fr.rtry = false →
    (t.good + 1 < 64 → exec (.idle l fr) s =
      .next (put { t with rx := fr.fseq, lastGood := s.now, store := left, good := t.good + 1, fullSince := since left.length })) ∧
    (64 ≤ t.good + 1 → s.ws.contact = false → ∃ u, exec (.idle l fr) s = .next u ∧ u.ws.links[l].up = true ∧ u.ws.links[l].lastBeat = s.now ∧
      bit u.ws.evt 7 = true ∧ u.mem = s.mem ∧ u.cores = s.cores)) ∧
  (valid → t.up = true → fr.rtry = true → ∃ u, exec (.idle l fr) s = .next u ∧
    u.ws.replayCnt = s.ws.replayCnt + BitVec.ofNat 32 left.length ∧
    ((∀ x ∈ left, x.replays < 7) → ∃ rest, u.ws.links[l].up = true ∧
      u.ws.out = s.ws.out ++ (left.map fun x => { x.stamp fr.fseq false with replays := x.replays + 1 }) ++ rest) ∧
    ((∃ x ∈ left, 7 ≤ x.replays) → u.ws.links[l].up = false ∧ u.ws.links[l].training = true ∧ bit u.ws.evt 7 = true)) ∧
  (∀ (kind : BitVec 4) (pos : BitVec 16) (ws : List Word), let f : SentFrame :=
      { link := l, kind := kind, fseq := t.tx + 1, fack := t.rx, rtry := t.rtry, pos := pos, words := ws,
        crc := frameCrc kind (t.tx + 1) t.rx t.rtry pos ws, replays := 0 }
    s.sendFrame l kind pos ws = if t.up = true ∧ s.brd.powered = true ∧ t.store.length < 128
      then { s with ws := { s.ws with out := s.ws.out ++ [f], links := s.ws.links.set l { t with
        tx := t.tx + 1, rtry := false, store := t.store ++ [f], fullSince := since (t.store.length + 1) } } }
      else s) ∧
  (t.up = true → t.lastBeat.toNat + 500 ≤ s.now.toNat → exec (.heartbeatTimer l) s = .next ((put { t with lastBeat := s.now }).sendFrame l 3 0
    [at' s.ws.term 24 ||| at' s.ws.role 21 ||| flagAt s.ws.side 20 ||| flagAt s.ws.synced 19, at' s.wseq 24, at' s.led.apos 0, at' s.ws.ahor 24, 0, 0])) ∧
  (s.now.toNat < t.lastBeat.toNat + 500 → exec (.heartbeatTimer l) s = .next s) ∧
  (t.up = true → s.ws.sync ≠ 1 → (t.lastGood.toNat + 2000 ≤ s.now.toNat → outOfService (.linkSilence l)) ∧
    ∀ t0, t.fullSince = some t0 → t0.toNat + 2000 ≤ s.now.toNat → outOfService (.twinReplayStoreFull l)) ∧
  (s.now.toNat < t.lastGood.toNat + 2000 → exec (.linkSilence l) s = .next s) ∧
  ((∀ t0, t.fullSince = some t0 → s.now.toNat < t0.toNat + 2000) → exec (.twinReplayStoreFull l) s = .next s) ∧
  (t.training = true → s.brd.powered = true → exec (.twinRetrainDone l true) s =
    .next (put { t with training := false, good := 0, tx := 0, rx := 0, rtry := false, store := [], fullSince := none })) ∧
  exec (.twinRetrainDone l false) s = .next s

/-- What a follower takes (R210-R212, R221, R227, R229, R230): STREAM words for their positions, written, verified and acknowledged; a whole
record at JN_WPOS taken and applied; COPY-START and COPY words installed; WTAB written; a heal request answered and a healed word installed. It
rests on the model's choices in log 19. -/
def Obligations.FollowersKeepWhatTheyAreSent : Prop := ∀ (s : State) (l : Fin 2) (fr : Frame),
  s.Inv →
  let t := s.took l fr
  let w := s.led.wpos.toNat
  let off := bits fr.w0 0 24
  let o := off.toNat
  let x := s.applied
  let inCell : Prop := x.peCellBase.toNat ≤ o ∧ o < x.peCellBase.toNat + 4 * x.peCellCount.toNat
  let lo := if x.peCellBase.toNat ≤ o ∧ o < x.peCellBase.toNat + 4 * x.peCellCount.toNat then x.peCellBase.toNat + (o - x.peCellBase.toNat) / 4 * 4 else o
  let held : Prop := (s.ws.role = 1 ∨ (s.ws.role = 2 ∧ s.ws.synced = true)) ∧ s.healable o = true ∧ s.ringHeld o = true ∧
    ∀ k : Nat, k < 4 → (k = 0 ∨ inCell) → (s.cell (plainAddr (lo + k))).bad = false
  let ordered (kind : BitVec 4) : Prop := s.frameInOrder l kind fr
  (ordered 1 → s.ws.role = 2 → ∃ (u : State) (p : Int), exec (.stream l fr) s = .next u ∧ p % 2 ^ 16 = fr.pos.toNat ∧ -(2 ^ 15) ≤ p - w ∧ p - w < 2 ^ 15 ∧
    u = { t with ws := { t.ws with rxWords := u.ws.rxWords } } ∧
    (∀ k : Nat, k < 6 → (w : Int) ≤ p + k → ((p + k).toNat, (frameWords fr).getD k 0) ∈ u.ws.rxWords) ∧
    ∀ y ∈ s.ws.rxWords, ((y.1 : Int) < p ∨ p + 6 ≤ y.1) → y ∈ u.ws.rxWords) ∧
  (ordered 1 → s.ws.role ≠ 2 → exec (.stream l fr) s = .next t) ∧
  (s.ws.role = 2 → s.ws.sync = 0 → s.ws.heals = [] → s.led.recs = [] → s.ws.rxHave = [] → s.ringFits → (∀ y ∈ s.ws.rxWords, y.1 ≠ w) →
    (s.ws.rxWords.map fun y => y.1 % 2 ^ x.jnRingLog2.toNat).Nodup →
    ∃ u, exec .followerWriteVerified s = .next u ∧ (∀ y ∈ s.ws.rxWords, u.ringWord y.1 = y.2) ∧ u.ws.rxWords = [] ∧ u.led.seqNext = s.led.seqNext ∧
      u.ws.ahor = s.ws.ahor ∧ u.led.wpos = s.led.wpos ∧ Sent s u 2 [at' s.wseq 24, at' s.ws.term 24, at' s.tblk 24, 0, 0, 0]) ∧
  (∀ n : Nat, s.ws.role = 2 → s.ws.sync = 0 → s.ws.heals = [] → s.led.recs = [] → s.led.flights = [] → s.ws.rxWords = [] → recLen (s.ringWord w) = some n →
    recType (s.ringWord w) ≠ 6 → recSeq (s.ringWord w) = s.led.seqNext → s.led.seqNext.toNat % 64 ≠ 0 → s.led.seqNext.toNat + 1 < 2 ^ 48 → w + n < 2 ^ 64 →
    (∀ i : Nat, i < n → w + i ∈ s.ws.rxHave) → w + n ∉ s.ws.rxHave → s.ws.ahor.toNat < s.led.seqNext.toNat →
    ∃ u, exec .followerWriteVerified s = .next u ∧ u.led.seqNext = s.led.seqNext + 1 ∧ u.led.wpos.toNat = w + n ∧ u.ws.ahor = s.led.seqNext ∧
      u.mem = (s.applyRecord w false none).mem ∧ Sent s u 2 [at' s.led.seqNext 24, at' s.ws.term 24, at' s.tblk 24, 0, 0, 0]) ∧
  (ordered 6 → s.ws.role = 2 → s.ws.sync = 3 → exec (.copyStart l fr) s = .next { t with ws := { t.ws with
      run := some { off := o, len := (bits fr.w1 0 16).toNat, horizon := bits fr.w2 24 48, got := 0, cell := [] },
      copied := if o = x.peFilterBase.toNat then 0 else s.ws.copied,
      ahor := if s.ws.run = none then bits fr.w2 24 48 else s.ws.ahor } }) ∧
  (∀ r : CopyRun, ordered 7 → s.ws.role = 2 → s.ws.sync = 3 → s.ws.run = some r → s.ws.live = [] → fr.pos.toNat = r.got → r.got ≤ r.len →
    r.off + r.len < 2 ^ 24 →
    (∀ k : Nat, r.got ≤ k → k < r.len → r.off + k < x.jnRingBase.toNat ∨ x.jnRingBase.toNat + 2 ^ x.jnRingLog2.toNat ≤ r.off + k) →
    let at_ (k : Nat) : WAddr := plainAddr (r.off + r.got + k)
    let isCell (k : Nat) : Prop := x.peCellBase.toNat ≤ r.off + r.got + k ∧ r.off + r.got + k < x.peCellBase.toNat + 4 * x.peCellCount.toNat
    ((∀ k : Nat, r.got + k < r.len → s.healable (r.off + r.got + k) = true ∧ ¬isCell k) →
      ∃ u, exec (.copy l fr) s = .next u ∧ (∀ k : Nat, k < 6 → r.got + k < r.len → u.data (at_ k) = (frameWords fr).getD k 0) ∧
      (∀ a, (∀ k : Nat, k < 6 → r.got + k < r.len → a ≠ at_ k) → u.data a = s.data a) ∧
      u.ws.run = some { r with got := r.got + min 6 (r.len - r.got) } ∧ u.ws.copied = s.ws.copied + min 6 (r.len - r.got)) ∧
    (r.cell = [] → r.len = r.got + 4 → (∀ k : Nat, k < 4 → isCell k) → (r.off + r.got - x.peCellBase.toNat) % 4 = 0 → (s.cell (at_ 2)).bad = false →
      ∃ u, exec (.copy l fr) s = .next u ∧ u.ws.run = some { r with got := r.len } ∧ (∀ a, (∀ k : Nat, k < 4 → a ≠ at_ k) → u.data a = s.data a) ∧
      ∀ k : Nat, k < 4 → u.data (at_ k) =
        if (bits fr.w2 24 48).toNat < (bits (s.data (at_ 2)) 24 48).toNat then s.data (at_ k) else (frameWords fr).getD k 0)) ∧
  (let q := (bits fr.w1 0 24).toNat
   ordered 9 → s.ws.role = 2 → x.wsWtable.toNat ≠ 0 → x.wsWtable.toNat ≤ q → q < x.wsWtable.toNat + 4096 →
    exec (.wtab l fr) s = .next ((t.putWord (plainAddr q) fr.w0).sendAck)) ∧
  (ordered 4 → held →
    ∃ (u : State) (ws : List Word), exec (.healReq l fr) s = .next u ∧ u = t.sendFirst 5 0 ([flagAt true 71 ||| at' off 0, at' s.ws.ahor 24] ++ ws) ∧ ws.length = 4 ∧
      ws.getD 0 0 = s.data (plainAddr lo) ∧ (inCell → ∀ k : Nat, k < 4 → ws.getD k 0 = s.data (plainAddr (lo + k)))) ∧
  (ordered 4 → ¬held → exec (.healReq l fr) s = .next (t.sendFirst 5 0 [at' off 0, at' s.ws.ahor 24, 0, 0, 0, 0])) ∧
  (ordered 5 → bit fr.w0 71 = false → exec (.healData l fr) s = .next t) ∧
  (∀ h : Heal, ordered 5 → bit fr.w0 71 = true → s.ws.heals = [h] → h.off = off →
    (s.ws.ahor.toNat < (bits fr.w1 24 48).toNat →
      exec (.healData l fr) s = .next { t with ws := { t.ws with heals := [{ h with data := some (bits fr.w1 24 48, [fr.w2, fr.w3, fr.w4, fr.w5]) }] } }) ∧
    (s.ws.ahor = bits fr.w1 24 48 → ∃ u, exec (.healData l fr) s = .next u ∧ u.ws.heals = [] ∧ u.ws.healCnt = s.ws.healCnt + 1 ∧
      u.data (plainAddr lo) = fr.w2 ∧ (inCell → u.data (plainAddr (lo + 1)) = fr.w3 ∧ u.data (plainAddr (lo + 2)) = fr.w4 ∧ u.data (plainAddr (lo + 3)) = fr.w5) ∧
      (∀ a, (∀ k : Nat, k < 4 → a ≠ plainAddr (lo + k)) → u.data a = s.data a) ∧
      (¬inCell → ∀ a, a ≠ plainAddr lo → u.data a = s.data a) ∧
      ∀ n : CoreId, u.cores[n].wait = if s.cores[n].wait = some (plainAddr o) then none else s.cores[n].wait)) ∧
  (∀ f : BitVec 24, (∃ h ∈ s.ws.heals, h.off = f ∧ h.since.toNat + 2000 ≤ s.now.toNat) → ∃ u, exec (.healWaitExpiry f) s = .next u ∧
    u.ws.healFail = s.ws.healFail + 1 ∧ u.ws.heals = s.ws.heals.filter (fun h => h.off != f) ∧ bit u.ws.evt 8 = true ∧ u.mem = s.mem ∧
    (∀ g ∈ u.led.flights, ∀ y ∈ g.legs, y.heal ≠ some f) ∧ ∀ n : CoreId, u.cores[n].wait ≠ some (plainAddr f.toNat)) ∧
  (∀ f : BitVec 24, (∀ h ∈ s.ws.heals, h.off = f → s.now.toNat < h.since.toNat + 2000) → exec (.healWaitExpiry f) s = .next s)

/-- Acknowledgements, roles and reconnection (R203, R205, R211, R214-R217, R223-R226, R233-R235): an ACK of the leader's term makes records
durable and completes their postings; a heartbeat, the lease, the role record, RECON and the Watershed jobs change the role as their rules say.
It rests on the model's choices in log 15, 18, 19. -/
def Obligations.RolesFollowTheTwin : Prop := ∀ (s : State) (l : Fin 2) (fr : Frame),
  let ordered (kind : BitVec 4) : Prop := s.frameInOrder l kind fr
  let aseq := bits fr.w0 24 48
  let tblk := if s.ws.twinTblk.toNat < (bits fr.w2 24 48).toNat then bits fr.w2 24 48 else s.ws.twinTblk
  let together : Prop := s.ws.contact = true ∧ apart s.ws.role = false ∧ apart s.ws.twinRole = false
  (∀ (r : Rec) (f : Flight) (st : BitVec 8) (leg : BitVec 4), ordered 2 → together → s.ws.role = 1 → bits fr.w1 24 48 = s.ws.term → s.ws.heals = [] →
    s.ws.mseq.toNat < aseq.toNat → aseq.toNat ≤ s.wseq.toNat →
    (s.led.recs.filter fun r => !r.trailer && r.written && decide (s.ws.ahor.toNat < r.seq.toNat) && decide (r.seq.toNat ≤ aseq.toNat)) = [r] →
    s.led.flights.find? (fun f => f.seq == r.seq) = some f → f.kind = .posting → f.prepare = false → f.decided = some (st, leg) →
    ∃ u, exec (.twinAck l fr) s = .next u ∧ u.ws.mseq = aseq ∧ u.ws.ahor = r.seq ∧ u.ws.twinTblk = tblk ∧ u.mem = (s.applyRecord r.pos.toNat false none).mem ∧
      u.led.flights = s.led.flights.filter (fun g => g.seq != r.seq) ∧
      u.led.accept = (if st = 0 then s.led.accept + 1 else s.led.accept) ∧ u.led.reject = (if st = 0 then s.led.reject else s.led.reject + 1) ∧
      u.led.done = s.led.done ++
        [{ req := f.req, final := false, word := complWord st f.seq (if st = 0 then 0 else leg) false f.solo f.xp 0 }]) ∧
  (ordered 2 → together → s.ws.role = 1 → bits fr.w1 24 48 = s.ws.term → s.ws.heals = [] → aseq.toNat ≤ s.ws.mseq.toNat →
    ∃ u, exec (.twinAck l fr) s = .next u ∧ u.ws.mseq = s.ws.mseq ∧ u.ws.ahor = s.ws.ahor ∧ u.ws.twinTblk = tblk ∧ u.mem = s.mem ∧ u.led.done = s.led.done) ∧
  (ordered 2 → together → s.ws.sideConflict = false → bits fr.w1 24 48 ≠ s.ws.term → exec (.twinAck l fr) s = .next (s.heard l fr).startRecon) ∧
  (ordered 3 → bit fr.w0 20 = s.ws.side → ∃ u, exec (.heartbeat l fr) s = .next u ∧ u.ws.sideConflict = true ∧ u.ws.role = 0 ∧ bit u.ws.evt 12 = true) ∧
  (ordered 3 → bit fr.w0 20 ≠ s.ws.side → bits fr.w0 21 3 = 1 → s.ws.contact = true → s.ws.role = 2 → s.ws.sync = 0 → aseq = s.ws.term →
    let apos := bits fr.w2 0 64
    let both := bits fr.w3 24 48
    exec (.heartbeat l fr) s = .next {
      (s.heard l fr).leased with
      ws := {
        (s.heard l fr).leased.ws with
        twinRole := 1, twinSynced := bit fr.w0 19, twinWseq := bits fr.w1 24 48, twinApos := apos,
        mseq := if s.ws.mseq.toNat < both.toNat ∧ both.toNat ≤ s.wseq.toNat then both else s.ws.mseq },
      led := if s.led.apos.toNat ≤ apos.toNat ∧ apos.toNat ≤ s.led.wpos.toNat
        then { s.led with apos := apos, xpos := if s.led.xpos.toNat < apos.toNat then apos else s.led.xpos,
                          dpos := if s.led.dpos.toNat < apos.toNat then apos else s.led.dpos }
        else s.led }) ∧
  (ordered 3 → bit fr.w0 20 ≠ s.ws.side → bits fr.w0 21 3 = 4 → s.ws.role = 1 → ∃ u, exec (.heartbeat l fr) s = .next u ∧ u.ws.role = 0 ∧ u.led.arrivals = []) ∧
  (s.ws.contact = true → s.ws.lastTerm.toNat + 20000 ≤ s.now.toNat →
    (s.ws.role = 1 ∨ s.ws.role = 2 → ∃ u, exec .leaseExpiry s = .next u ∧ u.ws.role = 0 ∧ u.ws.contact = false ∧ bit u.ws.evt 0 = true ∧
      (s.ws.role = 1 → u.led.arrivals = [])) ∧
    (s.ws.role = 3 → ∃ u, exec .leaseExpiry s = .next u ∧ u.ws.role = 3 ∧ u.ws.contact = false ∧ bit u.ws.evt 0 = true ∧ u.led = s.led)) ∧
  (s.now.toNat < s.ws.lastTerm.toNat + 20000 → exec .leaseExpiry s = .next s) ∧
  (s.Inv → s.brd.powered = true → ∃ u, exec .roleRecordRewrite s = .next u ∧ u.ws = { s.ws with gen := s.ws.gen + 1, copy := !s.ws.copy, lastWrite := s.now } ∧
    (let a (k : Nat) : WAddr := plainAddr (0xFF0010 + (if u.ws.copy then 4 else 0) + k)
     u.data (a 0) = at' s.ws.term 24 ||| at' s.ws.role 21 ||| at' s.ws.lrole 19 ||| flagAt s.ws.side 18 ||| at' (s.ws.gen + 1) 0 ∧
     u.data (a 1) = at' s.ws.mseq 24 ∧ u.data (a 2) = at' s.ws.soloFirst 24 ∧ u.data (a 3) = at' s.ws.ahor 24 ∧
     ∀ x, (∀ k : Nat, k < 4 → x ≠ a k) → u.data x = s.data x)) ∧
  (s.brd.powered = false → exec .roleRecordRewrite s = .next s) ∧
  (∀ t0, s.ws.recon = some t0 → (t0.toNat + 100000 ≤ s.now.toNat → ∃ u, exec .reconnectionTimer s = .next u ∧ u.ws.recon = some s.now ∧
      Sent s u 8 [at' s.ws.term 24 ||| at' s.ws.role 21 ||| at' s.ws.lrole 19 ||| flagAt s.ws.side 18 ||| at' s.ws.gen 0, at' s.ws.mseq 24,
        at' s.ws.soloFirst 24, at' s.ws.ahor 24, at' s.wseq 24, s.applied.digest]) ∧
    (s.now.toNat < t0.toNat + 100000 → exec .reconnectionTimer s = .next s)) ∧
  (s.ws.role = 0 → s.ws.contact = false → s.asksWitness = true → s.ws.lastGreq.toNat + 50000 ≤ s.now.toNat → exec .grantRequestTimer s = .next
    (({ s with ws := { s.ws with lastGreq := s.now } } : State).grantMsg s.applied.wsWitness false 0 1 0
      [at' s.ws.term 24 ||| at' s.applied.lbPair 12 ||| flagAt s.ws.side 11, at' s.wseq 24])) ∧
  (s.now.toNat < s.ws.lastGreq.toNat + 50000 → exec .grantRequestTimer s = .next s) ∧
  (∀ words : List Word, ordered 8 → bit fr.w0 18 = s.ws.side →
    ∃ u, exec (.recon l fr words) s = .next u ∧ u.ws.sideConflict = true ∧ u.ws.role = 0 ∧ bit u.ws.evt 12 = true) ∧
  (∀ words : List Word, ordered 8 → bit fr.w0 18 ≠ s.ws.side → apart (bits fr.w0 21 3) = false → apart s.ws.role = false → s.ws.sideConflict = false →
    let term := bits fr.w0 24 48
    let mseq := (bits fr.w1 24 48).toNat
    let solo := bits fr.w2 24 48
    let wseq := (bits fr.w4 24 48).toNat
    let lo := min s.ws.mseq.toNat mseq
    let hi := min s.wseq.toNat wseq
    let mine := s.ringRecords.filter fun r => recType r.2 != 6 && decide (lo < (recSeq r.2).toNat) && decide ((recSeq r.2).toNat ≤ hi)
    let c : BitVec 48 := match s.firstDiff mine (splitRecords words.length words) with
      | some q => q - 1
      | none => BitVec.ofNat 48 hi
    let twinSolo : Prop := (∃ r ∈ splitRecords words.length words, c.toNat < (recSeq (r.getD 0 0)).toNat ∧ recSolo (r.getD 0 0) = true) ∨
      (solo ≠ 0 ∧ solo.toNat ≤ wseq ∧ c.toNat < wseq)
    let ownSolo : Prop := ∃ r ∈ s.ringRecords, recType r.2 ≠ 6 ∧ c.toNat < (recSeq r.2).toNat ∧ recSolo r.2 = true
    let led (r : BitVec 2) : Prop := r = 1 ∨ r = 3
    let wins : Prop := term.toNat < s.ws.term.toNat ∨ (term = s.ws.term ∧
      ((led s.ws.lrole ∧ ¬led (bits fr.w0 19 2)) ∨ ((led s.ws.lrole ↔ led (bits fr.w0 19 2)) ∧ s.ws.side = false)))
    let higher := if s.ws.term.toNat < term.toNat then term else s.ws.term
    (fr.w5 ≠ s.applied.digest → ∃ u, exec (.recon l fr words) s = .next u ∧ u.ws.role = s.ws.role ∧ u.ws.recon = none ∧ bit u.ws.evt 13 = true ∧ u.mem = s.mem) ∧
    (fr.w5 = s.applied.digest →
      (ownSolo → twinSolo → ∃ u, exec (.recon l fr words) s = .next u ∧ u.ws.role = 5 ∧ u.ws.divPfx = c ∧ u.ws.divTail = s.wseq ∧ u.ws.recon = none) ∧
      (¬(ownSolo ∧ twinSolo) → (ownSolo ∨ (¬twinSolo ∧ wins)) → ∃ u, exec (.recon l fr words) s = .next u ∧ u.ws.role = (if s.ws.role = 3 then 3 else 0) ∧
        u.ws.sync = 1 ∧ u.ws.term = higher ∧ u.ws.recon = none) ∧
      (¬ownSolo → (twinSolo ∨ ¬wins) → ∃ u, exec (.recon l fr words) s = .next u ∧ u.ws.role = 2 ∧ u.ws.term = higher ∧ u.ws.recon = none ∧
        u.ws.sync = (if s.ws.lostApplied = true ∨ c.toNat < s.ws.ahor.toNat ∨ s.ringCovers = false then 3 else 2)))) ∧
  (∀ (j : JobId) (x : Job), s.jobActs j 0x11 x → (s.ws.role ≠ 5 → ∃ v, JobEnds (.fence j) s v x 0 0 0 ∧ v.ws.role = 4 ∧ v.ws.sync = 0 ∧
      ((s.ws.role = 1 ∨ s.ws.role = 3) → v.led.arrivals = [])) ∧
    (s.ws.role = 5 → JobEnds (.fence j) s (s.begun j) x 0x0A 1 0)) ∧
  (∀ (j : JobId) (x : Job), s.jobActs j 0x12 x → (s.ws.role = 4 → ∃ v, JobEnds (.unfence j) s v x 0 0 0 ∧ v.ws.role = 0 ∧
      (s.ws.contact = true → apart s.ws.twinRole = false → s.ws.sideConflict = false → v.ws.recon.isSome = true)) ∧
    (s.ws.role ≠ 4 → JobEnds (.unfence j) s (s.begun j) x 0x0A 1 0)) ∧
  (∀ (j : JobId) (x : Job) (w : ReconcileWords), s.jobActs j 0x13 x → bits x.s1 0 23 = 0 → bits x.s2 0 24 = 0 →
    let term := bits x.s1 24 48
    let pfx := bits x.s2 24 48
    (s.ws.role ≠ 5 → ∀ tw, JobEnds (.reconcile j tw) s (s.begun j) x 0x0A 1 0) ∧
    (s.ws.role = 5 → (pfx ≠ s.ws.divPfx ∨ term.toNat ≤ max s.ws.term.toNat w.ownTerm.toNat) → JobEnds (.reconcile j (some w)) s (s.begun j) x 0x0A 2 0) ∧
    (s.ws.role = 5 → pfx = s.ws.divPfx → max s.ws.term.toNat w.ownTerm.toNat < term.toNat → s.ws.reconcile = none →
      (w.term = term → w.pfx = pfx → w.keep ≠ bit x.s1 23 → ∃ v, JobEnds (.reconcile j (some w)) s v x 0 0 0 ∧ v.ws.term = term ∧ v.ws.reconcile = none ∧
        v.ws.role = (if bit x.s1 23 then 0 else 2) ∧ v.ws.sync = (if bit x.s1 23 then 1 else 3)) ∧
      (w.keep = bit x.s1 23 → let own : ReconcileWords := { term := term, keep := bit x.s1 23, pfx := pfx, ownTerm := s.ws.term }
        exec (.reconcile j (some w)) s = .next { s.begun j with ws := { s.ws with reconcile := some (j, own, s.now) } }))) ∧
  (∀ (j : JobId) (x : Job) (w : ReconcileWords) (t0 : BitVec 64), s.ws.reconcile = some (j, w, t0) → s.job j = some x →
    (t0.toNat + 1000000 ≤ s.now.toNat → JobEnds (.reconcileTimeout j) s { s with ws := { s.ws with reconcile := none } } x 0x0A 3 0) ∧
    (s.now.toNat < t0.toNat + 1000000 → exec (.reconcileTimeout j) s = .next s))

/-- Witnesses and grants (R218-R222): a GREQ is recorded and the other side probed, or its grant repeated; a PROBE is answered; the answer or the
timer chooses a side, whose term goes to the table before the grant; a grant that passes R219 makes a HELD module SOLO. It rests on the model's
choices in log 19. -/
def Obligations.WitnessesGrantOneSide : Prop := ∀ (s : State) (w : Word) (seq : BitVec 48) (pair : PairId) (side : Bool),
  let word (term : BitVec 48) (p : PairId) (sd : Bool) : Word := at' term 24 ||| at' p 12 ||| flagAt sd 11
  let serves : Prop := (s.ws.role = 1 ∨ s.ws.role = 3) ∧ s.applied.wsWtable ≠ 0
  let p := bits w 12 12
  let row := s.data (plainAddr (s.applied.wsWtable.toNat + p.toNat))
  let g := bits row 24 48
  let again : Prop := g ≠ 0 ∧ bit row 23 = bit w 11 ∧ (bits w 24 48).toNat < g.toNat
  let chooses (x : WitReq) (sd : Bool) (i : Instr) : Prop :=
    let off := s.applied.wsWtable.toNat + x.pair.toNat
    let v := at' x.term 24 ||| flagAt sd 23
    (s.ws.role = 1 → exec i s = .next (({ s.putWord (plainAddr off) v with ws := { s.ws with
      wits := s.ws.wits.map fun y => if y.pair = x.pair then { y with chosen := some sd } else y } } : State).sendFirst 9 0 [v, BitVec.ofNat 72 off, 0, 0, 0, 0])) ∧
    (s.ws.role ≠ 1 → exec i s = .next ((({ s.putWord (plainAddr off) v with ws := { s.ws with
      wits := s.ws.wits.filter fun y => y.pair != x.pair } } : State).grantMsg x.pair sd 1 9 0 [word x.term x.pair sd]).setWsEvt 11))
  (¬serves → exec (.greq w seq) s = .next s) ∧
  (serves → (∃ x ∈ s.ws.wits, x.pair = p) → exec (.greq w seq) s = .next s) ∧
  (serves → (∀ x ∈ s.ws.wits, x.pair ≠ p) → again → exec (.greq w seq) s = .next (s.grantMsg p (bit w 11) 1 9 0 [word g p (bit w 11)])) ∧
  (serves → (∀ x ∈ s.ws.wits, x.pair ≠ p) → ¬again → ∃ x : WitReq,
    exec (.greq w seq) s = .next (({ s with ws := { s.ws with wits := s.ws.wits ++ [x] } } : State).grantMsg p (!bit w 11) 0 2 0 [w]) ∧
    x.pair = p ∧ x.side = bit w 11 ∧ x.wseq = seq ∧ x.since = s.now ∧ x.chosen = none ∧
    (max (bits w 24 48).toNat g.toNat + 1 < 2 ^ 48 → x.term.toNat = max (bits w 24 48).toNat g.toNat + 1)) ∧
  exec (.probe pair side) s = .next (s.grantMsg pair side 1 8 s.ws.role [word s.ws.term s.applied.lbPair s.ws.side, at' s.wseq 24]) ∧
  (∀ x, s.ws.wits.find? (fun x => x.pair == p && x.side != bit w 11 && x.chosen.isNone) = some x →
    chooses x (if x.wseq = seq then false else if seq.toNat < x.wseq.toNat then x.side else !x.side) (.probeAns 0 w seq) ∧
    chooses x x.side (.probeAns 4 w seq) ∧
    ∀ r : BitVec 3, r ≠ 0 → r ≠ 4 → exec (.probeAns r w seq) s = .next
      (({ s with ws := { s.ws with wits := s.ws.wits.filter fun y => y.pair != x.pair } } : State).setWsEvt 11)) ∧
  (∀ x, s.ws.wits.find? (fun x => x.pair == pair && x.chosen.isNone && decide (x.since.toNat + 10000 ≤ s.now.toNat)) = some x →
    chooses x x.side (.witnessProbeTimer pair)) ∧
  ((∀ x ∈ s.ws.wits, x.pair = pair → s.now.toNat < x.since.toNat + 10000) → exec (.witnessProbeTimer pair) s = .next s) ∧
  (∀ (x : WitReq) (sd : Bool), s.ws.wits.find? (fun x => x.pair == pair) = some x → x.chosen = some sd → exec (.witnessTableAcked pair) s = .next
    ((({ s with ws := { s.ws with wits := s.ws.wits.filter fun y => y.pair != x.pair } } : State).grantMsg x.pair sd 1 9 0 [word x.term x.pair sd]).setWsEvt 11)) ∧
  (let code : BitVec 8 := if bits w 12 12 ≠ s.applied.lbPair ∨ bit w 11 ≠ s.ws.side then 1
      else if (bits w 24 48).toNat ≤ s.ws.term.toNat then 2 else if s.ws.role ≠ 0 ∧ s.ws.role ≠ 3 then 3
      else if s.ws.contact = true ∧ s.ws.twinRole ≠ 4 then 4 else if bits w 0 11 ≠ 0 then 5 else if s.ws.sideConflict = true then 6 else 0
   let last := setBits w 0 8 code
   let taken (s u : State) : Prop :=
     (code ≠ 0 → u = ({ s with ws := { s.ws with grantLast := last } } : State).setWsEvt 9) ∧
     (code = 0 → u.ws.grantLast = last ∧ u.ws.term = bits w 24 48 ∧ u.ws.role = 3 ∧
       (s.ws.role = 0 → u.ws.soloFirst = s.led.seqNext ∧ u.ws.sync = 0 ∧ u.ws.recon = none) ∧
       (s.ws.role = 3 → u.ws.soloFirst = s.ws.soloFirst ∧ u.led = s.led))
   (∃ u, exec (.grantMsg w) s = .next u ∧ taken s u) ∧
   ∀ (j : JobId) (x : Job), s.jobActs j 0x10 x → x.s1 = w → ∃ v, JobEnds (.grant j) s v x 0 0 last ∧ taken (s.begun j) v)

/-! ## Channel engines -/

/-- Programs on an engine (R387-R397, R400, R405, R407-R412): a request puts a block on the ready list, refuses it, resumes or halts it; an
engine takes the best ready program, gives way to a better one, and leaves what it held in the block when the program stops or faults. On the
conditions that each clause sets on the state and the operands alone, chStart, chResume, chHalt, chCreditAdd, programDispatch, preemption, stop,
rejectRingRetry, buildPostCompletion and creditWaitTimeout each answer a next state with their own effect. It rests on the model's choices in
log 13. -/
def Obligations.EnginesRunTheirPrograms : Prop := ∀ (s : State) (n : CoreId) (e : EngId) (v : Word), s.Inv →
  let x := s.engines[e]
  let put (z : Engine) : State := { s with engines := s.engines.set e z }
  let ignored (t : State) : State :=
    { t with engines := t.engines.set e { t.engines[e] with reqErr := t.engines[e].reqErr + 1, evt := setBit t.engines[e].evt 5 true } }
  let entry (t : State) (pa : WAddr) : ChReady :=
    { cpb := pa, prio := bits (t.data pa) 65 3, space := (t.rootOf (.core n 1)).2, troot := (t.rootOf (.core n 1)).1, preempted := false }
  let left (t u : State) (pa : WAddr) (ks : List Nat) : Prop := ∀ a, (∀ k ∈ ks, a ≠ pa + BitVec.ofNat 52 k) → u.data a = t.data a
  EngineAsk (.chStart n e v) s n v (fun pa t u =>
    rangeInMem pa 40 = true → t.guardedWords pa (List.range 40) = false →
    ((t.cell pa).bad = true → u.data (pa + 2) = at' (7 : BitVec 4) 68 ∧ left t u pa [2] ∧ bit u.engines[e].evt 2 = true) ∧
    ((t.cell pa).bad = false →
    let y := t.engines[e]
    let refused (code : BitVec 8) : Prop :=
      u = { t with mem := u.mem } ∧ u.data (pa + 2) = at' (6 : BitVec 4) 68 ||| at' code 53 ∧ left t u pa [2]
    (¬t.blockForm v pa → refused 2) ∧
    (t.blockForm v pa → (y.fenced = true → refused 4) ∧ (y.fenced = false → (t.blockBusy pa → refused 3) ∧ (¬t.blockBusy pa →
      (8 ≤ y.ready.length → refused 1) ∧
      (y.ready.length < 8 → u = { t with mem := u.mem, engines := t.engines.set e { y with ready := y.ready ++ [entry t pa] } } ∧
        u.data (pa + 2) = at' (1 : BitVec 4) 68 ∧ u.data (pa + 3) = 0 ∧ u.data (pa + 4) = 0 ∧ u.data (pa + 5) = 0 ∧ left t u pa [2, 3, 4, 5])))))) ∧
  EngineAsk (.chResume n e v) s n v (fun pa t u =>
    let ok : Prop := t.blockForm v pa ∧ (t.cell pa).bad = false ∧ (t.cell (pa + 2)).bad = false ∧ bits (t.data (pa + 2)) 68 4 = 3 ∧ ¬t.blockBusy pa ∧
      t.engines[e].fenced = false ∧ t.engines[e].ready.length < 8
    (ok → t.guardedWords pa (List.range 40) = false →
      u = { t with mem := u.mem, engines := t.engines.set e { t.engines[e] with ready := t.engines[e].ready ++ [entry t pa] } } ∧
      u.data (pa + 2) = setBits (t.data (pa + 2)) 68 4 1 ∧ left t u pa [2]) ∧
    (¬ok → u = ignored (if isLocalMem pa then (t.raiseBadIn pa 1).raiseBadIn (pa + 2) 1 else t))) ∧
  EngineAsk (.chHalt n e v) s n v (fun pa t u =>
    let y := t.engines[e]
    ((∃ r ∈ y.ready, r.cpb = pa) → t.blockFree pa → u.data (pa + 2) = setBits (setBits (t.data (pa + 2)) 68 4 5) 32 16 0xFFFF ∧ left t u pa [2] ∧
      u.srcs = (t.raise (8 * e.val + 1)).srcs ∧
      u.engines[e] = { y with ready := y.ready.filter (fun r => r.cpb != pa), evt := setBit y.evt 1 true }) ∧
    ((∀ r ∈ y.ready, r.cpb ≠ pa) → ∀ q, y.running = some q →
      (q.cpb = pa → t.canLeave e q = true → t.blockFree pa → q.waitFrom = none → BlockHolds t u { q with stopcode := 0xFFFF } 5 ∧
        u.srcs = (t.raise (8 * e.val + 1)).srcs ∧
        u.engines[e] = { y with running := none, wait := none, arrived := [], evt := setBit y.evt 1 true }) ∧
      (q.cpb = pa → t.canLeave e q = false → u = { t with engines := t.engines.set e { y with
        running := some { q with halt := true }, windows := if t.atPoint q then [] else y.windows } }) ∧
      (q.cpb ≠ pa → u = ignored t)) ∧
    ((∀ r ∈ y.ready, r.cpb ≠ pa) → y.running = none → u = ignored t)) ∧
  (∀ k : Fin 4, ControlStore (.chCreditAdd n e k v) s n fun t u =>
    let y := t.engines[e]
    let a := y.credit[k].toNat + (bits v 0 32).toNat
    u = { t with engines := t.engines.set e (if a < 2 ^ 32 then { y with credit := y.credit.set k (BitVec.ofNat 32 a) }
      else { y with credit := y.credit.set k (BitVec.allOnes 32), evt := setBit y.evt 6 true }) }) ∧
  (x.running = none → x.fenced = false → (∀ r, x.best r → s.blockFree r.cpb → s.anyBad r.cpb 40 = false →
      ∃ (u : State) (q : ChProg), exec (.programDispatch e) s = .next u ∧ ProgOf s r q ∧
        u = { s with mem := u.mem, engines := s.engines.set e { x with running := some q, ready := x.ready.filter fun y => y.cpb != r.cpb } } ∧
        bits (u.data (r.cpb + 2)) 68 4 = 2 ∧ left s u r.cpb [2]) ∧
    (∀ r, x.best r → s.blockFree r.cpb → s.anyBad r.cpb 40 = true → ∃ u, exec (.programDispatch e) s = .next u ∧
      u.data (r.cpb + 2) = at' (7 : BitVec 4) 68 ∧ left s u r.cpb [2] ∧ u.srcs = ((s.raiseBadIn r.cpb 40).raise (8 * e.val + 1)).srcs ∧
      u.engines[e] = { x with ready := x.ready.filter (fun y => y.cpb != r.cpb), evt := setBit x.evt 2 true })) ∧
  (x.running = none → x.ready = [] → exec (.programDispatch e) s = .next s) ∧
  (∀ p, x.running = some p → p.halt = false → exec (.programDispatch e) s = .next s ∧
    (∀ r, x.best r → bits p.w0 65 3 < r.prio → s.canLeave e p = true → p.waitFrom = none → p.cpb ≠ r.cpb → s.blockFree p.cpb → s.blockFree r.cpb →
      s.anyBad r.cpb 40 = false → ∃ (u t : State) (q : ChProg), exec (.preemption e) s = .next u ∧ BlockHolds s t p 4 ∧ ProgOf s r q ∧
        bits (u.data (r.cpb + 2)) 68 4 = 2 ∧ left t u r.cpb [2] ∧
        u.engines[e] = { x with running := some q, wait := none, arrived := [], preemptCnt := x.preemptCnt + 1,
                                ready := x.ready.filter (fun y => y.cpb != r.cpb) ++
                                  [{ cpb := p.cpb, prio := bits p.w0 65 3, space := p.space, troot := p.troot, preempted := true }] }) ∧
    (∀ r, x.best r → bits p.w0 65 3 < r.prio → s.canLeave e p = false →
      exec (.preemption e) s = .next (if s.atPoint p then put { x with windows := [] } else s)) ∧
    ((∀ r ∈ x.ready, r.prio ≤ bits p.w0 65 3) → exec (.preemption e) s = .next s)) ∧
  (∀ (t : State) (q : ChProg) (w : Word), s.ccwAt e 0 q w t → q.waitFrom = none → t.blockFree q.cpb →
    let y := t.engines[e]
    (y.posts = [] → ∃ u, exec (.stop e) s = .next u ∧ BlockHolds t u { q with stopcode := bits w 0 16 } 5 ∧ u.srcs = (t.raise (8 * e.val + 1)).srcs ∧
      u.engines[e] = { y with running := none, wait := none, arrived := [], ccwCnt := y.ccwCnt + 1, evt := setBit y.evt 1 true }) ∧
    (y.posts ≠ [] → exec (.stop e) s = .next t)) ∧
  (∀ (p : ChProg) (w : Word) (t : State), x.running = some p → s.canRun e p = true → p.halt = false → p.ccw = none → p.waitFrom = none → x.posts = [] →
    ccwFetch e p s = .ok w t → t.engines[e].running = some p → 0xC ≤ (bits w 68 4).toNat → t.blockFree p.cpb → ∃ u, exec (.move e) s = .next u ∧
      BlockHolds t u { p with cls := 0, code := 1, slot := 0, faddr := 0, fphys := 0 } 3 ∧ u.srcs = (t.raise (8 * e.val)).srcs ∧
      u.engines[e].running = none ∧ u.engines[e].faultCnt = t.engines[e].faultCnt + 1 ∧ bit u.engines[e].evt 0 = true) ∧
  (∀ (p : ChProg) (r : ChReject), x.running = some p → p.reject = some r → p.halt = false → x.wait = none → x.fenced = false → r.ticket = none →
    r.written = none →
    let log := (bits p.w6 68 4).toNat
    let ctl (k : Nat) : DAddr := daOf (bits p.w7 0 52 + BitVec.ofNat 52 k) 0
    log ≠ 0 → ∀ (cons prod : Word) (t1 t2 : State), engWord e p 1 (ctl 1) s = .ok cons t1 → engWord e p 1 (ctl 0) t1 = .ok prod t2 →
    t2.engines[e].running = some p →
    let used := bits prod 0 64 - bits cons 0 64
    (2 ^ log ≤ used.toNat → ∃ u, exec (.rejectRingRetry e) s = .next u ∧ u.mem = t2.mem ∧ u.engines[e].running = some { p with reject := some { r with full := true } } ∧
      (r.full = true → u = t2.forget e) ∧ (r.full = false → bit u.engines[e].evt 4 = true)) ∧
    (∀ (copy : Option (List (BitVec 4))) (t3 t4 t5 : State) (rs cs : List WordRef) (w : Word), used.toNat < 2 ^ log →
      rejectCopy e p t2 = .ok copy t3 → (∀ l, copy = some l → l.length = 72) →
      engRefs e p 1 permStore .store (daOf (bits p.w6 0 52 + BitVec.ofNat 52 (8 * ((bits prod 0 64).toNat % 2 ^ log))) 0) 144 t3 = .ok rs t4 →
      engRefs e p 1 permStore .store (ctl 0) 18 t4 = .ok cs t5 → t5.engReady (rs ++ cs) → t5.engClear e → t5.engines[e].running = some p → p.ccw = some w → r.cmd = 5 → advancesOk p w = true →
      ∃ u, exec (.rejectRingRetry e) s = .next u ∧
        EngStored t5 u (rs ++ cs) ([at' r.reason 64 ||| at' r.cmd 60 ||| at' (BitVec.ofNat 5 e.val) 55 ||| flagAt copy.isNone 54 ||| at' r.cpc 0,
          at' r.detail 64 ||| r.addr.setWidth 72, r.recno, at' t5.now 8].flatMap posList ++ copy.getD (List.replicate 72 0) ++
          posList (at' (bits prod 0 64 + 1) 0)) ∧
        u.engines[e].rejVal = t5.engines[e].rejVal + 1 ∧ bit u.engines[e].evt 3 = true ∧
        u.engines[e].running = some ({ p with reject := none }.completed w 3 (p.cpc + 1)))) ∧
  (∀ (p : ChProg) (q : EngPost) (z : Word), x.running = some p → p.reject = none → p.halt = false → x.wait = none → x.fenced = false →
    x.posts.find? (fun y => y.result.isSome && y.stored) = some q → q.result = some z → (q.rej = false ∨ bits z 64 8 < 0x10) →
    let st := (bits z 64 8).toNat
    let posts := x.posts.filter fun y => y.ticket != q.ticket
    (∀ w, p.ccw = some w → p.waitPost = some q.ticket → 
      let cc := if st < 0x10 then 0 else if st < 0x30 then 1 else if st < 0x40 then 2 else if st < 0x60 then 3 else 2
      exec (.buildPostCompletion e) s = .next (put { x with posts := posts, ccwCnt := x.ccwCnt + 1, arrived := [], running := some (p.completed w cc (p.cpc + 1)) })) ∧
    (p.waitPost ≠ some q.ticket → exec (.buildPostCompletion e) s = .next (put { x with posts := posts }))) ∧
  (∀ (p : ChProg) (q : EngPost), x.running = some p → x.wait = none → x.fenced = false → q ∈ x.posts → x.posts.head? = some q →
    (∀ y ∈ x.posts, y.result.isSome = true ∧ y.stored = false) → s.blockFree p.cpb → ∃ u, exec (.buildPostCompletion e) s = .next u ∧
    BlockHolds s u { p with
      cpc := q.cpc, done := 0, elem := 0, waitns := 0, cls := clsLateStore, code := 2, slot := 0, faddr := 0, fphys := q.slot } 3 ∧
    u.engines[e].running = none ∧ u.engines[e].posts = [] ∧ bit u.engines[e].evt 0 = true) ∧
  (x.posts = [] → exec (.buildPostCompletion e) s = .next s) ∧
  (∀ (p : ChProg) (w : Word) (t0 : BitVec 64), x.running = some p → p.halt = false → p.reject = none → x.fenced = false → p.ccw = some w → p.waitFrom = some t0 →
    bits w 18 12 ≠ 0 →
    (t0.toNat + p.waitns.toNat ≤ s.now.toNat → x.credit[(bits w 46 2).toFin].toNat < (bits w 30 16).toNat → exec (.creditWaitTimeout e) s = .next
      (put { x with running := some (p.completed w 1 (p.cpc + 1)), ccwCnt := x.ccwCnt + 1, arrived := [] })) ∧
    (s.now.toNat < t0.toNat + p.waitns.toNat → exec (.creditWaitTimeout e) s = .next s))

/-- One unit of each channel command word whose checks pass (R398-R408): MOVE, GATHER and SCATTER move the next word of their concatenation;
CONVERT and VALIDATE a whole field; BUILD-POST issues its vector; JOURNAL-EXPORT makes a batch; the rest act on credits, the position and the
sources. On the conditions that each clause sets on the state and the operands alone, move, gather, scatter, convert, validate, buildPost,
journalExport, waitCredit, branch, loop and signal each answer a next state with their own effect. It rests on the model's choices in log 13. -/
def Obligations.ChannelCommandWords : Prop := ∀ (s t : State) (e : EngId) (q : ChProg) (w : Word),
  let ra : BitVec 4 := bits w 64 4
  let rb : BitVec 4 := bits w 60 4
  let rc : BitVec 4 := bits w 56 4
  let sa : BitVec 3 := bits w 53 3
  let sb : BitVec 3 := bits w 50 3
  let a : DAddr := bits (q.reg ra) 0 57
  let b : DAddr := bits (q.reg rb) 0 57
  let d := q.done.toNat
  let y := t.engines[e]
  let put (u : State) (z : Engine) : State := { u with engines := u.engines.set e z }
  let ends (i : Instr) (u : State) (p : ChProg) (cc : BitVec 2) (next : WAddr) : Prop := exec i s = .next
    (put u { u.engines[e] with running := some (p.completed w cc next), ccwCnt := u.engines[e].ccwCnt + 1, arrived := [] })
  let target : WAddr := BitVec.ofInt 52 ((q.cpc.toNat : Int) + (bits w 0 24).toInt)
  let lists (k : BitVec 3) (at_ : DAddr) (els : List (Nat × DAddr)) : Prop := ∀ i : Nat, i < els.length → descriptor e q k at_ i t = .ok (els.getD i (0, 0)) t
  let before (els : List (Nat × DAddr)) (i : Nat) : Nat := ((els.take i).map fun x => x.1).sum
  let hand (els : List (Nat × DAddr)) (d j : Nat) : ListElem :=
    { off := d - before els j, desc := if d = before els j then none else some (els.getD j (0, 0)) }
  let inHand (els : List (Nat × DAddr)) : Prop := let i := q.elem.toNat
    i < els.length ∧ before els i ≤ d ∧ d < before els (i + 1) ∧
      (q.inElem = none ∨ ∃ x, q.inElem = some x ∧ x.off = d - before els i ∧ (x.desc = none ∨ x.desc = some (els.getD i (0, 0))))
  (∀ (p : ChProg) (cc : BitVec 2) (next : WAddr), let z := p.completed w cc next
    let k := (bits w 68 4).toNat
    let la := if k = 1 then moveCount p w else if k = 2 then p.done.toNat else if k = 3 then 18 * ((bits w 0 8).toNat + 1)
      else if k = 4 then (bits w 31 6).toNat + 1 else if k = 5 then (bits w 3 6).toNat + 1 else 0
    let lb := if k = 1 then moveCount p w else if k = 2 then 18 * ((bits w 0 8).toNat + 1) else if k = 3 then p.done.toNat
      else if k = 4 then (bits w 25 6).toNat + 1 else 0
    z.cc = cc ∧ z.cpc = next ∧ z.done = 0 ∧ z.elem = 0 ∧ z.waitns = 0 ∧ z.ccw = none ∧ z.inElem = none ∧ z.waitFrom = none ∧ z.ending = none ∧ z.cp = p.cp ∧
    (ra ≠ rb → ∀ r : BitVec 4, z.reg r = if bit w 49 = true ∧ r = ra then daReg (daAdd (bits (p.reg r) 0 57) la)
      else if bit w 48 = true ∧ r = rb then daReg (daAdd (bits (p.reg r) 0 57) lb) else p.reg r)) ∧
  (∀ (rs : List WordRef) (l : List (BitVec 4)) (u : State),
    engWrite e sa rs l t = .ok () u → t.engReady rs → EngStored t u rs l ∧ u = { t with mem := u.mem }) ∧
  (∀ (x : WAddr × BitVec 18) (r : WordRef) (t1 u : State), let fa := firstPos b x.1
    passTests (q.pass sb) (sb.setWidth 4) permLoad .load fa [x] t = .ok () t1 →
    checkWord (.engine e) (q.pass sb) (sb.setWidth 4) .load x.1 x.2 fa t1 = .ok r u → isLocalMem r.pa = true → (u.cell r.pa).bad = false →
    engPart e q sb b x t = .ok (gather [r] [u.data r.pa]) u) ∧
  (∀ cc, q.ending = some cc → advancesOk q w = true → t.engClear e →
    (s.ccwAt e 1 q w t → ends (.move e) t q cc (q.cpc + 1)) ∧ (s.ccwAt e 2 q w t → ends (.gather e) t q cc (q.cpc + 1)) ∧
    (s.ccwAt e 3 q w t → ends (.scatter e) t q cc (q.cpc + 1)) ∧ (s.ccwAt e 4 q w t → ends (.convert e) t q cc (q.cpc + 1)) ∧
    (s.ccwAt e 5 q w t → ends (.validate e) t q cc (q.cpc + 1)) ∧
    (s.ccwAt e 7 q w t → ends (.journalExport e) { t with hi := { t.hi with watch := t.hi.watch.filter fun x => x.word != .ack e } } q cc (q.cpc + 1))) ∧
  (s.ccwAt e 1 q w t → q.ending = none →
    let n := moveCount q w
    let m := min (18 - daPos (daAdd a d)) (n - d)
    let q' := { q with done := q.done + BitVec.ofNat 32 m, elem := 0, inElem := none }
    (n ≤ d → advancesOk q w = true → t.engClear e → ends (.move e) t q q.cc (q.cpc + 1)) ∧
    (d < n → advancesOk q' w = true → ∀ (rs : List WordRef) (l : List (BitVec 4)) (t1 t2 v : State), engRefs e q sa permStore .store (daAdd a d) m t = .ok rs t1 →
      engField e q sb (daAdd b d) m t1 = .ok l t2 → engWrite e sa rs l t2 = .ok () v → UnitMade (.move e) s v e w q' (decide (n ≤ d + m)) q.cc 1)) ∧
  (s.ccwAt e 2 q w t → q.ending = none → ∀ (els : List (Nat × DAddr)) (fs : List (List (BitVec 4))), lists sb b els → els.length = (bits w 0 8).toNat + 1 →
    fs.length = els.length → (∀ i : Nat, i < els.length → (fs.getD i []).length = (els.getD i (0, 0)).1 ∧ 0 < (els.getD i (0, 0)).1 ∧
      ∀ o m : Nat, o + m ≤ (fs.getD i []).length → 0 < m → engField e q sb (daAdd (els.getD i (0, 0)).2 o) m t = .ok (((fs.getD i []).drop o).take m) t) →
    inHand els →
    let l := (fs.flatten.drop d).take (18 - daPos (daAdd a d))
    ∃ j : Nat, (∀ k : Nat, k ≤ els.length → (k ≤ j ↔ before els k ≤ d + l.length)) ∧ j ≤ els.length ∧
      let q' := { q with done := q.done + BitVec.ofNat 32 l.length, elem := BitVec.ofNat 8 j, inElem := some (hand els (d + l.length) j) }
      ∀ (rs : List WordRef) (t1 v : State), engRefs e q sa permStore .store (daAdd a d) l.length t = .ok rs t1 → engWrite e sa rs l t1 = .ok () v →
        advancesOk q' w = true → UnitMade (.gather e) s v e w q' (decide (j = els.length)) q.cc 1) ∧
  (s.ccwAt e 3 q w t → q.ending = none → ∀ els : List (Nat × DAddr), lists sa a els → els.length = (bits w 0 8).toNat + 1 → inHand els →
    let i := q.elem.toNat
    let x := els.getD i (0, 0)
    let o := d - before els i
    let m := min (18 - daPos (daAdd x.2 o)) (x.1 - o)
    let j := if o + m = x.1 then i + 1 else i
    let q' := { q with done := q.done + BitVec.ofNat 32 m, elem := BitVec.ofNat 8 j, inElem := some (hand els (d + m) j) }
    ∀ (rs : List WordRef) (l : List (BitVec 4)) (t1 t2 v : State), engRefs e q sa permStore .store (daAdd x.2 o) m t = .ok rs t1 →
      engField e q sb (daAdd b d) m t1 = .ok l t2 → engWrite e sa rs l t2 = .ok () v → advancesOk q' w = true →
      UnitMade (.scatter e) s v e w q' (decide (j = els.length)) q.cc 1) ∧
  (s.ccwAt e 4 q w t → q.ending = none → advancesOk q w = true → bit w 24 = false →
    ∀ (rs : List WordRef) (l : List (BitVec 4)) (t1 t3 v : State),
    let d1 := (bits w 31 6).toNat
    let k := (d1 + 1) / 2
    let num := digitsVal ((List.range (l.length / 2)).map fun j => l.getD (2 * j + 1) 0)
    let chars (l : List (BitVec 4)) : List (BitVec 8) := l.map fun x => (3 : BitVec 4) ++ x
    let flip := bit w 22
    let packed (out : List (BitVec 4)) (m : Nat) (sg : Option Bool) : Prop :=
      PackedAs out d1 m (if m % 10 ^ d1 = 0 then (if sg.isSome then 0xC else 0xF) else match sg with
        | some neg => if neg != flip then 0xD else 0xC
        | none => if flip then 0xD else 0xF)
    engRefs e q sa permStore .store a (d1 + 1) t = .ok rs t1 → engField e q sb b ((bits w 25 6).toNat + 1) t1 = .ok l t3 →
    t3.engReady rs →
    let made (out : List (BitVec 4)) (cc : BitVec 2) : Prop := engWrite e sa rs out t3 = .ok () v → UnitMade (.convert e) s v e w q true cc 0
    let sc := (bits w 37 6).toNat
    (bits w 46 2 = 0 → ∀ (ws fr : List (BitVec 4)) (i j : Nat) (sg : Option Bool) (pt : Bool), (∀ x ∈ ws ++ fr, x.toNat ≤ 9) → ws ++ fr ≠ [] →
      (pt = false → fr = []) → l.length % 2 = 0 → octetsAt l = List.replicate i (0x20 : BitVec 8) ++ (match sg with
        | none => ([] : List (BitVec 8))
        | some true => [0x2D]
        | some false => [0x2B]) ++ chars ws ++ (if pt then (0x2E : BitVec 8) :: chars fr else []) ++ List.replicate j 0x20 →
      let nu := digitsVal (ws ++ fr) * 10 ^ (sc - fr.length)
      let de := 10 ^ (fr.length - sc)
      ∃ m out, RoundsTo (bits w 43 3) (sg == some true) nu de m ∧ packed out m sg ∧
        made out (if 10 ^ d1 ≤ m then 2 else if nu % de ≠ 0 then 1 else 0)) ∧
    (bits w 46 2 = 1 → isPacked l →
      let m := (fieldInt l).natAbs
      ∃ ws fr : List (BitVec 4), (∀ x ∈ ws ++ fr, x.toNat ≤ 9) ∧ digitsVal (ws ++ fr) = m ∧ fr.length = sc ∧ ws ≠ [] ∧ (1 < ws.length → ws.headD 0 ≠ 0) ∧
        let tx := (if packedNeg l ∧ m ≠ 0 then [(0x2D : BitVec 8)] else []) ++ chars ws ++ (if sc = 0 then [] else (0x2E : BitVec 8) :: chars fr)
        ∃ out, octetsAt out = (if tx.length ≤ k then List.replicate (k - tx.length) 0x20 ++ tx else List.replicate k 0x2A) ∧ out.length = 2 * k ∧
          made out (if k < tx.length then 2 else 0)) ∧
    (bits w 46 2 = 2 → l ≠ [] → l.length % 2 = 0 → (∀ j : Nat, 2 * j < l.length → (l.getD (2 * j + 1) 0).toNat ≤ 9 ∧
        (if 2 * j + 2 = l.length then l.getD (2 * j) 0 = 3 ∨ 10 ≤ (l.getD (2 * j) 0).toNat else l.getD (2 * j) 0 = 3 ∨ l.getD (2 * j) 0 = 0xF)) →
      let z := l.getD (l.length - 2) 0
      ∃ out, packed out num (if z = 0xF ∨ z = 3 then none else some (z == 0xB || z == 0xD)) ∧ made out (if 10 ^ d1 ≤ num then 2 else 0)) ∧
    (bits w 46 2 = 3 → isPacked l → 1 ≤ k →
      let m := (fieldInt l).natAbs
      ∃ out : List (BitVec 4), out.length = 2 * k ∧ digitsVal ((List.range k).map fun j => out.getD (2 * j + 1) 0) = m % 10 ^ k ∧
        (∀ j : Nat, j < k → (out.getD (2 * j + 1) 0).toNat ≤ 9 ∧
          out.getD (2 * j) 0 = if j + 1 = k then (if l.getLastD 0 = 0xF then 0xF else signOf k m (packedNeg l)) else 3) ∧
        made out (if 10 ^ k ≤ m then 2 else 0)) ∧
    ((bits w 46 2 = 1 ∨ bits w 46 2 = 3) → l ≠ [] → ¬isPacked l → v = t3 → UnitMade (.convert e) s v e w q true 3 0)) ∧
  (s.ccwAt e 5 q w t → q.ending = none → ∀ (l : List (BitVec 4)) (t1 : State), engField e q sa a ((bits w 3 6).toNat + 1) t = .ok l t1 → l ≠ [] →
    t1.engines[e].running = some q →
    let fmt := bits w 0 3
    let lo := fieldInt (posList (q.reg rb))
    let hi := fieldInt (posList (q.reg rc))
    let bad : Prop := ∃ u, exec (.validate e) s = .next u ∧ u.engines[e].rejVal = t1.engines[e].rejVal + 1 ∧ bit u.engines[e].evt 3 = true ∧
      u.engines[e].running = some (q.completed w 3 (q.cpc + 1)) ∧ u.mem = t1.mem
    (invalid q w l = none → ends (.validate e) t1 q 0 (q.cpc + 1)) ∧
    (invalid q w l ≠ none → bits q.w6 68 4 = 0 → advancesOk q w = true → t1.engStoresOut e = false → t1.engines[e].failed = none → bad) ∧
    (fmt = 0 → (invalid q w l = none ↔ isPacked l)) ∧
    (fmt = 5 → isPacked (posList (q.reg rb)) → isPacked (posList (q.reg rc)) → (invalid q w l = none ↔ isPacked l ∧ lo ≤ fieldInt l ∧ fieldInt l ≤ hi))) ∧
  (s.ccwAt e 6 q w t → daPos a = 0 → y.posts.length < 4 → (∀ x ∈ y.posts, x.h0 ≠ a) → ∀ (g1 g2 h ls : List WordRef) (t1 t2 t3 t4 : State),
    let rd : Reader := { x := .engine e, pass := q.pass sa, preg := sa.setWidth 4 }
    let n := (bits w 44 4).toNat + 1
    let need := permLoad ||| permStore ||| permPost
    let lw := ls.map fun r => t4.data r.pa
    let pa (k : Nat) : WAddr := ((h.map fun r => r.pa).getD k 0)
    let h0 := t3.data (pa 0) &&& ~~~(0xFF : Word)
    let h1 := at' (1 : BitVec 4) 68 ||| at' (bits w 44 4) 64 ||| at' (bits w 28 16) 48 ||| at' (bits (q.reg rc) 0 48) 0
    let ticket := t4.led.tickets + 1
    atSlot sa (vecRefs rd need a 3 (some 0)) t = .ok g1 t1 → atSlot sa (vecRefs rd need a 3 (some 1)) t1 = .ok g2 t2 →
    atSlot sa (vecRefs rd need a 3 (some 2)) t2 = .ok h t3 → (t3.cell (pa 0)).bad = false →
    atSlot sa (vecRefs rd need (daAdd a 54) (2 * n) none) t3 = .ok ls t4 → t4.engReady h →
    (∀ r ∈ ls, isLocalMem r.pa = true ∧ (t4.cell r.pa).bad = false) → rd.pass.grants permDevice = true →
    ∃ u, exec (.buildPost e) s = .next u ∧ u.data (pa 0) = h0 ∧ u.data (pa 1) = h1 ∧ u.data (pa 2) = 0 ∧
      (∀ x, x ≠ pa 0 → x ≠ pa 1 → x ≠ pa 2 → u.data x = t4.data x) ∧
      (let r : PostReq := { ticket := ticket, issuer := .engine e, commit := false, slot := pa 2, words := [h0, h1, 0] ++ lw, since := t4.now, checked := false }
       u.led = { t4.led with tickets := ticket, arrivals := t4.led.arrivals ++ [r] }) ∧
      (let z : EngPost := { ticket := ticket, cpb := q.cpb, h0 := a, rej := bit w 1, recno := q.reg (bits q.w0 56 4), cpc := q.cpc, slot := pa 2, result := none, stored := true }
       u.engines[e].posts = t4.engines[e].posts ++ [z]) ∧
      u.engines[e].postCnt = t4.engines[e].postCnt + 1 ∧
      u.engines[e].running = some (if bit w 0 then { q with waitPost := some ticket } else q.completed w q.cc (q.cpc + 1))) ∧
  (s.ccwAt e 6 q w t → daPos a = 0 → (4 ≤ y.posts.length ∨ ∃ x ∈ y.posts, x.h0 = a) → exec (.buildPost e) s = .next t) ∧
  (s.ccwAt e 7 q w t → q.ending = none → ∀ x0, q.exportTo = some x0 →
    let n := min (t.led.dpos.toNat - t.led.xpos.toNat) 4096
    (t.leads = false → exec (.journalExport e) s = .next t) ∧
    (t.leads = true → n = 0 → bit w 0 = true → exec (.journalExport e) s = .next t) ∧
    (∀ v : State, t.leads = true → (n = 0 → bit w 0 = false) → exportBatch e q w t.applied.jnRingLog2.toNat n t = .ok () v →
      v.led = { t.led with xpos := BitVec.ofNat 64 (t.led.xpos.toNat + n) } ∧ v.engines[e].wordCnt = t.engines[e].wordCnt + BitVec.ofNat 64 (n + 1) ∧
      (bit w 0 = false → x0.toNat ≤ t.led.xpos.toNat + n → v.engines[e].running = some q → advancesOk q w = true → v.engClear e ∨ v.engBusy e →
        ∃ u, exec (.journalExport e) s = .next u ∧ u.led = v.led ∧ u.hostMem = v.hostMem ∧ u.hi.watch = v.hi.watch.filter (fun x => x.word != .ack e) ∧
          (v.engClear e → u.engines[e].running = some (q.completed w q.cc (q.cpc + 1))) ∧
          (v.engBusy e → u.engines[e].running = some { q with ending := some q.cc } ∧ u.engines[e].windows = [])) ∧
      ((bit w 0 = true ∨ t.led.xpos.toNat + n < x0.toNat) → v.engines[e].running = some q → exec (.journalExport e) s = .next (v.forget e)))) ∧
  (s.ccwAt e 7 q w t → q.ending = none → q.exportTo = none → (∀ f : EngId, f ≠ e → ∀ p, t.engines[f].running = some p → p.exportTo = none) → t.leads = false →
    ∀ (g : BitVec 64) (v : State), exportTests e q w t.applied.jnRingLog2.toNat t = .ok g v → ∃ u, exec (.journalExport e) s = .next u ∧
      u.engines[e].running = some { q with exportTo := some t.led.dpos } ∧ (∃ x ∈ u.hi.watch, x.word = .ack e ∧ x.addr = g ∧ x.due = v.now) ∧ u.led = v.led) ∧
  (s.ccwAt e 8 q w t →
    let c : Fin 4 := (bits w 46 2).toFin
    let n := (bits w 30 16).toNat
    let us := if q.waitns = 0 then BitVec.ofNat 32 ((bits w 18 12).toNat * 1000) else q.waitns
    (n ≤ y.credit[c].toNat → ends (.waitCredit e) (put t { y with credit := y.credit.set c (y.credit[c] - BitVec.ofNat 32 n) }) q 0 (q.cpc + 1)) ∧
    (y.credit[c].toNat < n → q.waitFrom = none →
      exec (.waitCredit e) s = .next (put t { y with running := some { q with waitFrom := some t.now, waitns := us } })) ∧
    (y.credit[c].toNat < n → q.waitFrom.isSome = true → exec (.waitCredit e) s = .next t)) ∧
  (s.ccwAt e 9 q w t → ends (.branch e) t q q.cc (if bit w (44 + q.cc.toNat) then target else q.cpc + 1)) ∧
  (s.ccwAt e 10 q w t → ends (.loop e) t (q.setReg rc (q.reg rc - 1)) q.cc (if q.reg rc = 1 then q.cpc + 1 else target)) ∧
  (s.ccwAt e 11 q w t →
    let t1 := if bit w 47 then t.raise (8 * e.val + (bits w 0 3).toNat) else t
    let f : EngId := Fin.ofNat 24 (bits w 41 5).toNat
    let c : Fin 4 := (bits w 39 2).toFin
    let x := t1.engines[f]
    let v := x.credit[c].toNat + (bits w 0 16).toNat
    let t2 := if bit w 46 then { t1 with engines := t1.engines.set f (if v < 2 ^ 32 then { x with credit := x.credit.set c (BitVec.ofNat 32 v) }
      else { x with credit := x.credit.set c (BitVec.allOnes 32), evt := setBit x.evt 6 true }) } else t1
    ends (.signal e) t2 q q.cc (q.cpc + 1))

/-! ## Starts, calibration and staged settings -/

/-- Starts (R467, R470, R473, R474, R480-R484): each kind of start is numbered, and without hold-up energy it fails at S01; GO loads the image
and releases the start core; CONTINUE runs the stopped step; the channels retrain at WATCH and hold back at GUARD. On the conditions that each
clause sets on the state and the operands alone, powerOn, startCtlRestart, automaticRestart, continueStart, go, aposRecord, marginMeasure,
retrainSlice and senseDelayTap each answer a next state with their own effect. It rests on the model's choices in log 15, 37. -/
def Obligations.StartsRunTheirSteps : Prop := ∀ (s : State) (env : StartEnv), s.Inv →
  let begins (i : Instr) : Prop := ∃ u, exec i s = .next u ∧ u.sr.start = bits (s.data (hdrAddr 0)) 0 48 + 1 ∧
    u.brd.powered = true ∧ (i = .powerOn env → u.brd.mainOk = true ∧ u.brd.stbyOk = true ∧ u.brd.latched = false) ∧
    (s.freshStep 1 → (bits (stepVal env.measured 1 0) 0 16).toNat < 10000 → u.sr.phase = 2 ∧ u.sr.step = 1 ∧ u.sr.failedAt = some s.now ∧
      u.data (hdrAddr 5) = (s.failSeq + 1).setWidth 72 ∧ u.led = Ledger.reset ∧ u.hi = HostIf.reset ∧ u.ws.role = 0 ∧
      ∀ n : CoreId, u.cores[n].run = if s.cores[n].run = 4 then 4 else 1)
  (s.brd.powered = false → (s.brd.latched = true → s.brd.mainOk = false ∧ s.brd.stbyOk = false) → begins (.powerOn env)) ∧
  (s.brd.powered = true → s.sr.phase ≠ 0 → begins (.startCtlRestart env)) ∧
  (∀ t0, s.sr.failedAt = some t0 → s.brd.powered = true → s.sr.phase = 2 → s.failSeq.toNat < 3 → t0.toNat + 10000000 ≤ s.now.toNat →
    begins (.automaticRestart env)) ∧
  (s.brd.powered = true → s.sr.phase = 3 → ∃ u, exec (.continueStart env) s = .next u ∧ u.sr.start = s.sr.start ∧
    (s.sr.resume = 24 → stepVal env.fails 24 0 = 0 → u.sr.phase = 1 ∧ u.data (hdrAddr 5) = 0)) ∧
  (s.brd.powered = true → exec (.powerOn env) s = .next s) ∧
  (s.sr.phase = 0 → exec (.startCtlRestart env) s = .next s) ∧
  (3 ≤ s.failSeq.toNat ∨ s.sr.phase ≠ 2 → exec (.automaticRestart env) s = .next s) ∧
  (s.sr.phase ≠ 3 → exec (.continueStart env) s = .next s) ∧
  (s.sr.phase ≠ 4 → exec (.go env) s = .next s) ∧
  (∀ n : CoreId, s.brd.powered = true → s.sr.phase = 4 →
    let d := s.sr.bootDest.toNat
    let k := s.sr.bootWords.toNat
    d + k ≤ 0xFF0000 → 1 ≤ k → (∀ r ∈ s.applied.regions, d + k ≤ r.2.1 ∨ r.2.1 + r.2.2 ≤ d) → (∀ i : Nat, 22 ≤ i → i ≤ 24 → stepVal env.fails i 0 = 0) →
    s.freshStep 23 → s.freshStep 24 → s.cores[n].run ≠ 4 → (∀ m : CoreId, m < n → s.cores[m].run = 4) →
    ∃ u, exec (.go env) s = .next u ∧ u.sr.phase = 1 ∧ u.data (hdrAddr 5) = 0 ∧
      u.data (hdrAddr 1) = flagAt true 71 ||| at' s.sr.bootWords 40 ||| at' s.sr.bootDest 0 ∧
      (∀ i : Nat, i < k → u.data (plainAddr (d + i)) = s.hostPadded (s.sr.bootHost.toNat + 16 * i)) ∧
      u.cores[n] = { Core.reset with run := 2, pc := daOf (plainAddr d) 0 } ∧
      ∀ m : CoreId, m ≠ n → u.cores[m] = { s.cores[m] with run := if s.cores[m].run = 4 then 4 else 3 }) ∧
  (let taken : Prop := s.brd.powered = true ∧ s.applied.peCellCount ≠ 0 ∧ s.sr.hostServed = true
   (taken → exec .aposRecord s = .next (s.putWord (hdrAddr 4) (s.led.apos.setWidth 72))) ∧ (¬taken → exec .aposRecord s = .next s)) ∧
  (∀ (ch : Fin 64) (m : BitVec 8), let c := s.sr.chans[ch]
    let k := ch.val / 16
    let put (x : Chan) (u : State) : State := { s with sr := { s.sr with chans := s.sr.chans.set ch x }, srcs := u.srcs }
    (s.brd.powered = true → exec (.marginMeasure ch m) s = .next (
      let w := decide (m.toNat ≤ 12) && !c.retrain
      let g := decide (m.toNat ≤ 6) && !c.conservative
      let t := if w then s.raise (368 + k) else s
      put { c with margin := m, retrain := c.retrain || w, conservative := c.conservative || g } (if g then t.raise (376 + k) else t))) ∧
    (s.brd.powered = true → c.retrain = true → let good := decide (12 < m.toNat)
      let stores : Prop := ∀ t0, c.stored = some t0 → t0.toNat + 1000000000 ≤ s.now.toNat
      ∃ u, exec (.retrainSlice ch m) s = .next u ∧ u.sr.chans[ch].margin = m ∧ u.sr.chans[ch].retrain = false ∧
        u.sr.chans[ch].conservative = (c.conservative && !good) ∧ (good = true → stores → u.sr.chans[ch].stored = some s.now) ∧
        (good = false ∨ ¬stores → u.sr.chans[ch].stored = c.stored) ∧ u.srcs = (s.raise (if good then 372 + k else 380 + k)).srcs ∧
        Journalled s u 6 (BitVec.ofNat 24 (65536 * k + 256 * (ch.val % 16) + if m.toNat ≤ 6 then 3 else 0)) (at' c.margin 0) (at' m 0)) ∧
    (c.retrain = false → exec (.retrainSlice ch m) s = .next s)) ∧
  (s.brd.powered = true → s.sr.lastTap.toNat + 1000 ≤ s.now.toNat →
    exec .senseDelayTap s = .next { s with sr := { s.sr with taps := s.sr.taps + 1, lastTap := s.now } }) ∧
  (s.now.toNat < s.sr.lastTap.toNat + 1000 → exec .senseDelayTap s = .next s)

/-- Staged settings (R485-R488): CHECK finds exactly the settings that break a rule, APPLY takes effect only on a checked set of the named
generation and writes the other copy, DISCARD restores the applied values, a pair's APPLY acts at its instant; nothing acts while BUSY. On the
conditions that each clause sets on the state and the operands alone, check, apply, discard and pairApplyInstant each answer a next state with
their own effect. It rests on the model's choices in log 31. -/
def Obligations.SettingsAreStaged : Prop := ∀ (s : State) (gen : BitVec 48), s.Inv →
  let x := s.staged
  let sr := s.sr
  let ok : Prop := x.sound ∧ s.liveOk
  let found := x.regionFindings ++ x.fieldFindings ++ x.fabricFindings ++ s.liveFindings false
  let done (i : Instr) (f : StartBlk) : Prop := exec i s = .next { s with sr := f }
  let applies (t u : State) : Prop :=
    let c := !t.currentCopy
    let g := t.sr.stGen + 1
    u.applied = t.staged ∧ u.staged = t.staged ∧
    u.sr = { t.sr with stGen := g, stState := 0, stApplyTime := t.now, stApplyCnt := t.sr.stApplyCnt + 1 } ∧ u.data (copyAddr c 0) = at' g 24 ∧
    (∀ i : Nat, i < t.staged.list.length → u.data (copyAddr c (1 + i)) = ((t.staged.list.map fun y => y.2).getD i 0)) ∧
    Journalled t u 3 0 (at' g 24) t.staged.digest
  (sr.stState = 3 → ∀ i ∈ [Instr.check, .apply gen, .discard], ∃ u, exec i s = .next u ∧ u.hi.barErr = s.hi.barErr + 1 ∧ bit u.hi.evt 1 = true ∧
    u.sr = sr ∧ u.staged = x ∧ u.applied = s.applied ∧ u.mem = s.mem) ∧
  (sr.stState ≠ 3 → ok → done .check { sr with stState := 2, stCode := 0, stCheckAddr := 0, stSdigest := x.digest }) ∧
  (sr.stState ≠ 3 → ¬ok → ∃ (a : BitVec 18) (c : BitVec 8), c ≠ 0 ∧ (a.toNat, c.toNat) ∈ found ∧ (∀ f ∈ found, a.toNat ≤ f.1) ∧
    done .check { sr with stState := 1, stCode := c, stCheckAddr := a, stSdigest := x.digest, stCheckFail := sr.stCheckFail + 1 }) ∧
  (sr.stState ≠ 3 → (gen ≠ sr.stGen ∨ sr.stState ≠ 2) → done (.apply gen) { sr with stCheckFail := sr.stCheckFail + 1 }) ∧
  (sr.stState = 2 → gen = sr.stGen → ¬s.liveOk → done (.apply gen) { sr with stCheckFail := sr.stCheckFail + 1, stState := 1 }) ∧
  (sr.stState = 2 → gen = sr.stGen → s.liveOk → ∃ u, exec (.apply gen) s = .next u ∧ applies s u) ∧
  (sr.stState ≠ 3 → exec .discard s = .next { s with staged := s.applied, sr := { sr with stState := 0 } }) ∧
  (∀ (t0 : BitVec 64) (j : Option JobId), sr.pairApply = some (t0, j) →
    let t : State := { s with sr := { sr with pairApply := none } }
    (s.now.toNat < t0.toNat → exec .pairApplyInstant s = .next s) ∧
    (t0.toNat ≤ s.now.toNat → (sr.stState = 2 ∨ sr.stState = 3) → s.liveFindings true = [] → ∃ u, applies t u ∧
      exec .pairApplyInstant s = .next (match j with
        | some j => u.unitAnswer j 0 0 ((sr.stGen + 1).setWidth 72)
        | none => u))) ∧
  (sr.pairApply = none → exec .pairApplyInstant s = .next s)

/-! ## Unit jobs -/

/-- Unit jobs (R465, R472, R475, R478, R481, R484, R486-R492): GO submits a slot's job; a job is tested for authority, path, depth and
parameters, and then acts on its unit: a query, a start, a stop or a fence, a policy, a restart, the stage operations, recalibration, an empty
ledger, cleared failures. On the conditions that each clause sets on the state and the operands alone, unitJobGo, queryJob, startJob, stopJob,
fenceUnit, policy, restart, checkJob, applyJob, discardJob, recal, createLedger and clearFail each answer a next state with their own effect. It
rests on the model's choices in log 15, 16, 32, 33. -/
def Obligations.UnitJobsActOnTheirUnits : Prop := ∀ (s : State) (j : JobId) (x : Job) (u : UnitId) (passes : Bool) (env : StartEnv) (twin : Option TwinStage),
  s.Inv →
  let unit (opc : Nat) (v : UnitId) : Prop := s.unitJobAt j opc x (.unit v)
  let busy := s.sr.stState = 3
  let set (n : CoreId) (c : Core) : State := { s with cores := s.cores.set n c }
  let cmds : List (Instr × Nat) := [(.queryJob j, 0x40), (.startJob j passes, 0x41), (.stopJob j, 0x42), (.fenceUnit j, 0x43), (.policy j, 0x44), (.restart j env, 0x45),
    (.checkJob j, 0x46), (.applyJob j twin, 0x47), (.discardJob j, 0x48), (.recal j, 0x49), (.createLedger j, 0x4A), (.clearFail j, 0x4B)]
  (∀ (n : CoreId) (k : Fin 8), ControlStore (.unitJobGo n u k) s n fun t v =>
    let b := (t.block u).slots[k]
    (b.busy = true → v.hi.jobs = t.hi.jobs ∧ (v.block u).jobErr = (t.block u).jobErr + 1 ∧ (v.block u).slots = (t.block u).slots) ∧
    (b.busy = false → ((bits b.s0 64 8).toNat = 0 ∨ 0x40 ≤ (bits b.s0 64 8).toNat) → entryStatus b.s0 b.s1 b.s2 b.s3 = none →
      (v.block u).slots[k] = { b with busy := true, done := false } ∧ v.hi.nextJob = t.hi.nextJob + 1 ∧
      ∃ y : Job, v.hi.jobs = t.hi.jobs ++ [y] ∧ y.id = t.hi.nextJob ∧ y.origin = .slot u k ∧ y.s0 = b.s0 ∧ y.s1 = b.s1 ∧ y.s2 = b.s2 ∧ y.s3 = b.s3 ∧
        y.started = false)) ∧
  (∀ (v : State) (k : Fin 8) (st d : BitVec 8) (r : Word), x.origin = .slot u k → let w := v.jobEnd x st d r
    (w.block u).slots[k] = { (v.block u).slots[k] with busy := false, done := true, status := st, detail := d, res := r } ∧
    (w.block u).jobCnt = (v.block u).jobCnt + 1 ∧ w.hi.jobs = v.hi.jobs.filter fun y => y.id != x.id) ∧
  (x.pathClean = true → x.pair = s.applied.lbPair → s.pairInDim x.pair = true → x.side = s.ws.side →
    (x.depth = 2 → s.place x = .inl (.unit .module)) ∧ ∀ q : QuadId, x.quad = q.val → (x.depth = 3 → s.place x = .inl (.unit (.quad q))) ∧
      ∀ n : CoreId, n.val = 4 * q.val + x.core → x.depth = 4 → s.place x = .inl (.unit (.core n))) ∧
  (∀ c ∈ cmds, s.jobFor j c.2 = some x → x.started = false →
    (∀ cause, s.authority x = some cause → UnitEnds c.1 s s x 3 cause 0) ∧
    (s.authority x = none → (∀ st, s.place x = .inr st → UnitEnds c.1 s s x st 0 0) ∧ ∀ pl, s.place x = .inl pl →
      (x.actDepth ∉ jobDepths c.2 → UnitEnds c.1 s s x 0x81 0 0) ∧
      (x.actDepth ∈ jobDepths c.2 → (x.paramsClean (s.isPart x) = false → UnitEnds c.1 s s x 2 0 0) ∧
        ∀ p, x.paramsClean (s.isPart x) = true → pl = .remote p → exec c.1 s = .next (s.forwardJob x p s.ws.side)))) ∧
  (unit 0x40 u → UnitEnds (.queryJob j) s s x 0 0 (s.ucState u)) ∧
  (s.unitJobAt j 0x40 x .pair → s.leads = true → UnitEnds (.queryJob j) s s x 0 0 (at' s.ws.role 0 ||| flagAt s.ws.side 3 ||| flagAt s.ws.links[0].up 4 |||
    flagAt s.ws.links[1].up 5 ||| flagAt s.ws.contact 6 ||| flagAt s.ws.synced 7)) ∧
  (∀ n : CoreId, let c := s.cores[n]
    let pc : DAddr := bits x.s1 0 57
    let good : Prop := bits x.s1 57 15 = 0 ∧ (daPos pc = 0 ∨ daPos pc = 9)
    s.ucState (.core n) = at' c.run 12 ||| at' c.fstep 7 ∧
    (unit 0x41 (.core n) → (¬good → UnitEnds (.startJob j passes) s s x 0x0A 2 0) ∧ (good →
      (c.run = 2 → UnitEnds (.startJob j passes) s s x 0x82 2 0) ∧
      (c.run ≠ 2 → (s.quads[quadOf n].fenced = true ∨ (c.run = 4 ∧ passes = false)) → UnitEnds (.startJob j passes) s s x 0x82 4 0) ∧
      (c.run ≠ 2 → s.quads[quadOf n].fenced = false → (c.run = 4 → passes = true) →
        UnitEnds (.startJob j passes) s (set n (Core.startedAt pc)) x 0 0 1))) ∧
    (unit 0x42 (.core n) →
      (c.run = 2 → c.wait = none → c.arrived = [] → c.posts = [] → ∃ v, UnitEnds (.stopJob j) s v x 0 0 1 ∧ OnlyCore n (s.drainAll n) v ∧
        v.cores[n] = { (s.drainAll n).cores[n] with run := 3 }) ∧
      (c.run = 2 → (c.wait ≠ none ∨ c.posts ≠ []) → exec (.stopJob j) s = .next s) ∧
      (c.run = 3 → UnitEnds (.stopJob j) s s x 0 0 0) ∧ (c.run = 4 → UnitEnds (.stopJob j) s s x 0x82 4 0)) ∧
    (unit 0x43 (.core n) → ∃ v, UnitEnds (.fenceUnit j) s v x 0 0 0 ∧ OnlyCore n (s.drainAll n) v ∧
      v.cores[n] = { (s.drainAll n).cores[n] with run := 4, fstep := 0, wait := none, arrived := [], offer := none })) ∧
  (∀ q : QuadId, (unit 0x43 (.quad q) → ∃ v, UnitEnds (.fenceUnit j) s v x 0 0 0 ∧ v.quads[q].fenced = true ∧
      (∀ n : CoreId, if quadOf n = q then v.cores[n].run = 4 else v.cores[n] = s.cores[n]) ∧
      ∀ e : EngId, if engQuad e = q then v.engines[e].fenced = true else v.engines[e] = s.engines[e]) ∧
    (let pc : DAddr := bits x.s1 0 57
     unit 0x41 (.quad q) → bits x.s1 57 15 = 0 → (daPos pc = 0 ∨ daPos pc = 9) → (∃ n : CoreId, quadOf n = q ∧ s.cores[n].run ≠ 2) →
     (passes = true ∨ (s.quads[q].fenced = false ∧ ∀ n : CoreId, quadOf n = q → s.cores[n].run ≠ 4)) →
     ∃ v, UnitEnds (.startJob j passes) s v x 0 0 (BitVec.ofNat 72 (allCores.filter fun n => quadOf n == q && s.cores[n].run != 2).length) ∧
       v.quads[q].fenced = false ∧ ∀ n : CoreId, v.cores[n] = if quadOf n = q ∧ s.cores[n].run ≠ 2 then Core.startedAt pc else s.cores[n])) ∧
  (unit 0x44 u → let k := (bits x.s1 0 5).toNat
    let ok : Prop := 1 ≤ k ∧ k ≤ 24 ∧ ¬(bits x.s2 70 2 = 2 ∧ halts k = true)
    (ok → let p := s.data (policyAddr k)
      UnitEnds (.policy j) s (s.putWord (policyAddr k) (setBits p 66 6 (bits x.s2 66 6))) x 0 0 p) ∧
    (¬ok → UnitEnds (.policy j) s s x 0x88 0 0)) ∧
  (∀ k : Fin 8, unit 0x45 u → x.origin = .slot u k → ∃ v, exec (.restart j env) s = .next v ∧ v.sr.start = bits (s.data (hdrAddr 0)) 0 48 + 1) ∧
  (unit 0x46 u → (busy → UnitEnds (.checkJob j) s s x 0x89 0 0) ∧ (¬busy → ∃ v, exec .check s = .next v ∧
    UnitEnds (.checkJob j) s v x 0 0 (at' v.sr.stCode 64 ||| at' v.sr.stCheckAddr 0))) ∧
  (unit 0x47 u → let gen : BitVec 48 := bits x.s1 0 48
    (busy → UnitEnds (.applyJob j twin) s s x 0x89 0 0) ∧ (¬busy → ∃ v, exec (.apply gen) s = .next v ∧
      (gen ≠ s.sr.stGen → UnitEnds (.applyJob j twin) s v x 0x84 0 0) ∧
      (gen = s.sr.stGen → s.sr.stState ≠ 2 → UnitEnds (.applyJob j twin) s v x 0x85 0 0) ∧
      (gen = s.sr.stGen → s.sr.stState = 2 → s.liveOk → UnitEnds (.applyJob j twin) s v x 0 0 ((gen + 1).setWidth 72)) ∧
      (gen = s.sr.stGen → s.sr.stState = 2 → ¬s.liveOk → ∃ c, UnitEnds (.applyJob j twin) s v x 0x83 c 0))) ∧
  (∀ w : TwinStage, s.unitJobAt j 0x47 x .pair → s.leads = true → s.isPart x = false → s.ws.contact = true → s.sr.stState = 2 → bits x.s1 0 48 = s.sr.stGen →
    s.liveFindings true = [] → w.gen = s.sr.stGen → w.checked = true → w.sdigest = s.sr.stSdigest →
    ∃ v, exec (.applyJob j (some w)) s = .next v ∧ v.sr = { s.sr with stState := 3, pairApply := some (s.now + 20000, some x.id) } ∧ v.applied = s.applied) ∧
  (unit 0x48 u → (busy → UnitEnds (.discardJob j) s s x 0x89 0 0) ∧
    (¬busy → UnitEnds (.discardJob j) s { s with staged := s.applied, sr := { s.sr with stState := 0 } } x 0 0 0)) ∧
  (unit 0x49 u → ∃ v, UnitEnds (.recal j) s v x 0 0 0 ∧ v = { s with sr := { s.sr with chans := v.sr.chans } } ∧
    ∀ c : Fin 64, v.sr.chans[c] = if bit x.s1 (c.val / 16) then { s.sr.chans[c] with retrain := true } else s.sr.chans[c]) ∧
  (unit 0x4A u → let may : Prop := (s.ws.role = 0 ∨ s.ws.role = 4) ∧ bit s.applied.peCtl 0 = false ∧ x.s1 = Config.serial.setWidth 72
    (may → ∃ v, UnitEnds (.createLedger j) s v x 0 0 0 ∧ v.led.seqNext = 1 ∧ v.led.wpos = 0 ∧ v.led.apos = 0 ∧ v.led.recs = [] ∧
      v.ws = { s.ws with
        term := 0, lrole := 0, mseq := 0, ahor := 0, soloFirst := 0, copy := false, gen := 1, lostApplied := false, twinAseq := 0, twinTblk := 0 } ∧
      (∀ o : Nat, o < 0xFF0000 → v.data (plainAddr o) = if s.healable o then 0 else s.data (plainAddr o)) ∧
      v.data (plainAddr 0xFF0010) = at' s.ws.role 21 ||| flagAt s.ws.side 18 ||| at' (1 : BitVec 8) 0 ∧
      ∀ k : Nat, k < 3 → v.data (plainAddr (0xFF0011 + k)) = 0) ∧
    (¬may → UnitEnds (.createLedger j) s s x 0x87 0 0)) ∧
  (unit 0x4B u → ∃ v, UnitEnds (.clearFail j) s v x 0 0 0 ∧ (v.block u).fail0 = 0 ∧ (v.block u).fail1 = 0 ∧ (u = .module → v.data (hdrAddr 5) = 0))

/-! ## The host interface -/

/-- Queue pairs (R200, R422, R427-R432, R435, R436, R441, R442): a pair is enabled, drained and failed as its rules say; the watcher polls and
takes what it reads; an entry is fetched whole and a completion written whole; a function reset ends its pairs. On the conditions that each
clause sets on the state and the operands alone, qpEnable, qpDisable, doorbellPoll, doorbellReadResult, journalAckRead, jobFetch,
completionWrite, functionReset and pcieLinkChange each answer a next state with their own effect. It rests on the model's choices in log 16. -/
def Obligations.QueuePairsServeTheHost : Prop := ∀ (s : State) (q : QpId) (w : Watched), s.Inv →
  let p := s.hi.qps[q]
  let served : Prop := s.brd.powered = true ∧ s.sr.hostServed = true
  let fn := (bits p.ctl 24 5).toNat
  let sqSlots := 2 ^ max 4 (bits p.ctl 20 4).toNat
  let cqLog := max 4 (bits p.ctl 16 4).toNat
  let credit : Prop := bits p.ctl 29 2 = 1
  let a : WAddr := s.hi.bindBase + BitVec.ofNat 52 (16 * q.val)
  let bound : Prop := s.hi.bindBase ≠ 0 ∧ rangeInMem a 11 = true ∧ s.anyBad a 11 = false ∧ bit (s.data a) 71 = true
  let zero : Prop := s.hostPadded p.sqDb.toNat = 0 ∧ s.hostPadded p.cqDb.toNat = 0
  let failed (i : Instr) (code : BitVec 8) : Prop := ∃ u, exec i s = .next u ∧ u.hi.qps[q].state = 2 ∧ u.hi.qps[q].err = code ∧ bit u.hi.qps[q].evt 0 = true ∧
    bit u.hi.evt 3 = true ∧ ∀ r : QpId, r ≠ q → u.hi.qps[r] = s.hi.qps[r]
  (¬served → exec (.qpEnable q) s = .next s ∧ exec (.qpDisable q) s = .next s) ∧
  (served → p.state = 0 → bit p.ctl 31 = false →
    (¬bound → failed (.qpEnable q) 1) ∧ (bound → bit s.hi.fnOff fn = true → failed (.qpEnable q) 6) ∧
    (bound → bit s.hi.fnOff fn = false → ¬zero → failed (.qpEnable q) 2) ∧
    (bound → bit s.hi.fnOff fn = false → zero → s.qpJobs q = [] → ∃ u, exec (.qpEnable q) s = .next u ∧
      (∃ y ∈ u.hi.watch, y.word = .sq q) ∧ (∀ r : QpId, r ≠ q → u.hi.qps[r] = s.hi.qps[r]) ∧
      (let b : Binding := { space := bits (s.data a) 0 16, troot := bits (s.data (a + 1)) 0 52, dpass := s.getPass (a + 2), ppass := s.getPass (a + 4),
                            cpass := s.getPass (a + 6), apass := s.getPass (a + 8), vstage := bits (s.data (a + 10)) 0 52 }
       u.hi.qps[q] = { p with ctl := setBit p.ctl 31 true, state := 1, err := 0, bind := some b, sqh := 0, sqt := 0, cqt := 0, cqh := 0, waiting := [] }))) ∧
  (served → bit p.ctl 31 = true → exec (.qpEnable q) s = .next s) ∧
  (served → p.state = 1 ∨ p.state = 2 → ∃ u, exec (.qpDisable q) s = .next u ∧ bit u.hi.qps[q].ctl 31 = false ∧ u.hi.qps[q].waiting = p.waiting ∧
    u.hi.qps[q].state = (if s.qpJobs q = [] ∧ p.waiting = [] then 0 else 3) ∧ ∀ r : QpId, r ≠ q → u.hi.qps[r] = s.hi.qps[r]) ∧
  (∀ x, s.hi.watch.find? (fun y => y.word == w) = some x →
    let ahead := (s.hi.watch.filter fun y => y.inFlight).length + (s.hi.watch.filter fun y => !y.inFlight && decide (y.due.toNat < x.due.toNat)).length
    (x.inFlight = false → x.due.toNat ≤ s.now.toNat → ahead < 64 → bit s.hi.fnOff (s.watchFn x) = false → ∃ u, exec (.doorbellPoll w) s = .next u ∧
      u.hi.watch = s.hi.watch.map (fun y => if y.word = w then { y with inFlight := true } else y) ∧ u.hi.pollCnt = s.hi.pollCnt + 1 ∧
      u.hi.pollLate = (if x.due.toNat + 1000 < s.now.toNat then s.hi.pollLate + 1 else s.hi.pollLate) ∧
      (x.due.toNat + 1000 < s.now.toNat → bit u.hi.evt 4 = true) ∧ u.hi.qps = s.hi.qps) ∧
    (x.inFlight = true ∨ s.now.toNat < x.due.toNat → exec (.doorbellPoll w) s = .next s)) ∧
  (s.hi.watch.find? (fun y => y.word == w) = none → exec (.doorbellPoll w) s = .next s ∧ exec (.doorbellReadResult w) s = .next s) ∧
  (∀ x, s.hi.watch.find? (fun y => y.word == w && y.inFlight) = some x →
    let n := (bits (s.hostPadded x.addr.toNat) 0 64).toNat
    let least := max 100 s.hi.pollMin.toNat
    let ival := if BitVec.ofNat 64 n ≠ x.last then least else min (2 * x.ival) (max least (min 100000 s.hi.pollMax.toNat))
    let watch := s.hi.watch.map fun y => if y.word = w then { y with inFlight := false, ival := ival, due := s.now + BitVec.ofNat 64 ival, last := BitVec.ofNat 64 n } else y
    (w = .sq q → p.state = 1 → ¬credit →
      (p.sqh.toNat ≤ n → n ≤ p.sqh.toNat + sqSlots → ∃ u, exec (.doorbellReadResult w) s = .next u ∧ u.hi.watch = watch ∧
        u.hi.qps[q] = { p with sqt := BitVec.ofNat 64 n } ∧ u.engines = s.engines) ∧
      ((n < p.sqh.toNat ∨ p.sqh.toNat + sqSlots < n) → failed (.doorbellReadResult w) 3)) ∧
    (∀ (e : EngId) (c : Fin 4), w = .sq q → p.state = 1 → credit → (bits p.ctl 11 5).toNat = e.val → (bits p.ctl 9 2).toNat = c.val →
      (p.sqt.toNat < n → n < p.sqt.toNat + 2 ^ 32 → ∃ u, exec (.doorbellReadResult w) s = .next u ∧ u.hi.watch = watch ∧
        u.hi.qps[q] = { p with sqt := BitVec.ofNat 64 n } ∧
        u.engines[e].credit[c].toNat = min (2 ^ 32 - 1) (s.engines[e].credit[c].toNat + (n - p.sqt.toNat))) ∧
      ((n < p.sqt.toNat ∨ p.sqt.toNat + 2 ^ 32 ≤ n) → failed (.doorbellReadResult w) 3)) ∧
    (w = .cq q → p.state = 1 → (p.cqh.toNat ≤ n → n ≤ p.cqt.toNat → ∃ u, exec (.doorbellReadResult w) s = .next u ∧ u.hi.qps[q].cqh.toNat = n ∧
        u.hi.qps[q].cqt = p.cqt ∧ u.hi.qps[q].state = 1) ∧
      ((n < p.cqh.toNat ∨ p.cqt.toNat < n) → failed (.doorbellReadResult w) 4))) ∧
  (∀ (pre post : List WatchEnt) (x : WatchEnt) (e : EngId), s.hi.watch = pre ++ x :: post → (∀ y ∈ pre, ∀ f, y.word ≠ .ack f) → x.word = .ack e →
    (x.inFlight = true ∨ x.due.toNat ≤ s.now.toNat) →
    let v := s.hostPadded x.addr.toNat
    let n := (bits v 0 64).toNat
    let good : Prop := bits v 64 8 = 0 ∧ s.led.apos.toNat ≤ n ∧ n ≤ s.led.xpos.toNat ∧ (n = s.led.apos.toNat ∨ s.recordStart n = true)
    let apos := BitVec.ofNat 64 (max s.led.apos.toNat (min n ((s.led.lastTrailer).getD 0).toNat))
    (good → ∃ u, exec .journalAckRead s = .next u ∧ u.led.apos = apos ∧ (s.led.decisions = [] → u.led = { s.led with apos := apos })) ∧
    (¬good → ∃ u, exec .journalAckRead s = .next u ∧ u.led.ackErr = s.led.ackErr + 1 ∧ bit u.led.evt 2 = true ∧ u.led.apos = s.led.apos)) ∧
  ((∀ y ∈ s.hi.watch, ∀ f, y.word ≠ .ack f) → exec .journalAckRead s = .next s) ∧
  (let takes : Prop := ¬credit ∧ p.state = 1 ∧ (s.qpJobs q).length < 16 ∧ s.hi.jobs.length < 256 ∧
     (s.qpJobs q).length + (p.cqt.toNat - p.cqh.toNat) < 2 ^ cqLog ∧ p.sqh.toNat < p.sqt.toNat ∧ bit s.hi.fnOff fn = false
   let h (k : Nat) : Word := s.hostPadded (p.sqBase.toNat + 64 * (p.sqh.toNat % sqSlots) + 16 * k)
   (takes → ∃ u, exec (.jobFetch q) s = .next u ∧ u.hi.qps[q].sqh = p.sqh + 1 ∧ u.hi.nextJob = s.hi.nextJob + 1 ∧
     (entryStatus (h 0) (h 1) (h 2) (h 3) = none → ∃ y : Job, u.hi.jobs = s.hi.jobs ++ [y] ∧ y.id = s.hi.nextJob ∧ y.origin = .qp q ∧ y.s0 = h 0 ∧ y.s1 = h 1 ∧
       y.s2 = h 2 ∧ y.s3 = h 3 ∧ y.started = false ∧ u.hi.qps[q].waiting = p.waiting) ∧
     ∀ st, entryStatus (h 0) (h 1) (h 2) (h 3) = some st → (∀ y ∈ s.hi.jobs, y.id ≠ s.hi.nextJob) → u.hi.jobs = s.hi.jobs ∧ ∃ c : Completion,
       u.hi.qps[q].waiting = p.waiting ++ [c] ∧ c.job = s.hi.nextJob ∧ c.cid = bits (h 0) 48 16 ∧ c.status = st ∧ c.detail = 0 ∧ c.result = 0) ∧
   (¬takes → exec (.jobFetch q) s = .next s)) ∧
  (∀ c, p.state = 1 → p.err ≠ 6 → p.waiting.find? (s.mayWrite q) = some c →
    let room : Prop := p.cqt.toNat - p.cqh.toNat < 2 ^ cqLog ∧ bit s.hi.fnOff fn = false
    let at_ := p.cqBase.toNat + 32 * (p.cqt.toNat % 2 ^ cqLog)
    (room → ∃ u, exec (.completionWrite q) s = .next u ∧ u.hostPadded (at_ + 16) = c.result ∧
      u.hostPadded at_ = at' c.cid 48 ||| at' (bits p.sqh 0 16) 32 ||| at' c.status 24 ||| at' c.detail 16 ||| flagAt (!bit p.cqt cqLog) 0 ∧
      u.hi.qps[q].cqt = p.cqt + 1 ∧ u.hi.qps[q].waiting = p.waiting.filter (fun d => d.job != c.job) ∧ u.mem = s.mem) ∧
    (¬room → exec (.completionWrite q) s = .next s)) ∧
  (∀ f : Fin 32, ∃ u, exec (.functionReset f) s = .next u ∧ bit u.hi.fnOff f.val = true ∧ bit u.hi.evt 6 = true ∧
    (fn = f.val → (p.state = 1 ∨ p.state = 2) → u.hi.qps[q].state = 2 ∧ u.hi.qps[q].err = 6 ∧ u.hi.qps[q].waiting = []) ∧
    (fn ≠ f.val ∨ p.state = 0 → u.hi.qps[q] = p)) ∧
  (∀ k : BitVec 16, (k &&& 0x0FFF = s.hi.link → exec (.pcieLinkChange k) s = .next s) ∧
    (k &&& 0x0FFF ≠ s.hi.link → ∃ u, exec (.pcieLinkChange k) s = .next u ∧ u.hi = { s.hi with link := k &&& 0x0FFF, evt := setBit s.hi.evt 0 true } ∧
      u.srcs = (s.raise 304).srcs))

/-- Jobs and register writes of the host (R417, R418, R420, R423, R425-R427, R434, R436, R437, R443): NOP, POST, COMMIT, MEMREAD, MEMWRITE and
CHSTART act and complete; an error of a request reaches its requester; the host's writes take effect, or are counted as refused; a powered
module's functions report the identifiers of R510. On the conditions that each clause sets on the state and the operands alone, jobNop,
jobPost, jobCommit, memread, memwrite, chstart, hostDmaError and registerWrite each answer a next state with their own effect. It rests on the
model's choices in log 16, 28, 40. -/
def Obligations.HostJobsAndRegisters : Prop := ∀ (s : State) (j : JobId) (x : Job) (b : Binding), s.Inv →
  let hv := bit x.s0 47
  let padded := bit x.s0 46
  let unstarted (opc : Nat) : Prop := s.jobFor j opc = some x ∧ s.binding x = some b
  (∀ (v : State) (q : QpId) (st d : BitVec 8) (r : Word), x.origin = .qp q → v.hi.qps[q].state = 1 → let u := v.jobEnd x st d r
    u.hi.jobs = v.hi.jobs.filter (fun y => y.id != x.id) ∧ u.hi.jobCnt = v.hi.jobCnt + 1 ∧ u.hi.qps[q].jobs = v.hi.qps[q].jobs + 1 ∧
    ∃ c : Completion, u.hi.qps[q].waiting = v.hi.qps[q].waiting ++ [c] ∧ c.job = x.id ∧ c.cid = bits x.s0 48 16 ∧ c.status = st ∧ c.detail = d ∧ c.result = r) ∧
  (∀ fn : Option (Fin 32), s.configIds fn = if s.brd.powered then
      some { vendor := 0x1F6C, device := if fn = none then 0x7248 else 0x7249, revision := 0xB0, classCode := 0x120000 } else none) ∧
  (s.jobFor j 0 = some x → UnitEnds (.jobNop j) s s x 0 0 0) ∧
  (∀ i ∈ [(Instr.jobNop j, 0), (.jobPost j, 1), (.jobCommit j, 2), (.memread j, 3), (.memwrite j, 4), (.chstart j, 5)], s.jobFor j i.2 = none → exec i.1 s = .next s) ∧
  (∀ i ∈ [(Instr.jobPost j, 1), (.jobCommit j, 2)], s.jobFor j i.2 = some x → x.ticket = none → s.binding x = none → UnitEnds i.1 s s x 3 1 0) ∧
  (∀ (commit : Bool) (t0 t : State) (ws : List Word) (slot : WAddr),
    let rd : Reader := { x := .job b.space b.troot, pass := b.ppass, preg := 0 }
    let da : DAddr := daOf (if hv then b.vstage else bits x.s1 0 52) 0
    unstarted (if commit then 2 else 1) → x.ticket = none →
    (hv = true → bits x.s1 0 4 = 0 ∧ stageVector b commit (bits x.s1 0 64).toNat s = .ok () t0) → (hv = false → t0 = s) →
    (if commit then readBlock rd da t0 else readVector rd da t0) = .ok (ws, slot) t →
    ∃ u, exec (if commit then .jobCommit j else .jobPost j) s = .next u ∧ u.mem = t.mem ∧
      u.hi.jobs = t.hi.jobs.map (fun y => if y.id = x.id then { y with started := true, ticket := some (t.led.tickets + 1) } else y) ∧
      (let r : PostReq := { ticket := t.led.tickets + 1, issuer := .job x.id, commit := commit, slot := slot, words := ws, since := t.now, checked := false }
       u.led = { t.led with tickets := t.led.tickets + 1, arrivals := t.led.arrivals ++ [r] })) ∧
  (∀ (write : Bool) (t : State) (r : WordRef),
    let i : Instr := if write then .memwrite j else .memread j
    let n := (bits x.s3 0 21).toNat
    let a := (bits x.s2 0 64).toNat + (if padded then 16 else 9) * x.progress
    let fnOn : Prop := ∀ q, x.origin = .qp q → bit s.hi.fnOff (bits s.hi.qps[q].ctl 24 5).toNat = false
    let moved (v : State) : Prop := (x.progress + 1 = n → UnitEnds i s v x 0 0 (BitVec.ofNat 72 n)) ∧
      (x.progress + 1 ≠ n → exec i s = .next (v.updJob j fun y => { y with started := true, progress := x.progress + 1, arrived := [] }))
    unstarted (if write then 4 else 3) → x.wait = none →
    ((n = 0 ∨ 2 ^ 20 < n) → UnitEnds i s s x 2 0 0) ∧
    (1 ≤ n → n ≤ 2 ^ 20 → padded = true → bits x.s2 0 4 ≠ 0 → UnitEnds i s s x 7 3 0) ∧
    (1 ≤ n → n ≤ 2 ^ 20 → (padded = true → bits x.s2 0 4 = 0) → fnOn → (∃ q, x.origin = .qp q) →
      (write = false → jobWord x b .load permLoad s = .ok r t → (t.cell r.pa).bad = false → ∃ v, moved v ∧ v = { t with hostMem := v.hostMem } ∧
        (padded = true → v.hostPadded a = t.data r.pa) ∧ (padded = false → v.hostOctets a 9 = octetList (t.data r.pa)) ∧
        ∀ k : Nat, (k < a ∨ a + (if padded then 16 else 9) ≤ k) → hostGet v.hostMem k = hostGet t.hostMem k) ∧
      (write = true → jobWord x b .store permStore s = .ok r t → r.ent.chg = true →
        moved (t.putWord r.pa (if padded then t.hostPadded a else wordOfOctets (t.hostOctets a 9)))))) ∧
  (∀ (e : EngId) (w : Word) (t : State), unstarted 5 → (bits x.s1 0 5).toNat = e.val →
    chStart (.job b.space b.troot) b.cpass e ((bits x.s2 0 52).setWidth 72) s = .ok w t → UnitEnds (.chstart j) s t x 0 0 w) ∧
  (unstarted 5 → 24 ≤ (bits x.s1 0 5).toNat → UnitEnds (.chstart j) s s x 2 0 0) ∧
  (let err (k : List Nat) (u : State) : Prop := u.hi.dmaErr = s.hi.dmaErr + 1 ∧ ∀ i ∈ k, bit u.hi.evt i = true
   (∀ q : QpId, s.hi.qps[q].state = 1 → ∃ u, exec (.hostDmaError (.ring q)) s = .next u ∧ err [2, 3] u ∧ u.hi.qps[q].state = 2 ∧ u.hi.qps[q].err = 5) ∧
   (∀ q : QpId, s.hi.qps[q].state = 0 → exec (.hostDmaError (.ring q)) s = .next s) ∧
   (∀ (n : CoreId) (pa : WAddr), regionOf pa = .window → exec (.hostDmaError (.coreStore n pa)) s = .next (s.aptErr.lateStore n 6 pa) ∧ err [2, 5] s.aptErr) ∧
   (∀ (e : EngId) (pa : WAddr), regionOf pa = .window → s.engines[e].running.isSome = true →
     (∃ u, exec (.hostDmaError (.engineLoad e pa)) s = .next u ∧ err [2, 5] u ∧
       u.engines[e] = { s.engines[e] with arrived := s.engines[e].arrived ++ [{ pa := pa, status := 3, word := 0 }] }) ∧
     ∃ u, exec (.hostDmaError (.engineStore e pa)) s = .next u ∧ err [2, 5] u ∧
       u.engines[e] = { s.engines[e] with arrived := s.engines[e].arrived ++ [{ pa := pa, status := 0x16, word := 0 }] }) ∧
   (∀ (n : CoreId) (f : FmtM) (da : DAddr) (r : WordRef) (t1 t2 : State), let sh : Shape := { regs := FmtM.regs f }
     s.starts n sh = true → s.aptErr.starts n sh = true → mEA n f (s.fetched n sh) = .ok da t1 → operand n 1 f.pr permLoad .load da 1 t1 = .ok [r] t2 →
     regionOf r.pa = .window →
     exec (.hostDmaError (.coreLoad n f)) s = .next ((s.aptErr.fetched n sh).faultAfter n (dataFault r.fa r.pa) s.aptErr)) ∧
   (∀ q : QpId, s.job j = some x → x.origin = .qp q → x.ticket = none → (bits x.s0 64 8 = 3 ∨ bits x.s0 64 8 = 4 ∨
       ((bits x.s0 64 8 = 1 ∨ bits x.s0 64 8 = 2) ∧ hv = true)) → x.started = true →
     ∃ v, UnitEnds (.hostDmaError (.jobData j)) s v x 9 0 (BitVec.ofNat 72 x.progress) ∧ err [2] v ∧ v.hi.jobs = s.hi.jobs)) ∧
  (∀ (off : BitVec 18) (c8 : Bool) (v : Word),
    let o := off.toNat / 16 * 16
    let z := if c8 then v else (bits v 0 64).setWidth 72
    let w : Instr := .registerWrite (.pf off true c8) v
    let refused (i : Instr) : Prop := ∃ u, exec i s = .next u ∧ u.hi.barErr = s.hi.barErr + 1 ∧ bit u.hi.evt 1 = true ∧ u.hi.qps = s.hi.qps ∧
      u.hi.apts = s.hi.apts ∧ u.sr = s.sr ∧ u.staged = s.staged
    let on : Prop := s.brd.powered = true ∧ s.sr.pcieServed = true ∧ bit s.hi.link 11 = false
    let full : Prop := on ∧ s.sr.hostServed = true
    (¬on → ∀ c, exec (.registerWrite (.pf off c c8) v) s = .next s) ∧
    (full → refused (.registerWrite (.pf off false c8) v)) ∧
    (full → isStaged o = true → exec w s = .next { s with staged := s.staged.put o z, sr := { s.sr with stState := 1 } } ∧
      (∀ y ∈ s.staged.list, y.1 ≠ o → y ∈ (s.staged.put o z).list) ∧ ∃ k : Nat, k ≤ 36 ∧ (o, (bits z 0 k).setWidth 72) ∈ (s.staged.put o z).list) ∧
    (full → o = 0x890 → exec w s = .next { s with hi := { s.hi with evt := s.hi.evt &&& ~~~(bits z 0 8) } }) ∧
    (full → o = 0x800 → exec w s = .next { s with hi := { s.hi with pollMin := bits z 0 17 } }) ∧
    (full → o = 0x820 → refused w) ∧
    (on → o = 0x460 → s.sr.lock = false → exec w s = .next { s with sr := { s.sr with bootHost := bits z 0 64 } }) ∧
    (full → o = 0x460 → s.sr.lock = true → refused w) ∧
    (∀ k : Fin 64, full → o = 0x1000 + 0x20 * k.val → (bit s.hi.apts[k].ctl 47 = true → refused w) ∧
      (bit s.hi.apts[k].ctl 47 = false → exec w s = .next { s with hi := { s.hi with apts := s.hi.apts.set k { s.hi.apts[k] with base := bits z 0 64 } } })) ∧
    (∀ q : QpId, let p := s.hi.qps[q]
      full → (o = 0x20010 + 0x80 * q.val → (p.state ≠ 0 → refused w) ∧
        (p.state = 0 → exec w s = .next { s with hi := { s.hi with qps := s.hi.qps.set q { p with sqBase := bits z 0 64 } } })) ∧
      (o = 0x20000 + 0x80 * q.val → (bits z 24 5 ≠ bits p.ctl 24 5 ∨ (p.state ≠ 0 ∧ bits z 9 22 ≠ bits p.ctl 9 22)) → bits p.ctl 0 9 = 0 → refused w)) ∧
    (∀ (k : Fin 32) (voff : BitVec 14) (i : Nat) (q : QpId), let p := s.hi.qps[q]
      let vo := voff.toNat / 16 * 16
      full → k ≠ 0 → (vo < 0x1000 → refused (.registerWrite (.vf k voff true c8) v)) ∧
      ((s.vfPairs k.val)[i]? = some q → vo = 0x1010 + 0x80 * i → p.state = 0 →
        exec (.registerWrite (.vf k voff true c8) v) s = .next { s with hi := { s.hi with qps := s.hi.qps.set q { p with sqBase := bits z 0 64 } } })))

/-! ## The fabric -/

/-- Links, routes and time (R444-R453, R458, R461, R464, R506): a codeword in order advances its link, a bad one asks for a replay and the eighth
ends service; silence and a full replay store end it; training judges the far end; a packet goes on by its route, and is held where it has no
credits or room; requests are sent again; the time
reference is followed. On the conditions that each clause sets on the state and the operands alone, codewordReceive, fabricLinkSilence,
fabricReplayStoreFull, fabricRetrainDone, packetForward, eseqResend, timePacket, timeMasterSend and timeLost each answer a next state with their
own effect. It rests on the model's choices in log 2, 9, 41, 57. -/
def Obligations.FabricLinksRoutesAndTime : Prop := ∀ (s : State) (l : Fin 8),
  let x := s.lb.links[l]
  let here := s.applied.lbPair
  let goesDown (i : Instr) : Prop := ∃ u, exec i s = .next u ∧
    (x.held = [] → u.lb.links = s.lb.links.set l { x with
        up := false, key := false, train := true, good := 0, dropped := 0, nak := false, store := [], fullSince := none, held := [], turn := 0 } ∧
      u.lb.evt = if x.up then setBit s.lb.evt l.val true else s.lb.evt) ∧
    (∀ (p : Packet) (d : Nat), x.held = [p] → p.vc ≠ 3 → s.nextLink p.dpair = some (l, d) → p.px = false → s.ws.contact = true →
      s.brd.powered = true → u.lb.links[l].held = [] ∧ u.lb.planeCnt = s.lb.planeCnt + 1 ∧
        u.lb.out = s.lb.out ++ [{ link := none, packet := { p with px := true, dl := false } }])
  (∀ cw : Codeword, let good : Prop := cw.fecOk = true ∧ cw.lcrcOk = true ∧ cw.cseq = x.csRx + 1
    let corr := if cw.corrected && cw.fecOk then x.corr + 1 else x.corr
    (x.up = false → x.key = false → exec (.codewordReceive l cw) s = .next s) ∧
    ((x.up = true ∨ x.key = true) → good →
      let joins := x.key && decide (64 ≤ x.good + 1)
      let rest := afterAck cw.cack x.store
      let again : List SentPacket := (rest.filter fun c => c.2.vc != 3).map fun c => { link := some l, packet := c.2 }
      let out := s.lb.out ++ if cw.nak then again else []
      let y : FabLink :=
        { x with
          corr := corr, csRx := cw.cseq, lastGood := s.now, dropped := 0, good := x.good + 1, nak := false, store := rest, up := x.up || joins,
          fullSince := if rest.length < 128 then none else some (x.fullSince.getD s.now),
          key := x.key && !joins, replay := if cw.nak then x.replay + BitVec.ofNat 32 rest.length else x.replay,
          cred := Vector.ofFn fun (i : Fin 7) => min (#v[64, 64, 64, 64, 16, 16, 8])[i] (x.cred[i] + (bits cw.cred (24 - 4 * i.val) 4).toNat) }
      ∃ u, exec (.codewordReceive l cw) s = .next u ∧
        (x.held = [] →
          u.lb = { s.lb with links := s.lb.links.set l y, out := out, evt := if joins then setBit s.lb.evt l.val true else s.lb.evt }) ∧
        (∀ p, x.held = [p] → s.brd.powered = true →
          let fits : Prop := rest.length < 128 ∧ packetSlots p ≤ y.cred[bufferOf p.vc p.dl]
          (fits → u.lb.out = out ++ [{ link := some l, packet := p }] ∧ u.lb.links[l].held = [] ∧ u.lb.links[l].csTx = x.csTx + 1 ∧
            u.lb.links[l].store = rest ++ [(x.csTx + 1, p)] ∧
            u.lb.links[l].cred[bufferOf p.vc p.dl] = y.cred[bufferOf p.vc p.dl] - packetSlots p) ∧
          (¬fits → u.lb.out = out ∧ u.lb.links = s.lb.links.set l y))) ∧
    ((x.up = true ∨ x.key = true) → ¬good → ∃ u, exec (.codewordReceive l cw) s = .next u ∧ bit u.lb.evt 8 = true ∧
      u.lb.links[l].uncorr = x.uncorr + 1 ∧ u.lb.links[l].corr = corr ∧
      (x.dropped + 1 < 8 → u.lb.links[l].up = x.up ∧ u.lb.links[l].nak = true ∧ u.lb.links[l].dropped = x.dropped + 1 ∧ u.lb.links[l].store = x.store) ∧
      (8 ≤ x.dropped + 1 → x.held = [] →
        u.lb.links[l].up = false ∧ u.lb.links[l].key = false ∧ u.lb.links[l].train = true ∧ u.lb.links[l].store = []))) ∧
  ((x.up = true ∨ x.key = true) → x.lastGood.toNat + 2000 ≤ s.now.toNat → goesDown (.fabricLinkSilence l)) ∧
  (s.now.toNat < x.lastGood.toNat + 2000 → exec (.fabricLinkSilence l) s = .next s) ∧
  (∀ t : BitVec 64, x.up = true → x.fullSince = some t → t.toNat + 2000 ≤ s.now.toNat → goesDown (.fabricReplayStoreFull l)) ∧
  ((∀ t : BitVec 64, x.fullSince = some t → s.now.toNat < t.toNat + 2000) → exec (.fabricReplayStoreFull l) s = .next s) ∧
  (let d := if l.val < 6 then l.val / 2 else l.val - 6
   let size := coord s.applied.lbDim d + 1
   let k := if l.val < 6 then (if l.val % 2 = 0 then 1 else size - 1) else size / 2
   (l.val < 6 → size = 1 → s.neighbour l = none) ∧ (6 ≤ l.val → bit s.applied.lbCtl d = false → s.neighbour l = none) ∧
   (∀ p, s.neighbour l = some p → ∀ e : Nat, e < 3 → coord p e = if e = d then (coord here d + k) % size else coord here e) ∧
   exec (.fabricRetrainDone l none) s = .next s ∧
   (∀ f : FarEnd, bit s.brd.linkKeys l.val = false → exec (.fabricRetrainDone l (some f)) s = .next s) ∧
   ∀ (f : FarEnd) (p : PairId), s.brd.powered = true → x.train = true → bit s.brd.linkKeys l.val = true → s.neighbour l = some p →
     let ok : Prop := f.pair = p ∧ f.side = s.ws.side ∧ f.link.val = if l.val < 6 then (if l.val % 2 = 0 then l.val + 1 else l.val - 1) else l.val
     (ok → ∃ u, exec (.fabricRetrainDone l (some f)) s = .next u ∧ u.lb = { s.lb with links := s.lb.links.set l { x with
       far := f.pair ++ BitVec.ofBool f.side, miswire := false, train := false, key := true, delay := f.delay, csTx := 0, csRx := 0, store := [], good := 0,
       fullSince := none, held := [], turn := 0, dropped := 0, nak := false, lastGood := s.now, cred := #v[64, 64, 64, 64, 16, 16, 8] } }) ∧
     (¬ok → ∃ u, exec (.fabricRetrainDone l (some f)) s = .next u ∧ u.lb = { s.lb with
       links := s.lb.links.set l { x with far := f.pair ++ BitVec.ofBool f.side, miswire := true }, evt := setBit s.lb.evt 15 true })) ∧
  (∀ (p : Packet), s.brd.powered = true →
    let cast : Prop := p.type = 6 ∨ p.type = 8 ∨ (p.type = 7 ∧ bits p.hw1 8 4 = 1)
    let dropped (u : State) : Prop := u.lb = { s.lb with dropCnt := s.lb.dropCnt + 1, evt := setBit s.lb.evt 12 true }
    let size (d : Nat) : Nat := coord s.applied.lbDim d + 1
    let delta (d : Nat) : Nat := (coord p.dpair d + size d - coord here d) % size d
    let dist (d : Nat) : Nat := min (delta d) (size d - delta d)
    (p.dpair = here → (p.dside = s.ws.side ∨ cast) → exec (.packetForward p) s = .next s) ∧
    (¬(p.dpair = here ∧ (p.dside = s.ws.side ∨ cast)) →
      (p.ttl = 0 → ∃ u, exec (.packetForward p) s = .next u ∧ dropped u) ∧
      (∀ (k : Fin 8) (d : Nat), p.ttl ≠ 0 → d < 3 → (∀ e : Nat, e < d → dist e = 0) → dist d ≠ 0 →
        k.val = (if d < 2 ∧ bit s.applied.lbCtl d = true ∧ size d < 4 * dist d then 6 + d else if 2 * delta d ≤ size d then 2 * d else 2 * d + 1) →
        (s.lb.links[k].up = true → s.lb.links[k].held = [] → ∃ u, exec (.packetForward p) s = .next u ∧
          let line : Bool := if 6 ≤ k.val then true else if k.val % 2 = 0 then coord here d + 1 == size d else coord here d == 0
          let base := if coord p.spair d = coord here d then false else p.dl
          let q : Packet := { p with ttl := p.ttl - 1, dl := base || line }
          let room : Prop := s.lb.links[k].store.length < 128 ∧ packetSlots q ≤ s.lb.links[k].cred[bufferOf q.vc q.dl]
          (room → u.lb.out = s.lb.out ++ [{ link := some k, packet := q }] ∧ u.lb.links[k].csTx = s.lb.links[k].csTx + 1 ∧ u.lb.links[k].held = []) ∧
          (¬room → u.lb.out = s.lb.out ∧ u.lb.links[k].csTx = s.lb.links[k].csTx ∧ u.lb.links[k].held = [q])) ∧
        (s.lb.links[k].up = false → p.px = false → s.ws.contact = true → ∃ u, exec (.packetForward p) s = .next u ∧
          u.lb = { s.lb with
            planeCnt := s.lb.planeCnt + 1, evt := setBit s.lb.evt 13 true,
            out := s.lb.out ++ [{ link := none, packet := { p with ttl := p.ttl - 1, px := true, dl := false } }] }) ∧
        (s.lb.links[k].up = false → (p.px = true ∨ s.ws.contact = false) → ∃ u, exec (.packetForward p) s = .next u ∧ dropped u)))) ∧
  (∀ (pair : PairId) (side ev : Bool) (z : Series), s.lb.series.find? (fun y => y.pair == pair && y.side == side && y.events == ev) = some z →
    let put (y : Series) : List Series := s.lb.series.map fun a => if a.pair == pair && a.side == side && a.events == ev then y else a
    (z.waiting = [] ∨ s.now.toNat < z.since.toNat + 10000 → exec (.eseqResend pair side ev) s = .next s) ∧
    (z.waiting ≠ [] → z.since.toNat + 10000 ≤ s.now.toNat →
      (z.resends < 3 → ∃ u, exec (.eseqResend pair side ev) s = .next u ∧ u.lb.series = put { z with resends := z.resends + 1, since := s.now } ∧
        u.lb.retryCnt = s.lb.retryCnt + 1 ∧ u.lb.txCnt = s.lb.txCnt + BitVec.ofNat 64 z.waiting.length ∧ bit u.lb.evt 14 = true) ∧
      (3 ≤ z.resends → ∃ u, exec (.eseqResend pair side ev) s = .next u ∧ u.lb.series = put { z with waiting := [], resends := 0 } ∧
        u.lb.undeliv = s.lb.undeliv + BitVec.ofNat 32 z.waiting.length ∧ bit u.lb.evt 11 = true ∧
        ∀ (n : CoreId) (pa : WAddr) (e : BitVec 16) (p : Packet), z.waiting = [(e, .coreLoad n pa, p)] → s.cores[n].wait = some pa →
          u.cores[n].wait = none ∧ u.cores[n].arrived = s.cores[n].arrived ++ [{ pa := pa, status := 3, word := 0 }]))) ∧
  (∀ t0 : BitVec 64, let upstream : Prop := ∃ d, s.nextLink s.applied.lbTmaster = some (l, d) ∧ x.up = true
    (¬upstream → exec (.timePacket l t0) s = .next s) ∧
    (upstream → s.brd.powered = true → let ref := t0 + x.delay.setWidth 64
      let d : Int := (ref.toNat : Int) - s.now.toNat
      ∃ u, exec (.timePacket l t0) s = .next u ∧ u.lb.timeErr = BitVec.ofInt 32 d ∧ u.lb.rxCnt = s.lb.rxCnt + 1 ∧
        (1000 < d → u.now = ref ∧ u.lb.drift = 0 ∧ bit u.lb.evt 10 = true) ∧ (d ≤ 1000 → u.now = s.now ∧ u.lb.drift = d) ∧ u.lb.lastTime = u.now ∧
        ∀ k : Fin 8, k ≠ l → s.lb.links[k].up = true → s.lb.links[k].idle → Emitted u k 9 (at' ref 8))) ∧
  (let sends : Prop := here = s.applied.lbTmaster ∧ s.lb.lastMaster.toNat + 1000 ≤ s.now.toNat
   (sends → s.brd.powered = true → ∃ u, exec .timeMasterSend s = .next u ∧ u.lb.lastMaster = s.now ∧
     ∀ k : Fin 8, s.lb.links[k].up = true → s.lb.links[k].idle → Emitted u k 9 (at' s.now 8)) ∧
   (¬sends → exec .timeMasterSend s = .next s)) ∧
  (let lost : Prop := here ≠ s.applied.lbTmaster ∧ s.lb.lastTime.toNat + 10000 ≤ s.now.toNat
   (lost → ∃ u, exec .timeLost s = .next u ∧ u.lb = { s.lb with drift := 0, evt := setBit s.lb.evt 9 true } ∧ u.now = s.now) ∧
   (¬lost → exec .timeLost s = .next s))

/-- Requests of other modules and the answers to this one's (R34, R36, R454-R459): a request in order is served and answered, one served before
is answered again, any other is dropped; a response reaches what waits for it; a unit job is taken, crossed or refused. On the
conditions that each clause sets on the state and the operands alone, loadReq, storeReq, eventPacket, loadRsp, ack and unit each answer a next
state with their own effect. It rests on the model's choices in log 24-27. -/
def Obligations.FabricRequestsAreServed : Prop := ∀ (s : State) (p : Packet), s.Inv →
  let v (ev : Bool) : Served := s.servedFor p.spair p.sside ev
  let inOrder (ev : Bool) : Prop := p.eseq = (v ev).expected
  let as := reqWords p.hw1
  let mask : BitVec 18 := bits p.hw1 16 18
  let status (st : BitVec 8) : Word := at' st 64
  (as.length = (bits p.hw1 12 4).toNat + 1 ∧ ∀ k : Nat, k < as.length → (bits p.hw1 70 2).toNat < 3 →
    as.getD k 0 = BitVec.ofNat 52 ((bits p.hw1 70 2).toNat * 2 ^ 48 + ((bits p.hw1 34 36).toNat + k) % 2 ^ 36)) ∧
  (∀ i ∈ [(Instr.loadReq p, 1), (.storeReq p, 2), (.eventPacket p, 3), (.loadRsp p, 4), (.ack p, 5)], ¬s.delivers p i.2 → exec i.1 s = .next s) ∧
  (∀ i ∈ [(Instr.loadReq p, 1, false), (.storeReq p, 2, false), (.eventPacket p, 3, true)], s.delivers p i.2.1 → ¬inOrder i.2.2 →
    (∀ h, (v i.2.2).held.find? (fun h => h.1 == p.eseq) = some h → exec i.1 s = .next (({ s with lb := { s.lb with rxCnt := s.lb.rxCnt + 1 } } : State).issue h.2)) ∧
    ((v i.2.2).held.find? (fun h => h.1 == p.eseq) = none → ∃ u, exec i.1 s = .next u ∧
      u.lb = { s.lb with dropCnt := s.lb.dropCnt + 1, evt := setBit s.lb.evt 12 true })) ∧
  (s.delivers p 1 → inOrder false →
    ((∀ a ∈ as, isLocalMem a = true ∧ s.populated a = true ∧ (s.cell a).bad = false) → ∃ u, exec (.loadReq p) s = .next u ∧
      Answered s u p false 4 (at' (bits p.hw1 12 4) 12) (as.map s.data) ∧ u.mem = s.mem) ∧
    (∀ st, firstStatus (as.map fun a => s.targetStatus a false maskAll) = st → st ≠ 0 → ∃ u, exec (.loadReq p) s = .next u ∧
      Answered s u p false 4 (status st ||| at' (bits p.hw1 12 4) 12) [] ∧ u.mem = s.mem) ∧
    (∀ a, as = [a] → isLocalMem a = true → s.populated a = true → (s.cell a).bad = true → s.canHeal a = true → (v false).heal = none →
      ∃ u, exec (.loadReq p) s = .next u ∧ (u.servedFor p.spair p.sside false).heal = some (a, false) ∧
        (u.servedFor p.spair p.sside false).expected = p.eseq ∧ ∃ h ∈ u.ws.heals, h.off.toNat = offsetOf a)) ∧
  (s.delivers p 2 → inOrder false →
    ((∀ a ∈ as, isLocalMem a = true ∧ s.populated a = true ∧ (regionOf a = .plain → s.guarded (offsetOf a) = false) ∧ s.shadowPage a = false ∧
      ((s.cell a).bad = true → mask = maskAll)) →
      as.Nodup → p.payload.length = as.length → ∃ u, exec (.storeReq p) s = .next u ∧ Answered s u p false 5 0 [] ∧
        (∀ z ∈ as.zip p.payload, u.data z.1 = merge mask z.2 (s.data z.1)) ∧ ∀ a, a ∉ as → u.data a = s.data a) ∧
    (∀ st, firstStatus (as.map fun a => s.targetStatus a true mask) = st → st ≠ 0 → ∃ u, exec (.storeReq p) s = .next u ∧
      Answered s u p false 5 (status st) [] ∧ u.mem = s.mem) ∧
    (∀ a, as = [a] → isLocalMem a = true → s.targetStatus a true mask = 0 → (s.cell a).bad = true → mask ≠ maskAll → ∃ u, exec (.storeReq p) s = .next u ∧
      Answered s u p false 5 (status 3) [] ∧ u.mem = s.mem)) ∧
  (let k := (bits p.hw1 0 10).toNat
   let soft : Prop := 768 ≤ k ∨ (464 ≤ k ∧ k < 656 ∧ (k - 464) % 4 < 2)
   s.delivers p 3 → inOrder true →
    (soft → ∃ u, exec (.eventPacket p) s = .next u ∧ Answered s u p true 5 0 [] ∧ u.mem = s.mem ∧
      ∀ (c : SrcId), c.val = k → u.srcs[c].pend = true ∧ u.srcs[c].raises = s.srcs[c].raises + 1) ∧
    (¬soft → ∃ u, exec (.eventPacket p) s = .next u ∧ Answered s u p true 5 (status 5) [])) ∧
  (∀ (x : Series) (n : CoreId) (pa : WAddr), let done : List Series := [{ x with waiting := [], since := s.now, resends := 0 }]
    let st : BitVec 8 := bits p.hw1 64 8
    (s.delivers p 4 → s.awaits p x false 1 (.coreLoad n pa) → s.cores[n].wait = some pa → ∀ w, p.payload = [w] → ∃ u, exec (.loadRsp p) s = .next u ∧
      u.lb = { s.lb with series := done, rxCnt := s.lb.rxCnt + 1 } ∧ OnlyCore n { s with lb := u.lb } u ∧
      u.cores[n] = { s.cores[n] with wait := none, arrived := s.cores[n].arrived ++ [{ pa := pa, status := st, word := w }] }) ∧
    (s.delivers p 5 → s.awaits p x false 2 (.coreStore n pa) → st ≠ 5 →
      let t : State := { s with lb := { s.lb with series := done, rxCnt := s.lb.rxCnt + 1 } }
      exec (.ack p) s = .next (if st = 0 then t else t.lateStore n (if st = 1 then 1 else if st = 2 then 2 else if st = 3 then 5 else 7) pa)) ∧
    (s.delivers p 5 → s.awaits p x true 3 (.event n) → let t : State := { s with lb := { s.lb with series := done, rxCnt := s.lb.rxCnt + 1 } }
      exec (.ack p) s = .next (if st = 0 then t else t.lateStore n (if st = 1 then 1 else if st = 2 then 2 else if st = 3 then 5 else 7) 0))) ∧
  (let w (k : Nat) : Word := p.payload.getD k 0
   let got : Prop := s.brd.powered = true ∧ p.type = 8 ∧ p.ecrc = packetCode p ∧ p.dpair = s.applied.lbPair
   (¬got → exec (.unit p) s = .next s) ∧
   (got → p.vc ≠ 1 → inOrder false →
     (s.leads = true → 0x40 ≤ (bits (w 0) 64 8).toNat → entryStatus (w 0) (w 1) (w 2) (w 3) = none → ∃ (u : State) (y : Job), exec (.unit p) s = .next u ∧
       u.hi.jobs = s.hi.jobs ++ [y] ∧ y.id = s.hi.nextJob ∧ y.origin = .fabric p.spair p.sside p.eseq ∧ y.s0 = w 0 ∧ y.s1 = w 1 ∧ y.s2 = w 2 ∧ y.s3 = w 3 ∧
       y.started = false ∧ (u.servedFor p.spair p.sside false).expected = p.eseq + 1) ∧
     (s.leads = false → s.namesSide p = false → p.spair ≠ s.applied.lbPair →
       (s.twinLeads = true → ∃ u, exec (.unit p) s = .next u ∧ u.lb.out = s.lb.out ++ [{ link := none, packet := p }] ∧ u.hi.jobs = s.hi.jobs ∧
         (u.servedFor p.spair p.sside false).expected = p.eseq + 1) ∧
       (s.twinLeads = false → ∃ u, exec (.unit p) s = .next u ∧ Answered s u p false 8 (at' (0x0A : BitVec 8) 64 ||| at' (1 : BitVec 8) 56) [0] ∧
         u.hi.jobs = s.hi.jobs))) ∧
   (∀ (x : Series) (j : JobId), got → p.vc = 1 → p.dside = s.ws.side → s.awaits p x false 8 (.unit j) → exec (.unit p) s = .next
     (({ s with lb := { s.lb with series := [{ x with waiting := [], since := s.now, resends := 0 }], rxCnt := s.lb.rxCnt + 1 } } : State).unitAnswer j
       (bits p.hw1 64 8) (bits p.hw1 56 8) (w 0))))

/-! ## Power, temperature, clocks and pins -/

/-- Power, temperature, fords, the management port and the test access port (R496, R499-R501, R503-R505, R507-R509, R511): losses of power end what runs and keep
the memory, thresholds raise their sources, the core voltage steps down and returns, a stopped clock is counted, tests shut the module off. On
the conditions that each clause sets on the state and the operands alone, powerFail, holdupLow, standbyLost, undervoltage, overpower, thermalWarn,
throttle, thermalTrip, throttleRestore, fordClockStop, fordClockStopTimeout, bypass, idcode, samplePreload, extest, extestPulse, extestTrain,
clamp, highz, intest and mgmtTransaction each answer a next state with their own effect. It rests on the model's choices in log 15, 38. -/
def Obligations.PowerPinsAndTests : Prop := ∀ (s : State),
  let b := s.brd
  let on : Prop := b.powered = true
  let put (x : Board) : State := { s with brd := x }
  let alarm (x : Board) (k : Nat) : State := { s with brd := { x with evt := setBit x.evt k true }, srcs := (s.raise (720 + k)).srcs }
  let isOff (u : State) : Prop := u.brd.powered = false ∧ u.brd.pwrok = false ∧ u.brd.vcore = 0 ∧ u.led = Ledger.reset ∧ u.hi = HostIf.reset ∧ u.lb = Fabric.reset ∧
    u.mem = s.mem ∧ u.hostMem = s.hostMem ∧ u.applied = s.applied ∧ ∀ n : CoreId, u.cores[n] = s.cores[n].stopped
  let warm (tj : BitVec 16) : Board := { b with tj := tj, coolSince := if tj.toInt < 1600 then some (b.coolSince.getD s.now) else none }
  (on → ∃ u, exec .powerFail s = .next u ∧ isOff u ∧ u.brd.mainOk = false ∧ u.brd.latched = b.latched) ∧
  (¬on → exec .powerFail s = .next (put { b with mainOk := false })) ∧
  (∀ uj : BitVec 16, (on → uj.toNat < 10000 → exec (.holdupLow uj) s = .next (alarm { b with holdup := uj } 4)) ∧
    (¬on ∨ 10000 ≤ uj.toNat → exec (.holdupLow uj) s = .next s)) ∧
  (exec .standbyLost s = .next (if b.powered && b.stbyOk then alarm { b with stbyOk := false } 3 else put { b with stbyOk := false })) ∧
  (∀ mv : BitVec 16, let low : Prop := on ∧ 10800 ≤ mv.toNat ∧ mv.toNat < 11400
    (low → exec (.undervoltage mv) s = .next (alarm { b with p12mMv := mv } 2)) ∧ (¬low → exec (.undervoltage mv) s = .next s)) ∧
  (∀ mw : BitVec 20, let high : Prop := on ∧ 480000 < mw.toNat
    (high → exec (.overpower mw) s = .next (alarm { b with power := mw } 5)) ∧ (¬high → exec (.overpower mw) s = .next s)) ∧
  (∀ tj : BitVec 16, let t := tj.toInt
    (¬on → exec (.thermalWarn tj) s = .next s ∧ exec (.throttle tj) s = .next s ∧ exec (.thermalTrip tj) s = .next s) ∧
    (on → (16 * (min 103 b.tjWarn.toNat : Int) ≤ t → exec (.thermalWarn tj) s = .next (alarm (warm tj) 0)) ∧
      (t < 16 * (min 103 b.tjWarn.toNat : Int) → exec (.thermalWarn tj) s = .next (put (warm tj))) ∧
      (t < 1648 → exec (.throttle tj) s = .next (put (warm tj))) ∧
      (b.throttling = true → s.now.toNat < b.stepAt.toNat + 1000 → exec (.throttle tj) s = .next (put (warm tj))) ∧
      (1648 ≤ t → (b.throttling = true → b.stepAt.toNat + 1000 ≤ s.now.toNat) →
        let x : Board := { warm tj with vcore := BitVec.ofNat 10 (max 680 (b.vcore.toNat - 10)), throttling := true, stepAt := s.now }
        exec (.throttle tj) s = .next (if b.throttling then put x else alarm { x with throtCnt := b.throtCnt + 1 } 1)) ∧
      (1760 ≤ t → ∃ u, exec (.thermalTrip tj) s = .next u ∧ isOff u ∧ u.brd.latched = true ∧ u.brd.thermtrip = true ∧ u.brd.tj = tj) ∧
      (t < 1760 → exec (.thermalTrip tj) s = .next s))) ∧
  (let back : Prop := on ∧ b.throttling = true ∧ ∃ t0, b.coolSince = some t0 ∧ t0.toNat + 1000000 ≤ s.now.toNat
   (back → exec .throttleRestore s = .next (put { b with vcore := b.vcoreSet, throttling := false })) ∧ (¬back → exec .throttleRestore s = .next s)) ∧
  (∀ (f : Fin 18), let since := b.fordSince[f]
    (∀ stopped : Bool, (on → since.isSome ≠ stopped → ∃ u, exec (.fordClockStop f stopped) s = .next u ∧
        u.brd = { b with fordSince := b.fordSince.set f (if stopped then some s.now else none), fordStop := b.fordStop.set f (b.fordStop[f] + 1) } ∧
        u = { s with brd := u.brd, srcs := (s.raise (736 + f.val)).srcs }) ∧
      (¬on ∨ since.isSome = stopped → exec (.fordClockStop f stopped) s = .next s)) ∧
    (let ends : Prop := on ∧ ∃ t0, since = some t0 ∧ (f.val = 17 ∨ (11 ≤ f.val ∧ f.val ≤ 14 ∧ t0.toNat + 10000 ≤ s.now.toNat))
     (ends → ∃ u, exec (.fordClockStopTimeout f) s = .next u ∧ isOff u ∧ u.brd.mainOk = b.mainOk) ∧ (¬ends → exec (.fordClockStopTimeout f) s = .next s))) ∧
  (b.stbyOk = false → ∀ i ∈ [Instr.bypass, .idcode, .samplePreload, .extest, .extestPulse, .extestTrain, .clamp, .highz, .intest], exec i s = .next s) ∧
  (b.stbyOk = true → exec .bypass s = .next (put { b with tap := "BYPASS" }) ∧ exec .samplePreload s = .next (put { b with tap := "SAMPLE_PRELOAD" }) ∧
    exec .idcode s = .next (put { b with tap := "IDCODE", mgmtOut := 0x17248B67 }) ∧
    ∀ i ∈ [(Instr.extest, "EXTEST"), (.extestPulse, "EXTEST_PULSE"), (.extestTrain, "EXTEST_TRAIN"), (.clamp, "CLAMP"), (.highz, "HIGHZ"), (.intest, "INTEST")],
      ∃ u, exec i.1 s = .next u ∧ u.brd.tap = i.2 ∧ u.brd.latched = true ∧ (on → isOff u) ∧
        (¬on → u = put { b with tap := i.2, latched := true })) ∧
  (let pin (i : Nat) : BitVec 7 := if bit b.straps i then 0 else 1
   s.mgmtPort = (bit b.straps 2, 0x58 + 2 * pin 1 + pin 0)) ∧
  (∀ (off : BitVec 24) (v : Word), let o := off.toNat / 16 * 16
    (b.stbyOk = false → exec (.mgmtTransaction (.read off)) s = .next s ∧ exec (.mgmtTransaction (.write off v)) s = .next s) ∧
    (b.stbyOk = true → exec (.mgmtTransaction (.read off)) s = .next (put { b with mgmtOut := if o < 0x1000 ∨ (0x6000 ≤ o ∧ o < 0x8000) then s.setupRead o else 0 }) ∧
      (o ≠ 0x450 ∨ (bit v 0 = false ∧ bit v 1 = false) ∨ ¬on ∨ (bit v 0 = true ∧ s.sr.phase = 0) ∨ (bit v 0 = false ∧ s.sr.phase ≠ 3) →
        ∃ u, exec (.mgmtTransaction (.write off v)) s = .next u ∧ u = { s with free := u.free }) ∧
      (o = 0x450 → on → bit v 0 = true → s.sr.phase ≠ 0 → ∃ u, exec (.mgmtTransaction (.write off v)) s = .next u ∧
        u.sr.start = bits (s.data (hdrAddr 0)) 0 48 + 1)))

/-! ## The block -/

/-- A step takes the command at the front of the queue and answers what it does on the queue's rest; with none waiting, one nanosecond of the reference
passes and the time counter counts it (the model's choice, log 2; the rates are those of R464). -/
def Obligations.StepRunsTheFront : Prop := ∀ (s : State),
  (∀ (c : Instr) (rest : List Instr), s.pending = c :: rest → step s = exec c { s with pending := rest }) ∧
  (s.pending = [] → ∃ u, step s = .next u ∧ u = { s with now := u.now, lb := u.lb } ∧
    (s.brd.powered = false ∨ s.brd.fordSince[(17 : Fin 18)].isSome = true → u = s) ∧
    (s.brd.powered = true → s.brd.fordSince[(17 : Fin 18)] = none →
      (s.lb.drift = 0 → u = { s with now := s.now + 1 }) ∧
      (s.lb.drift < 0 → s.lb.half = false → u.now = s.now ∧ u.lb = { s.lb with half := true, drift := s.lb.drift + 1 }) ∧
      (s.lb.drift < 0 → s.lb.half = true → u.now = s.now + 1 ∧ u.lb = { s.lb with half := false }) ∧
      (0 < s.lb.drift → s.lb.half = false → u.now = s.now + 1 ∧ u.lb = { s.lb with half := true }) ∧
      (0 < s.lb.drift → s.lb.half = true → u.now = s.now + 2 ∧ u.lb = { s.lb with half := false, drift := s.lb.drift - 1 })))

/-- The machine after reset keeps the invariant: both memories are in canonical form, and nothing waits. That memory lists nothing is the model's
choices in log 5. -/
def Obligations.ResetKeepsTheInvariant : Prop := State.reset.Inv ∧ State.reset.pending = []

/-- Every command answers a next state: none faults or is refused. It leaves the queue as it was and keeps the invariant; so does every step.
That none stops, and what an empty queue does, are the model's choices in log 2 and 21. -/
def Obligations.EveryStepKeepsTheInvariant : Prop :=
  (∀ (i : Instr) (s : State), ∃ t, exec i s = .next t ∧ t.pending = s.pending ∧ (s.Inv → t.Inv)) ∧
  ∀ s : State, ∃ t, step s = .next t ∧ t.pending = s.pending.tail ∧ (s.Inv → t.Inv)
end

