-- ==== Sys2Proof/Laws/State.lean ====
section
/-! SUPPORT. What each update of the state leaves as it was: one lemma per field per update. -/

namespace Sys2Proof.Machine

/-! ## Updates of one part of the state -/

@[simp] theorem State.updCore_pending (s : State) (n : CoreId) (f : Core → Core) : (s.updCore n f).pending = s.pending := rfl
@[simp] theorem State.updCore_free (s : State) (n : CoreId) (f : Core → Core) : (s.updCore n f).free = s.free := rfl
@[simp] theorem State.updCore_now (s : State) (n : CoreId) (f : Core → Core) : (s.updCore n f).now = s.now := rfl
@[simp] theorem State.updCore_mem (s : State) (n : CoreId) (f : Core → Core) : (s.updCore n f).mem = s.mem := rfl
@[simp] theorem State.updCore_hostMem (s : State) (n : CoreId) (f : Core → Core) : (s.updCore n f).hostMem = s.hostMem := rfl
@[simp] theorem State.updCore_quads (s : State) (n : CoreId) (f : Core → Core) : (s.updCore n f).quads = s.quads := rfl
@[simp] theorem State.updCore_engines (s : State) (n : CoreId) (f : Core → Core) : (s.updCore n f).engines = s.engines := rfl
@[simp] theorem State.updCore_srcs (s : State) (n : CoreId) (f : Core → Core) : (s.updCore n f).srcs = s.srcs := rfl
@[simp] theorem State.updCore_mtmr (s : State) (n : CoreId) (f : Core → Core) : (s.updCore n f).mtmr = s.mtmr := rfl
@[simp] theorem State.updCore_applied (s : State) (n : CoreId) (f : Core → Core) : (s.updCore n f).applied = s.applied := rfl
@[simp] theorem State.updCore_staged (s : State) (n : CoreId) (f : Core → Core) : (s.updCore n f).staged = s.staged := rfl
@[simp] theorem State.updCore_led (s : State) (n : CoreId) (f : Core → Core) : (s.updCore n f).led = s.led := rfl
@[simp] theorem State.updCore_ws (s : State) (n : CoreId) (f : Core → Core) : (s.updCore n f).ws = s.ws := rfl
@[simp] theorem State.updCore_hi (s : State) (n : CoreId) (f : Core → Core) : (s.updCore n f).hi = s.hi := rfl
@[simp] theorem State.updCore_lb (s : State) (n : CoreId) (f : Core → Core) : (s.updCore n f).lb = s.lb := rfl
@[simp] theorem State.updCore_sr (s : State) (n : CoreId) (f : Core → Core) : (s.updCore n f).sr = s.sr := rfl
@[simp] theorem State.updCore_brd (s : State) (n : CoreId) (f : Core → Core) : (s.updCore n f).brd = s.brd := rfl

@[simp] theorem State.updQuad_pending (s : State) (n : QuadId) (f : Quad → Quad) : (s.updQuad n f).pending = s.pending := rfl
@[simp] theorem State.updQuad_free (s : State) (n : QuadId) (f : Quad → Quad) : (s.updQuad n f).free = s.free := rfl
@[simp] theorem State.updQuad_now (s : State) (n : QuadId) (f : Quad → Quad) : (s.updQuad n f).now = s.now := rfl
@[simp] theorem State.updQuad_mem (s : State) (n : QuadId) (f : Quad → Quad) : (s.updQuad n f).mem = s.mem := rfl
@[simp] theorem State.updQuad_hostMem (s : State) (n : QuadId) (f : Quad → Quad) : (s.updQuad n f).hostMem = s.hostMem := rfl
@[simp] theorem State.updQuad_cores (s : State) (n : QuadId) (f : Quad → Quad) : (s.updQuad n f).cores = s.cores := rfl
@[simp] theorem State.updQuad_engines (s : State) (n : QuadId) (f : Quad → Quad) : (s.updQuad n f).engines = s.engines := rfl
@[simp] theorem State.updQuad_srcs (s : State) (n : QuadId) (f : Quad → Quad) : (s.updQuad n f).srcs = s.srcs := rfl
@[simp] theorem State.updQuad_mtmr (s : State) (n : QuadId) (f : Quad → Quad) : (s.updQuad n f).mtmr = s.mtmr := rfl
@[simp] theorem State.updQuad_applied (s : State) (n : QuadId) (f : Quad → Quad) : (s.updQuad n f).applied = s.applied := rfl
@[simp] theorem State.updQuad_staged (s : State) (n : QuadId) (f : Quad → Quad) : (s.updQuad n f).staged = s.staged := rfl
@[simp] theorem State.updQuad_led (s : State) (n : QuadId) (f : Quad → Quad) : (s.updQuad n f).led = s.led := rfl
@[simp] theorem State.updQuad_ws (s : State) (n : QuadId) (f : Quad → Quad) : (s.updQuad n f).ws = s.ws := rfl
@[simp] theorem State.updQuad_hi (s : State) (n : QuadId) (f : Quad → Quad) : (s.updQuad n f).hi = s.hi := rfl
@[simp] theorem State.updQuad_lb (s : State) (n : QuadId) (f : Quad → Quad) : (s.updQuad n f).lb = s.lb := rfl
@[simp] theorem State.updQuad_sr (s : State) (n : QuadId) (f : Quad → Quad) : (s.updQuad n f).sr = s.sr := rfl
@[simp] theorem State.updQuad_brd (s : State) (n : QuadId) (f : Quad → Quad) : (s.updQuad n f).brd = s.brd := rfl

@[simp] theorem State.updEng_pending (s : State) (n : EngId) (f : Engine → Engine) : (s.updEng n f).pending = s.pending := rfl
@[simp] theorem State.updEng_free (s : State) (n : EngId) (f : Engine → Engine) : (s.updEng n f).free = s.free := rfl
@[simp] theorem State.updEng_now (s : State) (n : EngId) (f : Engine → Engine) : (s.updEng n f).now = s.now := rfl
@[simp] theorem State.updEng_mem (s : State) (n : EngId) (f : Engine → Engine) : (s.updEng n f).mem = s.mem := rfl
@[simp] theorem State.updEng_hostMem (s : State) (n : EngId) (f : Engine → Engine) : (s.updEng n f).hostMem = s.hostMem := rfl
@[simp] theorem State.updEng_cores (s : State) (n : EngId) (f : Engine → Engine) : (s.updEng n f).cores = s.cores := rfl
@[simp] theorem State.updEng_quads (s : State) (n : EngId) (f : Engine → Engine) : (s.updEng n f).quads = s.quads := rfl
@[simp] theorem State.updEng_srcs (s : State) (n : EngId) (f : Engine → Engine) : (s.updEng n f).srcs = s.srcs := rfl
@[simp] theorem State.updEng_mtmr (s : State) (n : EngId) (f : Engine → Engine) : (s.updEng n f).mtmr = s.mtmr := rfl
@[simp] theorem State.updEng_applied (s : State) (n : EngId) (f : Engine → Engine) : (s.updEng n f).applied = s.applied := rfl
@[simp] theorem State.updEng_staged (s : State) (n : EngId) (f : Engine → Engine) : (s.updEng n f).staged = s.staged := rfl
@[simp] theorem State.updEng_led (s : State) (n : EngId) (f : Engine → Engine) : (s.updEng n f).led = s.led := rfl
@[simp] theorem State.updEng_ws (s : State) (n : EngId) (f : Engine → Engine) : (s.updEng n f).ws = s.ws := rfl
@[simp] theorem State.updEng_hi (s : State) (n : EngId) (f : Engine → Engine) : (s.updEng n f).hi = s.hi := rfl
@[simp] theorem State.updEng_lb (s : State) (n : EngId) (f : Engine → Engine) : (s.updEng n f).lb = s.lb := rfl
@[simp] theorem State.updEng_sr (s : State) (n : EngId) (f : Engine → Engine) : (s.updEng n f).sr = s.sr := rfl
@[simp] theorem State.updEng_brd (s : State) (n : EngId) (f : Engine → Engine) : (s.updEng n f).brd = s.brd := rfl

@[simp] theorem State.updQp_pending (s : State) (n : QpId) (f : Qp → Qp) : (s.updQp n f).pending = s.pending := rfl
@[simp] theorem State.updQp_free (s : State) (n : QpId) (f : Qp → Qp) : (s.updQp n f).free = s.free := rfl
@[simp] theorem State.updQp_now (s : State) (n : QpId) (f : Qp → Qp) : (s.updQp n f).now = s.now := rfl
@[simp] theorem State.updQp_mem (s : State) (n : QpId) (f : Qp → Qp) : (s.updQp n f).mem = s.mem := rfl
@[simp] theorem State.updQp_hostMem (s : State) (n : QpId) (f : Qp → Qp) : (s.updQp n f).hostMem = s.hostMem := rfl
@[simp] theorem State.updQp_cores (s : State) (n : QpId) (f : Qp → Qp) : (s.updQp n f).cores = s.cores := rfl
@[simp] theorem State.updQp_quads (s : State) (n : QpId) (f : Qp → Qp) : (s.updQp n f).quads = s.quads := rfl
@[simp] theorem State.updQp_engines (s : State) (n : QpId) (f : Qp → Qp) : (s.updQp n f).engines = s.engines := rfl
@[simp] theorem State.updQp_srcs (s : State) (n : QpId) (f : Qp → Qp) : (s.updQp n f).srcs = s.srcs := rfl
@[simp] theorem State.updQp_mtmr (s : State) (n : QpId) (f : Qp → Qp) : (s.updQp n f).mtmr = s.mtmr := rfl
@[simp] theorem State.updQp_applied (s : State) (n : QpId) (f : Qp → Qp) : (s.updQp n f).applied = s.applied := rfl
@[simp] theorem State.updQp_staged (s : State) (n : QpId) (f : Qp → Qp) : (s.updQp n f).staged = s.staged := rfl
@[simp] theorem State.updQp_led (s : State) (n : QpId) (f : Qp → Qp) : (s.updQp n f).led = s.led := rfl
@[simp] theorem State.updQp_ws (s : State) (n : QpId) (f : Qp → Qp) : (s.updQp n f).ws = s.ws := rfl
@[simp] theorem State.updQp_lb (s : State) (n : QpId) (f : Qp → Qp) : (s.updQp n f).lb = s.lb := rfl
@[simp] theorem State.updQp_sr (s : State) (n : QpId) (f : Qp → Qp) : (s.updQp n f).sr = s.sr := rfl
@[simp] theorem State.updQp_brd (s : State) (n : QpId) (f : Qp → Qp) : (s.updQp n f).brd = s.brd := rfl

@[simp] theorem State.putCell_pending (s : State) (n : WAddr) (f : MCell) : (s.putCell n f).pending = s.pending := rfl
@[simp] theorem State.putCell_free (s : State) (n : WAddr) (f : MCell) : (s.putCell n f).free = s.free := rfl
@[simp] theorem State.putCell_now (s : State) (n : WAddr) (f : MCell) : (s.putCell n f).now = s.now := rfl
@[simp] theorem State.putCell_hostMem (s : State) (n : WAddr) (f : MCell) : (s.putCell n f).hostMem = s.hostMem := rfl
@[simp] theorem State.putCell_cores (s : State) (n : WAddr) (f : MCell) : (s.putCell n f).cores = s.cores := rfl
@[simp] theorem State.putCell_quads (s : State) (n : WAddr) (f : MCell) : (s.putCell n f).quads = s.quads := rfl
@[simp] theorem State.putCell_engines (s : State) (n : WAddr) (f : MCell) : (s.putCell n f).engines = s.engines := rfl
@[simp] theorem State.putCell_srcs (s : State) (n : WAddr) (f : MCell) : (s.putCell n f).srcs = s.srcs := rfl
@[simp] theorem State.putCell_mtmr (s : State) (n : WAddr) (f : MCell) : (s.putCell n f).mtmr = s.mtmr := rfl
@[simp] theorem State.putCell_applied (s : State) (n : WAddr) (f : MCell) : (s.putCell n f).applied = s.applied := rfl
@[simp] theorem State.putCell_staged (s : State) (n : WAddr) (f : MCell) : (s.putCell n f).staged = s.staged := rfl
@[simp] theorem State.putCell_led (s : State) (n : WAddr) (f : MCell) : (s.putCell n f).led = s.led := rfl
@[simp] theorem State.putCell_ws (s : State) (n : WAddr) (f : MCell) : (s.putCell n f).ws = s.ws := rfl
@[simp] theorem State.putCell_hi (s : State) (n : WAddr) (f : MCell) : (s.putCell n f).hi = s.hi := rfl
@[simp] theorem State.putCell_lb (s : State) (n : WAddr) (f : MCell) : (s.putCell n f).lb = s.lb := rfl
@[simp] theorem State.putCell_sr (s : State) (n : WAddr) (f : MCell) : (s.putCell n f).sr = s.sr := rfl
@[simp] theorem State.putCell_brd (s : State) (n : WAddr) (f : MCell) : (s.putCell n f).brd = s.brd := rfl

@[simp] theorem State.withQueue_free (s : State) (q : List Instr) : (s.withQueue q).free = s.free := rfl
@[simp] theorem State.withQueue_now (s : State) (q : List Instr) : (s.withQueue q).now = s.now := rfl
@[simp] theorem State.withQueue_mem (s : State) (q : List Instr) : (s.withQueue q).mem = s.mem := rfl
@[simp] theorem State.withQueue_hostMem (s : State) (q : List Instr) : (s.withQueue q).hostMem = s.hostMem := rfl
@[simp] theorem State.withQueue_cores (s : State) (q : List Instr) : (s.withQueue q).cores = s.cores := rfl
@[simp] theorem State.withQueue_quads (s : State) (q : List Instr) : (s.withQueue q).quads = s.quads := rfl
@[simp] theorem State.withQueue_engines (s : State) (q : List Instr) : (s.withQueue q).engines = s.engines := rfl
@[simp] theorem State.withQueue_srcs (s : State) (q : List Instr) : (s.withQueue q).srcs = s.srcs := rfl
@[simp] theorem State.withQueue_mtmr (s : State) (q : List Instr) : (s.withQueue q).mtmr = s.mtmr := rfl
@[simp] theorem State.withQueue_applied (s : State) (q : List Instr) : (s.withQueue q).applied = s.applied := rfl
@[simp] theorem State.withQueue_staged (s : State) (q : List Instr) : (s.withQueue q).staged = s.staged := rfl
@[simp] theorem State.withQueue_led (s : State) (q : List Instr) : (s.withQueue q).led = s.led := rfl
@[simp] theorem State.withQueue_ws (s : State) (q : List Instr) : (s.withQueue q).ws = s.ws := rfl
@[simp] theorem State.withQueue_hi (s : State) (q : List Instr) : (s.withQueue q).hi = s.hi := rfl
@[simp] theorem State.withQueue_lb (s : State) (q : List Instr) : (s.withQueue q).lb = s.lb := rfl
@[simp] theorem State.withQueue_sr (s : State) (q : List Instr) : (s.withQueue q).sr = s.sr := rfl
@[simp] theorem State.withQueue_brd (s : State) (q : List Instr) : (s.withQueue q).brd = s.brd := rfl
@[simp] theorem State.withQueue_pending (s : State) (q : List Instr) : (s.withQueue q).pending = q := rfl

@[simp] theorem State.raise_pending (s : State) (k : Nat) : (s.raise k).pending = s.pending := by
  unfold State.raise; (repeat (any_goals split))
  all_goals rfl
@[simp] theorem State.raise_free (s : State) (k : Nat) : (s.raise k).free = s.free := by
  unfold State.raise; (repeat (any_goals split))
  all_goals rfl
@[simp] theorem State.raise_now (s : State) (k : Nat) : (s.raise k).now = s.now := by
  unfold State.raise; (repeat (any_goals split))
  all_goals rfl
@[simp] theorem State.raise_mem (s : State) (k : Nat) : (s.raise k).mem = s.mem := by
  unfold State.raise; (repeat (any_goals split))
  all_goals rfl
@[simp] theorem State.raise_hostMem (s : State) (k : Nat) : (s.raise k).hostMem = s.hostMem := by
  unfold State.raise; (repeat (any_goals split))
  all_goals rfl
@[simp] theorem State.raise_cores (s : State) (k : Nat) : (s.raise k).cores = s.cores := by
  unfold State.raise; (repeat (any_goals split))
  all_goals rfl
@[simp] theorem State.raise_quads (s : State) (k : Nat) : (s.raise k).quads = s.quads := by
  unfold State.raise; (repeat (any_goals split))
  all_goals rfl
@[simp] theorem State.raise_engines (s : State) (k : Nat) : (s.raise k).engines = s.engines := by
  unfold State.raise; (repeat (any_goals split))
  all_goals rfl
@[simp] theorem State.raise_mtmr (s : State) (k : Nat) : (s.raise k).mtmr = s.mtmr := by
  unfold State.raise; (repeat (any_goals split))
  all_goals rfl
@[simp] theorem State.raise_applied (s : State) (k : Nat) : (s.raise k).applied = s.applied := by
  unfold State.raise; (repeat (any_goals split))
  all_goals rfl
@[simp] theorem State.raise_staged (s : State) (k : Nat) : (s.raise k).staged = s.staged := by
  unfold State.raise; (repeat (any_goals split))
  all_goals rfl
@[simp] theorem State.raise_led (s : State) (k : Nat) : (s.raise k).led = s.led := by
  unfold State.raise; (repeat (any_goals split))
  all_goals rfl
@[simp] theorem State.raise_ws (s : State) (k : Nat) : (s.raise k).ws = s.ws := by
  unfold State.raise; (repeat (any_goals split))
  all_goals rfl
@[simp] theorem State.raise_hi (s : State) (k : Nat) : (s.raise k).hi = s.hi := by
  unfold State.raise; (repeat (any_goals split))
  all_goals rfl
@[simp] theorem State.raise_lb (s : State) (k : Nat) : (s.raise k).lb = s.lb := by
  unfold State.raise; (repeat (any_goals split))
  all_goals rfl
@[simp] theorem State.raise_sr (s : State) (k : Nat) : (s.raise k).sr = s.sr := by
  unfold State.raise; (repeat (any_goals split))
  all_goals rfl
@[simp] theorem State.raise_brd (s : State) (k : Nat) : (s.raise k).brd = s.brd := by
  unfold State.raise; (repeat (any_goals split))
  all_goals rfl

/-! ## Stores to memory change memory alone -/

@[simp] theorem State.putMasked_pending (s : State) (pa : WAddr) (m : BitVec 18) (v : Word) : (s.putMasked pa m v).pending = s.pending := rfl
@[simp] theorem State.putMasked_free (s : State) (pa : WAddr) (m : BitVec 18) (v : Word) : (s.putMasked pa m v).free = s.free := rfl
@[simp] theorem State.putMasked_now (s : State) (pa : WAddr) (m : BitVec 18) (v : Word) : (s.putMasked pa m v).now = s.now := rfl
@[simp] theorem State.putMasked_hostMem (s : State) (pa : WAddr) (m : BitVec 18) (v : Word) : (s.putMasked pa m v).hostMem = s.hostMem := rfl
@[simp] theorem State.putMasked_cores (s : State) (pa : WAddr) (m : BitVec 18) (v : Word) : (s.putMasked pa m v).cores = s.cores := rfl
@[simp] theorem State.putMasked_quads (s : State) (pa : WAddr) (m : BitVec 18) (v : Word) : (s.putMasked pa m v).quads = s.quads := rfl
@[simp] theorem State.putMasked_engines (s : State) (pa : WAddr) (m : BitVec 18) (v : Word) : (s.putMasked pa m v).engines = s.engines := rfl
@[simp] theorem State.putMasked_srcs (s : State) (pa : WAddr) (m : BitVec 18) (v : Word) : (s.putMasked pa m v).srcs = s.srcs := rfl
@[simp] theorem State.putMasked_mtmr (s : State) (pa : WAddr) (m : BitVec 18) (v : Word) : (s.putMasked pa m v).mtmr = s.mtmr := rfl
@[simp] theorem State.putMasked_applied (s : State) (pa : WAddr) (m : BitVec 18) (v : Word) : (s.putMasked pa m v).applied = s.applied := rfl
@[simp] theorem State.putMasked_staged (s : State) (pa : WAddr) (m : BitVec 18) (v : Word) : (s.putMasked pa m v).staged = s.staged := rfl
@[simp] theorem State.putMasked_led (s : State) (pa : WAddr) (m : BitVec 18) (v : Word) : (s.putMasked pa m v).led = s.led := rfl
@[simp] theorem State.putMasked_ws (s : State) (pa : WAddr) (m : BitVec 18) (v : Word) : (s.putMasked pa m v).ws = s.ws := rfl
@[simp] theorem State.putMasked_hi (s : State) (pa : WAddr) (m : BitVec 18) (v : Word) : (s.putMasked pa m v).hi = s.hi := rfl
@[simp] theorem State.putMasked_lb (s : State) (pa : WAddr) (m : BitVec 18) (v : Word) : (s.putMasked pa m v).lb = s.lb := rfl
@[simp] theorem State.putMasked_sr (s : State) (pa : WAddr) (m : BitVec 18) (v : Word) : (s.putMasked pa m v).sr = s.sr := rfl
@[simp] theorem State.putMasked_brd (s : State) (pa : WAddr) (m : BitVec 18) (v : Word) : (s.putMasked pa m v).brd = s.brd := rfl

@[simp] theorem State.putWord_pending (s : State) (pa : WAddr) (v : Word) : (s.putWord pa v).pending = s.pending := rfl
@[simp] theorem State.putWord_free (s : State) (pa : WAddr) (v : Word) : (s.putWord pa v).free = s.free := rfl
@[simp] theorem State.putWord_now (s : State) (pa : WAddr) (v : Word) : (s.putWord pa v).now = s.now := rfl
@[simp] theorem State.putWord_hostMem (s : State) (pa : WAddr) (v : Word) : (s.putWord pa v).hostMem = s.hostMem := rfl
@[simp] theorem State.putWord_cores (s : State) (pa : WAddr) (v : Word) : (s.putWord pa v).cores = s.cores := rfl
@[simp] theorem State.putWord_quads (s : State) (pa : WAddr) (v : Word) : (s.putWord pa v).quads = s.quads := rfl
@[simp] theorem State.putWord_engines (s : State) (pa : WAddr) (v : Word) : (s.putWord pa v).engines = s.engines := rfl
@[simp] theorem State.putWord_srcs (s : State) (pa : WAddr) (v : Word) : (s.putWord pa v).srcs = s.srcs := rfl
@[simp] theorem State.putWord_mtmr (s : State) (pa : WAddr) (v : Word) : (s.putWord pa v).mtmr = s.mtmr := rfl
@[simp] theorem State.putWord_applied (s : State) (pa : WAddr) (v : Word) : (s.putWord pa v).applied = s.applied := rfl
@[simp] theorem State.putWord_staged (s : State) (pa : WAddr) (v : Word) : (s.putWord pa v).staged = s.staged := rfl
@[simp] theorem State.putWord_led (s : State) (pa : WAddr) (v : Word) : (s.putWord pa v).led = s.led := rfl
@[simp] theorem State.putWord_ws (s : State) (pa : WAddr) (v : Word) : (s.putWord pa v).ws = s.ws := rfl
@[simp] theorem State.putWord_hi (s : State) (pa : WAddr) (v : Word) : (s.putWord pa v).hi = s.hi := rfl
@[simp] theorem State.putWord_lb (s : State) (pa : WAddr) (v : Word) : (s.putWord pa v).lb = s.lb := rfl
@[simp] theorem State.putWord_sr (s : State) (pa : WAddr) (v : Word) : (s.putWord pa v).sr = s.sr := rfl
@[simp] theorem State.putWord_brd (s : State) (pa : WAddr) (v : Word) : (s.putWord pa v).brd = s.brd := rfl

@[simp] theorem State.putPass_pending (s : State) (pa : WAddr) (p : PassReg) : (s.putPass pa p).pending = s.pending := rfl
@[simp] theorem State.putPass_free (s : State) (pa : WAddr) (p : PassReg) : (s.putPass pa p).free = s.free := rfl
@[simp] theorem State.putPass_now (s : State) (pa : WAddr) (p : PassReg) : (s.putPass pa p).now = s.now := rfl
@[simp] theorem State.putPass_hostMem (s : State) (pa : WAddr) (p : PassReg) : (s.putPass pa p).hostMem = s.hostMem := rfl
@[simp] theorem State.putPass_cores (s : State) (pa : WAddr) (p : PassReg) : (s.putPass pa p).cores = s.cores := rfl
@[simp] theorem State.putPass_quads (s : State) (pa : WAddr) (p : PassReg) : (s.putPass pa p).quads = s.quads := rfl
@[simp] theorem State.putPass_engines (s : State) (pa : WAddr) (p : PassReg) : (s.putPass pa p).engines = s.engines := rfl
@[simp] theorem State.putPass_srcs (s : State) (pa : WAddr) (p : PassReg) : (s.putPass pa p).srcs = s.srcs := rfl
@[simp] theorem State.putPass_mtmr (s : State) (pa : WAddr) (p : PassReg) : (s.putPass pa p).mtmr = s.mtmr := rfl
@[simp] theorem State.putPass_applied (s : State) (pa : WAddr) (p : PassReg) : (s.putPass pa p).applied = s.applied := rfl
@[simp] theorem State.putPass_staged (s : State) (pa : WAddr) (p : PassReg) : (s.putPass pa p).staged = s.staged := rfl
@[simp] theorem State.putPass_led (s : State) (pa : WAddr) (p : PassReg) : (s.putPass pa p).led = s.led := rfl
@[simp] theorem State.putPass_ws (s : State) (pa : WAddr) (p : PassReg) : (s.putPass pa p).ws = s.ws := rfl
@[simp] theorem State.putPass_hi (s : State) (pa : WAddr) (p : PassReg) : (s.putPass pa p).hi = s.hi := rfl
@[simp] theorem State.putPass_lb (s : State) (pa : WAddr) (p : PassReg) : (s.putPass pa p).lb = s.lb := rfl
@[simp] theorem State.putPass_sr (s : State) (pa : WAddr) (p : PassReg) : (s.putPass pa p).sr = s.sr := rfl
@[simp] theorem State.putPass_brd (s : State) (pa : WAddr) (p : PassReg) : (s.putPass pa p).brd = s.brd := rfl

@[simp] theorem State.zeroRange_pending (s : State) (pa : WAddr) (n : Nat) : (s.zeroRange pa n).pending = s.pending := rfl
@[simp] theorem State.zeroRange_free (s : State) (pa : WAddr) (n : Nat) : (s.zeroRange pa n).free = s.free := rfl
@[simp] theorem State.zeroRange_now (s : State) (pa : WAddr) (n : Nat) : (s.zeroRange pa n).now = s.now := rfl
@[simp] theorem State.zeroRange_hostMem (s : State) (pa : WAddr) (n : Nat) : (s.zeroRange pa n).hostMem = s.hostMem := rfl
@[simp] theorem State.zeroRange_cores (s : State) (pa : WAddr) (n : Nat) : (s.zeroRange pa n).cores = s.cores := rfl
@[simp] theorem State.zeroRange_quads (s : State) (pa : WAddr) (n : Nat) : (s.zeroRange pa n).quads = s.quads := rfl
@[simp] theorem State.zeroRange_engines (s : State) (pa : WAddr) (n : Nat) : (s.zeroRange pa n).engines = s.engines := rfl
@[simp] theorem State.zeroRange_srcs (s : State) (pa : WAddr) (n : Nat) : (s.zeroRange pa n).srcs = s.srcs := rfl
@[simp] theorem State.zeroRange_mtmr (s : State) (pa : WAddr) (n : Nat) : (s.zeroRange pa n).mtmr = s.mtmr := rfl
@[simp] theorem State.zeroRange_applied (s : State) (pa : WAddr) (n : Nat) : (s.zeroRange pa n).applied = s.applied := rfl
@[simp] theorem State.zeroRange_staged (s : State) (pa : WAddr) (n : Nat) : (s.zeroRange pa n).staged = s.staged := rfl
@[simp] theorem State.zeroRange_led (s : State) (pa : WAddr) (n : Nat) : (s.zeroRange pa n).led = s.led := rfl
@[simp] theorem State.zeroRange_ws (s : State) (pa : WAddr) (n : Nat) : (s.zeroRange pa n).ws = s.ws := rfl
@[simp] theorem State.zeroRange_hi (s : State) (pa : WAddr) (n : Nat) : (s.zeroRange pa n).hi = s.hi := rfl
@[simp] theorem State.zeroRange_lb (s : State) (pa : WAddr) (n : Nat) : (s.zeroRange pa n).lb = s.lb := rfl
@[simp] theorem State.zeroRange_sr (s : State) (pa : WAddr) (n : Nat) : (s.zeroRange pa n).sr = s.sr := rfl
@[simp] theorem State.zeroRange_brd (s : State) (pa : WAddr) (n : Nat) : (s.zeroRange pa n).brd = s.brd := rfl

@[simp] theorem State.putEntry_pending (s : State) (pa : WAddr) (v : Word) : (s.putEntry pa v).pending = s.pending := by
  unfold State.putEntry; split <;> rfl
@[simp] theorem State.putEntry_free (s : State) (pa : WAddr) (v : Word) : (s.putEntry pa v).free = s.free := by
  unfold State.putEntry; split <;> rfl
@[simp] theorem State.putEntry_now (s : State) (pa : WAddr) (v : Word) : (s.putEntry pa v).now = s.now := by
  unfold State.putEntry; split <;> rfl
@[simp] theorem State.putEntry_hostMem (s : State) (pa : WAddr) (v : Word) : (s.putEntry pa v).hostMem = s.hostMem := by
  unfold State.putEntry; split <;> rfl
@[simp] theorem State.putEntry_cores (s : State) (pa : WAddr) (v : Word) : (s.putEntry pa v).cores = s.cores := by
  unfold State.putEntry; split <;> rfl
@[simp] theorem State.putEntry_quads (s : State) (pa : WAddr) (v : Word) : (s.putEntry pa v).quads = s.quads := by
  unfold State.putEntry; split <;> rfl
@[simp] theorem State.putEntry_engines (s : State) (pa : WAddr) (v : Word) : (s.putEntry pa v).engines = s.engines := by
  unfold State.putEntry; split <;> rfl
@[simp] theorem State.putEntry_srcs (s : State) (pa : WAddr) (v : Word) : (s.putEntry pa v).srcs = s.srcs := by
  unfold State.putEntry; split <;> rfl
@[simp] theorem State.putEntry_mtmr (s : State) (pa : WAddr) (v : Word) : (s.putEntry pa v).mtmr = s.mtmr := by
  unfold State.putEntry; split <;> rfl
@[simp] theorem State.putEntry_applied (s : State) (pa : WAddr) (v : Word) : (s.putEntry pa v).applied = s.applied := by
  unfold State.putEntry; split <;> rfl
@[simp] theorem State.putEntry_staged (s : State) (pa : WAddr) (v : Word) : (s.putEntry pa v).staged = s.staged := by
  unfold State.putEntry; split <;> rfl
@[simp] theorem State.putEntry_led (s : State) (pa : WAddr) (v : Word) : (s.putEntry pa v).led = s.led := by
  unfold State.putEntry; split <;> rfl
@[simp] theorem State.putEntry_ws (s : State) (pa : WAddr) (v : Word) : (s.putEntry pa v).ws = s.ws := by
  unfold State.putEntry; split <;> rfl
@[simp] theorem State.putEntry_hi (s : State) (pa : WAddr) (v : Word) : (s.putEntry pa v).hi = s.hi := by
  unfold State.putEntry; split <;> rfl
@[simp] theorem State.putEntry_lb (s : State) (pa : WAddr) (v : Word) : (s.putEntry pa v).lb = s.lb := by
  unfold State.putEntry; split <;> rfl
@[simp] theorem State.putEntry_sr (s : State) (pa : WAddr) (v : Word) : (s.putEntry pa v).sr = s.sr := by
  unfold State.putEntry; split <;> rfl
@[simp] theorem State.putEntry_brd (s : State) (pa : WAddr) (v : Word) : (s.putEntry pa v).brd = s.brd := by
  unfold State.putEntry; split <;> rfl

@[simp] theorem State.putWords_pending (s : State) (pa : WAddr) (l : List Word) : (s.putWords pa l).pending = s.pending := by
  induction l generalizing s pa with
  | nil => rfl
  | cons v r ih => exact (ih _ _).trans rfl
@[simp] theorem State.putWords_free (s : State) (pa : WAddr) (l : List Word) : (s.putWords pa l).free = s.free := by
  induction l generalizing s pa with
  | nil => rfl
  | cons v r ih => exact (ih _ _).trans rfl
@[simp] theorem State.putWords_now (s : State) (pa : WAddr) (l : List Word) : (s.putWords pa l).now = s.now := by
  induction l generalizing s pa with
  | nil => rfl
  | cons v r ih => exact (ih _ _).trans rfl
@[simp] theorem State.putWords_hostMem (s : State) (pa : WAddr) (l : List Word) : (s.putWords pa l).hostMem = s.hostMem := by
  induction l generalizing s pa with
  | nil => rfl
  | cons v r ih => exact (ih _ _).trans rfl
@[simp] theorem State.putWords_cores (s : State) (pa : WAddr) (l : List Word) : (s.putWords pa l).cores = s.cores := by
  induction l generalizing s pa with
  | nil => rfl
  | cons v r ih => exact (ih _ _).trans rfl
@[simp] theorem State.putWords_quads (s : State) (pa : WAddr) (l : List Word) : (s.putWords pa l).quads = s.quads := by
  induction l generalizing s pa with
  | nil => rfl
  | cons v r ih => exact (ih _ _).trans rfl
@[simp] theorem State.putWords_engines (s : State) (pa : WAddr) (l : List Word) : (s.putWords pa l).engines = s.engines := by
  induction l generalizing s pa with
  | nil => rfl
  | cons v r ih => exact (ih _ _).trans rfl
@[simp] theorem State.putWords_srcs (s : State) (pa : WAddr) (l : List Word) : (s.putWords pa l).srcs = s.srcs := by
  induction l generalizing s pa with
  | nil => rfl
  | cons v r ih => exact (ih _ _).trans rfl
@[simp] theorem State.putWords_mtmr (s : State) (pa : WAddr) (l : List Word) : (s.putWords pa l).mtmr = s.mtmr := by
  induction l generalizing s pa with
  | nil => rfl
  | cons v r ih => exact (ih _ _).trans rfl
@[simp] theorem State.putWords_applied (s : State) (pa : WAddr) (l : List Word) : (s.putWords pa l).applied = s.applied := by
  induction l generalizing s pa with
  | nil => rfl
  | cons v r ih => exact (ih _ _).trans rfl
@[simp] theorem State.putWords_staged (s : State) (pa : WAddr) (l : List Word) : (s.putWords pa l).staged = s.staged := by
  induction l generalizing s pa with
  | nil => rfl
  | cons v r ih => exact (ih _ _).trans rfl
@[simp] theorem State.putWords_led (s : State) (pa : WAddr) (l : List Word) : (s.putWords pa l).led = s.led := by
  induction l generalizing s pa with
  | nil => rfl
  | cons v r ih => exact (ih _ _).trans rfl
@[simp] theorem State.putWords_ws (s : State) (pa : WAddr) (l : List Word) : (s.putWords pa l).ws = s.ws := by
  induction l generalizing s pa with
  | nil => rfl
  | cons v r ih => exact (ih _ _).trans rfl
@[simp] theorem State.putWords_hi (s : State) (pa : WAddr) (l : List Word) : (s.putWords pa l).hi = s.hi := by
  induction l generalizing s pa with
  | nil => rfl
  | cons v r ih => exact (ih _ _).trans rfl
@[simp] theorem State.putWords_lb (s : State) (pa : WAddr) (l : List Word) : (s.putWords pa l).lb = s.lb := by
  induction l generalizing s pa with
  | nil => rfl
  | cons v r ih => exact (ih _ _).trans rfl
@[simp] theorem State.putWords_sr (s : State) (pa : WAddr) (l : List Word) : (s.putWords pa l).sr = s.sr := by
  induction l generalizing s pa with
  | nil => rfl
  | cons v r ih => exact (ih _ _).trans rfl
@[simp] theorem State.putWords_brd (s : State) (pa : WAddr) (l : List Word) : (s.putWords pa l).brd = s.brd := by
  induction l generalizing s pa with
  | nil => rfl
  | cons v r ih => exact (ih _ _).trans rfl

@[simp] theorem State.putHostOctets_pending (s : State) (a : Nat) (l : List (BitVec 8)) : (s.putHostOctets a l).pending = s.pending := by
  induction l generalizing s a with
  | nil => rfl
  | cons v r ih => exact (ih _ _).trans rfl
@[simp] theorem State.putHostOctets_free (s : State) (a : Nat) (l : List (BitVec 8)) : (s.putHostOctets a l).free = s.free := by
  induction l generalizing s a with
  | nil => rfl
  | cons v r ih => exact (ih _ _).trans rfl
@[simp] theorem State.putHostOctets_now (s : State) (a : Nat) (l : List (BitVec 8)) : (s.putHostOctets a l).now = s.now := by
  induction l generalizing s a with
  | nil => rfl
  | cons v r ih => exact (ih _ _).trans rfl
@[simp] theorem State.putHostOctets_mem (s : State) (a : Nat) (l : List (BitVec 8)) : (s.putHostOctets a l).mem = s.mem := by
  induction l generalizing s a with
  | nil => rfl
  | cons v r ih => exact (ih _ _).trans rfl
@[simp] theorem State.putHostOctets_cores (s : State) (a : Nat) (l : List (BitVec 8)) : (s.putHostOctets a l).cores = s.cores := by
  induction l generalizing s a with
  | nil => rfl
  | cons v r ih => exact (ih _ _).trans rfl
@[simp] theorem State.putHostOctets_quads (s : State) (a : Nat) (l : List (BitVec 8)) : (s.putHostOctets a l).quads = s.quads := by
  induction l generalizing s a with
  | nil => rfl
  | cons v r ih => exact (ih _ _).trans rfl
@[simp] theorem State.putHostOctets_engines (s : State) (a : Nat) (l : List (BitVec 8)) : (s.putHostOctets a l).engines = s.engines := by
  induction l generalizing s a with
  | nil => rfl
  | cons v r ih => exact (ih _ _).trans rfl
@[simp] theorem State.putHostOctets_srcs (s : State) (a : Nat) (l : List (BitVec 8)) : (s.putHostOctets a l).srcs = s.srcs := by
  induction l generalizing s a with
  | nil => rfl
  | cons v r ih => exact (ih _ _).trans rfl
@[simp] theorem State.putHostOctets_mtmr (s : State) (a : Nat) (l : List (BitVec 8)) : (s.putHostOctets a l).mtmr = s.mtmr := by
  induction l generalizing s a with
  | nil => rfl
  | cons v r ih => exact (ih _ _).trans rfl
@[simp] theorem State.putHostOctets_applied (s : State) (a : Nat) (l : List (BitVec 8)) : (s.putHostOctets a l).applied = s.applied := by
  induction l generalizing s a with
  | nil => rfl
  | cons v r ih => exact (ih _ _).trans rfl
@[simp] theorem State.putHostOctets_staged (s : State) (a : Nat) (l : List (BitVec 8)) : (s.putHostOctets a l).staged = s.staged := by
  induction l generalizing s a with
  | nil => rfl
  | cons v r ih => exact (ih _ _).trans rfl
@[simp] theorem State.putHostOctets_led (s : State) (a : Nat) (l : List (BitVec 8)) : (s.putHostOctets a l).led = s.led := by
  induction l generalizing s a with
  | nil => rfl
  | cons v r ih => exact (ih _ _).trans rfl
@[simp] theorem State.putHostOctets_ws (s : State) (a : Nat) (l : List (BitVec 8)) : (s.putHostOctets a l).ws = s.ws := by
  induction l generalizing s a with
  | nil => rfl
  | cons v r ih => exact (ih _ _).trans rfl
@[simp] theorem State.putHostOctets_hi (s : State) (a : Nat) (l : List (BitVec 8)) : (s.putHostOctets a l).hi = s.hi := by
  induction l generalizing s a with
  | nil => rfl
  | cons v r ih => exact (ih _ _).trans rfl
@[simp] theorem State.putHostOctets_lb (s : State) (a : Nat) (l : List (BitVec 8)) : (s.putHostOctets a l).lb = s.lb := by
  induction l generalizing s a with
  | nil => rfl
  | cons v r ih => exact (ih _ _).trans rfl
@[simp] theorem State.putHostOctets_sr (s : State) (a : Nat) (l : List (BitVec 8)) : (s.putHostOctets a l).sr = s.sr := by
  induction l generalizing s a with
  | nil => rfl
  | cons v r ih => exact (ih _ _).trans rfl
@[simp] theorem State.putHostOctets_brd (s : State) (a : Nat) (l : List (BitVec 8)) : (s.putHostOctets a l).brd = s.brd := by
  induction l generalizing s a with
  | nil => rfl
  | cons v r ih => exact (ih _ _).trans rfl

/-! ## Updates of one core -/

@[simp] theorem Core.setG_p (c : Core) (i : BitVec 5) (v : Word) : (c.setG i v).p = c.p := by
  unfold Core.setG; split <;> rfl
@[simp] theorem Core.setG_f (c : Core) (i : BitVec 5) (v : Word) : (c.setG i v).f = c.f := by
  unfold Core.setG; split <;> rfl
@[simp] theorem Core.setG_st (c : Core) (i : BitVec 5) (v : Word) : (c.setG i v).st = c.st := by
  unfold Core.setG; split <;> rfl
@[simp] theorem Core.setG_pc (c : Core) (i : BitVec 5) (v : Word) : (c.setG i v).pc = c.pc := by
  unfold Core.setG; split <;> rfl
@[simp] theorem Core.setG_fs (c : Core) (i : BitVec 5) (v : Word) : (c.setG i v).fs = c.fs := by
  unfold Core.setG; split <;> rfl
@[simp] theorem Core.setG_ftrap (c : Core) (i : BitVec 5) (v : Word) : (c.setG i v).ftrap = c.ftrap := by
  unfold Core.setG; split <;> rfl
@[simp] theorem Core.setG_sspass (c : Core) (i : BitVec 5) (v : Word) : (c.setG i v).sspass = c.sspass := by
  unfold Core.setG; split <;> rfl
@[simp] theorem Core.setG_ssp (c : Core) (i : BitVec 5) (v : Word) : (c.setG i v).ssp = c.ssp := by
  unfold Core.setG; split <;> rfl
@[simp] theorem Core.setG_pipeCtl (c : Core) (i : BitVec 5) (v : Word) : (c.setG i v).pipeCtl = c.pipeCtl := by
  unfold Core.setG; split <;> rfl
@[simp] theorem Core.setG_retired (c : Core) (i : BitVec 5) (v : Word) : (c.setG i v).retired = c.retired := by
  unfold Core.setG; split <;> rfl
@[simp] theorem Core.setG_mispred (c : Core) (i : BitVec 5) (v : Word) : (c.setG i v).mispred = c.mispred := by
  unfold Core.setG; split <;> rfl
@[simp] theorem Core.setG_l1miss (c : Core) (i : BitVec 5) (v : Word) : (c.setG i v).l1miss = c.l1miss := by
  unfold Core.setG; split <;> rfl
@[simp] theorem Core.setG_fillWait (c : Core) (i : BitVec 5) (v : Word) : (c.setG i v).fillWait = c.fillWait := by
  unfold Core.setG; split <;> rfl
@[simp] theorem Core.setG_sbFull (c : Core) (i : BitVec 5) (v : Word) : (c.setG i v).sbFull = c.sbFull := by
  unfold Core.setG; split <;> rfl
@[simp] theorem Core.setG_partialWait (c : Core) (i : BitVec 5) (v : Word) : (c.setG i v).partialWait = c.partialWait := by
  unfold Core.setG; split <;> rfl
@[simp] theorem Core.setG_detSteps (c : Core) (i : BitVec 5) (v : Word) : (c.setG i v).detSteps = c.detSteps := by
  unfold Core.setG; split <;> rfl
@[simp] theorem Core.setG_detVar (c : Core) (i : BitVec 5) (v : Word) : (c.setG i v).detVar = c.detVar := by
  unfold Core.setG; split <;> rfl
@[simp] theorem Core.setG_btb (c : Core) (i : BitVec 5) (v : Word) : (c.setG i v).btb = c.btb := by
  unfold Core.setG; split <;> rfl
@[simp] theorem Core.setG_rstack (c : Core) (i : BitVec 5) (v : Word) : (c.setG i v).rstack = c.rstack := by
  unfold Core.setG; split <;> rfl
@[simp] theorem Core.setG_fetchBuf (c : Core) (i : BitVec 5) (v : Word) : (c.setG i v).fetchBuf = c.fetchBuf := by
  unfold Core.setG; split <;> rfl
@[simp] theorem Core.setG_l1 (c : Core) (i : BitVec 5) (v : Word) : (c.setG i v).l1 = c.l1 := by
  unfold Core.setG; split <;> rfl
@[simp] theorem Core.setG_storeBuf (c : Core) (i : BitVec 5) (v : Word) : (c.setG i v).storeBuf = c.storeBuf := by
  unfold Core.setG; split <;> rfl
@[simp] theorem Core.setG_pageRegs (c : Core) (i : BitVec 5) (v : Word) : (c.setG i v).pageRegs = c.pageRegs := by
  unfold Core.setG; split <;> rfl
@[simp] theorem Core.setG_fetchWord (c : Core) (i : BitVec 5) (v : Word) : (c.setG i v).fetchWord = c.fetchWord := by
  unfold Core.setG; split <;> rfl
@[simp] theorem Core.setG_hold (c : Core) (i : BitVec 5) (v : Word) : (c.setG i v).hold = c.hold := by
  unfold Core.setG; split <;> rfl
@[simp] theorem Core.setG_detPend (c : Core) (i : BitVec 5) (v : Word) : (c.setG i v).detPend = c.detPend := by
  unfold Core.setG; split <;> rfl
@[simp] theorem Core.setG_late (c : Core) (i : BitVec 5) (v : Word) : (c.setG i v).late = c.late := by
  unfold Core.setG; split <;> rfl
@[simp] theorem Core.setG_windows (c : Core) (i : BitVec 5) (v : Word) : (c.setG i v).windows = c.windows := by
  unfold Core.setG; split <;> rfl
@[simp] theorem Core.setG_troot (c : Core) (i : BitVec 5) (v : Word) : (c.setG i v).troot = c.troot := by
  unfold Core.setG; split <;> rfl
@[simp] theorem Core.setG_space (c : Core) (i : BitVec 5) (v : Word) : (c.setG i v).space = c.space := by
  unfold Core.setG; split <;> rfl
@[simp] theorem Core.setG_tlbMiss (c : Core) (i : BitVec 5) (v : Word) : (c.setG i v).tlbMiss = c.tlbMiss := by
  unfold Core.setG; split <;> rfl
@[simp] theorem Core.setG_walkCnt (c : Core) (i : BitVec 5) (v : Word) : (c.setG i v).walkCnt = c.walkCnt := by
  unfold Core.setG; split <;> rfl
@[simp] theorem Core.setG_conflictCnt (c : Core) (i : BitVec 5) (v : Word) : (c.setG i v).conflictCnt = c.conflictCnt := by
  unfold Core.setG; split <;> rfl
@[simp] theorem Core.setG_itlb (c : Core) (i : BitVec 5) (v : Word) : (c.setG i v).itlb = c.itlb := by
  unfold Core.setG; split <;> rfl
@[simp] theorem Core.setG_dtlb (c : Core) (i : BitVec 5) (v : Word) : (c.setG i v).dtlb = c.dtlb := by
  unfold Core.setG; split <;> rfl
@[simp] theorem Core.setG_swh (c : Core) (i : BitVec 5) (v : Word) : (c.setG i v).swh = c.swh := by
  unfold Core.setG; split <;> rfl
@[simp] theorem Core.setG_swx (c : Core) (i : BitVec 5) (v : Word) : (c.setG i v).swx = c.swx := by
  unfold Core.setG; split <;> rfl
@[simp] theorem Core.setG_swExh (c : Core) (i : BitVec 5) (v : Word) : (c.setG i v).swExh = c.swExh := by
  unfold Core.setG; split <;> rfl
@[simp] theorem Core.setG_fpown (c : Core) (i : BitVec 5) (v : Word) : (c.setG i v).fpown = c.fpown := by
  unfold Core.setG; split <;> rfl
@[simp] theorem Core.setG_ctxfp (c : Core) (i : BitVec 5) (v : Word) : (c.setG i v).ctxfp = c.ctxfp := by
  unfold Core.setG; split <;> rfl
@[simp] theorem Core.setG_fpxchCnt (c : Core) (i : BitVec 5) (v : Word) : (c.setG i v).fpxchCnt = c.fpxchCnt := by
  unfold Core.setG; split <;> rfl
@[simp] theorem Core.setG_ltb (c : Core) (i : BitVec 5) (v : Word) : (c.setG i v).ltb = c.ltb := by
  unfold Core.setG; split <;> rfl
@[simp] theorem Core.setG_active (c : Core) (i : BitVec 5) (v : Word) : (c.setG i v).active = c.active := by
  unfold Core.setG; split <;> rfl
@[simp] theorem Core.setG_evec (c : Core) (i : BitVec 5) (v : Word) : (c.setG i v).evec = c.evec := by
  unfold Core.setG; split <;> rfl
@[simp] theorem Core.setG_esp (c : Core) (i : BitVec 5) (v : Word) : (c.setG i v).esp = c.esp := by
  unfold Core.setG; split <;> rfl
@[simp] theorem Core.setG_ep15 (c : Core) (i : BitVec 5) (v : Word) : (c.setG i v).ep15 = c.ep15 := by
  unfold Core.setG; split <;> rfl
@[simp] theorem Core.setG_ep14 (c : Core) (i : BitVec 5) (v : Word) : (c.setG i v).ep14 = c.ep14 := by
  unfold Core.setG; split <;> rfl
@[simp] theorem Core.setG_lseStat (c : Core) (i : BitVec 5) (v : Word) : (c.setG i v).lseStat = c.lseStat := by
  unfold Core.setG; split <;> rfl
@[simp] theorem Core.setG_lseAddr (c : Core) (i : BitVec 5) (v : Word) : (c.setG i v).lseAddr = c.lseAddr := by
  unfold Core.setG; split <;> rfl
@[simp] theorem Core.setG_lseCnt (c : Core) (i : BitVec 5) (v : Word) : (c.setG i v).lseCnt = c.lseCnt := by
  unfold Core.setG; split <;> rfl
@[simp] theorem Core.setG_dfCnt (c : Core) (i : BitVec 5) (v : Word) : (c.setG i v).dfCnt = c.dfCnt := by
  unfold Core.setG; split <;> rfl
@[simp] theorem Core.setG_escCnt (c : Core) (i : BitVec 5) (v : Word) : (c.setG i v).escCnt = c.escCnt := by
  unfold Core.setG; split <;> rfl
@[simp] theorem Core.setG_tmr (c : Core) (i : BitVec 5) (v : Word) : (c.setG i v).tmr = c.tmr := by
  unfold Core.setG; split <;> rfl
@[simp] theorem Core.setG_frames (c : Core) (i : BitVec 5) (v : Word) : (c.setG i v).frames = c.frames := by
  unfold Core.setG; split <;> rfl
@[simp] theorem Core.setG_offer (c : Core) (i : BitVec 5) (v : Word) : (c.setG i v).offer = c.offer := by
  unfold Core.setG; split <;> rfl
@[simp] theorem Core.setG_matchRegs (c : Core) (i : BitVec 5) (v : Word) : (c.setG i v).matchRegs = c.matchRegs := by
  unfold Core.setG; split <;> rfl
@[simp] theorem Core.setG_patch (c : Core) (i : BitVec 5) (v : Word) : (c.setG i v).patch = c.patch := by
  unfold Core.setG; split <;> rfl
@[simp] theorem Core.setG_ocs (c : Core) (i : BitVec 5) (v : Word) : (c.setG i v).ocs = c.ocs := by
  unfold Core.setG; split <;> rfl
@[simp] theorem Core.setG_ocsv (c : Core) (i : BitVec 5) (v : Word) : (c.setG i v).ocsv = c.ocsv := by
  unfold Core.setG; split <;> rfl
@[simp] theorem Core.setG_lres (c : Core) (i : BitVec 5) (v : Word) : (c.setG i v).lres = c.lres := by
  unfold Core.setG; split <;> rfl
@[simp] theorem Core.setG_mcPid (c : Core) (i : BitVec 5) (v : Word) : (c.setG i v).mcPid = c.mcPid := by
  unfold Core.setG; split <;> rfl
@[simp] theorem Core.setG_mcOid (c : Core) (i : BitVec 5) (v : Word) : (c.setG i v).mcOid = c.mcOid := by
  unfold Core.setG; split <;> rfl
@[simp] theorem Core.setG_mcAddr (c : Core) (i : BitVec 5) (v : Word) : (c.setG i v).mcAddr = c.mcAddr := by
  unfold Core.setG; split <;> rfl
@[simp] theorem Core.setG_mcPar (c : Core) (i : BitVec 5) (v : Word) : (c.setG i v).mcPar = c.mcPar := by
  unfold Core.setG; split <;> rfl
@[simp] theorem Core.setG_mtrapCnt (c : Core) (i : BitVec 5) (v : Word) : (c.setG i v).mtrapCnt = c.mtrapCnt := by
  unfold Core.setG; split <;> rfl
@[simp] theorem Core.setG_mcLoad (c : Core) (i : BitVec 5) (v : Word) : (c.setG i v).mcLoad = c.mcLoad := by
  unfold Core.setG; split <;> rfl
@[simp] theorem Core.setG_run (c : Core) (i : BitVec 5) (v : Word) : (c.setG i v).run = c.run := by
  unfold Core.setG; split <;> rfl
@[simp] theorem Core.setG_fstep (c : Core) (i : BitVec 5) (v : Word) : (c.setG i v).fstep = c.fstep := by
  unfold Core.setG; split <;> rfl
@[simp] theorem Core.setG_wait (c : Core) (i : BitVec 5) (v : Word) : (c.setG i v).wait = c.wait := by
  unfold Core.setG; split <;> rfl
@[simp] theorem Core.setG_arrived (c : Core) (i : BitVec 5) (v : Word) : (c.setG i v).arrived = c.arrived := by
  unfold Core.setG; split <;> rfl
@[simp] theorem Core.setG_posts (c : Core) (i : BitVec 5) (v : Word) : (c.setG i v).posts = c.posts := by
  unfold Core.setG; split <;> rfl

@[simp] theorem Core.setF_g (c : Core) (i : BitVec 5) (v : BitVec 32) : (c.setF i v).g = c.g := rfl
@[simp] theorem Core.setF_p (c : Core) (i : BitVec 5) (v : BitVec 32) : (c.setF i v).p = c.p := rfl
@[simp] theorem Core.setF_st (c : Core) (i : BitVec 5) (v : BitVec 32) : (c.setF i v).st = c.st := rfl
@[simp] theorem Core.setF_pc (c : Core) (i : BitVec 5) (v : BitVec 32) : (c.setF i v).pc = c.pc := rfl
@[simp] theorem Core.setF_fs (c : Core) (i : BitVec 5) (v : BitVec 32) : (c.setF i v).fs = c.fs := rfl
@[simp] theorem Core.setF_ftrap (c : Core) (i : BitVec 5) (v : BitVec 32) : (c.setF i v).ftrap = c.ftrap := rfl
@[simp] theorem Core.setF_sspass (c : Core) (i : BitVec 5) (v : BitVec 32) : (c.setF i v).sspass = c.sspass := rfl
@[simp] theorem Core.setF_ssp (c : Core) (i : BitVec 5) (v : BitVec 32) : (c.setF i v).ssp = c.ssp := rfl
@[simp] theorem Core.setF_pipeCtl (c : Core) (i : BitVec 5) (v : BitVec 32) : (c.setF i v).pipeCtl = c.pipeCtl := rfl
@[simp] theorem Core.setF_retired (c : Core) (i : BitVec 5) (v : BitVec 32) : (c.setF i v).retired = c.retired := rfl
@[simp] theorem Core.setF_mispred (c : Core) (i : BitVec 5) (v : BitVec 32) : (c.setF i v).mispred = c.mispred := rfl
@[simp] theorem Core.setF_l1miss (c : Core) (i : BitVec 5) (v : BitVec 32) : (c.setF i v).l1miss = c.l1miss := rfl
@[simp] theorem Core.setF_fillWait (c : Core) (i : BitVec 5) (v : BitVec 32) : (c.setF i v).fillWait = c.fillWait := rfl
@[simp] theorem Core.setF_sbFull (c : Core) (i : BitVec 5) (v : BitVec 32) : (c.setF i v).sbFull = c.sbFull := rfl
@[simp] theorem Core.setF_partialWait (c : Core) (i : BitVec 5) (v : BitVec 32) : (c.setF i v).partialWait = c.partialWait := rfl
@[simp] theorem Core.setF_detSteps (c : Core) (i : BitVec 5) (v : BitVec 32) : (c.setF i v).detSteps = c.detSteps := rfl
@[simp] theorem Core.setF_detVar (c : Core) (i : BitVec 5) (v : BitVec 32) : (c.setF i v).detVar = c.detVar := rfl
@[simp] theorem Core.setF_btb (c : Core) (i : BitVec 5) (v : BitVec 32) : (c.setF i v).btb = c.btb := rfl
@[simp] theorem Core.setF_rstack (c : Core) (i : BitVec 5) (v : BitVec 32) : (c.setF i v).rstack = c.rstack := rfl
@[simp] theorem Core.setF_fetchBuf (c : Core) (i : BitVec 5) (v : BitVec 32) : (c.setF i v).fetchBuf = c.fetchBuf := rfl
@[simp] theorem Core.setF_l1 (c : Core) (i : BitVec 5) (v : BitVec 32) : (c.setF i v).l1 = c.l1 := rfl
@[simp] theorem Core.setF_storeBuf (c : Core) (i : BitVec 5) (v : BitVec 32) : (c.setF i v).storeBuf = c.storeBuf := rfl
@[simp] theorem Core.setF_pageRegs (c : Core) (i : BitVec 5) (v : BitVec 32) : (c.setF i v).pageRegs = c.pageRegs := rfl
@[simp] theorem Core.setF_fetchWord (c : Core) (i : BitVec 5) (v : BitVec 32) : (c.setF i v).fetchWord = c.fetchWord := rfl
@[simp] theorem Core.setF_hold (c : Core) (i : BitVec 5) (v : BitVec 32) : (c.setF i v).hold = c.hold := rfl
@[simp] theorem Core.setF_detPend (c : Core) (i : BitVec 5) (v : BitVec 32) : (c.setF i v).detPend = c.detPend := rfl
@[simp] theorem Core.setF_late (c : Core) (i : BitVec 5) (v : BitVec 32) : (c.setF i v).late = c.late := rfl
@[simp] theorem Core.setF_windows (c : Core) (i : BitVec 5) (v : BitVec 32) : (c.setF i v).windows = c.windows := rfl
@[simp] theorem Core.setF_troot (c : Core) (i : BitVec 5) (v : BitVec 32) : (c.setF i v).troot = c.troot := rfl
@[simp] theorem Core.setF_space (c : Core) (i : BitVec 5) (v : BitVec 32) : (c.setF i v).space = c.space := rfl
@[simp] theorem Core.setF_tlbMiss (c : Core) (i : BitVec 5) (v : BitVec 32) : (c.setF i v).tlbMiss = c.tlbMiss := rfl
@[simp] theorem Core.setF_walkCnt (c : Core) (i : BitVec 5) (v : BitVec 32) : (c.setF i v).walkCnt = c.walkCnt := rfl
@[simp] theorem Core.setF_conflictCnt (c : Core) (i : BitVec 5) (v : BitVec 32) : (c.setF i v).conflictCnt = c.conflictCnt := rfl
@[simp] theorem Core.setF_itlb (c : Core) (i : BitVec 5) (v : BitVec 32) : (c.setF i v).itlb = c.itlb := rfl
@[simp] theorem Core.setF_dtlb (c : Core) (i : BitVec 5) (v : BitVec 32) : (c.setF i v).dtlb = c.dtlb := rfl
@[simp] theorem Core.setF_swh (c : Core) (i : BitVec 5) (v : BitVec 32) : (c.setF i v).swh = c.swh := rfl
@[simp] theorem Core.setF_swx (c : Core) (i : BitVec 5) (v : BitVec 32) : (c.setF i v).swx = c.swx := rfl
@[simp] theorem Core.setF_swExh (c : Core) (i : BitVec 5) (v : BitVec 32) : (c.setF i v).swExh = c.swExh := rfl
@[simp] theorem Core.setF_fpown (c : Core) (i : BitVec 5) (v : BitVec 32) : (c.setF i v).fpown = c.fpown := rfl
@[simp] theorem Core.setF_ctxfp (c : Core) (i : BitVec 5) (v : BitVec 32) : (c.setF i v).ctxfp = c.ctxfp := rfl
@[simp] theorem Core.setF_fpxchCnt (c : Core) (i : BitVec 5) (v : BitVec 32) : (c.setF i v).fpxchCnt = c.fpxchCnt := rfl
@[simp] theorem Core.setF_ltb (c : Core) (i : BitVec 5) (v : BitVec 32) : (c.setF i v).ltb = c.ltb := rfl
@[simp] theorem Core.setF_active (c : Core) (i : BitVec 5) (v : BitVec 32) : (c.setF i v).active = c.active := rfl
@[simp] theorem Core.setF_evec (c : Core) (i : BitVec 5) (v : BitVec 32) : (c.setF i v).evec = c.evec := rfl
@[simp] theorem Core.setF_esp (c : Core) (i : BitVec 5) (v : BitVec 32) : (c.setF i v).esp = c.esp := rfl
@[simp] theorem Core.setF_ep15 (c : Core) (i : BitVec 5) (v : BitVec 32) : (c.setF i v).ep15 = c.ep15 := rfl
@[simp] theorem Core.setF_ep14 (c : Core) (i : BitVec 5) (v : BitVec 32) : (c.setF i v).ep14 = c.ep14 := rfl
@[simp] theorem Core.setF_lseStat (c : Core) (i : BitVec 5) (v : BitVec 32) : (c.setF i v).lseStat = c.lseStat := rfl
@[simp] theorem Core.setF_lseAddr (c : Core) (i : BitVec 5) (v : BitVec 32) : (c.setF i v).lseAddr = c.lseAddr := rfl
@[simp] theorem Core.setF_lseCnt (c : Core) (i : BitVec 5) (v : BitVec 32) : (c.setF i v).lseCnt = c.lseCnt := rfl
@[simp] theorem Core.setF_dfCnt (c : Core) (i : BitVec 5) (v : BitVec 32) : (c.setF i v).dfCnt = c.dfCnt := rfl
@[simp] theorem Core.setF_escCnt (c : Core) (i : BitVec 5) (v : BitVec 32) : (c.setF i v).escCnt = c.escCnt := rfl
@[simp] theorem Core.setF_tmr (c : Core) (i : BitVec 5) (v : BitVec 32) : (c.setF i v).tmr = c.tmr := rfl
@[simp] theorem Core.setF_frames (c : Core) (i : BitVec 5) (v : BitVec 32) : (c.setF i v).frames = c.frames := rfl
@[simp] theorem Core.setF_offer (c : Core) (i : BitVec 5) (v : BitVec 32) : (c.setF i v).offer = c.offer := rfl
@[simp] theorem Core.setF_matchRegs (c : Core) (i : BitVec 5) (v : BitVec 32) : (c.setF i v).matchRegs = c.matchRegs := rfl
@[simp] theorem Core.setF_patch (c : Core) (i : BitVec 5) (v : BitVec 32) : (c.setF i v).patch = c.patch := rfl
@[simp] theorem Core.setF_ocs (c : Core) (i : BitVec 5) (v : BitVec 32) : (c.setF i v).ocs = c.ocs := rfl
@[simp] theorem Core.setF_ocsv (c : Core) (i : BitVec 5) (v : BitVec 32) : (c.setF i v).ocsv = c.ocsv := rfl
@[simp] theorem Core.setF_lres (c : Core) (i : BitVec 5) (v : BitVec 32) : (c.setF i v).lres = c.lres := rfl
@[simp] theorem Core.setF_mcPid (c : Core) (i : BitVec 5) (v : BitVec 32) : (c.setF i v).mcPid = c.mcPid := rfl
@[simp] theorem Core.setF_mcOid (c : Core) (i : BitVec 5) (v : BitVec 32) : (c.setF i v).mcOid = c.mcOid := rfl
@[simp] theorem Core.setF_mcAddr (c : Core) (i : BitVec 5) (v : BitVec 32) : (c.setF i v).mcAddr = c.mcAddr := rfl
@[simp] theorem Core.setF_mcPar (c : Core) (i : BitVec 5) (v : BitVec 32) : (c.setF i v).mcPar = c.mcPar := rfl
@[simp] theorem Core.setF_mtrapCnt (c : Core) (i : BitVec 5) (v : BitVec 32) : (c.setF i v).mtrapCnt = c.mtrapCnt := rfl
@[simp] theorem Core.setF_mcLoad (c : Core) (i : BitVec 5) (v : BitVec 32) : (c.setF i v).mcLoad = c.mcLoad := rfl
@[simp] theorem Core.setF_run (c : Core) (i : BitVec 5) (v : BitVec 32) : (c.setF i v).run = c.run := rfl
@[simp] theorem Core.setF_fstep (c : Core) (i : BitVec 5) (v : BitVec 32) : (c.setF i v).fstep = c.fstep := rfl
@[simp] theorem Core.setF_wait (c : Core) (i : BitVec 5) (v : BitVec 32) : (c.setF i v).wait = c.wait := rfl
@[simp] theorem Core.setF_arrived (c : Core) (i : BitVec 5) (v : BitVec 32) : (c.setF i v).arrived = c.arrived := rfl
@[simp] theorem Core.setF_posts (c : Core) (i : BitVec 5) (v : BitVec 32) : (c.setF i v).posts = c.posts := rfl

@[simp] theorem Core.setP_g (c : Core) (i : PassId) (v : PassReg) : (c.setP i v).g = c.g := rfl
@[simp] theorem Core.setP_f (c : Core) (i : PassId) (v : PassReg) : (c.setP i v).f = c.f := rfl
@[simp] theorem Core.setP_st (c : Core) (i : PassId) (v : PassReg) : (c.setP i v).st = c.st := rfl
@[simp] theorem Core.setP_pc (c : Core) (i : PassId) (v : PassReg) : (c.setP i v).pc = c.pc := rfl
@[simp] theorem Core.setP_fs (c : Core) (i : PassId) (v : PassReg) : (c.setP i v).fs = c.fs := rfl
@[simp] theorem Core.setP_ftrap (c : Core) (i : PassId) (v : PassReg) : (c.setP i v).ftrap = c.ftrap := rfl
@[simp] theorem Core.setP_sspass (c : Core) (i : PassId) (v : PassReg) : (c.setP i v).sspass = c.sspass := rfl
@[simp] theorem Core.setP_ssp (c : Core) (i : PassId) (v : PassReg) : (c.setP i v).ssp = c.ssp := rfl
@[simp] theorem Core.setP_pipeCtl (c : Core) (i : PassId) (v : PassReg) : (c.setP i v).pipeCtl = c.pipeCtl := rfl
@[simp] theorem Core.setP_retired (c : Core) (i : PassId) (v : PassReg) : (c.setP i v).retired = c.retired := rfl
@[simp] theorem Core.setP_mispred (c : Core) (i : PassId) (v : PassReg) : (c.setP i v).mispred = c.mispred := rfl
@[simp] theorem Core.setP_l1miss (c : Core) (i : PassId) (v : PassReg) : (c.setP i v).l1miss = c.l1miss := rfl
@[simp] theorem Core.setP_fillWait (c : Core) (i : PassId) (v : PassReg) : (c.setP i v).fillWait = c.fillWait := rfl
@[simp] theorem Core.setP_sbFull (c : Core) (i : PassId) (v : PassReg) : (c.setP i v).sbFull = c.sbFull := rfl
@[simp] theorem Core.setP_partialWait (c : Core) (i : PassId) (v : PassReg) : (c.setP i v).partialWait = c.partialWait := rfl
@[simp] theorem Core.setP_detSteps (c : Core) (i : PassId) (v : PassReg) : (c.setP i v).detSteps = c.detSteps := rfl
@[simp] theorem Core.setP_detVar (c : Core) (i : PassId) (v : PassReg) : (c.setP i v).detVar = c.detVar := rfl
@[simp] theorem Core.setP_btb (c : Core) (i : PassId) (v : PassReg) : (c.setP i v).btb = c.btb := rfl
@[simp] theorem Core.setP_rstack (c : Core) (i : PassId) (v : PassReg) : (c.setP i v).rstack = c.rstack := rfl
@[simp] theorem Core.setP_fetchBuf (c : Core) (i : PassId) (v : PassReg) : (c.setP i v).fetchBuf = c.fetchBuf := rfl
@[simp] theorem Core.setP_l1 (c : Core) (i : PassId) (v : PassReg) : (c.setP i v).l1 = c.l1 := rfl
@[simp] theorem Core.setP_storeBuf (c : Core) (i : PassId) (v : PassReg) : (c.setP i v).storeBuf = c.storeBuf := rfl
@[simp] theorem Core.setP_pageRegs (c : Core) (i : PassId) (v : PassReg) : (c.setP i v).pageRegs = c.pageRegs := rfl
@[simp] theorem Core.setP_fetchWord (c : Core) (i : PassId) (v : PassReg) : (c.setP i v).fetchWord = c.fetchWord := rfl
@[simp] theorem Core.setP_hold (c : Core) (i : PassId) (v : PassReg) : (c.setP i v).hold = c.hold := rfl
@[simp] theorem Core.setP_detPend (c : Core) (i : PassId) (v : PassReg) : (c.setP i v).detPend = c.detPend := rfl
@[simp] theorem Core.setP_late (c : Core) (i : PassId) (v : PassReg) : (c.setP i v).late = c.late := rfl
@[simp] theorem Core.setP_windows (c : Core) (i : PassId) (v : PassReg) : (c.setP i v).windows = c.windows := rfl
@[simp] theorem Core.setP_troot (c : Core) (i : PassId) (v : PassReg) : (c.setP i v).troot = c.troot := rfl
@[simp] theorem Core.setP_space (c : Core) (i : PassId) (v : PassReg) : (c.setP i v).space = c.space := rfl
@[simp] theorem Core.setP_tlbMiss (c : Core) (i : PassId) (v : PassReg) : (c.setP i v).tlbMiss = c.tlbMiss := rfl
@[simp] theorem Core.setP_walkCnt (c : Core) (i : PassId) (v : PassReg) : (c.setP i v).walkCnt = c.walkCnt := rfl
@[simp] theorem Core.setP_conflictCnt (c : Core) (i : PassId) (v : PassReg) : (c.setP i v).conflictCnt = c.conflictCnt := rfl
@[simp] theorem Core.setP_itlb (c : Core) (i : PassId) (v : PassReg) : (c.setP i v).itlb = c.itlb := rfl
@[simp] theorem Core.setP_dtlb (c : Core) (i : PassId) (v : PassReg) : (c.setP i v).dtlb = c.dtlb := rfl
@[simp] theorem Core.setP_swh (c : Core) (i : PassId) (v : PassReg) : (c.setP i v).swh = c.swh := rfl
@[simp] theorem Core.setP_swx (c : Core) (i : PassId) (v : PassReg) : (c.setP i v).swx = c.swx := rfl
@[simp] theorem Core.setP_swExh (c : Core) (i : PassId) (v : PassReg) : (c.setP i v).swExh = c.swExh := rfl
@[simp] theorem Core.setP_fpown (c : Core) (i : PassId) (v : PassReg) : (c.setP i v).fpown = c.fpown := rfl
@[simp] theorem Core.setP_ctxfp (c : Core) (i : PassId) (v : PassReg) : (c.setP i v).ctxfp = c.ctxfp := rfl
@[simp] theorem Core.setP_fpxchCnt (c : Core) (i : PassId) (v : PassReg) : (c.setP i v).fpxchCnt = c.fpxchCnt := rfl
@[simp] theorem Core.setP_ltb (c : Core) (i : PassId) (v : PassReg) : (c.setP i v).ltb = c.ltb := rfl
@[simp] theorem Core.setP_active (c : Core) (i : PassId) (v : PassReg) : (c.setP i v).active = c.active := rfl
@[simp] theorem Core.setP_evec (c : Core) (i : PassId) (v : PassReg) : (c.setP i v).evec = c.evec := rfl
@[simp] theorem Core.setP_esp (c : Core) (i : PassId) (v : PassReg) : (c.setP i v).esp = c.esp := rfl
@[simp] theorem Core.setP_ep15 (c : Core) (i : PassId) (v : PassReg) : (c.setP i v).ep15 = c.ep15 := rfl
@[simp] theorem Core.setP_ep14 (c : Core) (i : PassId) (v : PassReg) : (c.setP i v).ep14 = c.ep14 := rfl
@[simp] theorem Core.setP_lseStat (c : Core) (i : PassId) (v : PassReg) : (c.setP i v).lseStat = c.lseStat := rfl
@[simp] theorem Core.setP_lseAddr (c : Core) (i : PassId) (v : PassReg) : (c.setP i v).lseAddr = c.lseAddr := rfl
@[simp] theorem Core.setP_lseCnt (c : Core) (i : PassId) (v : PassReg) : (c.setP i v).lseCnt = c.lseCnt := rfl
@[simp] theorem Core.setP_dfCnt (c : Core) (i : PassId) (v : PassReg) : (c.setP i v).dfCnt = c.dfCnt := rfl
@[simp] theorem Core.setP_escCnt (c : Core) (i : PassId) (v : PassReg) : (c.setP i v).escCnt = c.escCnt := rfl
@[simp] theorem Core.setP_tmr (c : Core) (i : PassId) (v : PassReg) : (c.setP i v).tmr = c.tmr := rfl
@[simp] theorem Core.setP_frames (c : Core) (i : PassId) (v : PassReg) : (c.setP i v).frames = c.frames := rfl
@[simp] theorem Core.setP_offer (c : Core) (i : PassId) (v : PassReg) : (c.setP i v).offer = c.offer := rfl
@[simp] theorem Core.setP_matchRegs (c : Core) (i : PassId) (v : PassReg) : (c.setP i v).matchRegs = c.matchRegs := rfl
@[simp] theorem Core.setP_patch (c : Core) (i : PassId) (v : PassReg) : (c.setP i v).patch = c.patch := rfl
@[simp] theorem Core.setP_ocs (c : Core) (i : PassId) (v : PassReg) : (c.setP i v).ocs = c.ocs := rfl
@[simp] theorem Core.setP_ocsv (c : Core) (i : PassId) (v : PassReg) : (c.setP i v).ocsv = c.ocsv := rfl
@[simp] theorem Core.setP_lres (c : Core) (i : PassId) (v : PassReg) : (c.setP i v).lres = c.lres := rfl
@[simp] theorem Core.setP_mcPid (c : Core) (i : PassId) (v : PassReg) : (c.setP i v).mcPid = c.mcPid := rfl
@[simp] theorem Core.setP_mcOid (c : Core) (i : PassId) (v : PassReg) : (c.setP i v).mcOid = c.mcOid := rfl
@[simp] theorem Core.setP_mcAddr (c : Core) (i : PassId) (v : PassReg) : (c.setP i v).mcAddr = c.mcAddr := rfl
@[simp] theorem Core.setP_mcPar (c : Core) (i : PassId) (v : PassReg) : (c.setP i v).mcPar = c.mcPar := rfl
@[simp] theorem Core.setP_mtrapCnt (c : Core) (i : PassId) (v : PassReg) : (c.setP i v).mtrapCnt = c.mtrapCnt := rfl
@[simp] theorem Core.setP_mcLoad (c : Core) (i : PassId) (v : PassReg) : (c.setP i v).mcLoad = c.mcLoad := rfl
@[simp] theorem Core.setP_run (c : Core) (i : PassId) (v : PassReg) : (c.setP i v).run = c.run := rfl
@[simp] theorem Core.setP_fstep (c : Core) (i : PassId) (v : PassReg) : (c.setP i v).fstep = c.fstep := rfl
@[simp] theorem Core.setP_wait (c : Core) (i : PassId) (v : PassReg) : (c.setP i v).wait = c.wait := rfl
@[simp] theorem Core.setP_arrived (c : Core) (i : PassId) (v : PassReg) : (c.setP i v).arrived = c.arrived := rfl
@[simp] theorem Core.setP_posts (c : Core) (i : PassId) (v : PassReg) : (c.setP i v).posts = c.posts := rfl

@[simp] theorem Core.setNZVC_g (c : Core) (n z v cy : Bool) : (c.setNZVC n z v cy).g = c.g := rfl
@[simp] theorem Core.setNZVC_p (c : Core) (n z v cy : Bool) : (c.setNZVC n z v cy).p = c.p := rfl
@[simp] theorem Core.setNZVC_f (c : Core) (n z v cy : Bool) : (c.setNZVC n z v cy).f = c.f := rfl
@[simp] theorem Core.setNZVC_pc (c : Core) (n z v cy : Bool) : (c.setNZVC n z v cy).pc = c.pc := rfl
@[simp] theorem Core.setNZVC_fs (c : Core) (n z v cy : Bool) : (c.setNZVC n z v cy).fs = c.fs := rfl
@[simp] theorem Core.setNZVC_ftrap (c : Core) (n z v cy : Bool) : (c.setNZVC n z v cy).ftrap = c.ftrap := rfl
@[simp] theorem Core.setNZVC_sspass (c : Core) (n z v cy : Bool) : (c.setNZVC n z v cy).sspass = c.sspass := rfl
@[simp] theorem Core.setNZVC_ssp (c : Core) (n z v cy : Bool) : (c.setNZVC n z v cy).ssp = c.ssp := rfl
@[simp] theorem Core.setNZVC_pipeCtl (c : Core) (n z v cy : Bool) : (c.setNZVC n z v cy).pipeCtl = c.pipeCtl := rfl
@[simp] theorem Core.setNZVC_retired (c : Core) (n z v cy : Bool) : (c.setNZVC n z v cy).retired = c.retired := rfl
@[simp] theorem Core.setNZVC_mispred (c : Core) (n z v cy : Bool) : (c.setNZVC n z v cy).mispred = c.mispred := rfl
@[simp] theorem Core.setNZVC_l1miss (c : Core) (n z v cy : Bool) : (c.setNZVC n z v cy).l1miss = c.l1miss := rfl
@[simp] theorem Core.setNZVC_fillWait (c : Core) (n z v cy : Bool) : (c.setNZVC n z v cy).fillWait = c.fillWait := rfl
@[simp] theorem Core.setNZVC_sbFull (c : Core) (n z v cy : Bool) : (c.setNZVC n z v cy).sbFull = c.sbFull := rfl
@[simp] theorem Core.setNZVC_partialWait (c : Core) (n z v cy : Bool) : (c.setNZVC n z v cy).partialWait = c.partialWait := rfl
@[simp] theorem Core.setNZVC_detSteps (c : Core) (n z v cy : Bool) : (c.setNZVC n z v cy).detSteps = c.detSteps := rfl
@[simp] theorem Core.setNZVC_detVar (c : Core) (n z v cy : Bool) : (c.setNZVC n z v cy).detVar = c.detVar := rfl
@[simp] theorem Core.setNZVC_btb (c : Core) (n z v cy : Bool) : (c.setNZVC n z v cy).btb = c.btb := rfl
@[simp] theorem Core.setNZVC_rstack (c : Core) (n z v cy : Bool) : (c.setNZVC n z v cy).rstack = c.rstack := rfl
@[simp] theorem Core.setNZVC_fetchBuf (c : Core) (n z v cy : Bool) : (c.setNZVC n z v cy).fetchBuf = c.fetchBuf := rfl
@[simp] theorem Core.setNZVC_l1 (c : Core) (n z v cy : Bool) : (c.setNZVC n z v cy).l1 = c.l1 := rfl
@[simp] theorem Core.setNZVC_storeBuf (c : Core) (n z v cy : Bool) : (c.setNZVC n z v cy).storeBuf = c.storeBuf := rfl
@[simp] theorem Core.setNZVC_pageRegs (c : Core) (n z v cy : Bool) : (c.setNZVC n z v cy).pageRegs = c.pageRegs := rfl
@[simp] theorem Core.setNZVC_fetchWord (c : Core) (n z v cy : Bool) : (c.setNZVC n z v cy).fetchWord = c.fetchWord := rfl
@[simp] theorem Core.setNZVC_hold (c : Core) (n z v cy : Bool) : (c.setNZVC n z v cy).hold = c.hold := rfl
@[simp] theorem Core.setNZVC_detPend (c : Core) (n z v cy : Bool) : (c.setNZVC n z v cy).detPend = c.detPend := rfl
@[simp] theorem Core.setNZVC_late (c : Core) (n z v cy : Bool) : (c.setNZVC n z v cy).late = c.late := rfl
@[simp] theorem Core.setNZVC_windows (c : Core) (n z v cy : Bool) : (c.setNZVC n z v cy).windows = c.windows := rfl
@[simp] theorem Core.setNZVC_troot (c : Core) (n z v cy : Bool) : (c.setNZVC n z v cy).troot = c.troot := rfl
@[simp] theorem Core.setNZVC_space (c : Core) (n z v cy : Bool) : (c.setNZVC n z v cy).space = c.space := rfl
@[simp] theorem Core.setNZVC_tlbMiss (c : Core) (n z v cy : Bool) : (c.setNZVC n z v cy).tlbMiss = c.tlbMiss := rfl
@[simp] theorem Core.setNZVC_walkCnt (c : Core) (n z v cy : Bool) : (c.setNZVC n z v cy).walkCnt = c.walkCnt := rfl
@[simp] theorem Core.setNZVC_conflictCnt (c : Core) (n z v cy : Bool) : (c.setNZVC n z v cy).conflictCnt = c.conflictCnt := rfl
@[simp] theorem Core.setNZVC_itlb (c : Core) (n z v cy : Bool) : (c.setNZVC n z v cy).itlb = c.itlb := rfl
@[simp] theorem Core.setNZVC_dtlb (c : Core) (n z v cy : Bool) : (c.setNZVC n z v cy).dtlb = c.dtlb := rfl
@[simp] theorem Core.setNZVC_swh (c : Core) (n z v cy : Bool) : (c.setNZVC n z v cy).swh = c.swh := rfl
@[simp] theorem Core.setNZVC_swx (c : Core) (n z v cy : Bool) : (c.setNZVC n z v cy).swx = c.swx := rfl
@[simp] theorem Core.setNZVC_swExh (c : Core) (n z v cy : Bool) : (c.setNZVC n z v cy).swExh = c.swExh := rfl
@[simp] theorem Core.setNZVC_fpown (c : Core) (n z v cy : Bool) : (c.setNZVC n z v cy).fpown = c.fpown := rfl
@[simp] theorem Core.setNZVC_ctxfp (c : Core) (n z v cy : Bool) : (c.setNZVC n z v cy).ctxfp = c.ctxfp := rfl
@[simp] theorem Core.setNZVC_fpxchCnt (c : Core) (n z v cy : Bool) : (c.setNZVC n z v cy).fpxchCnt = c.fpxchCnt := rfl
@[simp] theorem Core.setNZVC_ltb (c : Core) (n z v cy : Bool) : (c.setNZVC n z v cy).ltb = c.ltb := rfl
@[simp] theorem Core.setNZVC_active (c : Core) (n z v cy : Bool) : (c.setNZVC n z v cy).active = c.active := rfl
@[simp] theorem Core.setNZVC_evec (c : Core) (n z v cy : Bool) : (c.setNZVC n z v cy).evec = c.evec := rfl
@[simp] theorem Core.setNZVC_esp (c : Core) (n z v cy : Bool) : (c.setNZVC n z v cy).esp = c.esp := rfl
@[simp] theorem Core.setNZVC_ep15 (c : Core) (n z v cy : Bool) : (c.setNZVC n z v cy).ep15 = c.ep15 := rfl
@[simp] theorem Core.setNZVC_ep14 (c : Core) (n z v cy : Bool) : (c.setNZVC n z v cy).ep14 = c.ep14 := rfl
@[simp] theorem Core.setNZVC_lseStat (c : Core) (n z v cy : Bool) : (c.setNZVC n z v cy).lseStat = c.lseStat := rfl
@[simp] theorem Core.setNZVC_lseAddr (c : Core) (n z v cy : Bool) : (c.setNZVC n z v cy).lseAddr = c.lseAddr := rfl
@[simp] theorem Core.setNZVC_lseCnt (c : Core) (n z v cy : Bool) : (c.setNZVC n z v cy).lseCnt = c.lseCnt := rfl
@[simp] theorem Core.setNZVC_dfCnt (c : Core) (n z v cy : Bool) : (c.setNZVC n z v cy).dfCnt = c.dfCnt := rfl
@[simp] theorem Core.setNZVC_escCnt (c : Core) (n z v cy : Bool) : (c.setNZVC n z v cy).escCnt = c.escCnt := rfl
@[simp] theorem Core.setNZVC_tmr (c : Core) (n z v cy : Bool) : (c.setNZVC n z v cy).tmr = c.tmr := rfl
@[simp] theorem Core.setNZVC_frames (c : Core) (n z v cy : Bool) : (c.setNZVC n z v cy).frames = c.frames := rfl
@[simp] theorem Core.setNZVC_offer (c : Core) (n z v cy : Bool) : (c.setNZVC n z v cy).offer = c.offer := rfl
@[simp] theorem Core.setNZVC_matchRegs (c : Core) (n z v cy : Bool) : (c.setNZVC n z v cy).matchRegs = c.matchRegs := rfl
@[simp] theorem Core.setNZVC_patch (c : Core) (n z v cy : Bool) : (c.setNZVC n z v cy).patch = c.patch := rfl
@[simp] theorem Core.setNZVC_ocs (c : Core) (n z v cy : Bool) : (c.setNZVC n z v cy).ocs = c.ocs := rfl
@[simp] theorem Core.setNZVC_ocsv (c : Core) (n z v cy : Bool) : (c.setNZVC n z v cy).ocsv = c.ocsv := rfl
@[simp] theorem Core.setNZVC_lres (c : Core) (n z v cy : Bool) : (c.setNZVC n z v cy).lres = c.lres := rfl
@[simp] theorem Core.setNZVC_mcPid (c : Core) (n z v cy : Bool) : (c.setNZVC n z v cy).mcPid = c.mcPid := rfl
@[simp] theorem Core.setNZVC_mcOid (c : Core) (n z v cy : Bool) : (c.setNZVC n z v cy).mcOid = c.mcOid := rfl
@[simp] theorem Core.setNZVC_mcAddr (c : Core) (n z v cy : Bool) : (c.setNZVC n z v cy).mcAddr = c.mcAddr := rfl
@[simp] theorem Core.setNZVC_mcPar (c : Core) (n z v cy : Bool) : (c.setNZVC n z v cy).mcPar = c.mcPar := rfl
@[simp] theorem Core.setNZVC_mtrapCnt (c : Core) (n z v cy : Bool) : (c.setNZVC n z v cy).mtrapCnt = c.mtrapCnt := rfl
@[simp] theorem Core.setNZVC_mcLoad (c : Core) (n z v cy : Bool) : (c.setNZVC n z v cy).mcLoad = c.mcLoad := rfl
@[simp] theorem Core.setNZVC_run (c : Core) (n z v cy : Bool) : (c.setNZVC n z v cy).run = c.run := rfl
@[simp] theorem Core.setNZVC_fstep (c : Core) (n z v cy : Bool) : (c.setNZVC n z v cy).fstep = c.fstep := rfl
@[simp] theorem Core.setNZVC_wait (c : Core) (n z v cy : Bool) : (c.setNZVC n z v cy).wait = c.wait := rfl
@[simp] theorem Core.setNZVC_arrived (c : Core) (n z v cy : Bool) : (c.setNZVC n z v cy).arrived = c.arrived := rfl
@[simp] theorem Core.setNZVC_posts (c : Core) (n z v cy : Bool) : (c.setNZVC n z v cy).posts = c.posts := rfl

@[simp] theorem Core.setFlags_g (c : Core) (r : Word) (v cy : Bool) : (c.setFlags r v cy).g = c.g := rfl
@[simp] theorem Core.setFlags_p (c : Core) (r : Word) (v cy : Bool) : (c.setFlags r v cy).p = c.p := rfl
@[simp] theorem Core.setFlags_f (c : Core) (r : Word) (v cy : Bool) : (c.setFlags r v cy).f = c.f := rfl
@[simp] theorem Core.setFlags_pc (c : Core) (r : Word) (v cy : Bool) : (c.setFlags r v cy).pc = c.pc := rfl
@[simp] theorem Core.setFlags_fs (c : Core) (r : Word) (v cy : Bool) : (c.setFlags r v cy).fs = c.fs := rfl
@[simp] theorem Core.setFlags_ftrap (c : Core) (r : Word) (v cy : Bool) : (c.setFlags r v cy).ftrap = c.ftrap := rfl
@[simp] theorem Core.setFlags_sspass (c : Core) (r : Word) (v cy : Bool) : (c.setFlags r v cy).sspass = c.sspass := rfl
@[simp] theorem Core.setFlags_ssp (c : Core) (r : Word) (v cy : Bool) : (c.setFlags r v cy).ssp = c.ssp := rfl
@[simp] theorem Core.setFlags_pipeCtl (c : Core) (r : Word) (v cy : Bool) : (c.setFlags r v cy).pipeCtl = c.pipeCtl := rfl
@[simp] theorem Core.setFlags_retired (c : Core) (r : Word) (v cy : Bool) : (c.setFlags r v cy).retired = c.retired := rfl
@[simp] theorem Core.setFlags_mispred (c : Core) (r : Word) (v cy : Bool) : (c.setFlags r v cy).mispred = c.mispred := rfl
@[simp] theorem Core.setFlags_l1miss (c : Core) (r : Word) (v cy : Bool) : (c.setFlags r v cy).l1miss = c.l1miss := rfl
@[simp] theorem Core.setFlags_fillWait (c : Core) (r : Word) (v cy : Bool) : (c.setFlags r v cy).fillWait = c.fillWait := rfl
@[simp] theorem Core.setFlags_sbFull (c : Core) (r : Word) (v cy : Bool) : (c.setFlags r v cy).sbFull = c.sbFull := rfl
@[simp] theorem Core.setFlags_partialWait (c : Core) (r : Word) (v cy : Bool) : (c.setFlags r v cy).partialWait = c.partialWait := rfl
@[simp] theorem Core.setFlags_detSteps (c : Core) (r : Word) (v cy : Bool) : (c.setFlags r v cy).detSteps = c.detSteps := rfl
@[simp] theorem Core.setFlags_detVar (c : Core) (r : Word) (v cy : Bool) : (c.setFlags r v cy).detVar = c.detVar := rfl
@[simp] theorem Core.setFlags_btb (c : Core) (r : Word) (v cy : Bool) : (c.setFlags r v cy).btb = c.btb := rfl
@[simp] theorem Core.setFlags_rstack (c : Core) (r : Word) (v cy : Bool) : (c.setFlags r v cy).rstack = c.rstack := rfl
@[simp] theorem Core.setFlags_fetchBuf (c : Core) (r : Word) (v cy : Bool) : (c.setFlags r v cy).fetchBuf = c.fetchBuf := rfl
@[simp] theorem Core.setFlags_l1 (c : Core) (r : Word) (v cy : Bool) : (c.setFlags r v cy).l1 = c.l1 := rfl
@[simp] theorem Core.setFlags_storeBuf (c : Core) (r : Word) (v cy : Bool) : (c.setFlags r v cy).storeBuf = c.storeBuf := rfl
@[simp] theorem Core.setFlags_pageRegs (c : Core) (r : Word) (v cy : Bool) : (c.setFlags r v cy).pageRegs = c.pageRegs := rfl
@[simp] theorem Core.setFlags_fetchWord (c : Core) (r : Word) (v cy : Bool) : (c.setFlags r v cy).fetchWord = c.fetchWord := rfl
@[simp] theorem Core.setFlags_hold (c : Core) (r : Word) (v cy : Bool) : (c.setFlags r v cy).hold = c.hold := rfl
@[simp] theorem Core.setFlags_detPend (c : Core) (r : Word) (v cy : Bool) : (c.setFlags r v cy).detPend = c.detPend := rfl
@[simp] theorem Core.setFlags_late (c : Core) (r : Word) (v cy : Bool) : (c.setFlags r v cy).late = c.late := rfl
@[simp] theorem Core.setFlags_windows (c : Core) (r : Word) (v cy : Bool) : (c.setFlags r v cy).windows = c.windows := rfl
@[simp] theorem Core.setFlags_troot (c : Core) (r : Word) (v cy : Bool) : (c.setFlags r v cy).troot = c.troot := rfl
@[simp] theorem Core.setFlags_space (c : Core) (r : Word) (v cy : Bool) : (c.setFlags r v cy).space = c.space := rfl
@[simp] theorem Core.setFlags_tlbMiss (c : Core) (r : Word) (v cy : Bool) : (c.setFlags r v cy).tlbMiss = c.tlbMiss := rfl
@[simp] theorem Core.setFlags_walkCnt (c : Core) (r : Word) (v cy : Bool) : (c.setFlags r v cy).walkCnt = c.walkCnt := rfl
@[simp] theorem Core.setFlags_conflictCnt (c : Core) (r : Word) (v cy : Bool) : (c.setFlags r v cy).conflictCnt = c.conflictCnt := rfl
@[simp] theorem Core.setFlags_itlb (c : Core) (r : Word) (v cy : Bool) : (c.setFlags r v cy).itlb = c.itlb := rfl
@[simp] theorem Core.setFlags_dtlb (c : Core) (r : Word) (v cy : Bool) : (c.setFlags r v cy).dtlb = c.dtlb := rfl
@[simp] theorem Core.setFlags_swh (c : Core) (r : Word) (v cy : Bool) : (c.setFlags r v cy).swh = c.swh := rfl
@[simp] theorem Core.setFlags_swx (c : Core) (r : Word) (v cy : Bool) : (c.setFlags r v cy).swx = c.swx := rfl
@[simp] theorem Core.setFlags_swExh (c : Core) (r : Word) (v cy : Bool) : (c.setFlags r v cy).swExh = c.swExh := rfl
@[simp] theorem Core.setFlags_fpown (c : Core) (r : Word) (v cy : Bool) : (c.setFlags r v cy).fpown = c.fpown := rfl
@[simp] theorem Core.setFlags_ctxfp (c : Core) (r : Word) (v cy : Bool) : (c.setFlags r v cy).ctxfp = c.ctxfp := rfl
@[simp] theorem Core.setFlags_fpxchCnt (c : Core) (r : Word) (v cy : Bool) : (c.setFlags r v cy).fpxchCnt = c.fpxchCnt := rfl
@[simp] theorem Core.setFlags_ltb (c : Core) (r : Word) (v cy : Bool) : (c.setFlags r v cy).ltb = c.ltb := rfl
@[simp] theorem Core.setFlags_active (c : Core) (r : Word) (v cy : Bool) : (c.setFlags r v cy).active = c.active := rfl
@[simp] theorem Core.setFlags_evec (c : Core) (r : Word) (v cy : Bool) : (c.setFlags r v cy).evec = c.evec := rfl
@[simp] theorem Core.setFlags_esp (c : Core) (r : Word) (v cy : Bool) : (c.setFlags r v cy).esp = c.esp := rfl
@[simp] theorem Core.setFlags_ep15 (c : Core) (r : Word) (v cy : Bool) : (c.setFlags r v cy).ep15 = c.ep15 := rfl
@[simp] theorem Core.setFlags_ep14 (c : Core) (r : Word) (v cy : Bool) : (c.setFlags r v cy).ep14 = c.ep14 := rfl
@[simp] theorem Core.setFlags_lseStat (c : Core) (r : Word) (v cy : Bool) : (c.setFlags r v cy).lseStat = c.lseStat := rfl
@[simp] theorem Core.setFlags_lseAddr (c : Core) (r : Word) (v cy : Bool) : (c.setFlags r v cy).lseAddr = c.lseAddr := rfl
@[simp] theorem Core.setFlags_lseCnt (c : Core) (r : Word) (v cy : Bool) : (c.setFlags r v cy).lseCnt = c.lseCnt := rfl
@[simp] theorem Core.setFlags_dfCnt (c : Core) (r : Word) (v cy : Bool) : (c.setFlags r v cy).dfCnt = c.dfCnt := rfl
@[simp] theorem Core.setFlags_escCnt (c : Core) (r : Word) (v cy : Bool) : (c.setFlags r v cy).escCnt = c.escCnt := rfl
@[simp] theorem Core.setFlags_tmr (c : Core) (r : Word) (v cy : Bool) : (c.setFlags r v cy).tmr = c.tmr := rfl
@[simp] theorem Core.setFlags_frames (c : Core) (r : Word) (v cy : Bool) : (c.setFlags r v cy).frames = c.frames := rfl
@[simp] theorem Core.setFlags_offer (c : Core) (r : Word) (v cy : Bool) : (c.setFlags r v cy).offer = c.offer := rfl
@[simp] theorem Core.setFlags_matchRegs (c : Core) (r : Word) (v cy : Bool) : (c.setFlags r v cy).matchRegs = c.matchRegs := rfl
@[simp] theorem Core.setFlags_patch (c : Core) (r : Word) (v cy : Bool) : (c.setFlags r v cy).patch = c.patch := rfl
@[simp] theorem Core.setFlags_ocs (c : Core) (r : Word) (v cy : Bool) : (c.setFlags r v cy).ocs = c.ocs := rfl
@[simp] theorem Core.setFlags_ocsv (c : Core) (r : Word) (v cy : Bool) : (c.setFlags r v cy).ocsv = c.ocsv := rfl
@[simp] theorem Core.setFlags_lres (c : Core) (r : Word) (v cy : Bool) : (c.setFlags r v cy).lres = c.lres := rfl
@[simp] theorem Core.setFlags_mcPid (c : Core) (r : Word) (v cy : Bool) : (c.setFlags r v cy).mcPid = c.mcPid := rfl
@[simp] theorem Core.setFlags_mcOid (c : Core) (r : Word) (v cy : Bool) : (c.setFlags r v cy).mcOid = c.mcOid := rfl
@[simp] theorem Core.setFlags_mcAddr (c : Core) (r : Word) (v cy : Bool) : (c.setFlags r v cy).mcAddr = c.mcAddr := rfl
@[simp] theorem Core.setFlags_mcPar (c : Core) (r : Word) (v cy : Bool) : (c.setFlags r v cy).mcPar = c.mcPar := rfl
@[simp] theorem Core.setFlags_mtrapCnt (c : Core) (r : Word) (v cy : Bool) : (c.setFlags r v cy).mtrapCnt = c.mtrapCnt := rfl
@[simp] theorem Core.setFlags_mcLoad (c : Core) (r : Word) (v cy : Bool) : (c.setFlags r v cy).mcLoad = c.mcLoad := rfl
@[simp] theorem Core.setFlags_run (c : Core) (r : Word) (v cy : Bool) : (c.setFlags r v cy).run = c.run := rfl
@[simp] theorem Core.setFlags_fstep (c : Core) (r : Word) (v cy : Bool) : (c.setFlags r v cy).fstep = c.fstep := rfl
@[simp] theorem Core.setFlags_wait (c : Core) (r : Word) (v cy : Bool) : (c.setFlags r v cy).wait = c.wait := rfl
@[simp] theorem Core.setFlags_arrived (c : Core) (r : Word) (v cy : Bool) : (c.setFlags r v cy).arrived = c.arrived := rfl
@[simp] theorem Core.setFlags_posts (c : Core) (r : Word) (v cy : Bool) : (c.setFlags r v cy).posts = c.posts := rfl

@[simp] theorem Core.charge_g (c : Core) (k : Nat) : (c.charge k).g = c.g := by
  unfold Core.charge; split <;> rfl
@[simp] theorem Core.charge_p (c : Core) (k : Nat) : (c.charge k).p = c.p := by
  unfold Core.charge; split <;> rfl
@[simp] theorem Core.charge_f (c : Core) (k : Nat) : (c.charge k).f = c.f := by
  unfold Core.charge; split <;> rfl
@[simp] theorem Core.charge_st (c : Core) (k : Nat) : (c.charge k).st = c.st := by
  unfold Core.charge; split <;> rfl
@[simp] theorem Core.charge_pc (c : Core) (k : Nat) : (c.charge k).pc = c.pc := by
  unfold Core.charge; split <;> rfl
@[simp] theorem Core.charge_fs (c : Core) (k : Nat) : (c.charge k).fs = c.fs := by
  unfold Core.charge; split <;> rfl
@[simp] theorem Core.charge_ftrap (c : Core) (k : Nat) : (c.charge k).ftrap = c.ftrap := by
  unfold Core.charge; split <;> rfl
@[simp] theorem Core.charge_sspass (c : Core) (k : Nat) : (c.charge k).sspass = c.sspass := by
  unfold Core.charge; split <;> rfl
@[simp] theorem Core.charge_ssp (c : Core) (k : Nat) : (c.charge k).ssp = c.ssp := by
  unfold Core.charge; split <;> rfl
@[simp] theorem Core.charge_pipeCtl (c : Core) (k : Nat) : (c.charge k).pipeCtl = c.pipeCtl := by
  unfold Core.charge; split <;> rfl
@[simp] theorem Core.charge_retired (c : Core) (k : Nat) : (c.charge k).retired = c.retired := by
  unfold Core.charge; split <;> rfl
@[simp] theorem Core.charge_mispred (c : Core) (k : Nat) : (c.charge k).mispred = c.mispred := by
  unfold Core.charge; split <;> rfl
@[simp] theorem Core.charge_l1miss (c : Core) (k : Nat) : (c.charge k).l1miss = c.l1miss := by
  unfold Core.charge; split <;> rfl
@[simp] theorem Core.charge_fillWait (c : Core) (k : Nat) : (c.charge k).fillWait = c.fillWait := by
  unfold Core.charge; split <;> rfl
@[simp] theorem Core.charge_sbFull (c : Core) (k : Nat) : (c.charge k).sbFull = c.sbFull := by
  unfold Core.charge; split <;> rfl
@[simp] theorem Core.charge_partialWait (c : Core) (k : Nat) : (c.charge k).partialWait = c.partialWait := by
  unfold Core.charge; split <;> rfl
@[simp] theorem Core.charge_detSteps (c : Core) (k : Nat) : (c.charge k).detSteps = c.detSteps := by
  unfold Core.charge; split <;> rfl
@[simp] theorem Core.charge_detVar (c : Core) (k : Nat) : (c.charge k).detVar = c.detVar := by
  unfold Core.charge; split <;> rfl
@[simp] theorem Core.charge_btb (c : Core) (k : Nat) : (c.charge k).btb = c.btb := by
  unfold Core.charge; split <;> rfl
@[simp] theorem Core.charge_rstack (c : Core) (k : Nat) : (c.charge k).rstack = c.rstack := by
  unfold Core.charge; split <;> rfl
@[simp] theorem Core.charge_fetchBuf (c : Core) (k : Nat) : (c.charge k).fetchBuf = c.fetchBuf := by
  unfold Core.charge; split <;> rfl
@[simp] theorem Core.charge_l1 (c : Core) (k : Nat) : (c.charge k).l1 = c.l1 := by
  unfold Core.charge; split <;> rfl
@[simp] theorem Core.charge_storeBuf (c : Core) (k : Nat) : (c.charge k).storeBuf = c.storeBuf := by
  unfold Core.charge; split <;> rfl
@[simp] theorem Core.charge_pageRegs (c : Core) (k : Nat) : (c.charge k).pageRegs = c.pageRegs := by
  unfold Core.charge; split <;> rfl
@[simp] theorem Core.charge_fetchWord (c : Core) (k : Nat) : (c.charge k).fetchWord = c.fetchWord := by
  unfold Core.charge; split <;> rfl
@[simp] theorem Core.charge_hold (c : Core) (k : Nat) : (c.charge k).hold = c.hold := by
  unfold Core.charge; split <;> rfl
@[simp] theorem Core.charge_late (c : Core) (k : Nat) : (c.charge k).late = c.late := by
  unfold Core.charge; split <;> rfl
@[simp] theorem Core.charge_windows (c : Core) (k : Nat) : (c.charge k).windows = c.windows := by
  unfold Core.charge; split <;> rfl
@[simp] theorem Core.charge_troot (c : Core) (k : Nat) : (c.charge k).troot = c.troot := by
  unfold Core.charge; split <;> rfl
@[simp] theorem Core.charge_space (c : Core) (k : Nat) : (c.charge k).space = c.space := by
  unfold Core.charge; split <;> rfl
@[simp] theorem Core.charge_tlbMiss (c : Core) (k : Nat) : (c.charge k).tlbMiss = c.tlbMiss := by
  unfold Core.charge; split <;> rfl
@[simp] theorem Core.charge_walkCnt (c : Core) (k : Nat) : (c.charge k).walkCnt = c.walkCnt := by
  unfold Core.charge; split <;> rfl
@[simp] theorem Core.charge_conflictCnt (c : Core) (k : Nat) : (c.charge k).conflictCnt = c.conflictCnt := by
  unfold Core.charge; split <;> rfl
@[simp] theorem Core.charge_itlb (c : Core) (k : Nat) : (c.charge k).itlb = c.itlb := by
  unfold Core.charge; split <;> rfl
@[simp] theorem Core.charge_dtlb (c : Core) (k : Nat) : (c.charge k).dtlb = c.dtlb := by
  unfold Core.charge; split <;> rfl
@[simp] theorem Core.charge_swh (c : Core) (k : Nat) : (c.charge k).swh = c.swh := by
  unfold Core.charge; split <;> rfl
@[simp] theorem Core.charge_swx (c : Core) (k : Nat) : (c.charge k).swx = c.swx := by
  unfold Core.charge; split <;> rfl
@[simp] theorem Core.charge_swExh (c : Core) (k : Nat) : (c.charge k).swExh = c.swExh := by
  unfold Core.charge; split <;> rfl
@[simp] theorem Core.charge_fpown (c : Core) (k : Nat) : (c.charge k).fpown = c.fpown := by
  unfold Core.charge; split <;> rfl
@[simp] theorem Core.charge_ctxfp (c : Core) (k : Nat) : (c.charge k).ctxfp = c.ctxfp := by
  unfold Core.charge; split <;> rfl
@[simp] theorem Core.charge_fpxchCnt (c : Core) (k : Nat) : (c.charge k).fpxchCnt = c.fpxchCnt := by
  unfold Core.charge; split <;> rfl
@[simp] theorem Core.charge_ltb (c : Core) (k : Nat) : (c.charge k).ltb = c.ltb := by
  unfold Core.charge; split <;> rfl
@[simp] theorem Core.charge_active (c : Core) (k : Nat) : (c.charge k).active = c.active := by
  unfold Core.charge; split <;> rfl
@[simp] theorem Core.charge_evec (c : Core) (k : Nat) : (c.charge k).evec = c.evec := by
  unfold Core.charge; split <;> rfl
@[simp] theorem Core.charge_esp (c : Core) (k : Nat) : (c.charge k).esp = c.esp := by
  unfold Core.charge; split <;> rfl
@[simp] theorem Core.charge_ep15 (c : Core) (k : Nat) : (c.charge k).ep15 = c.ep15 := by
  unfold Core.charge; split <;> rfl
@[simp] theorem Core.charge_ep14 (c : Core) (k : Nat) : (c.charge k).ep14 = c.ep14 := by
  unfold Core.charge; split <;> rfl
@[simp] theorem Core.charge_lseStat (c : Core) (k : Nat) : (c.charge k).lseStat = c.lseStat := by
  unfold Core.charge; split <;> rfl
@[simp] theorem Core.charge_lseAddr (c : Core) (k : Nat) : (c.charge k).lseAddr = c.lseAddr := by
  unfold Core.charge; split <;> rfl
@[simp] theorem Core.charge_lseCnt (c : Core) (k : Nat) : (c.charge k).lseCnt = c.lseCnt := by
  unfold Core.charge; split <;> rfl
@[simp] theorem Core.charge_dfCnt (c : Core) (k : Nat) : (c.charge k).dfCnt = c.dfCnt := by
  unfold Core.charge; split <;> rfl
@[simp] theorem Core.charge_escCnt (c : Core) (k : Nat) : (c.charge k).escCnt = c.escCnt := by
  unfold Core.charge; split <;> rfl
@[simp] theorem Core.charge_tmr (c : Core) (k : Nat) : (c.charge k).tmr = c.tmr := by
  unfold Core.charge; split <;> rfl
@[simp] theorem Core.charge_frames (c : Core) (k : Nat) : (c.charge k).frames = c.frames := by
  unfold Core.charge; split <;> rfl
@[simp] theorem Core.charge_offer (c : Core) (k : Nat) : (c.charge k).offer = c.offer := by
  unfold Core.charge; split <;> rfl
@[simp] theorem Core.charge_matchRegs (c : Core) (k : Nat) : (c.charge k).matchRegs = c.matchRegs := by
  unfold Core.charge; split <;> rfl
@[simp] theorem Core.charge_patch (c : Core) (k : Nat) : (c.charge k).patch = c.patch := by
  unfold Core.charge; split <;> rfl
@[simp] theorem Core.charge_ocs (c : Core) (k : Nat) : (c.charge k).ocs = c.ocs := by
  unfold Core.charge; split <;> rfl
@[simp] theorem Core.charge_ocsv (c : Core) (k : Nat) : (c.charge k).ocsv = c.ocsv := by
  unfold Core.charge; split <;> rfl
@[simp] theorem Core.charge_lres (c : Core) (k : Nat) : (c.charge k).lres = c.lres := by
  unfold Core.charge; split <;> rfl
@[simp] theorem Core.charge_mcPid (c : Core) (k : Nat) : (c.charge k).mcPid = c.mcPid := by
  unfold Core.charge; split <;> rfl
@[simp] theorem Core.charge_mcOid (c : Core) (k : Nat) : (c.charge k).mcOid = c.mcOid := by
  unfold Core.charge; split <;> rfl
@[simp] theorem Core.charge_mcAddr (c : Core) (k : Nat) : (c.charge k).mcAddr = c.mcAddr := by
  unfold Core.charge; split <;> rfl
@[simp] theorem Core.charge_mcPar (c : Core) (k : Nat) : (c.charge k).mcPar = c.mcPar := by
  unfold Core.charge; split <;> rfl
@[simp] theorem Core.charge_mtrapCnt (c : Core) (k : Nat) : (c.charge k).mtrapCnt = c.mtrapCnt := by
  unfold Core.charge; split <;> rfl
@[simp] theorem Core.charge_mcLoad (c : Core) (k : Nat) : (c.charge k).mcLoad = c.mcLoad := by
  unfold Core.charge; split <;> rfl
@[simp] theorem Core.charge_run (c : Core) (k : Nat) : (c.charge k).run = c.run := by
  unfold Core.charge; split <;> rfl
@[simp] theorem Core.charge_fstep (c : Core) (k : Nat) : (c.charge k).fstep = c.fstep := by
  unfold Core.charge; split <;> rfl
@[simp] theorem Core.charge_wait (c : Core) (k : Nat) : (c.charge k).wait = c.wait := by
  unfold Core.charge; split <;> rfl
@[simp] theorem Core.charge_arrived (c : Core) (k : Nat) : (c.charge k).arrived = c.arrived := by
  unfold Core.charge; split <;> rfl
@[simp] theorem Core.charge_posts (c : Core) (k : Nat) : (c.charge k).posts = c.posts := by
  unfold Core.charge; split <;> rfl

/-! ## Reset -/

/-- One source at reset. -/
@[simp] theorem Source.resets_get (k : Nat) (h : k < 1024) : Source.resets[k] = Source.reset k := by
  simp [Source.resets]

end Sys2Proof.Machine
end

