-- ==== Sys2Proof/Laws/Bits.lean ====
section
/-! SUPPORT. Bit fields: what one bit or field of a value with another replaced reads as. -/

namespace Sys2Proof.Machine

/-- The bits of a value with a field replaced. -/
theorem bit_setBits {w : Nat} (x : BitVec w) (lo len : Nat) (v : BitVec len) (j : Nat) :
    bit (setBits x lo len v) j = if lo ≤ j ∧ j < lo + len ∧ j < w then bit v (j - lo) else bit x j := by
  unfold bit setBits
  simp only [BitVec.getLsbD_or, BitVec.getLsbD_and, BitVec.getLsbD_not, BitVec.getLsbD_shiftLeft, BitVec.getLsbD_setWidth,
    BitVec.getLsbD_allOnes]
  by_cases h1 : j < w
  · by_cases h2 : j < lo
    · simp [h1, h2, show ¬ lo ≤ j by omega]
    · by_cases h3 : j - lo < len
      · have : j - lo < w := by omega
        simp [h1, h2, h3, this, show lo ≤ j by omega, show j < lo + len by omega]
      · have h4 : v.getLsbD (j - lo) = false := BitVec.getLsbD_of_ge _ _ (by omega)
        simp [h1, h2, h3, h4, show ¬ j < lo + len by omega]
  · have : x.getLsbD j = false := BitVec.getLsbD_of_ge _ _ (by omega)
    simp [h1, this]

/-- The bits of a value with one bit replaced. -/
theorem bit_setBit {w : Nat} (x : BitVec w) (i : Nat) (b : Bool) (j : Nat) :
    bit (setBit x i b) j = if j = i ∧ j < w then b else bit x j := by
  unfold setBit
  rw [bit_setBits]
  by_cases h : j = i
  · subst h
    by_cases h2 : j < w
    · simp [h2, bit]
    · simp [h2]
  · rw [if_neg (by omega), if_neg (by omega)]

theorem bit_bits {w : Nat} (x : BitVec w) (lo len i : Nat) : bit (bits x lo len) i = (decide (i < len) && bit x (lo + i)) := by
  simp [bit, bits]

/-- Two values with the same bits are equal. -/
theorem eq_of_bits {w : Nat} {x y : BitVec w} (h : ∀ i, i < w → bit x i = bit y i) : x = y :=
  BitVec.eq_of_getLsbD_eq fun i hi => h i hi

@[simp] theorem bit_zero {w : Nat} (i : Nat) : bit (0 : BitVec w) i = false := by simp [bit]

end Sys2Proof.Machine
end

