-- ==== Sys2Proof/Laws/Work.lean ====
section
/-! SUPPORT. Work that may stop: what each of its operations answers. -/

namespace Sys2Proof.Machine

variable {α β : Type}

@[simp] theorem work_pure (a : α) (s : State) : (pure a : M α) s = .ok a s := rfl

@[simp] theorem work_raise (i : FaultInfo) (s : State) : (raise i : M α) s = .error (.fault i) s := rfl

@[simp] theorem work_upd (f : State → State) (s : State) : upd f s = .ok () (f s) := rfl

@[simp] theorem work_get (s : State) : (get : M State) s = .ok s s := rfl

@[simp] theorem work_look (f : State → α) (s : State) : look f s = .ok (f s) s := rfl

@[simp] theorem work_getCore (n : CoreId) (s : State) : getCore n s = .ok s.cores[n.val] s := rfl

@[simp] theorem work_modCore (n : CoreId) (f : Core → Core) (s : State) : modCore n f s = .ok () (s.updCore n f) := rfl

@[simp] theorem work_draw (s : State) : draw s = .ok (Config.freeWord s.free) { s with free := s.free + 1 } := rfl

@[simp] theorem work_gr (n : CoreId) (i : BitVec 5) (s : State) : gr n i s = .ok (s.cores[n.val].gr i) s := rfl

@[simp] theorem work_setG (n : CoreId) (i : BitVec 5) (v : Word) (s : State) : setG n i v s = .ok () (s.updCore n fun c => c.setG i v) := rfl

/-- Work that goes on with what earlier work answered. -/
theorem work_bind (m : M α) (f : α → M β) (s : State) :
    (m >>= f) s = match m s with
      | .ok a t => f a t
      | .error e t => .error e t := by
  show EStateM.bind m f s = _
  unfold EStateM.bind
  cases m s <;> rfl

/-- Work after work that does not stop. -/
theorem work_bind_ok {m : M α} {f : α → M β} {s t : State} {a : α} (h : m s = .ok a t) : (m >>= f) s = f a t := by
  rw [work_bind, h]

/-- A condition that holds raises nothing. -/
theorem work_require (c : Bool) (i : FaultInfo) (s : State) :
    require c i s = if c then .ok () s else .error (.fault i) s := by
  unfold require
  split <;> rfl

@[simp] theorem work_mapL_nil (f : α → M β) (s : State) : mapL f [] s = .ok [] s := rfl

@[simp] theorem work_eachL_nil (f : α → M Unit) (s : State) : eachL f [] s = .ok () s := rfl

end Sys2Proof.Machine
end

