-- ==== Sys2Proof/Laws/Core.lean ====
section
/-! SUPPORT. Reading back what was written to the registers and flags of a core, and running an instruction. -/

namespace Sys2Proof.Machine

/-! ## Registers -/

@[simp] theorem Core.gr_zero (c : Core) : c.gr 0 = 0 := rfl

/-- G[i] after a write to G[i] (R43). -/
theorem Core.setG_gr_same (c : Core) (i : BitVec 5) (v : Word) : (c.setG i v).gr i = if i = 0 then 0 else v := by
  unfold Core.setG Core.gr
  split <;> simp_all

/-- G[j] after a write to another register. -/
theorem Core.setG_gr_other (c : Core) {i j : BitVec 5} (v : Word) (h : j ≠ i) : (c.setG i v).gr j = c.gr j := by
  unfold Core.setG Core.gr
  split
  · rfl
  · split
    · rfl
    · have : i.toNat ≠ j.toNat := fun e => h (BitVec.eq_of_toNat_eq e.symm)
      simp [this]

theorem Core.setF_fr_same (c : Core) (i : BitVec 5) (v : BitVec 32) : (c.setF i v).fr i = v := by
  simp [Core.setF, Core.fr]

theorem Core.setF_fr_other (c : Core) {i j : BitVec 5} (v : BitVec 32) (h : j ≠ i) : (c.setF i v).fr j = c.fr j := by
  have : i.toNat ≠ j.toNat := fun e => h (BitVec.eq_of_toNat_eq e.symm)
  simp [Core.setF, Core.fr, this]

theorem Core.setP_pr_same (c : Core) (i : PassId) (v : PassReg) : (c.setP i v).pr i = v := by
  simp [Core.setP, Core.pr]

theorem Core.setP_pr_other (c : Core) {i j : PassId} (v : PassReg) (h : j ≠ i) : (c.setP i v).pr j = c.pr j := by
  have : i.toNat ≠ j.toNat := fun e => h (BitVec.eq_of_toNat_eq e.symm)
  simp [Core.setP, Core.pr, this]

/-- Reading a general register looks at the file alone. -/
theorem Core.gr_congr {c d : Core} (h : d.g = c.g) (i : BitVec 5) : d.gr i = c.gr i := by
  simp [Core.gr, h]

@[simp] theorem Core.setNZVC_gr (c : Core) (n z v cy : Bool) (i : BitVec 5) : (c.setNZVC n z v cy).gr i = c.gr i := rfl
@[simp] theorem Core.setFlags_gr (c : Core) (r : Word) (v cy : Bool) (i : BitVec 5) : (c.setFlags r v cy).gr i = c.gr i := rfl

/-! ## Flags -/

@[simp] theorem Core.setNZVC_flagN (c : Core) (n z v cy : Bool) : (c.setNZVC n z v cy).flagN = n := by
  simp [Core.setNZVC, Core.flagN, bit_setBit]
@[simp] theorem Core.setNZVC_flagZ (c : Core) (n z v cy : Bool) : (c.setNZVC n z v cy).flagZ = z := by
  simp [Core.setNZVC, Core.flagZ, bit_setBit]
@[simp] theorem Core.setNZVC_flagV (c : Core) (n z v cy : Bool) : (c.setNZVC n z v cy).flagV = v := by
  simp [Core.setNZVC, Core.flagV, bit_setBit]
@[simp] theorem Core.setNZVC_flagC (c : Core) (n z v cy : Bool) : (c.setNZVC n z v cy).flagC = cy := by
  simp [Core.setNZVC, Core.flagC, bit_setBit]

/-- The bits of ST below the flags stay. -/
theorem Core.setNZVC_low (c : Core) (n z v cy : Bool) {k : Nat} (h : k < 68) : bit (c.setNZVC n z v cy).st k = bit c.st k := by
  simp only [Core.setNZVC, bit_setBit]
  rw [if_neg (by omega), if_neg (by omega), if_neg (by omega), if_neg (by omega)]

/-! ## Running an instruction -/

@[simp] theorem State.updCore_core (s : State) (n : CoreId) (f : Core → Core) : (s.updCore n f).cores[n.val] = f s.cores[n.val] := by
  simp [State.updCore]

theorem State.updCore_other (s : State) {n : CoreId} (f : Core → Core) {m : Nat} (hm : m < 48) (h : m ≠ n.val) :
    (s.updCore n f).cores[m] = s.cores[m] := by
  simp [State.updCore, Ne.symm h]

@[simp] theorem State.updCore_updCore (s : State) (n : CoreId) (f g : Core → Core) :
    (s.updCore n f).updCore n g = s.updCore n fun c => g (f c) := by
  simp [State.updCore]

/-- A change to one core changes only that core. -/
theorem onlyCore_updCore (s : State) (n : CoreId) (f : Core → Core) : OnlyCore n s (s.updCore n f) := by
  have h : s.quads.set (quadOf n) s.quads[quadOf n] = s.quads := by simp
  simp only [OnlyCore, State.updCore, Fin.getElem_fin, Vector.getElem_set_self]
  exact congrArg (fun q => { s with cores := s.cores.set n (f s.cores[n]), quads := q }) h.symm

/-- Settling what an instruction charged changes only the bookkeeping of deterministic mode and the counter of free values. -/
theorem State.settleCharge_spec (s : State) (n : CoreId) : ∃ (d : BitVec 64) (v : BitVec 32) (k : Nat), s.settleCharge n =
    { s.updCore n (fun c => { c with detSteps := d, detPend := 0, detVar := v, late := false }) with free := k } := by
  let c := s.cores[n]
  unfold State.settleCharge State.draw
  simp only []
  split
  · split
    · refine ⟨c.detSteps + c.detPend + bits (Config.freeWord s.free) 0 64, if c.det then c.detVar + 1 else c.detVar, s.free + 1, ?_⟩
      cases h : bit s.cores[n].st 58 <;> simp_all [State.updCore, Core.depart, Core.det, inc, c]
    · exact ⟨c.detSteps + c.detPend + 0, c.detVar, s.free + 1, rfl⟩
  · exact ⟨c.detSteps + c.detPend + 0, c.detVar, s.free, rfl⟩

/-- The body of an instruction that runs, and the core that it leaves. -/
theorem runIns_next {s : State} {n : CoreId} {sh : Shape} {body : M Next} {nx : Next} {u : State}
    (h : s.starts n sh = true) (hb : body (s.fetched n sh) = .ok nx u) (ho : overruns (s.core n sh) sh nx = false) :
    s.runIns n sh body = (u.updCore n fun c => c.retire sh nx).settleCharge n := by
  unfold State.starts at h
  unfold State.core State.fetched stateOf at *
  unfold State.runIns
  rw [Bool.and_eq_true] at h
  rw [if_pos h.1]
  cases hf : fetchDecode n sh s with
  | ok a t => simp only [hf] at hb ho ⊢; simp only [hb, ho, Bool.false_eq_true, if_false]
  | error e t => simp [hf] at h

/-- An instruction whose body faults enters the fault handler (R319). -/
theorem runIns_fault {s : State} {n : CoreId} {sh : Shape} {body : M Next} {f : FaultInfo} {u : State}
    (h : s.starts n sh = true) (hb : body (s.fetched n sh) = .error (.fault f) u) :
    s.runIns n sh body = u.faultAfter n f s := by
  unfold State.starts at h
  unfold State.fetched stateOf at hb
  unfold State.runIns
  rw [Bool.and_eq_true] at h
  rw [if_pos h.1]
  cases hf : fetchDecode n sh s with
  | ok a t => simp only [hf] at hb ⊢; simp only [hb]
  | error e t => simp [hf] at h

/-- An instruction that cannot start leaves the state as it is, but for the PCIe reads that its core waits for. -/
theorem runIns_idle {s : State} {n : CoreId} {sh : Shape} (body : M Next) (h : s.cores[n].ready sh.regs = false) :
    s.runIns n sh body = if s.cores[n].run == 2 then s.readBack n else s := by
  unfold State.runIns
  rw [if_neg (by rw [h]; simp)]

/-- An instruction that changes only registers. -/
theorem regIns_next {s : State} {n : CoreId} {sh : Shape} (g : Core → Core) (h : s.runs n sh = true) :
    regIns n sh g s = ((s.fetched n sh).updCore n fun c => (g c).retire sh .seq).settleCharge n := by
  unfold State.runs at h
  simp only [Bool.and_eq_true, Bool.not_eq_true'] at h
  unfold regIns
  rw [runIns_next (nx := .seq) (u := (s.fetched n sh).updCore n g) h.1 rfl h.2]
  simp

theorem State.fetched_core (s : State) (n : CoreId) (sh : Shape) : (s.fetched n sh).cores[n.val] = s.core n sh := rfl

@[simp] theorem Core.retire_seq_pc (c : Core) (sh : Shape) : (c.retire sh .seq).pc = daAdd c.pc (9 * sh.slots) := by simp [Core.retire]
@[simp] theorem Core.retire_seq_retired (c : Core) (sh : Shape) : (c.retire sh .seq).retired = c.retired + 1 := by
  simp [Core.retire, inc]
@[simp] theorem Core.retire_jump_pc (c : Core) (sh : Shape) (t : DAddr) : (c.retire sh (.jump t)).pc = t := by simp [Core.retire]
@[simp] theorem Core.retire_jump_retired (c : Core) (sh : Shape) (t : DAddr) : (c.retire sh (.jump t)).retired = c.retired + 1 := by
  simp [Core.retire, inc]

/-- Retiring changes only the bookkeeping of a core. -/
theorem Core.retire_bookkept (c : Core) (sh : Shape) (nx : Next) : c.retire sh nx = c.bookkept (c.retire sh nx) := by
  cases nx <;> simp only [Core.retire, Core.bookkept, Core.charge] <;> (repeat' split) <;> rfl

/-- What stays when an instruction retires. -/
theorem Core.retire_keeps (c : Core) (sh : Shape) (nx : Next) :
    (c.retire sh nx).g = c.g ∧ (c.retire sh nx).st = c.st ∧ (c.retire sh nx).p = c.p ∧ (c.retire sh nx).f = c.f := by
  cases nx <;> simp [Core.retire]

/-- A general register written with the four flags, and the instruction retired. -/
theorem Core.computed_of (c : Core) (sh : Shape) (rd : BitVec 5) (v : Word) (n z o cy : Bool) (h : sh.slots = 1) :
    c.Computed (((c.setG rd v).setNZVC n z o cy).retire sh .seq) rd v n z o cy := by
  have hk := Core.retire_keeps ((c.setG rd v).setNZVC n z o cy) sh .seq
  refine ⟨?_, ?_, ?_, ?_, ?_⟩
  · have hr := Core.retire_bookkept ((c.setG rd v).setNZVC n z o cy) sh .seq
    unfold Core.OnlyGSt
    rw [hk.1, hk.2.1]
    refine hr.trans ?_
    unfold Core.bookkept Core.setNZVC Core.setG
    split <;> rfl
  · constructor <;> simp [h]
  · rw [Core.Got, Core.gr_congr hk.1, Core.setNZVC_gr, Core.setG_gr_same]
  · intro i hi
    rw [Core.gr_congr hk.1, Core.setNZVC_gr, Core.setG_gr_other _ _ hi]
  · have e : ∀ k, bit (((c.setG rd v).setNZVC n z o cy).retire sh .seq).st k = bit ((c.setG rd v).setNZVC n z o cy).st k := by
      intro k; rw [hk.2.1]
    refine ⟨?_, ?_, ?_, ?_, fun k hlt => ?_⟩
    · exact (e 71).trans (Core.setNZVC_flagN _ n z o cy)
    · exact (e 70).trans (Core.setNZVC_flagZ _ n z o cy)
    · exact (e 69).trans (Core.setNZVC_flagV _ n z o cy)
    · exact (e 68).trans (Core.setNZVC_flagC _ n z o cy)
    · rw [e, Core.setNZVC_low _ _ _ _ _ hlt]; simp

end Sys2Proof.Machine
end

