-- ==== Sys2Proof/Laws/Memory.lean ====
section
/-! SUPPORT. The two memories: reading after writing, and the canonical form. -/

namespace Sys2Proof.Machine

/-! ## The memory of words -/

theorem keysFrom_mono {α : Type} {a b : Nat} {m : List (Nat × α)} (h : a ≤ b) (hm : keysFrom b m = true) : keysFrom a m = true := by
  cases m with
  | nil => rfl
  | cons e r =>
    simp only [keysFrom, Bool.and_eq_true, decide_eq_true_eq] at *
    exact ⟨by omega, hm.2⟩

theorem keysFrom_filter {α : Type} (p : Nat × α → Bool) {b : Nat} {m : List (Nat × α)} (hm : keysFrom b m = true) :
    keysFrom b (m.filter p) = true := by
  induction m generalizing b with
  | nil => rfl
  | cons e r ih =>
    simp only [keysFrom, Bool.and_eq_true, decide_eq_true_eq] at hm
    rw [List.filter_cons]
    split
    · simp only [keysFrom, Bool.and_eq_true, decide_eq_true_eq]
      exact ⟨hm.1, ih hm.2⟩
    · exact keysFrom_mono (by omega) (ih hm.2)

theorem memGet_below {b k : Nat} {m : List (Nat × MCell)} (hm : keysFrom b m = true) (h : k < b) : memGet m k = unlistedCell k := by
  cases m with
  | nil => rfl
  | cons e r =>
    simp only [keysFrom, Bool.and_eq_true, decide_eq_true_eq] at hm
    simp only [memGet]
    rw [if_neg (by omega), if_pos (by omega)]

/-- A cell reads as it was written. -/
theorem memGet_memPut_same {b k : Nat} {m : List (Nat × MCell)} (c : MCell) (hm : keysFrom b m = true) : memGet (memPut m k c) k = c := by
  induction m generalizing b with
  | nil => simp only [memPut]; split <;> simp_all [memGet]
  | cons e r ih =>
    simp only [keysFrom, Bool.and_eq_true, decide_eq_true_eq] at hm
    simp only [memPut]
    split
    · split
      · rename_i h1 h2
        simp only [memGet]
        rw [if_neg (by omega), if_pos h1, h2]
      · simp [memGet]
    · split
      · rename_i h1 h2
        subst h2
        split
        · rename_i h3
          rw [memGet_below hm.2 (by omega), h3]
        · simp [memGet]
      · rename_i h1 h2
        simp only [memGet]
        rw [if_neg h2, if_neg h1, ih hm.2]

/-- A write leaves every other cell as it was. -/
theorem memGet_memPut_other {b k j : Nat} {m : List (Nat × MCell)} (c : MCell) (hm : keysFrom b m = true) (h : j ≠ k) :
    memGet (memPut m k c) j = memGet m j := by
  induction m generalizing b with
  | nil => simp only [memPut]; split <;> simp [memGet, h]
  | cons e r ih =>
    simp only [keysFrom, Bool.and_eq_true, decide_eq_true_eq] at hm
    simp only [memPut]
    split
    · split
      · rfl
      · rename_i h1 h2
        show (if j = k then c else if j < k then unlistedCell j else memGet (e :: r) j) = _
        rw [if_neg h]
        split
        · simp only [memGet]
          rw [if_neg (by omega), if_pos (by omega)]
        · rfl
    · split
      · rename_i h1 h2
        subst h2
        split
        · simp only [memGet]
          rw [if_neg h]
          split
          · rename_i h4
            rw [memGet_below hm.2 (by omega)]
          · rfl
        · simp [memGet, h]
      · simp only [memGet]
        rw [ih hm.2]

theorem keysFrom_memPut {b k : Nat} {m : List (Nat × MCell)} (c : MCell) (hm : keysFrom b m = true) (h : b ≤ k) :
    keysFrom b (memPut m k c) = true := by
  induction m generalizing b with
  | nil => simp only [memPut]; split <;> simp [keysFrom, h]
  | cons e r ih =>
    have hm' := hm
    simp only [keysFrom, Bool.and_eq_true, decide_eq_true_eq] at hm
    simp only [memPut]
    split
    · split
      · exact hm'
      · simp only [keysFrom, Bool.and_eq_true, decide_eq_true_eq]
        exact ⟨h, by omega, hm.2⟩
    · split
      · rename_i h1 h2
        subst h2
        split
        · exact keysFrom_mono (by omega) hm.2
        · simp only [keysFrom, Bool.and_eq_true, decide_eq_true_eq]
          exact ⟨h, hm.2⟩
      · simp only [keysFrom, Bool.and_eq_true, decide_eq_true_eq]
        exact ⟨hm.1, ih hm.2 (by omega)⟩

theorem memPut_listed {k : Nat} {m : List (Nat × MCell)} (c : MCell) (hm : (m.all fun e => e.2 != unlistedCell e.1) = true) :
    ((memPut m k c).all fun e => e.2 != unlistedCell e.1) = true := by
  induction m with
  | nil => simp only [memPut]; split <;> simp_all
  | cons e r ih =>
    simp only [List.all_cons, Bool.and_eq_true] at hm
    simp only [memPut]
    split
    · split
      · simpa using hm
      · rename_i h1 h2
        simp only [List.all_cons, Bool.and_eq_true]
        exact ⟨by simpa using h2, hm⟩
    · split
      · split
        · exact hm.2
        · rename_i h2
          simp only [List.all_cons, Bool.and_eq_true]
          exact ⟨by simpa using h2, hm.2⟩
      · simp only [List.all_cons, Bool.and_eq_true]
        exact ⟨hm.1, ih hm.2⟩

/-- A write keeps the canonical form of memory. -/
theorem memWf_memPut {m : List (Nat × MCell)} (k : Nat) (c : MCell) (hm : Memory.wf m = true) : Memory.wf (memPut m k c) = true := by
  unfold Memory.wf at *
  rw [Bool.and_eq_true] at *
  exact ⟨keysFrom_memPut c hm.1 (Nat.zero_le _), memPut_listed c hm.2⟩

/-- Dropping entries keeps the canonical form of memory. -/
theorem memWf_filter {m : List (Nat × MCell)} (p : Nat × MCell → Bool) (hm : Memory.wf m = true) : Memory.wf (m.filter p) = true := by
  unfold Memory.wf at *
  rw [Bool.and_eq_true] at *
  refine ⟨keysFrom_filter p hm.1, ?_⟩
  rw [List.all_eq_true] at *
  intro e he
  exact hm.2 e ((List.mem_filter.mp he).1)

/-! ## Host memory -/

theorem hostGet_below {b k : Nat} {m : List Host.Cell} (hm : keysFrom b m = true) (h : k < b) : hostGet m k = 0 := by
  cases m with
  | nil => rfl
  | cons e r =>
    simp only [keysFrom, Bool.and_eq_true, decide_eq_true_eq] at hm
    simp only [hostGet]
    rw [if_neg (by omega), if_pos (by omega)]

/-- An octet of host memory reads as it was written. -/
theorem hostGet_hostPut_same {b k : Nat} {m : List Host.Cell} (c : BitVec 8) (hm : keysFrom b m = true) :
    hostGet (hostPut m k c) k = c := by
  induction m generalizing b with
  | nil => simp only [hostPut]; split <;> simp_all [hostGet]
  | cons e r ih =>
    simp only [keysFrom, Bool.and_eq_true, decide_eq_true_eq] at hm
    simp only [hostPut]
    split
    · split
      · rename_i h1 h2
        simp only [hostGet]
        rw [if_neg (by omega), if_pos h1, h2]
      · simp [hostGet]
    · split
      · rename_i h1 h2
        subst h2
        split
        · rename_i h3
          rw [hostGet_below hm.2 (by omega), h3]
        · simp [hostGet]
      · rename_i h1 h2
        simp only [hostGet]
        rw [if_neg h2, if_neg h1, ih hm.2]

theorem keysFrom_hostPut {b k : Nat} {m : List Host.Cell} (c : BitVec 8) (hm : keysFrom b m = true) (h : b ≤ k) :
    keysFrom b (hostPut m k c) = true := by
  induction m generalizing b with
  | nil => simp only [hostPut]; split <;> simp [keysFrom, h]
  | cons e r ih =>
    have hm' := hm
    simp only [keysFrom, Bool.and_eq_true, decide_eq_true_eq] at hm
    simp only [hostPut]
    split
    · split
      · exact hm'
      · simp only [keysFrom, Bool.and_eq_true, decide_eq_true_eq]
        exact ⟨h, by omega, hm.2⟩
    · split
      · rename_i h1 h2
        subst h2
        split
        · exact keysFrom_mono (by omega) hm.2
        · simp only [keysFrom, Bool.and_eq_true, decide_eq_true_eq]
          exact ⟨h, hm.2⟩
      · simp only [keysFrom, Bool.and_eq_true, decide_eq_true_eq]
        exact ⟨hm.1, ih hm.2 (by omega)⟩

theorem hostPut_listed {k : Nat} {m : List Host.Cell} (c : BitVec 8) (hm : (m.all fun e => e.2 != 0) = true) :
    ((hostPut m k c).all fun e => e.2 != 0) = true := by
  induction m with
  | nil => simp only [hostPut]; split <;> simp_all
  | cons e r ih =>
    simp only [List.all_cons, Bool.and_eq_true] at hm
    simp only [hostPut]
    split
    · split
      · simpa using hm
      · rename_i h1 h2
        simp only [List.all_cons, Bool.and_eq_true]
        exact ⟨by simpa using h2, hm⟩
    · split
      · split
        · exact hm.2
        · rename_i h2
          simp only [List.all_cons, Bool.and_eq_true]
          exact ⟨by simpa using h2, hm.2⟩
      · simp only [List.all_cons, Bool.and_eq_true]
        exact ⟨hm.1, ih hm.2⟩

/-- A write keeps the canonical form of host memory. -/
theorem hostWf_hostPut {m : List Host.Cell} (k : Nat) (c : BitVec 8) (hm : hostWf m = true) : hostWf (hostPut m k c) = true := by
  unfold hostWf at *
  rw [Bool.and_eq_true] at *
  exact ⟨keysFrom_hostPut c hm.1 (Nat.zero_le _), hostPut_listed c hm.2⟩

/-! ## Cells of the state -/

theorem State.Inv.keys {s : State} (h : s.Inv) : keysFrom 0 s.mem = true := by
  have := h.1
  unfold Memory.wf at this
  rw [Bool.and_eq_true] at this
  exact this.1

/-- A cell reads as it was put. -/
theorem State.cell_putCell_same {s : State} (h : s.Inv) (pa : WAddr) (c : MCell) : (s.putCell pa c).cell pa = c :=
  memGet_memPut_same c h.keys

/-- Putting a cell leaves every other cell as it was. -/
theorem State.cell_putCell_other {s : State} (h : s.Inv) {pa a : WAddr} (c : MCell) (ha : a ≠ pa) : (s.putCell pa c).cell a = s.cell a :=
  memGet_memPut_other c h.keys fun e => ha (BitVec.eq_of_toNat_eq e)

theorem State.Inv.putCell {s : State} (h : s.Inv) (pa : WAddr) (c : MCell) : (s.putCell pa c).Inv := ⟨memWf_memPut _ _ h.1, h.2⟩

/-- Memory, host memory and nothing else bear on the invariant. -/
theorem State.Inv.congr {s t : State} (h : s.Inv) (hm : t.mem = s.mem) (hh : t.hostMem = s.hostMem) : t.Inv := by
  unfold State.Inv at *
  rw [hm, hh]
  exact h

theorem pairWord_ne (pa : WAddr) : pairWord pa ≠ pa := by
  unfold pairWord
  intro h
  have := congrArg (fun x : WAddr => x.getLsbD 0) h
  simp at this

theorem State.Inv.putMasked {s : State} (h : s.Inv) (pa : WAddr) (m : BitVec 18) (v : Word) : (s.putMasked pa m v).Inv := by
  unfold State.putMasked
  exact (h.putCell _ _).putCell _ _

/-- What a masked store leaves at its own word, at the other word of the pair, and elsewhere (R16, R28). -/
theorem State.cell_putMasked {s : State} (h : s.Inv) (pa a : WAddr) (m : BitVec 18) (v : Word) :
    (s.putMasked pa m v).cell a =
      if a = pa then (if (s.cell pa).bad && m != maskAll then { s.cell pa with tag := false }
        else { data := merge m v (s.cell pa).data, tag := false, bad := false })
      else if a = pairWord pa then { s.cell a with tag := false } else s.cell a := by
  unfold State.putMasked
  by_cases h1 : a = pa
  · subst h1
    rw [if_pos rfl, State.cell_putCell_same (h.putCell _ _)]
  · rw [if_neg h1, State.cell_putCell_other (h.putCell _ _) _ h1]
    by_cases h2 : a = pairWord pa
    · subst h2
      rw [if_pos rfl, State.cell_putCell_same h]
    · rw [if_neg h2, State.cell_putCell_other h _ h2]

end Sys2Proof.Machine
end

