-- ==== Sys2Proof/Laws/Kept.lean ====
section
/-! SUPPORT. What no operation does: touch the queue, or leave a memory out of its canonical form. -/

namespace Sys2Proof.Machine

/-- The queue is the same, and memories in canonical form are still so. -/
def Kept (s t : State) : Prop := t.pending = s.pending ∧ (s.Inv → t.Inv)

theorem Kept.refl (s : State) : Kept s s := ⟨rfl, id⟩

theorem Kept.trans {s t u : State} (h : Kept s t) (k : Kept t u) : Kept s u := ⟨k.1.trans h.1, k.2 ∘ h.2⟩

/-- A change to anything but the queue and the memories. -/
theorem Kept.set {s t : State} {a b c d e f g i j k l m n o p : _} (h : Kept s t) :
    Kept s { pending := t.pending, free := a, now := b, mem := t.mem, hostMem := t.hostMem, cores := c, quads := d, engines := e,
             srcs := f, mtmr := g, applied := i, staged := j, led := k, ws := l, hi := m, lb := n, sr := o, brd := p } :=
  ⟨h.1, h.2⟩

theorem Kept.putCell {s t : State} (pa : WAddr) (c : MCell) (h : Kept s t) : Kept s (t.putCell pa c) :=
  ⟨h.1, fun i => (h.2 i).putCell pa c⟩

/-- Entries dropped from memory. -/
theorem Kept.dropWords {s t : State} {p : Nat × MCell → Bool} {a b c d e f g i j k l m n o q : _} (h : Kept s t) :
    Kept s { pending := t.pending, free := a, now := b, mem := t.mem.filter p, hostMem := t.hostMem, cores := c, quads := d, engines := e,
             srcs := f, mtmr := g, applied := i, staged := j, led := k, ws := l, hi := m, lb := n, sr := o, brd := q } :=
  ⟨h.1, fun i => ⟨memWf_filter _ (h.2 i).1, (h.2 i).2⟩⟩

/-- The memory of another state that has kept. -/
theorem Kept.withMem {s t u : State} (h : Kept s t) (k : Kept s u) : Kept s { t with mem := u.mem } := ⟨h.1, fun i => ⟨(k.2 i).1, (h.2 i).2⟩⟩

theorem Kept.putHostOctets {s t : State} (a : Nat) (l : List (BitVec 8)) (h : Kept s t) : Kept s (t.putHostOctets a l) := by
  induction l generalizing t a with
  | nil => exact h
  | cons v r ih =>
    exact ih (a + 1) ⟨h.1, fun i => ⟨(h.2 i).1, hostWf_hostPut _ _ (h.2 i).2⟩⟩

theorem Kept.foldl {α : Type} {s t : State} {f : State → α → State} (hf : ∀ u x, Kept s u → Kept s (f u x)) (l : List α) (h : Kept s t) :
    Kept s (l.foldl f t) := by
  induction l generalizing t with
  | nil => exact h
  | cons x r ih => exact ih (hf _ _ h)

/-- The second part of what a change answers. -/
theorem Kept.of_eq {α : Type} {s t : State} {r : α × State} {a : α} (e : r = (a, t)) (h : Kept s r.2) : Kept s t := by
  subst e
  exact h

/-- The first part of what a change answers. -/
theorem Kept.of_eq_fst {α : Type} {s t : State} {r : State × α} {a : α} (e : r = (t, a)) (h : Kept s r.1) : Kept s t := by
  subst e
  exact h

theorem Kept.ite {c : Prop} [Decidable c] {s t u : State} (h : Kept s t) (k : Kept s u) : Kept s (if c then t else u) := by
  split <;> assumption

theorem Kept.draw {s t : State} (h : Kept s t) : Kept s t.draw.2 := h.set

/-! ## Work -/

/-- Work that keeps the queue and the canonical forms, whether or not it stops. -/
def Keeps {α : Type} (m : M α) : Prop := ∀ s, Kept s (stateOf m s)

variable {α β : Type}

theorem Keeps.ok {m : M α} (h : Keeps m) {r s t : State} {a : α} (e : m s = .ok a t) (k : Kept r s) : Kept r t := by
  have := h s
  rw [stateOf, e] at this
  exact k.trans this

theorem Keeps.error {m : M α} (h : Keeps m) {r s t : State} {x : Stop} (e : m s = .error x t) (k : Kept r s) : Kept r t := by
  have := h s
  rw [stateOf, e] at this
  exact k.trans this

/-- The state that work leaves. -/
theorem Keeps.state {m : M α} (h : Keeps m) {r s : State} (k : Kept r s) : Kept r (stateOf m s) := k.trans (h s)

theorem Keeps.pure (a : α) : Keeps (pure a : M α) := Kept.refl
theorem Keeps.throw (x : Stop) : Keeps (throw x : M α) := Kept.refl
theorem Keeps.raise (i : FaultInfo) : Keeps (Machine.raise i : M α) := Kept.refl
theorem Keeps.get : Keeps (get : M State) := Kept.refl
theorem Keeps.look (f : State → α) : Keeps (look f) := Kept.refl
theorem Keeps.getCore (n : CoreId) : Keeps (getCore n) := Kept.refl
theorem Keeps.gr (n : CoreId) (i : BitVec 5) : Keeps (gr n i) := Kept.refl
theorem Keeps.draw : Keeps draw := fun s => (Kept.refl s).set
theorem Keeps.upd {f : State → State} (h : ∀ s, Kept s (f s)) : Keeps (upd f) := h
theorem Keeps.modCore (n : CoreId) (f : Core → Core) : Keeps (modCore n f) := fun s => (Kept.refl s).set
theorem Keeps.setG (n : CoreId) (i : BitVec 5) (v : Word) : Keeps (setG n i v) := fun s => (Kept.refl s).set

theorem Keeps.ite {c : Prop} [Decidable c] {m k : M α} (h : Keeps m) (h' : Keeps k) : Keeps (if c then m else k) := by
  split <;> assumption

theorem Keeps.require (c : Bool) (i : FaultInfo) : Keeps (require c i) := by
  intro s
  unfold stateOf
  rw [work_require]
  cases c <;> exact Kept.refl s

theorem Keeps.bind {m : M α} {f : α → M β} (h : Keeps m) (k : ∀ a, Keeps (f a)) : Keeps (m >>= f) := by
  intro s
  have hs := h s
  unfold stateOf at *
  rw [work_bind]
  cases e : m s with
  | ok a t => rw [e] at hs; exact hs.trans (k a t)
  | error x t => rw [e] at hs; exact hs

theorem Keeps.mapL {f : α → M β} (h : ∀ x, Keeps (f x)) (l : List α) : Keeps (mapL f l) := by
  induction l with
  | nil => exact Keeps.pure _
  | cons x r ih => exact Keeps.bind (h x) fun _ => Keeps.bind ih fun _ => Keeps.pure _

theorem Keeps.eachL {f : α → M Unit} (h : ∀ x, Keeps (f x)) (l : List α) : Keeps (eachL f l) := by
  induction l with
  | nil => exact Keeps.pure _
  | cons x r ih => exact Keeps.bind (h x) fun _ => ih

/-- The state in a result of work. -/
def leftBy (r : EStateM.Result Stop State α) : State :=
  match r with
  | .ok _ t => t
  | .error _ t => t

theorem leftBy_of {r : State} {x y : EStateM.Result Stop State α} (e : x = y) (k : Kept r (leftBy x)) : Kept r (leftBy y) := e ▸ k

theorem Keeps.left {m : M α} (h : Keeps m) {r s : State} (k : Kept r s) : Kept r (leftBy (m s)) := k.trans (h s)

theorem Kept.left_error {r s : State} (x : Stop) (k : Kept r s) : Kept r (leftBy (.error x s : EStateM.Result Stop State α)) := k

theorem Keeps.modifyGet {f : State → α × State} (h : ∀ s, Kept s (f s).2) : Keeps (modifyGet f : M α) := h

/-- Work that keeps what some earlier state held. -/
def KeepsFrom (z : State) (m : M α) : Prop := ∀ s, Kept z s → Kept z (stateOf m s)

theorem Keeps.since {m : M α} (h : Keeps m) (z : State) : KeepsFrom z m := fun s k => k.trans (h s)

theorem KeepsFrom.bind {z : State} {m : M α} {f : α → M β} (h : KeepsFrom z m) (k : ∀ a, KeepsFrom z (f a)) : KeepsFrom z (m >>= f) := by
  intro s hs
  have h1 := h s hs
  unfold stateOf at *
  rw [work_bind]
  cases e : m s with
  | ok a t => rw [e] at h1; exact k a t h1
  | error x t => rw [e] at h1; exact h1

theorem KeepsFrom.set {z t : State} (h : Kept z t) : KeepsFrom z (set t : M PUnit) := fun _ _ => h

/-- Work that begins with a look at the state. -/
theorem Keeps.of_get {f : State → M α} (h : ∀ s, KeepsFrom s (f s)) : Keeps ((MonadState.get : M State) >>= f : M α) := fun s => h s s (Kept.refl s)

end Sys2Proof.Machine
end

