-- ==== Sys2Proof/Laws/KeptCore.lean ====
section
/-! SUPPORT. No operation touches the queue or leaves a memory out of its canonical form: shared operations of memory, translation, buffers and instructions.
A lemma `f_kept` is about a change of the state, `f_keeps` about work. -/

namespace Sys2Proof.Machine

/-! ## Ops -/

theorem State.putMasked_kept {z : State} {s : State} (pa : WAddr) (m : BitVec 18) (v : Word) (hs : Kept z s) : Kept z (State.putMasked s pa m v) := by
  unfold State.putMasked
  with_reducible repeat' (first | assumption | apply Kept.putCell)

theorem State.putEntry_kept {z : State} {s : State} (pa : WAddr) (v : Word) (hs : Kept z s) : Kept z (State.putEntry s pa v) := by
  unfold State.putEntry
  with_reducible repeat' (first | assumption | apply State.putMasked_kept | apply Kept.ite)

theorem State.putWord_kept {z : State} {s : State} (pa : WAddr) (v : Word) (hs : Kept z s) : Kept z (State.putWord s pa v) := by
  unfold State.putWord
  with_reducible repeat' (first | assumption | apply State.putMasked_kept)

theorem State.putPass_kept {z : State} {s : State} (pa : WAddr) (p : PassReg) (hs : Kept z s) : Kept z (State.putPass s pa p) := by
  unfold State.putPass
  with_reducible repeat' (first | assumption | apply Kept.putCell)

theorem State.putWords_kept {z : State} {s : State} (pa : WAddr) (l : List Word) (h : Kept z s) : Kept z (s.putWords pa l) := by
  induction l generalizing s pa with
  | nil => exact h
  | cons v r ih => exact ih _ (State.putWord_kept _ _ h)

theorem State.zeroRange_kept {z : State} {s : State} (pa : WAddr) (n : Nat) (hs : Kept z s) : Kept z (State.zeroRange s pa n) := by
  unfold State.zeroRange
  with_reducible repeat' (first | assumption | apply Kept.dropWords)

theorem State.putHostPadded_kept {z : State} {s : State} (a : Nat) (v : Word) (hs : Kept z s) : Kept z (State.putHostPadded s a v) := by
  unfold State.putHostPadded
  with_reducible repeat' (first | assumption | apply Kept.putHostOctets)

theorem State.putAptWord_kept {z : State} {s : State} (a : Aperture) (k : Nat) (v : Word) (hs : Kept z s) : Kept z (State.putAptWord s a k v) := by
  unfold State.putAptWord
  with_reducible repeat' (first | assumption | apply Kept.putHostOctets | apply State.putHostPadded_kept | apply Kept.ite)

theorem State.updCore_kept {z : State} {s : State} (n : CoreId) (f : Core → Core) (hs : Kept z s) : Kept z (State.updCore s n f) := by
  unfold State.updCore
  with_reducible repeat' (first | assumption | apply Kept.set)

theorem State.updQuad_kept {z : State} {s : State} (q : QuadId) (f : Quad → Quad) (hs : Kept z s) : Kept z (State.updQuad s q f) := by
  unfold State.updQuad
  with_reducible repeat' (first | assumption | apply Kept.set)

theorem State.updEng_kept {z : State} {s : State} (e : EngId) (f : Engine → Engine) (hs : Kept z s) : Kept z (State.updEng s e f) := by
  unfold State.updEng
  with_reducible repeat' (first | assumption | apply Kept.set)

theorem State.updQp_kept {z : State} {s : State} (q : QpId) (f : Qp → Qp) (hs : Kept z s) : Kept z (State.updQp s q f) := by
  unfold State.updQp
  with_reducible repeat' (first | assumption | apply Kept.set)

theorem State.raise_kept {z : State} {s : State} (k : Nat) (hs : Kept z s) : Kept z (State.raise s k) := by
  unfold State.raise
  with_reducible repeat' (first | assumption | split | apply Kept.set)

theorem State.raiseBad_kept {z : State} {s : State} (pa : WAddr) (hs : Kept z s) : Kept z (State.raiseBad s pa) := by
  unfold State.raiseBad
  with_reducible repeat' (first | assumption | apply State.raise_kept | split)

theorem State.raiseBadIn_kept {z : State} {s : State} (pa : WAddr) (n : Nat) (hs : Kept z s) : Kept z (State.raiseBadIn s pa n) := by
  unfold State.raiseBadIn
  with_reducible repeat' (first | assumption | apply State.raiseBad_kept | apply Kept.ite | (apply Kept.foldl; intro _ _ _))


/-! ## Send -/

theorem State.setLbEvt_kept {z : State} {s : State} (k : Nat) (hs : Kept z s) : Kept z (State.setLbEvt s k) := by
  unfold State.setLbEvt
  with_reducible repeat' (first | assumption | apply State.raise_kept | apply Kept.set)

theorem State.sendHeld_kept {z : State} {s : State} (l : Fin 8) (k : Nat) (h : Kept z s) : Kept z (s.sendHeld l k) := by
  induction k generalizing s with
  | zero => exact h
  | succ k ih =>
    unfold State.sendHeld
    split
    · exact h
    · exact ih h.set

theorem State.pumpLink_kept {z : State} {s : State} (l : Fin 8) (h : Kept z s) : Kept z (s.pumpLink l) := State.sendHeld_kept _ _ h

theorem State.emit_kept {z : State} {s : State} (l : Option (Fin 8)) (p : Packet) (h : Kept z s) : Kept z (s.emit l p) := by
  unfold State.emit
  refine Kept.ite h ?_
  split
  · exact State.pumpLink_kept _ h.set
  · exact h.set

theorem State.dropPacket_kept {z : State} {s : State} (hs : Kept z s) : Kept z (State.dropPacket s) := by
  unfold State.dropPacket
  with_reducible repeat' (first | assumption | apply State.setLbEvt_kept | apply Kept.set)

theorem State.route_kept {z : State} {s : State} (p : Packet) (hs : Kept z s) : Kept z (State.route s p) := by
  unfold State.route
  with_reducible repeat' (first
    | assumption | apply State.setLbEvt_kept | apply State.emit_kept | apply State.dropPacket_kept | split | apply Kept.set)

theorem State.issue_kept {z : State} {s : State} (p : Packet) (hs : Kept z s) : Kept z (State.issue s p) := by
  unfold State.issue
  with_reducible repeat' (first | assumption | apply State.route_kept | apply Kept.set)

theorem State.request_kept {z : State} {s : State} (p : Packet) (f : ReqFor) (hs : Kept z s) : Kept z (State.request s p f) := by
  unfold State.request
  with_reducible repeat' (first | assumption | apply State.issue_kept | apply Kept.set)

theorem State.sendLoad_kept {z : State} {s : State} (pa : WAddr) (nw : Nat) (f : ReqFor) (hs : Kept z s) : Kept z (State.sendLoad s pa nw f) := by
  unfold State.sendLoad
  with_reducible repeat' (first | assumption | apply State.request_kept)

theorem State.sendStore_kept {z : State} {s : State} (pa : WAddr) (mask : BitVec 18) (v : Word) (f : ReqFor) (hs : Kept z s) : Kept z (State.sendStore s pa mask v f) := by
  unfold State.sendStore
  with_reducible repeat' (first | assumption | apply State.request_kept | split)

theorem State.setWsEvt_kept {z : State} {s : State} (k : Nat) (hs : Kept z s) : Kept z (State.setWsEvt s k) := by
  unfold State.setWsEvt
  with_reducible repeat' (first | assumption | apply State.raise_kept | apply Kept.set)

theorem State.updTwin_kept {z : State} {s : State} (l : Fin 2) (f : TwinLink → TwinLink) (hs : Kept z s) : Kept z (State.updTwin s l f) := by
  unfold State.updTwin
  with_reducible repeat' (first | assumption | apply Kept.set)

theorem State.sendFrame_kept {z : State} {s : State} (l : Fin 2) (kind : BitVec 4) (pos : BitVec 16) (words : List Word) (hs : Kept z s) : Kept z (State.sendFrame s l kind pos words) := by
  unfold State.sendFrame
  with_reducible repeat' (first | assumption | apply State.updTwin_kept | apply Kept.ite | apply Kept.set)

theorem State.pumpQueue_kept {z : State} {s : State} (k : Nat) (h : Kept z s) : Kept z (s.pumpQueue k) := by
  induction k generalizing s with
  | zero => exact h
  | succ k ih =>
    unfold State.pumpQueue
    split
    · exact Kept.ite (ih (State.sendFrame_kept _ _ _ _ h.set)) h
    · exact h

theorem State.sendFirst_kept {z : State} {s : State} (kind : BitVec 4) (pos : BitVec 16) (words : List Word) (h : Kept z s) :
    Kept z (s.sendFirst kind pos words) :=
  Kept.ite h (State.pumpQueue_kept _ h.set)

theorem State.sendBoth_kept {z : State} {s : State} (kind : BitVec 4) (words : List Word) (hs : Kept z s) : Kept z (State.sendBoth s kind words) := by
  unfold State.sendBoth
  with_reducible repeat' (first | assumption | apply State.sendFrame_kept)

theorem State.startHeal_kept {z : State} {s : State} (off : BitVec 24) (hs : Kept z s) : Kept z (State.startHeal s off) := by
  unfold State.startHeal
  with_reducible repeat' (first | assumption | apply State.sendFirst_kept | apply Kept.ite | apply Kept.set)


/-! ## Xlate -/

theorem chargeAccess_keeps (n : CoreId) (pa : WAddr) : Keeps (chargeAccess n pa : M Unit) := by
  unfold chargeAccess
  with_reducible repeat' (first
    | exact Keeps.pure _ | exact Keeps.getCore _ | exact Keeps.draw | exact Keeps.modCore _ _ | apply Keeps.bind | intro _ | split)

theorem State.settleCharge_kept {z : State} {s : State} (n : CoreId) (hs : Kept z s) : Kept z (State.settleCharge s n) := by
  unfold State.settleCharge
  with_reducible repeat' (first | assumption | apply State.updCore_kept | apply Kept.draw | apply Kept.ite)

theorem State.setOwnTlb_kept {z : State} {s : State} (l : List TlbEnt) (x : Xl) (h : Kept z s) : Kept z (s.setOwnTlb l x) := by
  cases x with
  | core => exact State.updCore_kept _ _ h
  | engine => exact State.updEng_kept _ _ h
  | job => exact h

theorem countConflict_keeps (x : Xl) : Keeps (countConflict x) := by
  cases x with
  | core => exact Keeps.modCore _ _
  | engine => exact Keeps.pure _
  | job => exact Keeps.pure _

theorem markRef_keeps (t : TlbEnt) : Keeps (markRef t : M Unit) := by
  unfold markRef
  with_reducible repeat' (first | apply State.putEntry_kept | (apply Keeps.upd; intro _) | exact Kept.refl _ | apply Kept.ite)

theorem walkNormal_keeps (x : Xl) (va : WAddr) (preg : BitVec 4) (fa : DAddr) : Keeps (walkNormal x va preg fa : M TlbEnt) := by
  unfold walkNormal
  with_reducible repeat' (first
    | apply State.updQuad_kept | apply State.raiseBad_kept | apply countConflict_keeps | exact Keeps.pure _ | exact Keeps.raise _
    | exact Keeps.get | (apply Keeps.upd; intro _) | apply Keeps.bind | exact Kept.refl _ | intro _ | dsimp only | split)

theorem dropEnt_keeps (x : Xl) (t : TlbEnt) : Keeps (dropEnt x t : M Unit) := by
  unfold dropEnt
  with_reducible repeat' (first | apply State.updQuad_kept | apply State.setOwnTlb_kept | (apply Keeps.upd; intro _) | exact Kept.refl _ | split)

theorem State.dropOlder_kept {z : State} {s : State} (t : TlbEnt) (x : Xl) (h : Kept z s) : Kept z (s.dropOlder t x) := by
  cases x with
  | core => exact State.updCore_kept _ _ h
  | engine => exact h
  | job => exact h

theorem takeOwn_keeps (x : Xl) (t : TlbEnt) (preg : BitVec 4) (fa : DAddr) : Keeps (takeOwn x t preg fa : M Unit) := by
  unfold takeOwn
  with_reducible repeat' (first
    | apply State.setOwnTlb_kept | apply countConflict_keeps | apply dropEnt_keeps | exact Keeps.pure _ | exact Keeps.raise _
    | exact Keeps.get | (apply Keeps.upd; intro _) | apply Keeps.bind | exact Kept.refl _ | apply Keeps.ite | intro _)

theorem walkAndKeep_keeps (x : Xl) (va : WAddr) (preg : BitVec 4) (fa : DAddr) : Keeps (walkAndKeep x va preg fa) := by
  have hm (t : TlbEnt) : Keeps (do markRef t; pure t : M TlbEnt) := Keeps.bind (markRef_keeps t) fun _ => Keeps.pure t
  have hk (t : TlbEnt) : Keeps (do takeOwn x t preg fa; upd fun s => s.dropOlder t x; markRef t; pure t : M TlbEnt) :=
    Keeps.bind (takeOwn_keeps x t preg fa) fun _ => Keeps.bind (Keeps.upd fun s => State.dropOlder_kept t x (Kept.refl s)) fun _ => hm t
  unfold walkAndKeep
  extract_lets jp
  have hj : ∀ r, Keeps (jp r) := by
    intro r
    refine Keeps.bind (walkNormal_keeps _ _ _ _) fun t => ?_
    split
    · exact Keeps.bind Keeps.get fun s => Keeps.bind (Keeps.upd fun _ => State.updQuad_kept _ _ (Kept.refl _)) fun _ =>
        Keeps.ite (Keeps.bind (countConflict_keeps _) fun _ => Keeps.bind (Keeps.raise _) fun _ => hk t) (hk t)
    · exact hm t
  split
  · exact Keeps.bind (Keeps.modCore _ _) fun r => hj r
  · exact hj ()

theorem xlateNormal_keeps (x : Xl) (va : WAddr) (store : Bool) (preg : BitVec 4) (fa : DAddr) : Keeps (xlateNormal x va store preg fa : M TlbEnt) := by
  unfold xlateNormal
  with_reducible repeat' (first
    | apply dropEnt_keeps | apply takeOwn_keeps | apply walkAndKeep_keeps | exact Keeps.pure _ | exact Keeps.get | apply Keeps.bind
    | intro _ | dsimp only | split)

theorem xlateDet_keeps (n : CoreId) (i : Fin 3) (va : WAddr) (store : Bool) (preg : BitVec 4) (fa : DAddr) : Keeps (xlateDet n i va store preg fa) := by
  unfold xlateDet
  refine Keeps.bind Keeps.get fun s => ?_
  dsimp only
  split
  · exact Keeps.pure _
  · refine Keeps.bind (Keeps.modCore _ _) fun _ => Keeps.bind (Keeps.eachL (fun _ => chargeAccess_keeps _ _) _) fun _ => ?_
    split
    · have hr : ∀ i, Keeps (raise i : M TlbEnt) := Keeps.raise

      with_reducible repeat' (first | exact Keeps.raise _ | exact countConflict_keeps _ | exact Keeps.pure _ | apply Keeps.bind | apply Keeps.ite | (apply Keeps.upd; intro _; apply State.raiseBad_kept; exact Kept.refl _) | intro _)
    · exact Keeps.bind (chargeAccess_keeps _ _) fun _ => Keeps.bind (Keeps.upd fun _ => State.putEntry_kept _ _ (Kept.refl _)) fun _ =>
        Keeps.bind (Keeps.upd fun s => State.dropOlder_kept _ _ (Kept.refl s)) fun _ => Keeps.bind (Keeps.modCore _ _) fun _ => Keeps.pure _

theorem xlate_keeps (x : Xl) (va : WAddr) (store : Bool) (preg : BitVec 4) (fa : DAddr) : Keeps (xlate x va store preg fa : M TlbEnt) := by
  unfold xlate
  with_reducible repeat' (first
    | apply xlateNormal_keeps | apply xlateDet_keeps | exact Keeps.pure _ | exact Keeps.get | apply Keeps.bind | intro _ | split)

theorem State.setChg_kept {z : State} {s : State} (t : TlbEnt) (hs : Kept z s) : Kept z (State.setChg s t) := by
  unfold State.setChg
  with_reducible repeat' (first | assumption | apply State.putEntry_kept | apply Kept.ite)

theorem setChgBy_keeps (x : Xl) (t : TlbEnt) : Keeps (setChgBy x t : M Unit) := by
  unfold setChgBy
  with_reducible repeat' (first
    | apply State.updQuad_kept | apply State.setOwnTlb_kept | apply dropEnt_keeps | apply State.setChg_kept | exact Keeps.pure _
    | exact Keeps.get | (apply Keeps.upd; intro _) | apply Keeps.bind | exact Kept.refl _ | intro _ | split)

theorem markChg_keeps (x : Xl) (t : TlbEnt) : Keeps (markChg x t : M Unit) := by
  unfold markChg
  with_reducible repeat' (first
    | apply chargeAccess_keeps | apply State.setChg_kept | apply setChgBy_keeps | exact Keeps.pure _ | exact Keeps.getCore _
    | exact Keeps.modCore _ _ | (apply Keeps.upd; intro _) | apply Keeps.bind | exact Kept.refl _ | intro _ | split)

theorem checkEnt_keeps (p : PassReg) (preg : BitVec 4) (a : Acc) (va : WAddr) (mask : BitVec 18) (fa : DAddr) (t : TlbEnt) : Keeps (checkEnt p preg a va mask fa t : M WordRef) := by
  unfold checkEnt
  with_reducible repeat' (first | exact Keeps.pure _ | exact Keeps.get | exact Keeps.require _ _ | apply Keeps.bind | intro _ | split)

theorem checkRegion_keeps (x : Xl) (preg : BitVec 4) (a : Acc) (r : WordRef) : Keeps (checkRegion x preg a r : M Unit) := by
  unfold checkRegion
  with_reducible repeat' (first | exact Keeps.pure _ | exact Keeps.raise _ | exact Keeps.get | apply Keeps.bind | intro _ | split)

theorem checkXlate_keeps (x : Xl) (p : PassReg) (preg : BitVec 4) (a : Acc) (va : WAddr) (mask : BitVec 18) (fa : DAddr) : Keeps (checkXlate x p preg a va mask fa : M WordRef) := by
  unfold checkXlate
  with_reducible repeat' (first | apply xlate_keeps | apply checkEnt_keeps | apply Keeps.bind)

theorem checkWord_keeps (x : Xl) (p : PassReg) (preg : BitVec 4) (a : Acc) (va : WAddr) (mask : BitVec 18) (fa : DAddr) : Keeps (checkWord x p preg a va mask fa : M WordRef) := by
  unfold checkWord
  with_reducible repeat' (first | apply checkRegion_keeps | apply checkXlate_keeps | exact Keeps.pure _ | apply Keeps.bind | intro _)

theorem passTests_keeps (p : PassReg) (preg : BitVec 4) (need : BitVec 12) (a : Acc) (da : DAddr) (words : List (WAddr × BitVec 18)) : Keeps (passTests p preg need a da words : M Unit) := by
  unfold passTests
  with_reducible repeat' (first | exact Keeps.pure _ | exact Keeps.raise _ | exact Keeps.require _ _ | apply Keeps.bind | intro _ | split)

theorem checkWords_keeps (x : Xl) (p : PassReg) (preg : BitVec 4) (a : Acc) (da : DAddr) (ws : List (WAddr × BitVec 18)) : Keeps (checkWords x p preg a da ws : M (List WordRef)) := by
  unfold checkWords
  with_reducible repeat' (first
    | apply checkRegion_keeps | apply checkXlate_keeps | exact Keeps.pure _ | apply Keeps.mapL | apply Keeps.eachL | apply Keeps.bind
    | intro _)

theorem checkField_keeps (x : Xl) (p : PassReg) (preg : BitVec 4) (need : BitVec 12) (a : Acc) (da : DAddr) (n : Nat) : Keeps (checkField x p preg need a da n : M (List WordRef)) := by
  unfold checkField
  with_reducible repeat' (first | apply passTests_keeps | apply checkWords_keeps | apply Keeps.bind | intro _)

theorem checkByWord_keeps (x : Xl) (p : PassReg) (preg : BitVec 4) (need : BitVec 12) (a : Acc) (da : DAddr) (n : Nat) : Keeps (checkByWord x p preg need a da n : M (List WordRef)) := by
  unfold checkByWord
  with_reducible repeat' (first | apply checkWord_keeps | apply passTests_keeps | apply Keeps.mapL | apply Keeps.bind | intro _)


/-! ## Mem -/

theorem State.lateStore_kept {z : State} {s : State} (n : CoreId) (cause : BitVec 8) (pa : WAddr) (hs : Kept z s) : Kept z (State.lateStore s n cause pa) := by
  unfold State.lateStore
  with_reducible repeat' (first | assumption | apply State.updCore_kept | apply State.raise_kept)

theorem State.touchLine_kept {z : State} {s : State} (n : CoreId) (pa : WAddr) (hs : Kept z s) : Kept z (State.touchLine s n pa) := by
  unfold State.touchLine
  with_reducible repeat' (first | assumption | apply State.updCore_kept | apply State.updQuad_kept | apply Kept.ite)

theorem State.storeRemote_kept {z : State} {s : State} (n : CoreId) (pa : WAddr) (m : BitVec 18) (v : Word) (hs : Kept z s) : Kept z (State.storeRemote s n pa m v) := by
  unfold State.storeRemote
  with_reducible repeat' (first
    | assumption | apply State.updQuad_kept | apply State.setLbEvt_kept | apply State.sendStore_kept | apply State.lateStore_kept | split
    | apply Kept.set)

theorem State.storeWindow_kept {z : State} {s : State} (pa : WAddr) (m : BitVec 18) (v : Word) (hs : Kept z s) : Kept z (State.storeWindow s pa m v) := by
  unfold State.storeWindow
  with_reducible repeat' (first | assumption | apply State.putAptWord_kept | split)

theorem State.performStore_kept {z : State} {s : State} (n : CoreId) (e : SbEnt) (hs : Kept z s) : Kept z (State.performStore s n e) := by
  unfold State.performStore
  with_reducible repeat' (first
    | assumption | apply State.putMasked_kept | apply State.putPass_kept | apply State.updCore_kept | apply State.raiseBad_kept
    | apply State.lateStore_kept | apply State.touchLine_kept | apply State.storeRemote_kept | apply State.storeWindow_kept | apply Kept.ite
    | split)

theorem State.drainOne_kept {z : State} {s : State} (n : CoreId) (hs : Kept z s) : Kept z (State.drainOne s n) := by
  unfold State.drainOne
  with_reducible repeat' (first | assumption | apply State.updCore_kept | apply State.performStore_kept | split)

theorem State.drainN_kept {z : State} {s : State} (n : CoreId) (k : Nat) (h : Kept z s) : Kept z (s.drainN n k) := by
  induction k generalizing s with
  | zero => exact h
  | succ k ih => exact ih (State.drainOne_kept _ h)

theorem State.drainAll_kept {z : State} {s : State} (n : CoreId) (hs : Kept z s) : Kept z (State.drainAll s n) := by
  unfold State.drainAll
  with_reducible repeat' (first | assumption | apply State.drainN_kept)

theorem partialWait_keeps (n : CoreId) (pa : WAddr) (m : BitVec 18) : Keeps (partialWait n pa m : M Unit) := by
  unfold partialWait
  with_reducible repeat' (first | apply State.updCore_kept | apply State.drainN_kept | (apply Keeps.upd; intro _) | exact Kept.refl _)

theorem badWord_keeps {α : Type} (n : CoreId) (r : WordRef) : Keeps (badWord n r : M α) := by
  unfold badWord
  with_reducible repeat' (first
    | apply State.updCore_kept | apply State.raiseBad_kept | apply State.startHeal_kept | exact Keeps.throw _ | exact Keeps.raise _
    | exact Keeps.get | (apply Keeps.upd; intro _) | apply Keeps.bind | exact Kept.refl _ | intro _ | split)

theorem fromBuffer_keeps (n : CoreId) (r : WordRef) : Keeps (fromBuffer n r : M (Option Word)) := by
  unfold fromBuffer
  with_reducible repeat' (first
    | apply partialWait_keeps | exact Keeps.pure _ | exact Keeps.getCore _ | apply Keeps.bind | intro _ | dsimp only | split)

theorem loadLocal_keeps (n : CoreId) (r : WordRef) : Keeps (loadLocal n r : M Word) := by
  unfold loadLocal
  with_reducible repeat' (first
    | apply State.touchLine_kept | apply badWord_keeps | apply fromBuffer_keeps | exact Keeps.pure _ | exact Keeps.get
    | (apply Keeps.upd; intro _) | apply Keeps.bind | exact Kept.refl _ | intro _ | split)

theorem loadRemote_keeps (n : CoreId) (r : WordRef) : Keeps (loadRemote n r : M Word) := by
  unfold loadRemote
  with_reducible repeat' (first
    | apply State.updCore_kept | apply State.setLbEvt_kept | apply State.sendLoad_kept | exact Keeps.pure _ | exact Keeps.throw _
    | exact Keeps.raise _ | exact Keeps.get | (apply Keeps.upd; intro _) | apply Keeps.bind | exact Kept.refl _ | intro _ | dsimp only
    | split | apply Kept.set)

theorem loadWindow_keeps (n : CoreId) (r : WordRef) : Keeps (loadWindow n r : M Word) := by
  unfold loadWindow
  with_reducible repeat' (first
    | exact Keeps.pure _ | exact Keeps.raise _ | exact Keeps.get | exact Keeps.modCore _ _ | apply Keeps.bind | intro _ | split)

theorem loadBeyond_keeps (n : CoreId) (r : WordRef) : Keeps (loadBeyond n r : M Word) := by
  unfold loadBeyond
  with_reducible repeat' (first
    | apply fromBuffer_keeps | apply loadRemote_keeps | apply loadWindow_keeps | exact Keeps.pure _ | apply Keeps.bind | intro _ | split)

theorem loadRef_keeps (n : CoreId) (r : WordRef) : Keeps (loadRef n r : M Word) := by
  unfold loadRef
  with_reducible repeat' (first | apply chargeAccess_keeps | apply loadLocal_keeps | apply loadBeyond_keeps | apply Keeps.bind | intro _ | split)

theorem State.makeRoom_kept {z : State} {s : State} (n : CoreId) (k fuel : Nat) (h : Kept z s) : Kept z (s.makeRoom n k fuel) := by
  induction fuel generalizing s with
  | zero => exact h
  | succ fuel ih => exact Kept.ite h (ih (State.drainOne_kept _ h))

theorem State.bufferStore_kept {z : State} {s : State} (n : CoreId) (e : SbEnt) (h : Kept z s) : Kept z (s.bufferStore n e) :=
  Kept.ite (State.performStore_kept _ _ h)
    (State.updCore_kept _ _ (Kept.ite h (State.updCore_kept _ _ (State.makeRoom_kept _ _ _ h))))

theorem putRef_keeps (n : CoreId) (r : WordRef) (v : Word) : Keeps (putRef n r v : M Unit) := by
  unfold putRef
  with_reducible repeat' (first
    | apply chargeAccess_keeps | apply State.bufferStore_kept | (apply Keeps.upd; intro _) | apply Keeps.bind | exact Kept.refl _ | intro _)

theorem storeRef_keeps (n : CoreId) (stream : Fin 3) (r : WordRef) (v : Word) : Keeps (storeRef n stream r v : M Unit) := by
  unfold storeRef
  with_reducible repeat' (first | apply markChg_keeps | apply putRef_keeps | apply Keeps.bind | intro _)

theorem storePassRef_keeps (n : CoreId) (stream : Fin 3) (r : WordRef) (p : PassReg) : Keeps (storePassRef n stream r p : M Unit) := by
  unfold storePassRef
  with_reducible repeat' (first
    | apply chargeAccess_keeps | apply markChg_keeps | apply State.bufferStore_kept | (apply Keeps.upd; intro _) | apply Keeps.bind
    | exact Kept.refl _ | intro _)

theorem loadPassRef_keeps (n : CoreId) (r r1 : WordRef) : Keeps (loadPassRef n r r1 : M PassReg) := by
  unfold loadPassRef
  with_reducible repeat' (first
    | apply State.updCore_kept | apply chargeAccess_keeps | apply State.touchLine_kept | apply State.drainN_kept | apply badWord_keeps
    | exact Keeps.pure _ | exact Keeps.get | exact Keeps.getCore _ | (apply Keeps.upd; intro _) | apply Keeps.bind | exact Kept.refl _
    | intro _ | dsimp only | split)

theorem loadField_keeps (n : CoreId) (rs : List WordRef) : Keeps (loadField n rs : M (List (BitVec 4))) := by
  unfold loadField
  with_reducible repeat' (first | apply loadRef_keeps | exact Keeps.pure _ | apply Keeps.mapL | apply Keeps.bind | intro _)

theorem storeField_keeps (n : CoreId) (stream : Fin 3) (rs : List WordRef) (l : List (BitVec 4)) : Keeps (storeField n stream rs l : M Unit) := by
  unfold storeField
  with_reducible repeat' (first | apply markChg_keeps | apply putRef_keeps | apply Keeps.eachL | apply Keeps.bind | intro _)


/-! ## Run -/

theorem State.noteFail_kept {z : State} {s : State} (e2 e0 e1 : Word) (hs : Kept z s) : Kept z (State.noteFail s e2 e0 e1) := by
  unfold State.noteFail
  with_reducible repeat' (first | assumption | split | apply Kept.set)

theorem State.journalEntry_kept {z : State} {s : State} (kind : BitVec 4) (step attempt method outcome : Nat) (detail : BitVec 24) (e2 e3 e4 e5 : Word) (hs : Kept z s) : Kept z (State.journalEntry s kind step attempt method outcome detail e2 e3 e4 e5) := by
  unfold State.journalEntry
  with_reducible repeat' (first | assumption | apply State.putWord_kept | apply State.putWords_kept | apply State.noteFail_kept | apply Kept.ite)

theorem State.storeFrame_kept {z : State} {s : State} (n : CoreId) (pas : List WAddr) (words : List Word) (p15 p14 : PassReg) (hs : Kept z s) : Kept z (State.storeFrame s n pas words p15 p14) := by
  unfold State.storeFrame
  with_reducible repeat' (first | assumption | apply State.bufferStore_kept | (apply Kept.foldl; intro _ _ _) | split)

theorem State.loseCore_kept {z : State} {s : State} (n : CoreId) (pc : DAddr) (cause : Word) (hs : Kept z s) : Kept z (State.loseCore s n pc cause) := by
  unfold State.loseCore
  with_reducible repeat' (first
    | assumption | apply State.updCore_kept | apply State.raise_kept | apply State.drainAll_kept | apply State.journalEntry_kept)

theorem State.escalate_kept {z : State} {s : State} (n : CoreId) (code : BitVec 8) (f : FaultInfo) (pc : DAddr) (instr : Word) (hs : Kept z s) : Kept z (State.escalate s n code f pc instr) := by
  unfold State.escalate
  with_reducible repeat' (first
    | assumption | apply State.updCore_kept | apply chargeAccess_keeps | apply State.settleCharge_kept | apply State.storeFrame_kept
    | apply State.loseCore_kept | apply Keeps.eachL | apply Kept.ite | apply Keeps.state)

theorem tableWord_keeps (n : CoreId) (pa : WAddr) : Keeps (tableWord n pa : M Word) := by
  unfold tableWord
  with_reducible repeat' (first
    | apply State.raiseBad_kept | apply chargeAccess_keeps | apply State.touchLine_kept | exact Keeps.pure _ | exact Keeps.raise _
    | exact Keeps.get | (apply Keeps.upd; intro _) | apply Keeps.bind | exact Kept.refl _ | apply Keeps.ite | intro _)

theorem tablePass_keeps (n : CoreId) (pa : WAddr) : Keeps (tablePass n pa : M PassReg) := by
  unfold tablePass
  with_reducible repeat' (first
    | apply State.raiseBad_kept | apply chargeAccess_keeps | apply State.touchLine_kept | exact Keeps.pure _ | exact Keeps.raise _
    | exact Keeps.get | (apply Keeps.upd; intro _) | apply Keeps.bind | exact Kept.refl _ | apply Keeps.ite | intro _)

theorem entryStep_kept {z : State} {α : Type} (m : M α) (code : BitVec 8) {s : State} (hm : Keeps m) (hs : Kept z s) : Kept z (entryStep m code s).2 := by
  unfold entryStep
  with_reducible repeat' (first | assumption | split | (refine Keeps.ok (m := ?_) ?_ ‹_› ?_) | (refine Keeps.error (m := ?_) ?_ ‹_› ?_))

theorem readTable_keeps (n : CoreId) (k : EntryKind) (t : WAddr) : Keeps (readTable n k t : M (Word × Word × PassReg × PassReg)) := by
  unfold readTable
  with_reducible repeat' (first | apply tableWord_keeps | apply tablePass_keeps | exact Keeps.pure _ | apply Keeps.bind | intro _)

theorem handlerPass_keeps (p : PassReg) (need : BitVec 12) (preg : BitVec 4) : Keeps (handlerPass p need preg : M Unit) := by
  unfold handlerPass
  with_reducible repeat' (first | exact Keeps.require _ _ | apply Keeps.bind | intro _)

theorem frameRefs_keeps (n : CoreId) (p14 : PassReg) (f : WAddr) : Keeps (frameRefs n p14 f : M (List WordRef)) := by
  unfold frameRefs
  with_reducible repeat' (first
    | apply markChg_keeps | apply checkWord_keeps | apply passTests_keeps | exact Keeps.pure _ | exact Keeps.require _ _ | apply Keeps.mapL
    | apply Keeps.eachL | apply Keeps.bind | intro _)

theorem fetchPass_keeps (p15 : PassReg) (pc : DAddr) : Keeps (fetchPass p15 pc : M Unit) := by
  unfold fetchPass
  with_reducible repeat' (apply passTests_keeps)

theorem fetchEnt_keeps (n : CoreId) (p15 : PassReg) (pc : DAddr) (t : TlbEnt) : Keeps (fetchEnt n p15 pc t : M WordRef) := by
  unfold fetchEnt
  with_reducible repeat' (first | apply checkEnt_keeps | apply checkRegion_keeps | exact Keeps.pure _ | apply Keeps.bind | intro _)

theorem fetchRef_keeps (n : CoreId) (p15 : PassReg) (pc : DAddr) : Keeps (fetchRef n p15 pc : M WordRef) := by
  unfold fetchRef
  with_reducible repeat' (first | apply xlate_keeps | apply fetchPass_keeps | apply fetchEnt_keeps | apply Keeps.bind | intro _)

theorem fetchData_keeps (n : CoreId) (r : WordRef) : Keeps (fetchData n r : M Word) := by
  unfold fetchData
  with_reducible repeat' (first
    | apply State.touchLine_kept | apply badWord_keeps | apply loadRemote_keeps | exact Keeps.pure _ | exact Keeps.get
    | (apply Keeps.upd; intro _) | apply Keeps.bind | exact Kept.refl _ | apply Keeps.ite | intro _)

theorem State.requestLine_kept {z : State} {s : State} (n : CoreId) (p15 : PassReg) (pc : DAddr) (h : Kept z s) : Kept z (s.requestLine n p15 pc) := by
  unfold State.requestLine
  split
  · have ht := (fetchRef_keeps n p15 pc).ok ‹_› h
    exact Kept.ite (State.touchLine_kept _ _ ht) (h.withMem ht)
  · exact h.withMem ((fetchRef_keeps n p15 pc).error ‹_› h)

theorem State.runAhead_kept {z : State} {s : State} (n : CoreId) (p15 : PassReg) (k : Nat) (pc : DAddr) (h : Kept z s) :
    Kept z (s.runAhead n p15 k pc) := by
  induction k generalizing s pc with
  | zero => exact h
  | succ k ih => exact ih _ (State.requestLine_kept _ _ _ h)

theorem fetchAt_keeps (n : CoreId) (p15 : PassReg) (pc : DAddr) : Keeps (fetchAt n p15 pc) := by
  unfold fetchAt
  refine Keeps.bind (fetchPass_keeps _ _) fun _ => Keeps.bind Keeps.get fun s => ?_
  dsimp only
  split
  · exact Keeps.bind (fetchEnt_keeps _ _ _ _) fun _ => Keeps.pure _
  · refine Keeps.bind (fetchRef_keeps _ _ _) fun r => ?_
    with_reducible repeat' (first | exact fetchData_keeps _ _ | exact chargeAccess_keeps _ _ | exact Keeps.modCore _ _ | exact Keeps.get | exact Keeps.pure _ | (apply Keeps.upd; intro _; apply State.runAhead_kept; exact Kept.refl _) | apply Keeps.bind | apply Keeps.ite | intro _)

theorem readPhys_keeps (n : CoreId) (pa : WAddr) : Keeps (readPhys n pa : M Word) := by
  unfold readPhys
  with_reducible repeat' (first
    | apply chargeAccess_keeps | apply State.touchLine_kept | apply badWord_keeps | exact Keeps.pure _ | exact Keeps.get
    | (apply Keeps.upd; intro _) | apply Keeps.bind | exact Kept.refl _ | apply Keeps.ite | intro _)

theorem readPhysPass_keeps (n : CoreId) (pa : WAddr) : Keeps (readPhysPass n pa : M PassReg) := by
  unfold readPhysPass
  with_reducible repeat' (first
    | apply chargeAccess_keeps | apply State.touchLine_kept | apply badWord_keeps | exact Keeps.pure _ | exact Keeps.get
    | (apply Keeps.upd; intro _) | apply Keeps.bind | exact Kept.refl _ | apply Keeps.ite | intro _)

/-- Reading an entry's vector, whatever becomes of it. -/
theorem vectorFetch_kept {z : State} (n : CoreId) (p15 : PassReg) (vec : DAddr) {s : State} (h : Kept z s) :
    Kept z (leftBy (vectorFetch n p15 vec s)) := by
  unfold vectorFetch
  dsimp only
  split
  · exact State.updCore_kept (z := z) n (fun c => { c with
      detPend := s.cores[n].detPend, detVar := s.cores[n].detVar, pageRegs := s.cores[n].pageRegs, fetchWord := s.cores[n].fetchWord })
      ((fetchAt_keeps _ _ _).ok ‹_› h)
  · exact State.updCore_kept (z := z) n (fun c => { c with
      detPend := s.cores[n].detPend, detVar := s.cores[n].detVar, pageRegs := s.cores[n].pageRegs, fetchWord := s.cores[n].fetchWord })
      ((fetchAt_keeps _ _ _).error ‹_› h)

theorem entryChecks_kept {z : State} (n : CoreId) (i : EntryInfo) (t : WAddr) {s : State} (h : Kept z s) : Kept z (entryChecks n i t s).2 := by
  have hp (p q : PassReg) : Keeps (do handlerPass p permExec 15; handlerPass q permStore 14 : M Unit) :=
    Keeps.bind (handlerPass_keeps _ _ _) fun _ => handlerPass_keeps _ _ _
  unfold entryChecks
  dsimp only
  split
  · exact h
  · have h1 := entryStep_kept _ 2 (readTable_keeps n i.kind t) h
    split
    · exact Kept.of_eq ‹_› h1
    · replace h1 := Kept.of_eq ‹_› h1
      split
      · exact h1
      · split
        · rename_i e
          exact Kept.of_eq e (entryStep_kept _ _ (hp _ _) h1)
        · rename_i e
          have h2 := Kept.of_eq e (entryStep_kept _ _ (hp _ _) h1)
          split
          · exact h2
          · split
            · rename_i e
              exact Kept.of_eq e (entryStep_kept _ _ (frameRefs_keeps _ _ _) h2)
            · rename_i e
              have h3 := Kept.of_eq e (entryStep_kept _ _ (frameRefs_keeps _ _ _) h2)
              split <;> rename_i e <;> exact leftBy_of e (vectorFetch_kept _ _ _ h3)

theorem State.putFrame_kept {z : State} {s : State} (n : CoreId) (i : EntryInfo) (pas : List WAddr) (hs : Kept z s) : Kept z (State.putFrame s n i pas) := by
  unfold State.putFrame
  with_reducible repeat' (first | assumption | apply chargeAccess_keeps | apply State.storeFrame_kept | apply Keeps.eachL | apply Keeps.state)

theorem State.failEntry_kept {z : State} {s : State} (n : CoreId) (i : EntryInfo) (t : WAddr) (e : EntryFail) (hs : Kept z s) : Kept z (State.failEntry s n i t e) := by
  unfold State.failEntry
  with_reducible repeat' (first | assumption | apply State.escalate_kept | split | apply Kept.set)

/-- Both answers of an attempt to enter: the entry, and the state that waits for it. -/
theorem State.tryEnter_both {z : State} {s : State} (n : CoreId) (i : EntryInfo) (h : Kept z s) :
    Kept z (s.tryEnter n i).2 ∧ ∀ u, (s.tryEnter n i).1 = some u → Kept z u := by
  have hc := entryChecks_kept n i ((s.drainAll n).cores[n].tableEntry i) (State.drainAll_kept n h)
  have hp (v : State) (fr : Option (List WAddr × PassReg × PassReg)) (k : Kept z v) : Kept z (match fr with
      | some (pas, _, _) => v.putFrame n i pas
      | none => v) := by
    split
    · exact State.putFrame_kept _ _ _ k
    · exact k
  unfold State.tryEnter
  dsimp only
  split
  · exact ⟨Kept.of_eq ‹_› hc, fun u e => nomatch e⟩
  · have hf := hp _ ‹_› (Kept.of_eq ‹_› hc)
    exact ⟨hf, fun u e => by cases e; exact State.failEntry_kept _ _ _ _ hf⟩
  · rename_i pas _ _ _ _ e
    have hf := fun own : Core → Core => State.updCore_kept n own (State.updCore_kept n (Core.charge 22) (State.putFrame_kept n i pas (Kept.of_eq e hc)))
    exact ⟨hf _, fun u e => by cases e; exact State.settleCharge_kept _ (hf _)⟩

theorem State.tryEnter_kept {z : State} {s : State} (n : CoreId) (i : EntryInfo) (h : Kept z s) : Kept z (s.tryEnter n i).2 :=
  (State.tryEnter_both n i h).1

theorem State.tryEnter_some {z : State} {s u : State} (n : CoreId) (i : EntryInfo) (h : Kept z s) (e : (s.tryEnter n i).1 = some u) : Kept z u :=
  (State.tryEnter_both n i h).2 u e

theorem State.enter_kept {z : State} {s : State} (n : CoreId) (i : EntryInfo) (h : Kept z s) : Kept z (s.enter n i) := by
  unfold State.enter
  cases e : (s.tryEnter n i).1 with
  | none => exact h
  | some u => exact State.tryEnter_some n i h e

theorem State.waitEntry_kept {z : State} {t : State} (n : CoreId) {s : State} (ht : Kept z t) (hs : Kept z s) : Kept z (State.waitEntry t n s) := by
  unfold State.waitEntry
  with_reducible repeat' (first | assumption | apply State.updCore_kept)

theorem State.takeFault_some {z : State} {s u : State} (n : CoreId) (f : FaultInfo) (w : Word) (h : Kept z s) (e : (s.takeFault n f w).1 = some u) :
    Kept z u := by
  unfold State.takeFault at e
  dsimp only at e
  split at e
  · cases e; exact State.loseCore_kept _ _ _ h
  · split at e
    · cases e; exact State.escalate_kept _ _ _ _ _ h
    · split at e
      · exact State.tryEnter_some _ _ (State.updCore_kept _ _ h) e
      · exact State.tryEnter_some _ _ h e

theorem State.takeFault_kept {z : State} {s : State} (n : CoreId) (f : FaultInfo) (w : Word) (h : Kept z s) : Kept z (s.takeFault n f w).2 := by
  unfold State.takeFault
  dsimp only
  split
  · exact h
  · split
    · exact h
    · split
      · exact State.tryEnter_kept _ _ (State.updCore_kept _ _ h)
      · exact State.tryEnter_kept _ _ h

theorem State.instrWord_kept {z : State} {s : State} (n : CoreId) (hs : Kept z s) : Kept z (State.instrWord s n).2 := by
  unfold State.instrWord
  with_reducible repeat' (first | assumption | apply Kept.draw | split)

theorem fetchDecode_keeps (n : CoreId) (sh : Shape) : Keeps (fetchDecode n sh : M Unit) := by
  unfold fetchDecode
  with_reducible repeat' (first
    | apply fetchAt_keeps | exact Keeps.pure _ | exact Keeps.raise _ | exact Keeps.getCore _ | exact Keeps.modCore _ _
    | exact Keeps.require _ _ | apply Keeps.bind | intro _ | split)

theorem State.faultAfter_kept {z : State} {t s : State} (n : CoreId) (f : FaultInfo) (ht : Kept z t) (hs : Kept z s) :
    Kept z (t.faultAfter n f s) := by
  have hi := State.instrWord_kept n (State.updCore_kept n (Core.charge 1) ht)
  unfold State.faultAfter
  refine Kept.ite ?_ hs
  dsimp only
  split
  · rename_i e
    exact State.takeFault_some _ _ _ hi (by rw [e])
  · rename_i e
    exact State.waitEntry_kept _ (Kept.of_eq e (State.takeFault_kept _ _ _ hi)) hs

theorem State.waitAfter_kept {z : State} {t : State} (n : CoreId) {s : State} (ht : Kept z t) (hs : Kept z s) : Kept z (State.waitAfter t n s) := by
  unfold State.waitAfter
  with_reducible repeat' (first | assumption | apply State.updCore_kept)

theorem State.readBack_kept {z : State} {s : State} (n : CoreId) (hs : Kept z s) : Kept z (State.readBack s n) := by
  unfold State.readBack
  with_reducible repeat' (first | assumption | apply State.updCore_kept | apply Kept.ite)

theorem State.runIns_kept {z : State} {s : State} (n : CoreId) (sh : Shape) (body : M Next) (hs : Kept z s) (hbody : Keeps body) : Kept z (State.runIns s n sh body) := by
  unfold State.runIns
  with_reducible repeat' (first
    | assumption | apply State.updCore_kept | apply State.settleCharge_kept | apply fetchDecode_keeps | apply State.faultAfter_kept
    | apply State.waitAfter_kept | apply State.readBack_kept | split | (refine Keeps.ok (m := ?_) ?_ ‹_› ?_)
    | (refine Keeps.error (m := ?_) ?_ ‹_› ?_))


/-! ## Operands -/

theorem regAddr_keeps (v : Word) : Keeps (regAddr v : M DAddr) := by
  unfold regAddr
  with_reducible repeat' (first | exact Keeps.pure _ | exact Keeps.require _ _ | apply Keeps.bind | intro _)

theorem formEA_keeps (n : CoreId) (base : BitVec 5) (disp : Int) : Keeps (formEA n base disp : M DAddr) := by
  unfold formEA
  with_reducible repeat' (first | apply regAddr_keeps | exact Keeps.pure _ | exact Keeps.gr _ _ | apply Keeps.bind | intro _)

theorem mEA_keeps (n : CoreId) (f : FmtM) : Keeps (mEA n f : M DAddr) := by
  unfold mEA
  with_reducible repeat' (apply formEA_keeps)

theorem sEA1_keeps (n : CoreId) (f : FmtS) : Keeps (sEA1 n f : M DAddr) := by
  unfold sEA1
  with_reducible repeat' (apply formEA_keeps)

theorem sEA2_keeps (n : CoreId) (f : FmtS) : Keeps (sEA2 n f : M DAddr) := by
  unfold sEA2
  with_reducible repeat' (apply formEA_keeps)

theorem operand_keeps (n : CoreId) (stream : Fin 3) (pr : PassId) (need : BitVec 12) (a : Acc) (da : DAddr) (len : Nat) : Keeps (operand n stream pr need a da len : M (List WordRef)) := by
  unfold operand
  with_reducible repeat' (first | apply checkField_keeps | exact Keeps.getCore _ | apply Keeps.bind | intro _)

theorem aligned_keeps (ok : Bool) (cls : BitVec 5) (da : DAddr) : Keeps (aligned ok cls da : M Unit) := by
  unfold aligned
  with_reducible repeat' (exact Keeps.require _ _)


/-! ## Flags -/


/-! ## Jobs -/

theorem State.updJob_kept {z : State} {s : State} (j : JobId) (f : Job → Job) (hs : Kept z s) : Kept z (State.updJob s j f) := by
  unfold State.updJob
  with_reducible repeat' (first | assumption | apply Kept.set)

theorem State.dropJob_kept {z : State} {s : State} (j : JobId) (hs : Kept z s) : Kept z (State.dropJob s j) := by
  unfold State.dropJob
  with_reducible repeat' (first | assumption | apply Kept.set)

theorem State.setServed_kept {z : State} {s : State} (v : Served) (hs : Kept z s) : Kept z (State.setServed s v) := by
  unfold State.setServed
  with_reducible repeat' (first | assumption | apply Kept.set)

theorem State.reply_kept {z : State} {s : State} (pair : PairId) (side events : Bool) (eseq : BitVec 16) (p : Packet) (hs : Kept z s) : Kept z (State.reply s pair side events eseq p) := by
  unfold State.reply
  with_reducible repeat' (first | assumption | apply State.issue_kept | apply State.setServed_kept)

theorem State.updBlock_kept {z : State} {s : State} (f : UnitBlock → UnitBlock) (u : UnitId) (h : Kept z s) : Kept z (s.updBlock f u) := by
  cases u <;> exact h.set

theorem State.finishJob_kept {z : State} {s : State} (x : Job) (status detail : BitVec 8) (result : Word) (hs : Kept z s) : Kept z (State.finishJob s x status detail result) := by
  unfold State.finishJob
  with_reducible repeat' (first
    | assumption | apply State.updQp_kept | apply State.dropJob_kept | apply State.reply_kept | apply State.updBlock_kept | split
    | apply Kept.set)


/-! ## Integer -/

theorem regIns_kept {z : State} (n : CoreId) (sh : Shape) (f : Core → Core) {s : State} (hs : Kept z s) : Kept z (regIns n sh f s) := by
  unfold regIns
  with_reducible repeat' (first | assumption | apply State.runIns_kept | exact Keeps.pure _ | exact Keeps.modCore _ _ | apply Keeps.bind | intro _)

theorem advanceBody_keeps (n : CoreId) (rd ra : BitVec 5) (k : Int) : Keeps (advanceBody n rd ra k : M Next) := by
  unfold advanceBody
  with_reducible repeat' (first
    | apply regAddr_keeps | exact Keeps.pure _ | exact Keeps.gr _ _ | exact Keeps.modCore _ _ | apply Keeps.bind | intro _)

theorem divBody_keeps (n : CoreId) (f : FmtA) (q r : Word → Word → Word) (v : Word → Word → Bool) : Keeps (divBody n f q r v : M Next) := by
  unfold divBody
  with_reducible repeat' (first
    | exact Keeps.pure _ | exact Keeps.gr _ _ | exact Keeps.modCore _ _ | exact Keeps.require _ _ | apply Keeps.bind | intro _)


/-! ## Decimal -/

theorem regDec_keeps (n : CoreId) (op : Nat) (r : BitVec 5) (pair : Bool) : Keeps (regDec n op r pair : M Dec) := by
  unfold regDec
  with_reducible repeat' (first | exact Keeps.pure _ | exact Keeps.raise _ | exact Keeps.gr _ _ | apply Keeps.bind | intro _ | dsimp only | split)

theorem decSum_keeps (n : CoreId) (f : FmtA) (minus : Bool) : Keeps (decSum n f minus : M Next) := by
  unfold decSum
  with_reducible repeat' (first | apply regDec_keeps | exact Keeps.pure _ | exact Keeps.modCore _ _ | apply Keeps.bind | intro _)

end Sys2Proof.Machine
end

