-- ==== Sys2Proof/Laws/KeptLedger.lean ====
section
/-! SUPPORT. No operation touches the queue or leaves a memory out of its canonical form: operations of the posting engine, the journal, synchronisation and entries.
A lemma `f_kept` is about a change of the state, `f_keeps` about work. -/

namespace Sys2Proof.Machine

/-! ## Ledger -/

theorem State.putNew_kept {z : State} {s : State} (pa : WAddr) (v : Word) (hs : Kept z s) : Kept z (State.putNew s pa v) := by
  unfold State.putNew
  with_reducible repeat' (first | assumption | apply State.putWord_kept | apply Kept.ite)

theorem State.countBase_kept {z : State} {s : State} (seq : BitVec 48) (i : Nat) (hs : Kept z s) : Kept z (State.countBase s seq i).2 := by
  unfold State.countBase
  with_reducible repeat' (first | assumption | split | apply Kept.set)

theorem State.putLeg_kept {z : State} {s : State} (seq : BitVec 48) (e : LegEnt) (d : CellWords) (hs : Kept z s) : Kept z (State.putLeg s seq e d) := by
  unfold State.putLeg
  with_reducible repeat' (first | assumption | apply State.putNew_kept | apply Kept.ite)

theorem State.applyEnt_kept {z : State} {s : State} (seq : BitVec 48) (e : LegEnt) (hs : Kept z s) : Kept z (State.applyEnt s seq e) := by
  unfold State.applyEnt
  with_reducible repeat' (first | assumption | apply State.putNew_kept | apply State.countBase_kept | apply State.putLeg_kept | apply Kept.ite)

theorem State.putRing_kept {z : State} {s : State} (p : Nat) (l : List Word) (h : Kept z s) : Kept z (s.putRing p l) := by
  induction l generalizing s p with
  | nil => exact h
  | cons v r ih => exact ih _ (State.putWord_kept _ _ h)

theorem State.filterAdd_kept {z : State} {s : State} (ref : BitVec 64) (w : Word) (hs : Kept z s) : Kept z (State.filterAdd s ref w) := by
  unfold State.filterAdd
  with_reducible repeat' (first | assumption | apply State.putNew_kept | apply Kept.ite | apply Kept.set)

theorem State.filterFinal_kept {z : State} {s : State} (seq : BitVec 48) (w : Word) (hs : Kept z s) : Kept z (State.filterFinal s seq w) := by
  unfold State.filterFinal
  with_reducible repeat' (first | assumption | apply State.putNew_kept | split)

theorem State.applyLegs_kept {z : State} {s : State} (pos : Nat) (seq : BitVec 48) (hs : Kept z s) : Kept z (State.applyLegs s pos seq) := by
  unfold State.applyLegs
  with_reducible repeat' (first | assumption | apply State.applyEnt_kept | (apply Kept.foldl; intro _ _ _))

theorem State.addPrep_kept {z : State} {s : State} (p : Prep) (hs : Kept z s) : Kept z (State.addPrep s p) := by
  unfold State.addPrep
  with_reducible repeat' (first | assumption | apply Kept.ite | apply Kept.set)

theorem State.dropPrep_kept {z : State} {s : State} (seq : BitVec 48) (hs : Kept z s) : Kept z (State.dropPrep s seq) := by
  unfold State.dropPrep
  with_reducible repeat' (first | assumption | apply Kept.set)

theorem State.applyRecord_kept {z : State} {s : State} (pos : Nat) (solo : Bool) (final : Option Word) (hs : Kept z s) : Kept z (State.applyRecord s pos solo final) := by
  unfold State.applyRecord
  with_reducible repeat' (first
    | assumption | apply State.filterAdd_kept | apply State.filterFinal_kept | apply State.applyLegs_kept | apply State.addPrep_kept
    | apply State.dropPrep_kept | dsimp only | split)

theorem State.settleDpos_kept {z : State} {s : State} (hs : Kept z s) : Kept z (State.settleDpos s) := by
  unfold State.settleDpos
  with_reducible repeat' (first | assumption | apply Kept.set)

theorem State.setJnEvt_kept {z : State} {s : State} (k : Nat) (hs : Kept z s) : Kept z (State.setJnEvt s k) := by
  unfold State.setJnEvt
  with_reducible repeat' (first | assumption | apply State.raise_kept | apply Kept.set)

theorem State.noteLow_kept {z : State} {s t : State} (hs : Kept z s) (ht : Kept z t) : Kept z (State.noteLow s t) := by
  unfold State.noteLow
  with_reducible repeat' (first | assumption | apply State.setJnEvt_kept | apply Kept.ite)


/-! ## Posting -/

theorem State.complete_kept {z : State} {s : State} (r : PostReq) (w : Word) (hs : Kept z s) : Kept z (State.complete s r w) := by
  unfold State.complete
  with_reducible repeat' (first | assumption | apply Kept.set)

theorem State.completeFinal_kept {z : State} {s : State} (r : PostReq) (w : Word) (hs : Kept z s) : Kept z (State.completeFinal s r w) := by
  unfold State.completeFinal
  with_reducible repeat' (first | assumption | apply Kept.ite | apply Kept.set)

theorem State.countNotSeq_kept {z : State} {s : State} (r : PostReq) (hs : Kept z s) : Kept z (State.countNotSeq s r) := by
  unfold State.countNotSeq
  with_reducible repeat' (first | assumption | apply Kept.ite | apply Kept.set)

theorem State.postMsg_kept {z : State} {s : State} (dst : PairId) (vc : BitVec 2) (home : PairId) (n : BitVec 48) (kind : BitVec 4) (status : BitVec 8) (payload : List Word) (hs : Kept z s) : Kept z (State.postMsg s dst vc home n kind status payload) := by
  unfold State.postMsg
  with_reducible repeat' (first | assumption | apply State.issue_kept | apply Kept.ite)

theorem State.vote_kept {z : State} {s : State} (p : Part) (hs : Kept z s) : Kept z (State.vote s p) := by
  unfold State.vote
  with_reducible repeat' (first | assumption | apply State.postMsg_kept | apply Kept.ite)

theorem State.updCoord_kept {z : State} {s : State} (n : BitVec 48) (f : Coord → Coord) (hs : Kept z s) : Kept z (State.updCoord s n f) := by
  unfold State.updCoord
  with_reducible repeat' (first | assumption | apply Kept.set)

theorem State.updPart_kept {z : State} {s : State} (home : PairId) (n : BitVec 48) (f : Part → Part) (hs : Kept z s) : Kept z (State.updPart s home n f) := by
  unfold State.updPart
  with_reducible repeat' (first | assumption | apply Kept.set)

theorem State.takeSeq_kept {z : State} {s : State} (len : Nat) (hs : Kept z s) : Kept z (State.takeSeq s len) := by
  unfold State.takeSeq
  with_reducible repeat' (first | assumption | apply Kept.set)

theorem State.noteStall_kept {z : State} {s : State} (hs : Kept z s) : Kept z (State.noteStall s) := by
  unfold State.noteStall
  with_reducible repeat' (first | assumption | apply State.setJnEvt_kept | apply Kept.ite | apply Kept.set)

theorem State.clearStall_kept {z : State} {s : State} (hs : Kept z s) : Kept z (State.clearStall s) := by
  unfold State.clearStall
  with_reducible repeat' (first | assumption | apply Kept.set)

theorem State.numberDecision_kept {z : State} {s : State} (d : WaitDec) (hs : Kept z s) : Kept z (State.numberDecision s d) := by
  unfold State.numberDecision
  with_reducible repeat' (first | assumption | apply State.noteLow_kept | apply State.takeSeq_kept | apply Kept.set)

theorem State.numberDecisions_kept {z : State} {s : State} (k : Nat) (h : Kept z s) : Kept z (s.numberDecisions k) := by
  induction k generalizing s with
  | zero => exact h
  | succ k ih =>
    unfold State.numberDecisions
    split
    · exact h
    · exact Kept.ite (State.noteStall_kept h) (Kept.ite h (ih (State.numberDecision_kept _ (State.clearStall_kept h).set)))

theorem State.releaseDecisions_kept {z : State} {s : State} (h : Kept z s) : Kept z s.releaseDecisions := State.numberDecisions_kept _ h

theorem State.decide__kept {z : State} {s : State} (r : PostReq) (home : PairId) (n : BitVec 48) (pseq : BitVec 48) (status : BitVec 8) (leg : BitVec 4) (hs : Kept z s) : Kept z (State.decide_ s r home n pseq status leg) := by
  unfold State.decide_
  with_reducible repeat' (first | assumption | apply State.releaseDecisions_kept | apply Kept.set)

theorem State.partNo_kept {z : State} {s : State} (home : PairId) (n : BitVec 48) (status : BitVec 8) (hs : Kept z s) : Kept z (State.partNo s home n status) := by
  unfold State.partNo
  with_reducible repeat' (first | assumption | apply State.vote_kept | apply State.updPart_kept | dsimp only | split)

theorem State.refuseReq_kept {z : State} {s : State} (r : PostReq) (status : BitVec 8) (hs : Kept z s) : Kept z (State.refuseReq s r status) := by
  unfold State.refuseReq
  with_reducible repeat' (first | assumption | apply State.complete_kept | apply State.countNotSeq_kept | apply State.partNo_kept | split)

theorem State.answerDup_kept {z : State} {s : State} (r : PostReq) (w : Word) (hs : Kept z s) : Kept z (State.answerDup s r w) := by
  unfold State.answerDup
  with_reducible repeat' (first | assumption | apply State.complete_kept | apply Kept.set)

theorem State.dropArrival_kept {z : State} {s : State} (hs : Kept z s) : Kept z (State.dropArrival s) := by
  unfold State.dropArrival
  with_reducible repeat' (first | assumption | apply Kept.set)

theorem State.assign_kept {z : State} {s : State} (r : PostReq) (early : Option (BitVec 8 × BitVec 4)) (rs : List (BitVec 8)) (len : Nat) (hs : Kept z s) : Kept z (State.assign s r early rs len) := by
  unfold State.assign
  with_reducible repeat' (first | assumption | apply State.takeSeq_kept | apply Kept.ite | apply Kept.set)

theorem State.updLeg_kept {z : State} {s : State} (seq : BitVec 48) (k : Nat) (f : Leg → Leg) (hs : Kept z s) : Kept z (State.updLeg s seq k f) := by
  unfold State.updLeg
  with_reducible repeat' (first | assumption | apply Kept.set)

theorem State.resumeLegs_kept {z : State} {s : State} (off : BitVec 24) (hs : Kept z s) : Kept z (State.resumeLegs s off) := by
  unfold State.resumeLegs
  with_reducible repeat' (first | assumption | apply Kept.set)

theorem State.failLegs_kept {z : State} {s : State} (off : BitVec 24) (hs : Kept z s) : Kept z (State.failLegs s off) := by
  unfold State.failLegs
  with_reducible repeat' (first | assumption | apply State.raise_kept | apply Kept.ite | apply Kept.set)

theorem State.pumpStream_kept {z : State} {s : State} (fuel : Nat) (h : Kept z s) : Kept z (s.pumpStream fuel) := by
  induction fuel generalizing s with
  | zero => exact h
  | succ fuel ih =>
    unfold State.pumpStream
    split
    · exact h
    · refine Kept.ite (ih h.set) ?_
      split
      · exact h
      · exact ih (State.sendFrame_kept _ _ _ _ h).set

theorem State.pump_kept {z : State} {s : State} (h : Kept z s) : Kept z s.pump := State.pumpQueue_kept _ (State.pumpStream_kept _ h)

theorem State.stream_kept {z : State} {s : State} (p n : Nat) (hs : Kept z s) : Kept z (State.stream s p n) := by
  unfold State.stream
  with_reducible repeat' (first | assumption | apply State.pump_kept | apply Kept.set)

theorem State.writeRing_kept {z : State} {s : State} (p : Nat) (ws : List Word) (hs : Kept z s) : Kept z (State.writeRing s p ws) := by
  unfold State.writeRing
  with_reducible repeat' (first | assumption | apply State.putRing_kept | apply State.stream_kept | apply Kept.ite)

theorem State.coordDecide_kept {z : State} {s : State} (c : Coord) (status : BitVec 8) (leg : BitVec 4) (detail : BitVec 8) (hs : Kept z s) : Kept z (State.coordDecide s c status leg detail) := by
  unfold State.coordDecide
  with_reducible repeat' (first | assumption | apply State.updCoord_kept | apply State.decide__kept)

theorem State.coordNo_kept {z : State} {s : State} (c : Coord) (src : PairId) (status : BitVec 8) (hs : Kept z s) : Kept z (State.coordNo s c src status) := by
  unfold State.coordNo
  with_reducible repeat' (first | assumption | apply State.coordDecide_kept | apply Kept.ite)

theorem State.sendPrepares_kept {z : State} {s : State} (c : Coord) (hs : Kept z s) : Kept z (State.sendPrepares s c) := by
  unfold State.sendPrepares
  with_reducible repeat' (first
    | assumption | apply State.postMsg_kept | apply State.coordNo_kept | (apply Kept.foldl; intro _ _ _) | dsimp only | split)

theorem State.countOutcome_kept {z : State} {s : State} (ok : Bool) (hs : Kept z s) : Kept z (State.countOutcome s ok) := by
  unfold State.countOutcome
  with_reducible repeat' (first | assumption | apply Kept.ite | apply Kept.set)

theorem State.confirmFlight_kept {z : State} {s : State} (f : Flight) (hs : Kept z s) : Kept z (State.confirmFlight s f) := by
  unfold State.confirmFlight
  with_reducible repeat' (first
    | assumption | apply State.complete_kept | apply State.completeFinal_kept | apply State.postMsg_kept | apply State.vote_kept
    | apply State.updCoord_kept | apply State.updPart_kept | apply State.sendPrepares_kept | apply State.countOutcome_kept
    | (apply Kept.foldl; intro _ _ _) | split | apply Kept.set)

theorem State.advance_kept {z : State} {s : State} (h : BitVec 48) (solo : Bool) (hs : Kept z s) : Kept z (State.advance s h solo) := by
  unfold State.advance
  with_reducible repeat' (first
    | assumption | apply State.applyRecord_kept | apply State.settleDpos_kept | apply State.confirmFlight_kept
    | (apply Kept.foldl; intro _ _ _) | split | apply Kept.set)

theorem State.writeSlot_kept {z : State} {s : State} (d : DoneWord) (hs : Kept z s) : Kept z (State.writeSlot s d).1 := by
  unfold State.writeSlot
  with_reducible repeat' (first | assumption | apply State.putWord_kept | dsimp only | split)

theorem State.lateCompletion_kept {z : State} {s : State} (n : CoreId) (hs : Kept z s) : Kept z (State.lateCompletion s n) := by
  unfold State.lateCompletion
  with_reducible repeat' (first | assumption | apply State.updCore_kept | apply Kept.draw | apply Kept.ite)

theorem State.deliver_kept {z : State} {s : State} (d : DoneWord) (stored : Bool) (hs : Kept z s) : Kept z (State.deliver s d stored) := by
  unfold State.deliver
  with_reducible repeat' (first
    | assumption | apply State.updCore_kept | apply State.updEng_kept | apply State.raise_kept | apply State.lateStore_kept
    | apply State.finishJob_kept | apply State.lateCompletion_kept | split)

theorem State.completeFirst_kept {z : State} {s : State} (h : Kept z s) : Kept z s.completeFirst := by
  unfold State.completeFirst
  split
  · exact h
  · dsimp only
    have := State.deliver_kept ‹DoneWord› (State.writeSlot ({ s with led := { s.led with done := ‹List DoneWord› } } : State) ‹DoneWord›).2
      (State.writeSlot_kept ‹DoneWord› (h.set : Kept z { s with led := { s.led with done := ‹List DoneWord› } }))
    exact Kept.ite this this.set

theorem State.handOver_kept {z : State} {s : State} (n : CoreId) (k : Nat) (h : Kept z s) : Kept z (s.handOver n k) := by
  induction k generalizing s with
  | zero => exact h
  | succ k ih =>
    unfold State.handOver
    dsimp only
    split
    · exact h
    · exact ih (State.completeFirst_kept h.set)

theorem State.submit_kept {z : State} {s : State} (i : Issuer) (commit : Bool) (slot : WAddr) (words : List Word) (hs : Kept z s) : Kept z (State.submit s i commit slot words).2 := by
  unfold State.submit
  with_reducible repeat' (first | assumption | apply Kept.set)

theorem readVec_keeps (rd : Reader) (r : WordRef) : Keeps (readVec rd r : M Word) := by
  unfold readVec
  with_reducible repeat' (first
    | apply State.raiseBad_kept | apply chargeAccess_keeps | apply badWord_keeps | exact Keeps.pure _ | exact Keeps.raise _
    | exact Keeps.get | (apply Keeps.upd; intro _) | apply Keeps.bind | exact Kept.refl _ | intro _ | split)

theorem vecRefs_keeps (rd : Reader) (need : BitVec 12) (da : DAddr) (k : Nat) (slot : Option Nat) : Keeps (vecRefs rd need da k slot : M (List WordRef)) := by
  unfold vecRefs
  with_reducible repeat' (first | apply checkWord_keeps | apply passTests_keeps | apply Keeps.mapL | apply Keeps.bind | intro _)

theorem readVector_keeps (rd : Reader) (da : DAddr) : Keeps (readVector rd da : M (List Word × WAddr)) := by
  unfold readVector
  with_reducible repeat' (first
    | apply markChg_keeps | apply readVec_keeps | apply vecRefs_keeps | exact Keeps.pure _ | exact Keeps.require _ _ | apply Keeps.mapL
    | apply Keeps.bind | intro _ | split)

theorem readBlock_keeps (rd : Reader) (da : DAddr) : Keeps (readBlock rd da : M (List Word × WAddr)) := by
  unfold readBlock
  with_reducible repeat' (first
    | apply markChg_keeps | apply readVec_keeps | apply vecRefs_keeps | exact Keeps.pure _ | exact Keeps.require _ _ | apply Keeps.mapL
    | apply Keeps.bind | intro _ | split)

theorem issuePost_keeps (n : CoreId) (f : FmtM) (commit : Bool) : Keeps (issuePost n f commit : M Next) := by
  unfold issuePost
  with_reducible repeat' (first
    | apply State.drainAll_kept | apply mEA_keeps | apply aligned_keeps | apply State.submit_kept | apply readVector_keeps
    | apply readBlock_keeps | exact Keeps.pure _ | exact Keeps.throw _ | exact Keeps.getCore _ | exact Keeps.modCore _ _
    | (apply Keeps.upd; intro _) | apply Keeps.bind | exact Kept.refl _ | apply Keeps.ite | (apply Keeps.modifyGet; intro _) | intro _)

theorem State.partDecide_kept {z : State} {s : State} (home : PairId) (n : BitVec 48) (commit : Bool) (hs : Kept z s) : Kept z (State.partDecide s home n commit) := by
  unfold State.partDecide
  with_reducible repeat' (first | assumption | apply State.updPart_kept | apply State.decide__kept | split)

theorem State.settlePreps_kept {z : State} {s : State} (hs : Kept z s) : Kept z (State.settlePreps s) := by
  unfold State.settlePreps
  with_reducible repeat' (first
    | assumption | apply State.postMsg_kept | apply State.coordDecide_kept | apply Kept.ite | (apply Kept.foldl; intro _ _ _)
    | apply Kept.set)

theorem State.undecide_kept {z : State} {s : State} (home : PairId) (n : BitVec 48) (hs : Kept z s) : Kept z (State.undecide s home n) := by
  unfold State.undecide
  with_reducible repeat' (first | assumption | apply State.updCoord_kept | apply State.updPart_kept)

theorem State.unassign_kept {z : State} {s : State} (hs : Kept z s) : Kept z (State.unassign s) := by
  unfold State.unassign
  with_reducible repeat' (first | assumption | split | apply Kept.set)

theorem State.dropFlight_kept {z : State} (status : BitVec 8) {s : State} (f : Flight) (hs : Kept z s) : Kept z (State.dropFlight status s f) := by
  unfold State.dropFlight
  with_reducible repeat' (first | assumption | apply State.complete_kept | apply State.partNo_kept | apply State.undecide_kept | split)

theorem State.stopLeading_kept {z : State} {s : State} (status : BitVec 8) (hs : Kept z s) : Kept z (State.stopLeading s status) := by
  unfold State.stopLeading
  with_reducible repeat' (first
    | assumption | apply State.settleDpos_kept | apply State.refuseReq_kept | apply State.undecide_kept | apply State.unassign_kept
    | apply State.dropFlight_kept | (apply Kept.foldl; intro _ _ _) | apply Kept.set)


/-! ## Journal -/

theorem State.ackWord_kept {z : State} {s : State} (w : Word) (hs : Kept z s) : Kept z (State.ackWord s w) := by
  unfold State.ackWord
  with_reducible repeat' (first | assumption | apply State.setJnEvt_kept | apply State.releaseDecisions_kept | apply Kept.ite | apply Kept.set)


/-! ## Sync -/

theorem syncMemory_keeps (n : CoreId) : Keeps (syncMemory n : M Unit) := by
  unfold syncMemory
  with_reducible repeat' (first
    | apply State.updQuad_kept | apply State.drainAll_kept | exact Keeps.throw _ | exact Keeps.get | exact Keeps.modCore _ _
    | exact Keeps.require _ _ | (apply Keeps.upd; intro _) | apply Keeps.bind | exact Kept.refl _ | apply Keeps.ite | intro _)

theorem syncFetch_keeps (n : CoreId) : Keeps (syncFetch n : M Unit) := by
  unfold syncFetch
  with_reducible repeat' (first
    | apply State.drainAll_kept | exact Keeps.modCore _ _ | (apply Keeps.upd; intro _) | apply Keeps.bind | exact Kept.refl _ | intro _)

theorem fillWaits_keeps (n : CoreId) : Keeps (fillWaits n : M Unit) := by
  unfold fillWaits
  with_reducible repeat' (first
    | exact Keeps.pure _ | exact Keeps.getCore _ | exact Keeps.draw | exact Keeps.modCore _ _ | apply Keeps.bind | apply Keeps.ite
    | intro _)

theorem State.dropTranslations_kept {z : State} {s : State} (k : Scope) (hs : Kept z s) : Kept z (State.dropTranslations s k) := by
  unfold State.dropTranslations
  with_reducible repeat' (first | assumption | apply Kept.set)

theorem State.drainEvery_kept {z : State} {s : State} (hs : Kept z s) : Kept z (State.drainEvery s) := by
  unfold State.drainEvery
  with_reducible repeat' (first | assumption | apply State.drainAll_kept | (apply Kept.foldl; intro _ _ _))

theorem devicePass_keeps (n : CoreId) (i : PassId) : Keeps (devicePass n i : M Unit) := by
  unfold devicePass
  with_reducible repeat' (first | exact Keeps.getCore _ | exact Keeps.require _ _ | apply Keeps.bind | intro _)

theorem broadcast_keeps (n : CoreId) (k : Scope) : Keeps (broadcast n k : M Next) := by
  unfold broadcast
  with_reducible repeat' (first
    | apply syncMemory_keeps | apply State.dropTranslations_kept | apply State.drainEvery_kept | exact Keeps.pure _ | exact Keeps.throw _
    | exact Keeps.get | exact Keeps.modCore _ _ | (apply Keeps.upd; intro _) | apply Keeps.bind | exact Kept.refl _ | apply Keeps.ite
    | intro _)


/-! ## Context -/

theorem areaCheck_keeps (a : WAddr) (align len : Nat) (code : BitVec 8) (stored : List Nat) : Keeps (areaCheck a align len code stored : M Unit) := by
  unfold areaCheck
  with_reducible repeat' (first | exact Keeps.get | exact Keeps.require _ _ | apply Keeps.bind | intro _)

theorem chainData_keeps {α : Type} (area pa : WAddr) : Keeps (chainData area pa : M α) := by
  unfold chainData
  with_reducible repeat' (first
    | apply State.raiseBad_kept | exact Keeps.raise _ | (apply Keeps.upd; intro _) | apply Keeps.bind | exact Kept.refl _ | intro _)

theorem areaRead_keeps (n : CoreId) (area pa : WAddr) : Keeps (areaRead n area pa : M Word) := by
  unfold areaRead
  with_reducible repeat' (first
    | apply chargeAccess_keeps | apply State.touchLine_kept | apply chainData_keeps | exact Keeps.pure _ | exact Keeps.get
    | (apply Keeps.upd; intro _) | apply Keeps.bind | exact Kept.refl _ | apply Keeps.ite | intro _)

theorem areaReadPass_keeps (n : CoreId) (area pa : WAddr) : Keeps (areaReadPass n area pa : M PassReg) := by
  unfold areaReadPass
  with_reducible repeat' (first
    | apply chargeAccess_keeps | apply State.touchLine_kept | apply chainData_keeps | exact Keeps.pure _ | exact Keeps.get
    | (apply Keeps.upd; intro _) | apply Keeps.bind | exact Kept.refl _ | apply Keeps.ite | intro _)

theorem areaWrite_keeps (n : CoreId) (pa : WAddr) (v : Word) : Keeps (areaWrite n pa v : M Unit) := by
  unfold areaWrite
  with_reducible repeat' (first
    | apply chargeAccess_keeps | apply State.bufferStore_kept | (apply Keeps.upd; intro _) | apply Keeps.bind | exact Kept.refl _ | intro _)

theorem areaWritePass_keeps (n : CoreId) (pa : WAddr) (p : PassReg) : Keeps (areaWritePass n pa p : M Unit) := by
  unfold areaWritePass
  with_reducible repeat' (first
    | apply chargeAccess_keeps | apply State.bufferStore_kept | (apply Keeps.upd; intro _) | apply Keeps.bind | exact Kept.refl _ | intro _)

theorem saveBody_keeps (n : CoreId) (f : FmtA) (upper : Bool) : Keeps (saveBody n f upper : M Next) := by
  unfold saveBody
  with_reducible repeat' (first
    | apply State.drainAll_kept | apply devicePass_keeps | apply areaCheck_keeps | apply areaRead_keeps | apply areaWrite_keeps
    | apply areaWritePass_keeps | exact Keeps.pure _ | exact Keeps.raise _ | exact Keeps.getCore _ | exact Keeps.modCore _ _
    | (apply Keeps.upd; intro _) | apply Keeps.eachL | apply Keeps.bind | exact Kept.refl _ | apply Keeps.ite | intro _)

theorem restBody_keeps (n : CoreId) (f : FmtA) (upper : Bool) : Keeps (restBody n f upper : M Next) := by
  unfold restBody
  with_reducible repeat' (first
    | apply State.drainAll_kept | apply devicePass_keeps | apply areaCheck_keeps | apply areaRead_keeps | apply areaReadPass_keeps
    | apply areaWrite_keeps | exact Keeps.pure _ | exact Keeps.getCore _ | exact Keeps.gr _ _ | exact Keeps.modCore _ _
    | exact Keeps.require _ _ | (apply Keeps.upd; intro _) | apply Keeps.mapL | apply Keeps.bind | exact Kept.refl _ | apply Keeps.ite
    | intro _)

theorem fpSave_keeps (n : CoreId) : Keeps (fpSave n : M Unit) := by
  unfold fpSave
  with_reducible repeat' (first
    | apply areaWrite_keeps | exact Keeps.getCore _ | exact Keeps.modCore _ _ | apply Keeps.eachL | apply Keeps.bind | intro _)

theorem fpMove_keeps (n : CoreId) (flush saves loads : Bool) (b : WAddr) (early : List Word) : Keeps (fpMove n flush saves loads b early : M Unit) := by
  unfold fpMove
  with_reducible repeat' (first
    | apply State.drainAll_kept | apply areaRead_keeps | apply fpSave_keeps | exact Keeps.pure _ | exact Keeps.draw
    | exact Keeps.modCore _ _ | (apply Keeps.upd; intro _) | apply Keeps.mapL | apply Keeps.bind | exact Kept.refl _ | apply Keeps.ite
    | intro _)

theorem fpxch_keeps (n : CoreId) (v : Word) : Keeps (fpxch n v : M Unit) := by
  unfold fpxch
  with_reducible repeat' (first
    | apply State.drainAll_kept | apply areaCheck_keeps | apply chainData_keeps | apply areaRead_keeps | apply fpMove_keeps
    | exact Keeps.pure _ | exact Keeps.get | exact Keeps.getCore _ | exact Keeps.modCore _ _ | (apply Keeps.upd; intro _) | apply Keeps.mapL
    | apply Keeps.bind | exact Kept.refl _ | apply Keeps.ite | intro _ | dsimp only | split)


/-! ## Passes -/

theorem openPass_keeps (n : CoreId) (i : PassId) : Keeps (openPass n i : M PassReg) := by
  unfold openPass
  with_reducible repeat' (first | exact Keeps.pure _ | exact Keeps.getCore _ | exact Keeps.require _ _ | apply Keeps.bind | intro _)

theorem derive_keeps (n : CoreId) (f : FmtA) (m : PassReg → M PassReg) (hm : ∀ x0, Keeps (m x0)) : Keeps (derive n f m : M Next) := by
  unfold derive
  with_reducible repeat' (first | apply hm | apply openPass_keeps | exact Keeps.pure _ | exact Keeps.modCore _ _ | apply Keeps.bind | intro _)

theorem authority_keeps (n : CoreId) (i : PassId) (need : BitVec 12) : Keeps (authority n i need : M PassReg) := by
  unfold authority
  with_reducible repeat' (first | apply openPass_keeps | exact Keeps.pure _ | exact Keeps.require _ _ | apply Keeps.bind | intro _)

end Sys2Proof.Machine
end

