-- ==== Sys2Proof/Laws/KeptUnits.lean ====
section
/-! SUPPORT. No operation touches the queue or leaves a memory out of its canonical form: operations of the engines, the host interface, the fabric, the twin, starts and unit control.
A lemma `f_kept` is about a change of the state, `f_keeps` about work. -/

namespace Sys2Proof.Machine

/-! ## Channel -/

theorem State.chEvent_kept {z : State} {s : State} (e : EngId) (k : Nat) (hs : Kept z s) : Kept z (State.chEvent s e k) := by
  unfold State.chEvent
  with_reducible repeat' (first | assumption | apply State.updEng_kept | apply State.raise_kept | apply Kept.ite)

theorem State.addCredit_kept {z : State} {s : State} (e : EngId) (k : Fin 4) (n : Nat) (hs : Kept z s) : Kept z (State.addCredit s e k n) := by
  unfold State.addCredit
  with_reducible repeat' (first | assumption | apply State.updEng_kept | apply State.chEvent_kept | apply Kept.ite)

theorem State.setProg_kept {z : State} {s : State} (e : EngId) (p : Option ChProg) (hs : Kept z s) : Kept z (State.setProg s e p) := by
  unfold State.setProg
  with_reducible repeat' (first | assumption | apply State.updEng_kept)

theorem State.putOwn_kept {z : State} {s : State} (pa : WAddr) (v : Word) (hs : Kept z s) : Kept z (State.putOwn s pa v) := by
  unfold State.putOwn
  with_reducible repeat' (first | assumption | apply State.putWord_kept | apply Kept.ite)

theorem State.putOwnPass_kept {z : State} {s : State} (pa : WAddr) (p : PassReg) (hs : Kept z s) : Kept z (State.putOwnPass s pa p) := by
  unfold State.putOwnPass
  with_reducible repeat' (first | assumption | apply State.putPass_kept | apply Kept.ite)

theorem State.writeCpb_kept {z : State} {s : State} (p : ChProg) (state : Nat) (hs : Kept z s) : Kept z (State.writeCpb s p state) := by
  unfold State.writeCpb
  with_reducible repeat' (first | assumption | apply State.putOwn_kept | apply State.putOwnPass_kept | (apply Kept.foldl; intro _ _ _))

theorem State.chBroken_kept {z : State} {s : State} (e : EngId) (cpb : WAddr) (read : Nat) (hs : Kept z s) : Kept z (State.chBroken s e cpb read) := by
  unfold State.chBroken
  with_reducible repeat' (first | assumption | apply State.raiseBadIn_kept | apply State.chEvent_kept | apply State.putOwn_kept)

theorem State.chDispatch_kept {z : State} {s : State} (e : EngId) (hs : Kept z s) : Kept z (State.chDispatch s e) := by
  unfold State.chDispatch
  with_reducible repeat' (first
    | assumption | apply State.updEng_kept | apply State.setProg_kept | apply State.putOwn_kept | apply State.chBroken_kept | dsimp only
    | split)

theorem State.chLeave_kept {z : State} {s : State} (e : EngId) (hs : Kept z s) : Kept z (State.chLeave s e) := by
  unfold State.chLeave
  with_reducible repeat' (first | assumption | apply State.updEng_kept | apply Kept.set)

theorem State.chStop_kept {z : State} {s : State} (e : EngId) (p : ChProg) (code : BitVec 16) (hs : Kept z s) : Kept z (State.chStop s e p code) := by
  unfold State.chStop
  with_reducible repeat' (first | assumption | apply State.chEvent_kept | apply State.writeCpb_kept | apply State.chLeave_kept)

theorem State.chFault_kept {z : State} {s : State} (e : EngId) (p : ChProg) (f : FaultInfo) (hs : Kept z s) : Kept z (State.chFault s e p f) := by
  unfold State.chFault
  with_reducible repeat' (first
    | assumption | apply State.updEng_kept | apply State.chEvent_kept | apply State.writeCpb_kept | apply State.chLeave_kept)

theorem State.engReadBack_kept {z : State} {s : State} (e : EngId) (hs : Kept z s) : Kept z (State.engReadBack s e) := by
  unfold State.engReadBack
  with_reducible repeat' (first | assumption | apply State.updEng_kept)

theorem State.haltPoint_kept {z : State} {s : State} (e : EngId) (hs : Kept z s) : Kept z (State.haltPoint s e) := by
  unfold State.haltPoint
  with_reducible repeat' (first | assumption | apply State.chStop_kept | apply State.engReadBack_kept | split)

theorem cpbTests_keeps (x : Xl) (p : PassReg) (preg : BitVec 4) (cpb : WAddr) : Keeps (cpbTests x p preg cpb : M WAddr) := by
  unfold cpbTests
  with_reducible repeat' (first
    | apply xlate_keeps | apply markChg_keeps | apply passTests_keeps | exact Keeps.pure _ | exact Keeps.raise _ | exact Keeps.get
    | exact Keeps.require _ _ | apply Keeps.mapL | apply Keeps.eachL | apply Keeps.bind | intro _ | split)

theorem State.refuseCpb_kept {z : State} {s : State} (x : Xl) (e : EngId) (pa : WAddr) (w : Word) (hs : Kept z s) : Kept z (State.refuseCpb s x e pa w) := by
  unfold State.refuseCpb
  with_reducible repeat' (first
    | assumption | apply State.sendStore_kept | apply State.storeRemote_kept | apply State.storeWindow_kept | apply State.putOwn_kept
    | split)

theorem chStart_keeps (x : Xl) (p : PassReg) (e : EngId) (v : Word) : Keeps (chStart x p e v : M Word) := by
  unfold chStart
  with_reducible repeat' (first
    | apply State.updEng_kept | apply State.putOwn_kept | apply State.chBroken_kept | apply cpbTests_keeps | apply State.refuseCpb_kept
    | exact Keeps.pure _ | exact Keeps.get | (apply Keeps.upd; intro _) | apply Keeps.bind | exact Kept.refl _ | apply Keeps.ite | intro _)

theorem State.chIgnored_kept {z : State} {s : State} (e : EngId) (hs : Kept z s) : Kept z (State.chIgnored s e) := by
  unfold State.chIgnored
  with_reducible repeat' (first | assumption | apply State.updEng_kept | apply State.chEvent_kept)

theorem chResume_keeps (x : Xl) (p : PassReg) (e : EngId) (v : Word) : Keeps (chResume x p e v : M Unit) := by
  unfold chResume
  with_reducible repeat' (first
    | apply State.updEng_kept | apply State.raiseBadIn_kept | apply State.putOwn_kept | apply cpbTests_keeps | apply State.chIgnored_kept
    | (apply Keeps.upd; intro _) | apply Keeps.bind | exact Kept.refl _ | apply Kept.ite | intro _)

theorem chHalt_keeps (x : Xl) (p : PassReg) (e : EngId) (v : Word) : Keeps (chHalt x p e v : M Unit) := by
  unfold chHalt
  with_reducible repeat' (first
    | apply State.updEng_kept | apply State.chEvent_kept | apply State.setProg_kept | apply State.putOwn_kept | apply State.haltPoint_kept
    | apply cpbTests_keeps | apply State.chIgnored_kept | (apply Keeps.upd; intro _) | apply Keeps.bind | exact Kept.refl _ | intro _
    | split)

theorem atSlot_keeps {α : Type} (k : BitVec 3) (m : M α) (hm : Keeps m) : Keeps (atSlot k m) := by
  intro s
  have h := hm s
  unfold atSlot stateOf at *
  cases e : m s with
  | ok a t => rw [e] at h; dsimp only; rw [e]; exact h
  | error x t => rw [e] at h; dsimp only; rw [e]; cases x <;> exact h

theorem engLoad_keeps (e : EngId) (r : WordRef) : Keeps (engLoad e r : M Word) := by
  unfold engLoad
  with_reducible repeat' (first
    | apply State.updEng_kept | apply State.raiseBad_kept | apply State.setLbEvt_kept | apply State.sendLoad_kept
    | apply State.startHeal_kept | exact Keeps.pure _ | exact Keeps.throw _ | exact Keeps.raise _ | exact Keeps.get
    | (apply Keeps.upd; intro _) | apply Keeps.bind | exact Kept.refl _ | intro _ | dsimp only | split | apply Kept.set)

theorem State.engStoreFailed_kept {z : State} {s : State} (e : EngId) (pa : WAddr) (code : BitVec 8) (hs : Kept z s) : Kept z (State.engStoreFailed s e pa code) := by
  unfold State.engStoreFailed
  with_reducible repeat' (first | assumption | apply State.updEng_kept)

theorem engStore_keeps (e : EngId) (r : WordRef) (v : Word) : Keeps (engStore e r v : M Unit) := by
  unfold engStore
  with_reducible repeat' (first
    | apply State.putMasked_kept | apply State.updQuad_kept | apply State.updEng_kept | apply State.raiseBad_kept
    | apply State.setLbEvt_kept | apply State.sendStore_kept | apply markChg_keeps | apply State.storeWindow_kept
    | apply State.engStoreFailed_kept | exact Keeps.raise _ | exact Keeps.get | (apply Keeps.upd; intro _) | apply Keeps.bind
    | exact Kept.refl _ | intro _ | split | apply Kept.set)

theorem engRefs_keeps (e : EngId) (p : ChProg) (k : BitVec 3) (need : BitVec 12) (a : Acc) (da : DAddr) (n : Nat) : Keeps (engRefs e p k need a da n : M (List WordRef)) := by
  unfold engRefs
  with_reducible repeat' (first | apply checkByWord_keeps | apply atSlot_keeps)

theorem engWrite_keeps (e : EngId) (k : BitVec 3) (rs : List WordRef) (l : List (BitVec 4)) : Keeps (engWrite e k rs l : M Unit) := by
  unfold engWrite
  with_reducible repeat' (first | apply atSlot_keeps | apply engStore_keeps | apply Keeps.eachL | intro _)

theorem engPart_keeps (e : EngId) (p : ChProg) (k : BitVec 3) (da : DAddr) (w : WAddr × BitVec 18) : Keeps (engPart e p k da w : M (List (BitVec 4))) := by
  unfold engPart
  with_reducible repeat' (first
    | apply checkWord_keeps | apply passTests_keeps | apply engLoad_keeps | exact Keeps.pure _ | apply Keeps.bind | intro _)

theorem engField_keeps (e : EngId) (p : ChProg) (k : BitVec 3) (da : DAddr) (n : Nat) : Keeps (engField e p k da n : M (List (BitVec 4))) := by
  unfold engField
  with_reducible repeat' (first | apply atSlot_keeps | apply engPart_keeps | exact Keeps.pure _ | apply Keeps.mapL | apply Keeps.bind | intro _)

theorem engWord_keeps (e : EngId) (p : ChProg) (k : BitVec 3) (da : DAddr) : Keeps (engWord e p k da : M Word) := by
  unfold engWord
  with_reducible repeat' (first | apply engField_keeps | exact Keeps.pure _ | apply Keeps.bind | intro _)


/-! ## DecStore -/

theorem memDec_keeps (op : Nat) (da : DAddr) (l : List (BitVec 4)) : Keeps (memDec op da l : M Dec) := by
  unfold memDec
  with_reducible repeat' (first | exact Keeps.pure _ | exact Keeps.raise _ | split)

theorem scaleCount_keeps (n : CoreId) : Keeps (scaleCount n : M Int) := by
  unfold scaleCount
  with_reducible repeat' (first | exact Keeps.pure _ | exact Keeps.gr _ _ | exact Keeps.require _ _ | apply Keeps.bind | intro _)

theorem packedOperands_keeps (n : CoreId) (f : FmtS) (acc : Acc) (need : BitVec 12) (read1 : Bool) : Keeps (packedOperands n f acc need read1 : M (List WordRef × Dec × Dec)) := by
  unfold packedOperands
  with_reducible repeat' (first
    | apply loadField_keeps | apply sEA1_keeps | apply sEA2_keeps | apply operand_keeps | apply memDec_keeps | exact Keeps.pure _
    | apply Keeps.bind | apply Keeps.ite | intro _)

theorem writeDec_keeps (n : CoreId) (f : FmtS) (r1 : List WordRef) (neg : Bool) (num den : Nat) : Keeps (writeDec n f r1 neg num den : M Next) := by
  unfold writeDec
  with_reducible repeat' (first
    | apply storeField_keeps | exact Keeps.pure _ | exact Keeps.getCore _ | exact Keeps.modCore _ _ | apply Keeps.bind | intro _)

theorem chargeScale_keeps (n : CoreId) (k : Int) : Keeps (chargeScale n k : M Unit) := by
  unfold chargeScale
  with_reducible repeat' (first | exact Keeps.pure _ | exact Keeps.modCore _ _ | apply Keeps.ite)

theorem decSumM_keeps (n : CoreId) (f : FmtS) (minus : Bool) : Keeps (decSumM n f minus : M Next) := by
  unfold decSumM
  with_reducible repeat' (first
    | apply scaleCount_keeps | apply packedOperands_keeps | apply writeDec_keeps | apply chargeScale_keeps | exact Keeps.require _ _
    | apply Keeps.bind | intro _)

theorem evenStart_keeps (da : DAddr) : Keeps (evenStart da : M Unit) := by
  unfold evenStart
  with_reducible repeat' (apply aligned_keeps)

theorem cvtxIn_keeps (n : CoreId) (f : FmtS) (sc : Nat) : Keeps (cvtxIn n f sc : M Next) := by
  unfold cvtxIn
  with_reducible repeat' (first
    | apply loadField_keeps | apply storeField_keeps | apply sEA1_keeps | apply sEA2_keeps | apply operand_keeps | apply evenStart_keeps
    | exact Keeps.pure _ | exact Keeps.getCore _ | exact Keeps.modCore _ _ | exact Keeps.require _ _ | apply Keeps.bind | intro _ | split)

theorem cvtxOut_keeps (n : CoreId) (f : FmtS) (sc : Nat) : Keeps (cvtxOut n f sc : M Next) := by
  unfold cvtxOut
  with_reducible repeat' (first
    | apply loadField_keeps | apply storeField_keeps | apply sEA1_keeps | apply sEA2_keeps | apply operand_keeps | apply memDec_keeps
    | apply evenStart_keeps | exact Keeps.pure _ | exact Keeps.modCore _ _ | exact Keeps.require _ _ | apply Keeps.bind | intro _)


/-! ## Strings -/

theorem stringTests_keeps (n : CoreId) (pr : PassId) (need : BitVec 12) (a : Acc) (da : DAddr) (len : Nat) : Keeps (stringTests n pr need a da len : M Unit) := by
  unfold stringTests
  with_reducible repeat' (first | apply passTests_keeps | exact Keeps.pure _ | exact Keeps.getCore _ | apply Keeps.bind | apply Keeps.ite | intro _)

theorem freshStart_keeps (n : CoreId) (f : FmtS) (k : LongKind) (g2 : BitVec 64) : Keeps (freshStart n f k g2 : M Prog) := by
  unfold freshStart
  with_reducible repeat' (first
    | apply sEA1_keeps | apply sEA2_keeps | apply evenStart_keeps | apply stringTests_keeps | exact Keeps.pure _ | exact Keeps.gr _ _
    | exact Keeps.require _ _ | apply Keeps.bind | intro _ | split)

theorem resumeStart_keeps (n : CoreId) (f : FmtS) (k : LongKind) (g2 : BitVec 64) : Keeps (resumeStart n f k g2 : M Prog) := by
  unfold resumeStart
  with_reducible repeat' (first
    | apply stringTests_keeps | exact Keeps.pure _ | exact Keeps.gr _ _ | exact Keeps.require _ _ | apply Keeps.bind | apply Keeps.ite
    | intro _)

theorem longBody_keeps (n : CoreId) (f : FmtS) (k : LongKind) (unit : Option LongHold → Prog → M UnitEnd) (hunit : ∀ x0 x1, Keeps (unit x0 x1)) : Keeps (longBody n f k unit : M Next) := by
  unfold longBody
  with_reducible repeat' (first
    | apply hunit | apply freshStart_keeps | apply resumeStart_keeps | exact Keeps.pure _ | exact Keeps.getCore _ | exact Keeps.gr _ _
    | exact Keeps.modCore _ _ | exact Keeps.require _ _ | apply Keeps.bind | intro _ | split)

theorem unitRefs_keeps (n : CoreId) (stream : Fin 3) (pr : PassId) (a : Acc) (da : DAddr) (len : Nat) : Keeps (unitRefs n stream pr a da len : M (List WordRef)) := by
  unfold unitRefs
  with_reducible repeat' (first | apply checkWord_keeps | exact Keeps.getCore _ | apply Keeps.mapL | apply Keeps.bind | intro _)

theorem readOp2_keeps (n : CoreId) (pr : PassId) (da : DAddr) (held : Option (WAddr × Word)) (w : WAddr × BitVec 18) : Keeps (readOp2 n pr da held w : M Word) := by
  unfold readOp2
  with_reducible repeat' (first
    | apply checkWord_keeps | apply loadRef_keeps | exact Keeps.pure _ | exact Keeps.getCore _ | apply Keeps.bind | intro _ | split)

theorem unitWords_keeps (n : CoreId) (pr : PassId) (held : Option (WAddr × Word)) (da : DAddr) (len : Nat) : Keeps (unitWords n pr held da len : M (List ((WAddr × Word) × List (BitVec 4)))) := by
  unfold unitWords
  with_reducible repeat' (first | apply readOp2_keeps | exact Keeps.pure _ | apply Keeps.mapL | apply Keeps.bind | intro _)

theorem unitRead_keeps (n : CoreId) (pr : PassId) (da : DAddr) (len : Nat) : Keeps (unitRead n pr da len : M (List (BitVec 4))) := by
  unfold unitRead
  with_reducible repeat' (first | apply unitWords_keeps | exact Keeps.pure _ | apply Keeps.bind | intro _)

theorem mvsUnit_keeps (n : CoreId) (f : FmtS) (held : Option LongHold) (p : Prog) : Keeps (mvsUnit n f held p : M UnitEnd) := by
  unfold mvsUnit
  with_reducible repeat' (first
    | apply storeField_keeps | apply unitRefs_keeps | apply unitWords_keeps | exact Keeps.pure _ | apply Keeps.bind | intro _)

theorem clsUnit_keeps (n : CoreId) (f : FmtS) (held : Option LongHold) (p : Prog) : Keeps (clsUnit n f held p : M UnitEnd) := by
  unfold clsUnit
  with_reducible repeat' (first
    | apply loadField_keeps | apply unitRefs_keeps | apply unitWords_keeps | exact Keeps.pure _ | apply Keeps.bind | intro _ | dsimp only
    | split)

theorem lookup_keeps (n : CoreId) (f : FmtS) (table : DAddr) (v : BitVec 8) : Keeps (lookup n f table v : M (BitVec 8)) := by
  unfold lookup
  with_reducible repeat' (first | apply unitRead_keeps | exact Keeps.pure _ | apply Keeps.bind | intro _)

theorem trxUnit_keeps (n : CoreId) (f : FmtS) (u2 : Option LongHold) (p : Prog) : Keeps (trxUnit n f u2 p : M UnitEnd) := by
  unfold trxUnit
  with_reducible repeat' (first
    | apply loadField_keeps | apply storeField_keeps | apply unitRefs_keeps | apply lookup_keeps | exact Keeps.pure _ | apply Keeps.mapL
    | apply Keeps.bind | intro _)

theorem scanTable_keeps (n : CoreId) (f : FmtS) (table : DAddr) (l : List (BitVec 8)) (i : Nat) : Keeps (scanTable n f table l i) := by
  induction l generalizing i with
  | nil => exact Keeps.pure _
  | cons v r ih => exact Keeps.bind (lookup_keeps _ _ _ _) fun _ => Keeps.ite (Keeps.pure _) (ih _)

theorem tscUnit_keeps (n : CoreId) (f : FmtS) (u2 : Option LongHold) (p : Prog) : Keeps (tscUnit n f u2 p : M UnitEnd) := by
  unfold tscUnit
  with_reducible repeat' (first
    | apply loadField_keeps | apply unitRefs_keeps | apply scanTable_keeps | exact Keeps.pure _ | apply Keeps.bind | intro _ | split)

theorem scdUnit_keeps (n : CoreId) (f : FmtS) (u2 : Option LongHold) (p : Prog) : Keeps (scdUnit n f u2 p : M UnitEnd) := by
  unfold scdUnit
  with_reducible repeat' (first | apply loadField_keeps | apply unitRefs_keeps | exact Keeps.pure _ | apply Keeps.bind | intro _ | dsimp only | split)

theorem vdgUnit_keeps (n : CoreId) (f : FmtS) (u2 : Option LongHold) (p : Prog) : Keeps (vdgUnit n f u2 p : M UnitEnd) := by
  unfold vdgUnit
  with_reducible repeat' (first | apply loadField_keeps | apply unitRefs_keeps | exact Keeps.pure _ | apply Keeps.bind | intro _ | split)

theorem readAgain_keeps (n : CoreId) (pr : PassId) (da : DAddr) (held : Option (WAddr × Word)) (w : WAddr × BitVec 18) : Keeps (readAgain n pr da held w : M Word) := by
  unfold readAgain
  with_reducible repeat' (first
    | apply readOp2_keeps | exact Keeps.pure _ | exact Keeps.getCore _ | exact Keeps.modCore _ _ | apply Keeps.bind | apply Keeps.ite
    | intro _)

theorem readSource_keeps (n : CoreId) (f : FmtS) (a2 : DAddr) (k : Nat) (ws : List (WAddr × BitVec 18)) (held : Option (WAddr × Word))
    (l : List (BitVec 4)) : Keeps (readSource n f a2 k ws held l) := by
  induction ws generalizing held l with
  | nil => exact Keeps.pure _
  | cons w r ih =>
    unfold readSource
    refine Keeps.bind (readAgain_keeps _ _ _ _ _) fun x => ?_
    dsimp only
    split
    · exact Keeps.raise _
    · exact ih _ _

theorem countPlaces_keeps (n : CoreId) (f : FmtS) (fuel : Nat) (here : List (BitVec 8)) (da : DAddr) (left k : Nat) :
    Keeps (countPlaces n f fuel here da left k) := by
  induction fuel generalizing here da left k with
  | zero => exact Keeps.pure _
  | succ fuel ih =>
    unfold countPlaces
    split
    · exact Keeps.pure _
    · exact Keeps.ite (Keeps.pure _) (Keeps.bind (unitRefs_keeps _ _ _ _ _ _) fun _ => Keeps.bind (loadField_keeps _ _) fun _ => ih _ _ _ _)

theorem openField_keeps (n : CoreId) (f : FmtS) (e : EditSt) (k : Nat) : Keeps (openField n f e k) :=
  Keeps.ite (Keeps.pure _) (Keeps.bind (Keeps.require _ _) fun _ => Keeps.bind (readSource_keeps _ _ _ _ _ _ _) fun _ => Keeps.pure _)

theorem editOctet_keeps (e : EditSt) (mark : Bool) (o : BitVec 8) (at_ : DAddr) : Keeps (editOctet e mark o at_ : M (EditSt × BitVec 8)) := by
  unfold editOctet
  with_reducible repeat' (first | exact Keeps.pure _ | exact Keeps.raise _ | split)

theorem editRun_keeps (n : CoreId) (f : FmtS) (mark : Bool) (next : DAddr) (left : Nat) (l : List (BitVec 8)) (da : DAddr) (e : EditSt)
    (out : List (BitVec 8)) : Keeps (editRun n f mark next left l da e out) := by
  induction l generalizing da e out with
  | nil => exact Keeps.pure _
  | cons o r ih =>
    unfold editRun
    dsimp only
    with_reducible repeat' (first | apply ih | apply countPlaces_keeps | apply openField_keeps | apply editOctet_keeps | apply Keeps.bind | exact Keeps.pure _ | intro _ | split)

theorem editUnit_keeps (n : CoreId) (f : FmtS) (mark : Bool) (held : Option LongHold) (p : Prog) : Keeps (editUnit n f mark held p : M UnitEnd) := by
  unfold editUnit
  with_reducible repeat' (first
    | apply loadField_keeps | apply storeField_keeps | apply unitRefs_keeps | apply readSource_keeps | apply editRun_keeps
    | exact Keeps.pure _ | apply Keeps.bind | apply Keeps.ite | intro _ | split)


/-! ## Ccw -/

theorem ccwChecks_keeps (p : ChProg) (w : Word) : Keeps (ccwChecks p w : M Unit) := by
  unfold ccwChecks
  with_reducible repeat' (first
    | apply regAddr_keeps | exact Keeps.pure _ | exact Keeps.require _ _ | apply Keeps.eachL | apply Keeps.bind | apply Keeps.ite | intro _)

theorem State.chDone_kept {z : State} {s : State} (e : EngId) (p : ChProg) (w : Word) (cc : BitVec 2) (next : WAddr) (hs : Kept z s) : Kept z (State.chDone s e p w cc next) := by
  unfold State.chDone
  with_reducible repeat' (first | assumption | apply State.updEng_kept)

theorem nextCcw_keeps (e : EngId) (p : ChProg) (w : Word) (cc : BitVec 2) : Keeps (nextCcw e p w cc : M Unit) := by
  unfold nextCcw
  with_reducible repeat' (first | apply State.chDone_kept | (apply Keeps.upd; intro _) | exact Kept.refl _)

theorem lateCheck_keeps (e : EngId) (p : ChProg) (w : Word) : Keeps (lateCheck e p w : M Unit) := by
  unfold lateCheck
  with_reducible repeat' (first
    | apply State.updEng_kept | apply State.setProg_kept | exact Keeps.pure _ | exact Keeps.raise _ | exact Keeps.get
    | (apply Keeps.upd; intro _) | apply Keeps.bind | exact Kept.refl _ | intro _ | split)

theorem endCcw_keeps (e : EngId) (p : ChProg) (w : Word) (cc : BitVec 2) : Keeps (endCcw e p w cc : M Unit) := by
  unfold endCcw
  with_reducible repeat' (first
    | apply State.setProg_kept | apply State.engReadBack_kept | apply nextCcw_keeps | apply lateCheck_keeps | exact Keeps.get
    | exact Keeps.require _ _ | (apply Keeps.upd; intro _) | apply Keeps.bind | exact Kept.refl _ | apply Keeps.ite | intro _)

theorem ccwFetch_keeps (e : EngId) (p : ChProg) : Keeps (ccwFetch e p : M Word) := by
  unfold ccwFetch
  with_reducible repeat' (first
    | apply atSlot_keeps | apply engLoad_keeps | apply engRefs_keeps | exact Keeps.pure _ | apply Keeps.mapL | apply Keeps.bind | intro _)

theorem State.afterUnit_kept {z : State} {s : State} (e : EngId) (p : ChProg) (r : EStateM.Result Stop State Unit) (h : Kept z s)
    (k : Kept z (leftBy r)) : Kept z (s.afterUnit e p r) := by
  unfold State.afterUnit
  split
  · exact State.haltPoint_kept _ k
  · exact k
  · split
    · exact State.chFault_kept _ _ _ k
    · exact h

theorem State.runCcw_kept {z : State} {s : State} (e : EngId) (k : Nat) (body : ChProg → Word → M Unit) (h : Kept z s)
    (hb : ∀ p w, Keeps (body p w)) : Kept z (s.runCcw e k body) := by
  unfold State.runCcw
  split
  · exact h
  · split
    · exact State.haltPoint_kept _ h
    · split
      · split
        · exact State.afterUnit_kept _ _ _ h ((Keeps.bind (lateCheck_keeps _ _ _) fun _ => hb _ _).left h)
        · exact h
      · split
        · exact State.afterUnit_kept _ _ _ h ((ccwFetch_keeps _ _).error ‹_› h)
        · have ht := (ccwFetch_keeps _ _).ok ‹_› h
          split
          · exact State.afterUnit_kept _ _ _ h ht
          · split
            · exact h
            · exact State.afterUnit_kept _ _ _ h ((Keeps.bind (ccwChecks_keeps _ _) fun _ =>
                Keeps.bind (Keeps.upd fun _ => State.setProg_kept _ _ (Kept.refl _)) fun _ => hb _ _).left ht)

theorem rejectCopy_keeps (e : EngId) (p : ChProg) : Keeps (rejectCopy e p) := by
  intro s
  have h := (Keeps.bind (regAddr_keeps (p.reg (bits p.w0 60 4))) fun da => engField_keeps e p 1 da 72) s
  unfold rejectCopy stateOf at *
  cases e1 : (regAddr (p.reg (bits p.w0 60 4)) >>= fun da => engField e p 1 da 72) s with
  | ok a t => rw [e1] at h; dsimp only; rw [e1]; exact h
  | error x t => rw [e1] at h; dsimp only; rw [e1]; cases x <;> exact h

theorem State.forget_kept {z : State} {s : State} (e : EngId) (hs : Kept z s) : Kept z (State.forget s e) := by
  unfold State.forget
  with_reducible repeat' (first | assumption | apply State.updEng_kept)

theorem writeReject_keeps (e : EngId) (p : ChProg) (r : ChReject) : Keeps (writeReject e p r : M (Option (List WAddr))) := by
  unfold writeReject
  with_reducible repeat' (first
    | apply engRefs_keeps | apply engWrite_keeps | apply engWord_keeps | apply rejectCopy_keeps | apply State.forget_kept
    | exact Keeps.pure _ | exact Keeps.get | (apply Keeps.upd; intro _) | apply Keeps.bind | exact Kept.refl _ | apply Keeps.ite | intro _)

theorem rejectStored_keeps (e : EngId) (pas : List WAddr) : Keeps (rejectStored e pas : M Bool) := by
  unfold rejectStored
  with_reducible repeat' (first
    | apply State.engReadBack_kept | exact Keeps.pure _ | exact Keeps.raise _ | exact Keeps.get | (apply Keeps.upd; intro _)
    | apply Keeps.bind | exact Kept.refl _ | intro _ | dsimp only | split)

theorem rejected_keeps (e : EngId) (p : ChProg) (r : ChReject) : Keeps (rejected e p r : M Unit) := by
  unfold rejected
  with_reducible repeat' (first
    | apply State.updEng_kept | apply State.chEvent_kept | apply State.setProg_kept | apply nextCcw_keeps | apply endCcw_keeps
    | exact Keeps.get | (apply Keeps.upd; intro _) | apply Keeps.bind | exact Kept.refl _ | intro _ | dsimp only | split)

theorem tryReject_keeps (e : EngId) (p : ChProg) (r : ChReject) : Keeps (tryReject e p r : M Unit) := by
  unfold tryReject
  with_reducible repeat' (first
    | apply State.chEvent_kept | apply State.setProg_kept | apply writeReject_keeps | apply rejectStored_keeps | apply rejected_keeps
    | exact Keeps.pure _ | (apply Keeps.upd; intro _) | apply Keeps.bind | exact Kept.refl _ | intro _ | dsimp only | split)

theorem State.afterReject_kept {z : State} {s : State} (e : EngId) (p : ChProg) (x : EStateM.Result Stop State Unit)
    (h : Kept z s) (k : Kept z (leftBy x)) : Kept z (s.afterReject e p x) := by
  unfold State.afterReject
  split
  · exact Kept.ite (State.chFault_kept _ _ _ (State.updEng_kept _ _ k)) h
  · exact State.afterUnit_kept _ _ _ h k

theorem unitDone_keeps (e : EngId) (p : ChProg) (n elem : Nat) (inElem : Option ListElem) : Keeps (unitDone e p n elem inElem : M ChProg) := by
  unfold unitDone
  with_reducible repeat' (first
    | apply State.updEng_kept | apply State.setProg_kept | apply State.forget_kept | exact Keeps.pure _ | (apply Keeps.upd; intro _)
    | apply Keeps.bind | exact Kept.refl _ | intro _)

theorem moveUnit_keeps (e : EngId) (p : ChProg) (w : Word) : Keeps (moveUnit e p w : M Unit) := by
  unfold moveUnit
  with_reducible repeat' (first
    | apply engRefs_keeps | apply engWrite_keeps | apply engField_keeps | apply endCcw_keeps | apply unitDone_keeps | exact Keeps.pure _
    | apply Keeps.bind | apply Keeps.ite | intro _ | split)

theorem descriptor_keeps (e : EngId) (p : ChProg) (k : BitVec 3) (list : DAddr) (i : Nat) : Keeps (descriptor e p k list i : M (Nat × DAddr)) := by
  unfold descriptor
  with_reducible repeat' (first
    | apply regAddr_keeps | apply atSlot_keeps | apply engWord_keeps | exact Keeps.pure _ | exact Keeps.require _ _ | apply Keeps.bind
    | intro _)

theorem elemInHand_keeps (e : EngId) (p : ChProg) (k : BitVec 3) (list : DAddr) : Keeps (elemInHand e p k list : M ListElem) := by
  unfold elemInHand
  with_reducible repeat' (first | apply engWord_keeps | exact Keeps.pure _ | apply Keeps.mapL | apply Keeps.bind | intro _ | split)

theorem ListElem.reach_keeps (e : EngId) (p : ChProg) (k : BitVec 3) (list : DAddr) (i : Nat) (x : ListElem) : Keeps (ListElem.reach e p k list i x : M (Nat × DAddr)) := by
  unfold ListElem.reach
  with_reducible repeat' (first | apply descriptor_keeps | exact Keeps.pure _ | split)

theorem gatherFrom_keeps (e : EngId) (p : ChProg) (k : BitVec 3) (list : DAddr) (n fuel m i : Nat) (x : ListElem) :
    Keeps (gatherFrom e p k list n fuel m i x) := by
  induction fuel generalizing m i x with
  | zero => exact Keeps.pure _
  | succ f ih =>
    unfold gatherFrom
    exact Keeps.ite (Keeps.pure _) (Keeps.bind (ListElem.reach_keeps _ _ _ _ _ _) fun _ => Keeps.bind (engField_keeps _ _ _ _ _) fun _ =>
      Keeps.bind (ih _ _ _) fun _ => Keeps.pure _)

theorem gatherUnit_keeps (e : EngId) (p : ChProg) (w : Word) : Keeps (gatherUnit e p w : M Unit) := by
  unfold gatherUnit
  with_reducible repeat' (first
    | apply engRefs_keeps | apply engWrite_keeps | apply endCcw_keeps | apply unitDone_keeps | apply elemInHand_keeps
    | apply gatherFrom_keeps | exact Keeps.pure _ | apply Keeps.bind | intro _ | split)

theorem scatterUnit_keeps (e : EngId) (p : ChProg) (w : Word) : Keeps (scatterUnit e p w : M Unit) := by
  unfold scatterUnit
  with_reducible repeat' (first
    | apply engRefs_keeps | apply engWrite_keeps | apply engField_keeps | apply endCcw_keeps | apply unitDone_keeps | apply elemInHand_keeps
    | apply ListElem.reach_keeps | exact Keeps.pure _ | apply Keeps.bind | apply Keeps.ite | intro _ | split)

theorem convertUnit_keeps (e : EngId) (p : ChProg) (w : Word) : Keeps (convertUnit e p w : M Unit) := by
  unfold convertUnit
  with_reducible repeat' (first
    | apply State.raiseBad_kept | apply engRefs_keeps | apply engWrite_keeps | apply engField_keeps | apply endCcw_keeps
    | apply State.forget_kept | apply tryReject_keeps | exact Keeps.raise _ | exact Keeps.get | (apply Keeps.upd; intro _)
    | apply Keeps.bind | exact Kept.refl _ | intro _ | split)

theorem validateUnit_keeps (e : EngId) (p : ChProg) (w : Word) : Keeps (validateUnit e p w : M Unit) := by
  unfold validateUnit
  with_reducible repeat' (first
    | apply engField_keeps | apply nextCcw_keeps | apply endCcw_keeps | apply State.forget_kept | apply tryReject_keeps
    | (apply Keeps.upd; intro _) | apply Keeps.bind | exact Kept.refl _ | intro _ | split)

theorem buildPostUnit_keeps (e : EngId) (p : ChProg) (w : Word) : Keeps (buildPostUnit e p w : M Unit) := by
  unfold buildPostUnit
  with_reducible repeat' (first
    | apply State.updEng_kept | apply State.submit_kept | apply vecRefs_keeps | apply State.setProg_kept | apply atSlot_keeps
    | apply engLoad_keeps | apply engStore_keeps | apply nextCcw_keeps | exact Keeps.pure _ | exact Keeps.get | exact Keeps.require _ _
    | (apply Keeps.upd; intro _) | apply Keeps.mapL | apply Keeps.eachL | apply Keeps.bind | exact Kept.refl _
    | (apply Keeps.modifyGet; intro _) | intro _ | split)

theorem State.postsRefused_kept {z : State} {s : State} (e : EngId) (p : ChProg) (hs : Kept z s) : Kept z (State.postsRefused s e p) := by
  unfold State.postsRefused
  with_reducible repeat' (first | assumption | apply State.updEng_kept | apply State.chFault_kept | split)

theorem exportTests_keeps (e : EngId) (p : ChProg) (w : Word) (k : Nat) : Keeps (exportTests e p w k : M (BitVec 64)) := by
  unfold exportTests
  with_reducible repeat' (first
    | apply engRefs_keeps | exact Keeps.pure _ | exact Keeps.raise _ | exact Keeps.get | exact Keeps.require _ _ | apply Keeps.eachL
    | apply Keeps.bind | intro _ | split)

theorem exportBatch_keeps (e : EngId) (p : ChProg) (w : Word) (k n : Nat) : Keeps (exportBatch e p w k n : M Unit) := by
  unfold exportBatch
  with_reducible repeat' (first
    | apply State.updEng_kept | apply engLoad_keeps | apply engRefs_keeps | apply engWrite_keeps | exact Keeps.get
    | (apply Keeps.upd; intro _) | apply Keeps.eachL | apply Keeps.bind | exact Kept.refl _ | intro _ | apply Kept.set)

theorem State.watchAck_kept {z : State} {s : State} (e : EngId) (addr : BitVec 64) (hs : Kept z s) : Kept z (State.watchAck s e addr) := by
  unfold State.watchAck
  with_reducible repeat' (first | assumption | apply Kept.set)

theorem exportEnd_keeps (e : EngId) (p : ChProg) (w : Word) (cc : BitVec 2) : Keeps (exportEnd e p w cc : M Unit) := by
  unfold exportEnd
  with_reducible repeat' (first | apply endCcw_keeps | (apply Keeps.upd; intro _) | apply Keeps.bind | exact Kept.refl _ | intro _ | apply Kept.set)

theorem exportUnit_keeps (e : EngId) (p : ChProg) (w : Word) : Keeps (exportUnit e p w : M Unit) := by
  unfold exportUnit
  with_reducible repeat' (first
    | apply State.setProg_kept | apply State.forget_kept | apply exportTests_keeps | apply exportBatch_keeps | apply State.watchAck_kept
    | apply exportEnd_keeps | exact Keeps.pure _ | exact Keeps.get | exact Keeps.require _ _ | (apply Keeps.upd; intro _) | apply Keeps.bind
    | exact Kept.refl _ | apply Keeps.ite | intro _ | split)

theorem waitCreditUnit_keeps (e : EngId) (p : ChProg) (w : Word) : Keeps (waitCreditUnit e p w : M Unit) := by
  unfold waitCreditUnit
  with_reducible repeat' (first
    | apply State.updEng_kept | apply State.setProg_kept | apply nextCcw_keeps | exact Keeps.pure _ | exact Keeps.get
    | (apply Keeps.upd; intro _) | apply Keeps.bind | exact Kept.refl _ | apply Keeps.ite | intro _)


/-! ## Host -/

theorem State.hiEvt_kept {z : State} {s : State} (k : Nat) (hs : Kept z s) : Kept z (State.hiEvt s k) := by
  unfold State.hiEvt
  with_reducible repeat' (first | assumption | apply State.raise_kept | apply Kept.set)

theorem State.qpEvt_kept {z : State} {s : State} (q : QpId) (k : Nat) (hs : Kept z s) : Kept z (State.qpEvt s q k) := by
  unfold State.qpEvt
  with_reducible repeat' (first | assumption | apply State.updQp_kept | apply State.raise_kept)

theorem State.barErr_kept {z : State} {s : State} (hs : Kept z s) : Kept z (State.barErr s) := by
  unfold State.barErr
  with_reducible repeat' (first | assumption | apply State.hiEvt_kept | apply Kept.set)

theorem State.dmaErr_kept {z : State} {s : State} (hs : Kept z s) : Kept z (State.dmaErr s) := by
  unfold State.dmaErr
  with_reducible repeat' (first | assumption | apply State.hiEvt_kept | apply Kept.set)

theorem State.watchWord_kept {z : State} {s : State} (w : Watched) (addr : BitVec 64) (want : Bool) (hs : Kept z s) : Kept z (State.watchWord s w addr want) := by
  unfold State.watchWord
  with_reducible repeat' (first | assumption | apply Kept.ite | apply Kept.set)

theorem State.settleWatch_kept {z : State} {s : State} (q : QpId) (hs : Kept z s) : Kept z (State.settleWatch s q) := by
  unfold State.settleWatch
  with_reducible repeat' (first | assumption | apply State.qpEvt_kept | apply State.watchWord_kept | apply Kept.ite)

theorem State.failQp_kept {z : State} {s : State} (q : QpId) (code : BitVec 8) (hs : Kept z s) : Kept z (State.failQp s q code) := by
  unfold State.failQp
  with_reducible repeat' (first
    | assumption | apply State.updQp_kept | apply State.hiEvt_kept | apply State.qpEvt_kept | apply State.settleWatch_kept | apply Kept.ite)

theorem State.readsBinding_kept {z : State} {s : State} (q : QpId) (hs : Kept z s) : Kept z (State.readsBinding s q) := by
  unfold State.readsBinding
  with_reducible repeat' (first | assumption | apply State.raiseBadIn_kept | apply Kept.ite)

theorem State.qpStart_kept {z : State} {s : State} (q : QpId) (hs : Kept z s) : Kept z (State.qpStart s q) := by
  unfold State.qpStart
  with_reducible repeat' (first
    | assumption | apply State.updQp_kept | apply State.settleWatch_kept | apply State.failQp_kept | apply State.readsBinding_kept
    | apply Kept.ite)

theorem State.qpDrained_kept {z : State} {s : State} (q : QpId) (hs : Kept z s) : Kept z (State.qpDrained s q) := by
  unfold State.qpDrained
  with_reducible repeat' (first | assumption | apply State.updQp_kept | apply State.settleWatch_kept | apply State.qpStart_kept | apply Kept.ite)

theorem State.setEn_kept {z : State} {s : State} (q : QpId) (en : Bool) (hs : Kept z s) : Kept z (State.setEn s q en) := by
  unfold State.setEn
  with_reducible repeat' (first
    | assumption | apply State.updQp_kept | apply State.settleWatch_kept | apply State.qpStart_kept | apply State.qpDrained_kept
    | apply Kept.ite)

theorem State.takeSq_kept {z : State} {s : State} (q : QpId) (t : Nat) (hs : Kept z s) : Kept z (State.takeSq s q t) := by
  unfold State.takeSq
  with_reducible repeat' (first | assumption | apply State.updQp_kept | apply State.addCredit_kept | apply State.failQp_kept | dsimp only | split)

theorem State.takeCq_kept {z : State} {s : State} (q : QpId) (h : Nat) (hs : Kept z s) : Kept z (State.takeCq s q h) := by
  unfold State.takeCq
  with_reducible repeat' (first | assumption | apply State.updQp_kept | apply State.settleWatch_kept | apply State.failQp_kept | apply Kept.ite)

theorem State.pollResult_kept {z : State} {s : State} (x : WatchEnt) (hs : Kept z s) : Kept z (State.pollResult s x) := by
  unfold State.pollResult
  with_reducible repeat' (first | assumption | apply State.ackWord_kept | apply State.takeSq_kept | apply State.takeCq_kept | split | apply Kept.set)

theorem State.addJob_kept {z : State} {s : State} (o : JobOrigin) (s0 s1 s2 s3 : Word) (hs : Kept z s) : Kept z (State.addJob s o s0 s1 s2 s3).2 := by
  unfold State.addJob
  with_reducible repeat' (first | assumption | apply Kept.set)

theorem State.jobResult_kept {z : State} (x : Job) (w : Word) (r : EStateM.Result Stop State Unit) (k : Kept z (leftBy r)) :
    Kept z (State.jobResult x w r) := by
  unfold State.jobResult
  split
  · exact k
  · exact k
  · dsimp only
    have := State.finishJob_kept x (State.faultStatus ‹State› ‹FaultInfo›).1 (State.faultStatus ‹State› ‹FaultInfo›).2 w k
    split
    · exact State.qpDrained_kept _ (State.settleWatch_kept _ this)
    · exact this

theorem State.jobOver_kept {z : State} {s : State} (x : Job) (status detail : BitVec 8) (result : Word) (hs : Kept z s) : Kept z (State.jobOver s x status detail result) := by
  unfold State.jobOver
  with_reducible repeat' (first | assumption | apply State.finishJob_kept | apply State.settleWatch_kept | apply State.qpDrained_kept | split)

theorem State.tallied_kept {z : State} {s : State} (x : Job) (t : Tally) (hs : Kept z s) : Kept z (State.tallied s x t) := by
  unfold State.tallied
  with_reducible repeat' (first | assumption | apply State.updJob_kept | apply State.jobOver_kept | apply Kept.ite)

theorem State.unitAnswer_kept {z : State} {s : State} (j : JobId) (status detail : BitVec 8) (result : Word) (hs : Kept z s) : Kept z (State.unitAnswer s j status detail result) := by
  unfold State.unitAnswer
  with_reducible repeat' (first | assumption | apply State.jobOver_kept | apply State.tallied_kept | split)

theorem State.jobEnd_kept {z : State} {s : State} (x : Job) (status detail : BitVec 8) (result : Word) (hs : Kept z s) : Kept z (State.jobEnd s x status detail result) := by
  unfold State.jobEnd
  with_reducible repeat' (first | assumption | apply State.dropJob_kept | apply State.jobOver_kept | apply State.unitAnswer_kept | split)

theorem stageVector_keeps (b : Binding) (commit : Bool) (h : Nat) : Keeps (stageVector b commit h : M Unit) := by
  unfold stageVector
  with_reducible repeat' (first
    | apply State.putWord_kept | apply markChg_keeps | apply checkField_keeps | exact Keeps.get | exact Keeps.require _ _
    | (apply Keeps.upd; intro _) | apply Keeps.eachL | apply Keeps.bind | exact Kept.refl _ | intro _)

theorem jobPosting_keeps (x : Job) (b : Binding) (commit : Bool) : Keeps (jobPosting x b commit : M Unit) := by
  unfold jobPosting
  with_reducible repeat' (first
    | apply State.updJob_kept | apply State.submit_kept | apply readVector_keeps | apply readBlock_keeps | apply stageVector_keeps
    | exact Keeps.require _ _ | (apply Keeps.upd; intro _) | apply Keeps.bind | exact Kept.refl _ | apply Keeps.ite | intro _)

theorem State.issueJob_kept {z : State} {s : State} (j : JobId) (commit : Bool) (hs : Kept z s) : Kept z (State.issueJob s j commit) := by
  unfold State.issueJob
  with_reducible repeat' (first
    | assumption | apply State.jobResult_kept | apply State.jobEnd_kept | apply jobPosting_keeps | apply Keeps.left | split)

theorem jobWord_keeps (x : Job) (b : Binding) (a : Acc) (need : BitVec 12) : Keeps (jobWord x b a need : M WordRef) := by
  unfold jobWord
  with_reducible repeat' (first
    | apply checkField_keeps | exact Keeps.pure _ | exact Keeps.raise _ | exact Keeps.require _ _ | apply Keeps.bind | intro _ | split)

theorem moveWord_keeps (x : Job) (b : Binding) (write : Bool) : Keeps (moveWord x b write : M Unit) := by
  unfold moveWord
  with_reducible repeat' (first
    | apply State.putWord_kept | apply Kept.putHostOctets | apply State.putHostPadded_kept | apply State.raiseBad_kept
    | apply State.startHeal_kept | apply markChg_keeps | apply State.updJob_kept | apply jobWord_keeps | exact Keeps.throw _
    | exact Keeps.raise _ | exact Keeps.get | (apply Keeps.upd; intro _) | apply Keeps.bind | exact Kept.refl _ | apply Kept.ite
    | apply Keeps.ite | intro _)

theorem State.moveJob_kept {z : State} {s : State} (j : JobId) (write : Bool) (hs : Kept z s) : Kept z (State.moveJob s j write) := by
  unfold State.moveJob
  with_reducible repeat' (first
    | assumption | apply State.updJob_kept | apply State.jobResult_kept | apply State.jobEnd_kept | apply moveWord_keeps | apply Kept.ite
    | apply Keeps.left | split | (refine Keeps.ok (m := ?_) ?_ ‹_› ?_))

theorem State.writeCompletion_kept {z : State} {s : State} (q : QpId) (hs : Kept z s) : Kept z (State.writeCompletion s q) := by
  unfold State.writeCompletion
  with_reducible repeat' (first
    | assumption | apply State.putHostPadded_kept | apply State.updQp_kept | apply State.settleWatch_kept | apply State.qpDrained_kept
    | apply Kept.ite | split)

theorem State.aptErr_kept {z : State} {s : State} (hs : Kept z s) : Kept z (State.aptErr s) := by
  unfold State.aptErr
  with_reducible repeat' (first | assumption | apply State.hiEvt_kept | apply State.dmaErr_kept)


/-! ## Fabric -/

theorem State.updLink_kept {z : State} {s : State} (l : Fin 8) (f : FabLink → FabLink) (hs : Kept z s) : Kept z (State.updLink s l f) := by
  unfold State.updLink
  with_reducible repeat' (first | assumption | apply Kept.set)

theorem State.linkDown_kept {z : State} {s : State} (l : Fin 8) (hs : Kept z s) : Kept z (State.linkDown s l) := by
  unfold State.linkDown
  with_reducible repeat' (first
    | assumption | apply State.setLbEvt_kept | apply State.route_kept | apply State.updLink_kept | apply Kept.ite
    | (apply Kept.foldl; intro _ _ _))

theorem State.trained_kept {z : State} {s : State} (l : Fin 8) (f : FarEnd) (hs : Kept z s) : Kept z (State.trained s l f) := by
  unfold State.trained
  with_reducible repeat' (first | assumption | apply State.setLbEvt_kept | apply State.updLink_kept | apply Kept.ite)

theorem State.received_kept {z : State} {s : State} (hs : Kept z s) : Kept z (State.received s) := by
  unfold State.received
  with_reducible repeat' (first | assumption | apply Kept.set)

theorem State.answered_kept {z : State} {s : State} (p : Packet) (type : BitVec 4) (hs : Kept z s) : Kept z (State.answered s p type).2 := by
  unfold State.answered
  with_reducible repeat' (first | assumption | dsimp only | split | apply Kept.set)

theorem State.loadAnswer_kept {z : State} {s : State} (f : ReqFor) (status : BitVec 8) (words : List Word) (hs : Kept z s) : Kept z (State.loadAnswer s f status words) := by
  unfold State.loadAnswer
  with_reducible repeat' (first | assumption | apply State.updCore_kept | apply State.updQuad_kept | apply State.updEng_kept | apply Kept.ite | split)

theorem State.storeAnswer_kept {z : State} {s : State} (f : ReqFor) (cause : BitVec 8) (hs : Kept z s) : Kept z (State.storeAnswer s f cause) := by
  unfold State.storeAnswer
  with_reducible repeat' (first | assumption | apply State.lateStore_kept | apply State.engStoreFailed_kept | split)

theorem State.undelivered_kept {z : State} {s : State} (f : ReqFor) (hs : Kept z s) : Kept z (State.undelivered s f) := by
  unfold State.undelivered
  with_reducible repeat' (first
    | assumption | apply State.setLbEvt_kept | apply State.unitAnswer_kept | apply State.loadAnswer_kept | apply State.storeAnswer_kept
    | split | apply Kept.set)

theorem State.sendTime_kept {z : State} {s : State} (t : BitVec 64) (pick : Fin 8 → Bool) (hs : Kept z s) : Kept z (State.sendTime s t pick) := by
  unfold State.sendTime
  with_reducible repeat' (first | assumption | apply State.emit_kept | apply Kept.ite | (apply Kept.foldl; intro _ _ _) | apply Kept.set)

theorem State.setReference_kept {z : State} {s : State} (ref : BitVec 64) (hs : Kept z s) : Kept z (State.setReference s ref) := by
  unfold State.setReference
  with_reducible repeat' (first | assumption | apply State.setLbEvt_kept | apply Kept.ite | apply Kept.set)


/-! ## Twin -/

theorem State.writeRole_kept {z : State} {s : State} (hs : Kept z s) : Kept z (State.writeRole s) := by
  unfold State.writeRole
  with_reducible repeat' (first | assumption | apply State.putWords_kept | apply Kept.ite | apply Kept.set)

theorem State.setRole_kept {z : State} {s : State} (r : BitVec 3) (hs : Kept z s) : Kept z (State.setRole s r) := by
  unfold State.setRole
  with_reducible repeat' (first | assumption | apply State.setWsEvt_kept | apply State.writeRole_kept | split | apply Kept.set)

theorem State.toRole_kept {z : State} {s : State} (r : BitVec 3) (hs : Kept z s) : Kept z (State.toRole s r) := by
  unfold State.toRole
  with_reducible repeat' (first | assumption | apply State.stopLeading_kept | apply State.setRole_kept | apply Kept.ite | apply Kept.set)

theorem State.sendAck_kept {z : State} {s : State} (hs : Kept z s) : Kept z (State.sendAck s) := by
  unfold State.sendAck
  with_reducible repeat' (first | assumption | apply State.sendBoth_kept)

theorem State.sendRecon_kept {z : State} {s : State} (hs : Kept z s) : Kept z (State.sendRecon s) := by
  unfold State.sendRecon
  with_reducible repeat' (first | assumption | apply State.sendBoth_kept | apply Kept.set)

theorem State.startRecon_kept {z : State} {s : State} (hs : Kept z s) : Kept z (State.startRecon s) := by
  unfold State.startRecon
  with_reducible repeat' (first | assumption | apply State.sendRecon_kept | apply Kept.ite)

theorem State.grantMsg_kept {z : State} {s : State} (dst : PairId) (side : Bool) (vc : BitVec 2) (kind : BitVec 4) (role : BitVec 3) (payload : List Word) (hs : Kept z s) : Kept z (State.grantMsg s dst side vc kind role payload) := by
  unfold State.grantMsg
  with_reducible repeat' (first | assumption | apply State.issue_kept | apply Kept.ite)

theorem State.sendGreq_kept {z : State} {s : State} (hs : Kept z s) : Kept z (State.sendGreq s) := by
  unfold State.sendGreq
  with_reducible repeat' (first | assumption | apply State.grantMsg_kept | apply Kept.set)

theorem State.quiet_kept {z : State} {s : State} (hs : Kept z s) : Kept z (State.quiet s) := by
  unfold State.quiet
  with_reducible repeat' (first | assumption | apply Kept.set)

theorem State.sendCopy_kept {z : State} {s : State} (hs : Kept z s) : Kept z (State.sendCopy s) := by
  unfold State.sendCopy
  with_reducible repeat' (first | assumption | apply State.pump_kept | apply Kept.set)

theorem State.twinDown_kept {z : State} {s : State} (l : Fin 2) (hs : Kept z s) : Kept z (State.twinDown s l) := by
  unfold State.twinDown
  with_reducible repeat' (first
    | assumption | apply State.setWsEvt_kept | apply State.updTwin_kept | apply State.pump_kept | apply State.sendCopy_kept | apply Kept.ite
    | apply Kept.set)

theorem State.replayTwin_kept {z : State} {s : State} (l : Fin 2) (hs : Kept z s) : Kept z (State.replayTwin s l) := by
  unfold State.replayTwin
  with_reducible repeat' (first | assumption | apply State.updTwin_kept | apply State.twinDown_kept | apply Kept.ite | apply Kept.set)

theorem State.frameIn_kept {z : State} {s : State} (l : Fin 2) (kind : BitVec 4) (fr : Frame) (hs : Kept z s) : Kept z (State.frameIn s l kind fr).1 := by
  unfold State.frameIn
  with_reducible repeat' (first
    | assumption | apply State.setWsEvt_kept | apply State.updTwin_kept | apply State.pump_kept | apply State.replayTwin_kept | dsimp only
    | split)

theorem State.renew_kept {z : State} {s : State} (hs : Kept z s) : Kept z (State.renew s) := by
  unfold State.renew
  with_reducible repeat' (first | assumption | apply Kept.set)

theorem State.termIn_kept {z : State} {s : State} (term : BitVec 48) (role : BitVec 3) (hs : Kept z s) : Kept z (State.termIn s term role).1 := by
  unfold State.termIn
  with_reducible repeat' (first | assumption | apply State.startRecon_kept | apply State.renew_kept | split)

theorem State.plainIn_kept {z : State} {s : State} (hs : Kept z s) : Kept z (State.plainIn s) := by
  unfold State.plainIn
  with_reducible repeat' (first | assumption | apply State.renew_kept | apply Kept.ite)

theorem State.takeTrailer_kept {z : State} {s : State} (r : Rec) (hs : Kept z s) : Kept z (State.takeTrailer s r) := by
  unfold State.takeTrailer
  with_reducible repeat' (first | assumption | apply Kept.set)

theorem State.takeTrailersOf_kept {z : State} {s : State} (l : List Rec) (h : Kept z s) : Kept z (s.takeTrailersOf l) := by
  induction l generalizing s with
  | nil => exact h
  | cons r l ih => exact Kept.ite (ih (State.takeTrailer_kept _ h)) h

theorem State.takeTrailers_kept {z : State} {s : State} (h : Kept z s) : Kept z s.takeTrailers := State.takeTrailersOf_kept _ h

theorem State.noteCopied_kept {z : State} {s : State} (pos : Nat) (hs : Kept z s) : Kept z (State.noteCopied s pos) := by
  unfold State.noteCopied
  with_reducible repeat' (first | assumption | apply State.addPrep_kept | apply State.dropPrep_kept | apply Kept.ite | split)

theorem State.takeRecords_kept {z : State} {s : State} (k : Nat) (h : Kept z s) : Kept z (s.takeRecords k) := by
  induction k generalizing s with
  | zero => exact h
  | succ k ih =>
    unfold State.takeRecords
    refine Kept.ite h ?_
    split
    · exact h
    · exact Kept.ite h (Kept.ite (Kept.ite (ih h.set) h) (Kept.ite (ih (State.noteCopied_kept _ (State.takeSeq_kept _ h.set).set)) h))

theorem State.applyTo_kept {z : State} {s : State} (h : BitVec 48) (hs : Kept z s) : Kept z (State.applyTo s h) := by
  unfold State.applyTo
  with_reducible repeat' (first | assumption | apply State.advance_kept | apply Kept.ite | (apply Kept.foldl; intro _ _ _) | apply Kept.set)

theorem State.wakeHeal_kept {z : State} {s : State} (pa : WAddr) (ok : Bool) (hs : Kept z s) : Kept z (State.wakeHeal s pa ok) := by
  unfold State.wakeHeal
  with_reducible repeat' (first | assumption | apply Kept.set)

theorem State.reapplyLegs_kept {z : State} {s : State} (h : BitVec 48) (off : Nat) (hs : Kept z s) : Kept z (State.reapplyLegs s h off) := by
  unfold State.reapplyLegs
  with_reducible repeat' (first | assumption | apply State.applyEnt_kept | apply Kept.ite | (apply Kept.foldl; intro _ _ _) | split)

theorem State.reapplyFilter_kept {z : State} {s : State} (h : BitVec 48) (slot : Nat) (hs : Kept z s) : Kept z (State.reapplyFilter s h slot) := by
  unfold State.reapplyFilter
  with_reducible repeat' (first | assumption | apply State.putNew_kept | apply Kept.ite | split)

theorem State.reapply_kept {z : State} {s : State} (h : BitVec 48) (off : Nat) (hs : Kept z s) : Kept z (State.reapply s h off) := by
  unfold State.reapply
  with_reducible repeat' (first | assumption | apply State.reapplyLegs_kept | apply State.reapplyFilter_kept | split)

theorem State.settleHeals_kept {z : State} {s : State} (hs : Kept z s) : Kept z (State.settleHeals s) := by
  unfold State.settleHeals
  with_reducible repeat' (first
    | assumption | apply State.putWords_kept | apply State.resumeLegs_kept | apply State.wakeHeal_kept | apply State.reapply_kept
    | (apply Kept.foldl; intro _ _ _) | split | apply Kept.set)

theorem State.failHeal_kept {z : State} {s : State} (off : BitVec 24) (hs : Kept z s) : Kept z (State.failHeal s off) := by
  unfold State.failHeal
  with_reducible repeat' (first | assumption | apply State.setWsEvt_kept | apply State.failLegs_kept | apply State.wakeHeal_kept | apply Kept.set)

theorem State.followerSynced_kept {z : State} {s : State} (hs : Kept z s) : Kept z (State.followerSynced s) := by
  unfold State.followerSynced
  with_reducible repeat' (first | assumption | apply State.setWsEvt_kept | apply State.writeRole_kept | apply Kept.ite | apply Kept.set)

theorem State.sourceSynced_kept {z : State} {s : State} (aseq : BitVec 48) (hs : Kept z s) : Kept z (State.sourceSynced s aseq) := by
  unfold State.sourceSynced
  with_reducible repeat' (first
    | assumption | apply State.setWsEvt_kept | apply State.advance_kept | apply State.settlePreps_kept | apply State.writeRole_kept
    | apply State.setRole_kept | apply Kept.ite | apply Kept.set)

theorem State.sideClash_kept {z : State} {s : State} (hs : Kept z s) : Kept z (State.sideClash s) := by
  unfold State.sideClash
  with_reducible repeat' (first | assumption | apply State.setWsEvt_kept | apply State.toRole_kept | apply State.quiet_kept | apply Kept.set)

theorem State.loseTwin_kept {z : State} {s : State} (hs : Kept z s) : Kept z (State.loseTwin s) := by
  unfold State.loseTwin
  with_reducible repeat' (first | assumption | apply State.toRole_kept | apply State.sendGreq_kept | apply State.quiet_kept | split | apply Kept.set)

theorem State.takeBeat_kept {z : State} {s : State} (apos : BitVec 64) (ahor : BitVec 48) (hs : Kept z s) : Kept z (State.takeBeat s apos ahor) := by
  unfold State.takeBeat
  with_reducible repeat' (first | assumption | apply Kept.ite | apply Kept.set)

theorem State.discardTail_kept {z : State} {s : State} (c : BitVec 48) (hs : Kept z s) : Kept z (State.discardTail s c) := by
  unfold State.discardTail
  with_reducible repeat' (first | assumption | apply State.setWsEvt_kept | apply State.settleDpos_kept | apply Kept.ite | apply Kept.set)

theorem State.becomeSource_kept {z : State} {s : State} (term : BitVec 48) (c : BitVec 48) (full : Bool) (hs : Kept z s) : Kept z (State.becomeSource s term c full) := by
  unfold State.becomeSource
  with_reducible repeat' (first
    | assumption | apply State.pump_kept | apply State.writeRole_kept | apply State.toRole_kept | apply State.sendCopy_kept | apply Kept.ite
    | apply Kept.set)

theorem State.becomeFollower_kept {z : State} {s : State} (term : BitVec 48) (c : BitVec 48) (full : Bool) (hs : Kept z s) : Kept z (State.becomeFollower s term c full) := by
  unfold State.becomeFollower
  with_reducible repeat' (first
    | assumption | apply State.setRole_kept | apply State.toRole_kept | apply State.sendAck_kept | apply State.applyTo_kept
    | apply State.discardTail_kept | apply Kept.ite | apply Kept.set)

theorem State.sendRecords_kept {z : State} {s : State} (lo hi : Nat) (hs : Kept z s) : Kept z (State.sendRecords s lo hi) := by
  unfold State.sendRecords
  with_reducible repeat' (first | assumption | apply State.pump_kept | apply Kept.set)

theorem State.reconnect_kept {z : State} {s : State} (w0 w1 w2 w3 w4 w5 : Word) (words : List Word) (hs : Kept z s) : Kept z (State.reconnect s w0 w1 w2 w3 w4 w5 words) := by
  unfold State.reconnect
  with_reducible repeat' (first
    | assumption | apply State.setWsEvt_kept | apply State.toRole_kept | apply State.startRecon_kept | apply State.quiet_kept
    | apply State.renew_kept | apply State.sideClash_kept | apply State.becomeSource_kept | apply State.becomeFollower_kept
    | apply State.sendRecords_kept | apply Kept.ite | apply Kept.set)

theorem State.installRing_kept {z : State} {s : State} (off : Nat) (w : Word) (hs : Kept z s) : Kept z (State.installRing s off w) := by
  unfold State.installRing
  with_reducible repeat' (first | assumption | apply State.putWord_kept | apply Kept.ite | apply Kept.set)

theorem State.installCell_kept {z : State} {s : State} (r : CopyRun) (base : Nat) (ws : List Word) (hs : Kept z s) : Kept z (State.installCell s r base ws) := by
  unfold State.installCell
  with_reducible repeat' (first | assumption | apply State.putWords_kept | apply Kept.ite)

theorem State.installCopied_kept {z : State} {s : State} (r : CopyRun) (w : Word) (hs : Kept z s) : Kept z (State.installCopied s r w).1 := by
  unfold State.installCopied
  with_reducible repeat' (first
    | assumption | apply State.putWord_kept | apply State.installRing_kept | apply State.installCell_kept | dsimp only | split
    | apply Kept.set)

theorem State.takeGrant_kept {z : State} {s : State} (w : Word) (hs : Kept z s) : Kept z (State.takeGrant s w) := by
  unfold State.takeGrant
  with_reducible repeat' (first
    | assumption | apply State.setWsEvt_kept | apply State.settleDpos_kept | apply State.advance_kept | apply State.settlePreps_kept
    | apply State.writeRole_kept | apply State.setRole_kept | apply State.quiet_kept | apply Kept.ite | apply Kept.set)

theorem State.sendGrant_kept {z : State} {s : State} (x : WitReq) (side : Bool) (hs : Kept z s) : Kept z (State.sendGrant s x side) := by
  unfold State.sendGrant
  with_reducible repeat' (first | assumption | apply State.setWsEvt_kept | apply State.grantMsg_kept | apply Kept.set)

theorem State.chooseSide_kept {z : State} {s : State} (x : WitReq) (side : Bool) (hs : Kept z s) : Kept z (State.chooseSide s x side) := by
  unfold State.chooseSide
  with_reducible repeat' (first
    | assumption | apply State.putWord_kept | apply State.sendFirst_kept | apply State.sendGrant_kept | apply Kept.ite | apply Kept.set)

theorem State.wsJob_kept {z : State} {s : State} (j : JobId) (opc : Nat) (act : Job → State → State) (h : Kept z s)
    (ha : ∀ x t, Kept z t → Kept z (act x t)) : Kept z (s.wsJob j opc act) := by
  unfold State.wsJob
  split
  · exact h
  · split
    · exact State.finishJob_kept _ _ _ _ h
    · exact ha _ _ (State.updJob_kept _ _ h)

theorem State.reconciled_kept {z : State} {s : State} (w : ReconcileWords) (hs : Kept z s) : Kept z (State.reconciled s w) := by
  unfold State.reconciled
  with_reducible repeat' (first
    | assumption | apply State.toRole_kept | apply State.quiet_kept | apply State.renew_kept | apply State.becomeSource_kept
    | apply State.becomeFollower_kept | apply Kept.ite | apply Kept.set)


/-! ## Stage -/

theorem State.checkStage_kept {z : State} {s : State} (pair : Bool) (hs : Kept z s) : Kept z (State.checkStage s pair) := by
  unfold State.checkStage
  with_reducible repeat' (first | assumption | apply Kept.set)

theorem State.discardStage_kept {z : State} {s : State} (hs : Kept z s) : Kept z (State.discardStage s) := by
  unfold State.discardStage
  with_reducible repeat' (first | assumption | apply Kept.set)

theorem State.writeCopy_kept {z : State} {s : State} (c : Bool) (gen : BitVec 48) (x : Settings) (hs : Kept z s) : Kept z (State.writeCopy s c gen x) := by
  unfold State.writeCopy
  with_reducible repeat' (first | assumption | apply State.putWord_kept | apply State.putWords_kept)

theorem State.applyFailed_kept {z : State} {s : State} (status : BitVec 8) (hs : Kept z s) : Kept z (State.applyFailed s status) := by
  unfold State.applyFailed
  with_reducible repeat' (first | assumption | apply Kept.set)

theorem State.applyNow_kept {z : State} {s : State} (hs : Kept z s) : Kept z (State.applyNow s) := by
  unfold State.applyNow
  with_reducible repeat' (first | assumption | apply State.journalEntry_kept | apply State.writeCopy_kept | apply Kept.set)

theorem State.applyStage_kept {z : State} {s : State} (gen : BitVec 48) (pair : Bool) (hs : Kept z s) : Kept z (State.applyStage s gen pair).1 := by
  unfold State.applyStage
  with_reducible repeat' (first | assumption | apply State.applyFailed_kept | apply State.applyNow_kept | split)

theorem State.stageOp_kept {z : State} {s : State} (act : State → State) (h : Kept z s) (ha : ∀ t, Kept z t → Kept z (act t)) :
    Kept z (s.stageOp act) := Kept.ite (State.barErr_kept h) (ha _ h)


/-! ## Start -/

theorem State.stepEntry_kept {z : State} {s : State} (k attempt method outcome : Nat) (detail : BitVec 24) (e3 : Word) (hs : Kept z s) : Kept z (State.stepEntry s k attempt method outcome detail e3) := by
  unfold State.stepEntry
  with_reducible repeat' (first | assumption | apply State.journalEntry_kept)

theorem State.markStep_kept {z : State} {s : State} (k : Nat) (v : BitVec 2) (hs : Kept z s) : Kept z (State.markStep s k v) := by
  unfold State.markStep
  with_reducible repeat' (first | assumption | apply Kept.set)

theorem State.notePolicy_kept {z : State} {s : State} (k method outcome : Nat) (hs : Kept z s) : Kept z (State.notePolicy s k method outcome) := by
  unfold State.notePolicy
  with_reducible repeat' (first | assumption | apply State.putWord_kept)

theorem State.cleared_kept {z : State} {s : State} (hs : Kept z s) : Kept z (State.cleared s) := by
  unfold State.cleared
  with_reducible repeat' (first | assumption | apply Kept.set)

theorem State.powerDown_kept {z : State} {s : State} (hs : Kept z s) : Kept z (State.powerDown s) := by
  unfold State.powerDown
  with_reducible repeat' (first | assumption | apply State.cleared_kept | apply Kept.set)

theorem State.readRole_kept {z : State} {s : State} (hs : Kept z s) : Kept z (State.readRole s) := by
  unfold State.readRole
  with_reducible repeat' (first | assumption | split | apply Kept.set)

theorem State.fenceCore_kept {z : State} {s : State} (n : CoreId) (step : Nat) (hs : Kept z s) : Kept z (State.fenceCore s n step) := by
  unfold State.fenceCore
  with_reducible repeat' (first | assumption | apply State.updCore_kept | apply State.drainAll_kept)

theorem State.fenceQuad_kept {z : State} {s : State} (q : QuadId) (step : Nat) (hs : Kept z s) : Kept z (State.fenceQuad s q step) := by
  unfold State.fenceQuad
  with_reducible repeat' (first
    | assumption | apply State.updQuad_kept | apply State.updEng_kept | apply State.fenceCore_kept | (apply Kept.foldl; intro _ _ _))

theorem State.fencing_kept {z : State} {s : State} (k : Nat) (attempt method : Nat) (bad : BitVec 48) (badQuads : BitVec 12) (hs : Kept z s) : Kept z (State.fencing s k attempt method bad badQuads) := by
  unfold State.fencing
  with_reducible repeat' (first
    | assumption | apply State.updCore_kept | apply State.updQuad_kept | apply State.journalEntry_kept | apply State.fenceCore_kept
    | apply State.fenceQuad_kept | apply Kept.ite | (apply Kept.foldl; intro _ _ _))

theorem State.fenceEngines_kept {z : State} {s : State} (bad : BitVec 24) (hs : Kept z s) : Kept z (State.fenceEngines s bad) := by
  unfold State.fenceEngines
  with_reducible repeat' (first | assumption | apply State.updEng_kept | (apply Kept.foldl; intro _ _ _))

theorem State.restoreSettings_kept {z : State} {s t : State} (m : Nat) (h : Kept z s) (e : s.restoreSettings m = some t) : Kept z t := by
  unfold State.restoreSettings at e
  have aux : ∀ (c : Bool) (u : State), Kept z u → (if c then none else some u) = some t → Kept z t := by
    intro c u hu he
    cases c
    · injection he with he
      exact he ▸ hu
    · cases he
  exact aux _ _ (Kept.ite (State.putWord_kept _ _ h) h).set e

theorem State.trainTwin_kept {z : State} {s : State} (up : BitVec 2) (hs : Kept z s) : Kept z (State.trainTwin s up) := by
  unfold State.trainTwin
  with_reducible repeat' (first
    | assumption | apply State.setWsEvt_kept | apply State.updTwin_kept | apply Kept.ite | (apply Kept.foldl; intro _ _ _) | apply Kept.set)

theorem State.trainFabric_kept {z : State} {s : State} (far : List (Fin 8 × FarEnd)) (h : Kept z s) : Kept z (s.trainFabric far).1 := by
  have aux : ∀ (l : List (Fin 8)) (f : State × Bool → Fin 8 → State × Bool) (x : State × Bool),
      (∀ y k, Kept z y.1 → Kept z (f y k).1) → Kept z x.1 → Kept z (l.foldl f x).1 := by
    intro l f x hf hx
    induction l generalizing x with
    | nil => exact hx
    | cons k r ih => exact ih _ (hf _ _ hx)
  refine aux _ _ _ (fun y k hy => ?_) h
  dsimp only
  have h1 := State.updLink_kept k (fun k => { k with train := true }) hy
  split
  · exact h1
  · have h2 := State.trained_kept k ‹Fin 8 × FarEnd›.2 h1
    split
    · exact h2
    · exact State.setLbEvt_kept _ (State.updLink_kept _ _ h2)

theorem State.scanLedger_kept {z : State} {s : State} (h : Kept z s) : Kept z s.scanLedger.1 := by
  unfold State.scanLedger
  split
  · exact h
  · exact h.set

theorem State.applyLedger_kept {z : State} {s : State} (hs : Kept z s) : Kept z (State.applyLedger s) := by
  unfold State.applyLedger
  with_reducible repeat' (first
    | assumption | apply State.applyRecord_kept | apply State.settleDpos_kept | apply State.writeRole_kept | apply Kept.ite
    | (apply Kept.foldl; intro _ _ _) | apply Kept.set)

theorem State.startRole_kept {z : State} {s : State} (hs : Kept z s) : Kept z (State.startRole s) := by
  unfold State.startRole
  with_reducible repeat' (first
    | assumption | apply State.setWsEvt_kept | apply State.writeRole_kept | apply State.startRecon_kept | apply Kept.ite | apply Kept.set)

theorem State.loadImage_kept {z : State} {s : State} (hs : Kept z s) : Kept z (State.loadImage s) := by
  unfold State.loadImage
  with_reducible repeat' (first | assumption | apply State.putWord_kept | apply State.putWords_kept)

theorem State.startCore_kept {z : State} {s : State} (n : CoreId) (pc : DAddr) (hs : Kept z s) : Kept z (State.startCore s n pc) := by
  unfold State.startCore
  with_reducible repeat' (first | assumption | apply State.updCore_kept)

theorem State.releaseCores_kept {z : State} {s t : State} (h : Kept z s) (e : s.releaseCores = some t) : Kept z t := by
  unfold State.releaseCores at e
  split at e
  · cases e
  · cases e
    exact State.startCore_kept _ _ h.set

theorem State.stepWork_kept {z : State} {s t : State} (env : StartEnv) (k m : Nat) (h : Kept z s) (e : (State.stepWork env k m s).1 = some t) :
    Kept z t := by
  unfold State.stepWork at e
  dsimp only at e
  split at e
  · split at e
    · cases e
    · cases e; exact h.set
  · split at e
    · cases e
    · cases e; exact h.set
  · cases e; exact State.readRole_kept h
  · split at e
    · cases e; exact h
    · cases e
  · split at e
    · cases e; exact h
    · cases e
  · split at e
    · cases e; exact h
    · cases e
  · split at e
    · cases e
    · cases e; exact h.set
  · exact State.restoreSettings_kept _ h e
  · split at e
    · cases e; exact State.trainTwin_kept _ h
    · cases e
  · split at e
    · cases e; exact h.set
    · cases e
  · split at e
    · cases e; exact State.trainFabric_kept _ h
    · cases e
  · cases e; exact State.scanLedger_kept h
  · cases e; exact State.applyLedger_kept h
  · cases e; exact State.startRole_kept h
  · split at e
    · cases e; exact h.set
    · cases e
  · split at e
    · cases e; exact h
    · cases e
  · cases e; exact h.set
  · cases e; exact h.set
  · exact State.releaseCores_kept h e
  · cases e; exact h

theorem State.afterStep_kept {z : State} (env : StartEnv) (k attempt method : Nat) (ok : Bool) {s : State} (hs : Kept z s) : Kept z (State.afterStep env k attempt method ok s) := by
  unfold State.afterStep
  with_reducible repeat' (first
    | assumption | apply State.fencing_kept | apply State.fenceEngines_kept | apply State.trainTwin_kept | apply State.trainFabric_kept
    | split | apply Kept.set)

theorem State.failStart_kept {z : State} {s : State} (k : Nat) (hs : Kept z s) : Kept z (State.failStart s k) := by
  unfold State.failStart
  with_reducible repeat' (first | assumption | apply State.putWord_kept | apply State.journalEntry_kept | apply Kept.set)

theorem State.endStart_kept {z : State} {s : State} (hs : Kept z s) : Kept z (State.endStart s) := by
  unfold State.endStart
  with_reducible repeat' (first | assumption | apply State.putWord_kept | apply State.journalEntry_kept | apply Kept.set)

theorem State.attempts_kept {z : State} {s : State} (env : StartEnv) (k m f a : Nat) (h : Kept z s) :
    Kept z (State.attempts env k m f a s).1 := by
  induction f generalizing s a with
  | zero => exact h
  | succ f ih =>
    unfold State.attempts
    dsimp only
    split
    · split
      · exact ih _ (State.stepEntry_kept _ _ _ _ _ _ h)
      · exact State.stepEntry_kept _ _ _ _ _ _ (State.stepWork_kept env k m h (by rw [‹State.stepWork _ _ _ _ = _›]))
    · exact ih _ (State.stepEntry_kept _ _ _ _ _ _ h)

theorem State.stepOver_kept {z : State} {s : State} (env : StartEnv) (k m a : Nat) (ok : Bool) (hs : Kept z s) : Kept z (State.stepOver s env k m a ok).1 := by
  unfold State.stepOver
  with_reducible repeat' (first
    | assumption | apply State.markStep_kept | apply State.notePolicy_kept | apply State.afterStep_kept | apply State.failStart_kept
    | apply State.endStart_kept | split)

theorem State.bootAttempts_kept {z : State} {s : State} (env : StartEnv) (m f a : Nat) (h : Kept z s) :
    Kept z (State.bootAttempts env m f a s).1 := by
  induction f generalizing s a with
  | zero => exact State.stepOver_kept _ _ _ _ _ h
  | succ f ih =>
    unfold State.bootAttempts
    dsimp only
    split
    · split
      · exact State.stepOver_kept _ _ _ _ _ (State.stepEntry_kept _ _ _ _ _ _ h)
      · exact ih _ (State.stepEntry_kept _ _ _ _ _ _ h)
    · split
      · exact ih _ (State.stepEntry_kept _ _ _ _ _ _ h)
      · exact h.set

theorem State.runStep_kept {z : State} {s : State} (env : StartEnv) (k m : Nat) (h : Kept z s) : Kept z (State.runStep env k m s).1 := by
  unfold State.runStep
  split
  · exact State.bootAttempts_kept _ _ _ _ h
  · exact State.stepOver_kept _ _ _ _ _ (State.attempts_kept _ _ _ _ _ h)

theorem State.runFrom_kept {z : State} {s : State} (env : StartEnv) (f k : Nat) (h : Kept z s) : Kept z (State.runFrom env f k s) := by
  induction f generalizing s k with
  | zero => exact h
  | succ f ih =>
    have go : ∀ m (t : State), Kept z t → Kept z (match State.runStep env k m t with
        | (t, true) => State.runFrom env f (k + 1) t
        | (t, false) => t) := by
      intro m t ht
      have := State.runStep_kept env k m ht
      split
      · rw [‹State.runStep _ _ _ _ = _›] at this; exact ih _ this
      · rw [‹State.runStep _ _ _ _ = _›] at this; exact this
    unfold State.runFrom
    dsimp only
    split
    · exact h
    · split
      · exact go _ _ h.set
      · split
        · exact go _ _ h.set
        · exact go _ _ h.set
        · exact ih _ (State.markStep_kept _ _ (State.stepEntry_kept _ _ _ _ _ _ h.set))
        · exact (State.stepEntry_kept _ _ _ _ _ _ (h.set)).set

theorem State.beginStart_kept {z : State} {s : State} (cause : Nat) (env : StartEnv) (hs : Kept z s) : Kept z (State.beginStart s cause env) := by
  unfold State.beginStart
  with_reducible repeat' (first
    | assumption | apply State.putWord_kept | apply State.journalEntry_kept | apply State.cleared_kept | apply State.runFrom_kept
    | apply Kept.set)

theorem State.bootGo_kept {z : State} {s : State} (env : StartEnv) (hs : Kept z s) : Kept z (State.bootGo s env) := by
  unfold State.bootGo
  with_reducible repeat' (first
    | assumption | apply State.stepEntry_kept | apply State.loadImage_kept | apply State.stepOver_kept | apply State.bootAttempts_kept
    | apply State.runFrom_kept | split | (refine Kept.of_eq_fst ‹_› ?_) | apply Kept.set)

theorem State.startRestart_kept {z : State} {s : State} (env : StartEnv) (hs : Kept z s) : Kept z (State.startRestart s env) := by
  unfold State.startRestart
  with_reducible repeat' (first | assumption | apply State.beginStart_kept | apply Kept.ite)

theorem State.startContinue_kept {z : State} {s : State} (env : StartEnv) (hs : Kept z s) : Kept z (State.startContinue s env) := by
  unfold State.startContinue
  with_reducible repeat' (first
    | assumption | apply State.runStep_kept | apply State.runFrom_kept | split | (refine Kept.of_eq_fst ‹_› ?_) | apply Kept.set)

theorem State.startGo_kept {z : State} {s : State} (env : StartEnv) (hs : Kept z s) : Kept z (State.startGo s env) := by
  unfold State.startGo
  with_reducible repeat' (first | assumption | apply State.bootGo_kept | apply Kept.ite)

theorem State.updChan_kept {z : State} {s : State} (c : Fin 64) (f : Chan → Chan) (hs : Kept z s) : Kept z (State.updChan s c f) := by
  unfold State.updChan
  with_reducible repeat' (first | assumption | apply Kept.set)


/-! ## Units -/

theorem State.sendUnit_kept {z : State} {s : State} (j : JobId) (p : PairId) (side : Bool) (words : List Word) (hs : Kept z s) : Kept z (State.sendUnit s j p side words) := by
  unfold State.sendUnit
  with_reducible repeat' (first
    | assumption | apply State.setLbEvt_kept | apply State.request_kept | apply State.unitAnswer_kept | apply Kept.ite | apply Kept.set)

theorem State.startJob_kept {z : State} {s : State} (x : Job) (t : Option Tally) (hs : Kept z s) : Kept z (State.startJob s x t) := by
  unfold State.startJob
  with_reducible repeat' (first | assumption | apply State.updJob_kept)

theorem State.forwardJob_kept {z : State} {s : State} (x : Job) (p : PairId) (side : Bool) (hs : Kept z s) : Kept z (State.forwardJob s x p side) := by
  unfold State.forwardJob
  with_reducible repeat' (first | assumption | apply State.sendUnit_kept | apply State.startJob_kept)

theorem State.bothSides_kept {z : State} {s : State} (x : Job) (words : List Word) (status detail : BitVec 8) (result : Word) (hs : Kept z s) : Kept z (State.bothSides s x words status detail result) := by
  unfold State.bothSides
  with_reducible repeat' (first | assumption | apply State.jobEnd_kept | apply State.sendUnit_kept | apply State.startJob_kept | apply Kept.ite)

theorem State.valeJob_kept {z : State} {s : State} (x : Job) (v : Fin 16) (hs : Kept z s) : Kept z (State.valeJob s x v) := by
  unfold State.valeJob
  with_reducible repeat' (first
    | assumption | apply State.addJob_kept | apply State.sendUnit_kept | apply State.startJob_kept | apply Kept.ite
    | (apply Kept.foldl; intro _ _ _))

theorem State.unitJob_kept {z : State} {s : State} (j : JobId) (opc : Nat) (atUnit : UnitId → Job → State → State) (atPair : Job → State → State) (hs : Kept z s) (hatUnit : ∀ x0 x1 u, Kept z u → Kept z (atUnit x0 x1 u)) (hatPair : ∀ x0 u, Kept z u → Kept z (atPair x0 u)) : Kept z (State.unitJob s j opc atUnit atPair) := by
  unfold State.unitJob
  with_reducible repeat' (first
    | assumption | apply hatUnit | apply hatPair | apply State.jobEnd_kept | apply State.forwardJob_kept | apply State.valeJob_kept
    | apply Kept.ite | split)

theorem noPair_kept {z : State} (x : Job) {s : State} (hs : Kept z s) : Kept z (noPair x s) := by
  unfold noPair
  with_reducible repeat' (first | assumption | apply State.jobEnd_kept)

theorem State.startUnit_kept {z : State} {s : State} (u : UnitId) (x : Job) (passes : Bool) (hs : Kept z s) : Kept z (State.startUnit s u x passes) := by
  unfold State.startUnit
  with_reducible repeat' (first
    | assumption | apply State.updQuad_kept | apply State.updEng_kept | apply State.jobEnd_kept | apply State.startCore_kept
    | apply Kept.ite | (apply Kept.foldl; intro _ _ _) | split)

theorem State.stopUnit_kept {z : State} {s : State} (u : UnitId) (x : Job) (hs : Kept z s) : Kept z (State.stopUnit s u x) := by
  unfold State.stopUnit
  with_reducible repeat' (first
    | assumption | apply State.updCore_kept | apply State.drainAll_kept | apply State.jobEnd_kept | apply Kept.ite
    | (apply Kept.foldl; intro _ _ _))

theorem State.setPolicy_kept {z : State} {s : State} (x : Job) (hs : Kept z s) : Kept z (State.setPolicy s x).1 := by
  unfold State.setPolicy
  with_reducible repeat' (first | assumption | apply State.putWord_kept | dsimp only | split)

theorem State.writeAll_kept {z : State} {s : State} (q : QpId) (k : Nat) (h : Kept z s) : Kept z (s.writeAll q k) := by
  induction k generalizing s with
  | zero => exact h
  | succ k ih => exact ih (State.writeCompletion_kept _ h)

theorem State.restartWith_kept {z : State} {s : State} (x : Job) (env : StartEnv) (hs : Kept z s) : Kept z (State.restartWith s x env) := by
  unfold State.restartWith
  with_reducible repeat' (first
    | assumption | apply State.jobEnd_kept | apply State.beginStart_kept | apply State.writeAll_kept | apply Kept.ite | split)

theorem State.agreeApply_kept {z : State} {s : State} (x : Job) (t : BitVec 64) (hs : Kept z s) : Kept z (State.agreeApply s x t) := by
  unfold State.agreeApply
  with_reducible repeat' (first | assumption | apply Kept.set)

theorem State.applyPair_kept {z : State} {s : State} (x : Job) (twin : Option TwinStage) (hs : Kept z s) : Kept z (State.applyPair s x twin) := by
  unfold State.applyPair
  with_reducible repeat' (first
    | assumption | apply State.jobEnd_kept | apply State.applyFailed_kept | apply State.sendUnit_kept | apply State.startJob_kept
    | apply State.agreeApply_kept | apply Kept.ite | split)

theorem State.createLedger_kept {z : State} {s : State} (hs : Kept z s) : Kept z (State.createLedger s) := by
  unfold State.createLedger
  with_reducible repeat' (first
    | assumption | apply State.putWord_kept | apply State.putWords_kept | apply State.zeroRange_kept | (apply Kept.foldl; intro _ _ _)
    | apply Kept.set)


/-! ## Power -/

theorem State.tmEvt_kept {z : State} {s : State} (k : Nat) (hs : Kept z s) : Kept z (State.tmEvt s k) := by
  unfold State.tmEvt
  with_reducible repeat' (first | assumption | apply State.raise_kept | apply Kept.set)

theorem State.updBrd_kept {z : State} {s : State} (f : Board → Board) (hs : Kept z s) : Kept z (State.updBrd s f) := by
  unfold State.updBrd
  with_reducible repeat' (first | assumption | apply Kept.set)

theorem State.readTj_kept {z : State} {s : State} (tj : BitVec 16) (hs : Kept z s) : Kept z (State.readTj s tj) := by
  unfold State.readTj
  with_reducible repeat' (first | assumption | apply State.updBrd_kept)

theorem State.shutOff_kept {z : State} {s : State} (hs : Kept z s) : Kept z (State.shutOff s) := by
  unfold State.shutOff
  with_reducible repeat' (first | assumption | apply State.powerDown_kept | apply State.updBrd_kept | apply Kept.ite)

theorem State.tapIns_kept {z : State} {s : State} (name : String) (act : State → State) (h : Kept z s)
    (ha : ∀ t, Kept z t → Kept z (act t)) : Kept z (s.tapIns name act) :=
  Kept.ite (ha _ (State.updBrd_kept _ h)) h

theorem State.tick_kept {z : State} {s : State} (hs : Kept z s) : Kept z (State.tick s) := by
  unfold State.tick
  with_reducible repeat' (first | assumption | apply Kept.ite | apply Kept.set)


/-! ## Setup -/

theorem drawList_keeps {α : Type} (f : Word → α) (l : List Nat) : Keeps (drawList f l) := by
  induction l with
  | nil => exact Keeps.pure _
  | cons k r ih => exact Keeps.bind Keeps.draw fun _ => Keeps.bind ih fun _ => Keeps.pure _

theorem drawFar_keeps (l : List (Fin 8)) : Keeps (drawFar l) := by
  induction l with
  | nil => exact Keeps.pure _
  | cons k r ih => exact Keeps.bind Keeps.draw fun _ => Keeps.bind ih fun _ => Keeps.pure _

theorem drawEnv_keeps  : Keeps (drawEnv : M StartEnv) := by
  unfold drawEnv
  with_reducible repeat' (first | apply drawList_keeps | apply drawFar_keeps | exact Keeps.pure _ | exact Keeps.draw | apply Keeps.bind | intro _)

theorem State.withEnv_kept {z : State} {s : State} (f : State → StartEnv → State) (h : Kept z s)
    (hf : ∀ t env, Kept z t → Kept z (f t env)) : Kept z (s.withEnv f) := by
  unfold State.withEnv
  split
  · exact hf _ _ (drawEnv_keeps.ok ‹_› h)
  · exact drawEnv_keeps.error ‹_› h

theorem State.srWrite_kept {z : State} {s : State} (by_ : SetupBy) (o : Nat) (v : Word) (hs : Kept z s) : Kept z (State.srWrite s by_ o v) := by
  unfold State.srWrite
  with_reducible repeat' (first
    | assumption | apply State.putWord_kept | apply State.barErr_kept | apply State.startRestart_kept | apply State.startContinue_kept
    | apply State.startGo_kept | apply State.withEnv_kept | split | apply Kept.set)

theorem State.hiWrite_kept {z : State} {s : State} (by_ : SetupBy) (o : Nat) (v : Word) (hs : Kept z s) : Kept z (State.hiWrite s by_ o v) := by
  unfold State.hiWrite
  with_reducible repeat' (first | assumption | apply State.barErr_kept | split | apply Kept.set)

theorem State.aptWrite_kept {z : State} {s : State} (o : Nat) (v : Word) (hs : Kept z s) : Kept z (State.aptWrite s o v) := by
  unfold State.aptWrite
  with_reducible repeat' (first | assumption | apply State.barErr_kept | split | apply Kept.set)

theorem State.stWrite_kept {z : State} {s : State} (o : Nat) (v : Word) (hs : Kept z s) : Kept z (State.stWrite s o v) := by
  unfold State.stWrite
  with_reducible repeat' (first
    | assumption | apply State.checkStage_kept | apply State.discardStage_kept | apply State.applyStage_kept | apply State.stageOp_kept
    | intro _ | split)

theorem State.ledgerWrite_kept {z : State} {s : State} (o : Nat) (v : Word) (hs : Kept z s) : Kept z (State.ledgerWrite s o v) := by
  unfold State.ledgerWrite
  with_reducible repeat' (first | assumption | split | apply Kept.set)

theorem State.tmWrite_kept {z : State} {s : State} (o : Nat) (v : Word) (hs : Kept z s) : Kept z (State.tmWrite s o v) := by
  unfold State.tmWrite
  with_reducible repeat' (first | assumption | apply State.tmEvt_kept | apply State.updBrd_kept | apply Kept.ite | split)

theorem State.qpWrite_kept {z : State} {s : State} (by_ : SetupBy) (q : QpId) (o : Nat) (v : Word) (hs : Kept z s) : Kept z (State.qpWrite s by_ q o v) := by
  unfold State.qpWrite
  with_reducible repeat' (first | assumption | apply State.updQp_kept | apply State.barErr_kept | apply State.setEn_kept | apply Kept.ite | split)

theorem State.setupWrite_kept {z : State} {s : State} (by_ : SetupBy) (o : Nat) (v : Word) (hs : Kept z s) : Kept z (State.setupWrite s by_ o v) := by
  unfold State.setupWrite
  with_reducible repeat' (first
    | assumption | apply State.srWrite_kept | apply State.hiWrite_kept | apply State.aptWrite_kept | apply State.stWrite_kept
    | apply State.ledgerWrite_kept | apply State.tmWrite_kept | apply State.qpWrite_kept | apply Kept.ite | split | apply Kept.set)

theorem State.pfWrite_kept {z : State} {s : State} (off : Nat) (c07 c8 : Bool) (v : Word) (hs : Kept z s) : Kept z (State.pfWrite s off c07 c8 v) := by
  unfold State.pfWrite
  with_reducible repeat' (first | assumption | apply State.barErr_kept | apply State.setupWrite_kept | apply Kept.ite)

theorem State.vfWrite_kept {z : State} {s : State} (k : Fin 32) (off : Nat) (c07 c8 : Bool) (v : Word) (hs : Kept z s) : Kept z (State.vfWrite s k off c07 c8 v) := by
  unfold State.vfWrite
  with_reducible repeat' (first | assumption | apply State.barErr_kept | apply State.qpWrite_kept | apply Kept.ite | split)


/-! ## Events -/

theorem State.takeSource_kept {z : State} {s : State} (n : CoreId) (k : SrcId) (hs : Kept z s) : Kept z (State.takeSource s n k) := by
  unfold State.takeSource
  with_reducible repeat' (first | assumption | apply State.updCore_kept | apply Kept.set)

theorem State.srcRaise_kept {z : State} {s : State} (k : Nat) (v : Word) (hs : Kept z s) : Kept z (State.srcRaise s k v) := by
  unfold State.srcRaise
  with_reducible repeat' (first | assumption | apply State.raise_kept | apply Kept.ite)

theorem State.setTimer_kept {z : State} {s : State} (v : Word) (t : TimerId) (h : Kept z s) : Kept z (s.setTimer v t) := by
  cases t with
  | core n => exact State.updCore_kept _ _ h
  | module j => exact h.set

theorem State.fireTimer_kept {z : State} {s : State} (t : TimerId) (hs : Kept z s) : Kept z (State.fireTimer s t) := by
  unfold State.fireTimer
  with_reducible repeat' (first | assumption | apply State.raise_kept | apply State.setTimer_kept | apply Kept.ite)

theorem State.machineCheck_kept {z : State} {s : State} (n : CoreId) (cause : BitVec 8) (retry : Bool) (h : Kept z s) :
    Kept z (s.machineCheck n cause retry) := by
  have hi := State.instrWord_kept n (State.updCore_kept n (fun c => { c with wait := none }) h)
  unfold State.machineCheck
  refine Kept.ite h (Kept.ite (State.loseCore_kept _ _ _ h) (Kept.ite h ?_))
  dsimp only
  split
  · split
    · rename_i e
      exact State.takeFault_some _ _ _ hi (by rw [e])
    · rename_i e
      exact State.waitEntry_kept _ (Kept.of_eq e (State.takeFault_kept _ _ _ hi)) h
  · exact State.escalate_kept _ _ _ _ _ (State.drainAll_kept _ hi)

theorem State.fillLine_kept {z : State} {s : State} (n : CoreId) (line : WAddr) (hs : Kept z s) : Kept z (State.fillLine s n line) := by
  unfold State.fillLine
  with_reducible repeat' (first | assumption | apply State.touchLine_kept | apply Kept.ite)

theorem State.translateFor_kept {z : State} {s : State} (x : Xl) (va : WAddr) (acc : Access) (hs : Kept z s) : Kept z (State.translateFor s x va acc) := by
  unfold State.translateFor
  with_reducible repeat' (first | assumption | apply xlate_keeps | split | (refine Keeps.ok (m := ?_) ?_ ‹_› ?_))

theorem State.microService_some {z : State} {s u : State} (n : CoreId) (c : MicroCause) (h : Kept z s) (e : s.microService n c = some u) : Kept z u := by
  unfold State.microService at e
  split at e
  · dsimp only at e
    split at e
    · cases e
    · cases e; exact State.translateFor_kept _ _ _ h
  · split at e
    · cases e
    · cases e; exact State.touchLine_kept _ _ h
  · split at e
    · cases e; exact h.putCell _ _
    · cases e
  · obtain ⟨k, -, rfl⟩ := Option.map_eq_some_iff.mp e
    exact State.updCore_kept _ _ h


/-! ## ControlStore -/

theorem aluOp_keeps (code : Nat) (a b : Word) (fl : BitVec 4) : Keeps (aluOp code a b fl : M (Option Word × BitVec 4)) := by
  unfold aluOp
  with_reducible repeat' (first | apply regAddr_keeps | exact Keeps.pure _ | apply Keeps.bind | intro _ | split)

theorem unitDec_keeps (r : Routine) (f : FmtA) (op : Nat) (x : BitVec 8) (v : Word) : Keeps (unitDec r f op x v : M Dec) := by
  unfold unitDec
  with_reducible repeat' (first | exact Keeps.pure _ | exact Keeps.raise _ | split)

theorem unitOp_keeps (r : Routine) (f : FmtA) (w : Micro) (a b : Word) (fl : BitVec 4) : Keeps (unitOp r f w a b fl : M (Option Word × BitVec 4)) := by
  unfold unitOp
  with_reducible repeat' (first | apply unitDec_keeps | exact Keeps.pure _ | apply Keeps.bind | apply Keeps.ite | intro _)

theorem microRefs_keeps (n : CoreId) (w : Micro) (a : Word) (store : Bool) : Keeps (microRefs n w a store : M (DAddr × List WordRef)) := by
  unfold microRefs
  with_reducible repeat' (first
    | apply regAddr_keeps | apply operand_keeps | apply aligned_keeps | exact Keeps.pure _ | exact Keeps.raise _ | apply Keeps.eachL
    | apply Keeps.bind | intro _ | split)

theorem microLoad_keeps (n : CoreId) (w : Micro) (r : Routine) (a : Word) : Keeps (microLoad n w r a : M (DAddr × Word)) := by
  unfold microLoad
  with_reducible repeat' (first | apply loadRef_keeps | apply microRefs_keeps | exact Keeps.pure _ | apply Keeps.mapL | apply Keeps.bind | intro _)

theorem microStore_keeps (n : CoreId) (w : Micro) (r : Routine) (a b : Word) : Keeps (microStore n w r a b : M Routine) := by
  unfold microStore
  with_reducible repeat' (first | apply microRefs_keeps | exact Keeps.pure _ | exact Keeps.require _ _ | apply Keeps.bind | intro _)

theorem microNext_keeps (r : Routine) (f : FmtA) (det trap own : Bool) (w : Micro) (a : Word) : Keeps (microNext r f det trap own w a : M MicroEnd) := by
  unfold microNext
  with_reducible repeat' (first | exact Keeps.pure _ | exact Keeps.raise _ | split)

theorem storeFetch_keeps (l : List (Nat × MicroWord)) (k : Nat) (own : Bool) (cause : BitVec 8) (addr : Nat) : Keeps (storeFetch l k own cause addr : M MicroGot) := by
  unfold storeFetch
  with_reducible repeat' (first | exact Keeps.pure _ | exact Keeps.draw | apply Keeps.bind | intro _ | split)

theorem microFetch_keeps (n : CoreId) (upc : Nat) : Keeps (microFetch n upc : M MicroGot) := by
  unfold microFetch
  with_reducible repeat' (first | apply storeFetch_keeps | exact Keeps.pure _ | exact Keeps.getCore _ | apply Keeps.bind | intro _ | split)

theorem microOp_keeps (r : Routine) (f : FmtA) (w : Micro) (a b : Word) : Keeps (microOp r f w a b : M (Option Word × BitVec 4)) := by
  unfold microOp
  with_reducible repeat' (first
    | apply aluOp_keeps | apply unitOp_keeps | exact Keeps.pure _ | exact Keeps.draw | apply Keeps.bind | apply Keeps.ite | intro _)

theorem microStep_keeps (n : CoreId) (f : FmtA) (pc : DAddr) (r : Routine) : Keeps (microStep n f pc r : M MicroEnd) := by
  unfold microStep
  with_reducible repeat' (first
    | apply microLoad_keeps | apply microStore_keeps | apply microNext_keeps | apply microFetch_keeps | apply microOp_keeps
    | exact Keeps.pure _ | exact Keeps.throw _ | exact Keeps.look _ | exact Keeps.getCore _ | exact Keeps.draw | apply Keeps.bind
    | apply Keeps.ite | intro _ | split)

theorem microRun_keeps (n : CoreId) (f : FmtA) (pc : DAddr) (k : Nat) (r : Routine) : Keeps (microRun n f pc k r) := by
  induction k generalizing r with
  | zero => exact Keeps.raise _
  | succ k ih =>
    unfold microRun
    refine Keeps.bind (microStep_keeps _ _ _ _) fun e => ?_
    split
    · exact ih _
    · exact Keeps.pure _

theorem uopBody_keeps (n : CoreId) (k : Fin 16) (f : FmtA) : Keeps (uopBody n k f) := by
  unfold uopBody
  refine Keeps.of_get fun s0 => ?_
  refine KeepsFrom.bind ((Keeps.getCore n).since _) fun c => ?_
  refine KeepsFrom.bind ((Keeps.require _ _).since _) fun _ => ?_
  refine KeepsFrom.bind ((Keeps.mapL (fun _ => Keeps.draw) _).since _) fun t => ?_
  refine KeepsFrom.bind (Keeps.draw.since _) fun mdr => ?_
  refine KeepsFrom.bind (Keeps.draw.since _) fun at_ => ?_
  refine KeepsFrom.bind ((microRun_keeps _ _ _ _ _).since _) fun e => ?_
  split
  · exact (Keeps.bind (Keeps.eachL (fun _ => markChg_keeps _ _) _) fun _ => Keeps.bind (Keeps.eachL (fun _ => putRef_keeps _ _ _) _) fun _ =>
      Keeps.bind (Keeps.modCore _ _) fun _ => Keeps.pure _).since _
  · refine KeepsFrom.bind (KeepsFrom.set ?_) fun _ => (Keeps.pure _).since _
    exact Kept.ite (Kept.ite (State.machineCheck_kept _ _ _ (Kept.refl _)) (State.machineCheck_kept _ _ _ (State.updCore_kept _ _ (Kept.refl _)))) (Kept.refl _)
  · exact (Keeps.pure _).since _

theorem setLres_keeps (n : CoreId) (r : BitVec 8) : Keeps (setLres n r : M Unit) := by
  unfold setLres
  with_reducible repeat' (exact Keeps.modCore _ _)

theorem imageRead_keeps (n : CoreId) (p : PassReg) (i : PassId) (addr : WAddr) (len : Nat) : Keeps (imageRead n p i addr len : M (List WordRef × List Word)) := by
  unfold imageRead
  with_reducible repeat' (first | apply checkField_keeps | apply loadRef_keeps | exact Keeps.pure _ | apply Keeps.mapL | apply Keeps.bind | intro _)

theorem loadAgain_keeps (n : CoreId) (p : PassReg) (i : PassId) (addr : WAddr) (ih ic : Word) (m w : Nat) :
    Keeps (loadAgain n p i addr ih ic m w) := by
  unfold loadAgain
  refine Keeps.bind (Keeps.getCore n) fun before => Keeps.bind (Keeps.modCore _ _) fun _ => ?_
  extract_lets changed
  have hc : Keeps changed := Keeps.bind (Keeps.modCore _ _) fun _ => setLres_keeps _ _
  refine Keeps.of_get fun s => ?_
  have hr := (imageRead_keeps n p i addr (2 + m + 2 * w)).left (Kept.refl s)
  split
  · rename_i e
    exact KeepsFrom.bind (KeepsFrom.set (State.updCore_kept _ _ (leftBy_of e hr))) fun _ => (Keeps.throw _).since _
  · rename_i e
    exact KeepsFrom.bind (KeepsFrom.set (leftBy_of e hr)) fun _ => hc.since _
  · rename_i e
    exact KeepsFrom.bind (KeepsFrom.set (leftBy_of e hr)) fun _ =>
      (Keeps.ite (Keeps.bind (Keeps.modCore _ _) fun _ => setLres_keeps _ _) hc).since _

theorem loadImage_keeps (n : CoreId) (p : PassReg) (i : PassId) (addr : WAddr) : Keeps (loadImage n p i addr : M Unit) := by
  unfold loadImage
  with_reducible repeat' (first
    | apply setLres_keeps | apply imageRead_keeps | apply loadAgain_keeps | exact Keeps.pure _ | apply Keeps.bind | intro _ | dsimp only
    | split)

theorem mcLoadStore_keeps (n : CoreId) (v : Word) : Keeps (mcLoadStore n v : M Unit) := by
  unfold mcLoadStore
  with_reducible repeat' (first
    | apply setLres_keeps | apply loadImage_keeps | exact Keeps.getCore _ | exact Keeps.modCore _ _ | exact Keeps.require _ _
    | apply Keeps.bind | apply Keeps.ite | intro _)


/-! ## Device -/

theorem drawCounters_keeps (n : Option CoreId) (o : Nat) : Keeps (drawCounters n o : M Unit) := by
  unfold drawCounters
  with_reducible repeat' (first | apply fillWaits_keeps | exact Keeps.pure _ | split)

theorem devLoad_keeps (n : Option CoreId) (o : Nat) : Keeps (devLoad n o : M Word) := by
  unfold devLoad
  with_reducible repeat' (first | apply drawCounters_keeps | exact Keeps.look _ | apply Keeps.bind | intro _)

theorem ssMove_keeps (n : CoreId) (v : Word) : Keeps (ssMove n v : M Unit) := by
  unfold ssMove
  with_reducible repeat' (first
    | exact Keeps.pure _ | exact Keeps.getCore _ | exact Keeps.modCore _ _ | exact Keeps.require _ _ | apply Keeps.bind | apply Keeps.ite
    | intro _)

theorem eMove_keeps (n : CoreId) (v : Word) : Keeps (eMove n v : M Unit) := by
  unfold eMove
  with_reducible repeat' (first
    | exact Keeps.pure _ | exact Keeps.getCore _ | exact Keeps.modCore _ _ | exact Keeps.require _ _ | apply Keeps.bind | apply Keeps.ite
    | intro _)

theorem ctlStore_keeps (n : CoreId) (o : Nat) (v : Word) : Keeps (ctlStore n o v) := by
  unfold ctlStore
  split
  all_goals first
    | exact Keeps.modCore _ _
    | exact ssMove_keeps _ _
    | exact fpxch_keeps _ _
    | exact eMove_keeps _ _
    | exact mcLoadStore_keeps _ _
    | exact Keeps.pure _
    | exact Keeps.upd fun s => State.fireTimer_kept _ (State.setTimer_kept _ _ (Kept.refl s))

theorem State.srcStore_kept {z : State} {s : State} (k : SrcId) (o : Nat) (v : Word) (h : Kept z s) : Kept z (s.srcStore k o v) := by
  unfold State.srcStore
  dsimp only
  split
  · exact h.set
  · exact h.set
  · exact State.srcRaise_kept _ _ h
  · exact h

theorem State.engPut_kept {z : State} {s : State} (e : EngId) (o : Nat) (v : Word) (hs : Kept z s) : Kept z (State.engPut s e o v) := by
  unfold State.engPut
  with_reducible repeat' (first | assumption | apply State.updEng_kept | apply State.addCredit_kept | split)

theorem State.updSlot_kept {z : State} {s : State} (u : UnitId) (k : Fin 8) (f : JobSlot → JobSlot) (hs : Kept z s) : Kept z (State.updSlot s u k f) := by
  unfold State.updSlot
  with_reducible repeat' (first | assumption | apply State.updBlock_kept)

theorem State.slotRefused_kept {z : State} {s : State} (u : UnitId) (hs : Kept z s) : Kept z (State.slotRefused s u) := by
  unfold State.slotRefused
  with_reducible repeat' (first | assumption | apply State.updBlock_kept)

theorem State.slotGo_kept {z : State} {s : State} (u : UnitId) (k : Fin 8) (hs : Kept z s) : Kept z (State.slotGo s u k) := by
  unfold State.slotGo
  with_reducible repeat' (first
    | assumption | apply State.finishJob_kept | apply State.addJob_kept | apply State.updSlot_kept | apply State.slotRefused_kept
    | dsimp only | split)

theorem State.ucStore_kept {z : State} {s : State} (u : UnitId) (o : Nat) (v : Word) (hs : Kept z s) : Kept z (State.ucStore s u o v) := by
  unfold State.ucStore
  with_reducible repeat' (first | assumption | apply State.updSlot_kept | apply State.slotRefused_kept | apply State.slotGo_kept | dsimp only | split)

theorem State.devicePut_kept {z : State} {s : State} (o : Nat) (v : Word) (h : Kept z s) : Kept z (s.devicePut o v) := by
  unfold State.devicePut
  split
  · exact State.ucStore_kept _ _ _ h
  · refine Kept.ite (State.setupWrite_kept _ _ _ h) ?_
    split
    · exact State.srcStore_kept _ _ _ h
    · split
      · exact State.fireTimer_kept _ (State.setTimer_kept _ _ h)
      · split
        · exact State.engPut_kept _ _ _ h
        · exact h

theorem engAsk_keeps (n : CoreId) (e : EngId) (k : Nat) (v : Word) : Keeps (engAsk n e k v : M Unit) := by
  unfold engAsk
  with_reducible repeat' (first
    | apply chStart_keeps | apply chResume_keeps | apply chHalt_keeps | exact Keeps.pure _ | exact Keeps.getCore _ | apply Keeps.bind
    | intro _ | split)

theorem devStore_keeps (n : CoreId) (o : Nat) (v : Word) : Keeps (devStore n o v : M Unit) := by
  unfold devStore
  with_reducible repeat' (first
    | apply ctlStore_keeps | apply State.devicePut_kept | apply engAsk_keeps | (apply Keeps.upd; intro _) | exact Kept.refl _ | split)

theorem devStoreNext_keeps (n : CoreId) (o : Nat) (v : Word) : Keeps (devStoreNext n o v : M Next) := by
  unfold devStoreNext
  with_reducible repeat' (first
    | apply State.drainAll_kept | apply devStore_keeps | exact Keeps.pure _ | exact Keeps.look _ | (apply Keeps.upd; intro _)
    | apply Keeps.bind | exact Kept.refl _ | intro _)

theorem State.coreStore_kept {z : State} {s : State} (n : CoreId) (o : Nat) (v : Word) (hs : Kept z s) : Kept z (State.coreStore s n o v) := by
  unfold State.coreStore
  with_reducible repeat' (first
    | assumption | apply chargeAccess_keeps | apply State.runIns_kept | apply devStoreNext_keeps | exact Keeps.raise _ | exact Keeps.get
    | apply Keeps.bind | intro _ | split)


/-! ## LoadStore -/

theorem loadWord_keeps (n : CoreId) (r : WordRef) : Keeps (loadWord n r : M Word) := by
  unfold loadWord
  with_reducible repeat' (first | apply chargeAccess_keeps | apply loadRef_keeps | apply devLoad_keeps | apply Keeps.bind | apply Keeps.ite | intro _)

theorem loadWords_keeps (n : CoreId) (rs : List WordRef) : Keeps (loadWords n rs : M Word) := by
  unfold loadWords
  with_reducible repeat' (first | apply loadWord_keeps | exact Keeps.pure _ | apply Keeps.mapL | apply Keeps.bind | intro _)

theorem storeWords_keeps (n : CoreId) (rs : List WordRef) (k : Nat) (v : Word) : Keeps (storeWords n rs k v : M Next) := by
  unfold storeWords
  with_reducible repeat' (first
    | apply chargeAccess_keeps | apply markChg_keeps | apply storeField_keeps | apply devStoreNext_keeps | exact Keeps.pure _
    | apply Keeps.bind | intro _ | split)

theorem loadBody_keeps (n : CoreId) (f : FmtM) (a : Acc) (k : Nat) (put : Core → Word → Core) : Keeps (loadBody n f a k put : M Next) := by
  unfold loadBody
  with_reducible repeat' (first
    | apply mEA_keeps | apply operand_keeps | apply aligned_keeps | apply loadWords_keeps | exact Keeps.pure _ | exact Keeps.modCore _ _
    | apply Keeps.bind | apply Keeps.ite | intro _)

theorem storeBody_keeps (n : CoreId) (f : FmtM) (a : Acc) (k : Nat) (v : Core → Word) : Keeps (storeBody n f a k v : M Next) := by
  unfold storeBody
  with_reducible repeat' (first
    | apply mEA_keeps | apply operand_keeps | apply aligned_keeps | apply storeWords_keeps | exact Keeps.getCore _ | apply Keeps.bind
    | apply Keeps.ite | intro _)

theorem atomicAccess_keeps (n : CoreId) (f : FmtM) (new : Core → Word → Option Word) : Keeps (atomicAccess n f new : M (Word × Bool)) := by
  unfold atomicAccess
  with_reducible repeat' (first
    | apply State.putMasked_kept | apply chargeAccess_keeps | apply markChg_keeps | apply State.touchLine_kept | apply State.drainAll_kept
    | apply badWord_keeps | apply mEA_keeps | apply operand_keeps | apply aligned_keeps | exact Keeps.pure _ | exact Keeps.get
    | (apply Keeps.upd; intro _) | apply Keeps.bind | exact Kept.refl _ | intro _ | dsimp only | split)

theorem pairAligned_keeps (da : DAddr) : Keeps (pairAligned da : M Unit) := by
  unfold pairAligned
  with_reducible repeat' (apply aligned_keeps)


/-! ## Control -/

theorem checkTarget_keeps (n : CoreId) (pc : DAddr) : Keeps (checkTarget n pc : M Unit) := by
  unfold checkTarget
  with_reducible repeat' (first | apply passTests_keeps | exact Keeps.getCore _ | apply Keeps.bind | intro _)

theorem regTarget_keeps (v : Word) : Keeps (regTarget v : M DAddr) := by
  unfold regTarget
  with_reducible repeat' (first | exact Keeps.pure _ | exact Keeps.require _ _ | apply Keeps.bind | intro _)

theorem relTarget_keeps (n : CoreId) (disp : BitVec 24) : Keeps (relTarget n disp : M DAddr) := by
  unfold relTarget
  with_reducible repeat' (first | exact Keeps.pure _ | exact Keeps.raise _ | exact Keeps.getCore _ | apply Keeps.bind | intro _ | split)

theorem returnAddr_keeps (n : CoreId) : Keeps (returnAddr n : M DAddr) := by
  unfold returnAddr
  with_reducible repeat' (first | exact Keeps.pure _ | exact Keeps.raise _ | exact Keeps.getCore _ | apply Keeps.bind | intro _ | split)

theorem shadowPass_keeps (n : CoreId) : Keeps (shadowPass n : M PassReg) := by
  unfold shadowPass
  with_reducible repeat' (first | exact Keeps.pure _ | exact Keeps.getCore _ | exact Keeps.require _ _ | apply Keeps.bind | intro _)

theorem shadowWords_keeps (n : CoreId) (p : PassReg) (a : Acc) (lo : WAddr) (k : Nat) : Keeps (shadowWords n p a lo k : M (List WordRef)) := by
  unfold shadowWords
  with_reducible repeat' (first
    | apply xlate_keeps | apply checkRegion_keeps | exact Keeps.pure _ | exact Keeps.raise _ | exact Keeps.get | exact Keeps.require _ _
    | apply Keeps.mapL | apply Keeps.eachL | apply Keeps.bind | intro _ | dsimp only | split)

theorem pushCheck_keeps (n : CoreId) (k : Nat) : Keeps (pushCheck n k : M (List WordRef)) := by
  unfold pushCheck
  with_reducible repeat' (first
    | apply shadowPass_keeps | apply shadowWords_keeps | exact Keeps.getCore _ | exact Keeps.require _ _ | apply Keeps.bind | intro _)

theorem popCheck_keeps (n : CoreId) (k : Nat) : Keeps (popCheck n k : M (List WordRef)) := by
  unfold popCheck
  with_reducible repeat' (first
    | apply shadowPass_keeps | apply shadowWords_keeps | exact Keeps.getCore _ | exact Keeps.require _ _ | apply Keeps.bind | intro _)

theorem pushCall_keeps (n : CoreId) (rs : List WordRef) (a : DAddr) : Keeps (pushCall n rs a : M Unit) := by
  unfold pushCall
  with_reducible repeat' (first | apply storeRef_keeps | exact Keeps.modCore _ _ | apply Keeps.eachL | apply Keeps.bind | intro _)

theorem callTo_keeps (n : CoreId) (rd : BitVec 5) (target : DAddr) (kind : BitVec 3) : Keeps (callTo n rd target kind : M Next) := by
  unfold callTo
  with_reducible repeat' (first
    | apply checkTarget_keeps | apply returnAddr_keeps | apply pushCheck_keeps | apply pushCall_keeps | exact Keeps.pure _
    | exact Keeps.modCore _ _ | apply Keeps.bind | intro _)

theorem pushFrame_keeps (n : CoreId) (rs : List WordRef) (a : DAddr) (pad : Bool) : Keeps (pushFrame n rs a pad : M Unit) := by
  unfold pushFrame
  with_reducible repeat' (first
    | apply markChg_keeps | apply storeRef_keeps | apply storePassRef_keeps | exact Keeps.getCore _ | exact Keeps.modCore _ _
    | apply Keeps.eachL | apply Keeps.bind | intro _ | split)


/-! ## Target -/

theorem State.replyTo_kept {z : State} {s : State} (p : Packet) (events : Bool) (type : BitVec 4) (hw1 : Word) (payload : List Word) (hs : Kept z s) : Kept z (State.replyTo s p events type hw1 payload) := by
  unfold State.replyTo
  with_reducible repeat' (first | assumption | apply State.setServed_kept | apply State.reply_kept)

theorem State.inOrder_kept {z : State} {s : State} (p : Packet) (events : Bool) (serve : State → State) (h : Kept z s)
    (hs : ∀ t, Kept z t → Kept z (serve t)) : Kept z (s.inOrder p events serve) := by
  unfold State.inOrder
  dsimp only
  split
  · exact hs _ h
  · split
    · exact State.issue_kept _ (State.received_kept h)
    · exact State.dropPacket_kept h

theorem State.targetWord_kept {z : State} {s : State} (pa : WAddr) (hs : Kept z s) : Kept z (State.targetWord s pa).2 := by
  unfold State.targetWord
  with_reducible repeat' (first
    | assumption | apply devLoad_keeps | split | (refine Keeps.ok (m := ?_) ?_ ‹_› ?_) | (refine Keeps.error (m := ?_) ?_ ‹_› ?_))

theorem State.targetWords_kept {z : State} {s : State} (l : List WAddr) (h : Kept z s) : Kept z (s.targetWords l).2 := by
  induction l generalizing s with
  | nil => exact h
  | cons a r ih => exact ih (State.targetWord_kept _ h)

theorem State.serveLoad_kept {z : State} {s : State} (p : Packet) (hs : Kept z s) : Kept z (State.serveLoad s p) := by
  unfold State.serveLoad
  with_reducible repeat' (first
    | assumption | apply State.raiseBad_kept | apply State.startHeal_kept | apply State.setServed_kept | apply State.received_kept
    | apply State.replyTo_kept | apply State.targetWords_kept | apply Kept.ite | split)

theorem State.targetPut_kept {z : State} {s : State} (pa : WAddr) (mask : BitVec 18) (v : Word) (hs : Kept z s) : Kept z (State.targetPut s pa mask v) := by
  unfold State.targetPut
  with_reducible repeat' (first | assumption | apply State.putMasked_kept | apply State.devicePut_kept | apply Kept.ite)

theorem State.serveStore_kept {z : State} {s : State} (p : Packet) (hs : Kept z s) : Kept z (State.serveStore s p) := by
  unfold State.serveStore
  with_reducible repeat' (first
    | assumption | apply State.raiseBad_kept | apply State.received_kept | apply State.replyTo_kept | apply State.targetPut_kept
    | apply Kept.ite | (apply Kept.foldl; intro _ _ _) | split)

theorem State.acceptJob_kept {z : State} {s : State} (p : Packet) (hs : Kept z s) : Kept z (State.acceptJob s p) := by
  unfold State.acceptJob
  with_reducible repeat' (first
    | assumption | apply State.setServed_kept | apply State.finishJob_kept | apply State.addJob_kept | apply State.received_kept
    | dsimp only | split)

theorem State.serveUnit_kept {z : State} {s : State} (p : Packet) (hs : Kept z s) : Kept z (State.serveUnit s p) := by
  unfold State.serveUnit
  with_reducible repeat' (first
    | assumption | apply State.emit_kept | apply State.setServed_kept | apply State.received_kept | apply State.replyTo_kept
    | apply State.acceptJob_kept | apply Kept.ite)


/-! ## Float -/

theorem floatBin_kept {z : State} (n : CoreId) (f : FmtA) (steps : Nat) (op : BitVec 2 → Fl → Fl → BitVec 32 × BitVec 5) {s : State} (hs : Kept z s) : Kept z (floatBin n f steps op s) := by
  unfold floatBin
  with_reducible repeat' (first | assumption | apply regIns_kept)

end Sys2Proof.Machine
end

