-- ==== Sys2Proof/Tests/Slice0.lean ====
section
/-! SUPPORT. Tests: the checks of well-formedness, a few results from the specification's own examples, and, for every statement with
hypotheses, a state and operands that meet them. -/

namespace Sys2Proof.Machine.Tests

set_option Elab.async false

/-! ## Well-formedness -/

def tPacket (n : Nat) : Packet := { packet 1 0 0 false 0 0 (List.replicate n 0) with eseq := 0 }
def tEnv : StartEnv :=
  { fails := [], badCores := [], badQuads := 0, badEngines := 0, twinUp := 3, hiLink := 0x400, far := [], timeOk := true, measured := [(1, 20000)],
    detail := [] }

theorem test_wellformed_machine_check : (Instr.machineCheck 0 5 true 0).wellFormed = true ∧ (Instr.machineCheck 0 0 true 0).wellFormed = false ∧
    (Instr.machineCheck 0 6 true 0).wellFormed = false := by decide +kernel
theorem test_wellformed_late_store : (Instr.lateStoreError 0 7 0).wellFormed = true ∧ (Instr.lateStoreError 0 0 0).wellFormed = false ∧
    (Instr.lateStoreError 0 8 0).wellFormed = false := by decide +kernel
theorem test_wellformed_prepare : (Instr.prepare 0 0 0 [(0, 0)]).wellFormed = true ∧ (Instr.prepare 0 0 0 []).wellFormed = false ∧
    (Instr.prepare 0 0 0 (List.replicate 17 (0, 0))).wellFormed = false := by decide +kernel
theorem test_wellformed_yes : (Instr.yes 0 0 [0]).wellFormed = true ∧ (Instr.yes 0 0 []).wellFormed = false ∧
    (Instr.yes 0 0 (List.replicate 17 0)).wellFormed = false := by decide +kernel
theorem test_wellformed_packet : (Instr.loadReq (tPacket 61)).wellFormed = true ∧ (Instr.loadReq (tPacket 62)).wellFormed = false := by decide +kernel
theorem test_wellformed_start : (Instr.powerOn tEnv).wellFormed = true ∧ (Instr.powerOn { tEnv with fails := [(25, 1)] }).wellFormed = false ∧
    (Instr.powerOn { tEnv with badCores := [(8, 1)] }).wellFormed = false ∧ (Instr.powerOn { tEnv with measured := [(0, 1)] }).wellFormed = false ∧
    (Instr.powerOn { tEnv with detail := [(7, 1)] }).wellFormed = false := by decide +kernel
theorem test_wellformed_vf_write : (Instr.registerWrite (.vf 1 0 true true) 0).wellFormed = true ∧
    (Instr.registerWrite (.vf 0 0 true true) 0).wellFormed = false := by decide +kernel

/-! ## Small states -/

/-- Power, pins and supplies good. -/
def tBoard : Board := { Board.reset with powered := true, mainOk := true, stbyOk := true, pwrok := true }

/-- A module with power whose core 0 is `c`. -/
def tSt (c : Core) : State := { State.reset with brd := tBoard, cores := (Vector.replicate 48 Core.reset).set 0 c }

/-- A running core at word 0x1000 of the Plain with the pass of R263 in every pass register. -/
def tCore : Core := { Core.reset with run := 2, pc := daOf (plainAddr 0x1000) 0, p := Vector.replicate 16 PassReg.rootP15 }

/-- General registers set. -/
def tG (l : List (BitVec 5 × Word)) (c : Core) : Core := l.foldl (fun c x => c.setG x.1 x.2) c

/-- A digit address of the Plain as a register holds it. -/
def tDa (off pos : Nat) : Word := daReg (daOf (plainAddr off) pos)

/-- A state with words of the Plain stored. -/
def tMem (l : List (Nat × Word)) (s : State) : State := l.foldl (fun s x => s.putWord (plainAddr x.1) x.2) s

def tA : FmtA := { rd := 3, ra := 1, rb := 2, fn := 0 }
def tA1 : FmtA := { rd := 3, ra := 1, rb := 0, fn := 0 }
def tI : FmtI := { rd := 3, ra := 1, imm := 5 }

/-- What a command leaves. -/
def after (i : Instr) (s : State) : State := match exec i s with
  | .next t => t
  | _ => s

/-! ## The integer unit -/

/-- R65: 2^71 - 1 plus 1 overflows into the sign; R43: a write to G0 is discarded. -/
theorem test_add_overflows : let u := after (.add 0 tA) (tSt (tG [(1, 0x7FFFFFFFFFFFFFFFFF), (2, 1)] tCore))
    u.cores[0].gr 3 = 0x800000000000000000 ∧ u.cores[0].flagV = true ∧ u.cores[0].flagC = false ∧ u.cores[0].flagN = true := by decide +kernel
theorem test_add_to_g0 : (after (.add 0 { tA with rd := 0 }) (tSt (tG [(1, 5), (2, 1)] tCore))).cores[0].gr 0 = 0 := by decide +kernel
/-- R65: C is 1 after a subtraction with no borrow. -/
theorem test_sub_borrows : (after (.sub 0 tA) (tSt (tG [(1, 0), (2, 1)] tCore))).cores[0].flagC = false ∧
    (after (.sub 0 tA) (tSt (tG [(1, 1), (2, 1)] tCore))).cores[0].flagC = true := by decide +kernel

theorem witness_SumsLogicAndConstants :
    (tSt tCore).runs 0 (shapeA tA) = true ∧ (tSt tCore).runs 0 (shapeA1 tA1) = true ∧ (tSt tCore).runs 0 (shapeCmp { tA with rd := 0 }) = true ∧
    (tSt tCore).runs 0 (shapeI tI) = true ∧ (tSt tCore).runs 0 (shapeCmpi { tI with rd := 0 }) = true ∧
    (tSt tCore).runs 0 (shapeNop { rd := 0, ra := 0, rb := 0, fn := 0 }) = true ∧ (tSt tCore).runs 0 (shapeLdi { tI with ra := 0 }) = true ∧
    (tSt tCore).runs 0 (shapeInsi { tI with ra := 3 }) = true := by decide +kernel

theorem witness_ShiftsAndRotates : (tSt tCore).runs 0 (shapeA tA) = true ∧ (tSt tCore).runs 0 (shapeShiftI { tI with imm := 127 }) = true := by decide +kernel

theorem witness_ProductsAndCounts : (tSt tCore).runs 0 (shapeMul tA) = true ∧ (tSt tCore).runs 0 (shapeMulh tA) = true ∧
    (tSt tCore).runs 0 (shapeMulhu tA) = true ∧ (tSt tCore).runs 0 (shapeA1 tA1) = true := by decide +kernel

theorem witness_DivisionIntoAPair :
    (((tSt (tG [(2, 1)] tCore)).core 0 (shapeDiv { tA with rd := 4 })).gr 2 ≠ 0 ∧ (tSt (tG [(2, 1)] tCore)).runs 0 (shapeDiv { tA with rd := 4 }) = true) ∧
    ((tSt tCore).core 0 (shapeDiv { tA with rd := 4 })).gr 2 = 0 ∧ (tSt tCore).starts 0 (shapeDiv { tA with rd := 4 }) = true := by decide +kernel

/-! ## Work that succeeds -/

variable {α : Type}

/-- Whether work succeeds. -/
def okOf (m : M α) (s : State) : Bool := match m s with
  | .ok _ _ => true
  | .error _ _ => false

/-- What work that succeeds answers. -/
def resOf (m : M α) (s : State) (d : α) : α := match m s with
  | .ok a _ => a
  | .error _ _ => d

theorem ok_eq {m : M α} {s : State} (d : α) (h : okOf m s = true) : m s = .ok (resOf m s d) (stateOf m s) := by
  unfold okOf resOf stateOf at *
  cases e : m s with
  | ok a t => rfl
  | error x t => rw [e] at h; cases h

/-! ## Memory operands -/

def tM : FmtM := { rt := 4, rb := 1, pr := 2, disp := 0 }

theorem witness_AdvanceByPositions : (isDigitAddr ((tSt (tG [(1, tDa 0x2000 17)] tCore)).core 0 (shapeA tA) |>.gr 1) ∧
      (tSt (tG [(1, tDa 0x2000 17)] tCore)).runs 0 (shapeA tA) = true ∧
      isDigitAddr ((tSt (tG [(1, tDa 0x2000 17)] tCore)).core 0 (shapeI tI) |>.gr 1) ∧ (tSt (tG [(1, tDa 0x2000 17)] tCore)).runs 0 (shapeI tI) = true) ∧
    (let s := tSt (tG [(1, 2 ^ 57)] tCore)
     s.starts 0 (shapeA tA) = true ∧ 2 ^ 57 ≤ ((s.core 0 (shapeA tA)).gr 1).toNat ∧ s.starts 0 (shapeI tI) = true ∧
       2 ^ 57 ≤ ((s.core 0 (shapeI tI)).gr 1).toNat) ∧
    (let s := tSt (tG [(1, 18)] tCore)
     s.starts 0 (shapeA tA) = true ∧ ((s.core 0 (shapeA tA)).gr 1).toNat < 2 ^ 57 ∧ 18 ≤ ((s.core 0 (shapeA tA)).gr 1).toNat % 32 ∧
       s.starts 0 (shapeI tI) = true ∧ 18 ≤ ((s.core 0 (shapeI tI)).gr 1).toNat % 32) := by
  unfold isDigitAddr
  decide +kernel

theorem witness_StatusRegisterAccess : (tSt tCore).runs 0 (shapeRdst { rd := 3, ra := 0, rb := 0, fn := 0 }) = true ∧
    (tSt tCore).runs 0 (shapeWrst { rd := 0, ra := 1, rb := 0, fn := 0 }) = true := by decide +kernel

theorem witness_FieldsTouchTheirWords : daPos (daOf 5 17) < 18 ∧ (64 : Nat) ≤ 64 := by decide +kernel

/-- R25: a field of 64 positions from position 17 touches five words. -/
theorem test_field_words : (fieldWords 64 (daOf 5 17) 64).map (·.1) = [5, 6, 7, 8, 9] := by decide +kernel

/-- A word with every digit 1, and G1 at it or near it. -/
def tLd (pos : Nat) : State := tMem [(0x2000, 0x123456789ABCDEF012)] (tSt { tG [(1, tDa 0x2000 pos), (4, 0xABC)] tCore with st := (1 : Word) <<< 64 })

theorem witness_LoadsReadTheirPositions :
    (∃ (s t : State) (rs : List WordRef), let c := s.core 0 (shapeM tM)
      (∀ r ∈ rs, t.settled 0 r) ∧ t.cores[0].det = false ∧ s.runs 0 (shapeM tM) = true ∧ isDigitAddr (c.gr 1) ∧
      OperandPasses 0 2 permLoad .ldw (c.ea tM) 18 (s.fetched 0 (shapeM tM)) rs t) ∧
    (∃ (s t : State) (rs : List WordRef), let c := s.core 0 (shapeM tM)
      (∀ r ∈ rs, t.settled 0 r) ∧ t.cores[0].det = false ∧ s.runs 0 (shapeM tM) = true ∧ isDigitAddr (c.gr 1) ∧ daPos (c.ea tM) % 2 = 0 ∧
      OperandPasses 0 2 permLoad .load (c.ea tM) 2 (s.fetched 0 (shapeM tM)) rs t) ∧
    (∃ (s t : State) (rs : List WordRef), let c := s.core 0 (shapeM tM)
      (∀ r ∈ rs, t.settled 0 r) ∧ t.cores[0].det = false ∧ s.runs 0 (shapeM tM) = true ∧ isDigitAddr (c.gr 1) ∧
      OperandPasses 0 2 permLoad .load (c.ea tM) 1 (s.fetched 0 (shapeM tM)) rs t) ∧
    (∃ (s t : State) (rs : List WordRef), let e := s.core 0 (shapeMF tM)
      (∀ r ∈ rs, t.settled 0 r) ∧ t.cores[0].det = false ∧ s.runs 0 (shapeMF tM) = true ∧ isDigitAddr (e.gr 1) ∧
      OperandPasses 0 2 permLoad .load (e.ea tM) 18 (s.fetched 0 (shapeMF tM)) rs t) ∧
    ∃ s : State, isDigitAddr ((s.core 0 (shapeLea { tM with pr := 0 })).gr 1) ∧ s.runs 0 (shapeLea { tM with pr := 0 }) = true := by
  refine ⟨⟨tLd 17, _, _, ?_, ?_, ?_, ?_, ok_eq [] (by decide +kernel)⟩, ⟨tLd 16, _, _, ?_, ?_, ?_, ?_, ?_, ok_eq [] (by decide +kernel)⟩,
    ⟨tLd 17, _, _, ?_, ?_, ?_, ?_, ok_eq [] (by decide +kernel)⟩, ⟨tLd 1, _, _, ?_, ?_, ?_, ?_, ok_eq [] (by decide +kernel)⟩, ⟨tLd 0, ?_, ?_⟩⟩ <;>
    (try unfold State.settled) <;> (try unfold isDigitAddr) <;> decide +kernel

/-- The whole of memory is in canonical form; a state is `Inv` when a check says so. -/
def invB (s : State) : Bool := Memory.wf s.mem && hostWf s.hostMem
theorem inv_of {s : State} (h : invB s = true) : s.Inv := by
  unfold State.Inv; simpa [invB] using h

theorem witness_StoresWriteTheirPositions :
    (∃ (s t : State) (rs : List WordRef), let c := s.core 0 (shapeM tM)
      t.storable 0 rs ∧ s.runs 0 (shapeM tM) = true ∧ isDigitAddr (c.gr 1) ∧
      OperandPasses 0 2 permStore .stw (c.ea tM) 18 (s.fetched 0 (shapeM tM)) rs t) ∧
    (∃ (s t : State) (rs : List WordRef), let c := s.core 0 (shapeM tM)
      t.storable 0 rs ∧ s.runs 0 (shapeM tM) = true ∧ isDigitAddr (c.gr 1) ∧ daPos (c.ea tM) % 2 = 0 ∧
      OperandPasses 0 2 permStore .store (c.ea tM) 2 (s.fetched 0 (shapeM tM)) rs t) ∧
    (∃ (s t : State) (rs : List WordRef), let c := s.core 0 (shapeM tM)
      t.storable 0 rs ∧ s.runs 0 (shapeM tM) = true ∧ isDigitAddr (c.gr 1) ∧
      OperandPasses 0 2 permStore .store (c.ea tM) 1 (s.fetched 0 (shapeM tM)) rs t) ∧
    ∃ (s t : State) (rs : List WordRef), let e := s.core 0 (shapeMF tM)
      t.storable 0 rs ∧ s.runs 0 (shapeMF tM) = true ∧ isDigitAddr (e.gr 1) ∧
      OperandPasses 0 2 permStore .store (e.ea tM) 18 (s.fetched 0 (shapeMF tM)) rs t := by
  refine ⟨⟨tLd 17, _, _, ?_, ?_, ?_, ok_eq [] (by decide +kernel)⟩, ⟨tLd 16, _, _, ?_, ?_, ?_, ?_, ok_eq [] (by decide +kernel)⟩,
    ⟨tLd 17, _, _, ?_, ?_, ?_, ok_eq [] (by decide +kernel)⟩, ⟨tLd 1, _, _, ?_, ?_, ?_, ok_eq [] (by decide +kernel)⟩⟩ <;>
    (try unfold State.storable State.Inv) <;> (try unfold isDigitAddr) <;> decide +kernel

set_option maxRecDepth 8000 in
theorem witness_AtomicsSwapOneWord :
    let ready (s t : State) (r : WordRef) (sh : Shape) : Prop := s.runs 0 sh = true ∧ isDigitAddr ((s.core 0 sh).gr 1) ∧
      daPos ((s.core 0 sh).ea tM) = 0 ∧
      OperandPasses 0 2 (permLoad ||| permStore) .atomic ((s.core 0 sh).ea tM) 18 (s.fetched 0 sh) [r] t ∧
      t.Inv ∧ t.cores[(0 : CoreId)].det = false ∧ (t.drainedCell 0 r.pa).bad = false ∧ r.ent.chg = true
    (∃ s t r, ready s t r (shapeCasw tM)) ∧ (∃ s t r, ready s t r (shapeSwpw tM)) ∧ ∃ s t r, ready s t r (shapeFadw tM) := by
  refine ⟨⟨tLd 0, _, _, ?_, ?_, ?_, ok_eq [] (by decide +kernel), ?_, ?_, ?_, ?_⟩, ⟨tLd 0, _, _, ?_, ?_, ?_, ok_eq [] (by decide +kernel), ?_, ?_, ?_, ?_⟩,
    ⟨tLd 0, _, _, ?_, ?_, ?_, ok_eq [] (by decide +kernel), ?_, ?_, ?_, ?_⟩⟩ <;>
    (try unfold State.Inv) <;> (try unfold isDigitAddr) <;> decide +kernel

set_option maxRecDepth 8000 in
theorem witness_PassLoadsAndStores :
    (∃ (s t : State) (r r1 : WordRef), let c := s.core 0 (shapePair tM)
      s.runs 0 (shapePair tM) = true ∧ isDigitAddr (c.gr 1) ∧ daPos (c.ea tM) = 0 ∧ bit (daWord (c.ea tM)) 0 = false ∧
      OperandPasses 0 2 (permLoad ||| permLoadPass) .loadPass (c.ea tM) 36 (s.fetched 0 (shapePair tM)) [r, r1] t ∧
      t.cores[(0 : CoreId)].det = false ∧ isLocalMem r.pa = true ∧ isLocalMem r1.pa = true ∧ r1.pa = r.pa + 1 ∧ pairWord r.pa = r1.pa ∧
      t.settled 0 r ∧ t.settled 0 r1) ∧
    ∃ (s t : State) (r r1 : WordRef), let c := s.core 0 (shapePair tM)
      s.runs 0 (shapePair tM) = true ∧ isDigitAddr (c.gr 1) ∧ daPos (c.ea tM) = 0 ∧ bit (daWord (c.ea tM)) 0 = false ∧
      OperandPasses 0 2 (permStore ||| permStorePass) .storePass (c.ea tM) 36 (s.fetched 0 (shapePair tM)) [r, r1] t ∧
      t.cores[(0 : CoreId)].det = false ∧ isLocalMem r.pa = true ∧ isLocalMem r1.pa = true ∧ r1.pa = r.pa + 1 ∧ pairWord r.pa = r1.pa ∧
      ((c.pr 4).valid && !(c.pr 4).isGlobal && !(c.pr 2).isLocal) = false ∧ t.Inv ∧ t.cores[(0 : CoreId)].storeBuf.length < 32 ∧
      r.ent.chg = true := by
  refine ⟨⟨tLd 0, _, _, _, ?_, ?_, ?_, ?_, ok_eq [] (by decide +kernel), ?_, ?_, ?_, ?_, ?_, ?_, ?_⟩,
    ⟨tLd 0, _, _, _, ?_, ?_, ?_, ?_, ok_eq [] (by decide +kernel), ?_, ?_, ?_, ?_, ?_, ?_, ?_, ?_, ?_⟩⟩ <;>
    (try unfold State.Inv) <;> (try unfold State.settled) <;> (try unfold isDigitAddr) <;> decide +kernel

/-- A pass (R237). -/
def tPass (base len : Nat) (perm : BitVec 12) (key : BitVec 4) (sealed : Bool) (typ : BitVec 16) : PassReg :=
  { w0 := at' (BitVec.ofNat 52 base) 20 ||| at' perm 8 ||| at' key 4 ||| flagAt sealed 3 ||| 6, w1 := at' (BitVec.ofNat 52 len) 20 ||| at' typ 4,
    valid := true }

/-- A core with P1 and P2 given. -/
def tP (p q : PassReg) (l : List (BitVec 5 × Word)) : State := tSt (((tG l tCore).setP 1 p).setP 2 q)

/-- R246-R251: each form at an edge of what it accepts: a range that ends where the source's ends, key 15, types 1 and 0xFFFF, and the last
type that an authority covers. -/
theorem witness_PassDerivations :
    (tP .rootP15 .rootP15 []).runs 0 (shapePmov { tA with rb := 0 }) = true ∧
    (let s := tP (tPass 16 64 0xFFF 0 false 0) .none [(2, 72), (3, 8)]
     let c := s.core 0 (shapePnar { tA with rd := 4 })
     (c.pr 1).usable = true ∧ (c.gr 2).toNat < 2 ^ 52 ∧ 1 ≤ (c.gr 3).toNat ∧ (c.gr 3).toNat ≤ 2 ^ 52 ∧ (c.pr 1).base ≤ (c.gr 2).toNat ∧
       (c.gr 2).toNat + (c.gr 3).toNat ≤ (c.pr 1).base + (c.pr 1).len ∧ s.runs 0 (shapePnar { tA with rd := 4 }) = true) ∧
    (let s := tP .rootP15 .none []
     ((s.core 0 (shapePprm tA)).pr 1).usable = true ∧ s.runs 0 (shapePprm tA) = true) ∧
    (let s := tP (tPass 0 0 0xFFF 15 false 0) .none [(2, 15)]
     let c := s.core 0 (shapePkey tA)
     (c.pr 1).usable = true ∧ (c.gr 2).toNat < 16 ∧ ((c.pr 1).key = 0 ∨ (c.pr 1).key = bits (c.gr 2) 0 4) ∧ s.runs 0 (shapePkey tA) = true) ∧
    (let s := tP .rootP15 (tPass 0xFFFF 1 0xFFF 0 false 0) []
     let c := s.core 0 (shapeSeal tA)
     (c.pr 1).usable = true ∧ (c.pr 2).usable = true ∧ (c.pr 2).grants permSeal = true ∧ 1 ≤ (c.pr 2).base ∧ (c.pr 2).base ≤ 0xFFFF ∧
       s.runs 0 (shapeSeal tA) = true) ∧
    (let s := tP (tPass 0 0 0xFFF 0 true 9) (tPass 8 2 0xFFF 0 false 0) []
     let c := s.core 0 (shapeUnseal tA)
     (c.pr 1).valid = true ∧ (c.pr 1).sealed = true ∧ (c.pr 2).usable = true ∧ (c.pr 2).grants permUnseal = true ∧
       (c.pr 2).base ≤ (c.pr 1).sealType.toNat ∧ (c.pr 1).sealType.toNat < (c.pr 2).base + (c.pr 2).len ∧ s.runs 0 (shapeUnseal tA) = true) ∧
    (tP .rootP15 .rootP15 []).runs 0 (shapePtst { tA with rd := 0 }) = true ∧ (tP .rootP15 .rootP15 []).runs 0 (shapePget tA1) = true := by decide +kernel

set_option maxRecDepth 8000 in
/-- R246-R251: each fault at an edge of what raises it. -/
theorem witness_PassDerivationFaults :
    (let inv := tP .none .none []
     let se := tP (tPass 0 0 0xFFF 0 true 9) .none []
     ∀ sh ∈ [shapePnar { tA with rd := 4 }, shapePprm tA, shapePkey tA, shapeSeal tA],
       ((inv.core 0 sh).pr 1).valid = false ∧ inv.starts 0 sh = true ∧ ((se.core 0 sh).pr 1).valid = true ∧ ((se.core 0 sh).pr 1).sealed = true ∧
         se.starts 0 sh = true) ∧
    (let sh := shapePnar { tA with rd := 4 }
     let src := tPass 16 64 0xFFF 0 false 0
     ∀ x ∈ [((0x10000000000000 : Word), (1 : Word), true), (16, 0, true), (16, 0x10000000000001, true), (15, 1, false), (16, 65, false)],
       let s := tP src .none [(2, x.1), (3, x.2.1)]
       let c := s.core 0 sh
       let g := (c.gr 2).toNat
       let l := (c.gr 3).toNat
       (c.pr 1).usable = true ∧ s.starts 0 sh = true ∧ if x.2.2 then 0x10000000000000 ≤ g ∨ l = 0 ∨ 0x10000000000000 < l
         else g < 0x10000000000000 ∧ 1 ≤ l ∧ l ≤ 0x10000000000000 ∧ (g < (c.pr 1).base ∨ (c.pr 1).base + (c.pr 1).len < g + l)) ∧
    (let s := tP (tPass 0 0 0xFFF 1 false 0) .none [(2, 16)]
     let u := tP (tPass 0 0 0xFFF 1 false 0) .none [(2, 15)]
     let sh := shapePkey tA
     ((s.core 0 sh).pr 1).usable = true ∧ 16 ≤ ((s.core 0 sh).gr 2).toNat ∧ s.starts 0 sh = true ∧ ((u.core 0 sh).gr 2).toNat < 16 ∧
       ((u.core 0 sh).pr 1).usable = true ∧ ((u.core 0 sh).pr 1).key ≠ 0 ∧ ((u.core 0 sh).pr 1).key ≠ bits ((u.core 0 sh).gr 2) 0 4 ∧
       u.starts 0 sh = true) ∧
    (let sh := shapeSeal tA
     ∀ x ∈ [(PassReg.none, 1), (tPass 8 2 0xFFF 0 true 9, 2), (tPass 8 2 0 0 false 0, 3), (tPass 0 1 0xFFF 0 false 0, 10),
         (tPass 0x10000 1 0xFFF 0 false 0, 10)],
       let s := tP .rootP15 x.1 []
       let q := (s.core 0 sh).pr 2
       ((s.core 0 sh).pr 1).usable = true ∧ s.starts 0 sh = true ∧
         (if x.2 = 1 then q.valid = false else if x.2 = 2 then q.valid = true ∧ q.sealed = true
          else if x.2 = 3 then q.usable = true ∧ q.grants permSeal = false
          else q.usable = true ∧ q.grants permSeal = true ∧ (q.base = 0 ∨ 0xFFFF < q.base))) ∧
    (let sh := shapeUnseal tA
     let inv := tP .none .rootP15 []
     let un := tP .rootP15 .rootP15 []
     (((inv.core 0 sh).pr 1).valid = false ∧ inv.starts 0 sh = true) ∧
     (((un.core 0 sh).pr 1).valid = true ∧ ((un.core 0 sh).pr 1).sealed = false ∧ un.starts 0 sh = true) ∧
     ∀ x ∈ [(PassReg.none, 1), (tPass 8 2 0xFFF 0 true 9, 2), (tPass 8 2 0 0 false 0, 3), (tPass 10 1 0xFFF 0 false 0, 10),
         (tPass 8 1 0xFFF 0 false 0, 10)],
       let s := tP (tPass 0 0 0xFFF 0 true 9) x.1 []
       let p := (s.core 0 sh).pr 1
       let q := (s.core 0 sh).pr 2
       p.valid = true ∧ p.sealed = true ∧ s.starts 0 sh = true ∧
         (if x.2 = 1 then q.valid = false else if x.2 = 2 then q.valid = true ∧ q.sealed = true
          else if x.2 = 3 then q.usable = true ∧ q.grants permUnseal = false
          else q.usable = true ∧ q.grants permUnseal = true ∧ (p.sealType.toNat < q.base ∨ q.base + q.len ≤ p.sealType.toNat))) := by
  refine ⟨by decide +kernel, ?_, by decide +kernel, by decide +kernel, by decide +kernel⟩
  simp only [List.forall_mem_cons]
  refine ⟨by decide +kernel, by decide +kernel, by decide +kernel, by decide +kernel, by decide +kernel, fun _ h => nomatch h⟩

/-- R242: an operand that passes, and one that fails each test. -/
theorem witness_PassTestsInOrder : (daPos (daOf 16 17) < 18 ∧ (64 : Nat) ≤ 64) ∧
    (∀ x ∈ [((PassReg.none, permStore, 4), 1), ((tPass 16 5 0xFFF 0 true 1, permStore, 4), 2), ((.rootShadow, permStore, 4), 9),
        ((tPass 16 5 0 0 false 0, permStore, 4), 3), ((tPass 16 5 0xFFF 0 false 0, permStore, 4), 4), ((tPass 16 4 0xFFF 0 false 0, permStore, 4), 4)],
      (if x.1.1.valid = false then 1 else if x.1.1.sealed = true then 2 else if (Acc.store).isStore = true ∧ x.1.1.shadow = true then 9
        else if x.1.2.1 &&& ~~~x.1.1.perm ≠ 0 then 3 else x.1.2.2) = x.2) := by decide +kernel

/-- A translation of 4096 words of the Plain to themselves, of a memory type. -/
def tPage (off : Nat) (mt : BitVec 3) : TlbEnt :=
  { space := 0, glb := true, base := (plainAddr off).toNat, size := 12, frame := plainAddr off, key := 0, fp := false, acc := 7, mt := mt, chg := true,
    entry := 0, forStore := false }

/-- A core with a shadow stack at word 0x3000 + k of the Plain, in a shadow page, and G1 a target. -/
def tStack (k : Nat) (v : Word) : Core :=
  { tG [(1, v)] tCore with ssp := plainAddr (0x3000 + k), troot := 1, itlb := [tPage 0x1000 0], dtlb := [tPage 0x3000 2] }

def tB (cond : BitVec 4) (disp : BitVec 24) : FmtB := { cond := cond, disp := disp }

/-- A state whose shadow stack holds a call entry for the target in G1. -/
def tRet : State := tMem [(0x3000, at' (1 : BitVec 4) 68 ||| tDa 0x1800 9)] (tSt (tStack 0 (tDa 0x1800 9)))
def tRa : FmtA := { rd := 0, ra := 1, rb := 0, fn := 0 }
def tCall : State := tSt (tStack 8 (tDa 0x1800 9))

/-- A core at a slot of a word of the address space. -/
def tAt (w : BitVec 52) (pos : Nat) : State :=
  tSt { tCore with pc := daOf w pos, troot := 1, itlb := [{ tPage 0x1000 0 with base := w.toNat / 4096 * 4096 }] }

set_option maxRecDepth 8000 in
theorem witness_BranchesAndCalls :
    ((tSt tCore).core 0 (shapeB (tB 0 4))).cond 0 = false ∧ (tSt tCore).runs 0 (shapeB (tB 0 4)) = true ∧
    (let f := tB 14 4
     let c := (tSt tCore).core 0 (shapeB f)
     c.cond f.cond = true ∧ c.reaches (9 * f.disp.toInt) ∧ c.mayGo (daAdd c.pc (9 * f.disp.toInt)) ∧ (tSt tCore).starts 0 (shapeB f) = true) ∧
    (let f := tB 14 2
     let s := tAt (-1) 0
     let c := s.core 0 (shapeB f)
     c.cond f.cond = true ∧ ¬ c.reaches (9 * f.disp.toInt) ∧ s.starts 0 (shapeB f) = true) ∧
    (isTarget ((tRet.core 0 (shapeBr tRa)).gr 1) ∧ (tRet.core 0 (shapeBr tRa)).mayGo (bits ((tRet.core 0 (shapeBr tRa)).gr 1) 0 57) ∧
      tRet.starts 0 (shapeBr tRa) = true) ∧
    (∃ (t : State) (r : WordRef), let v := bits ((tRet.core 0 (shapeRet tRa)).gr 1) 0 57
      popCheck 0 1 (tRet.fetched 0 (shapeRet tRa)) = .ok [r] t ∧ tRet.starts 0 (shapeRet tRa) = true ∧ isTarget ((tRet.core 0 (shapeRet tRa)).gr 1) ∧
      (tRet.core 0 (shapeRet tRa)).mayGo v ∧ t.settled 0 r ∧ t.cores[(0 : CoreId)].det = false ∧ bits (t.data r.pa) 68 4 = 1 ∧ bits (t.data r.pa) 0 57 = v) ∧
    (∃ (t : State) (r : WordRef), let sh := shapeCall (tB 14 4)
      let c := tCall.core 0 sh
      pushCheck 0 1 (tCall.fetched 0 sh) = .ok [r] t ∧ c.reaches (9 * 4) ∧ tCall.starts 0 sh = true ∧ c.mayGo (daAdd c.pc (9 * 4)) ∧ c.reaches 9 ∧
      t.storable 0 [r]) ∧
    ∃ (t : State) (r : WordRef), let sh := shapeCallr { tRa with rd := 5 }
      let c := tCall.core 0 sh
      pushCheck 0 1 (tCall.fetched 0 sh) = .ok [r] t ∧ isTarget (c.gr 1) ∧ tCall.starts 0 sh = true ∧ c.mayGo (bits (c.gr 1) 0 57) ∧ c.reaches 9 ∧
      t.storable 0 [r] := by
  refine ⟨?_, ?_, ?_, ?_, ?_, ⟨_, _, ok_eq [] (by decide +kernel), ?_⟩, ⟨_, _, ok_eq [] (by decide +kernel), ?_⟩, ⟨_, _, ok_eq [] (by decide +kernel), ?_⟩⟩ <;>
    (try simp only [Core.reaches, Core.mayGo, isTarget, State.settled, State.storable, State.Inv]) <;> decide +kernel

/-- A core about to enter a domain: P1 and P2 sealed under one type. -/
def tEnter (k : Nat) : State :=
  tSt (((tStack k 0).setP 1 (tPass 0x1000 0x1000 0xFFF 0 true 7)).setP 2 (tPass 0x5000 0x10 0xFFF 0 true 7))

/-- A domain frame on the shadow stack, with a pad word or without. -/
def tLeave (pad : Word) : State :=
  tMem [(0x3000, at' (2 : BitVec 4) 68 ||| tDa 0x1800 9), (0x3001, pad), (0x3006, at' (0xF : BitVec 4) 68)] (tSt (tStack 0 0))
def tZ : FmtA := { rd := 0, ra := 0, rb := 0, fn := 0 }
def tEn : FmtA := { rd := 0, ra := 1, rb := 2, fn := 0 }

set_option maxRecDepth 8000 in
theorem witness_ProtectedCalls :
    (∀ pad : Bool, let s := tEnter (if pad then 9 else 8)
      ∃ (t : State) (rs : List WordRef), pushCheck 0 (if pad then 7 else 6) (s.fetched 0 (shapeEnter tEn)) = .ok rs t ∧
      let c := s.core 0 (shapeEnter tEn)
      let a := c.pr 1
      let b := c.pr 2
      bit c.ssp 0 = pad ∧ s.starts 0 (shapeEnter tEn) = true ∧ a.valid = true ∧ b.valid = true ∧ a.sealed = true ∧ b.sealed = true ∧
      a.sealType = b.sealType ∧ a.grants permEnter = true ∧ b.grants permEnter = true ∧ a.grants permExec = true ∧ c.reaches 9 ∧
      t.storable 0 rs ∧ (∀ r ∈ rs, r.mask = maskAll) ∧
      (∀ k ∈ [2, 4], (rs.map fun r => r.pa)[k + 1]? = ((rs.map fun r => r.pa)[k]?).map (· + 1) ∧
        (rs.map fun r => r.pa)[k + 1]? = ((rs.map fun r => r.pa)[k]?).map pairWord)) ∧
    (let s := tLeave 1
      ∃ (r0 : WordRef) (t1 t2 t : State) (rs r6 : List WordRef), popCheck 0 1 (s.fetched 0 (shapeLeave tZ)) = .ok [r0] t1 ∧
      popCheck 0 6 t1 = .ok rs t2 ∧ popCheck 0 7 t2 = .ok r6 t ∧ s.starts 0 (shapeLeave tZ) = true ∧ t1.settled 0 r0 ∧
      t1.cores[(0 : CoreId)].det = false ∧ bits (t1.data r0.pa) 68 4 = 2 ∧ (∀ r ∈ rs, t2.settled 0 r) ∧ t2.cores[(0 : CoreId)].det = false ∧
      bit (t2.data ((rs.map fun r => r.pa).getD 1 0)) 0 = true ∧ (∀ r ∈ r6, t.settled 0 r) ∧ t.cores[(0 : CoreId)].det = false ∧
      (∀ r ∈ rs, t.settled 0 r)) ∧
    (let s := tLeave 0
      ∃ (r0 : WordRef) (t1 t2 : State) (rs : List WordRef), popCheck 0 1 (s.fetched 0 (shapeLeave tZ)) = .ok [r0] t1 ∧
      popCheck 0 6 t1 = .ok rs t2 ∧ s.starts 0 (shapeLeave tZ) = true ∧ t1.settled 0 r0 ∧ t1.cores[(0 : CoreId)].det = false ∧
      bits (t1.data r0.pa) 68 4 = 2 ∧ (∀ r ∈ rs, t2.settled 0 r) ∧ t2.cores[(0 : CoreId)].det = false ∧
      bit (t2.data ((rs.map fun r => r.pa).getD 1 0)) 0 = false) := by
  refine ⟨?_, ⟨_, _, _, _, _, _, ok_eq [] (by decide +kernel), ok_eq [] (by decide +kernel), ok_eq [] (by decide +kernel), ?_⟩,
    ⟨_, _, _, _, ok_eq [] (by decide +kernel), ok_eq [] (by decide +kernel), ?_⟩⟩
  · intro pad
    cases pad <;> refine ⟨_, _, ok_eq [] (by decide +kernel), ?_⟩ <;> simp only [Core.reaches, State.storable, State.Inv] <;> decide +kernel
  · simp only [State.settled]
    decide +kernel
  · simp only [State.settled]
    decide +kernel

/-- A core with three words in its store buffer and, at choice, a recorded late store error. -/
def tSync (e : Bool) (w : List (Fin 64) := []) : State :=
  tSt { tCore with windows := w, storeBuf := [{ pa := plainAddr 0x2000, data := 5, mask := maskAll, pass := none }], lseStat := flagAt e 71 ||| 1, pipeCtl := 1 }

set_option maxRecDepth 8000 in
theorem witness_SyncInstructions :
    let t (e : Bool) := ((tSync e).fetched 0 (shapeSyncM tZ)).drainAll 0
    let w := ((tSync false).fetched 0 (shapeSyncC tZ)).drainAll 0
    (tSync false).runs 0 (shapeSyncI tZ) = true ∧
    ((tSync false).runs 0 (shapeSyncM tZ) = true ∧ (t false).storesOut 0 = false ∧ (t false).cores[(0 : CoreId)].windows = [] ∧
      bit (t false).cores[(0 : CoreId)].lseStat 71 = false) ∧
    ((tSync false [3]).starts 0 (shapeSyncM tZ) = true ∧ (((tSync false [3]).fetched 0 (shapeSyncM tZ)).drainAll 0).cores[(0 : CoreId)].windows ≠ []) ∧
    ((tSync false).runs 0 (shapeSyncC tZ) = true ∧ w.storesOut 0 = false ∧ w.cores[(0 : CoreId)].windows = [] ∧ bit w.cores[(0 : CoreId)].lseStat 71 = false ∧
      w.cores[(0 : CoreId)].det = false) ∧
    (tSync true).starts 0 (shapeSyncM tZ) = true ∧ (t true).storesOut 0 = false ∧
      (t true).cores[(0 : CoreId)].windows = [] ∧ bit (t true).cores[(0 : CoreId)].lseStat 71 = true := by decide +kernel

/-- G1 and G2 for an invalidation under P1. -/
def tInv (a b : Word) : State := tSt { tG [(1, a), (2, b)] tCore with dtlb := [tPage 0x3000 2] }

set_option maxRecDepth 8000 in
theorem witness_InvalidationsDropTranslations :
    let ready (s : State) (sh : Shape) : Prop :=
      let p := (s.core 0 sh).pr 1
      let t := ((s.fetched 0 sh).drainAll 0).updQuad (quadOf 0) fun q => { q with remote := [] }
      s.runs 0 sh = true ∧ p.usable = true ∧ p.grants permDevice = true ∧ ((s.fetched 0 sh).drainAll 0).storesOut 0 = false ∧
      t.cores[(0 : CoreId)].windows = [] ∧ bit t.cores[(0 : CoreId)].lseStat 71 = false ∧ t.drainEvery.accessesOut = false
    let f : FmtA := { rd := 0, ra := 1, rb := 2, fn := 1 }
    let s := tInv (2 ^ 57 - 15) 0xFFFF
    let u := tInv 0xFFFF 0
    (ready s (shapeInvpg f) ∧ ((s.core 0 (shapeInvpg f)).gr 2).toNat < 2 ^ 16 ∧ ((s.core 0 (shapeInvpg f)).gr 1).toNat < 2 ^ 57) ∧
    (ready u (shapeInvsp { f with rb := 0 }) ∧ ((u.core 0 (shapeInvsp { f with rb := 0 })).gr 1).toNat < 2 ^ 16) ∧
    ready u (shapeInvall { f with ra := 0, rb := 0 }) := by
  decide +kernel

/-- A save area at word 0x4000 of the Plain at the head of both chains, under P1. -/
def tArea (x : Bool) (hdr : BitVec 4) : State :=
  tMem [(0x4001, at' hdr 68 ||| flagAt x 67)] (tSt { tG [(1, (plainAddr 0x4000).setWidth 72)] tCore with swh := plainAddr 0x4000, swx := plainAddr 0x4000 })

set_option maxRecDepth 8000 in
theorem witness_SavesAndRestores :
    let ready (s : State) (sh : Shape) (a : WAddr) (stored : List Nat) (t : State) : Prop :=
      let p := (s.core 0 sh).pr 1
      s.runs 0 sh = true ∧ p.usable = true ∧ p.grants permDevice = true ∧ a.toNat % 8 = 0 ∧ rangeInMem a 40 = true ∧
      (s.fetched 0 sh).guardedWords a stored = false ∧ (Memory.wf t.mem = true ∧ hostWf t.hostMem = true) ∧ t.cores[(0 : CoreId)].det = false
    let a := plainAddr 0x4000
    let sv (x : Bool) : FmtA := { rd := 3, ra := 0, rb := 0, fn := if x then 0x11 else 1 }
    let rs : FmtA := { rd := 0, ra := 1, rb := 0, fn := 1 }
    (∀ x : Bool, ∀ y ∈ [(shapeSaveL (sv x), false), (shapeSaveU (sv x), true)],
      let sh := y.1
      let s := tArea x 0
      let t := (s.fetched 0 sh).drainAll 0
      (if x then (s.core 0 sh).swx else (s.core 0 sh).swh) = a ∧ a ≠ 0 ∧ ready s sh a (savedWords y.2) t ∧ (t.cell a).bad = false) ∧
    (∀ x : Bool, ∀ y ∈ [(shapeRestL rs, (1 : BitVec 4)), (shapeRestU rs, 2)],
      let s := tArea x y.2
      let v := (s.core 0 y.1).gr 1
      let t := (s.fetched 0 y.1).drainAll 0
      v.toNat < 2 ^ 52 ∧ bits v 0 52 = a ∧ ready s y.1 a [0, 1] t ∧ (∀ k : Nat, k < 35 → (t.cell (a + BitVec.ofNat 52 k)).bad = false) ∧
      bits (t.data (a + 1)) 68 4 = y.2) := by decide +kernel

/-! ## Entries -/

def entryOk (n : CoreId) (i : EntryInfo) (a : WAddr) (s : State) : Bool := match (entryChecks n i a s).1 with
  | .ok _ _ _ _ => true
  | _ => false
def entryGot (n : CoreId) (i : EntryInfo) (a : WAddr) (s : State) : List WAddr × DAddr × PassReg × PassReg := match (entryChecks n i a s).1 with
  | .ok pas vec p15 p14 => (pas, vec, p15, p14)
  | _ => ([], 0, .none, .none)
theorem entry_eq {n : CoreId} {i : EntryInfo} {a : WAddr} {s : State} {pas vec p15 p14} (h : entryOk n i a s = true)
    (g : entryGot n i a s = (pas, vec, p15, p14)) : entryChecks n i a s = (.ok pas vec p15 p14, (entryChecks n i a s).2) := by
  unfold entryOk entryGot at *
  generalize entryChecks n i a s = y at *
  obtain ⟨_ | _ | _, t⟩ := y
  · simp only [Prod.mk.injEq] at g
    obtain ⟨rfl, rfl, rfl, rfl⟩ := g
    rfl
  · cases h
  · cases h

/-- A pair of words that holds the pass of R263. -/
def tPassAt (off : Nat) (s : State) : State :=
  (s.putCell (plainAddr off) { data := PassReg.rootP15.w0, tag := true, bad := false }).putCell (plainAddr (off + 1))
    { data := PassReg.rootP15.w1, tag := true, bad := false }

/-- A core with a level table at word 0x5000 of the Plain: the entry of each level given has its vector at word 0x1800, its fault vector at 0x1900
and its frames below word 0x6000. -/
def tTable (ls : List Nat) (c : Core) : State :=
  ls.foldl (fun s m => tPassAt (0x5004 + 8 * m) (tPassAt (0x5006 + 8 * m)
      (tMem [(0x5000 + 8 * m, tDa 0x1800 0), (0x5001 + 8 * m, tDa 0x1900 9), (0x5002 + 8 * m, (plainAddr 0x6000).setWidth 72)] s)))
    (tSt { c with ltb := plainAddr 0x5000 })

def tInfo (k : EntryKind) : EntryInfo := { kind := k, level := 1, fault := { cls := 5, code := 3 }, source := 0, merged := 0, pc := 0, instr := 0 }

/-- The words of a frame below word 0x6000. -/
def tPas (k : Nat) : List WAddr := (List.range 12).map fun j => plainAddr (0x6000 - k + j)
theorem tPas_nodup : (tPas 12).Nodup := by
  have h : tPas 12 = [0x1000000005ff4, 0x1000000005ff5, 0x1000000005ff6, 0x1000000005ff7, 0x1000000005ff8, 0x1000000005ff9, 0x1000000005ffa, 0x1000000005ffb, 0x1000000005ffc, 0x1000000005ffd, 0x1000000005ffe, 0x1000000005fff] := by decide +kernel
  rw [h]
  decide +kernel

set_option maxRecDepth 8000 in
theorem witness_EntriesReachTheHandler :
    (∃ t : State, (tTable [1] tCore).entryPasses 0 (tInfo .event) (tPas 12) (daOf (plainAddr 0x1800) 0) .rootP15 .rootP15 t ∧ t.Inv) ∧
    (tPas 12).length = 12 ∧ (tPas 12).Nodup ∧ (∀ pa ∈ tPas 12, isLocalMem pa = true) ∧
      (∀ k ∈ [2, 4], (tPas 12)[k + 1]? = ((tPas 12)[k]?).map (· + 1) ∧ (tPas 12)[k + 1]? = ((tPas 12)[k]?).map pairWord) ∧
    (∃ t : State, (tTable [1] tCore).entryPasses 0 (tInfo .trap) (tPas 12) (daOf (plainAddr 0x1800) 0) .rootP15 .rootP15 t) ∧
    (∃ t : State, (tTable [1] tCore).entryPasses 0 (tInfo .fault) (tPas 24) (daOf (plainAddr 0x1900) 9) .rootP15 .rootP15 t) ∧
    ∃ t : State, (tTable [8] tCore).entryPasses 0 (tInfo .double) (tPas 12) (daOf (plainAddr 0x1800) 0) .rootP15 .rootP15 t := by
  refine ⟨⟨_, ⟨entry_eq (by decide +kernel) (by decide +kernel), ?_⟩, ?_⟩, ?_, tPas_nodup, List.all_eq_true.mp (by decide +kernel), ?_, ⟨_, entry_eq (by decide +kernel) (by decide +kernel), ?_⟩,
    ⟨_, entry_eq (by decide +kernel) (by decide +kernel), ?_⟩, ⟨_, entry_eq (by decide +kernel) (by decide +kernel), ?_⟩⟩ <;>
    (try unfold State.Inv) <;> decide +kernel

/-- A core to which source 5 is offered, of a level that bits give. -/
def tOffer : State :=
  let s := tTable [1] { tCore with offer := some (5, 1) }
  { s with srcs := s.srcs.set 5 { s.srcs[5] with cfg := at' (9 : BitVec 4) 68 ||| 1, pend := true } }
def tTrap : FmtI := { rd := 0, ra := 0, imm := 7 }

/-- A core in an event of level 1, with its frame in memory; the frame's saved status names level 0, as at its entry. -/
def tFrame : State :=
  tPassAt 0x5FF6 (tPassAt 0x5FF8 (tMem [(0x5FF4, tDa 0x1800 9), (0x5FF5, at' (5 : BitVec 4) 68)]
    (tSt { tCore with active := 2, st := at' (1 : BitVec 3) 55, frames := [{ bit := 1, addrs := tPas 12 }] })))

set_option maxRecDepth 8000 in
theorem witness_EventsTrapsAndReturns :
    (∃ t : State, let s := tOffer
      let k : SrcId := 5
      (s.takeSource 0 k).entryPasses 0
        { kind := .event, level := 1, fault := { cls := 0 }, source := BitVec.ofNat 10 k.val,
          merged := s.srcs[k].merges - s.srcs[k].mark, pc := s.cores[(0 : CoreId)].pc, instr := 0 }
        (tPas 12) (daOf (plainAddr 0x1800) 0) .rootP15 .rootP15 t ∧
      s.cores[(0 : CoreId)].atBoundary = true ∧ s.taken 0 = some (k, 1) ∧ s.cores[(0 : CoreId)].det = false) ∧
    (∃ t : State, let s := tTable [1] tCore
      let sh := shapeTrap tTrap
      let c := s.core 0 sh
      let wv := (s.fetched 0 sh).instrWord 0
      wv.2.entryPasses 0
        { kind := .trap, level := c.lvl + 1, fault := { cls := 0, detail := tTrap.imm.setWidth 72 }, source := 0, merged := 0,
          pc := daAdd c.pc 9, instr := wv.1 } (tPas 12) (daOf (plainAddr 0x1800) 0) .rootP15 .rootP15 t ∧
      s.starts 0 sh = true ∧ c.posts = [] ∧ c.lvl ≠ 7 ∧ bit c.active 16 = false ∧ bit c.active 17 = false ∧ c.reaches 9) ∧
    (∀ c ∈ [{ tCore with st := at' (7 : BitVec 3) 55 }, { tCore with active := 0x10000 }, { tCore with active := 0x20000 }],
      let sh := shapeTrap tTrap
      let d := (tSt c).core 0 sh
      (tSt c).starts 0 sh = true ∧ d.posts = [] ∧ (d.lvl = 7 ∨ bit d.active 16 = true ∨ bit d.active 17 = true)) ∧
    (let s := tFrame
     let sh := shapeFrel tZ
     let v := (s.fetched 0 sh).drainAll 0
     let fr : FrameRec := { bit := 1, addrs := tPas 12 }
     let w := v.data (fr.addrs.getD 0 0)
     s.starts 0 sh = true ∧ (s.core 0 sh).innermost = some 1 ∧ (s.core 0 sh).frames = [fr] ∧ v.cores[(0 : CoreId)].frames = [fr] ∧
       v.cores[(0 : CoreId)].det = false ∧ (∀ k : Nat, k < 6 → (v.cell (fr.addrs.getD k 0)).bad = false) ∧
       (v.cell (fr.addrs.getD 2 0 + 1)).bad = false ∧ (v.cell (fr.addrs.getD 4 0 + 1)).bad = false ∧ w.toNat < 2 ^ 57 ∧
       (w.toNat % 32 = 0 ∨ w.toNat % 32 = 9)) := by
  refine ⟨⟨_, ⟨entry_eq (by decide +kernel) (by decide +kernel), ?_⟩, ?_⟩, ⟨_, ⟨entry_eq (by decide +kernel) (by decide +kernel), ?_⟩, ?_⟩, ?_, ?_⟩ <;>
    (try unfold Core.reaches) <;> decide +kernel

/-- A core with an emergency stack at word 0x6000 of the Plain. -/
def tEsc (active : BitVec 18) (dfl : Bool) : Core :=
  { tCore with esp := plainAddr (if dfl then 0x6001 else 0x6000), ep15 := .rootP15, ep14 := .rootP15, active := active }

/-- R327: an escalation that arrives, and one that is lost for an odd ESP. -/
theorem witness_EscalationsReachLevelE :
    let ok (s : State) : Prop := let c := s.cores[(0 : CoreId)]
      let lo := c.esp - 12
      bit c.active 17 = false ∧ bit c.esp 0 = false ∧ rangeInMem lo 12 = true ∧ c.ep15.valid = true ∧ c.ep14.valid = true ∧
        ∀ i : Nat, i < 12 → regionOf (lo + BitVec.ofNat 52 i) = .plain → s.guarded (offsetOf (lo + BitVec.ofNat 52 i)) = false
    (ok (tSt (tEsc 0 false)) ∧ (tSt (tEsc 0 false)).cores[(0 : CoreId)].det = false ∧ (tSt (tEsc 0 false)).cores[(0 : CoreId)].storeBuf = []) ∧
    ¬ ok (tSt (tEsc 0 true)) := by decide +kernel

/-- R319, R325, R328: no ACTIVE bit, FA of the current level, DF, and E. -/
theorem witness_FaultsChooseTheirEntry :
    let c (a : BitVec 18) := (tSt (tEsc a false)).cores[(0 : CoreId)]
    (bit (c 0).active 17 = false ∧ bit (c 0).active 16 = false ∧ bit (c 0).active (8 + (c 0).lvl.toNat) = false) ∧
    (bit (c 0x100).active 17 = false ∧ bit (c 0x100).active 16 = false ∧ bit (c 0x100).active (8 + (c 0x100).lvl.toNat) = true) ∧
    (bit (c 0x10000).active 17 = false ∧ bit (c 0x10000).active 16 = true) ∧ bit (c 0x20000).active 17 = true := by decide +kernel

/-! ## Decimal -/

def packedB (l : List (BitVec 4)) : Bool := !l.isEmpty && l.dropLast.all (fun d => decide (d.toNat ≤ 9)) && decide (10 ≤ (l.getLastD 0).toNat)

theorem isPacked_iff (l : List (BitVec 4)) : isPacked l ↔ packedB l = true := by
  simp [isPacked, packedB, and_assoc]

/-- G1 = -12, G2 = +5, and the pair G6, G7 = 7 * 10^18 + 3. -/
def tDec : State := tSt (tG [(1, 0x12D), (2, 0x5C), (6, 7), (7, 0x3C)] tCore)

theorem witness_DecimalRegisterResults :
    (let s := tDec
     let ok (sh : Shape) (ra rb : BitVec 5) : Prop :=
       isPacked (posList ((s.core 0 sh).gr ra)) ∧ isPacked (posList ((s.core 0 sh).gr rb)) ∧ s.runs 0 sh = true
     ok (shapeDadd tA) 1 2 ∧ ok (shapeDsub tA) 1 2 ∧ ok (shapeDmul { tA with rd := 4 }) 1 2 ∧ ok (shapeDcmp { tA with rd := 0 }) 1 2) ∧
    (∀ x ∈ [({ tA with rd := 4 }, (1 : BitVec 5), false), ({ tA with rd := 4, ra := 6, fn := 0x400 }, 6, true), ({ tA with fn := 9 }, 1, false),
        ({ tA with ra := 6, fn := 0x40E }, 6, true)],
      let c := tDec.core 0 (shapeDdiv x.1)
      isPacked (c.decSource x.2.1 x.2.2) ∧ isPacked (posList (c.gr 2)) ∧ fieldInt (posList (c.gr 2)) ≠ 0 ∧ tDec.runs 0 (shapeDdiv x.1) = true) ∧
    (∀ x ∈ [({ tA with rb := 0, fn := 63 * 8 }, (63 : Int)), ({ tA with rb := 0, fn := 64 * 8 }, -64), ({ tA with rb := 0, ra := 6, fn := 0x400 }, 0)],
      let c := tDec.core 0 (shapeDshr x.1)
      isPacked (c.decSource x.1.ra (bit x.1.fn 10)) ∧ (bits x.1.fn 3 7).toInt = x.2 ∧ tDec.runs 0 (shapeDshr x.1) = true) ∧
    (let s := tSt (tG [(1, 0x12D), (2, -1)] tCore)
     isPacked ((s.core 0 (shapeDshr tA)).decSource 1 false) ∧ ((s.core 0 (shapeDshr tA)).gr 2).toInt < 0 ∧ s.runs 0 (shapeDshr tA) = true) ∧
    tDec.runs 0 (shapeCvbd tA1) = true ∧ tDec.runs 0 (shapeCvbd { tA1 with rd := 4, fn := 0x400 }) = true ∧
    (isPacked ((tDec.core 0 (shapeCvdb tA1)).decSource 1 false) ∧ tDec.runs 0 (shapeCvdb tA1) = true) ∧
    isPacked ((tDec.core 0 (shapeCvdb { tA1 with ra := 6, fn := 0x400 })).decSource 6 true) ∧
      tDec.runs 0 (shapeCvdb { tA1 with ra := 6, fn := 0x400 }) = true := by
  simp only [isPacked_iff]
  decide +kernel

/-- R93, R86: 12 from 5 leaves 7 with a minus; a sum of 18 digits overflows and the low 17 stay. -/
theorem test_dadd : (after (.dadd 0 tA) tDec).cores[0].gr 3 = 0x7D ∧
    (let u := after (.dadd 0 tA) (tSt (tG [(1, 0x99999999999999999C), (2, 0x1C)] tCore))
     u.cores[0].gr 3 = 0xC ∧ u.cores[0].flagV = true ∧ u.cores[0].flagZ = true) := by decide +kernel

/-- Operand 1 of l1 + 1 positions at word 0x2000, position 16; operand 2 of l2 + 1 positions at word 0x2100. -/
def tS (l1 l2 : BitVec 6) : FmtS := { l1 := l1, l2 := l2, rnd := 0, res := 0, b1 := 1, p1 := 1, d1 := 0, b2 := 3, p2 := 2, d2 := 0 }

/-- Operand 1 is +12, or the positions given; operand 2 the positions given; G2 the scale or the control. -/
def tField (w1 w1' w2 : Word) (g2 : Word) : State :=
  tMem [(0x2000, w1), (0x2001, w1'), (0x2100, w2)] (tSt (tG [(1, tDa 0x2000 16), (2, g2), (3, tDa 0x2100 0)] tCore))

theorem storable_of {t : State} {n : CoreId} {rs : List WordRef}
    (h : ((Memory.wf t.mem && hostWf t.hostMem) && (!t.cores[n].det) && decide ((rs.map fun r => r.pa).Nodup) &&
      decide (t.cores[n].bufferUsed + rs.length ≤ 32) &&
      rs.all fun r => isLocalMem r.pa && !(t.drainedCell n r.pa).bad && r.ent.chg) = true) : t.storable n rs := by
  simp only [Bool.and_eq_true, List.all_eq_true, Bool.not_eq_true', decide_eq_true_eq] at h
  obtain ⟨⟨⟨⟨h1, h2⟩, h3⟩, h4⟩, h5⟩ := h
  exact ⟨h1, h2, h3, h4, fun r hr => ⟨(h5 r hr).1.1, (h5 r hr).1.2, (h5 r hr).2⟩⟩

theorem settled_of {t : State} {n : CoreId} {rs : List WordRef}
    (h : (rs.all fun r => isLocalMem r.pa && !(t.cell r.pa).bad && t.cores[n].storeBuf.all fun e => e.maskAt r.pa == 0) = true) :
    ∀ r ∈ rs, t.settled n r := by
  simp only [Bool.and_eq_true, List.all_eq_true, Bool.not_eq_true', beq_iff_eq] at h
  exact fun r hr => ⟨(h r hr).1.1, (h r hr).1.2, (h r hr).2⟩

/-- DADD.M on the last positions of one word and the first of the next; DSHR.M and DCMP.M; scales of 63 and -64. -/
def tOps (s : State) (f : FmtS) (sh : Shape) (need : BitVec 12) (a : Acc) (l1 l2 : List (BitVec 4)) : Prop :=
  ∃ (t : State) (r1 : List WordRef), OperandsPass s 0 f sh need a r1 l1 l2 t ∧ t.storable 0 r1

/-- What `tOps` asks, as a check. -/
theorem tOps_of {s : State} {f : FmtS} {sh : Shape} {need : BitVec 12} {a : Acc} {l1 l2 : List (BitVec 4)}
    (h1 : s.runs 0 sh = true) (h2 : decide (((s.core 0 sh).gr f.b1).toNat < 2 ^ 57 ∧ ((s.core 0 sh).gr f.b1).toNat % 32 < 18) = true)
    (h3 : okOf (operand 0 1 f.p1 need a (daAdd (bits ((s.core 0 sh).gr f.b1) 0 57) f.d1.toInt) (f.l1.toNat + 1)) (s.fetched 0 sh) = true)
    (h4 : let t1 := stateOf (operand 0 1 f.p1 need a (daAdd (bits ((s.core 0 sh).gr f.b1) 0 57) f.d1.toInt) (f.l1.toNat + 1)) (s.fetched 0 sh)
      let r1 := resOf (operand 0 1 f.p1 need a (daAdd (bits ((s.core 0 sh).gr f.b1) 0 57) f.d1.toInt) (f.l1.toNat + 1)) (s.fetched 0 sh) []
      let m2 := operand 0 2 f.p2 permLoad .load (daAdd (bits (t1.cores[(0 : CoreId)].gr f.b2) 0 57) f.d2.toInt) (f.l2.toNat + 1)
      let t := stateOf m2 t1
      let r2 := resOf m2 t1 []
      (decide ((t1.cores[(0 : CoreId)].gr f.b2).toNat < 2 ^ 57 ∧ (t1.cores[(0 : CoreId)].gr f.b2).toNat % 32 < 18) && okOf m2 t1 &&
        !t.cores[(0 : CoreId)].det &&
        ((r1 ++ r2).all fun r => isLocalMem r.pa && !(t.cell r.pa).bad && t.cores[(0 : CoreId)].storeBuf.all fun e => e.maskAt r.pa == 0) &&
        (l1 == gather r1 (r1.map fun r => t.data r.pa)) && (l2 == gather r2 (r2.map fun r => t.data r.pa)) &&
        ((Memory.wf t.mem && hostWf t.hostMem) && (!t.cores[(0 : CoreId)].det) && decide ((r1.map fun r => r.pa).Nodup) &&
          decide (t.cores[(0 : CoreId)].bufferUsed + r1.length ≤ 32) &&
          r1.all fun r => isLocalMem r.pa && !(t.drainedCell 0 r.pa).bad && r.ent.chg)) = true) :
    tOps s f sh need a l1 l2 := by
  simp only [Bool.and_eq_true, decide_eq_true_eq, Bool.not_eq_true', beq_iff_eq] at h4
  obtain ⟨⟨⟨⟨⟨⟨h5, h6⟩, h7⟩, h8⟩, h9⟩, h10⟩, h11⟩ := h4
  have h2 := of_decide_eq_true h2
  refine ⟨_, _, ⟨h1, h2, _, _, ok_eq [] h3, h5, ok_eq [] h6, h7, settled_of h8, h9, h10⟩, storable_of ?_⟩
  simp only [Bool.and_eq_true, decide_eq_true_eq, Bool.not_eq_true']
  exact h11

/-- +12 in positions 16 and 17 of one word and 0 and 1 of the next; -123 as operand 2. -/
def tNum (g2 : Word) : State := tField 0x01 ((0x2C : Word) <<< 64) ((0x123D : Word) <<< 56) g2

/-- R98: both operands packed and of at least one digit, scales at the ends of their range. -/
theorem witness_DecimalStorageResults :
    let l1 : List (BitVec 4) := [0, 1, 2, 12]
    let l2 : List (BitVec 4) := [1, 2, 3, 13]
    let f := tS 3 3
    (isPacked l1 ∧ isPacked l2 ∧ fieldInt l2 ≠ 0 ∧ 1 ≤ f.l1.toNat ∧ 1 ≤ f.l2.toNat) ∧
    (((tNum 63).core 0 (shapeDaddM f)).gr 2).toNat < 2 ^ 7 ∧ tOps (tNum 63) f (shapeDaddM f) permUpdate .update l1 l2 ∧
    (((tNum 64).core 0 (shapeDsubM f)).gr 2).toNat < 2 ^ 7 ∧ tOps (tNum 64) f (shapeDsubM f) permUpdate .update l1 l2 ∧
    (((tNum 127).core 0 (shapeDmulM f)).gr 2).toNat < 2 ^ 7 ∧ tOps (tNum 127) f (shapeDmulM f) permUpdate .update l1 l2 ∧
    (((tNum 1).core 0 (shapeDdivM f)).gr 2).toNat < 2 ^ 7 ∧ tOps (tNum 1) f (shapeDdivM f) permUpdate .update l1 l2 ∧
    (((tNum 127).core 0 (shapeDshrM f)).gr 2).toNat < 2 ^ 7 ∧ tOps (tNum 127) f (shapeDshrM f) permStore .store l1 l2 ∧
    (((tNum 0).core 0 (shapeDcmpM f)).gr 2).toNat < 2 ^ 7 ∧ tOps (tNum 0) f (shapeDcmpM f) permLoad .load l1 l2 := by
  refine ⟨?_, ?_, ?_, ?_, ?_, ?_, ?_, ?_, ?_, ?_, ?_, ?_, ?_⟩
  · simp only [isPacked_iff]; decide +kernel
  all_goals first | decide +kernel | exact tOps_of (by decide +kernel) (by decide +kernel) (by decide +kernel) (by decide +kernel)

theorem states_of {m : M α} {s : State} {P : State → Prop} (h : P (stateOf m s)) : ∀ t r, m s = .ok r t → P t := by
  intro t r e
  simpa only [stateOf, e] using h

/-- R100-R105: zoned octets F1 F2 C3; the packed field +123; the text " -12.5 "; and +123 as text of two places. -/
theorem witness_DecimalConversions :
    (let f := tS 3 5
     let l2 : List (BitVec 4) := [0xF, 1, 0xF, 2, 0xC, 3]
     tOps (tField 0 0 ((0xF1F2C3 : Word) <<< 48) 0) f (shapePack f) permStore .store [0, 0, 0, 0] l2 ∧ (f.l2.toNat + 1) % 2 = 0 ∧
     (∀ t1 r, operand 0 1 f.p1 permStore .store (daAdd (bits (((tField 0 0 ((0xF1F2C3 : Word) <<< 48) 0).core 0 (shapePack f)).gr f.b1) 0 57) f.d1.toInt)
        (f.l1.toNat + 1) ((tField 0 0 ((0xF1F2C3 : Word) <<< 48) 0).fetched 0 (shapePack f)) = .ok r t1 →
      daPos (daAdd (bits (t1.cores[(0 : CoreId)].gr f.b2) 0 57) f.d2.toInt) % 2 = 0) ∧ 1 ≤ f.l1.toNat ∧ l2.length = 2 * ((f.l2.toNat + 1) / 2) ∧
     (∀ j : Nat, j < (f.l2.toNat + 1) / 2 → (l2.getD (2 * j + 1) 0).toNat ≤ 9 ∧
       (if j + 1 = (f.l2.toNat + 1) / 2 then l2.getD (2 * j) 0 = 3 ∨ 10 ≤ (l2.getD (2 * j) 0).toNat
        else l2.getD (2 * j) 0 = 3 ∨ l2.getD (2 * j) 0 = 0xF))) ∧
    (let f := tS 3 3
     let l2 : List (BitVec 4) := [1, 2, 3, 13]
     let ea := daAdd (bits (((tNum 0).core 0 (shapeUnpk f)).gr f.b1) 0 57) f.d1.toInt
     tOps (tNum 0) f (shapeUnpk f) permStore .store [0, 1, 2, 12] l2 ∧ 1 ≤ f.l2.toNat ∧ (f.l1.toNat + 1) % 2 = 0 ∧ daPos ea % 2 = 0 ∧ isPacked l2) ∧
    (let f := tS 3 13
     let s := tField 0 0 ((0x202D31322E3520 : Word) <<< 16) 2
     let l2 : List (BitVec 4) := [2, 0, 2, 13, 3, 1, 3, 2, 2, 14, 3, 5, 2, 0]
     tOps s f (shapeCvtx f) permStore .store [0, 0, 0, 0] l2 ∧ (f.l2.toNat + 1) % 2 = 0 ∧ 1 ≤ f.l1.toNat ∧
     ((s.core 0 (shapeCvtx f)).gr 2).toNat < 2 ^ 7 ∧ (bits ((s.core 0 (shapeCvtx f)).gr 2) 0 7).toNat ≤ 63 ∧
     octetsAt l2 = List.replicate 1 (0x20 : BitVec 8) ++ [0x2D] ++ ([(1 : BitVec 4), 2].map fun x => (3 : BitVec 4) ++ x) ++
       (0x2E : BitVec 8) :: ([(5 : BitVec 4)].map fun x => (3 : BitVec 4) ++ x) ++ List.replicate 1 0x20 ∧ l2.length = 2 * ((f.l2.toNat + 1) / 2) ∧
     (∀ t1 r, operand 0 1 f.p1 permStore .store (daAdd (bits ((s.core 0 (shapeCvtx f)).gr f.b1) 0 57) f.d1.toInt) (f.l1.toNat + 1)
        (s.fetched 0 (shapeCvtx f)) = .ok r t1 → daPos (daAdd (bits (t1.cores[(0 : CoreId)].gr f.b2) 0 57) f.d2.toInt) % 2 = 0)) ∧
    (let f := tS 3 3
     let l2 : List (BitVec 4) := [1, 2, 3, 13]
     let g := ((tNum 0xBF).core 0 (shapeCvtx f)).gr 2
     tOps (tNum 0xBF) f (shapeCvtx f) permStore .store [0, 1, 2, 12] l2 ∧ g.toNat < 2 ^ 8 ∧ bit g 7 = true ∧ (bits g 0 7).toNat ≤ 63 ∧
     f.rnd = 0 ∧ isPacked l2 ∧ (f.l1.toNat + 1) % 2 = 0 ∧
     daPos (daAdd (bits (((tNum 0xBF).core 0 (shapeCvtx f)).gr f.b1) 0 57) f.d1.toInt) % 2 = 0) := by
  refine ⟨⟨tOps_of (by decide +kernel) (by decide +kernel) (by decide +kernel) (by decide +kernel), by decide +kernel, states_of (by decide +kernel), by decide +kernel, by decide +kernel, by decide +kernel⟩,
    ⟨tOps_of (by decide +kernel) (by decide +kernel) (by decide +kernel) (by decide +kernel), by decide +kernel, by decide +kernel, by decide +kernel, (isPacked_iff _).2 (by decide +kernel)⟩,
    ⟨tOps_of (by decide +kernel) (by decide +kernel) (by decide +kernel) (by decide +kernel), by decide +kernel, by decide +kernel, by decide +kernel, by decide +kernel, by decide +kernel, by decide +kernel, states_of (by decide +kernel)⟩,
    ⟨tOps_of (by decide +kernel) (by decide +kernel) (by decide +kernel) (by decide +kernel), by decide +kernel, by decide +kernel, by decide +kernel, by decide +kernel, (isPacked_iff _).2 (by decide +kernel), by decide +kernel,
      by decide +kernel⟩⟩

/-- The worked example of R98, step 3: 4,821,375 x 275 at a scale of 4 rounds to 132,588, inexactly. -/
theorem test_dmul_m :
    let s := tMem [(0x2000, 0x4821375C), (0x2100, (0x00275C : Word) <<< 48)] (tSt (tG [(1, tDa 0x2000 0), (2, 4), (3, tDa 0x2100 0)] tCore))
    let u := after (.dmulM 0 (tS 17 5)) s
    (u.drainedCell 0 (plainAddr 0x2000)).data = 0x132588C ∧ u.cores[0].flagC = true := by decide +kernel

/-! ## Strings -/

def pZero : Prog := { par := 0, g3 := 0, a1 := 0, a2 := 0, n1 := 0, n2 := 0 }

/-- A start, fresh or resumed. -/
def startM (s : State) (f : FmtS) (k : LongKind) : M Prog :=
  let g2 := (s.core 0 (shapeLong f)).gr 2
  if bits g2 64 8 = 0 then freshStart 0 f k (bits g2 0 64) else resumeStart 0 f k (bits g2 0 64)
def startP (s : State) (f : FmtS) (k : LongKind) : Prog := resOf (startM s f k) (s.fetched 0 (shapeLong f)) pZero
def startT (s : State) (f : FmtS) (k : LongKind) : State := stateOf (startM s f k) (s.fetched 0 (shapeLong f))

/-- What the unit before holds, of an instruction that goes on. -/
def startH (s : State) (f : FmtS) : Option LongHold :=
  if bits ((s.core 0 (shapeLong f)).gr 2) 64 8 = 0 then none else (s.core 0 (shapeLong f)).hold

theorem longStarts_of {s : State} {f : FmtS} {k : LongKind}
    (h : (s.runs 0 (shapeLong f) && k.fieldsOk f && !(startT s f k).cores[(0 : CoreId)].det && !(s.core 0 (shapeLong f)).det &&
      okOf (startM s f k) (s.fetched 0 (shapeLong f)) &&
      (bits ((s.core 0 (shapeLong f)).gr 2) 64 8 == 0 || bits ((s.core 0 (shapeLong f)).gr 2) 64 8 == k.opcode)) = true) :
    LongStarts s 0 f k (startP s f k) (startH s f) (startT s f k) := by
  simp only [Bool.and_eq_true, Bool.or_eq_true, beq_iff_eq, Bool.not_eq_true'] at h
  obtain ⟨⟨⟨⟨⟨h1, h2⟩, h3⟩, h4⟩, h5⟩, h6⟩ := h
  refine ⟨rfl, h1, h2, h3, h4, ?_⟩
  by_cases h : bits ((s.core 0 (shapeLong f)).gr 2) 64 8 = 0
  · have e := ok_eq pZero h5
    exact .inl ⟨h, by simpa only [startM, startP, startT, h, if_true] using e⟩
  · have e := ok_eq pZero h5
    exact .inr ⟨h6.resolve_left h, by simpa only [startM, startP, startT, h, if_false] using e⟩

/-- The words, the positions and the state of operand 1 of a unit. -/
def rdM (pr : PassId) (a : Acc) (da : DAddr) (len : Nat) : M (List WordRef) := unitRefs 0 1 pr a da len
def rdR (pr : PassId) (a : Acc) (da : DAddr) (len : Nat) (t : State) : List WordRef := resOf (rdM pr a da len) t []
def rdV (pr : PassId) (a : Acc) (da : DAddr) (len : Nat) (t : State) : State := stateOf (rdM pr a da len) t
def rdL (pr : PassId) (a : Acc) (da : DAddr) (len : Nat) (t : State) : List (BitVec 4) :=
  resOf (loadField 0 (rdR pr a da len t)) (rdV pr a da len t) []
def rdT (pr : PassId) (a : Acc) (da : DAddr) (len : Nat) (t : State) : State := stateOf (loadField 0 (rdR pr a da len t)) (rdV pr a da len t)

/-- Words that a core reads from memory. -/
def settledB (t : State) (rs : List WordRef) : Bool :=
  rs.all fun r => isLocalMem r.pa && !(t.cell r.pa).bad && t.cores[(0 : CoreId)].storeBuf.all fun e => e.maskAt r.pa == 0

theorem unitReads_of {pr : PassId} {a : Acc} {da : DAddr} {len : Nat} {t : State}
    (h : (okOf (rdM pr a da len) t && okOf (loadField 0 (rdR pr a da len t)) (rdV pr a da len t) && settledB (rdV pr a da len t) (rdR pr a da len t) &&
      rdL pr a da len t == gather (rdR pr a da len t) ((rdR pr a da len t).map fun r => (rdV pr a da len t).data r.pa) &&
      (rdL pr a da len t).length == len) = true) :
    UnitReads 0 pr a da len t (rdR pr a da len t) (rdL pr a da len t) (rdT pr a da len t) := by
  simp only [Bool.and_eq_true, beq_iff_eq] at h
  obtain ⟨⟨⟨⟨h1, h2⟩, h3⟩, h4⟩, h5⟩ := h
  exact ⟨_, ok_eq [] h1, ok_eq [] h2, settled_of h3, h4, h5⟩

/-- The words, the positions and the state of operand 2 of a unit. -/
def opW (pr : PassId) (held : Option (WAddr × Word)) (da : DAddr) (len : Nat) (t : State) : List ((WAddr × Word) × List (BitVec 4)) :=
  resOf (unitWords 0 pr held da len) t []
def opL (pr : PassId) (held : Option (WAddr × Word)) (da : DAddr) (len : Nat) (t : State) : List (BitVec 4) := (opW pr held da len t).flatMap (·.2)
def opT (pr : PassId) (held : Option (WAddr × Word)) (da : DAddr) (len : Nat) (t : State) : State := stateOf (unitWords 0 pr held da len) t

/-- A word that is mapped to itself. -/
def idRef (va : WAddr) : WordRef := { va := va, fa := daOf va 0, mask := maskAll, pa := va, ent := tPage 0 0 }

theorem unitReads2_of {pr : PassId} {held : Option (WAddr × Word)} {da : DAddr} {len : Nat} {t : State}
    (h : (okOf (unitWords 0 pr held da len) t && (opL pr held da len t).length == len &&
      (opW pr held da len t).all fun w => held == some w.1 ||
        (settledB (opT pr held da len t) [idRef w.1.1] && w.1.2 == (opT pr held da len t).data w.1.1)) = true) :
    UnitReads2 0 pr held da len t (opL pr held da len t) (opT pr held da len t) := by
  simp only [Bool.and_eq_true, Bool.or_eq_true, List.all_eq_true, beq_iff_eq] at h
  obtain ⟨⟨h1, h2⟩, h3⟩ := h
  exact ⟨_, ok_eq [] h1, rfl, h2, fun w hw => (h3 w hw).imp id fun e => ⟨idRef w.1.1, rfl, settled_of e.1 _ (List.mem_singleton.mpr rfl), e.2⟩⟩

/-- What MVS asks of its unit, with progress p from a start. -/
def mvsAsks (s : State) (f : FmtS) (down copies : Bool) (h : Option LongHold) : Prop :=
  ∃ (p : Prog) (t0 t1 t : State) (rs : List WordRef) (l : List (BitVec 4)), LongStarts s 0 f mvsKind p h t0 ∧ bit p.par 8 = down ∧
    let m := if down then min p.n1 (daPos (daAdd p.a1 ((p.n1 : Int) - 1)) + 1) else min p.n1 (18 - daPos p.a1)
    let i := if down then p.n1 - m else 0
    let k := min (p.n2 - i) m
    let da := daAdd p.a1 i
    (decide (k ≠ 0) = copies) ∧ UnitReads2 0 f.p2 (h.bind (·.word)) (daAdd p.a2 i) k t0 l t1 ∧ daPos p.a1 < 18 ∧
      1 ≤ p.n1 ∧ unitRefs 0 1 f.p1 .store da m t1 = .ok rs t ∧ t.storable 0 rs

/-- A resumed instruction of an opcode with state par: G3-G7; and what its unit before holds. -/
def tRes (op : BitVec 8) (par : Word) (a1 a2 n1 n2 : Word) (w : Word) (h : Option LongHold := none) : State :=
  tMem [(0x2000, w), (0x2100, w)] (tSt { tG [(1, tDa 0x2000 16), (2, at' op 64 ||| par), (4, a1), (5, a2), (6, n1), (7, n2)] tCore with hold := h })

def tUp : State := tField 1 ((0x23 : Word) <<< 64) ((0x4567 : Word) <<< 56) 0x40
def tHeld : LongHold := { digits := [], word := some (plainAddr 0x2100, 7) }

set_option maxRecDepth 8000 in
theorem witness_MoveCompareTranslateUnits_mvs :
    mvsAsks tUp (tS 3 3) false true none ∧ mvsAsks (tRes 0x82 0 (tDa 0x2000 16) (tDa 0x2100 0) 4 0 0) (tS 3 3) false false none ∧
    mvsAsks (tRes 0x82 0x100 (tDa 0x2000 16) (tDa 0x2000 14) 4 4 0) (tS 3 3) true true none ∧
    mvsAsks (tRes 0x82 0 (tDa 0x2000 16) (tDa 0x2100 0) 4 4 0 (some tHeld)) (tS 3 3) false true (some tHeld) := by
  refine ⟨?_, ?_, ?_, ?_⟩ <;>
    exact ⟨_, _, _, _, _, _, longStarts_of (by decide +kernel), by decide +kernel, by decide +kernel, unitReads2_of (by decide +kernel),
      by decide +kernel, by decide +kernel, ok_eq [] (by decide +kernel), storable_of (by decide +kernel)⟩

/-- What CLS asks: a unit in operand 1, or in operand 2 once operand 1 is exhausted. -/
def clsAsks (s : State) (f : FmtS) (one : Bool) (two : Bool) : Prop :=
  ∃ (p : Prog) (h : Option LongHold) (t0 t1 t : State) (rs1 : List WordRef) (x y : List (BitVec 4)), LongStarts s 0 f clsKind p h t0 ∧
    let m := if p.n1 = 0 then min p.n2 (18 - daPos p.a2) else min p.n1 (18 - daPos p.a1)
    let k1 := min p.n1 m
    let k2 := min p.n2 m
    decide (k1 ≠ 0) = one ∧ decide (k2 ≠ 0) = two ∧ (if one then UnitReads 0 f.p1 .load p.a1 k1 t0 rs1 x t1 else x = [] ∧ t1 = t0) ∧
    UnitReads2 0 f.p2 (h.bind (·.word)) p.a2 k2 t1 y t ∧ daPos p.a1 < 18 ∧ daPos p.a2 < 18

/-- What TRX asks: a table of zeros at word 0x2100. -/
def trxAsks (s : State) (f : FmtS) : Prop :=
  ∃ (p : Prog) (h : Option LongHold) (t0 t1 t : State) (rs : List WordRef) (l : List (BitVec 4)) (es : List (BitVec 8)),
    LongStarts s 0 f trxKind p h t0 ∧
    let first := min p.n1 (18 - daPos p.a1)
    UnitReads 0 f.p1 .update p.a1 first t0 rs l t1 ∧ mapL (lookup 0 f p.a2) (octetsAt l) t1 = .ok es t ∧ t.storable 0 rs

/-- What TSC asks, where entry i of the unit stops it or none does. -/
def tscAsks (s : State) (f : FmtS) (hit : Bool) : Prop :=
  ∃ (p : Prog) (h : Option LongHold) (t0 t1 t : State) (rs : List WordRef) (l : List (BitVec 4)) (i : Nat) (es : List (BitVec 8)),
    LongStarts s 0 f tscKind p h t0 ∧
    let first := min p.n1 (18 - daPos p.a1)
    UnitReads 0 f.p1 .load p.a1 first t0 rs l t1 ∧ i ≤ first / 2 ∧ first % 2 = 0 ∧
    mapL (lookup 0 f p.a2) ((octetsAt l).take (min (i + 1) (first / 2))) t1 = .ok es t ∧ (∀ j : Nat, j < i → es.getD j 0 = 0) ∧
    (decide (i < first / 2) = hit) ∧ (i < first / 2 → es.getD i 0 ≠ 0) ∧ t.cores[(0 : CoreId)].det = false

/-- Operand 1 is the octets 0x41 and 0x42 in positions 16 and 17 of one word and 0 and 1 of the next; the table's entry for 0x41 is v. -/
def tText (v : Word) (g2 : Word) : State :=
  tMem [(0x2000, 0x41), (0x2001, (0x42 : Word) <<< 64), (0x2107, v <<< 48)] (tSt (tG [(1, tDa 0x2000 16), (2, g2), (3, tDa 0x2100 0)] tCore))
def tT1 : FmtS := { tS 3 0 with l2 := 0 }

set_option maxRecDepth 8000 in
theorem witness_MoveCompareTranslateUnits_rest :
    clsAsks tUp (tS 3 3) true true ∧ clsAsks (tRes 0x83 0 (tDa 0x2000 16) (tDa 0x2100 0) 0 4 0) (tS 3 3) false true ∧
    clsAsks (tRes 0x83 0 (tDa 0x2000 16) (tDa 0x2100 0) 4 0 0) (tS 3 3) true false ∧
    trxAsks (tText 0 0) tT1 ∧ tscAsks (tText 0x55 0) tT1 true ∧ tscAsks (tText 0 0) tT1 false := by
  refine ⟨⟨_, _, _, _, _, _, _, _, longStarts_of (by decide +kernel), by decide +kernel, by decide +kernel, unitReads_of (by decide +kernel),
      unitReads2_of (by decide +kernel), by decide +kernel, by decide +kernel⟩,
    ⟨_, _, _, _, _, [], _, _, longStarts_of (by decide +kernel), by decide +kernel, by decide +kernel, ⟨rfl, rfl⟩,
      unitReads2_of (by decide +kernel), by decide +kernel, by decide +kernel⟩,
    ⟨_, _, _, _, _, _, _, _, longStarts_of (by decide +kernel), by decide +kernel, by decide +kernel, unitReads_of (by decide +kernel),
      unitReads2_of (by decide +kernel), by decide +kernel, by decide +kernel⟩,
    ⟨_, _, _, _, _, _, _, _, longStarts_of (by decide +kernel), unitReads_of (by decide +kernel), ok_eq [] (by decide +kernel),
      storable_of (by decide +kernel)⟩,
    ⟨_, _, _, _, _, _, _, 0, _, longStarts_of (by decide +kernel), unitReads_of (by decide +kernel), by decide +kernel, by decide +kernel,
      ok_eq [] (by decide +kernel), by decide +kernel, by decide +kernel, by decide +kernel, by decide +kernel⟩,
    ⟨_, _, _, _, _, _, _, 1, _, longStarts_of (by decide +kernel), unitReads_of (by decide +kernel), by decide +kernel, by decide +kernel,
      ok_eq [] (by decide +kernel), by decide +kernel, by decide +kernel, by decide +kernel, by decide +kernel⟩⟩

/-- What SCD asks. -/
def scdAsks (s : State) (f : FmtS) (i : Nat) (back hits : Bool) : Prop :=
  ∃ (p : Prog) (h : Option LongHold) (t0 t : State) (rs : List WordRef) (l : List (BitVec 4)), LongStarts s 0 f scdKind p h t0 ∧ bit p.par 17 = back ∧
    let m := if back then min p.n1 (daPos (daAdd p.a1 ((p.n1 : Int) - 1)) + 1) else min p.n1 (18 - daPos p.a1)
    UnitReads 0 f.p1 .load (if back then daAdd p.a1 ((p.n1 : Int) - m) else p.a1) m t0 rs l t ∧ m % 2 = 0 ∧ 1 ≤ p.n1 ∧ daPos p.a1 < 18 ∧
    let os := if back then (octetsAt l).reverse else octetsAt l
    let hit (o : BitVec 8) : Bool := (o == bits p.par 0 8 || o == bits p.par 8 8) == !bit p.par 16
    i ≤ m / 2 ∧ (∀ j : Nat, j < i → hit (os.getD j 0) = false) ∧ decide (i < m / 2) = hits ∧ (i < m / 2 → hit (os.getD i 0) = true)

/-- What VDG asks, of a part that fails at i or does not. -/
def vdgAsks (s : State) (f : FmtS) (fmt : Nat) (last : Bool) (i : Nat) (fails : Bool) : Prop :=
  ∃ (p : Prog) (h : Option LongHold) (t0 t : State) (rs : List WordRef) (l : List (BitVec 4)), LongStarts s 0 f vdgKind p h t0 ∧
    let first := min p.n1 (18 - daPos p.a1)
    UnitReads 0 f.p1 .load p.a1 first t0 rs l t ∧ (bits p.par 0 2).toNat = fmt ∧ decide (p.n1 = first) = last ∧
    let x (j : Nat) : Nat := (l.getD j 0).toNat
    let good (j : Nat) : Bool := match fmt with
      | 0 => if last = true ∧ j + 1 = first then decide (10 ≤ x j) else decide (x j ≤ 9)
      | 1 => decide (x (j + 1) ≤ 9) && (decide (x j = 3) || if last = true ∧ j + 2 = first then decide (10 ≤ x j) else decide (x j = 15))
      | 2 => decide (x j = 3) && decide (x (j + 1) ≤ 9)
      | _ => decide (x j ≤ 9)
    1 ≤ first ∧ i ≤ first ∧ ((fmt == 1 || fmt == 2) = true → i % 2 = 0 ∧ first % 2 = 0) ∧
      (∀ j : Nat, j < i → ((fmt == 1 || fmt == 2) = true → j % 2 = 0) → good j = true) ∧ decide (i < first) = fails ∧ (i < first → good i = false)

/-- Operand 1 of one word: the positions of w at position pos of word 0x2000. -/
def tOne (pos : Nat) (w : Word) (g2 : Word) : State := tMem [(0x2000, w)] (tSt (tG [(1, tDa 0x2000 pos), (2, g2)] tCore))
def tF1 (l1 : BitVec 6) : FmtS := { l1 := l1, l2 := 0, rnd := 0, res := 0, b1 := 1, p1 := 1, d1 := 0, b2 := 0, p2 := 0, d2 := 0 }

set_option maxRecDepth 8000 in
theorem witness_ScanAndValidateUnits :
    scdAsks (tText 0 0x4142) (tF1 3) 0 false true ∧ scdAsks (tText 0 0x4242) (tF1 3) 1 false false ∧
    scdAsks (tText 0 0x24142) (tF1 3) 0 true true ∧ scdAsks (tText 0 0x34142) (tF1 3) 1 true false ∧
    vdgAsks (tOne 14 0x123C 0) (tF1 3) 0 true 4 false ∧ vdgAsks (tOne 14 0x1234 0) (tF1 3) 0 true 3 true ∧
    vdgAsks (tOne 16 0x12 0) (tF1 3) 0 false 2 false ∧ vdgAsks (tOne 14 0xF1D2 1) (tF1 3) 1 true 4 false ∧
    vdgAsks (tOne 14 0xE1D2 1) (tF1 3) 1 true 0 true ∧ vdgAsks (tOne 14 0x3132 2) (tF1 3) 2 true 4 false ∧
    vdgAsks (tOne 14 0x31F2 2) (tF1 3) 2 true 2 true ∧ vdgAsks (tOne 14 0x1234 3) (tF1 3) 3 true 4 false := by
  refine ⟨?_, ?_, ?_, ?_, ?_, ?_, ?_, ?_, ?_, ?_, ?_, ?_⟩
  any_goals exact ⟨_, _, _, _, _, _, longStarts_of (by decide +kernel), by decide +kernel, unitReads_of (by decide +kernel), by decide +kernel, by decide +kernel, by decide +kernel, by decide +kernel, by decide +kernel,
    by decide +kernel, by decide +kernel⟩
  all_goals exact ⟨_, _, _, _, _, _, longStarts_of (by decide +kernel), unitReads_of (by decide +kernel), by decide +kernel, by decide +kernel, by decide +kernel, by decide +kernel, by decide +kernel, by decide +kernel,
    by decide +kernel, by decide +kernel⟩

def eZero : EditSt :=
  { fill := 0, drem := 0, fld := false, neg := false, sig := false, zf := false, a2 := 0, n2 := 0, digits := [], mark := 0, word := none, opened := 0 }

/-- What an edit asks; `open_` says whether the unit starts inside a field, `h` what the unit before holds. -/
def editAsks (s : State) (f : FmtS) (op : BitVec 8) (mark open_ : Bool) (h : Option LongHold) : Prop :=
  ∃ (p : Prog) (t0 t1 t2 t : State) (rs : List WordRef) (l ds : List (BitVec 4)) (wd : Option (WAddr × Word)) (e : EditSt) (out : List (BitVec 8)),
    LongStarts s 0 f (editKind op) p h t0 ∧
    let first := min p.n1 (18 - daPos p.a1)
    let drem := (bits p.par 8 6).toNat
    (bit p.par 14 && decide (drem ≠ 0)) = open_ ∧ UnitReads 0 f.p1 .update p.a1 first t0 rs l t1 ∧
    (match h with
     | some x => ds = x.digits ∧ wd = x.word ∧ t2 = t1
     | none => if open_ then ∃ dl, readSource 0 f p.a2 drem (fieldWords (drem + 1) p.a2 (drem + 1)) none [] t1 = .ok (dl, wd) t2 ∧ ds = dl.dropLast
        else ds = [] ∧ wd = none ∧ t2 = t1) ∧
    editRun 0 f mark (daAdd p.a1 first) (p.n1 - first) (octetsAt l) p.a1
      { fill := bits p.par 0 8, drem := drem, fld := bit p.par 14, neg := bit p.par 15, sig := bit p.par 16, zf := bit p.par 17,
        a2 := p.a2, n2 := p.n2, digits := ds, mark := p.g3, word := wd, opened := 0 } [] t2 = .ok (e, out) t ∧
    t.storable 0 rs

/-- The pattern of octets 0x18 and 0x18 over the source +12, and the second octet of it inside the field with the digit 2 left. -/
def tEdit : State := tField 0x18 ((0x18 : Word) <<< 64) ((0x12C : Word) <<< 60) 0x40
def tEdit2 (op : BitVec 8) (h : Option LongHold) : State :=
  tMem [(0x2001, (0x18 : Word) <<< 64), (0x2100, (0x12C : Word) <<< 60)]
    (tSt { tG [(1, tDa 0x2000 16), (2, at' op 64 ||| 0x4140), (4, tDa 0x2001 0), (5, tDa 0x2100 1), (6, 2), (7, 2)] tCore with hold := h })
def tOpen : LongHold := { digits := [2], word := some (plainAddr 0x2100, 7) }

set_option maxRecDepth 8000 in
theorem witness_EditUnits :
    editAsks tEdit (tS 3 2) 0x80 false false none ∧ editAsks tEdit (tS 3 2) 0x81 true false none ∧
    editAsks (tEdit2 0x80 none) (tS 3 2) 0x80 false true none ∧ editAsks (tEdit2 0x81 none) (tS 3 2) 0x81 true true none ∧
    editAsks (tEdit2 0x80 (some tOpen)) (tS 3 2) 0x80 false true (some tOpen) ∧
    (((0x17 : BitVec 8).toNat < 0x18 ∨ 0x1C < (0x17 : BitVec 8).toNat) ∧ ((0x1D : BitVec 8).toNat < 0x18 ∨ 0x1C < (0x1D : BitVec 8).toNat)) ∧
    (let e := { eZero with drem := 1, digits := [9] }
     e.digits = 9 :: [] ∧ (9 : BitVec 4).toNat ≤ 9 ∧ 1 ≤ e.drem) ∧ eZero.drem = 0 := by
  refine ⟨?_, ?_, ?_, ?_, ?_, by decide +kernel, by decide +kernel, by decide +kernel⟩
  any_goals exact ⟨_, _, _, _, _, _, _, _, _, _, _, longStarts_of (by decide +kernel), by decide +kernel, unitReads_of (by decide +kernel),
    ⟨rfl, rfl, rfl⟩, ok_eq (eZero, []) (by decide +kernel), storable_of (by decide +kernel)⟩
  all_goals exact ⟨_, _, _, _, _, _, _, _, _, _, _, longStarts_of (by decide +kernel), by decide +kernel, unitReads_of (by decide +kernel),
    ⟨_, ok_eq ([], none) (by decide +kernel), rfl⟩, ok_eq (eZero, []) (by decide +kernel), storable_of (by decide +kernel)⟩

/-! ## Posting -/

/-- A module of a role with ENABLE 1, cells from word 0x20000, rules from word 0x30000 and the ring of 2^16 words from word 0x40000. -/
def tLed (role : BitVec 3) (en : Bool) (l : Ledger) : State :=
  { tSt tCore with
    applied := { Settings.reset with
      peCellBase := 0x20000, peCellCount := 64, peRuleBase := 0x30000, peRuleCount := 4, peFilterBase := 0x100000, jnRingBase := 0x40000,
      peCtl := if en then 1 else 0, jnRingLog2 := 16 },
    ws := { Watershed.reset with role := role }, led := l }

/-- A leg on a cell of a pair. -/
def tL0 (op : BitVec 2) (cur : BitVec 12) (pair : BitVec 12) (ci : Nat) : Word := at' op 70 ||| at' cur 58 ||| at' pair 46 ||| at' (BitVec.ofNat 22 ci) 24

/-- A posting vector of a core: REF and the legs. -/
def tReq (ref : BitVec 64) (legs : List (Word × Word)) : PostReq :=
  { ticket := 1, issuer := .core 0 4, commit := false, slot := plainAddr 0x2002,
    words := [at' ref 8, at' (1 : BitVec 4) 68 ||| at' (BitVec.ofNat 4 (legs.length - 1)) 64, 0] ++ legs.flatMap (fun l => [l.1, l.2]), since := 0,
    checked := false }
def tBalanced : List (Word × Word) := [(tL0 0 1 0 0, 0x5C), (tL0 0 1 0 1, 0x5D)]
def tLedger (l : List PostReq) : Ledger := { Ledger.reset with seqNext := 1, arrivals := l }

/-- Room for a vector at word 0x2000 of the Plain, its words there, and posts outstanding. -/
def tPost (ws : List Word) : State :=
  tMem ((List.range ws.length).zip ws |>.map fun x => (0x2000 + x.1, x.2))
    (tSt { tG [(1, tDa 0x2000 0)] tCore with posts := List.replicate 3 { rt := 9, ticket := 7 } })

set_option maxRecDepth 8000 in
theorem witness_RequestsReachTheSequencer :
    (∃ (v : State) (ws : List Word) (slot : WAddr), let s := tPost (tReq 9 tBalanced).words
      let sh := shapePost tM
      let t := (s.fetched 0 sh).drainAll 0
      readVector { x := .core 0 1, pass := (s.core 0 sh).pr 2, preg := 2 } (t.cores[(0 : CoreId)].ea tM) t = .ok (ws, slot) v ∧ s.runs 0 sh = true ∧
      (s.core 0 sh).posts.length < 4 ∧ isDigitAddr (t.cores[(0 : CoreId)].gr 1) ∧ daPos (t.cores[(0 : CoreId)].ea tM) = 0) ∧
    ∃ (v : State) (ws : List Word) (slot : WAddr), let s := tPost [at' (1 : BitVec 4) 68, 0, 5]
      let sh := shapeCommit tM
      let t := (s.fetched 0 sh).drainAll 0
      readBlock { x := .core 0 1, pass := (s.core 0 sh).pr 2, preg := 2 } (t.cores[(0 : CoreId)].ea tM) t = .ok (ws, slot) v ∧ s.runs 0 sh = true ∧
      (s.core 0 sh).posts.length < 4 ∧ isDigitAddr (t.cores[(0 : CoreId)].gr 1) ∧ daPos (t.cores[(0 : CoreId)].ea tM) = 0 := by
  refine ⟨⟨_, _, _, ok_eq ([], 0) (by decide +kernel), ?_⟩, ⟨_, _, _, ok_eq ([], 0) (by decide +kernel), ?_⟩⟩ <;> (unfold isDigitAddr; decide +kernel)

def headerB (r : PostReq) : Bool := bits (r.word 1) 68 4 == 1 && bits (r.word 0) 0 8 == 0
def pairsN (r : PostReq) : Nat := (r.legs.map fun l => l0Pair l.1).eraseDups.length
def sumCur (r : PostReq) (cur : BitVec 12) : Int :=
  ((r.legs.filter fun l => l0Op l.1 == 0 && l0Cur l.1 == cur).map fun l => fieldInt (posList l.2)).sum

theorem balanced_sum (cur : BitVec 12) : sumCur (tReq 9 tBalanced) cur = 0 := by
  have h : (tReq 9 tBalanced).legs = tBalanced := by decide +kernel
  obtain ⟨a1, a2, a3, a4⟩ : l0Op (tL0 0 1 0 0) = 0 ∧ l0Cur (tL0 0 1 0 0) = 1 ∧ l0Op (tL0 0 1 0 1) = 0 ∧ l0Cur (tL0 0 1 0 1) = 1 := by decide +kernel
  have b : fieldInt (posList (0x5C : Word)) + (fieldInt (posList (0x5D : Word)) + 0) = 0 := by decide +kernel
  unfold sumCur
  rw [h]
  simp only [tBalanced, List.filter_cons, List.filter_nil, a1, a2, a3, a4]
  by_cases c : (1 : BitVec 12) == cur
  · simpa only [c, beq_self_eq_true, Bool.true_and, if_true, List.map_cons, List.map_nil, List.sum_cons, List.sum_nil] using b
  · simp only [c, beq_self_eq_true, Bool.true_and, Bool.false_eq_true, if_false, List.map_nil, List.sum_nil]

/-- R152: a header of another version, five pairs and four, the first failing leg, legs that do not balance, and legs that do. -/
theorem witness_VectorChecksInOrder :
    let s := tLed 1 true (tLedger [])
    let on (k : Nat) : Word × Word := (tL0 0 1 (BitVec.ofNat 12 k) k, 0xC)
    (let r := { tReq 9 tBalanced with words := [0, 0, 0] }
     headerB r = false) ∧
    (let r := tReq 9 [on 0, on 1, on 2, on 3, on 4]
     headerB r = true ∧ 4 < pairsN r) ∧
    (let r := tReq 9 [on 0, on 1, on 2, on 3]
     headerB r = true ∧ pairsN r ≤ 4 ∧ (s.legChecks [] r.legs).all (fun x => x == 0) = true) ∧
    (let r := tReq 9 [(tL0 0 1 0 0, 0x5C), (tL0 0 1 0 64, 0x5D)]
     headerB r = true ∧ pairsN r ≤ 4 ∧ (s.legChecks [] r.legs).all (fun x => x == 0) = false) ∧
    (let r := tReq 9 [(tL0 0 1 0 0, 0x5C), (tL0 0 1 0 63, 0x4D)]
     headerB r = true ∧ pairsN r ≤ 4 ∧ (s.legChecks [] r.legs).all (fun x => x == 0) = true ∧ r.home = none ∧ sumCur r 1 ≠ 0) ∧
    (let r := tReq 9 tBalanced
     headerB r = true ∧ pairsN r ≤ 4 ∧ (s.legChecks [] r.legs).all (fun x => x == 0) = true ∧ ∀ cur, sumCur r cur = 0) :=
  ⟨by decide +kernel, by decide +kernel, by decide +kernel, by decide +kernel, by decide +kernel, by decide +kernel, by decide +kernel, by decide +kernel, balanced_sum⟩

def isSeq (s : State) : Bool := (s.ws.role == 1 || s.ws.role == 3) && bit s.applied.peCtl 0
def tR : PostReq := tReq 9 tBalanced
def tFl (r : PostReq) (legs : List Leg) : Flight :=
  { seq := 1, req := r, pos := 0, len := 4 + 2 * r.count, kind := .posting, legs := legs, early := none, decided := none, solo := false, xp := false,
    prepare := false }
def tDup (w : Word) : DupWait := { req := { tR with ticket := 2 }, on := 1, word := some w }
/-- The credit of the sequencer's third clause. -/
def needB (s : State) (r : PostReq) : Nat :=
  let early := if r.commit then none else (s.vectorChecks r).1
  let prepare := early.isNone && !r.commit && (r.home.isSome || r.legs.any fun l => l0Pair l.1 != s.applied.lbPair)
  (if r.commit then 4 + r.count else 4 + 2 * r.count) + (if s.led.seqNext.toNat % 64 = 0 then 12 else 0) + if prepare then 4 else 0
def tLow : Ledger := { tLedger [tR] with wpos := 65536 - 7 }

set_option maxRecDepth 8000 in
/-- R149, R151, R162, R174, R189: each class N role; a posting in flight with the REF, and one in the filter; exactly enough ring space, and one word
less; an answer below 0x40 and one of class N; and the end of FULLWAIT. -/
theorem witness_TheSequencerTakesRequests :
    (∀ role : BitVec 3, role.toNat < 6 → let s := tLed role false (tLedger [tR])
      s.led.arrivals = [tR] ∧ tR.home = none ∧ tR.checked = false ∧ s.ws.role.toNat < 6 ∧ isSeq s = false) ∧
    (let s := tLed 1 true { tLedger [tR] with flights := [tFl tR []] }
     s.led.arrivals = [tR] ∧ tR.checked = false ∧ tR.commit = false ∧ tR.ref ≠ 0 ∧ isSeq s = true ∧ s.inFlight tR.ref = some 1) ∧
    (let s := tMem [(0x100000, at' (9 : BitVec 64) 8), (0x100001, 5)] (tLed 1 true (tLedger [tR]))
     isSeq s = true ∧ s.inFlight tR.ref = none ∧ s.filterFind tR.ref = some 5) ∧
    (let s := tLed 1 true { tLedger [tR] with wpos := 65536 - 8 }
     isSeq s = true ∧ s.inFlight tR.ref = none ∧ s.filterFind tR.ref = none ∧ (needB s tR : Int) = s.credit ∧ s.hashBacklog < 4096) ∧
    (let r := { tR with checked := true }
     let s := tLed 3 false { tLow with arrivals := [r] }
     s.led.arrivals = [r] ∧ s.ws.role = 3 ∧ r.checked = true ∧ s.credit < (needB s r : Int)) ∧
    (let r := { tR with commit := true, issuer := .core 1 2 }
     let s := tLed 1 true (tLedger [r])
     s.led.arrivals = [r] ∧ r.home = none ∧ isSeq s = true ∧ (needB s r : Int) ≤ s.credit ∧ s.hashBacklog < 4096) ∧
    (∀ b : Bool, let w : Word := at' (if b then (0x40 : BitVec 8) else 0x3F) 64
      let s := tLed 1 true { tLedger [] with dups := [tDup w] }
      s.led.dups.find? (fun y => y.word.isSome) = some (tDup w) ∧ (tDup w).word = some w) ∧
    (bits (at' (0x3F : BitVec 8) 64) 64 8).toNat < 0x40 ∧ 0x40 ≤ (bits (at' (0x40 : BitVec 8) 64) 64 8).toNat ∧
    (let r := { tR with checked := true }
     let s := { tLed 1 true (tLedger [r]) with now := 250 }
     s.led.arrivals = [r] ∧ r.home = none ∧ r.since.toNat + 250 * 2 ^ min 6 (bits s.applied.peCtl 4 3).toNat ≤ s.now.toNat) := by decide +kernel

/-- A leg on cell 0 of the leading pair. -/
def tLeg (l1 : Word) : Leg := { l0 := tL0 0 1 0 0, l1 := l1, res := none, newBal := 0, cur := 0, scale := 0, heal := none }
/-- Cell 0 with a balance and a control word, a rule 1 with words, and one leg of amount l1. -/
def tBank (bal ctl : Word) (rule : List Word) (l1 : Word) (preps : List Prep) : State :=
  tMem ([(0x20000, bal), (0x20001, ctl)] ++ ((List.range rule.length).zip rule).map fun x => (0x30004 + x.1, x.2))
    (tLed 1 true { Ledger.reset with flights := [tFl (tReq 9 [(tL0 0 1 0 0, l1)]) [tLeg l1]], preps := preps })
/-- The control word of an open cell in CUR 1 with a rule. -/
def tCtl (state : BitVec 2) (rule : BitVec 16) : Word := at' state 70 ||| at' (1 : BitVec 12) 53 ||| at' rule 37
/-- Which branch of the checks of R152 item 5 holds. -/
def bankBranch (s : State) (l : Leg) : Nat :=
  let i := l0Ci l.l0
  let c := s.provisional 1 i
  let rule (j : Nat) : Word := s.data (s.ruleAddr c.rule j)
  let a := packedInt l.l1
  let x := balInt c.bal
  if (s.led.preps.any fun p => p.cells.contains i) then 0
  else if c.state = 3 then 1
  else if c.state = 0 then 2
  else if c.state = 2 then 3
  else if c.cur ≠ l0Cur l.l0 then 4
  else if 10 ^ 17 ≤ (x + a).natAbs then 5
  else if c.rule = 0 then 6
  else if bit (rule 3) 69 = true ∧ balInt (rule 2) < (a.natAbs : Int) then 7
  else if bit (rule 3) 71 = true ∧ a < 0 ∧ x + a < balInt (rule 0) then 8
  else if bit (rule 3) 70 = true ∧ 0 < a ∧ balInt (rule 1) < x + a then 9
  else 10
def tPrep (cells : List Nat) : Prep := { seq := 0, pos := 0, home := 0, n := 0, part := false, cells := cells, rule := false }
/-- Limits -5, 5 and 7, all in force. -/
def tRule : List Word := [0x5D, 0x5C, 0x7C, (7 : Word) <<< 69]

set_option maxRecDepth 8000 in
/-- R143, R152: every branch, with the limits met exactly in the last. -/
theorem witness_BanksCheckTheirLegs :
    ∀ x ∈ [((tBank 0xC (tCtl 1 0) [] 0x1C [tPrep [0]], (0x1C : Word)), 0), ((tBank 0xC (tCtl 3 0) [] 0x1C [], 0x1C), 1),
        ((tBank 0xC (tCtl 0 0) [] 0x1C [], 0x1C), 2), ((tBank 0xC (tCtl 2 0) [] 0x1C [], 0x1C), 3),
        ((tBank 0xC (at' (1 : BitVec 2) 70) [] 0x1C [], 0x1C), 4), ((tBank 0x99999999999999999C (tCtl 1 0) [] 0x1C [], 0x1C), 5),
        ((tBank 0x99999999999999998C (tCtl 1 0) [] 0x1C [], 0x1C), 6), ((tBank 0xC (tCtl 1 1) tRule 0x8C [], 0x8C), 7),
        ((tBank 0xC (tCtl 1 1) tRule 0x6D [], 0x6D), 8), ((tBank 0xC (tCtl 1 1) tRule 0x6C [], 0x6C), 9), ((tBank 0xC (tCtl 1 1) tRule 0x5C [], 0x5C), 10)],
      (x.1.1.nextLeg 0).map (fun y => (y.1.seq, y.2)) = some (1, 0, tLeg x.1.2) ∧ x.1.1.legPoison 1 (tLeg x.1.2) = none ∧ l0Op (tLeg x.1.2).l0 = 0 ∧
      bankBranch x.1.1 (tLeg x.1.2) = x.2 := by decide +kernel

/-- A leader's oldest posting with the results of its legs. -/
def tDecided (a b : BitVec 8) : State :=
  tLed 1 true { Ledger.reset with
    flights := [tFl tR [{ tLeg 0x5C with res := some a }, { tLeg 0x5D with l0 := tL0 0 1 0 1, res := some b }]] }
/-- The statuses of the legs. -/
def stsOf (s : State) : List (BitVec 8) := (s.led.flights.flatMap (·.legs)).map (legStatus s.applied.lbPair (s.led.flights.flatMap (·.legs)))

/-- R151, R180: every leg passes, or the second fails. -/
theorem witness_DecisionsAreRecorded :
    (∀ b : Bool, let s := tDecided 0 (if b then 0x11 else 0)
      s.Inv ∧ s.ws.role = 1 ∧ (s.led.flights.find? (fun f => f.decided.isNone)).isSome = true ∧ s.led.flights.length = 1 ∧
      (∀ f ∈ s.led.flights, f.kind = .posting ∧ f.prepare = false ∧ f.early = none ∧ f.req.home = none ∧ (∀ l ∈ f.legs, l.res.isSome = true) ∧
        4 + 2 * f.legs.length ≤ 2 ^ s.applied.jnRingLog2.toNat) ∧
      s.applied.jnRingLog2.toNat ≤ 23 ∧ s.applied.jnRingBase.toNat + 2 ^ s.applied.jnRingLog2.toNat ≤ 2 ^ 24) ∧
    stsOf (tDecided 0 0) = [0, 0] ∧ stsOf (tDecided 0 0x11) = [0, 0x11] := by
  unfold State.Inv
  decide +kernel

/-- R141, R212: a leg of another pair, a cell that shows the number already, and the next number on the last cell of the ledger that fits. -/
theorem witness_AcceptedLegsChangeTheirCells :
    let s := tLed 1 true Ledger.reset
    let e : LegEnt := { op := 0, rem := false, ci := 0x3F7FFF, sel := 0, amt := 5, newBal := 5, pair := 0, val := 0 }
    let l := s.data (s.cellAddr e.ci 2)
    (s.Inv ∧ s.applied.peCellBase.toNat + 4 * e.ci + 4 ≤ 2 ^ 24 ∧ (∀ k : Nat, k < 4 → (s.cell (s.cellAddr e.ci k)).bad = false)) ∧
    ({ e with rem := true } : LegEnt).rem = true ∧ (e.rem = false ∧ e.op ≠ 2 ∧ (0 : BitVec 48).toNat ≤ (bits l 24 48).toNat) ∧
    (e.op = 0 ∧ (bits l 24 48).toNat < (1 : BitVec 48).toNat) := by
  unfold State.Inv
  decide +kernel

def tDone (slot : WAddr) : DoneWord := { req := { tR with slot := slot }, word := at' (0x40 : BitVec 8) 64, final := false }

/-- R148, R380: a slot in the Plain, and one in the window. -/
theorem witness_CompletionsReachTheirIssuers :
    (let d := tDone (plainAddr 0x2002)
     let s := { tLed 1 true { Ledger.reset with done := [d] } with free := 0 }
     s.led.done = [d] ∧ d.final = false ∧ d.req.issuer = .core 0 4 ∧ isLocalMem d.req.slot = true ∧
       (regionOf d.req.slot = .plain → s.guarded (offsetOf d.req.slot) = false) ∧ s.cores[(0 : CoreId)].run = 2 ∧ s.cores[(0 : CoreId)].wait = none) ∧
    isLocalMem (tDone ((2 : BitVec 52) ^ 50)).req.slot = false := by decide +kernel

def tRec (k : Nat) : Rec :=
  { trailer := false, seq := BitVec.ofNat 48 (k + 1), pos := BitVec.ofNat 64 (6 * k), len := 6, written := true, digest := none }
def tTrl : Rec := { trailer := true, seq := 64, pos := 384, len := 12, written := false, digest := none }

set_option maxRecDepth 8000 in
/-- R194-R196: a durable record without a digest, and a block of 64 records with digests. -/
theorem witness_RecordsAndBlocksAreHashed :
    (let s := { tLed 3 true { Ledger.reset with recs := [tRec 0] } with ws := { Watershed.reset with role := 3, ahor := 1 } }
     s.led.recs.find? (fun r => !r.trailer && r.digest.isNone && s.recDurable r) = some (tRec 0)) ∧
    (let rs := (List.range 64).map fun k => { tRec k with digest := some 7 }
     let s := { tLed 3 true { Ledger.reset with recs := rs ++ [tTrl] } with ws := { Watershed.reset with role := 3, ahor := 64 } }
     s.Inv ∧ s.led.recs.find? (fun r => r.trailer && !r.written) = some tTrl ∧ s.ws.role = 3 ∧
     let x := s.led.recs.filter fun x => !x.trailer && (x.seq.toNat - 1) / 64 == (tTrl.seq.toNat - 1) / 64
     x.length = 64 ∧ (x.all fun y => y.digest.isSome && s.recDurable y) = true ∧ s.applied.jnRingLog2.toNat ≤ 23 ∧
     s.applied.jnRingBase.toNat + 2 ^ s.applied.jnRingLog2.toNat ≤ 2 ^ 24 ∧ 12 ≤ 2 ^ s.applied.jnRingLog2.toNat) := by
  unfold State.Inv
  decide +kernel

/-- A coordinator's posting with amount legs of one CUR on pairs 1 and 2, and on the own pair 0. -/
def tLegAt (pair : BitVec 12) (l1 : Word) : Leg := { tLeg l1 with l0 := tL0 0 1 pair 0, res := some 0 }
def tCoord : Coord :=
  { n := 5, req := tR, phase := 1, legs := [tLegAt 0 0x2D, tLegAt 1 0x1C, tLegAt 2 0x1C], pairs := [1, 2], yes := [], acks := [], commit := none, since := 0, resent := 0,
    revoted := false, final := 0 }
def tHome (c : Coord) (now : BitVec 64) : State := { tLed 1 true { Ledger.reset with coords := [c] } with now := now }
def voting (s : State) (c : Coord) : Bool := c.phase == 1 && c.commit == none && (s.ws.role == 1 || s.ws.role == 3)
def clash (c : Coord) (src : BitVec 12) (scales : List (BitVec 8)) : Option Nat := ({ c with yes := c.yes ++ [(src, scales)] } : Coord).scaleClash 0

/-- R164-R168: the first YES and the last, with scales that agree and that differ; NO; the timers at their last instant and at their first; the first ACK
and the last. -/
theorem witness_CoordinatorsFollowTheTable :
    (let s := tHome tCoord 19999
     s.coordFor 5 = some tCoord ∧ voting s tCoord = true ∧ tCoord.pairs.contains 1 = true ∧ (tCoord.yes.all fun y => y.1 != 1) = true ∧
       (tCoord.pairs.any fun p => p != 1 && tCoord.yes.all fun y => y.1 != p) = true ∧ s.now.toNat < tCoord.since.toNat + 20000) ∧
    (let c := { tCoord with yes := [(2, [0])] }
     let s := tHome c 20000
     s.coordFor 5 = some c ∧ voting s c = true ∧ c.pairs.contains 1 = true ∧ (c.yes.all fun y => y.1 != 1) = true ∧
       (c.pairs.all fun p => p == 1 || c.yes.any fun y => y.1 == p) = true ∧ clash c 1 [0] = none ∧ (clash c 1 [4]).isSome = true ∧
       c.since.toNat + 20000 ≤ s.now.toNat) ∧
    (let s := tHome tCoord 10000
     s.coordFor 5 = some tCoord ∧ tCoord.phase = 1 ∧ tCoord.commit = none ∧ tCoord.revoted = false ∧ tCoord.since.toNat + 10000 ≤ s.now.toNat) ∧
    (let c := { tCoord with phase := 2, acks := [2] }
     let s := tHome c 10000
     s.coordFor 5 = some c ∧ c.phase = 2 ∧ c.resent.toNat + 10000 ≤ s.now.toNat ∧ c.pairs.contains 1 = true ∧
       (c.pairs.all fun p => p == 1 || c.acks.contains p) = true) ∧
    (let c := { tCoord with phase := 2 }
     (tHome c 0).coordFor 5 = some c ∧ c.phase = 2 ∧ c.pairs.contains 1 = true ∧ (c.pairs.any fun p => p != 1 && !c.acks.contains p) = true) := by decide +kernel

/-- A part of pair 1's posting 5 on this module. -/
def tPart (phase : BitVec 2) : Part :=
  { home := 1, n := 5, pseq := 1, phase := phase, legs := [], w2 := 0, vote := 0, since := 0, queried := 0, aged := false, decision := none }
def tAway (phase : BitVec 2) (now : BitVec 64) (role : BitVec 3) : State :=
  let q : Prep := { seq := 1, pos := 0, home := 1, n := 5, part := true, cells := [], rule := false }
  let s := { tLed role true { Ledger.reset with parts := [tPart phase], preps := [q] } with now := now }
  { s with applied := { s.applied with peCtl := 0x101 } }
def tCommitted : State :=
  tMem [(0x40000, at' (4 : BitVec 4) 68 ||| 1), (0x40001, homeWord 1 5)] { tLed 1 true { Ledger.reset with seqNext := 2, wpos := 4 } with now := 0 }

/-- R164-R166: no part, on a module that leads and on one that follows; a part that reserves, that is in doubt and that is done; the timers at their last
instant and at their first. -/
theorem witness_ParticipantsFollowTheTable :
    ((tLed 1 true Ledger.reset).partFor 1 5 = none ∧ (tLed 1 true Ledger.reset).notSequencing = none ∧ (List.replicate 16 (0 : Nat)).length ≤ 16) ∧
    ((tLed 2 true Ledger.reset).partFor 1 5 = none ∧ (tLed 2 true Ledger.reset).notSequencing = some 0x42) ∧
    ((tAway 0 0 1).partFor 1 5 = some (tPart 0) ∧ (tPart 0).phase = 0) ∧
    (let s := tAway 1 50000 1
     s.partFor 1 5 = some (tPart 1) ∧ (tPart 1).phase = 1 ∧ (tPart 1).decision = none ∧ s.ws.role = 1 ∧
       (s.led.preps.find? (fun q => q.part && q.home == 1 && q.n == 5)).isSome = true ∧ (tPart 1).queried.toNat + 50000 ≤ s.now.toNat) ∧
    (let s := tAway 2 49999 1
     s.partFor 1 5 = some (tPart 2) ∧ (tPart 2).phase = 2 ∧ (tPart 2).vote = 0 ∧ s.now.toNat < (tPart 2).queried.toNat + 50000) ∧
    (let s := tAway 1 100001 1
     let age := (bits s.applied.peCtl 8 8).toNat
     age ≠ 0 ∧ (tPart 1).aged = false ∧ (tPart 1).since.toNat + age * 100000 < s.now.toNat) := by decide +kernel
theorem witness_ParticipantsFollowTheTable_committed : tCommitted.partFor 1 5 = none ∧ tCommitted.decisionFor 1 5 = some true := by decide +kernel

/-! ## Float, control words and surroundings -/

/-- A core that may use its float registers. -/
def tFp : State := tSt (tG [(1, 0x12D)] { tCore with st := (1 : Word) <<< 64 })
def tF2 (fn : BitVec 13) : FmtA := { rd := 3, ra := 1, rb := 0, fn := fn }

theorem witness_FloatArithmetic : tFp.runs 0 (shapeF (tA.fn == 0) 5 []) = true ∧ tFp.runs 0 (shapeF (tA.fn == 0) 14 []) = true ∧
    tFp.runs 0 (shapeFsqrt tA1) = true ∧ tFp.runs 0 (shapeFma { tA with fn := 0x1F00 }) = true := by decide +kernel

/-- FTOD at its largest scale and its highest mode; a trap pending at FBAR. -/
theorem witness_FloatComparesAndConversions :
    tFp.runs 0 (shapeFcmp { tA with rd := 0, fn := 1 }) = true ∧ tFp.runs 0 (shapeFmin tA) = true ∧ tFp.runs 0 (shapeFmax tA) = true ∧
    tFp.runs 0 (shapeFabs tA1) = true ∧ tFp.runs 0 (shapeFneg tA1) = true ∧ tFp.runs 0 (shapeFmvgf tA1) = true ∧ tFp.runs 0 (shapeFmvfg tA1) = true ∧
    tFp.runs 0 (shapeRdfs { tA1 with ra := 0 }) = true ∧ tFp.runs 0 (shapeWrfs { tA1 with rd := 0 }) = true ∧
    (∀ m ∈ [0, 1, 2, 3, 4, 8, 12], tFp.runs 0 (shapeFtoi (tF2 (BitVec.ofNat 13 m))) = true) ∧ tFp.runs 0 (shapeItof (tF2 8)) = true ∧
    tFp.runs 0 (shapeFtod (tF2 0xF0)) = true ∧
    (isPacked (posList ((tFp.core 0 (shapeDtof (tF2 16))).gr 1)) ∧ tFp.runs 0 (shapeDtof (tF2 16)) = true) ∧ tFp.runs 0 (shapeFbar tZ) = true ∧
    ∃ t : State, let s := tSt { tCore with ftrap := some (16, 0) }
      let sh := shapeFbar tZ
      fetchDecode 0 { sh with float := false } s = .ok () t ∧ sh.float = true ∧ s.cores[(0 : CoreId)].ready sh.regs = true ∧
      (s.cores[(0 : CoreId)].det && s.storesOut 0) = false ∧ s.cores[(0 : CoreId)].ftrap = some (16, 0) := by
  refine ⟨by decide +kernel, by decide +kernel, by decide +kernel, by decide +kernel, by decide +kernel, by decide +kernel, by decide +kernel, by decide +kernel, by decide +kernel, by decide +kernel, by decide +kernel, by decide +kernel,
    ⟨(isPacked_iff _).2 (by decide +kernel), by decide +kernel⟩, by decide +kernel, ⟨_, ok_eq () (by decide +kernel), by decide +kernel⟩⟩

/-- R359: 1 / 3 to nearest. -/
theorem test_fdiv : (after (.fdiv 0 tA) (tSt { tCore with st := (1 : Word) <<< 64, f := (tCore.f.set 1 0x3F800000).set 2 0x40400000 })).cores[0].f[3] = 0x3EAAAAAB := by
  decide +kernel

/-- A patch image of one match word and one micro-word, or an open image of one micro-word at entry 0. -/
def tImage : State :=
  tMem [(0x2000, at' (0x11 : BitVec 8) 64 ||| 7), (0x2001, at' (1 : BitVec 6) 66 ||| at' (1 : BitVec 10) 56),
      (0x2002, at' (1 : BitVec 1) 71 ||| at' (0x400 : BitVec 15) 56), (0x2003, 0), (0x2004, 0),
      (0x2100, at' (0x21 : BitVec 8) 64 ||| 7), (0x2101, at' (1 : BitVec 12) 33 ||| at' (1 : BitVec 16) 56), (0x2102, at' (3 : BitVec 4) 60), (0x2103, 0), (0x2200, 0)]
    (tSt (tCore.setP 1 .rootShadow))

def imgW (a : WAddr) (len : Nat) (t : State) : List WordRef × List Word := resOf (imageRead 0 .rootP15 2 a len) t ([], [])
def imgT (a : WAddr) (len : Nat) (t : State) : State := stateOf (imageRead 0 .rootP15 2 a len) t

theorem img_eq {a : WAddr} {len : Nat} {t : State} (h : okOf (imageRead 0 .rootP15 2 a len) t = true) :
    imageRead 0 .rootP15 2 a len t = .ok (imgW a len t) (imgT a len t) := ok_eq _ h

/-- An image whose counts are m and x. -/
def imgOk (off m x : Nat) : Bool :=
  let a := plainAddr off
  let t := tImage.atDevice 0
  let h := (imgW a 2 t).2
  let t1 := imgT a 2 t
  let r := imgW (a + 2) (m + 2 * x) t1
  let t2 := imgT (a + 2) (m + 2 * x) t1
  let e : State := { t2 with cores := t2.cores.set 0 (t2.cores[(0 : CoreId)].emptyTarget (h.getD 0 0) (h.getD 1 0)) }
  (okOf (imageRead 0 .rootP15 2 a 2) t && h.length == 2 && !t1.cores[(0 : CoreId)].det && (match imageCounts (h.getD 0 0) (h.getD 1 0) with
    | .ok y => y == (m, x)
    | .error _ => false) && okOf (imageRead 0 .rootP15 2 (a + 2) (m + 2 * x)) t1 && !t2.cores[(0 : CoreId)].det &&
    okOf (imageRead 0 .rootP15 2 a (2 + m + 2 * x)) e && (imgW a (2 + m + 2 * x) e).2 == h ++ r.2 &&
    (imageCheck (h.getD 0 0) (h.getD 1 0) (r.2.take m) (r.2.drop m) x).isNone)

/-- Float registers loaded for the context of an area, or for none; the area of CTXFP. -/
def tOwn (own : Bool) (a b : Nat) : State :=
  tSt { tCore with fpown := flagAt own 71 ||| (plainAddr a).setWidth 72, ctxfp := plainAddr b }

set_option maxRecDepth 8000 in
theorem witness_ControlWordsOfACore :
    (let s := tImage
     let c := (s.atDevice 0).cores[(0 : CoreId)]
     s.runs 0 {} = true ∧ c.det = false ∧ (c.pr 1).usable = true ∧ (c.pr 1).shadow = true ∧ (c.pr 2).usable = true ∧ (c.pr 2).grants permPatch = true ∧
       (c.pr 2).grants (permPatch ||| permLoad) = true ∧ c.pr 2 = .rootP15) ∧
    imgOk 0x2000 1 1 = true ∧ imgOk 0x2100 0 1 = true ∧
    (let t := tImage.atDevice 0
     okOf (imageRead 0 .rootP15 2 (plainAddr 0x2200) 2) t = true ∧ (imgW (plainAddr 0x2200) 2 t).2.length = 2 ∧
       (match imageCounts ((imgW (plainAddr 0x2200) 2 t).2.getD 0 0) ((imgW (plainAddr 0x2200) 2 t).2.getD 1 0) with
        | .ok _ => false
        | .error _ => true) = true) ∧
    (∀ own : Bool, ∀ b ∈ [0x6000, 0x6100], let s := tOwn own 0x6000 b
      let t := s.atDevice 0
      let c := t.cores[(0 : CoreId)]
      let a := bits c.fpown 0 52
      s.runs 0 {} = true ∧ c.det = false ∧ bit c.fpown 71 = own ∧ (a = c.ctxfp ↔ b = 0x6000) ∧ Memory.wf t.mem = true ∧ hostWf t.hostMem = true ∧
      a.toNat % 2 = 0 ∧ rangeInMem a 18 = true ∧ t.guardedWords a (List.range 18) = false ∧ c.ctxfp.toNat % 2 = 0 ∧
      rangeInMem c.ctxfp 18 = true ∧ ∀ i : Nat, i < 18 → (t.cell (c.ctxfp + BitVec.ofNat 52 i)).bad = false) := by decide +kernel

/-- An armed core timer and module timer, due at 5. -/
def tTimers (now : BitVec 64) : State :=
  let s := tSt { tCore with tmr := flagAt true 71 ||| 5, storeBuf := [{ pa := plainAddr 0x2000, mask := maskAll, data := 5, pass := some (0, true) }] }
  { s with now := now, mtmr := s.mtmr.set 15 (flagAt true 71 ||| 5) }
/-- A micro-word of an open routine that ends after one ALU operation on the operands of the instruction. -/
def tMicro (alu : Nat) : Micro := BitVec.ofNat 128 (3 * 2 ^ 124 + alu * 2 ^ 80 + 0x32 * 2 ^ 72 + 0x33 * 2 ^ 64 + 0x31 * 2 ^ 56 + 0xF * 2 ^ 44)
def tUop (alu : Nat) : State := tSt { tG [(1, 5), (2, 6)] tCore with ocsv := 0x8000, ocs := [(1920, MicroWord.of (tMicro alu))] }
/-- Source 5 raised at a level and for core 0. -/
def tRaised : State :=
  let s := tSt tCore
  { s with srcs := s.srcs.set 5 { s.srcs[5] with cfg := at' (9 : BitVec 4) 68 ||| 1, pend := true } }

set_option maxRecDepth 16000 in
theorem witness_SurroundingsOfACore :
    (let s := tTimers 5
     let c := s.cores[(0 : CoreId)]
     s.brd.powered = true ∧ (767 : SrcId).val < 768 ∧ 768 ≤ (768 : SrcId).val ∧ s.runs 0 {} = true ∧ (s.atDevice 0).cores[(0 : CoreId)].det = false ∧
       bit c.tmr 71 = true ∧ (bits c.tmr 0 64).toNat ≤ s.now.toNat ∧ bit s.mtmr[15] 71 = true ∧ (bits s.mtmr[15] 0 64).toNat ≤ s.now.toNat ∧
       (Memory.wf s.mem && hostWf s.hostMem) = true ∧
       c.storeBuf = [{ pa := plainAddr 0x2000, mask := maskAll, data := 5, pass := some (0, true) }] ∧ (plainAddr 0x2000).toNat % 2 = 0 ∧
       c.run = 2 ∧ c.posts = [] ∧ bit c.active 17 = false ∧ c.det = false ∧ s.starts 0 {} = true ∧ (plainAddr 0x2008).toNat % 8 = 0) ∧
    ((tTimers 4).now.toNat < (bits (tTimers 4).cores[(0 : CoreId)].tmr 0 64).toNat ∧ bit (tSt tCore).cores[(0 : CoreId)].tmr 71 = false) ∧
    ((tSync false).cores[(0 : CoreId)].storeBuf.map (fun e => e.pass) = [none] ∧
      ((tSync false).cell (plainAddr 0x2000)).bad = false ∧ (tSt tCore).cores[(0 : CoreId)].storeBuf = []) ∧
    (1 ≤ (1 : BitVec 8).toNat ∧ (7 : BitVec 8).toNat ≤ 7) ∧
    (∃ (t : TlbEnt) (u : State), xlate (.core 0 0) (plainAddr 0x2000) false 0 (daOf (plainAddr 0x2000) 0) (tSt tCore) = .ok t u) ∧
    (∃ (t : TlbEnt) (u : State), xlate (.core 0 1) (plainAddr 0x2000) true 0 (daOf (plainAddr 0x2000) 0) (tSt tCore) = .ok t u) ∧
    (∀ alu ∈ [3, 5, 7], let s := tUop alu
      let sh : Shape := { regs := FmtA.regs tA, steps := 3 }
      let b := s.core 0 sh
      let m := tMicro alu
      s.runs 0 sh = true ∧ bit b.ocsv 15 = true ∧ (b.ocs.find? fun e => e.1 == 128 * 15) = some (128 * 15, MicroWord.of m) ∧ openOk m = true ∧ uSeq m = 3 ∧ uMem m = 0 ∧
      uUnit m = 0 ∧ uA m = 0x32 ∧ uB m = 0x33 ∧ uD m = 0x31 ∧ bits m 44 4 = 0xF ∧ uAlu m = alu ∧ b.det = false ∧ bit b.ocsv 14 = false) := by
  refine ⟨by decide +kernel, by decide +kernel, by decide +kernel, by decide +kernel, ⟨_, _, ok_eq (flatEnt 0) (by decide +kernel)⟩, ⟨_, _, ok_eq (flatEnt 0) (by decide +kernel)⟩, by decide +kernel⟩

theorem foldl_some {β : Type} (f : Option β → β → Option β) (h : ∀ o k, (f o k).isSome = true) :
    ∀ (l : List β) (o : Option β), (l ≠ [] ∨ o.isSome = true) → (l.foldl f o).isSome = true
  | [], _, e => e.resolve_left (fun x => x rfl)
  | a :: l, _, _ => foldl_some f h l _ (.inr (h _ a))

set_option maxRecDepth 8000 in
theorem witness_SurroundingsOfACore_evt : ∃ src, tRaised.sourceFor 0 = some src := by
  apply Option.isSome_iff_exists.mp
  unfold State.sourceFor
  apply foldl_some
  · intro o k
    cases o
    · rfl
    · dsimp only
      split <;> rfl
  · refine .inl (List.ne_nil_of_mem (a := (5 : SrcId)) (List.mem_filter.mpr ⟨List.mem_finRange _, ?_⟩))
    decide +kernel

/-! ## The twin -/

def tFr : Frame := { kind := 0, fseq := 1, fack := 0, rtry := false, crc := 0, pos := 0, w0 := 0, w1 := 0, w2 := 0, w3 := 0, w4 := 0, w5 := 0 }
def tLink : TwinLink := { TwinLink.reset with up := true, training := false }
/-- A module of a role with both twin links in service, side A. -/
def tTwin (role : BitVec 3) (w : Watershed) (l : Ledger) : State :=
  let s := tLed role true l
  { s with ws := { w with role := role, side := false, links := Vector.replicate 2 tLink } }
def tSent (k : BitVec 8) : SentFrame := { link := 0, kind := 0, fseq := k, fack := 0, rtry := false, pos := 0, words := [], crc := 0, replays := 0 }

/-- A frame of a kind with the CRC that it should carry. -/
def tFix (kind : BitVec 4) (fr : Frame) : Frame := { fr with kind := kind, crc := frameCode { fr with kind := kind } }
theorem tFix_code (kind : BitVec 4) (fr : Frame) : (tFix kind fr).crc = frameCode (tFix kind fr) := rfl

/-- What `frameInOrder` asks of a frame but for its KIND and its CRC. -/
def ordB (s : State) (fr : Frame) : Bool :=
  !s.ws.links[(0 : Fin 2)].training && s.ws.links[(0 : Fin 2)].up && fr.fseq == s.ws.links[(0 : Fin 2)].rx + 1 && !fr.rtry
theorem ord_of {s : State} {fr : Frame} (kind : BitVec 4) (h : ordB s fr = true) : s.frameInOrder 0 kind (tFix kind fr) := by
  simp only [ordB, Bool.and_eq_true, Bool.not_eq_true', beq_iff_eq] at h
  exact ⟨h.1.1.1, h.1.1.2, rfl, tFix_code kind fr, h.1.2, h.2⟩
def tLinked (t : TwinLink) (now : BitVec 64) : State :=
  let s := tTwin 2 Watershed.reset Ledger.reset
  { s with now := now, ws := { s.ws with links := s.ws.links.set 0 t } }

set_option maxRecDepth 8000 in
/-- R207-R209: each form of frame; the 63rd and the 64th good one; a seventh and an eighth replay; timers at their last instant and their first. -/
theorem witness_TwinLinksTakeFramesInOrder :
    (TwinLink.reset.training = true ∧ tLink.training = false ∧ ({ tFr with kind := 1 } : Frame).kind ≠ 0 ∧
      ({ tFr with fseq := 2 } : Frame).fseq ≠ tLink.rx + 1) ∧
    ordB (tLinked tLink 0) tFr = true ∧
    (∀ g ∈ [62, 63], let t := { tLink with up := false, good := g }
      (t.training = false ∧ t.up = false ∧ tFr.fseq = t.rx + 1 ∧ (tLinked t 0).ws.contact = false ∧ (g = 62 → t.good + 1 < 64) ∧ (g = 63 → 64 ≤ t.good + 1))) ∧
    (∀ k ∈ [6, 7], let t := { tLink with store := [tSent 1, { tSent 2 with replays := k }] }
     t.training = false ∧ t.up = true ∧ ({ tFr with rtry := true } : Frame).rtry = true ∧ (unacked 0 t.store).length = t.store.length ∧
       (k = 6 → ∀ x ∈ unacked 0 t.store, x.replays < 7) ∧ (k = 7 → ∃ x ∈ unacked 0 t.store, 7 ≤ x.replays)) ∧
    (tLink.up = true ∧ tLink.lastBeat.toNat + 500 ≤ (tLinked tLink 500).now.toNat ∧ (tLinked tLink 499).now.toNat < tLink.lastBeat.toNat + 500) ∧
    ((tLinked tLink 0).ws.sync ≠ 1 ∧ tLink.lastGood.toNat + 2000 ≤ (tLinked tLink 2000).now.toNat ∧
      (tLinked tLink 1999).now.toNat < tLink.lastGood.toNat + 2000) ∧
    (let t := { tLink with fullSince := some 0 }
     t.fullSince = some 0 ∧ (0 : BitVec 64).toNat + 2000 ≤ (tLinked t 2000).now.toNat ∧
       ∀ t0, t.fullSince = some t0 → (tLinked t 1999).now.toNat < t0.toNat + 2000) ∧
    (TwinLink.reset.training = true ∧ (tLinked TwinLink.reset 0).brd.powered = true) :=
  ⟨by decide +kernel, by decide +kernel, by decide +kernel, by decide +kernel, by decide +kernel, by decide +kernel,
    ⟨rfl, by decide +kernel, fun _ h => by cases h; decide +kernel⟩, by decide +kernel⟩

theorem wrong_code (fr : Frame) : ({ fr with crc := frameCode fr + 1 } : Frame).crc ≠ frameCode { fr with crc := frameCode fr + 1 } := by
  have h : frameCode { fr with crc := frameCode fr + 1 } = frameCode fr := rfl
  rw [h]
  generalize frameCode fr = x
  bv_omega

/-- R207: a frame whose CRC is wrong. -/
theorem witness_TwinLinksTakeFramesInOrder_crc : ∃ fr : Frame, fr.kind = 0 ∧ fr.crc ≠ frameCode fr := ⟨_, rfl, wrong_code tFr⟩

/-- A follower with the words of a record at JN_WPOS. -/
def tRecWords : List Word := [recHeader 5 0 0 0 false false false 1, 0, 0, 0, 7]
def tFollow (w : Watershed) (l : Ledger) : State := tTwin 2 w { l with seqNext := 1 }
def heldB (s : State) (o : Nat) : Bool := (s.ws.role == 1 || (s.ws.role == 2 && s.ws.synced)) && s.healable o && s.ringHeld o

set_option maxRecDepth 8000 in
theorem witness_FollowersKeepWhatTheyAreSent :
    (let s := tFollow Watershed.reset Ledger.reset
     (Memory.wf s.mem && hostWf s.hostMem) = true ∧ ordB s tFr = true ∧ s.ws.role = 2 ∧ (tTwin 1 Watershed.reset Ledger.reset).ws.role ≠ 2 ∧
       ordB (tTwin 1 Watershed.reset Ledger.reset) tFr = true) ∧
    (let s := tFollow { Watershed.reset with rxWords := [(1, 7), (2, 8)] } Ledger.reset
     s.ws.sync = 0 ∧ s.ws.heals = [] ∧ s.led.recs = [] ∧ s.ws.rxHave = [] ∧ s.applied.jnRingLog2.toNat ≤ 23 ∧
       s.applied.jnRingBase.toNat + 2 ^ s.applied.jnRingLog2.toNat ≤ 2 ^ 24 ∧ (∀ y ∈ s.ws.rxWords, y.1 ≠ s.led.wpos.toNat) ∧
       (s.ws.rxWords.map fun y => y.1 % 2 ^ s.applied.jnRingLog2.toNat).Nodup) ∧
    (let s := tMem ((List.range 5).zip tRecWords |>.map fun x => (0x40000 + x.1, x.2))
      (tFollow { Watershed.reset with rxHave := [0, 1, 2, 3, 4] } Ledger.reset)
     (Memory.wf s.mem && hostWf s.hostMem) = true ∧ s.ws.sync = 0 ∧ s.ws.heals = [] ∧ s.led.recs = [] ∧ s.led.flights = [] ∧ s.ws.rxWords = [] ∧
       recLen (s.ringWord 0) = some 5 ∧ recType (s.ringWord 0) ≠ 6 ∧ recSeq (s.ringWord 0) = s.led.seqNext ∧ s.led.seqNext.toNat % 64 ≠ 0 ∧
       s.led.seqNext.toNat + 1 < 2 ^ 48 ∧ s.led.wpos.toNat + 5 < 2 ^ 64 ∧ (∀ i : Nat, i < 5 → s.led.wpos.toNat + i ∈ s.ws.rxHave) ∧
       s.led.wpos.toNat + 5 ∉ s.ws.rxHave ∧ s.ws.ahor.toNat < s.led.seqNext.toNat) ∧
    (∀ y ∈ [(0x30004, 7, false), (0x200FC, 4, true)], let r : CopyRun := { off := y.1, len := y.2.1, horizon := 0, got := 0, cell := [] }
     let s := tFollow { Watershed.reset with sync := 3, run := some r } Ledger.reset
     let isCell (k : Nat) : Prop := s.applied.peCellBase.toNat ≤ r.off + k ∧ r.off + k < s.applied.peCellBase.toNat + 4 * s.applied.peCellCount.toNat
     ordB s tFr = true ∧ s.ws.sync = 3 ∧ s.ws.run = some r ∧ s.ws.live = [] ∧ tFr.pos.toNat = r.got ∧ r.off + r.len < 2 ^ 24 ∧ r.cell = [] ∧
       (∀ k : Nat, k < r.len → r.off + k < s.applied.jnRingBase.toNat) ∧
       (y.2.2 = false → ∀ k : Nat, k < r.len → s.healable (r.off + k) = true ∧ ¬isCell k) ∧
       (y.2.2 = true → (∀ k : Nat, k < 4 → isCell k) ∧ (r.off - s.applied.peCellBase.toNat) % 4 = 0 ∧ (s.cell (plainAddr (r.off + 2))).bad = false)) ∧
    (let s := { tFollow Watershed.reset Ledger.reset with applied := { Settings.reset with wsWtable := 0x1000 } }
     let q := (bits ({ tFr with w1 := 0x1FFF } : Frame).w1 0 24).toNat
     ordB s { tFr with w1 := 0x1FFF } = true ∧ s.applied.wsWtable.toNat ≠ 0 ∧ s.applied.wsWtable.toNat ≤ q ∧ q < s.applied.wsWtable.toNat + 4096) ∧
    (let s := tTwin 1 Watershed.reset Ledger.reset
     heldB s 0x20005 = true ∧ (∀ k : Nat, k < 4 → (s.cell (plainAddr (0x20004 + k))).bad = false) ∧ heldB s 0x1000 = false ∧
       bit ({ tFr with w0 := 0x20005 } : Frame).w0 71 = false) ∧
    (let h : Heal := { off := 0x20005, since := 0, data := none }
     let fr : Frame := { tFr with w0 := flagAt true 71 ||| 0x20005 }
     let s := { tTwin 1 { Watershed.reset with heals := [h] } Ledger.reset with now := 2000 }
     ordB s fr = true ∧ bit fr.w0 71 = true ∧ s.ws.heals = [h] ∧ h.off = bits fr.w0 0 24 ∧
       s.ws.ahor.toNat < (bits ({ fr with w1 := at' (1 : BitVec 48) 24 } : Frame).w1 24 48).toNat ∧ s.ws.ahor = bits fr.w1 24 48 ∧
       h.since.toNat + 2000 ≤ s.now.toNat ∧ (1999 : BitVec 64).toNat < h.since.toNat + 2000) :=
  ⟨by decide +kernel, by decide +kernel, by decide +kernel, by decide +kernel, by decide +kernel, by decide +kernel, by decide +kernel⟩

/-- A leader whose record 1 waits for the twin. -/
def tAck (role : BitVec 3) : State :=
  let r : Rec := { trailer := false, seq := 1, pos := 0, len := 6, written := true, digest := none }
  tTwin role { Watershed.reset with contact := true, term := 7 }
    { Ledger.reset with seqNext := 2, wpos := 6, recs := [r], flights := [{ tFl tR [] with decided := some (0, 0) }] }
def tAckFr (seq : BitVec 48) (term : BitVec 48) : Frame := { tFr with w0 := at' seq 24, w1 := at' term 24 }
def together (s : State) : Bool := s.ws.contact && !apart s.ws.role && !apart s.ws.twinRole
def tWJob (opc : BitVec 8) (s1 s2 : Word) : Job :=
  { id := 0, origin := .slot .module 0, s0 := at' opc 64, s1 := s1, s2 := s2, s3 := 0, started := false, progress := 0, ticket := none, since := 0,
    wait := none, arrived := [], tally := none }
def tAsked (x : Job) (role : BitVec 3) (w : Watershed) : State :=
  let s := tTwin role w Ledger.reset
  { s with hi := { s.hi with jobs := [x] } }
def actsB (s : State) (x : Job) (opc : Nat) : Bool := s.jobFor x.id opc == some x && s.authority x == none
/-- A ring with a solo record 1 (or an ordinary one), and the twin's RECON frame. -/
def tSoloRec (solo : Bool) (role : BitVec 3) : State :=
  tMem [(0x40000, recHeader 5 0 0 0 solo false false 1), (0x40004, 7)]
    (tTwin role { Watershed.reset with contact := true, lrole := 1, recon := some 0 } { Ledger.reset with seqNext := 2, wpos := 5 })
def tRecon (s : State) (term : BitVec 48) (solo wseq : BitVec 48) : Frame :=
  { tFr with w0 := at' term 24 ||| flagAt true 18, w2 := at' solo 24, w4 := at' wseq 24, w5 := s.applied.digest }
/-- The divergence point, the solo flags and the winner of the RECON clause, given the words sent. -/
def reconC (words : List Word) (s : State) (fr : Frame) : Nat × Bool × Bool × Bool :=
  let lo := min s.ws.mseq.toNat (bits fr.w1 24 48).toNat
  let hi := min s.wseq.toNat (bits fr.w4 24 48).toNat
  let mine := s.ringRecords.filter fun r => recType r.2 != 6 && decide (lo < (recSeq r.2).toNat) && decide ((recSeq r.2).toNat ≤ hi)
  let c : BitVec 48 := match s.firstDiff mine (splitRecords words.length words) with
    | some q => q - 1
    | none => BitVec.ofNat 48 hi
  let solo := bits fr.w2 24 48
  let led (r : BitVec 2) : Bool := r == 1 || r == 3
  (c.toNat, s.ringRecords.any (fun r => recType r.2 != 6 && decide (c.toNat < (recSeq r.2).toNat) && recSolo r.2),
    ((splitRecords words.length words).any fun r => decide (c.toNat < (recSeq (r.getD 0 0)).toNat) && recSolo (r.getD 0 0)) ||
      (solo != 0 && decide (solo.toNat ≤ (bits fr.w4 24 48).toNat) && decide (c.toNat < (bits fr.w4 24 48).toNat)),
    decide ((bits fr.w0 24 48).toNat < s.ws.term.toNat) || (bits fr.w0 24 48 == s.ws.term &&
      ((led s.ws.lrole && !led (bits fr.w0 19 2)) || (led s.ws.lrole == led (bits fr.w0 19 2) && !s.ws.side))))

set_option maxRecDepth 8000 in
theorem witness_RolesFollowTheTwin_links :
    (let s := tAck 1
     let fr := tAckFr 1 7
     ordB s fr = true ∧ together s = true ∧ s.ws.role = 1 ∧ bits fr.w1 24 48 = s.ws.term ∧ s.ws.heals = [] ∧ s.ws.mseq.toNat < (bits fr.w0 24 48).toNat ∧
       (bits fr.w0 24 48).toNat ≤ s.wseq.toNat ∧
       (s.led.recs.filter fun r => !r.trailer && r.written && decide (s.ws.ahor.toNat < r.seq.toNat) && decide (r.seq.toNat ≤ 1)) = s.led.recs ∧
       s.led.recs.length = 1 ∧ (s.led.flights.find? (fun f => f.seq == 1)).isSome = true ∧
       (s.led.flights.all fun f => f.kind == .posting && !f.prepare && f.decided == some (0, 0)) = true ∧
       (bits (tAckFr 0 7).w0 24 48).toNat ≤ s.ws.mseq.toNat ∧ ordB s (tAckFr 0 7) = true ∧ bits (tAckFr 0 8).w1 24 48 ≠ s.ws.term) ∧
    (let s := tTwin 2 { Watershed.reset with contact := true } Ledger.reset
     let fr : Frame := { tFr with w0 := flagAt true 20 ||| at' (1 : BitVec 3) 21 }
     bit tFr.w0 20 = s.ws.side ∧ ordB s tFr = true ∧ ordB s fr = true ∧ bit fr.w0 20 ≠ s.ws.side ∧ bits fr.w0 21 3 = 1 ∧ s.ws.contact = true ∧ s.ws.role = 2 ∧
       s.ws.sync = 0 ∧ bits fr.w0 24 48 = s.ws.term) ∧
    (let fr : Frame := { tFr with w0 := flagAt true 20 ||| at' (4 : BitVec 3) 21 }
     ordB (tAck 1) fr = true ∧ bits fr.w0 21 3 = 4 ∧ (tAck 1).ws.role = 1) ∧
    ((tAck 1).ws.lastTerm.toNat + 20000 ≤ ({ tAck 1 with now := 20000 } : State).now.toNat ∧ (19999 : BitVec 64).toNat < (tAck 1).ws.lastTerm.toNat + 20000 ∧
      (Memory.wf (tAck 1).mem && hostWf (tAck 1).hostMem) = true ∧ (tAck 1).brd.powered = true ∧ State.reset.brd.powered = false) ∧
    ((100000 : BitVec 64).toNat ≤ ({ tAck 1 with now := 100000 } : State).now.toNat) ∧
    (let s := tTwin 0 Watershed.reset Ledger.reset
     let s := { s with now := 50000, applied := { s.applied with wsCtl := 1 } }
     s.ws.role = 0 ∧ s.ws.contact = false ∧ s.asksWitness = true ∧ s.ws.lastGreq.toNat + 50000 ≤ s.now.toNat ∧
       (49999 : BitVec 64).toNat < s.ws.lastGreq.toNat + 50000) := by
  refine ⟨by decide +kernel, by decide +kernel, by decide +kernel, by decide +kernel, by decide +kernel, by decide +kernel⟩

set_option maxRecDepth 8000 in
/-- R223, R224: unequal settings; both sides solo; this side's solo records; the twin's; and the term, won and lost. -/
theorem witness_RolesFollowTheTwin_recon :
    (let s := tSoloRec true 0
     let fr := tRecon s 0 1 1
     ordB s fr = true ∧ bit tFr.w0 18 = s.ws.side ∧ bit fr.w0 18 ≠ s.ws.side ∧ apart (bits fr.w0 21 3) = false ∧ apart s.ws.role = false ∧
       s.ws.sideConflict = false ∧ fr.w5 = s.applied.digest ∧ ({ fr with w5 := s.applied.digest + 1 } : Frame).w5 ≠ s.applied.digest) ∧
    (reconC [recHeader 5 0 0 0 true false false 1, 0, 0, 0, 9] (tSoloRec true 0) (tRecon (tSoloRec true 0) 0 1 1)) = (0, true, true, true) ∧
    (reconC [] (tSoloRec true 0) (tRecon (tSoloRec true 0) 0 0 0)) = (0, true, false, true) ∧
    (reconC [] (tSoloRec false 0) (tRecon (tSoloRec false 0) 1 1 2)) = (1, false, true, false) ∧
    (reconC [] (tSoloRec false 0) (tRecon (tSoloRec false 0) 0 0 1)) = (1, false, false, true) ∧
    (reconC [] (tSoloRec false 0) (tRecon (tSoloRec false 0) 1 0 1)) = (1, false, false, false) := by
  refine ⟨by decide +kernel, by decide +kernel, by decide +kernel, by decide +kernel, by decide +kernel, by decide +kernel⟩

/-- R233-R235: the Watershed jobs in the roles that take them and in the others. -/
theorem witness_RolesFollowTheTwin_jobs :
    (let x := tWJob 0x11 0 0
     actsB (tAsked x 1 Watershed.reset) x 0x11 = true ∧ actsB (tAsked x 5 Watershed.reset) x 0x11 = true) ∧
    (let x := tWJob 0x12 0 0
     actsB (tAsked x 4 Watershed.reset) x 0x12 = true ∧ actsB (tAsked x 1 Watershed.reset) x 0x12 = true) ∧
    (∀ keep : Bool, let x := tWJob 0x13 (at' (8 : BitVec 48) 24 ||| flagAt keep 23) (at' (3 : BitVec 48) 24)
     let s := tAsked x 5 { Watershed.reset with term := 7, divPfx := 3 }
     let w : ReconcileWords := { term := 8, keep := !keep, pfx := 3, ownTerm := 7 }
     actsB s x 0x13 = true ∧ bits x.s1 0 23 = 0 ∧ bits x.s2 0 24 = 0 ∧ bits x.s2 24 48 = s.ws.divPfx ∧
       max s.ws.term.toNat w.ownTerm.toNat < (bits x.s1 24 48).toNat ∧ s.ws.reconcile = none ∧ w.keep ≠ bit x.s1 23 ∧ { w with keep := keep }.keep = bit x.s1 23 ∧
       (bits x.s1 24 48).toNat ≤ max s.ws.term.toNat ({ w with ownTerm := 8 } : ReconcileWords).ownTerm.toNat) ∧
    (let x := tWJob 0x13 0 0
     let w : ReconcileWords := { term := 8, keep := true, pfx := 3, ownTerm := 7 }
     let s := tAsked x 5 { Watershed.reset with reconcile := some (0, w, 0) }
     s.ws.reconcile = some (0, w, 0) ∧ s.job 0 = some x ∧ (0 : BitVec 64).toNat + 1000000 ≤ ({ s with now := 1000000 } : State).now.toNat) := by
  refine ⟨by decide +kernel, by decide +kernel, by decide +kernel, by decide +kernel⟩

/-! ## Witnesses -/

def tWit (role : BitVec 3) (w : Watershed) : State :=
  let s := tTwin role w Ledger.reset
  { s with now := 10000, applied := { s.applied with wsWtable := 0x1000 } }
def tWitReq (chosen : Option Bool) : WitReq := { pair := 3, side := true, term := 8, wseq := 5, since := 0, chosen := chosen }
def servesB (s : State) : Bool := (s.ws.role == 1 || s.ws.role == 3) && s.applied.wsWtable != 0
def againB (s : State) (w : Word) : Bool :=
  let row := s.data (plainAddr (s.applied.wsWtable.toNat + (bits w 12 12).toNat))
  let g : BitVec 48 := bits row 24 48
  g != 0 && bit row 23 == bit w 11 && decide ((bits w 24 48).toNat < g.toNat)
/-- A GREQ or an answer of pair 3. -/
def tGw (side : Bool) (term : BitVec 48) : Word := at' term 24 ||| at' (3 : BitVec 12) 12 ||| flagAt side 11
def codeOf (s : State) (w : Word) : Nat :=
  if bits w 12 12 ≠ s.applied.lbPair ∨ bit w 11 ≠ s.ws.side then 1
  else if (bits w 24 48).toNat ≤ s.ws.term.toNat then 2 else if s.ws.role ≠ 0 ∧ s.ws.role ≠ 3 then 3
  else if s.ws.contact = true ∧ s.ws.twinRole ≠ 4 then 4 else if bits w 0 11 ≠ 0 then 5 else if s.ws.sideConflict = true then 6 else 0

/-- R219-R222: a witness that serves and one that does not; a grant repeated and not, at the term where it changes; a request known and new; probes
answered at the last instant and due; each refusal of a grant and one that is taken. -/
theorem witness_WitnessesGrantOneSide :
    servesB (tWit 2 Watershed.reset) = false ∧
    (let s := tMem [(0x1003, at' (8 : BitVec 48) 24 ||| flagAt true 23)] (tWit 1 Watershed.reset)
     servesB s = true ∧ againB s (tGw true 7) = true ∧ againB s (tGw true 8) = false ∧ (bits (tGw true 7) 12 12).toNat = 3) ∧
    (let s := tWit 3 { Watershed.reset with wits := [tWitReq none] }
     servesB s = true ∧ againB s (tGw true 7) = false ∧ (tWitReq none).pair = 3 ∧
       s.ws.wits.find? (fun x => x.pair == bits (tGw false 7) 12 12 && x.side != bit (tGw false 7) 11 && x.chosen.isNone) = some (tWitReq none) ∧
       s.ws.wits.find? (fun x => x.pair == 3 && x.chosen.isNone && decide (x.since.toNat + 10000 ≤ s.now.toNat)) = some (tWitReq none) ∧
       (9999 : BitVec 64).toNat < (tWitReq none).since.toNat + 10000 ∧ (2 : BitVec 3) ≠ 0 ∧ (2 : BitVec 3) ≠ 4) ∧
    ((tWit 1 Watershed.reset).ws.wits = [] ∧ max (bits (tGw true 7) 24 48).toNat 0 + 1 < 2 ^ 48) ∧
    (let s := tWit 1 { Watershed.reset with wits := [tWitReq (some true)] }
     s.ws.wits.find? (fun x => x.pair == 3) = some (tWitReq (some true)) ∧ (tWitReq (some true)).chosen = some true) ∧
    (let g : Word := at' (8 : BitVec 48) 24
     (codeOf (tTwin 0 Watershed.reset Ledger.reset) (tGw false 8) = 1 ∧ codeOf (tTwin 0 { Watershed.reset with term := 8 } Ledger.reset) g = 2 ∧
       codeOf (tTwin 1 Watershed.reset Ledger.reset) g = 3 ∧ codeOf (tTwin 3 { Watershed.reset with contact := true } Ledger.reset) g = 4 ∧
       codeOf (tTwin 0 Watershed.reset Ledger.reset) (g ||| 1) = 5 ∧ codeOf (tTwin 0 { Watershed.reset with sideConflict := true } Ledger.reset) g = 6 ∧
       codeOf (tTwin 0 { Watershed.reset with term := 7 } Ledger.reset) g = 0 ∧ codeOf (tTwin 3 { Watershed.reset with term := 7 } Ledger.reset) g = 0) ∧
     (actsB (tAsked (tWJob 0x10 g 0) 0 Watershed.reset) (tWJob 0x10 g 0) 0x10 = true ∧ (tWJob 0x10 g 0).s1 = g)) := by decide +kernel

/-! ## Channel engines -/

/-- A program whose block is at an offset of the Plain, with the pass of R263 in every slot; its channel registers. -/
def tProg (off : Nat) (cr : List (Nat × Word)) : ChProg :=
  { cpb := plainAddr off, w0 := at' (1 : BitVec 4) 68, cpc := plainAddr 0x5000, cc := 0, cls := 0, code := 0, slot := 0, stopcode := 0, faddr := 0,
    fphys := 0, done := 0, elem := 0, waitns := 0, w6 := 0, w7 := 0,
    cr := cr.foldl (fun v x => if h : x.1 < 16 then v.set x.1 x.2 h else v) (Vector.replicate 16 0), cp := Vector.replicate 8 .rootP15, space := 0, troot := 0,
    ccw := none, inElem := none, waitFrom := none, exportTo := none, reject := none, waitPost := none, ending := none, halt := false }
def tReady (off : Nat) (prio : BitVec 3) : ChReady := { cpb := plainAddr off, prio := prio, space := 0, troot := 0, preempted := false }
/-- Engine 0 of a module, and words of the Plain. -/
def tEng (x : Engine) (ws : List (Nat × Word)) : State :=
  let s := tMem ws (tSt { tCore with storeBuf := [] })
  { s with engines := s.engines.set 0 x }
def tRun (p : ChProg) : Engine := { Engine.reset with running := some p }

def freeB (s : State) (pa : WAddr) : Bool := decide (pa.toNat % 64 = 0) && rangeInMem pa 40 && !s.guardedWords pa (List.range 40)
def busyB (s : State) (pa : WAddr) : Bool := (List.finRange 24).any fun e => (match s.engines[e].running with
  | some p => p.cpb == pa
  | none => false) || s.engines[e].ready.any fun r => r.cpb == pa
theorem busy_iff {s : State} {pa : WAddr} : s.blockBusy pa ↔ busyB s pa = true := by
  unfold State.blockBusy busyB
  simp only [List.any_eq_true, List.mem_finRange, true_and, Bool.or_eq_true, beq_iff_eq]
  refine exists_congr fun e => or_congr ?_ Iff.rfl
  cases s.engines[e].running <;> simp

/-- The request names P1 and the block at word 0x4000. -/
def tAskV : Word := at' (1 : BitVec 4) 52 ||| (plainAddr 0x4000).setWidth 72
def tBlk : List (Nat × Word) := [(0x4000, at' (1 : BitVec 4) 68)]
def askM : M WAddr := cpbTests (.core 0 1) .rootP15 1 (bits tAskV 0 52)
def askT (s : State) : State := stateOf askM (s.atDevice 0)
def askP (s : State) : WAddr := resOf askM (s.atDevice 0) 0
def formB (s : State) (pa : WAddr) : Bool :=
  bits tAskV 56 16 == 0 && decide ((bits tAskV 0 52).toNat % 64 = 0) && rangeInMem pa 40 && bits (s.data pa) 68 4 == 1 && !bit (s.data pa) 64 &&
    bits (s.data pa) 0 56 == 0
theorem form_iff {s : State} {pa : WAddr} : s.blockForm tAskV pa ↔ formB s pa = true := by
  simp [State.blockForm, formB, and_assoc]

/-- What every request asks: the invariant holds, the instruction runs and the block passes the tests. -/
def asksB (s : State) : Bool :=
  invB s && s.runs 0 {} && !(s.atDevice 0).cores[(0 : CoreId)].det && (s.atDevice 0).cores[(0 : CoreId)].pr (bits tAskV 52 4) == .rootP15 && okOf askM (s.atDevice 0) &&
    freeB (askT s) (askP s) && !((askT s).cell (askP s)).bad
/-- Which answer CH_START gives. -/
def startB (s : State) : Nat :=
  let t := askT s
  let y := t.engines[(0 : EngId)]
  if !formB t (askP s) then 2 else if y.fenced then 4 else if busyB t (askP s) then 3 else if 8 ≤ y.ready.length then 1 else 0
/-- Whether CH_RESUME goes on. -/
def resumeB (s : State) : Bool :=
  let t := askT s
  let pa := askP s
  formB t pa && !(t.cell pa).bad && !(t.cell (pa + 2)).bad && bits (t.data (pa + 2)) 68 4 == 3 && !busyB t pa && !t.engines[(0 : EngId)].fenced &&
    decide (t.engines[(0 : EngId)].ready.length < 8)

set_option maxRecDepth 8000 in
/-- R393: each refusal of CH_START, the last free place of the ready list, and none; CH_RESUME of a stopped block and of another. -/
theorem witness_EnginesRunTheirPrograms_asks :
    (∀ x ∈ [(tEng Engine.reset [], 2), (tEng { Engine.reset with fenced := true } tBlk, 4), (tEng (tRun (tProg 0x4000 [])) tBlk, 3),
        (tEng { Engine.reset with ready := [tReady 0x4000 0] } tBlk, 3),
        (tEng { Engine.reset with ready := List.replicate 8 (tReady 0x4400 0) } tBlk, 1),
        (tEng { Engine.reset with ready := List.replicate 7 (tReady 0x4400 0) } tBlk, 0)], asksB x.1 = true ∧ startB x.1 = x.2) ∧
    (let s := tEng { Engine.reset with ready := List.replicate 7 (tReady 0x4400 0) } (tBlk ++ [(0x4002, at' (3 : BitVec 4) 68)])
     asksB s = true ∧ resumeB s = true) ∧
    (asksB (tEng Engine.reset tBlk) = true ∧ resumeB (tEng Engine.reset tBlk) = false) := by decide +kernel

/-- What CH_HALT finds: a ready block, the running block at a point and not, another block, nothing. -/
theorem witness_EnginesRunTheirPrograms_halt :
    (let s := tEng { Engine.reset with ready := [tReady 0x4000 0] } tBlk
     asksB s = true ∧ ((askT s).engines[(0 : EngId)].ready.any fun r => r.cpb == askP s) = true) ∧
    (let s := tEng (tRun (tProg 0x4000 [])) tBlk
     asksB s = true ∧ (askT s).engines[(0 : EngId)].ready = [] ∧ (askT s).engines[(0 : EngId)].running = some (tProg 0x4000 []) ∧
       (askT s).canLeave 0 (tProg 0x4000 []) = true ∧ (tProg 0x4000 []).cpb = askP s ∧ (tProg 0x4000 []).waitFrom = none) ∧
    (let p := { tProg 0x4000 [] with ccw := some 0 }
     let s := tEng { tRun p with posts := [{ ticket := 1, cpb := plainAddr 0x4000, h0 := 0, rej := false, recno := 0, cpc := 0, slot := 0, result := none, stored := false }] } tBlk
     asksB s = true ∧ (askT s).engines[(0 : EngId)].running = some p ∧ (askT s).canLeave 0 p = false ∧ p.cpb = askP s) ∧
    (let s := tEng (tRun (tProg 0x4400 [])) tBlk
     asksB s = true ∧ (askT s).engines[(0 : EngId)].running = some (tProg 0x4400 []) ∧ (tProg 0x4400 []).cpb ≠ askP s) ∧
    (asksB (tEng Engine.reset tBlk) = true ∧ (askT (tEng Engine.reset tBlk)).engines[(0 : EngId)].running = none ∧
      freeB (askT (tEng Engine.reset tBlk)) (askP (tEng Engine.reset tBlk)) = true) := by
  refine ⟨by decide +kernel, by decide +kernel, by decide +kernel, by decide +kernel, by decide +kernel⟩

/-- An engine stands at a unit of command k that it runs on. -/
def atB (s : State) (k : Nat) (q : ChProg) (w : Word) : Bool :=
  s.engines[(0 : EngId)].running == some q && s.canRun 0 q && s.engines[(0 : EngId)].failed.isNone && !q.halt && decide ((ccwCmd w).toNat = k) && q.ccw == some w
theorem ccwAt_of {s : State} {k : Nat} {q : ChProg} {w : Word} (h : atB s k q w = true) : s.ccwAt 0 k q w s := by
  simp only [atB, Bool.and_eq_true, beq_iff_eq, Bool.not_eq_true', decide_eq_true_eq, Option.isNone_iff_eq_none] at h
  obtain ⟨⟨⟨⟨⟨h1, h2⟩, h3⟩, h4⟩, h5⟩, h6⟩ := h
  exact ⟨q, h1, h2, h3, h4, h5, by rw [← h6], .inl ⟨h6, rfl⟩⟩
/-- Nothing that engine 0 stored is outstanding. -/
def clearB (t : State) : Bool := !t.engStoresOut 0 && t.engines[(0 : EngId)].windows.isEmpty && t.engines[(0 : EngId)].failed.isNone

/-- R396: of two ready programs of the highest PRIO the first is the best. -/
theorem best_first (x : Engine) (a b c : ChReady) (h : x.ready = [a, b, c]) (h1 : a.prio.toNat < b.prio.toNat) (h2 : c.prio.toNat ≤ b.prio.toNat) : x.best b :=
  ⟨[a], [c], h, by simpa using h1, by simpa using h2⟩

def tThree : List ChReady := [tReady 0x4400 1, tReady 0x4000 5, tReady 0x4800 5]
def tPosted (st : BitVec 8) : EngPost :=
  { ticket := 4, cpb := plainAddr 0x4000, h0 := 0, rej := true, recno := 0, cpc := 0, slot := 0, result := some (at' st 64), stored := true }

set_option maxRecDepth 8000 in
theorem witness_EnginesRunTheirPrograms_dispatch :
    (let x := { Engine.reset with ready := tThree }
     let s := tEng x tBlk
     s.engines[(0 : EngId)].running = none ∧ x.fenced = false ∧ freeB s (tReady 0x4000 5).cpb = true ∧ s.anyBad (tReady 0x4000 5).cpb 40 = false ∧
       (s.putCell (plainAddr 0x4001) { data := 0, tag := false, bad := true }).anyBad (tReady 0x4000 5).cpb 40 = true) ∧
    (let p := { tProg 0x4C00 [] with w0 := at' (1 : BitVec 4) 68 ||| at' (4 : BitVec 3) 65 }
     let x := { tRun p with ready := tThree }
     let s := tEng x tBlk
     p.halt = false ∧ bits p.w0 65 3 < (tReady 0x4000 5).prio ∧ s.canLeave 0 p = true ∧ p.waitFrom = none ∧ p.cpb ≠ (tReady 0x4000 5).cpb ∧
       freeB s p.cpb = true ∧ freeB s (tReady 0x4000 5).cpb = true ∧
       (tEng { x with windows := [3] } tBlk).canLeave 0 p = false ∧ (tEng { x with windows := [3] } tBlk).atPoint p = true) ∧
    (let p := { tProg 0x4C00 [] with w0 := at' (1 : BitVec 4) 68 ||| at' (5 : BitVec 3) 65 }
     (tThree.all fun r => decide (r.prio ≤ bits p.w0 65 3)) = true) ∧
    (let w : Word := 7
     let p := { tProg 0x4000 [] with ccw := some w }
     atB (tEng (tRun p) []) 0 p w = true ∧ p.waitFrom = none ∧ atB (tEng { tRun p with posts := [tPosted 0] } []) 0 p w = true ∧
       freeB (tEng (tRun p) []) p.cpb = true) ∧
    (∀ st ∈ [0, 15, 16, 47, 48, 63, 64, 95, 96], let q := tPosted (BitVec.ofNat 8 st)
     let p := { tProg 0x4000 [] with ccw := some 0, waitPost := some 4 }
     let x := { tRun p with posts := [q] }
     p.reject = none ∧ p.halt = false ∧ x.wait = none ∧ x.fenced = false ∧ x.posts.find? (fun y => y.result.isSome && y.stored) = some q ∧
       q.result = some (at' (BitVec.ofNat 8 st) 64) ∧ ({ q with rej := false } : EngPost).rej = false ∧ (st < 16 → bits (at' (BitVec.ofNat 8 st) 64) 64 8 < 0x10) ∧
       p.ccw = some 0 ∧ p.waitPost = some q.ticket ∧ ({ p with waitPost := none } : ChProg).waitPost ≠ some q.ticket) ∧
    (let q := { tPosted 0 with stored := false }
     let x := { tRun (tProg 0x4000 []) with posts := [q, { q with ticket := 5 }] }
     x.wait = none ∧ x.fenced = false ∧ x.posts.head? = some q ∧ (x.posts.all fun y => y.result.isSome && !y.stored) = true ∧
       freeB (tEng x tBlk) (tProg 0x4000 []).cpb = true) ∧
    (let w : Word := at' (8 : BitVec 4) 68 ||| at' (5 : BitVec 16) 30 ||| at' (2 : BitVec 12) 18
     let p := { tProg 0x4000 [] with ccw := some w, waitFrom := some 10, waitns := 2000 }
     let s := { tEng (tRun p) [] with now := 2010 }
     p.halt = false ∧ p.reject = none ∧ bits w 18 12 ≠ 0 ∧ (10 : BitVec 64).toNat + p.waitns.toNat ≤ s.now.toNat ∧
       s.engines[(0 : EngId)].credit[(bits w 46 2).toFin].toNat < (bits w 30 16).toNat ∧ (2009 : BitVec 64).toNat < (10 : BitVec 64).toNat + p.waitns.toNat) := by
  refine ⟨by decide +kernel, by decide +kernel, by decide +kernel, by decide +kernel, by decide +kernel, by decide +kernel, by decide +kernel⟩

theorem best_three : ({ Engine.reset with ready := tThree } : Engine).best (tReady 0x4000 5) := best_first _ _ _ _ rfl (by decide +kernel) (by decide +kernel)

set_option maxRecDepth 8000 in
/-- R398, R399: a CCW of no command, fetched; a full reject ring and one with its last place free. -/
theorem witness_EnginesRunTheirPrograms_faults :
    (∃ t : State, let p := tProg 0x4000 []
      let w : Word := at' (0xC : BitVec 4) 68
      let s := tEng (tRun p) (tBlk ++ [(0x5000, w)])
      ccwFetch 0 p s = .ok w t ∧ s.canRun 0 p = true ∧ p.halt = false ∧ p.ccw = none ∧ p.waitFrom = none ∧ (tRun p).posts = [] ∧
        t.engines[(0 : EngId)].running = some p ∧ 0xC ≤ (bits w 68 4).toNat ∧ freeB t p.cpb = true) ∧
    (∀ used : Bool, ∃ (cons prod : Word) (t1 t2 : State),
      let r : ChReject := { reason := 0x10, detail := 1, addr := 0, recno := 0, cmd := 5, cpc := plainAddr 0x5000, ticket := none, full := false, written := none }
      let p := { tProg 0x4000 [(0, tDa 0x2000 0)] with
        ccw := some (at' (5 : BitVec 4) 68), reject := some r, w6 := at' (3 : BitVec 4) 68 ||| (plainAddr 0x6000).setWidth 72, w7 := (plainAddr 0x7000).setWidth 72 }
      let s := tEng (tRun p) (tBlk ++ [(0x7000, if used then 8 else 7)])
      let ctl (k : Nat) : DAddr := daOf (bits p.w7 0 52 + BitVec.ofNat 52 k) 0
      engWord 0 p 1 (ctl 1) s = .ok cons t1 ∧ engWord 0 p 1 (ctl 0) t1 = .ok prod t2 ∧ (bits p.w6 68 4).toNat = 3 ∧ (tRun p).wait = none ∧
        t2.engines[(0 : EngId)].running = some p ∧ (if used then 2 ^ 3 ≤ (bits prod 0 64 - bits cons 0 64).toNat
          else (bits prod 0 64 - bits cons 0 64).toNat < 2 ^ 3 ∧
            okOf (rejectCopy 0 p) t2 = true ∧ ((resOf (rejectCopy 0 p) t2 none).getD []).length = 72 ∧
            let t3 := stateOf (rejectCopy 0 p) t2
            let m4 := engRefs 0 p 1 permStore .store (daOf (bits p.w6 0 52 + BitVec.ofNat 52 (8 * ((bits prod 0 64).toNat % 2 ^ 3))) 0) 144
            let t4 := stateOf m4 t3
            let m5 := engRefs 0 p 1 permStore .store (ctl 0) 18
            let t5 := stateOf m5 t4
            let rs := resOf m4 t3 [] ++ resOf m5 t4 []
            okOf m4 t3 = true ∧ okOf m5 t4 = true ∧ (Memory.wf t5.mem && hostWf t5.hostMem) = true ∧ (rs.map fun r => r.pa).Nodup ∧
              (rs.all fun r => isLocalMem r.pa && !(t5.cell r.pa).bad && r.ent.chg) = true ∧ t5.engines[(0 : EngId)].running = some p ∧ clearB t5 = true ∧ advancesOk p (at' (5 : BitVec 4) 68) = true)) := by
  refine ⟨⟨_, ok_eq 0 (by decide +kernel), by decide +kernel⟩, fun used => ?_⟩
  cases used <;> exact ⟨_, _, _, _, ok_eq 0 (by decide +kernel), ok_eq 0 (by decide +kernel), by decide +kernel⟩

/-! ## Channel command words -/

def tCw (w : Word) (cr : List (Nat × Word)) : ChProg := { tProg 0x4000 cr with ccw := some w }
def tCs (q : ChProg) (ws : List (Nat × Word)) : State := tEng (tRun q) ws
/-- A CCW with its operands in registers 1, 2 and 3. -/
def tCmd (k : BitVec 4) (low : Word) : Word := at' k 68 ||| at' (1 : BitVec 4) 64 ||| at' (2 : BitVec 4) 60 ||| low

def refsOf (q : ChProg) (k : BitVec 3) (need : BitVec 12) (a : Acc) (da : DAddr) (n : Nat) (t : State) : List WordRef := resOf (engRefs 0 q k need a da n) t []
def refsT (q : ChProg) (k : BitVec 3) (need : BitVec 12) (a : Acc) (da : DAddr) (n : Nat) (t : State) : State := stateOf (engRefs 0 q k need a da n) t
def storesB (t : State) (rs : List WordRef) : Bool :=
  Memory.wf t.mem && hostWf t.hostMem && decide (rs.map fun r => r.pa).Nodup && rs.all fun r => isLocalMem r.pa && !(t.cell r.pa).bad && r.ent.chg

/-- One unit of MOVE of m positions at offset d: its accesses succeed and its stores reach distinct words. -/
def moveB (s : State) (q : ChProg) (sa sb : BitVec 3) (a b : DAddr) (m : Nat) : Bool :=
  let rs := refsOf q sa permStore .store a m s
  let t1 := refsT q sa permStore .store a m s
  let l := resOf (engField 0 q sb b m) t1 []
  let t2 := stateOf (engField 0 q sb b m) t1
  okOf (engRefs 0 q sa permStore .store a m) s && okOf (engField 0 q sb b m) t1 && okOf (engWrite 0 sa rs l) t2 && storesB t2 rs && decide (l.length = m) &&
    clearB (stateOf (engWrite 0 sa rs l) t2)

set_option maxRecDepth 8000 in
/-- R401: N of 0 and a unit that completes at once; a unit that crosses no word and ends the operand, or not. -/
theorem witness_ChannelCommandWords_move :
    (let w := tCmd 1 0
     let q := tCw w [(1, tDa 0x2000 10), (2, tDa 0x2800 3)]
     atB (tCs q []) 1 q w = true ∧ q.ending = none ∧ moveCount q w ≤ q.done.toNat ∧ advancesOk q w = true ∧ clearB (tCs q []) = true) ∧
    (∀ k ∈ [1, 2, 3, 4, 5, 7], let w := tCmd (BitVec.ofNat 4 k) 0
     let q := { tCw w [(1, tDa 0x2000 10), (2, tDa 0x2800 3)] with ending := some 0 }
     atB (tCs q []) k q w = true ∧ advancesOk q w = true ∧ clearB (tCs q []) = true) ∧
    (let q := tCw (tCmd 1 0) [(2, tDa 0x2800 3)]
     let b : DAddr := bits (q.reg 2) 0 57
     let x : WAddr × BitVec 18 := (plainAddr 0x2800, -1)
     let t := tCs q []
     let m := checkWord (.engine 0) (q.pass 0) 0 .load x.1 x.2 (firstPos b x.1)
     okOf (passTests (q.pass 0) 0 permLoad .load (firstPos b x.1) [x]) t = true ∧
       (let t1 := stateOf (passTests (q.pass 0) 0 permLoad .load (firstPos b x.1) [x]) t
        okOf m t1 = true ∧ ∃ r ∈ (resOf (do return [← m]) t1 []).head?, isLocalMem r.pa = true ∧ ((stateOf m t1).cell r.pa).bad = false)) ∧
    (∀ z : Bool, let n : BitVec 72 := if z then 5 else 20
      let w := tCmd 1 (n ||| flagAt true 49)
      let q := tCw w [(1, tDa 0x2000 10), (2, tDa 0x2800 3)]
      let s := tCs q []
      let a : DAddr := bits (q.reg 1) 0 57
      let b : DAddr := bits (q.reg 2) 0 57
      let m := min (18 - daPos (daAdd a q.done.toNat)) (moveCount q w - q.done.toNat)
      atB s 1 q w = true ∧ q.ending = none ∧ q.done.toNat < moveCount q w ∧
        advancesOk { q with done := q.done + BitVec.ofNat 32 m, elem := 0, inElem := none } w = true ∧ moveB s q 0 0 (daAdd a q.done.toNat) (daAdd b q.done.toNat) m = true) := by
  refine ⟨by decide +kernel, by decide +kernel, by decide +kernel, by decide +kernel⟩

/-- Two elements of a GATHER, of 1 and 2 positions of the word at 0x2900. -/
def tGa : ChProg := tCw (tCmd 2 1) [(1, tDa 0x2000 16), (2, tDa 0x2800 0)]
def tList : List (Nat × Word) :=
  [(0x2800, at' (0 : BitVec 6) 66 ||| tDa 0x2900 4), (0x2801, at' (1 : BitVec 6) 66 ||| tDa 0x2900 7), (0x2900, 0x123456789ABCDEF012)]
def tEls : List (Nat × DAddr) := [(1, daOf (plainAddr 0x2900) 4), (2, daOf (plainAddr 0x2900) 7)]
def tFs : List (List (BitVec 4)) := [[5], [8, 9]]

theorem gather_field (i : Nat) (h : i < 2) (o m : Nat) (h1 : o + m ≤ (tFs.getD i []).length) (h2 : 0 < m) :
    engField 0 tGa 0 (daAdd (tEls.getD i (0, 0)).2 o) m (tCs tGa tList) = .ok (((tFs.getD i []).drop o).take m) (tCs tGa tList) := by
  match i, o, m with
  | 0, 0, 1 => rfl
  | 0, 0, m + 2 => simp [tFs] at h1
  | 0, o + 1, m => simp [tFs] at h1; omega
  | 1, 0, 1 => rfl
  | 1, 0, 2 => rfl
  | 1, 1, 1 => rfl
  | 1, 0, m + 3 => simp [tFs] at h1
  | 1, 1, m + 2 => simp [tFs] at h1; omega
  | 1, o + 2, m => simp [tFs] at h1; omega
  | _, _, 0 => omega
  | i + 2, _, _ => omega

/-- R402: a list of two elements, its fields readable at every offset, and the stores of its first unit. -/
theorem witness_ChannelCommandWords_gather :
    atB (tCs tGa tList) 2 tGa (tCmd 2 1) = true ∧ tGa.ending = none ∧
    (∀ i : Nat, i < tEls.length → descriptor 0 tGa 0 (bits (tGa.reg 2) 0 57) i (tCs tGa tList) = .ok (tEls.getD i (0, 0)) (tCs tGa tList)) ∧
    tEls.length = (bits (tCmd 2 1) 0 8).toNat + 1 ∧ tFs.length = tEls.length ∧
    (∀ i : Nat, i < tEls.length → (tFs.getD i []).length = (tEls.getD i (0, 0)).1 ∧ 0 < (tEls.getD i (0, 0)).1 ∧
      ∀ o m : Nat, o + m ≤ (tFs.getD i []).length → 0 < m →
        engField 0 tGa 0 (daAdd (tEls.getD i (0, 0)).2 o) m (tCs tGa tList) = .ok (((tFs.getD i []).drop o).take m) (tCs tGa tList)) ∧
    (tGa.elem.toNat < tEls.length ∧ tGa.elem.toNat = 0 ∧ tGa.done.toNat = 0 ∧ 0 < ((tEls.take 1).map fun x => x.1).sum ∧ tGa.inElem = none) ∧
    (let l := (tFs.flatten.drop 0).take (18 - daPos (bits (tGa.reg 1) 0 57))
     let s := tCs tGa tList
     let a : DAddr := daAdd (bits (tGa.reg 1) 0 57) 0
     l.length = 2 ∧ okOf (engRefs 0 tGa 0 permStore .store a l.length) s = true ∧
       okOf (engWrite 0 0 (refsOf tGa 0 permStore .store a l.length s) l) (refsT tGa 0 permStore .store a l.length s) = true ∧
       advancesOk { tGa with done := tGa.done + BitVec.ofNat 32 l.length, elem := BitVec.ofNat 8 1, inElem := some { off := 1, desc := tEls[1]? } } (tCmd 2 1) = true) := by
  refine ⟨by decide +kernel, by decide +kernel, fun i h => ?_, by decide +kernel, by decide +kernel, fun i h => ⟨?_, ?_, gather_field i h⟩, by decide +kernel, by decide +kernel⟩
  · match i, h with
    | 0, _ => rfl
    | 1, _ => rfl
  · match i, h with
    | 0, _ => rfl
    | 1, _ => rfl
  · match i, h with
    | 0, _ => decide +kernel
    | 1, _ => decide +kernel

/-- The same list as the operand A of a SCATTER that stands at position 1 of the concatenation. -/
def tSc : ChProg := { tCw (tCmd 3 1) [(1, tDa 0x2800 0), (2, tDa 0x2000 16)] with done := 1, elem := 1 }

theorem witness_ChannelCommandWords_scatter :
    atB (tCs tSc tList) 3 tSc (tCmd 3 1) = true ∧ tSc.ending = none ∧
    (∀ i : Nat, i < tEls.length → descriptor 0 tSc 0 (bits (tSc.reg 1) 0 57) i (tCs tSc tList) = .ok (tEls.getD i (0, 0)) (tCs tSc tList)) ∧
    (let before (i : Nat) : Nat := ((tEls.take i).map fun x => x.1).sum
     let d := tSc.done.toNat
     tSc.elem = 1 ∧ tSc.inElem = none ∧ before 1 ≤ d ∧ d < before 2 ∧ (let x := tEls.getD 1 (0, 0)
       let o := d - before 1
       let m := min (18 - daPos (daAdd x.2 o)) (x.1 - o)
       o + m = x.1 ∧ moveB (tCs tSc tList) tSc 0 0 (daAdd x.2 o) (daAdd (bits (tSc.reg 2) 0 57) d) m = true ∧
         advancesOk { tSc with done := tSc.done + BitVec.ofNat 32 m, elem := BitVec.ofNat 8 2, inElem := some { off := 0, desc := none } } (tCmd 3 1) = true)) := by
  refine ⟨by decide +kernel, by decide +kernel, fun i h => ?_, by decide +kernel⟩
  match i, h with
  | 0, _ => rfl
  | 1, _ => rfl

/-- A CONVERT whose accesses succeed, with the positions of its source. -/
def convB (q : ChProg) (w : Word) (ws : List (Nat × Word)) (l : List (BitVec 4)) : Bool :=
  let s := tCs q ws
  let a : DAddr := bits (q.reg 1) 0 57
  let b : DAddr := bits (q.reg 2) 0 57
  let n1 := (bits w 31 6).toNat + 1
  let n2 := (bits w 25 6).toNat + 1
  let rs := refsOf q 0 permStore .store a n1 s
  let t1 := refsT q 0 permStore .store a n1 s
  let t3 := stateOf (engField 0 q 0 b n2) t1
  atB s 4 q w && q.ending.isNone && advancesOk q w && !bit w 24 && okOf (engRefs 0 q 0 permStore .store a n1) s &&
    okOf (engField 0 q 0 b n2) t1 && resOf (engField 0 q 0 b n2) t1 [] == l && storesB t3 rs &&
    okOf (engWrite 0 0 rs (List.replicate n1 0)) t3 && clearB (stateOf (engWrite 0 0 rs (List.replicate n1 0)) t3)
/-- Mode, len1 - 1 and len2 - 1. -/
def tCv (mode d1 d2 : Nat) (low : Word) : Word := tCmd 4 (at' (BitVec.ofNat 2 mode) 46 ||| at' (BitVec.ofNat 6 d1) 31 ||| at' (BitVec.ofNat 6 d2) 25 ||| low)
def convQ (w : Word) : ChProg := tCw w [(1, tDa 0x2000 10), (2, tDa 0x2900 0)]
def tDots : List (BitVec 4) := [2, 0, 2, 0xD, 3, 1, 2, 0xE, 3, 5, 2, 0]

set_option maxRecDepth 8000 in
/-- R403: " -1.5 " as text, 12 as packed, zoned and refused. -/
theorem witness_ChannelCommandWords_convert :
    (let w := tCv 0 3 11 0
     convB (convQ w) w [(0x2900, (0x202D312E3520 : Word) <<< 24)] tDots = true ∧ bits w 46 2 = 0 ∧
       octetsAt tDots = List.replicate 1 (0x20 : BitVec 8) ++ [0x2D] ++ (([1] : List (BitVec 4)).map fun x => (3 : BitVec 4) ++ x) ++
         ((0x2E : BitVec 8) :: ([5] : List (BitVec 4)).map fun x => (3 : BitVec 4) ++ x) ++ List.replicate 1 0x20 ∧
       (([1, 5] : List (BitVec 4)).all fun x => decide (x.toNat ≤ 9)) = true ∧ tDots.length % 2 = 0) ∧
    (let w := tCv 1 3 2 0
     convB (convQ w) w [(0x2900, (0x12D : Word) <<< 60)] [1, 2, 0xD] = true ∧ bits w 46 2 = 1 ∧ packedB [1, 2, 0xD] = true) ∧
    (let w := tCv 2 3 3 0
     let l : List (BitVec 4) := [3, 1, 0xD, 2]
     convB (convQ w) w [(0x2900, (0x31D2 : Word) <<< 56)] l = true ∧ bits w 46 2 = 2 ∧ l ≠ [] ∧ l.length % 2 = 0 ∧
       ∀ j : Nat, j < 2 → (l.getD (2 * j + 1) 0).toNat ≤ 9 ∧
        (if 2 * j + 2 = l.length then l.getD (2 * j) 0 = 3 ∨ 10 ≤ (l.getD (2 * j) 0).toNat else l.getD (2 * j) 0 = 3 ∨ l.getD (2 * j) 0 = 0xF)) ∧
    (let w := tCv 3 3 2 0
     convB (convQ w) w [(0x2900, (0x12D : Word) <<< 60)] [1, 2, 0xD] = true ∧ bits w 46 2 = 3 ∧ 1 ≤ ((bits w 31 6).toNat + 1) / 2) ∧
    (let w := tCv 3 3 2 0
     convB (convQ w) w [(0x2900, (0x1D2 : Word) <<< 60)] [1, 0xD, 2] = true ∧ packedB [1, 0xD, 2] = false) := by
  refine ⟨by decide +kernel, by decide +kernel, by decide +kernel, by decide +kernel, by decide +kernel⟩

/-- R404: a field in each format named, a ring of no entries, and a range. -/
theorem witness_ChannelCommandWords_validate :
    (let w := at' (5 : BitVec 4) 68 ||| at' (1 : BitVec 4) 64 ||| at' (2 : BitVec 6) 3
     let q := tCw w [(1, tDa 0x2900 16)]
     ∀ good : Bool, let s := tCs q [(0x2900, 0x12), (0x2901, if good then 0xD00000000000000000 else 0)]
       let m := engField 0 q 0 (bits (q.reg 1) 0 57) 3
       atB s 5 q w = true ∧ okOf m s = true ∧ resOf m s [] ≠ [] ∧ (stateOf m s).engines[(0 : EngId)].running = some q ∧ bits q.w6 68 4 = 0 ∧ advancesOk q w = true ∧ clearB (stateOf m s) = true ∧
         (invalid q w (resOf m s [])).isNone = good ∧ bits w 0 3 = 0) ∧
    (let w := at' (5 : BitVec 4) 68 ||| at' (1 : BitVec 4) 64 ||| at' (2 : BitVec 4) 60 ||| at' (3 : BitVec 4) 56 ||| at' (2 : BitVec 6) 3 ||| 5
     let q := tCw w [(1, tDa 0x2900 16), (2, 0x20D), (3, 0x15C)]
     let s := tCs q [(0x2900, 0x12), (0x2901, 0xD00000000000000000)]
     let m := engField 0 q 0 (bits (q.reg 1) 0 57) 3
     atB s 5 q w = true ∧ okOf m s = true ∧ packedB (posList (q.reg (bits w 60 4))) = true ∧ packedB (posList (q.reg (bits w 56 4))) = true ∧ bits w 0 3 = 5) := by
  refine ⟨by decide +kernel, by decide +kernel⟩

def tBp (rej : Word) : Word := at' (6 : BitVec 4) 68 ||| at' (1 : BitVec 4) 64 ||| at' (3 : BitVec 4) 56 ||| rej
def vecM (q : ChProg) (da : DAddr) (k : Nat) (slot : Option Nat) : M (List WordRef) :=
  atSlot 0 (vecRefs { x := .engine 0, pass := q.pass 0, preg := 0 } (permLoad ||| permStore ||| permPost) da k slot)

set_option maxRecDepth 8000 in
/-- R405: a vector of one leg at word 0x2800, and the two cases in which it waits. -/
theorem witness_ChannelCommandWords_post :
    (let w := tBp 1
     let q := tCw w [(1, tDa 0x2800 0), (3, 77)]
     let s := tCs q [(0x2800, 0x12), (0x2803, at' (1 : BitVec 4) 60)]
     let a : DAddr := bits (q.reg 1) 0 57
     let n := (bits w 44 4).toNat + 1
     let t1 := stateOf (vecM q a 3 (some 0)) s
     let t2 := stateOf (vecM q a 3 (some 1)) t1
     let h := resOf (vecM q a 3 (some 2)) t2 []
     let t3 := stateOf (vecM q a 3 (some 2)) t2
     let ls := resOf (vecM q (daAdd a 54) (2 * n) none) t3 []
     let t4 := stateOf (vecM q (daAdd a 54) (2 * n) none) t3
     atB s 6 q w = true ∧ daPos a = 0 ∧ s.engines[(0 : EngId)].posts = [] ∧ okOf (vecM q a 3 (some 0)) s = true ∧ okOf (vecM q a 3 (some 1)) t1 = true ∧
       okOf (vecM q a 3 (some 2)) t2 = true ∧ (t3.cell ((h.map fun r => r.pa).getD 0 0)).bad = false ∧ okOf (vecM q (daAdd a 54) (2 * n) none) t3 = true ∧
       storesB t4 h = true ∧ (ls.all fun r => isLocalMem r.pa && !(t4.cell r.pa).bad) = true ∧ (q.pass 0).grants permDevice = true) ∧
    (let w := tBp 0
     let q := tCw w [(1, tDa 0x2800 0)]
     let x (k : Nat) : Engine := { tRun q with posts := List.replicate k { tPosted 0 with h0 := if k = 1 then bits (tDa 0x2800 0) 0 57 else 0, result := none } }
     atB (tEng (x 1) []) 6 q w = true ∧ atB (tEng (x 4) []) 6 q w = true ∧ daPos (bits (q.reg 1) 0 57) = 0 ∧ (x 4).posts.length = 4 ∧
       ((x 1).posts.any fun y => y.h0 == bits (q.reg 1) 0 57) = true) := by
  refine ⟨by decide +kernel, by decide +kernel⟩

/-- A word of the host window. -/
def tWin (k : Nat) : Word := daReg (daOf (BitVec.ofNat 52 (0x3000000000000 + k)) 0)
def tXw : Word := tCmd 7 (at' (3 : BitVec 4) 56)
def tXq (till : Option (BitVec 64)) : ChProg := { tCw tXw [(1, tWin 0), (2, tWin (2 ^ 40)), (3, tWin (2 ^ 40 + 4))] with exportTo := till }
/-- Aperture 0 packed and aperture 1 padded; a journal of some positions; the role of the side. -/
def tXs (till : Option (BitVec 64)) (role : BitVec 3) (dpos : BitVec 64) : State :=
  let s := tCs (tXq till) []
  let a (b : BitVec 64) (p : Bool) : Aperture := { base := b, ctl := BitVec.ofNat 48 (2 ^ 47 + (if p then 2 ^ 46 else 0) + 2 ^ 45 + 0x1000) }
  { s with ws := { s.ws with role := role }, led := { s.led with dpos := dpos, xpos := 3 }, applied := { s.applied with jnRingBase := 0x9000, jnRingLog2 := 0 },
           hi := { s.hi with apts := (s.hi.apts.set 0 (a 0x10000 false)).set 1 (a 0x90000 true) } }

set_option maxRecDepth 8000 in
/-- R406: the first part of an export on a follower; a leader's batches, of two words and of none, that complete or leave more to do. -/
theorem witness_ChannelCommandWords_export :
    (let s := tXs none 2 5
     atB s 7 (tXq none) tXw = true ∧ s.leads = false ∧ okOf (exportTests 0 (tXq none) tXw 0) s = true ∧
       (List.finRange 24).all (fun f => f == 0 || s.engines[f].running.isNone) = true) ∧
    atB (tXs (some 5) 2 5) 7 (tXq (some 5)) tXw = true ∧ (tXs (some 5) 2 5).leads = false ∧
    (∀ z : Bool, let d : BitVec 64 := if z then 5 else 6
      let s := tXs (some d) 1 5
      let m := exportBatch 0 (tXq (some d)) tXw 0 2
      atB s 7 (tXq (some d)) tXw = true ∧ s.leads = true ∧ min (s.led.dpos.toNat - s.led.xpos.toNat) 4096 = 2 ∧ okOf m s = true ∧ advancesOk (tXq (some d)) tXw = true ∧
        (clearB (stateOf m s) = true ∨ (stateOf m s).engines[(0 : EngId)].windows ≠ [] ∧ (stateOf m s).engines[(0 : EngId)].failed = none) ∧
        (stateOf m s).engines[(0 : EngId)].running = some (tXq (some d)) ∧ decide (d.toNat ≤ s.led.xpos.toNat + 2) = z) ∧
    (let w := tXw ||| 1
     let q := { tXq (some 3) with ccw := some w }
     let s := { tXs (some 3) 3 3 with engines := (tXs (some 3) 3 3).engines.set (0 : EngId) (tRun q) }
     atB s 7 q w = true ∧ s.leads = true ∧ min (s.led.dpos.toNat - s.led.xpos.toNat) 4096 = 0 ∧ bit w 0 = true) := by
  refine ⟨by decide +kernel, by decide +kernel, by decide +kernel, by decide +kernel, by decide +kernel⟩

/-- R407, R408: credits that are there, missing, and missing with the wait begun; the commands that end at once. -/
theorem witness_ChannelCommandWords_control :
    (∀ k : Fin 3, let w : Word := at' (8 : BitVec 4) 68 ||| at' (2 : BitVec 2) 46 ||| at' (5 : BitVec 16) 30 ||| at' (1 : BitVec 12) 18
      let q := { tCw w [] with waitFrom := if k = 2 then some 9 else none }
      let s := tEng { tRun q with credit := (tRun q).credit.set 2 (if k = 0 then 5 else 4) } []
      atB s 8 q w = true ∧ decide ((bits w 30 16).toNat ≤ s.engines[(0 : EngId)].credit[(bits w 46 2).toFin].toNat) = decide (k = 0) ∧
        decide (q.waitFrom = none) = decide (k ≠ 2)) ∧
    (∀ k : Fin 3, let w : Word := at' (BitVec.ofNat 4 (9 + k.val)) 68 ||| at' (3 : BitVec 24) 0
      atB (tCs (tCw w []) []) (9 + k.val) (tCw w []) w = true) := by
  refine ⟨by decide +kernel, by decide +kernel⟩

/-! ## Starts and settings -/

def tOff : State := { State.reset with brd := { Board.reset with powered := false, mainOk := true, stbyOk := true } }
/-- A module with power at a PHASE of its start. -/
def tPh (phase : BitVec 3) : State := { tSt Core.reset with sr := { StartBlk.reset with phase := phase } }
def freshB (s : State) (k : Nat) : Bool := bits (s.data (policyAddr k)) 59 3 != 1 && bits (s.data (policyAddr k)) 59 3 != 3
/-- Boot waits for GO with an image of so many words for an offset; cores below `n` are fenced. -/
def tBoot (d k n : Nat) : State :=
  { tPh 4 with
    sr := { (tPh 4).sr with bootDest := BitVec.ofNat 24 d, bootWords := BitVec.ofNat 24 k, bootHost := 0x1000, bootTry := 0, bootMethod := 1, resume := 22 }
    cores := Vector.ofFn fun (m : CoreId) => { Core.reset with run := if m.val < n then 4 else 1 }
    applied := { (tPh 4).applied with jnRingBase := 0x100000 } }
def tCold : StartEnv := { tEnv with measured := [] }
/-- A channel as it stands, and a time. -/
def tCh (c : Chan) (now : BitVec 64) : State :=
  { tSt Core.reset with now := now, sr := { StartBlk.reset with chans := StartBlk.reset.chans.set 5 c } }

set_option maxRecDepth 8000 in
/-- R467, R473, R474: a module without power, one trip of which the inputs have ended, and every PHASE in which a start begins or is refused; S01 without
hold-up energy. -/
theorem witness_StartsRunTheirSteps_begin :
    (tOff.brd.powered = false ∧ tOff.brd.latched = false ∧ tOff.freshStep 1 ∧ (bits (stepVal tCold.measured 1 0) 0 16).toNat < 10000) ∧
    (let s := { tOff with brd := { tOff.brd with latched := true, mainOk := false, stbyOk := false } }
     s.brd.powered = false ∧ s.brd.latched = true ∧ s.brd.mainOk = false ∧ s.brd.stbyOk = false) ∧
    ((tPh 5).brd.powered = true ∧ (tPh 5).sr.phase ≠ 0 ∧ (tPh 5).sr.phase ≠ 2 ∧ (tPh 5).sr.phase ≠ 3 ∧ (tPh 5).sr.phase ≠ 4 ∧ (tPh 5).freshStep 1) ∧
    (∀ k : Fin 2, let s := { tMem [(0xFF0005, BitVec.ofNat 72 (2 + k.val))] (tPh 2) with sr := { (tPh 2).sr with failedAt := some 7 }, now := 10000007 }
     s.sr.failedAt = some 7 ∧ s.brd.powered = true ∧ s.sr.phase = 2 ∧ (decide (s.failSeq.toNat < 3) = (k == 0)) ∧
       (7 : BitVec 64).toNat + 10000000 ≤ s.now.toNat) ∧
    (let s := { tPh 3 with sr := { (tPh 3).sr with resume := 24 } }
     s.brd.powered = true ∧ s.sr.phase = 3 ∧ s.sr.resume = 24 ∧ stepVal tEnv.fails 24 0 = 0) ∧ (tPh 0).sr.phase = 0 := by
  unfold State.freshStep
  refine ⟨by decide +kernel, by decide +kernel, by decide +kernel, by decide +kernel, by decide +kernel, by decide +kernel⟩

/-- R483: an image of one word at offset 0, and one that ends at the start journal's region, for core 0 and for core 2. -/
theorem witness_StartsRunTheirSteps_boot : ∀ b : Bool, let k := if b then 1 else 256
    let d := if b then 0 else 0xFF0000 - 256
    let n : CoreId := if b then 0 else 2
    let s := tBoot d k n.val
    s.brd.powered = true ∧ s.sr.phase = 4 ∧ s.sr.bootDest.toNat = d ∧ s.sr.bootWords.toNat = k ∧ d + k ≤ 0xFF0000 ∧
      s.applied.regions.all (fun r => decide (d + k ≤ r.2.1 ∨ r.2.1 + r.2.2 ≤ d)) = true ∧ freshB s 23 = true ∧ freshB s 24 = true ∧
      s.cores[n].run ≠ 4 ∧ (List.finRange 48).all (fun m => decide (n ≤ m) || s.cores[m].run == 4) = true ∧ stepVal tEnv.fails 22 0 = 0 ∧ stepVal tEnv.fails 23 0 = 0 ∧
      stepVal tEnv.fails 24 0 = 0 := by decide +kernel

/-- R470, R480: JN_APOS's record taken and not; channels with and without a scheduled retrain, stored long ago, lately and never; sense-delay taps. -/
theorem witness_StartsRunTheirSteps_channels :
    (let s := { tPh 5 with sr := { (tPh 5).sr with hostServed := true }, applied := { (tPh 5).applied with peCellCount := 64 } }
     s.brd.powered = true ∧ s.applied.peCellCount ≠ 0 ∧ s.sr.hostServed = true) ∧
    (let c : Chan := StartBlk.reset.chans[(5 : Fin 64)]
     (tCh c 0).brd.powered = true ∧ c.retrain = false ∧
     ∀ b : Bool, let s := tCh { c with retrain := true, stored := some (if b then 0 else 1) } 1000000000
       s.brd.powered = true ∧ s.sr.chans[(5 : Fin 64)].retrain = true ∧
         (s.sr.chans[(5 : Fin 64)].stored.all fun t0 => decide (t0.toNat + 1000000000 ≤ s.now.toNat)) = b) ∧
    (∀ b : Bool, let s := { tPh 5 with now := if b then 1000 else 999 }
     s.brd.powered = true ∧ decide (s.sr.lastTap.toNat + 1000 ≤ s.now.toNat) = b) := by
  refine ⟨by decide +kernel, by decide +kernel, by decide +kernel⟩

/-- Staged settings, and STATE, GEN and a pair's instant. -/
def tStage (x : Settings) (state : BitVec 4) (pair : Option (BitVec 64 × Option JobId)) (now : BitVec 64) : State :=
  { tSt Core.reset with staged := x, now := now, sr := { StartBlk.reset with stState := state, stGen := 4, pairApply := pair } }
/-- Settings at the ends of their ranges: the largest ring below the start journal, a dimension of 8 with its express link, a vale of one head. -/
def tSet : Settings :=
  { Settings.reset with
    peCellBase := 0x100, peCellCount := 64, peRuleBase := 0x204, peRuleCount := 1, peFilterBase := 0x100000, jnRingBase := 0x400000, jnRingLog2 := 22,
    wsWtable := 0x1000, lbDim := 0x732, lbPair := 0x732, lbCtl := 1,
    lbVale := Settings.reset.lbVale.set 3 (BitVec.ofNat 36 (2 ^ 35 + 0x77 * 2 ^ 27 + 0x03 * 2 ^ 19 + 0x22 * 2 ^ 11)), lbHead := Settings.reset.lbHead.set 3 0x702 }

set_option maxRecDepth 8000 in
/-- R486: settings that keep every rule, and one that breaks each kind of rule: outside, overlap, alignment, count, reserved bits, express, pair, vale. -/
theorem witness_SettingsAreStaged_sound : tSet.sound ∧ (tStage tSet 0 none 0).liveOk ∧ Settings.reset.sound ∧
    ∀ x ∈ [{ tSet with peCellBase := 0xFF0000 }, { tSet with peRuleBase := 0x100 }, { tSet with wsWtable := 0x1001 },
        { tSet with peCellCount := 63 }, { tSet with jnRingLog2 := 15 }, { tSet with jnCtl := 0x80 }, { tSet with lbDim := 0x732, lbCtl := 2 },
        { tSet with lbPair := 0x733 }, { tSet with lbHead := tSet.lbHead.set 3 0x703 }],
      ¬x.sound := by
  unfold State.liveOk Settings.sound
  refine ⟨by decide +kernel, by decide +kernel, by decide +kernel, ?_⟩
  simp only [List.forall_mem_cons]
  refine ⟨by decide +kernel, by decide +kernel, by decide +kernel, by decide +kernel, by decide +kernel, by decide +kernel, by decide +kernel, by decide +kernel, by decide +kernel, fun _ h => nomatch h⟩

/-- R486-R488: BUSY; each ground on which APPLY is refused and none; a pair's instant before, at and after its time, and none. -/
theorem witness_SettingsAreStaged_apply :
    (tStage tSet 3 none 0).sr.stState = 3 ∧ (tStage tSet 2 none 0).sr.stState = 2 ∧ (tStage tSet 2 none 0).sr.stGen = 4 ∧
    ((tStage tSet 2 none 0).liveOk ∧ ¬({ tStage tSet 2 none 0 with ws := { Watershed.reset with role := 2 } } : State).liveOk) ∧
    (∀ b : Bool, let s := tStage tSet 3 (some (9, none)) (if b then 9 else 8)
      s.sr.pairApply = some (9, none) ∧ decide ((9 : BitVec 64).toNat ≤ s.now.toNat) = b ∧ s.liveFindings true = []) := by
  unfold State.liveOk
  refine ⟨by decide +kernel, by decide +kernel, by decide +kernel, ⟨by dsimp only; decide +kernel, by dsimp only; decide +kernel⟩, by decide +kernel⟩

/-! ## Unit jobs -/

def tUJob (o : JobOrigin) (opc : BitVec 8) (low s1 s2 : Word) : Job := { tWJob opc s1 s2 with origin := o, s0 := at' opc 64 ||| low }
/-- A module with power and one job. -/
def tUs (x : Job) (f : State → State) : State := f { tSt Core.reset with hi := { HostIf.reset with jobs := [x] } }
def unitB (s : State) (x : Job) (opc : Nat) (pl : Place) : Bool :=
  invB s && s.jobFor 0 opc == some x && !x.started && s.authority x == none && (match s.place x with
  | .inl p => p == pl
  | .inr _ => false) && (jobDepths opc).contains x.actDepth && x.paramsClean (s.isPart x)
theorem unit_of {s : State} {x : Job} {opc : Nat} {pl : Place} (h : unitB s x opc pl = true) : s.unitJobAt 0 opc x pl := by
  simp only [unitB, Bool.and_eq_true, beq_iff_eq, Bool.not_eq_true', List.contains_iff_mem] at h
  obtain ⟨⟨⟨⟨⟨⟨-, h1⟩, h2⟩, h3⟩, h4⟩, h5⟩, h6⟩ := h
  refine ⟨h1, h2, h3, ?_, h5, h6⟩
  cases hp : s.place x with
  | inl p => rw [hp] at h4; simp only [beq_iff_eq] at h4; rw [h4]
  | inr c => rw [hp] at h4; cases h4
/-- A job from a slot of a unit at DEPTH 0. -/
def tOwnJob (u : UnitId) (opc : BitVec 8) (s1 s2 : Word) : Job := tUJob (.slot u 0) opc 0 s1 s2
def tRuns (r : BitVec 4) (s : State) : State := { s with cores := s.cores.set 5 { Core.reset with run := r } }

/-- R489, R491: a free slot with a job to submit, and a busy one. -/
theorem witness_UnitJobsActOnTheirUnits_go : ∀ b : Bool, let z : JobSlot := { UnitBlock.reset.slots[(3 : Fin 8)] with s0 := at' (0x40 : BitVec 8) 64, busy := b }
    let s := { tSt tCore with sr := { StartBlk.reset with modBlk := { UnitBlock.reset with slots := UnitBlock.reset.slots.set 3 z } } }
    s.runs 0 {} = true ∧ (s.atDevice 0).cores[(0 : CoreId)].det = false ∧ ((s.atDevice 0).block .module).slots[(3 : Fin 8)].busy = b ∧
      0x40 ≤ (bits z.s0 64 8).toNat ∧ entryStatus z.s0 z.s1 z.s2 z.s3 = none := by decide +kernel

/-- R430, R491: a path of each depth; a job without authority, with no unit, at the wrong depth, with a stray parameter and for another pair. -/
theorem witness_UnitJobsActOnTheirUnits_path :
    (∀ k : Fin 3, let x := tUJob (.slot .module 0) 0x40 (at' (BitVec.ofNat 3 (2 + k.val)) 37 ||| at' (BitVec.ofNat 4 (if k = 0 then 0 else 11)) 20 |||
        at' (BitVec.ofNat 2 (if k = 2 then 3 else 0)) 18 ||| flagAt true 24) 0 0
      let s := tUs x id
      x.pathClean = true ∧ x.pair = s.applied.lbPair ∧ s.pairInDim x.pair = true ∧ x.side = s.ws.side ∧ x.depth = 2 + k.val ∧
        (k ≠ 0 → x.quad = 11) ∧ (k = 2 → x.core = 3)) ∧
    (let x := tUJob (.qp 0) 0x40 0 0 0
     (tUs x id).jobFor 0 0x40 = some x ∧ x.started = false ∧ (tUs x id).authority x = some 1) ∧
    (let x := tUJob (.slot .module 0) 0x40 (at' (3 : BitVec 3) 37 ||| at' (12 : BitVec 4) 20) 0 0
     (tUs x id).jobFor 0 0x40 = some x ∧ (tUs x id).authority x = none ∧ (tUs x id).place x = .inr 0x80) ∧
    (let x := tOwnJob .module 0x41 0 0
     (tUs x id).jobFor 0 0x41 = some x ∧ (tUs x id).authority x = none ∧ (tUs x id).place x = .inl (.unit .module) ∧ x.actDepth ∉ jobDepths 0x41) ∧
    (let x := tOwnJob .module 0x46 1 0
     (tUs x id).jobFor 0 0x46 = some x ∧ (tUs x id).authority x = none ∧ x.actDepth ∈ jobDepths 0x46 ∧ x.paramsClean ((tUs x id).isPart x) = false) ∧
    (let x := tUJob (.slot .module 0) 0x40 (at' (1 : BitVec 3) 37 ||| at' (1 : BitVec 12) 25) 0 0
     unitB (tUs x fun s => { s with applied := { s.applied with lbDim := 1 } }) x 0x40 (.remote 1) = true) := by
  refine ⟨by decide +kernel, by decide +kernel, by decide +kernel, by decide +kernel, by decide +kernel, by decide +kernel⟩

set_option maxRecDepth 8000 in
/-- R484, R491: START, STOP and FENCE of core 5 and of its quad, in every state that decides their answer. -/
theorem witness_UnitJobsActOnTheirUnits_cores :
    (∀ o : Fin 3, let x := tOwnJob (.core 5) 0x41 (daReg (daOf (plainAddr 0x1000) (if o = 0 then 0 else if o = 1 then 9 else 8))) 0
      ∀ r ∈ [1, 2, 3, 4], unitB (tUs x (tRuns (BitVec.ofNat 4 r))) x 0x41 (.unit (.core 5)) = true ∧ bits x.s1 57 15 = 0 ∧
        (decide (daPos (bits x.s1 0 57) = 0 ∨ daPos (bits x.s1 0 57) = 9) = decide (o ≠ 2)) ∧
        (tUs x (tRuns (BitVec.ofNat 4 r))).cores[(5 : CoreId)].run = BitVec.ofNat 4 r ∧ (tUs x (tRuns (BitVec.ofNat 4 r))).quads[quadOf 5].fenced = false) ∧
    (let x := tOwnJob (.core 5) 0x42 0 0
     ∀ r ∈ [2, 3, 4], let s := tUs x (tRuns (BitVec.ofNat 4 r))
       unitB s x 0x42 (.unit (.core 5)) = true ∧ s.cores[(5 : CoreId)].run = BitVec.ofNat 4 r ∧ s.cores[(5 : CoreId)].wait = none ∧
         s.cores[(5 : CoreId)].arrived = [] ∧ s.cores[(5 : CoreId)].posts = []) ∧
    (let x := tOwnJob (.core 5) 0x42 0 0
     let s := tUs x fun s => { s with cores := s.cores.set 5 { Core.reset with run := 2, wait := some 0 } }
     unitB s x 0x42 (.unit (.core 5)) = true ∧ s.cores[(5 : CoreId)].run = 2 ∧ s.cores[(5 : CoreId)].wait ≠ none) ∧
    (let x := tOwnJob (.core 5) 0x43 0 0
     unitB (tUs x (tRuns 2)) x 0x43 (.unit (.core 5)) = true) ∧
    (let x := tOwnJob (.quad 1) 0x43 0 0
     unitB (tUs x (tRuns 2)) x 0x43 (.unit (.quad 1)) = true) ∧
    (let x := tOwnJob (.quad 1) 0x41 (daReg (daOf (plainAddr 0x1000) 9)) 0
     let s := tUs x (tRuns 2)
     unitB s x 0x41 (.unit (.quad 1)) = true ∧ quadOf 4 = 1 ∧ s.cores[(4 : CoreId)].run ≠ 2 ∧ s.quads[(1 : QuadId)].fenced = false ∧
       (List.finRange 48).all (fun n => quadOf n != 1 || s.cores[n].run != 4) = true) := by
  refine ⟨by decide +kernel, by decide +kernel, by decide +kernel, by decide +kernel, by decide +kernel, by decide +kernel⟩

def tStaged (state : BitVec 4) (y : Settings) (s : State) : State := { s with staged := y, sr := { s.sr with stState := state, stGen := 4 } }

set_option maxRecDepth 8000 in
/-- R472, R475, R481, R486-R488, R491: the jobs of a module. -/
theorem witness_UnitJobsActOnTheirUnits_module :
    (∀ u : Fin 3, let v : UnitId := if u = 0 then .module else if u = 1 then .quad 11 else .core 47
      let x := tOwnJob v 0x40 0 0
      unitB (tUs x id) x 0x40 (.unit v) = true) ∧
    (let x := tUJob (.slot .module 0) 0x40 (at' (1 : BitVec 3) 37) 0 0
     let s := tUs x fun s => { s with ws := { s.ws with role := 3 } }
     unitB s x 0x40 .pair = true ∧ s.leads = true) ∧
    (∀ p ∈ [(1, 1), (24, 3), (0, 1), (25, 1), (1, 2)], let x := tOwnJob .module 0x44 (BitVec.ofNat 72 p.1) (at' (BitVec.ofNat 2 p.2) 70)
      unitB (tUs x id) x 0x44 (.unit .module) = true ∧
        decide (1 ≤ p.1 ∧ p.1 ≤ 24 ∧ ¬(bits x.s2 70 2 = 2 ∧ halts p.1 = true)) = decide (p = (1, 1) ∨ p = (24, 3))) ∧
    (let x := tOwnJob .module 0x45 0 0
     unitB (tUs x id) x 0x45 (.unit .module) = true ∧ x.origin = .slot .module 0) ∧
    (∀ b : Bool, let st : BitVec 4 := if b then 3 else 2
      (∀ c : Fin 2, let x := tOwnJob .module (if c = 0 then 0x46 else 0x48) 0 0
        unitB (tUs x (tStaged st tSet)) x (if c = 0 then 0x46 else 0x48) (.unit .module) = true ∧ (tUs x (tStaged st tSet)).sr.stState = st) ∧
      ∀ g : Fin 2, let x := tOwnJob .module 0x47 (BitVec.ofNat 72 (4 + g.val)) 0
        let s := tUs x (tStaged st tSet)
        unitB s x 0x47 (.unit .module) = true ∧ s.sr.stState = st ∧ decide (bits x.s1 0 48 = s.sr.stGen) = decide (g = 0)) ∧
    (let x := tUJob (.slot .module 0) 0x47 (at' (1 : BitVec 3) 37) 4 0
     let s := tUs x fun s => { tStaged 2 tSet s with ws := { s.ws with role := 1, contact := true } }
     let w : TwinStage := { gen := 4, checked := true, sdigest := s.sr.stSdigest }
     unitB s x 0x47 .pair = true ∧ s.leads = true ∧ s.isPart x = false ∧ s.ws.contact = true ∧ s.sr.stState = 2 ∧ bits x.s1 0 48 = s.sr.stGen ∧
       s.liveFindings true = [] ∧ w.gen = s.sr.stGen ∧ w.checked = true ∧ w.sdigest = s.sr.stSdigest) ∧
    (let x := tOwnJob .module 0x49 15 0
     unitB (tUs x id) x 0x49 (.unit .module) = true) ∧
    (∀ u : Fin 2, let v : UnitId := if u = 0 then .module else .quad 0
      let x := tOwnJob v 0x4B 0 0
      unitB (tUs x id) x 0x4B (.unit v) = true) := by
  refine ⟨by decide +kernel, by decide +kernel, by decide +kernel, by decide +kernel, by decide +kernel, by decide +kernel, by decide +kernel, by decide +kernel⟩

/-- R487: CHECKED settings that have since broken a rule against the live state. -/
theorem witness_UnitJobsActOnTheirUnits_live : let x := tOwnJob .module 0x47 4 0
    let s := tUs x fun s => { tStaged 2 tSet s with ws := { s.ws with role := 2 } }
    unitB s x 0x47 (.unit .module) = true ∧ bits x.s1 0 48 = s.sr.stGen ∧ s.sr.stState = 2 ∧ (s.liveFindings false).isEmpty = false := by decide +kernel

/-- R478: the module's serial and an idle ledger, and a ledger that its role keeps. -/
theorem witness_UnitJobsActOnTheirUnits_ledger : ∀ b : Bool, let x := tOwnJob .module 0x4A (Config.serial.setWidth 72) 0
    let s := tUs x fun s => { s with ws := { s.ws with role := if b then 4 else 1 } }
    (s.jobFor 0 0x4A).isSome = true ∧ s.place x = .inl (.unit .module) ∧ x.actDepth ∈ jobDepths 0x4A ∧ bit s.applied.peCtl 0 = false ∧
      decide (s.ws.role = 0 ∨ s.ws.role = 4) = b := by
  decide +kernel

/-! ## The host interface -/

/-- A module that serves its host, whose queue pair 3 is `p`, with watched words and words of host memory. -/
def tHost (p : Qp) (w : List WatchEnt) (ws : List (Nat × Word)) : State :=
  let s := ws.foldl (fun s x => s.putHostPadded x.1 x.2) (tSt tCore)
  { s with now := 5000, sr := { s.sr with hostServed := true, pcieServed := true },
           hi := { s.hi with qps := s.hi.qps.set 3 p, bindBase := plainAddr 0x8000, watch := w } }
/-- A pair of a state, with its rings and doorbells in host memory; `ctl` adds to the register's reset value. -/
def tQp (state : BitVec 4) (ctl : BitVec 32) : Qp :=
  { Qp.reset with state := state, ctl := Qp.reset.ctl ||| ctl, sqBase := 0x10000, cqBase := 0x20000, sqDb := 0x3000, cqDb := 0x3010 }
def tW (w : Watched) (due : BitVec 64) (fly : Bool) : WatchEnt :=
  { word := w, addr := 0x3000, ival := 100, due := due, inFlight := fly, last := 0 }
def tBound (b : Bool) (s : State) : State := s.putWord (plainAddr 0x8030) (if b then at' (1 : BitVec 1) 71 else 0)
/-- Whether a binding is in force for pair 3; the doorbells' words. -/
def bindB (s : State) : Bool :=
  let a : WAddr := s.hi.bindBase + BitVec.ofNat 52 48
  s.hi.bindBase != 0 && rangeInMem a 11 && !s.anyBad a 11 && bit (s.data a) 71
def zeroB (s : State) : Bool := s.hostPadded s.hi.qps[(3 : QpId)].sqDb.toNat == 0 && s.hostPadded s.hi.qps[(3 : QpId)].cqDb.toNat == 0

set_option maxRecDepth 8000 in
/-- R427-R429, R442: a pair that is enabled, and each ground on which it fails instead; pairs that are disabled. -/
theorem witness_QueuePairsServeTheHost_enable :
    (∀ k : Fin 4, let s := tBound (k ≠ 0) (tHost (tQp 0 0) [] (if k = 2 then [(0x3000, 1)] else []))
      let s := { s with hi := { s.hi with fnOff := if k = 1 then 1 else 0 } }
      s.brd.powered = true ∧ s.sr.hostServed = true ∧ invB s = true ∧ s.hi.qps[(3 : QpId)].state = 0 ∧ bit s.hi.qps[(3 : QpId)].ctl 31 = false ∧
        bindB s = decide (k ≠ 0) ∧ bit s.hi.fnOff (bits s.hi.qps[(3 : QpId)].ctl 24 5).toNat = decide (k = 1) ∧ zeroB s = decide (k ≠ 2) ∧ s.qpJobs 3 = []) ∧
    (∀ r ∈ [1, 2], let s := tHost (tQp (BitVec.ofNat 4 r) 0x80000000) [] []
      s.brd.powered = true ∧ s.sr.hostServed = true ∧ s.hi.qps[(3 : QpId)].state = BitVec.ofNat 4 r ∧ bit s.hi.qps[(3 : QpId)].ctl 31 = true) ∧
    State.reset.brd.powered = false := by
  refine ⟨by decide +kernel, by decide +kernel, by decide +kernel⟩

def tLate : List WatchEnt := List.replicate 63 { tW (.cq 9) 0 true with word := .cq 9 }
def aheadOf (s : State) (x : WatchEnt) : Nat :=
  (s.hi.watch.filter fun y => y.inFlight).length + (s.hi.watch.filter fun y => !y.inFlight && decide (y.due.toNat < x.due.toNat)).length

set_option maxRecDepth 8000 in
/-- R432: a word due and the 64th read in flight; in time and late; one in flight and one not due; none. -/
theorem witness_QueuePairsServeTheHost_poll :
    (∀ k : Fin 4, let x := tW (.sq 3) (if k = 0 then 5000 else if k = 1 then 3999 else if k = 2 then 5001 else 0) (decide (k = 3))
      let s := tHost (tQp 1 0) (tLate ++ [x]) []
      s.hi.watch.find? (fun y => y.word == .sq 3) = some x ∧ x.inFlight = decide (k = 3) ∧ decide (x.due.toNat ≤ s.now.toNat) = decide (k ≠ 2) ∧
        (k = 0 → aheadOf s x = 63) ∧ bit s.hi.fnOff (s.watchFn x) = false ∧ decide (x.due.toNat + 1000 < s.now.toNat) = (k == 1 || k == 3)) ∧
    ((tHost (tQp 1 0) [] []).hi.watch.find? (fun y => y.word == .sq 3) = none) := by
  refine ⟨by decide +kernel, by decide +kernel⟩

set_option maxRecDepth 8000 in
/-- R431, R441: counts at the ends of their ranges and past them, for a pair without credits, one with them, and a completion head. -/
theorem witness_QueuePairsServeTheHost_read :
    (∀ k : Fin 4, let n : Nat := if k = 0 then 4 else if k = 1 then 20 else if k = 2 then 3 else 21
      let s := tHost { tQp 1 0 with sqh := 4 } [tW (.sq 3) 0 true] [(0x3000, BitVec.ofNat 72 n)]
      let p := s.hi.qps[(3 : QpId)]
      s.hi.watch.find? (fun y => y.word == .sq 3 && y.inFlight) = some (tW (.sq 3) 0 true) ∧ (bits (s.hostPadded 0x3000) 0 64).toNat = n ∧ p.state = 1 ∧
        bits p.ctl 29 2 ≠ 1 ∧ 2 ^ max 4 (bits p.ctl 20 4).toNat = 16 ∧ decide (p.sqh.toNat ≤ n ∧ n ≤ p.sqh.toNat + 16) = decide (k = 0 ∨ k = 1)) ∧
    (∀ k : Fin 4, let n : Nat := if k = 0 then 5 else if k = 1 then 4 + (2 ^ 32 - 1) else if k = 2 then 3 else 4 + 2 ^ 32
      let s := tHost { tQp 1 (0x20000000 ||| BitVec.ofNat 32 (23 * 2 ^ 11 + 3 * 2 ^ 9)) with sqt := 4 } [tW (.sq 3) 0 true] [(0x3000, BitVec.ofNat 72 n)]
      let p := s.hi.qps[(3 : QpId)]
      s.hi.watch.find? (fun y => y.word == .sq 3 && y.inFlight) = some (tW (.sq 3) 0 true) ∧ (bits (s.hostPadded 0x3000) 0 64).toNat = n ∧ p.state = 1 ∧
        bits p.ctl 29 2 = 1 ∧ (bits p.ctl 11 5).toNat = 23 ∧ (bits p.ctl 9 2).toNat = 3 ∧
        decide (p.sqt.toNat < n ∧ n < p.sqt.toNat + 2 ^ 32) = decide (k = 0 ∨ k = 1)) ∧
    (∀ k : Fin 4, let n : Nat := if k = 0 then 4 else if k = 1 then 9 else if k = 2 then 3 else 10
      let s := tHost { tQp 1 0 with cqh := 4, cqt := 9 } [tW (.cq 3) 0 true] [(0x3000, BitVec.ofNat 72 n)]
      let p := s.hi.qps[(3 : QpId)]
      s.hi.watch.find? (fun y => y.word == .cq 3 && y.inFlight) = some (tW (.cq 3) 0 true) ∧ (bits (s.hostPadded 0x3000) 0 64).toNat = n ∧ p.state = 1 ∧
        decide (p.cqh.toNat ≤ n ∧ n ≤ p.cqt.toNat) = decide (k = 0 ∨ k = 1)) := by
  refine ⟨by decide +kernel, by decide +kernel, by decide +kernel⟩

/-- R200: an acknowledgement of every exported word, of none more, past them, and with bits 71:64 set. -/
theorem witness_QueuePairsServeTheHost_ack : ∀ k : Fin 4, let v : Word := if k = 0 then 6 else if k = 1 then 2 else if k = 2 then 7 else at' (1 : BitVec 8) 64 ||| 6
    let x := tW (.ack 0) 0 (decide (k = 0))
    let s := tHost (tQp 1 0) [tW (.cq 3) 0 true, x] [(0x3000, v)]
    let s := { s with led := { s.led with apos := 2, xpos := 6, wpos := 6 } }
    let n := (bits (s.hostPadded 0x3000) 0 64).toNat
    s.led.decisions = [] ∧ s.hi.watch = [tW (.cq 3) 0 true] ++ x :: [] ∧ (x.inFlight = true ∨ x.due.toNat ≤ s.now.toNat) ∧
      decide (bits (s.hostPadded 0x3000) 64 8 = 0 ∧ s.led.apos.toNat ≤ n ∧ n ≤ s.led.xpos.toNat ∧ (n = s.led.apos.toNat ∨ s.recordStart n = true)) =
        decide (k = 0 ∨ k = 1) := by decide +kernel

def takesB (s : State) : Bool :=
  let p := s.hi.qps[(3 : QpId)]
  invB s && bits p.ctl 29 2 != 1 && p.state == 1 && decide ((s.qpJobs 3).length < 16) && decide (s.hi.jobs.length < 256) &&
    decide ((s.qpJobs 3).length + (p.cqt.toNat - p.cqh.toNat) < 2 ^ max 4 (bits p.ctl 16 4).toNat) && decide (p.sqh.toNat < p.sqt.toNat) &&
    !bit s.hi.fnOff (bits p.ctl 24 5).toNat
def tCompl : Completion := { job := 4, post := false, cid := 7, status := 0, detail := 0, result := 9 }

set_option maxRecDepth 8000 in
/-- R434, R435, R442: an entry that is taken, with a job and with an unassigned type, and none to take; a completion with room in its ring and without. -/
theorem witness_QueuePairsServeTheHost_rings :
    (∀ k : Fin 3, let s := tHost { tQp 1 0 with sqt := if k = 2 then 0 else 1, cqt := 15 } [] [(0x10000, at' (if k = 1 then 0xFF else 0 : BitVec 8) 64)]
      takesB s = decide (k ≠ 2) ∧ (let h (j : Nat) : Word := s.hostPadded (0x10000 + 16 * j)
        (entryStatus (h 0) (h 1) (h 2) (h 3)).isSome = decide (k = 1)) ∧ s.hi.jobs = []) ∧
    (∀ b : Bool, let p := { tQp 1 0 with waiting := [tCompl], cqt := if b then 15 else 16 }
      let s := tHost p [] []
      p.state = 1 ∧ p.err ≠ 6 ∧ p.waiting.find? (s.mayWrite 3) = some tCompl ∧
        decide (p.cqt.toNat - p.cqh.toNat < 2 ^ max 4 (bits p.ctl 16 4).toNat) = b ∧ bit s.hi.fnOff (bits p.ctl 24 5).toNat = false) ∧
    ((0x1234 : BitVec 16) &&& 0x0FFF ≠ (tHost Qp.reset [] []).hi.link ∧
      ((tHost Qp.reset [] []).hi.link ||| 0xF000) &&& 0x0FFF = (tHost Qp.reset [] []).hi.link) := by
  refine ⟨by decide +kernel, by decide +kernel, by decide +kernel⟩

def tBind : Binding := { space := 0, troot := 0, dpass := .rootP15, ppass := .rootP15, cpass := .rootP15, apass := .rootP15, vstage := plainAddr 0x6000 }
/-- A module that serves its host with one job, its queue pair 3 bound or not; words of the Plain. -/
def tJs (x : Job) (b : Option Binding) (ws : List (Nat × Word)) : State :=
  let s := tMem ws (tHost { tQp 1 0 with bind := b } [] [])
  { s with hi := { s.hi with jobs := [x] } }
def tHJob (opc : BitVec 8) (low s1 s2 s3 : Word) : Job := { tWJob opc s1 s2 with origin := .qp 3, s0 := at' opc 64 ||| low, s3 := s3 }
def readyB (s : State) (x : Job) (opc : Nat) (b : Option Binding) : Bool := invB s && s.jobFor 0 opc == some x && s.binding x == b

/-- R434: a vector in the module and one staged from the host; a pair without a binding. -/
theorem witness_HostJobsAndRegisters_post : ∀ commit hv : Bool,
    let x := tHJob (if commit then 2 else 1) (flagAt hv 47) (if hv then 0x40000 else (plainAddr 0x2800).setWidth 72) 0 0
    let s := tJs x (some tBind) [(0x2800, at' (1 : BitVec 4) 68), (0x2801, at' (1 : BitVec 4) 68)]
    let s := (s.putHostPadded 0x40000 (at' (1 : BitVec 4) 68)).putHostPadded 0x40010 (at' (1 : BitVec 4) 68)
    let m := stageVector tBind commit (bits x.s1 0 64).toNat
    let t0 := if hv then stateOf m s else s
    let da : DAddr := daOf (if hv then tBind.vstage else bits x.s1 0 52) 0
    let rd : Reader := { x := .job tBind.space tBind.troot, pass := tBind.ppass, preg := 0 }
    readyB s x (if commit then 2 else 1) (some tBind) = true ∧ x.ticket = none ∧ (hv = true → bits x.s1 0 4 = 0 ∧ okOf m s = true) ∧
      okOf (if commit then readBlock rd da else readVector rd da) t0 = true ∧ readyB (tJs x none []) x (if commit then 2 else 1) none = true := by decide +kernel

def wordM (x : Job) (write : Bool) : M WordRef := jobWord x tBind (if write then .store else .load) (if write then permStore else permLoad)
def noRef : WordRef := { va := 0, fa := 0, mask := 0, pa := 0, ent := flatEnt 0 }

set_option maxRecDepth 8000 in
/-- R434: one word, the last and not, packed and padded; counts out of range; a padded address out of alignment. -/
theorem witness_HostJobsAndRegisters_move :
    (∀ write padded last : Bool, let x := { tHJob (if write then 4 else 3) (flagAt padded 46) ((plainAddr 0x2800).setWidth 72) 0x40000 (if last then 3 else 4)
        with progress := 2 }
      let s := tJs x (some tBind) [(0x2802, 77)]
      let r := resOf (wordM x write) s noRef
      readyB s x (if write then 4 else 3) (some tBind) = true ∧ x.wait = none ∧ 1 ≤ (bits x.s3 0 21).toNat ∧ (bits x.s3 0 21).toNat ≤ 2 ^ 20 ∧
        bits x.s2 0 4 = 0 ∧ bit s.hi.fnOff (bits s.hi.qps[(3 : QpId)].ctl 24 5).toNat = false ∧ okOf (wordM x write) s = true ∧
        ((stateOf (wordM x write) s).cell r.pa).bad = false ∧ r.ent.chg = true ∧ decide (x.progress + 1 = (bits x.s3 0 21).toNat) = last) ∧
    (∀ k : Fin 3, let n : Nat := if k = 0 then 0 else if k = 1 then 2 ^ 20 + 1 else 2 ^ 20
      let x := tHJob 3 (flagAt true 46) 0 1 (BitVec.ofNat 72 n)
      readyB (tJs x (some tBind) []) x 3 (some tBind) = true ∧ x.wait = none ∧ (bits x.s3 0 21).toNat = n ∧ bits x.s2 0 4 ≠ 0 ∧ x.padded = true) := by
  refine ⟨by decide +kernel, by decide +kernel⟩

/-- R434, R393: a program started by a job, and an engine that is not there; a NOP, and a job of another type. -/
theorem witness_HostJobsAndRegisters_start :
    (let x := tHJob 5 0 23 ((plainAddr 0x4000).setWidth 72) 0
     let s := tJs x (some tBind) tBlk
     readyB s x 5 (some tBind) = true ∧ (bits x.s1 0 5).toNat = (23 : EngId).val ∧
       okOf (chStart (.job tBind.space tBind.troot) tBind.cpass 23 ((bits x.s2 0 52).setWidth 72)) s = true) ∧
    (let x := tHJob 5 0 24 0 0
     readyB (tJs x (some tBind) []) x 5 (some tBind) = true ∧ 24 ≤ (bits x.s1 0 5).toNat) ∧
    (let x := tHJob 0 0 0 0 0
     (tJs x none []).jobFor 0 0 = some x ∧ (tJs x none []).jobFor 0 1 = none ∧ (tJs x none []).hi.qps[(3 : QpId)].state = 1) := by
  refine ⟨by decide +kernel, by decide +kernel, by decide +kernel⟩

/-- A load of one word of the host window passes its tests, also once the error is counted. -/
def winLoadB (s : State) : Bool :=
  let sh : Shape := { regs := FmtM.regs tM }
  let t1 := stateOf (mEA 0 tM) (s.fetched 0 sh)
  let m := operand 0 1 tM.pr permLoad .load (resOf (mEA 0 tM) (s.fetched 0 sh) 0) 1
  s.starts 0 sh && s.aptErr.starts 0 sh && okOf (mEA 0 tM) (s.fetched 0 sh) && okOf m t1 && (resOf m t1 []).length == 1 &&
    regionOf ((resOf m t1 []).headD noRef).pa == .window
/-- R426: the window word of a load, a running engine, ring accesses of a pair that is active and of one that is disabled, a job with host data. -/
theorem witness_HostJobsAndRegisters_errors :
    (let s := tHost (tQp 1 0) [] []
     s.hi.qps[(3 : QpId)].state = 1 ∧ s.hi.qps[(4 : QpId)].state = 0 ∧ regionOf (BitVec.ofNat 52 0x3000000000000) = .window) ∧
    (tEng (tRun (tProg 0x4000 [])) []).engines[(0 : EngId)].running.isSome = true ∧
    winLoadB { tXs none 0 0 with cores := (tXs none 0 0).cores.set 0 (tG [(1, tWin 4)] { tCore with arrived := [{ pa := 9, status := 0, word := 0 }] }) } = true ∧
    (let x := { tHJob 3 0 0 0 0 with started := true }
     ((tJs x (some tBind) []).job 0 == some x && x.ticket.isNone && bits x.s0 64 8 == 3) = true) :=
  ⟨by decide +kernel, by decide +kernel, by decide +kernel, by decide +kernel⟩

def onB (s : State) : Bool := invB s && s.brd.powered && s.sr.pcieServed && !bit s.hi.link 11

/-- R417, R418, R423, R425, R427: the host's writes to a module that serves it, one that does not yet, and one without power. -/
theorem witness_HostJobsAndRegisters_writes :
    (let s := tHost (tQp 0 0) [] []
     onB s = true ∧ s.sr.hostServed = true ∧ isStaged 0x4000 = true ∧ isStaged 0x5410 = true ∧ s.sr.lock = false ∧
       bit s.hi.apts[(63 : Fin 64)].ctl 47 = false ∧ s.hi.qps[(3 : QpId)].state = 0 ∧
       (0x1FFFF : BitVec 18).toNat / 16 * 16 ≠ 0x1000 + 0x20 * 63 ∧ (0x17E0 : BitVec 18).toNat / 16 * 16 = 0x1000 + 0x20 * (63 : Fin 64).val ∧
       (0x20190 : BitVec 18).toNat / 16 * 16 = 0x20010 + 0x80 * (3 : QpId).val) ∧
    (let s := tHost (tQp 1 0) [] []
     s.hi.qps[(3 : QpId)].state ≠ 0 ∧ bits (at' (1 : BitVec 5) 24 : Word) 24 5 ≠ bits s.hi.qps[(3 : QpId)].ctl 24 5 ∧ bits s.hi.qps[(3 : QpId)].ctl 0 9 = 0) ∧
    (let s := { tHost (tQp 0 0) [] [] with sr := { StartBlk.reset with hostServed := true, pcieServed := true, lock := true } }
     onB s = true ∧ s.sr.lock = true) ∧
    (let s := tXs none 0 0
     bit s.hi.apts[(0 : Fin 64)].ctl 47 = true) ∧
    onB State.reset = false := by
  refine ⟨by decide +kernel, by decide +kernel, by decide +kernel, by decide +kernel, by decide +kernel⟩

set_option maxRecDepth 20000 in
theorem witness_HostJobsAndRegisters_vf : ((tHost (tQp 0 0x05000000) [] []).vfPairs 5)[0]? = some 3 ∧ (tHost (tQp 0 0x05000000) [] []).hi.qps[(3 : QpId)].state = 0 ∧
    (0x1010 : BitVec 14).toNat / 16 * 16 = 0x1010 + 0x80 * 0 := by decide +kernel

/-! ## Instruction words -/

/-- R54-R56, R74: an instruction of each format, its word written out field by field from R55 and R56: ADD G3, G1, G2; LDI G5 with an immediate of
all ones; LDW G4 from G1 under P2, 1 position down; B with condition 3, 1 slot back; DADD.M with operands under P2 and P4. -/
theorem test_decode_formats :
    decodeIns 0 ((0b00000010_00011_00001_00010_0000000000000 : Word) <<< 36) = .add 0 { rd := 3, ra := 1, rb := 2, fn := 0 } ∧
    decodeIns 0 ((0b00101001_00101_00000_111111111111111111 : Word) <<< 36) = .ldi 0 { rd := 5, ra := 0, imm := 0x3FFFF } ∧
    decodeIns 0 ((0b00110000_00100_00001_0010_11111111111111 : Word) <<< 36) = .ldw 0 { rt := 4, rb := 1, pr := 2, disp := 0x3FFF } ∧
    decodeIns 0 ((0b01010000_0011_111111111111111111111111 : Word) <<< 36) = .b 0 { cond := 3, disp := 0xFFFFFF } ∧
    decodeIns 0 0b01110000_001001_000100_111_0_00001_0010_111111111111111_00011_0100_000000000010010 =
      .daddM 0 { l1 := 9, l2 := 4, rnd := 7, res := 0, b1 := 1, p1 := 2, d1 := 0x7FFF, b2 := 3, p2 := 4, d2 := 18 } := by decide +kernel

/-- R57, R74, R75: an instruction at position 9; TRAP and POST, the rows' other formats; UOP5; a dash, a reserved row, and words of all zeros and
all ones. -/
theorem test_decode_map :
    decodeIns 0 (instrAt (daOf 0 9) 0b00000001_00000_00000_00000_0000000000000) = .nop 0 { rd := 0, ra := 0, rb := 0, fn := 0 } ∧
    decodeIns 0 ((0b01010111_00000_00000_000000000000000001 : Word) <<< 36) = .trap 0 { rd := 0, ra := 0, imm := 1 } ∧
    decodeIns 0 ((0b10010000_00000_00001_0010_00000000000000 : Word) <<< 36) = .post 0 { rt := 0, rb := 1, pr := 2, disp := 0 } ∧
    decodeIns 0 ((0b11100101_00001_00010_00011_0000000000100 : Word) <<< 36) = .uop 0 5 { rd := 1, ra := 2, rb := 3, fn := 4 } ∧
    decodeIns 0 ((0b00001101_00000_00000_00000_0000000000000 : Word) <<< 36) = .ill 0 { rd := 0, ra := 0, rb := 0, fn := 0 } ∧
    decodeIns 0 ((0b11000000_00000_00000_00000_0000000000000 : Word) <<< 36) = .ill 0 { rd := 0, ra := 0, rb := 0, fn := 0 } ∧
    decodeIns 0 0 = .ill 0 { rd := 0, ra := 0, rb := 0, fn := 0 } ∧
    decodeIns 0 (BitVec.allOnes 72) = .ill 0 { rd := 31, ra := 31, rb := 31, fn := 0x1FFF } := by decide +kernel

/-- R59: the command at the PC of a core. -/
theorem test_fetched_command :
    (tMem [(0x1000, (0b00000010_00011_00001_00010_0000000000000 : Word) <<< 36)] (tSt tCore)).fetchedCommand 0 =
      some (.add 0 { rd := 3, ra := 1, rb := 2, fn := 0 }) := by decide +kernel

/-! ## The fabric -/

/-- A module at a pair of a torus, side A, all of whose links are like `x`. -/
def tNet (dim pair : BitVec 12) (x : FabLink) (now : BitVec 64) : State :=
  let s := tSt Core.reset
  { s with now := now, ws := { s.ws with side := false },
           applied := { s.applied with lbDim := dim, lbPair := pair }, lb := { s.lb with links := Vector.replicate 8 x } }
def tUpLink : FabLink := { FabLink.reset with up := true }
def tCwd (seq : BitVec 12) : Codeword := { corrected := false, fecOk := true, lcrcOk := true, cseq := seq, cack := 0, nak := false, cred := 0 }
def cwGood (x : FabLink) (cw : Codeword) : Bool := cw.fecOk && cw.lcrcOk && cw.cseq == x.csRx + 1

set_option maxRecDepth 8000 in
/-- R445, R446: a link out of service, one in service and one that joins; good and bad codewords, the eighth bad one; timers and the replay store. -/
theorem witness_FabricLinksRoutesAndTime_links :
    (FabLink.reset.up = false ∧ FabLink.reset.key = false) ∧
    (∀ g ∈ [62, 63], let x := { FabLink.reset with key := true, good := g }
      (x.up = true ∨ x.key = true) ∧ cwGood x (tCwd 1) = true ∧ (x.key && decide (64 ≤ x.good + 1)) = (g == 63)) ∧
    (∀ d ∈ [6, 7], let x := { tUpLink with dropped := d }
      x.up = true ∧ cwGood x (tCwd 2) = false ∧ cwGood x { tCwd 1 with fecOk := false } = false ∧ cwGood x { tCwd 1 with lcrcOk := false } = false ∧
        decide (8 ≤ x.dropped + 1) = (d == 7)) ∧
    (tUpLink.lastGood.toNat + 2000 ≤ (tNet 0 0 tUpLink 2000).now.toNat ∧ (tNet 0 0 tUpLink 1999).now.toNat < tUpLink.lastGood.toNat + 2000) ∧
    (let x := { tUpLink with fullSince := some 5 }
     x.up = true ∧ x.fullSince = some 5 ∧ (5 : BitVec 64).toNat + 2000 ≤ (tNet 0 0 x 2005).now.toNat ∧
       (tNet 0 0 x 2004).now.toNat < (5 : BitVec 64).toNat + 2000 ∧ tUpLink.fullSince = none) := by
  refine ⟨by decide +kernel, by decide +kernel, by decide +kernel, by decide +kernel, by decide +kernel⟩

/-- An empty packet of VC0 for pair 0x100. -/
def tHeldPkt : Packet := packet 1 0 0x100 false 0 0 []

set_option maxRecDepth 8000 in
/-- R461, R445, R452: a held packet that a codeword's credits and acknowledgements let go, and one that either still holds; one whose link goes down. -/
theorem witness_FabricLinksRoutesAndTime_held :
    (∀ g ∈ [((0 : BitVec 28), 0, false), (0x1000000, 0, true), (0x1000000, 128, false), (0x1000000, 127, true)],
      let x := { tUpLink with held := [tHeldPkt], cred := Vector.replicate 7 0, store := List.replicate g.2.1 (9, tHeldPkt) }
      let cw := { tCwd 1 with cred := g.1, cack := 8 }
      let rest := afterAck cw.cack x.store
      cwGood x cw = true ∧ x.up = true ∧ (tNet 0x777 0 x 0).brd.powered = true ∧ rest = x.store ∧
        decide (rest.length < 128 ∧ packetSlots tHeldPkt ≤ (x.credited cw.cred).cred[bufferOf tHeldPkt.vc tHeldPkt.dl]) = g.2.2) ∧
    (let x := { tUpLink with held := [tHeldPkt] }
     let s := tNet 0x777 0 x 2000
     let s := { s with ws := { s.ws with contact := true } }
     tHeldPkt.vc ≠ 3 ∧ s.nextLink tHeldPkt.dpair = some (0, 0) ∧ tHeldPkt.px = false ∧ s.ws.contact = true ∧ s.brd.powered = true ∧
       s.lb.links[(0 : Fin 8)].held = [tHeldPkt] ∧ s.lb.links[(0 : Fin 8)].lastGood.toNat + 2000 ≤ s.now.toNat) ∧
    tUpLink.held = [] ∧ tUpLink.idle := by
  refine ⟨?_, by decide +kernel, by decide +kernel, ⟨by decide +kernel, by decide +kernel, by decide +kernel⟩⟩
  simp only [List.forall_mem_cons]
  exact ⟨by decide +kernel, by decide +kernel, by decide +kernel, by decide +kernel, fun _ h => nomatch h⟩

def tFar (p : PairId) : FarEnd := { pair := p, side := false, link := 1, delay := 7 }

/-- R447, R448: a dimension of one pair; neighbours each way around a ring of 8 and across it; far ends that are right and wrong. -/
theorem witness_FabricLinksRoutesAndTime_train :
    (coord (tNet 0x700 0x700 tUpLink 0).applied.lbDim 1 + 1 = 1 ∧ bit (tNet 0x700 0x700 tUpLink 0).applied.lbCtl 0 = false) ∧
    (let s := tNet 0x700 0x700 tUpLink 0
     s.neighbour 0 = some 0x000 ∧ s.neighbour 1 = some 0x600 ∧
       ({ s with applied := { s.applied with lbCtl := 1 } } : State).neighbour 6 = some 0x300) ∧
    (let s := tNet 0x700 0x700 { FabLink.reset with train := true } 0
     s.brd.powered = true ∧ s.lb.links[(0 : Fin 8)].train = true ∧ s.neighbour 0 = some 0 ∧ (tFar 0).pair = 0 ∧ (tFar 0).side = s.ws.side ∧
       (tFar 0).link.val = 0 + 1 ∧ (tFar 0x600).pair ≠ 0 ∧ bit s.brd.linkKeys 0 = true ∧
       bit ({ s.brd with linkKeys := 0xFE } : Board).linkKeys 0 = false) := by
  refine ⟨by decide +kernel, by decide +kernel, by decide +kernel⟩

/-- A packet from pair 0 to a pair. -/
def tPkt (type : BitVec 4) (dst : PairId) (ttl : BitVec 5) : Packet := { packet type 0 dst false 0 0 [] with ttl := ttl }
def distOf (s : State) (p : Packet) (d : Nat) : Nat :=
  let size := coord s.applied.lbDim d + 1
  let delta := (coord p.dpair d + size - coord s.applied.lbPair d) % size
  min delta (size - delta)
def hopOf (s : State) (p : Packet) (d : Nat) : Nat :=
  let size := coord s.applied.lbDim d + 1
  let delta := (coord p.dpair d + size - coord s.applied.lbPair d) % size
  if d < 2 ∧ bit s.applied.lbCtl d = true ∧ size < 4 * distOf s p d then 6 + d else if 2 * delta ≤ size then 2 * d else 2 * d + 1

set_option maxRecDepth 8000 in
/-- R450-R452: a packet at its pair on either side; one whose life ends; each kind of hop, and the way out when its link is down. -/
theorem witness_FabricLinksRoutesAndTime_route :
    (let s := tNet 0x777 0 tUpLink 0
     s.brd.powered = true ∧ (tPkt 1 0 5).dpair = s.applied.lbPair ∧ (tPkt 1 0 5).dside = s.ws.side ∧ (tPkt 6 0 5).type = 6) ∧
    (∀ x ∈ [((0x100 : BitVec 12), false, 0, 0), (0x700, false, 0, 1), (0x040, false, 1, 2), (0x050, false, 1, 3), (0x003, false, 2, 4), (0x300, true, 0, 6), (0x200, true, 0, 0)],
      let s := tNet 0x777 0 tUpLink 0
      let s := { s with applied := { s.applied with lbCtl := if x.2.1 then 1 else 0 } }
      let p := tPkt 1 x.1 5
      p.dpair ≠ s.applied.lbPair ∧ p.ttl ≠ 0 ∧ (tPkt 1 x.1 0).ttl = 0 ∧ (List.range x.2.2.1).all (fun e => distOf s p e == 0) = true ∧ distOf s p x.2.2.1 ≠ 0 ∧
        hopOf s p x.2.2.1 = x.2.2.2 ∧ (s.lb.links.toList.all fun y => y.up) = true) ∧
    (let s := tNet 0x777 0 FabLink.reset 0
     let s1 := { s with ws := { s.ws with contact := true } }
     s.ws.contact = false ∧ s1.ws.contact = true ∧ (s.lb.links.toList.all fun y => !y.up) = true ∧ (tPkt 1 0x100 5).px = false) := by
  refine ⟨by decide +kernel, ?_, by decide +kernel⟩
  simp only [List.forall_mem_cons]
  exact ⟨by decide +kernel, by decide +kernel, by decide +kernel, by decide +kernel, by decide +kernel, by decide +kernel, by decide +kernel, fun _ h => nomatch h⟩

def tSer (w : List (BitVec 16 × ReqFor × Packet)) (n : Nat) : Series := { pair := 1, side := false, events := false, next := 2, waiting := w, since := 0, resends := n }
def tWait : BitVec 16 × ReqFor × Packet := (1, .coreLoad 0 (plainAddr 9), { tPkt 1 1 24 with eseq := 1 })
def tSent2 (x : Series) (now : BitVec 64) : State :=
  let s := tNet 0x777 0 tUpLink now
  { s with lb := { s.lb with series := [x] }, cores := s.cores.set 0 { Core.reset with wait := some (plainAddr 9) } }

/-- R458, R464: a series that waits, before its time, at it, and with its resends made; time from the upstream link and another, near and far ahead. -/
theorem witness_FabricLinksRoutesAndTime_time :
    (∀ n ∈ [0, 2, 3], let s := tSent2 (tSer [tWait] n) 10000
      s.lb.series.find? (fun y => y.pair == 1 && y.side == false && y.events == false) = some (tSer [tWait] n) ∧ (tSer [tWait] n).waiting ≠ [] ∧
        (tSer [tWait] n).since.toNat + 10000 ≤ s.now.toNat ∧ decide ((tSer [tWait] n).resends < 3) = decide (n ≠ 3) ∧ s.cores[(0 : CoreId)].wait = some (plainAddr 9)) ∧
    (tSent2 (tSer [tWait] 0) 9999).now.toNat < (tSer [tWait] 0).since.toNat + 10000 ∧
    (∀ k : Fin 2, let s := tNet 0x777 0 { tUpLink with delay := 3 } 100
      let s := { s with applied := { s.applied with lbTmaster := 0x100 } }
      let ref : BitVec 64 := (if k = 0 then 1097 else 1098) + s.lb.links[(0 : Fin 8)].delay.setWidth 64
      s.nextLink s.applied.lbTmaster = some (0, 0) ∧ s.lb.links[(0 : Fin 8)].up = true ∧ s.brd.powered = true ∧
        decide ((1000 : Int) < (ref.toNat : Int) - s.now.toNat) = decide (k = 1)) ∧
    (∀ b : Bool, let s := tNet 0x777 0 tUpLink (if b then 1000 else 999)
      decide (s.applied.lbPair = s.applied.lbTmaster ∧ s.lb.lastMaster.toNat + 1000 ≤ s.now.toNat) = b) ∧
    (∀ b : Bool, let s := tNet 0x777 1 tUpLink (if b then 10000 else 9999)
      decide (s.applied.lbPair ≠ s.applied.lbTmaster ∧ s.lb.lastTime.toNat + 10000 ≤ s.now.toNat) = b) := by
  refine ⟨by decide +kernel, by decide +kernel, by decide +kernel, by decide +kernel, by decide +kernel⟩

/-! ## Requests and answers -/

/-- A request from pair 1, side A, for words of the Plain. -/
def tRq (type : BitVec 4) (off nw : Nat) (mask : BitVec 18) (payload : List Word) : Packet :=
  { packet type 0 0 false 0 (BitVec.ofNat 72 (2 ^ 70 + off * 2 ^ 34 + nw * 2 ^ 12) ||| at' mask 16) payload with spair := 1 }
def givenB (s : State) (p : Packet) (type : BitVec 4) : Bool :=
  invB s && s.brd.powered && p.type == type && p.dpair == s.applied.lbPair && p.dside == s.ws.side
theorem delivers_of {s : State} {p : Packet} {type : BitVec 4} (h : givenB s p type = true) : s.delivers (packetCoded p) type := by
  simp only [givenB, Bool.and_eq_true, beq_iff_eq] at h
  obtain ⟨⟨⟨⟨-, h1⟩, h2⟩, h3⟩, h4⟩ := h
  exact ⟨h1, h2, rfl, h3, h4⟩
theorem not_delivers {s : State} {p : Packet} {k : BitVec 4} (h : p.ecrc ≠ packetCode p) : ¬s.delivers p k := fun x => h x.2.2.1
def tT (f : State → State) : State := f (tNet 0x777 0 tUpLink 50)

set_option maxRecDepth 8000 in
/-- R454-R459: requests served, barred, for a word to heal and for a bad word; a number served before and one that never was. -/
theorem witness_FabricRequestsAreServed_words :
    (let s := tT id
     let p := tRq 1 0x2000 7 0 []
     givenB s p 1 = true ∧ p.eseq = (s.servedFor p.spair p.sside false).expected ∧ (reqWords p.hw1).length = 8 ∧
       (reqWords p.hw1).all (fun a => isLocalMem a && s.populated a && !(s.cell a).bad) = true ∧
       (let q := tRq 1 0x1000000 0 0 []
        givenB s q 1 = true ∧ firstStatus ((reqWords q.hw1).map fun a => s.targetStatus a false maskAll) = 1)) ∧
    (let s := tT fun s => { s with applied := { s.applied with peCellCount := 64, jnRingBase := 0x400000 } }
     let s := s.putCell (plainAddr 0x10) { data := 0, tag := false, bad := true }
     let p := tRq 1 0x10 0 0 []
     reqWords p.hw1 = [plainAddr 0x10] ∧ s.populated (plainAddr 0x10) = true ∧ (s.cell (plainAddr 0x10)).bad = true ∧ s.canHeal (plainAddr 0x10) = true ∧
       (s.servedFor p.spair p.sside false).heal = none) ∧
    (let s := tT id
     let p := tRq 2 0x2000 1 3 [5, 6]
     givenB s p 2 = true ∧ p.eseq = (s.servedFor p.spair p.sside false).expected ∧ (reqWords p.hw1).Nodup ∧ p.payload.length = (reqWords p.hw1).length ∧
       (reqWords p.hw1).all (fun a => isLocalMem a && s.populated a && (regionOf a != .plain || !s.guarded (offsetOf a)) && !s.shadowPage a && !(s.cell a).bad) = true ∧
       (let q := tRq 2 0xFF0000 0 maskAll [5]
        firstStatus ((reqWords q.hw1).map fun a => s.targetStatus a true maskAll) = 2)) ∧
    (let s := (tT id).putCell (plainAddr 0x2000) { data := 0, tag := false, bad := true }
     let p := tRq 2 0x2000 0 3 [5]
     reqWords p.hw1 = [plainAddr 0x2000] ∧ s.targetStatus (plainAddr 0x2000) true 3 = 0 ∧ (s.cell (plainAddr 0x2000)).bad = true ∧ (3 : BitVec 18) ≠ maskAll) ∧
    (∀ b : Bool, let q : Packet := tPkt 5 1 24
      let s := tT fun s => s.setServed { s.servedFor 1 false false with expected := 9, held := if b then [(0, q)] else [] }
      let p := tRq 2 0x2000 0 3 [5]
      givenB s p 2 = true ∧ p.eseq ≠ (s.servedFor p.spair p.sside false).expected ∧
        ((s.servedFor p.spair p.sside false).held.find? fun h => h.1 == p.eseq).isSome = b) ∧
    givenB (tT id) { tRq 1 0 0 0 [] with dpair := 5 } 1 = false := by
  refine ⟨by decide +kernel, by decide +kernel, by decide +kernel, by decide +kernel, by decide +kernel, by decide +kernel⟩

def awaitB (s : State) (p : Packet) (x : Series) (events : Bool) (type : BitVec 4) (f : ReqFor) : Bool :=
  s.lb.series == [x] && x.pair == p.spair && x.side == p.sside && x.events == events && (match x.waiting with
  | [(e, g, w)] => e == p.eseq && g == f && w.type == type
  | _ => false)
/-- A module with one request of a type outstanding. -/
def tAw (events : Bool) (type : BitVec 4) (f : ReqFor) : Series := { tSer [(0, f, tPkt type 1 24)] 0 with events := events }
def tAws (x : Series) : State :=
  tT fun s => { s with lb := { s.lb with series := [x] }, cores := s.cores.set 0 { Core.reset with wait := some (plainAddr 9) } }

set_option maxRecDepth 8000 in
/-- R456-R458: events of sources that software may raise and of others; each answer to what waits for it; unit jobs for a leader, a crossing and none. -/
theorem witness_FabricRequestsAreServed_answers :
    (∀ k ∈ [768, 1023, 464, 465, 653, 466, 463, 656, 767], let p := { tPkt 3 0 24 with hw1 := BitVec.ofNat 72 k, spair := 1 }
      givenB (tT id) p 3 = true ∧ p.eseq = ((tT id).servedFor p.spair p.sside true).expected ∧ (bits p.hw1 0 10).toNat = k) ∧
    (let p := { tPkt 4 0 24 with spair := 1, payload := [7] }
     let x := tAw false 1 (.coreLoad 0 (plainAddr 9))
     givenB (tAws x) p 4 = true ∧ awaitB (tAws x) p x false 1 (.coreLoad 0 (plainAddr 9)) = true ∧ (tAws x).cores[(0 : CoreId)].wait = some (plainAddr 9)) ∧
    (∀ c : Fin 3, let p := { tPkt 5 0 24 with spair := 1, hw1 := at' (BitVec.ofNat 8 c.val) 64 }
      let x := tAw false 2 (.coreStore 0 (plainAddr 9))
      let y := tAw true 3 (.event 0)
      givenB (tAws x) p 5 = true ∧ awaitB (tAws x) p x false 2 (.coreStore 0 (plainAddr 9)) = true ∧ bits p.hw1 64 8 ≠ 5 ∧
        givenB (tAws y) p 5 = true ∧ awaitB (tAws y) p y true 3 (.event 0) = true) ∧
    (let p := { tPkt 8 0 24 with spair := 1, payload := [at' (0x40 : BitVec 8) 64, 0, 0, 0] }
     let got (s : State) : Bool := s.brd.powered && p.type == 8 && p.dpair == s.applied.lbPair && p.vc != 1 && p.eseq == (s.servedFor p.spair p.sside false).expected
     let s (r tr : BitVec 3) (c : Bool) := tT fun s => { s with ws := { s.ws with role := r, twinRole := tr, contact := c } }
     got (s 1 0 false) = true ∧ (s 1 0 false).leads = true ∧ entryStatus (p.payload.getD 0 0) (p.payload.getD 1 0) (p.payload.getD 2 0) (p.payload.getD 3 0) = none ∧
       got (s 2 1 true) = true ∧ (s 2 1 true).leads = false ∧ (s 2 1 true).namesSide p = false ∧ p.spair ≠ (s 2 1 true).applied.lbPair ∧ (s 2 1 true).twinLeads = true ∧
       got (s 0 0 false) = true ∧ (s 0 0 false).leads = false ∧ (s 0 0 false).twinLeads = false) ∧
    (let p := { tPkt 8 0 24 with vc := 1, spair := 1, payload := [7] }
     let x := tAw false 8 (.unit 0)
     p.vc = 1 ∧ p.dside = (tAws x).ws.side ∧ awaitB (tAws x) p x false 8 (.unit 0) = true) := by
  refine ⟨by decide +kernel, by decide +kernel, by decide +kernel, by decide +kernel, by decide +kernel⟩

/-! ## Power, pins and the block -/

def tBd (f : Board → Board) (now : BitVec 64) : State := { tSt Core.reset with brd := f tBoard, now := now }

set_option maxRecDepth 8000 in
/-- R499-R505, R511: power on and off, and each threshold at its boundary. -/
theorem witness_PowerPinsAndTests :
    ((tBd id 0).brd.powered = true ∧ State.reset.brd.powered = false ∧ (tBd id 0).brd.stbyOk = true ∧ (9999 : BitVec 16).toNat < 10000 ∧
      10000 ≤ (10000 : BitVec 16).toNat ∧ 10800 ≤ (10800 : BitVec 16).toNat ∧ (11399 : BitVec 16).toNat < 11400 ∧ 480000 < (480001 : BitVec 20).toNat) ∧
    ((1648 : Int) ≤ (1648 : BitVec 16).toInt ∧ (1647 : BitVec 16).toInt < 1648 ∧ (1760 : Int) ≤ (1760 : BitVec 16).toInt ∧
      (16 * (min 103 (tBd id 0).brd.tjWarn.toNat : Int) ≤ (1648 : BitVec 16).toInt) ∧ (0x8000 : BitVec 16).toInt < 0) ∧
    (∀ b : Bool, let s := tBd (fun x => { x with throttling := true, stepAt := 5 }) (if b then 1005 else 1004)
      s.brd.throttling = true ∧ decide (s.brd.stepAt.toNat + 1000 ≤ s.now.toNat) = b) ∧
    (∀ b : Bool, let s := tBd (fun x => { x with throttling := true, coolSince := some 5 }) (if b then 1000005 else 1000004)
      s.brd.throttling = true ∧ s.brd.coolSince = some 5 ∧ decide ((5 : BitVec 64).toNat + 1000000 ≤ s.now.toNat) = b) ∧
    (let s := tBd (fun x => { x with fordSince := (x.fordSince.set 17 (some 5)).set 11 (some 5) }) 10005
     s.brd.fordSince[(17 : Fin 18)] = some 5 ∧ s.brd.fordSince[(11 : Fin 18)] = some 5 ∧ (5 : BitVec 64).toNat + 10000 ≤ s.now.toNat ∧
       s.brd.fordSince[(0 : Fin 18)] = none) ∧
    ((0x450 : BitVec 24).toNat / 16 * 16 = 0x450 ∧ bit (1 : Word) 0 = true ∧ (tPh 5).sr.phase ≠ 0 ∧ (tPh 5).brd.stbyOk = true ∧ (tPh 5).brd.powered = true ∧
      (0x460 : BitVec 24).toNat / 16 * 16 ≠ 0x450) := by
  refine ⟨by decide +kernel, by decide +kernel, by decide +kernel, by decide +kernel, by decide +kernel, by decide +kernel⟩

/-- Log 2, R464: a command in front; time with no drift, ahead and behind, on each half; a counter without power. -/
theorem witness_StepRunsTheFront :
    ((tSt tCore).withQueue [.powerFail, .bypass]).pending = [.powerFail, .bypass] ∧ (tSt tCore).pending = [] ∧ (tSt tCore).brd.powered = true ∧
    (tSt tCore).brd.fordSince[(17 : Fin 18)] = none ∧ State.reset.brd.powered = false ∧ (tSt tCore).lb.drift = 0 ∧ (-1 : Int) < 0 ∧ (0 : Int) < 1 := by decide +kernel

/-- The invariant has a state that meets it. -/
theorem witness_EveryStepKeepsTheInvariant : (tMem [(0x2000, 7), (0x1000, 5)] (tSt tCore)).Inv := inv_of (by decide +kernel)

end Sys2Proof.Machine.Tests
end

section
/-! Digit addresses as places (R19, R23, R24), and the words that a field touches (R25). -/

namespace Sys2Proof.Machine

/-! ## Parts of a digit address -/

theorem toNat_bits {w : Nat} (x : BitVec w) (lo len : Nat) : (bits x lo len).toNat = x.toNat / 2 ^ lo % 2 ^ len := by
  simp [bits, Nat.shiftRight_eq_div_pow]

theorem toNat_daWord (da : DAddr) : (daWord da).toNat = da.toNat / 32 := by
  rw [daWord, toNat_bits]
  have := da.isLt
  omega

theorem daPos_eq_mod (da : DAddr) : daPos da = da.toNat % 32 := by
  rw [daPos, toNat_bits]
  omega

theorem toNat_daOf (w : WAddr) {p : Nat} (hp : p < 32) : (daOf w p).toNat = w.toNat * 32 + p := by
  have hw := w.isLt
  have hor := Nat.two_pow_add_eq_or_of_lt (i := 5) (b := p) (by simpa using hp) w.toNat
  have e1 : w.toNat % 2 ^ 57 = w.toNat := Nat.mod_eq_of_lt (by omega)
  have e2 : w.toNat * 2 ^ 5 % 2 ^ 57 = w.toNat * 2 ^ 5 := Nat.mod_eq_of_lt (by omega)
  have e3 : p % 2 ^ 57 = p := Nat.mod_eq_of_lt (by omega)
  rw [daOf, BitVec.toNat_or, BitVec.toNat_shiftLeft, BitVec.toNat_setWidth, BitVec.toNat_ofNat, Nat.shiftLeft_eq, e1, e2, e3,
    Nat.mul_comm, ← hor]
  omega

theorem daWord_daOf (w : WAddr) {p : Nat} (hp : p < 32) : daWord (daOf w p) = w := by
  apply BitVec.eq_of_toNat_eq
  rw [toNat_daWord, toNat_daOf w hp]
  omega

theorem daPos_daOf (w : WAddr) {p : Nat} (hp : p < 32) : daPos (daOf w p) = p := by
  rw [daPos_eq_mod, toNat_daOf w hp]
  omega

/-! ## ADVANCE on places (R23, R24) -/

/-- The place of a digit address (R24). -/
def daPlace (da : DAddr) : Int := (daWord da).toNat * 18 + daPos da

/-- The parts of the digit address that ADVANCE gives are the quotient and the remainder of the place by 18 (R23). -/
theorem advance_eq_of_place (da : DAddr) (k : Int) :
    advance da k = (daOf (BitVec.ofInt 52 ((daPlace da + k) / 18)) ((daPlace da + k) % 18).toNat,
      decide (daPlace da + k < 0 ∨ 2 ^ 52 * 18 ≤ daPlace da + k)) := by
  have hq : ((daPos da : Int) + k).fdiv 18 = (daPos da + k) / 18 := Int.fdiv_eq_ediv_of_nonneg _ (by omega)
  have hw : ((daWord da).toNat : Int) + (daPos da + k) / 18 = (daPlace da + k) / 18 := by unfold daPlace; omega
  have hr : (daPos da : Int) + k - 18 * ((daPos da + k) / 18) = (daPlace da + k) % 18 := by unfold daPlace; omega
  simp only [advance, hq, hw, hr, ← Bool.decide_or]
  congr 2
  simp only [eq_iff_iff]
  omega

/-- The result of ADVANCE as it stands in a register. -/
theorem daReg_advance (da : DAddr) (k : Int) : daReg (advance da k).1 = atPlace (daPlace da + k) := by
  rw [advance_eq_of_place]
  generalize daPlace da + k = p
  apply BitVec.eq_of_toNat_eq
  rw [daReg, BitVec.toNat_setWidth, toNat_daOf _ (by omega), atPlace, BitVec.toNat_ofInt, BitVec.toNat_ofInt]
  omega

/-- The value of a register that holds a digit address is its place. -/
theorem daPlace_bits {v : Word} (h : v.toNat < 2 ^ 57) : daPlace (bits v 0 57) = place v := by
  have e : (bits v 0 57).toNat = v.toNat := by rw [toNat_bits]; omega
  rw [daPlace, toNat_daWord, daPos_eq_mod, e, place]

/-! ## An address in a register (R19, R20) -/

theorem formed_iff (v : Word) : (bits v 57 15 == 0) = true ↔ v.toNat < 2 ^ 57 := by
  have := v.isLt
  have hz : (0 : BitVec 15).toNat = 0 := rfl
  rw [beq_iff_eq, ← BitVec.toNat_inj, toNat_bits, hz]
  omega

theorem daPos_bits (v : Word) : daPos (bits v 0 57) = v.toNat % 32 := by
  rw [daPos_eq_mod, toNat_bits]
  omega

/-- What the checks of an address in a register answer, by its bits above 56 and by its position. -/
theorem regAddr_eq (v : Word) (s : State) : regAddr v s =
    if 2 ^ 57 ≤ v.toNat then .error (.fault { cls := 4, faddr := bits v 0 57 }) s
    else if 18 ≤ v.toNat % 32 then .error (.fault { cls := 5, faddr := bits v 0 57 }) s
    else .ok (bits v 0 57) s := by
  have hform := formed_iff v
  unfold regAddr
  by_cases h : v.toNat < 2 ^ 57
  · rw [if_neg (by omega), work_bind_ok (by rw [work_require, if_pos (hform.2 h)]), work_bind, work_require, daPos_bits]
    by_cases hpos : v.toNat % 32 ≤ 17
    · rw [if_pos (decide_eq_true hpos), if_neg (by omega)]
      rfl
    · rw [if_neg (by simpa using hpos), if_pos (by omega)]
  · rw [if_pos (by omega), work_bind, work_require, if_neg fun hb => h (hform.1 hb)]

theorem regAddr_ok {v : Word} (h : isDigitAddr v) (s : State) : regAddr v s = .ok (bits v 0 57) s := by
  obtain ⟨hform, hpos⟩ := h
  rw [regAddr_eq, if_neg (by omega), if_neg (by omega)]

/-! ## ADVANCE and ADVANCE_I -/

/-- A write of V alone, among the flags. -/
theorem Core.setV_eq_setNZVC (c : Core) (o : Bool) :
    { c with st := setBit c.st 69 o } = c.setNZVC c.flagN c.flagZ o c.flagC := by
  have : setBit c.st 69 o = (c.setNZVC c.flagN c.flagZ o c.flagC).st := by
    apply eq_of_bits
    intro i hi
    simp only [Core.setNZVC, Core.flagN, Core.flagZ, Core.flagC, bit_setBit]
    split_ifs <;> simp_all
  rw [this]
  rfl

/-- A general register and V written from a result of ADVANCE. -/
theorem Core.advanced_eq (c : Core) (rd : BitVec 5) {v : Word} (h : isDigitAddr v) (k : Int) :
    { c.setG rd (daReg (advance (bits v 0 57) k).1) with st := setBit c.st 69 (advance (bits v 0 57) k).2 } =
      (c.setG rd (atPlace (place v + k))).setNZVC c.flagN c.flagZ (decide (place v + k < 0 ∨ 2 ^ 52 * 18 ≤ place v + k)) c.flagC := by
  have hst : c.st = (c.setG rd (atPlace (place v + k))).st := (Core.setG_st _ _ _).symm
  rw [daReg_advance, advance_eq_of_place, daPlace_bits h.1]
  have := Core.setV_eq_setNZVC (c.setG rd (atPlace (place v + k))) (decide (place v + k < 0 ∨ 2 ^ 52 * 18 ≤ place v + k))
  unfold Core.flagN Core.flagZ Core.flagC at *
  rw [← hst] at this
  exact this

theorem advanceBody_eq (n : CoreId) (rd ra : BitVec 5) (k : Int) (s : State) :
    advanceBody n rd ra k s = match regAddr (s.cores[n.val].gr ra) s with
      | .ok da t => .ok .seq (t.updCore n fun c =>
          { c.setG rd (daReg (advance da k).1) with st := setBit c.st 69 (advance da k).2 })
      | .error e t => .error e t := by
  unfold advanceBody
  rw [work_bind_ok (work_gr n ra s), work_bind]
  cases regAddr (s.cores[n.val].gr ra) s <;> rfl

/-! ## An instruction that changes one core -/

/-- What the settling of deterministic charges leaves in a core. -/
def Core.settledAt (c : Core) (steps : BitVec 64) (var : BitVec 32) : Core :=
  { c with detSteps := steps, detPend := 0, detVar := var, late := false }

theorem onlyCore_updCore_free (t : State) (n : CoreId) (f : Core → Core) (k : Nat) : OnlyCore n t { t.updCore n f with free := k } := by
  have h := congrArg (fun x : State => ({ x with free := k } : State)) (onlyCore_updCore t n f)
  exact h

/-- An instruction whose body changes one core: the core that it leaves once it has retired and its charges are settled. -/
theorem runIns_updCore {s : State} {n : CoreId} {sh : Shape} {body : M Next} {t : State} {g : Core → Core} (h : s.runs n sh = true)
    (hbody : body (s.fetched n sh) = .ok .seq (t.updCore n g)) :
    OnlyCore n t (s.runIns n sh body) ∧
      ∃ a v, (s.runIns n sh body).cores[n.val] = ((g t.cores[n.val]).retire sh .seq).settledAt a v := by
  rw [State.runs, Bool.and_eq_true, Bool.not_eq_true'] at h
  rw [runIns_next h.1 hbody h.2, State.updCore_updCore]
  obtain ⟨a, v, k, e⟩ := State.settleCharge_spec (t.updCore n fun c => (g c).retire sh .seq) n
  rw [e, State.updCore_updCore]
  exact ⟨onlyCore_updCore_free t n _ k, a, v, State.updCore_core t n fun c => ((g c).retire sh .seq).settledAt a v⟩

/-- Settling the charges bears on none of what a computation says. -/
theorem Core.Computed.settledAt {c d : Core} {rd : BitVec 5} {w : Word} {n z o cy : Bool} (h : c.Computed d rd w n z o cy)
    (a : BitVec 64) (v : BitVec 32) : c.Computed (d.settledAt a v) rd w n z o cy := by
  obtain ⟨honly, hwent, hgot, hkept, hflags⟩ := h
  have := congrArg (fun x : Core => x.settledAt a v) honly
  exact ⟨this, hwent, hgot, hkept, hflags⟩

/-- ADVANCE of G[ra] by a count: the place moved on (R23), or the fault of the address (R20). -/
def AdvancesPlace (i : Instr) (s : State) (n : CoreId) (sh : Shape) (rd ra : BitVec 5) (k : Core → Int) : Prop :=
  let v := (s.core n sh).gr ra
  (isDigitAddr v → Completes i s n sh fun c d =>
    c.Computed d rd (atPlace (place v + k c)) c.flagN c.flagZ (decide (place v + k c < 0 ∨ 2 ^ 52 * 18 ≤ place v + k c)) c.flagC) ∧
  (s.starts n sh = true → 2 ^ 57 ≤ v.toNat → Faults i s n sh { cls := 4, faddr := bits v 0 57 }) ∧
  (s.starts n sh = true → v.toNat < 2 ^ 57 → 18 ≤ v.toNat % 32 → Faults i s n sh { cls := 5, faddr := bits v 0 57 })

/-- An instruction whose body is the shared one advances the place, with the faults of its address in their order. -/
theorem advancesPlace_of_body {i : Instr} {s : State} {n : CoreId} {sh : Shape} {rd ra : BitVec 5} {k : Core → Int} {body : M Next}
    (hslots : sh.slots = 1) (hexec : exec i s = .next (s.runIns n sh body))
    (hbody : body (s.fetched n sh) = advanceBody n rd ra (k (s.core n sh)) (s.fetched n sh)) :
    AdvancesPlace i s n sh rd ra k := by
  rw [advanceBody_eq, regAddr_eq, State.fetched_core] at hbody
  refine ⟨fun hv hruns => ?_, fun hs hform => ?_, fun hs hform hpos => ?_⟩
  · obtain ⟨hform, hpos⟩ := id hv
    rw [if_neg (by omega), if_neg (by omega)] at hbody
    obtain ⟨honly, a, v, hcore⟩ := runIns_updCore hruns hbody
    refine ⟨_, hexec, honly, ?_⟩
    rw [Fin.getElem_fin, hcore, State.fetched_core, Core.advanced_eq _ _ hv]
    exact (Core.computed_of _ _ _ _ _ _ _ _ hslots).settledAt a v
  · rw [if_pos hform] at hbody
    rw [Faults, hexec, runIns_fault hs hbody]
  · rw [if_neg (by omega), if_pos hpos] at hbody
    rw [Faults, hexec, runIns_fault hs hbody]

theorem execAdvance_places (s : State) (n : CoreId) (f : FmtA) :
    AdvancesPlace (.advance n f) s n (shapeA f) f.rd f.ra fun c => (c.gr f.rb).toInt :=
  advancesPlace_of_body (body := do
      let k ← gr n f.rb
      advanceBody n f.rd f.ra k.toInt) rfl rfl (work_bind_ok (work_gr n f.rb _))

theorem execAdvanceI_places (s : State) (n : CoreId) (f : FmtI) :
    AdvancesPlace (.advanceI n f) s n (shapeI f) f.rd f.ra fun _ => f.imm.toInt :=
  advancesPlace_of_body rfl rfl rfl

/-- Settles O5: both instructions run the shared body on their own count. -/
theorem advanceByPositions : Obligations.AdvanceByPositions := by
  unfold Obligations.AdvanceByPositions
  intro s n
  exact ⟨fun f => execAdvance_places s n f, fun f => execAdvanceI_places s n f⟩

end Sys2Proof.Machine
end

section
namespace Sys2Proof.Machine

/-! ## The words of a field (R25) -/

/-- The places that a word with its mask covers, as word and position. -/
def maskedPlaces (w : WAddr × BitVec 18) : List (WAddr × Nat) :=
  (List.range 18).filterMap fun p => if bit w.2 (17 - p) then some (w.1, p) else none

/-- The word and position of a place, counted in positions from the start of the address space, modulo the space (R24). -/
def placeParts (k : Nat) : WAddr × Nat := (BitVec.ofNat 52 (k / 18), k % 18)

/-- The place of a digit address as a natural number. -/
def natPlace (da : DAddr) : Nat := (daWord da).toNat * 18 + daPos da

/-- Places that differ by the whole address space are the same word and position. -/
theorem placeParts_mod (k i : Nat) : placeParts (k % (2 ^ 52 * 18) + i) = placeParts (k + i) := by
  unfold placeParts
  congr 1
  · apply BitVec.eq_of_toNat_eq
    rw [BitVec.toNat_ofNat, BitVec.toNat_ofNat]
    omega
  · omega

/-- The digit address m positions on (R23). -/
theorem natPlace_daAdd (da : DAddr) (m : Nat) : natPlace (daAdd da m) = (natPlace da + m) % (2 ^ 52 * 18) := by
  have hp : daPlace da + m = ((natPlace da + m : Nat) : Int) := by simp [daPlace, natPlace]
  have hlt : (((natPlace da + m : Nat) : Int) % 18).toNat < 32 := by omega
  rw [daAdd, advance_eq_of_place, hp]
  generalize natPlace da + m = k at hlt
  rw [natPlace, daWord_daOf _ hlt, daPos_daOf _ hlt, BitVec.toNat_ofInt]
  omega

theorem daPos_daAdd (da : DAddr) (m : Nat) : daPos (daAdd da m) = (daPos da + m) % 18 := by
  have h := natPlace_daAdd da m
  have hlt : daPos (daAdd da m) < 18 := by
    rw [daAdd, advance_eq_of_place, daPos_daOf _ (by omega)]
    omega
  unfold natPlace at h
  omega

/-- A mask of n positions from p covers exactly those (R337). -/
theorem bit_maskOf {p m j : Nat} (h : p + m ≤ 18) (hj : j < 18) : bit (maskOf p m) (17 - j) = decide (p ≤ j ∧ j < p + m) := by
  unfold bit maskOf
  rw [BitVec.getLsbD_ofNat, Nat.testBit_mul_two_pow, Nat.testBit_two_pow_sub_one, ← Bool.decide_and, ← Bool.decide_and]
  apply decide_eq_decide.2
  omega

theorem maskedPlaces_maskOf (w : WAddr) {p m : Nat} (h : p + m ≤ 18) :
    maskedPlaces (w, maskOf p m) = (List.range m).map fun i => (w, p + i) := by
  have hmask : maskedPlaces (w, maskOf p m) = (List.range 18).filterMap fun j => if p ≤ j ∧ j < p + m then some (w, j) else none :=
    List.filterMap_congr fun j hj => by simp [bit_maskOf h (List.mem_range.1 hj)]
  have hsplit : List.range 18 = List.range p ++ (List.range m).map (p + ·) ++ (List.range (18 - p - m)).map (p + m + ·) := by
    rw [← List.range_add, ← List.range_add]
    congr 1
    omega
  have hbelow : (List.range p).filterMap (fun j => if p ≤ j ∧ j < p + m then some (w, j) else none) = [] :=
    List.filterMap_eq_nil_iff.2 fun j hj => if_neg (by have := List.mem_range.1 hj; omega)
  have hin : ((List.range m).map (p + ·)).filterMap (fun j => if p ≤ j ∧ j < p + m then some (w, j) else none) =
      (List.range m).map fun i => (w, p + i) := by
    rw [List.filterMap_map, ← List.filterMap_eq_map]
    exact List.filterMap_congr fun i hi => if_pos ⟨Nat.le_add_right p i, Nat.add_lt_add_left (List.mem_range.1 hi) p⟩
  have habove : ((List.range (18 - p - m)).map (p + m + ·)).filterMap (fun j => if p ≤ j ∧ j < p + m then some (w, j) else none) = [] := by
    rw [List.filterMap_map]
    exact List.filterMap_eq_nil_iff.2 fun i _ => if_neg fun hlt => absurd hlt.2 (Nat.not_lt.2 (Nat.le_add_right (p + m) i))
  rw [hmask, hsplit, List.filterMap_append, List.filterMap_append, hbelow, hin, habove, List.append_nil, List.nil_append]

/-- The words of a field cover its n places, in order. -/
theorem fieldWords_places {fuel n : Nat} {da : DAddr} (hn : n ≤ fuel) (hpos : daPos da < 18) :
    (fieldWords fuel da n).flatMap maskedPlaces = (List.range n).map fun i => placeParts (natPlace da + i) := by
  induction fuel generalizing da n with
  | zero => simp [fieldWords, Nat.le_zero.1 hn]
  | succ fuel ih =>
    by_cases h0 : n = 0
    · simp [fieldWords, h0]
    obtain ⟨m, hm⟩ : ∃ m, m = min n (18 - daPos da) := ⟨_, rfl⟩
    have hrest := ih (n := n - m) (da := daAdd da m) (by omega) (by rw [daPos_daAdd]; omega)
    have hhead : ∀ i ∈ List.range m, (daWord da, daPos da + i) = placeParts (natPlace da + i) := by
      intro i hi
      rw [List.mem_range] at hi
      have := (daWord da).isLt
      refine Prod.ext (BitVec.eq_of_toNat_eq ?_) ?_
      · simp only [placeParts, BitVec.toNat_ofNat, natPlace]
        omega
      · simp only [placeParts, natPlace]
        omega
    rw [fieldWords, if_neg h0, ← hm, List.flatMap_cons, hrest, maskedPlaces_maskOf _ (by omega), List.map_congr_left hhead]
    conv => rhs; rw [show n = m + (n - m) by omega, List.range_add, List.map_append, List.map_map]
    congr 1
    apply List.map_congr_left
    intro i _
    rw [natPlace_daAdd, placeParts_mod]
    simp [Nat.add_assoc]

/-- How many words a field touches (R25). -/
theorem length_fieldWords {fuel n : Nat} {da : DAddr} (hn : n ≤ fuel) (hpos : daPos da < 18) :
    (fieldWords fuel da n).length = if n = 0 then 0 else (daPos da + n + 17) / 18 := by
  induction fuel generalizing da n with
  | zero => simp [fieldWords, Nat.le_zero.1 hn]
  | succ fuel ih =>
    by_cases h0 : n = 0
    · simp [fieldWords, h0]
    obtain ⟨m, hm⟩ : ∃ m, m = min n (18 - daPos da) := ⟨_, rfl⟩
    have hrest := ih (n := n - m) (da := daAdd da m) (by omega) (by rw [daPos_daAdd]; omega)
    rw [fieldWords, if_neg h0, if_neg h0, ← hm, List.length_cons, hrest, daPos_daAdd]
    split <;> omega

/-- Settles O7: the places by the recursion of the words, the count from the first position and the length. -/
theorem fieldsTouchTheirWords : Obligations.FieldsTouchTheirWords := by
  unfold Obligations.FieldsTouchTheirWords
  intro da n hpos
  have hlength := length_fieldWords (Nat.le_refl n) hpos
  refine ⟨fieldWords_places (Nat.le_refl n) hpos, hlength, fun h64 => ?_⟩
  rw [hlength]
  split <;> omega

/-- Settles O59: the machine after reset lists no word of either memory, and nothing waits. -/
theorem resetKeepsTheInvariant : Obligations.ResetKeepsTheInvariant := by
  have hmem : State.reset.mem = [] := rfl
  have hhost : State.reset.hostMem = [] := rfl
  refine ⟨⟨?_, ?_⟩, rfl⟩
  · rw [hmem]
    rfl
  · rw [hhost]
    rfl

end Sys2Proof.Machine
end

section
/-! What translation and the checks of an operand leave unchanged in every core (R62, R243-R245, R268-R283). -/

namespace Sys2Proof.Machine

/-! ## Work that leaves a part of the state as it was -/

section
variable {α β γ : Type}

/-- Work after which, stopped or not, a part `π` of the state is as it was before. -/
def Leaves (π : State → γ) (m : M α) : Prop := ∀ s, π (stateOf m s) = π s

variable {π : State → γ}

theorem Leaves.of_ok {m : M α} (h : Leaves π m) {s t : State} {a : α} (e : m s = .ok a t) : π t = π s := by
  rw [← h s, stateOf, e]

theorem Leaves.pure (a : α) : Leaves π (pure a : M α) := fun _ => rfl
theorem Leaves.raise (i : FaultInfo) : Leaves π (Machine.raise i : M α) := fun _ => rfl
theorem Leaves.get : Leaves π (get : M State) := fun _ => rfl
theorem Leaves.getCore (n : CoreId) : Leaves π (getCore n) := fun _ => rfl
theorem Leaves.upd {f : State → State} (h : ∀ s, π (f s) = π s) : Leaves π (upd f) := h

theorem Leaves.require (c : Bool) (i : FaultInfo) : Leaves π (require c i) := by
  intro s
  rw [stateOf, work_require]
  cases c <;> rfl

theorem Leaves.ite {c : Prop} [Decidable c] {m k : M α} (hm : Leaves π m) (hk : Leaves π k) : Leaves π (if c then m else k) := by
  split <;> assumption

theorem Leaves.bind {m : M α} {f : α → M β} (hm : Leaves π m) (hf : ∀ a, Leaves π (f a)) : Leaves π (m >>= f) := by
  intro s
  have hs := hm s
  unfold stateOf at *
  rw [work_bind]
  cases e : m s with
  | ok a t => rw [e] at hs; exact (hf a t).trans hs
  | error x t => rw [e] at hs; exact hs

theorem Leaves.mapL {f : α → M β} (h : ∀ x, Leaves π (f x)) (l : List α) : Leaves π (mapL f l) := by
  induction l with
  | nil => exact Leaves.pure _
  | cons x r ih => exact Leaves.bind (h x) fun _ => Leaves.bind ih fun _ => Leaves.pure _

theorem Leaves.eachL {f : α → M Unit} (h : ∀ x, Leaves π (f x)) (l : List α) : Leaves π (eachL f l) := by
  induction l with
  | nil => exact Leaves.pure _
  | cons x r ih => exact Leaves.bind (h x) fun _ => ih

end

/-! ## A core beside its translation stores -/

/-- A core with its translation stores, their counts and the charges of deterministic mode blanked. -/
def Core.besideXlate (c : Core) : Core :=
  { c with
    itlb := [], dtlb := [], tlbMiss := 0, walkCnt := 0, conflictCnt := 0, pageRegs := Vector.replicate 3 none, detPend := 0, detVar := 0 }

/-- Core n beside its translation stores. -/
def besideXlateOf (n : CoreId) (s : State) : Core := s.cores[n].besideXlate

variable {n : CoreId}

theorem besideXlateOf_congr {s t : State} (h : t.cores = s.cores) : besideXlateOf n t = besideXlateOf n s := by
  unfold besideXlateOf
  rw [h]

theorem besideXlateOf_updCore (s : State) (m : CoreId) {f : Core → Core} (h : ∀ c, (f c).besideXlate = c.besideXlate) :
    besideXlateOf n (s.updCore m f) = besideXlateOf n s := by
  unfold besideXlateOf
  by_cases hm : n.val = m.val
  · obtain rfl : n = m := Fin.ext hm
    rw [Fin.getElem_fin, State.updCore_core, h]
    rfl
  · rw [Fin.getElem_fin, State.updCore_other s f n.isLt hm]
    rfl

theorem Leaves.modCore_besideXlate (m : CoreId) {f : Core → Core} (h : ∀ c, (f c).besideXlate = c.besideXlate) :
    Leaves (besideXlateOf n) (modCore m f) :=
  Leaves.upd fun s => besideXlateOf_updCore s m h

theorem Core.charge_besideXlate (k : Nat) (c : Core) : (c.charge k).besideXlate = c.besideXlate := by
  unfold Core.charge
  split <;> rfl

theorem Core.depart_besideXlate (c : Core) : c.depart.besideXlate = c.besideXlate := by
  unfold Core.depart
  split <;> rfl

theorem State.raiseBad_cores (s : State) (pa : WAddr) : (s.raiseBad pa).cores = s.cores := by
  unfold State.raiseBad
  split <;> simp

theorem besideXlateOf_setOwnTlb (s : State) (l : List TlbEnt) (x : Xl) : besideXlateOf n (s.setOwnTlb l x) = besideXlateOf n s := by
  cases x with
  | core m i => exact besideXlateOf_updCore s m fun c => by split <;> rfl
  | engine e => rfl
  | job sp tr => rfl

theorem besideXlateOf_dropOlder (s : State) (t : TlbEnt) (x : Xl) : besideXlateOf n (s.dropOlder t x) = besideXlateOf n s := by
  cases x with
  | core m i => exact besideXlateOf_updCore s m fun c => rfl
  | engine e => rfl
  | job sp tr => rfl

/-! ## Translation -/

theorem chargeAccess_besideXlate (m : CoreId) (pa : WAddr) : Leaves (besideXlateOf n) (chargeAccess m pa) := by
  unfold chargeAccess
  refine Leaves.bind (Leaves.getCore m) fun c => Leaves.ite ?_ (Leaves.pure ())
  split
  · exact Leaves.modCore_besideXlate m (Core.charge_besideXlate 48)
  · exact Leaves.bind (fun _ => rfl) fun f => Leaves.modCore_besideXlate m fun c => Core.depart_besideXlate _

theorem countConflict_besideXlate (x : Xl) : Leaves (besideXlateOf n) (countConflict x) := by
  cases x with
  | core m i => exact Leaves.modCore_besideXlate m fun c => rfl
  | engine e => exact Leaves.pure ()
  | job sp tr => exact Leaves.pure ()

theorem markRef_besideXlate (t : TlbEnt) : Leaves (besideXlateOf n) (markRef t) :=
  Leaves.upd fun s => besideXlateOf_congr (by split <;> simp)

theorem dropEnt_besideXlate (x : Xl) (t : TlbEnt) : Leaves (besideXlateOf n) (dropEnt x t) := by
  refine Leaves.upd fun s => ?_
  split
  · exact besideXlateOf_setOwnTlb s _ x
  · exact besideXlateOf_setOwnTlb s _ x

theorem raiseBad_besideXlate (pa : WAddr) : Leaves (besideXlateOf n) (upd fun s => s.raiseBad pa) :=
  Leaves.upd fun s => besideXlateOf_congr (State.raiseBad_cores s pa)

theorem updQuad_besideXlate (q : QuadId) (f : Quad → Quad) : Leaves (besideXlateOf n) (upd fun s => s.updQuad q f) :=
  Leaves.upd fun _ => rfl

theorem walkNormal_besideXlate (x : Xl) (va : WAddr) (preg : BitVec 4) (fa : DAddr) :
    Leaves (besideXlateOf n) (walkNormal x va preg fa) := by
  unfold walkNormal
  with_reducible repeat' (first
    | exact Leaves.pure _ | exact Leaves.raise _ | exact Leaves.get | exact raiseBad_besideXlate _ | exact countConflict_besideXlate x
    | exact updQuad_besideXlate _ _ | apply Leaves.bind | intro _ | dsimp only | split)

theorem takeOwn_besideXlate (x : Xl) (t : TlbEnt) (preg : BitVec 4) (fa : DAddr) : Leaves (besideXlateOf n) (takeOwn x t preg fa) := by
  have hset (l : List TlbEnt) : Leaves (besideXlateOf n) (upd fun s => s.setOwnTlb l x) := Leaves.upd fun s => besideXlateOf_setOwnTlb s l x
  unfold takeOwn
  with_reducible repeat' (first
    | exact Leaves.pure _ | exact Leaves.raise _ | exact Leaves.get | exact hset _ | exact dropEnt_besideXlate x t
    | exact countConflict_besideXlate x | apply Leaves.bind | intro _ | split)

theorem walkAndKeep_besideXlate (x : Xl) (va : WAddr) (preg : BitVec 4) (fa : DAddr) :
    Leaves (besideXlateOf n) (walkAndKeep x va preg fa) := by
  have hcount (m : CoreId) : Leaves (besideXlateOf n) (modCore m fun c => { c with tlbMiss := inc c.tlbMiss, walkCnt := inc c.walkCnt }) :=
    Leaves.modCore_besideXlate m fun _ => rfl
  have holder (t : TlbEnt) : Leaves (besideXlateOf n) (upd fun s => s.dropOlder t x) := Leaves.upd fun s => besideXlateOf_dropOlder s t x
  unfold walkAndKeep
  extract_lets jp
  have hjp : ∀ r, Leaves (besideXlateOf n) (jp r) := by
    intro r
    with_reducible repeat' (first
      | exact Leaves.pure _ | exact Leaves.raise _ | exact Leaves.get | exact walkNormal_besideXlate x va preg fa
      | exact updQuad_besideXlate _ _ | exact countConflict_besideXlate x | exact takeOwn_besideXlate x _ preg fa | exact holder _
      | exact markRef_besideXlate _ | apply Leaves.bind | intro _ | split)
  split
  · exact Leaves.bind (hcount _) fun r => hjp r
  · exact hjp ()

theorem xlateNormal_besideXlate (x : Xl) (va : WAddr) (store : Bool) (preg : BitVec 4) (fa : DAddr) :
    Leaves (besideXlateOf n) (xlateNormal x va store preg fa) := by
  unfold xlateNormal
  with_reducible repeat' (first
    | exact Leaves.pure _ | exact Leaves.get | exact dropEnt_besideXlate x _ | exact takeOwn_besideXlate x _ preg fa
    | exact walkAndKeep_besideXlate x va preg fa | apply Leaves.bind | intro _ | dsimp only | split)

theorem xlateDet_besideXlate (m : CoreId) (i : Fin 3) (va : WAddr) (store : Bool) (preg : BitVec 4) (fa : DAddr) :
    Leaves (besideXlateOf n) (xlateDet m i va store preg fa) := by
  have hcharge : Leaves (besideXlateOf n) (modCore m fun c => ({ c with walkCnt := inc c.walkCnt } : Core).charge 2) :=
    Leaves.modCore_besideXlate m fun c => Core.charge_besideXlate 2 _
  have hentry (t : TlbEnt) (v : State → Word) : Leaves (besideXlateOf n) (upd fun s => s.putEntry t.entry (v s)) :=
    Leaves.upd fun s => besideXlateOf_congr (State.putEntry_cores s _ _)
  have hpage (t : TlbEnt) : Leaves (besideXlateOf n) (modCore m fun c => { c with pageRegs := c.pageRegs.set i (some t) }) :=
    Leaves.modCore_besideXlate m fun _ => rfl
  have holder (t : TlbEnt) : Leaves (besideXlateOf n) (upd fun s => s.dropOlder t (.core m i)) :=
    Leaves.upd fun s => besideXlateOf_dropOlder s t (.core m i)
  unfold xlateDet
  with_reducible repeat' (first
    | exact Leaves.pure _ | exact Leaves.raise _ | exact Leaves.get | exact hcharge | exact hentry _ _ | exact hpage _ | exact holder _
    | exact chargeAccess_besideXlate m _ | exact raiseBad_besideXlate _ | exact countConflict_besideXlate _ | apply Leaves.eachL
    | apply Leaves.bind | intro _ | dsimp only | split)

theorem xlate_besideXlate (x : Xl) (va : WAddr) (store : Bool) (preg : BitVec 4) (fa : DAddr) :
    Leaves (besideXlateOf n) (xlate x va store preg fa) := by
  unfold xlate
  refine Leaves.bind Leaves.get fun s => Leaves.ite (Leaves.pure _) ?_
  cases x with
  | core m i => exact Leaves.ite (xlateDet_besideXlate m i va store preg fa) (xlateNormal_besideXlate _ va store preg fa)
  | engine e => exact xlateNormal_besideXlate _ va store preg fa
  | job sp tr => exact xlateNormal_besideXlate _ va store preg fa

/-! ## The checks of an operand -/

/-- Tests that change nothing. -/
theorem checkEnt_leaves {γ : Type} {π : State → γ} (p : PassReg) (preg : BitVec 4) (a : Acc) (va : WAddr) (mask : BitVec 18) (fa : DAddr)
    (t : TlbEnt) : Leaves π (checkEnt p preg a va mask fa t) := by
  unfold checkEnt
  with_reducible repeat' (first
    | exact Leaves.pure _ | exact Leaves.get | exact Leaves.require _ _ | apply Leaves.bind | intro _ | split)

theorem checkRegion_leaves {γ : Type} {π : State → γ} (x : Xl) (preg : BitVec 4) (a : Acc) (r : WordRef) :
    Leaves π (checkRegion x preg a r) := by
  refine Leaves.bind Leaves.get fun s => ?_
  split
  · exact Leaves.raise _
  · exact Leaves.pure ()

theorem passTests_leaves {γ : Type} {π : State → γ} (p : PassReg) (preg : BitVec 4) (need : BitVec 12) (a : Acc) (da : DAddr)
    (ws : List (WAddr × BitVec 18)) : Leaves π (passTests p preg need a da ws) := by
  refine Leaves.bind (Leaves.require _ _) fun _ => Leaves.bind (Leaves.require _ _) fun _ => Leaves.bind (Leaves.require _ _) fun _ =>
    Leaves.bind (Leaves.require _ _) fun _ => ?_
  split
  · exact Leaves.raise _
  · exact Leaves.pure ()

theorem checkXlate_besideXlate (x : Xl) (p : PassReg) (preg : BitVec 4) (a : Acc) (va : WAddr) (mask : BitVec 18) (fa : DAddr) :
    Leaves (besideXlateOf n) (checkXlate x p preg a va mask fa) :=
  Leaves.bind (xlate_besideXlate x va a.isStore preg fa) fun t => checkEnt_leaves p preg a va mask fa t

theorem operand_besideXlate (m : CoreId) (stream : Fin 3) (pr : PassId) (need : BitVec 12) (a : Acc) (da : DAddr) (len : Nat) :
    Leaves (besideXlateOf n) (operand m stream pr need a da len) :=
  Leaves.bind (Leaves.getCore m) fun _ => Leaves.bind (passTests_leaves _ _ _ _ _ _) fun _ =>
    Leaves.bind (Leaves.mapL (fun _ => checkXlate_besideXlate _ _ _ _ _ _ _) _) fun rs =>
      Leaves.bind (Leaves.eachL (fun r => checkRegion_leaves _ _ _ r) _) fun _ => Leaves.pure rs

/-- The checks of an operand leave the general registers of every core, and its F registers. -/
theorem operandPasses_registers {m : CoreId} {pr : PassId} {need : BitVec 12} {a : Acc} {da : DAddr} {len : Nat} {s t : State} {rs : List WordRef}
    (h : OperandPasses m pr need a da len s rs t) (n : CoreId) : t.cores[n].g = s.cores[n].g ∧ t.cores[n].f = s.cores[n].f := by
  have hbeside : t.cores[n].besideXlate = s.cores[n].besideXlate := (operand_besideXlate m 1 pr need a da len).of_ok h
  have hg := congrArg Core.g hbeside
  have hf := congrArg Core.f hbeside
  exact ⟨hg, hf⟩

end Sys2Proof.Machine
end

section
/-! What sending a packet changes (R450-R461), and what it leaves as it was. -/

namespace Sys2Proof.Machine

/-! ## Event sources -/

theorem State.raise_srcs_other (s : State) {k : Nat} {c : SrcId} (h : c.val ≠ k) : (s.raise k).srcs[c] = s.srcs[c] := by
  unfold State.raise
  split
  · split
    · simp [Ne.symm h]
    · rfl
  · rfl

/-- A source raised in a module with power (R307). -/
theorem State.raise_srcs_same {s : State} {k : Nat} {c : SrcId} (hc : c.val = k) (hp : s.brd.powered = true) :
    (s.raise k).srcs[c] = s.srcs[c].raised := by
  subst hc
  unfold State.raise
  rw [dif_pos c.isLt, if_pos hp]
  simp

/-! ## Sending -/

/-- Nothing differs but what is put on links or handed across, the counts of packets sent, dropped and crossed, LB_EVT, and the two sources
that a drop and a crossing raise. -/
structure SendsOnly (s u : State) : Prop where
  eq : u = { s with
    srcs := u.srcs
    lb := { s.lb with
      out := u.lb.out, links := u.lb.links, txCnt := u.lb.txCnt, dropCnt := u.lb.dropCnt, planeCnt := u.lb.planeCnt, evt := u.lb.evt } }
  srcs : ∀ c : SrcId, c.val ≠ 252 → c.val ≠ 253 → u.srcs[c] = s.srcs[c]

namespace SendsOnly

theorem refl (s : State) : SendsOnly s s := ⟨rfl, fun _ _ _ => rfl⟩

theorem trans {s t u : State} (h : SendsOnly s t) (k : SendsOnly t u) : SendsOnly s u := by
  refine ⟨?_, fun c h1 h2 => (k.srcs c h1 h2).trans (h.srcs c h1 h2)⟩
  have e := congrArg (fun x : State => { x with
    srcs := u.srcs
    lb := { x.lb with
      out := u.lb.out, links := u.lb.links, txCnt := u.lb.txCnt, dropCnt := u.lb.dropCnt, planeCnt := u.lb.planeCnt, evt := u.lb.evt } }) h.eq
  exact k.eq.trans e

variable {s u : State}

theorem mem (h : SendsOnly s u) : u.mem = s.mem := by rw [h.eq]
theorem cores (h : SendsOnly s u) : u.cores = s.cores := by rw [h.eq]
theorem jobs (h : SendsOnly s u) : u.hi = s.hi := by rw [h.eq]
theorem served (h : SendsOnly s u) : u.lb.served = s.lb.served := by rw [h.eq]
theorem rxCnt (h : SendsOnly s u) : u.lb.rxCnt = s.lb.rxCnt := by rw [h.eq]

end SendsOnly

theorem State.raise_sendsOnly (s : State) {k : Nat} (hk : k = 252 ∨ k = 253) : SendsOnly s (s.raise k) := by
  refine ⟨?_, fun c h1 h2 => State.raise_srcs_other s (by omega)⟩
  unfold State.raise
  split
  · split <;> rfl
  · rfl

/-- A bit of LB_EVT that a drop or a crossing sets. -/
theorem State.setLbEvt_sendsOnly (s : State) {k : Nat} (hk : k = 12 ∨ k = 13) : SendsOnly s (s.setLbEvt k) := by
  refine SendsOnly.trans ?_ (State.raise_sendsOnly _ (by omega))
  exact ⟨rfl, fun _ _ _ => rfl⟩

theorem State.sendHeld_sendsOnly (s : State) (l : Fin 8) (k : Nat) : SendsOnly s (s.sendHeld l k) := by
  induction k generalizing s with
  | zero => exact SendsOnly.refl s
  | succ k ih =>
    unfold State.sendHeld
    split
    · exact SendsOnly.refl s
    · refine SendsOnly.trans ?_ (ih _)
      exact ⟨rfl, fun _ _ _ => rfl⟩

theorem State.emit_sendsOnly (s : State) (l : Option (Fin 8)) (p : Packet) : SendsOnly s (s.emit l p) := by
  unfold State.emit
  split
  · exact SendsOnly.refl s
  · cases l with
    | none => exact ⟨rfl, fun _ _ _ => rfl⟩
    | some k =>
      refine SendsOnly.trans ?_ (State.sendHeld_sendsOnly _ _ _)
      exact ⟨rfl, fun _ _ _ => rfl⟩

theorem State.dropPacket_sendsOnly (s : State) : SendsOnly s s.dropPacket := by
  refine SendsOnly.trans ?_ (State.setLbEvt_sendsOnly _ (.inl rfl))
  exact ⟨rfl, fun _ _ _ => rfl⟩

theorem State.route_sendsOnly (s : State) (p : Packet) : SendsOnly s (s.route p) := by
  have hcross (q : Packet) :
      SendsOnly s ((({ s with lb := { s.lb with planeCnt := inc s.lb.planeCnt } } : State).setLbEvt 13).emit none q) := by
    refine SendsOnly.trans ?_ (State.emit_sendsOnly _ _ _)
    refine SendsOnly.trans ?_ (State.setLbEvt_sendsOnly _ (.inr rfl))
    exact ⟨rfl, fun _ _ _ => rfl⟩
  unfold State.route
  split
  · split
    · exact State.emit_sendsOnly _ _ _
    · exact State.dropPacket_sendsOnly _
  · split
    · exact State.emit_sendsOnly _ _ _
    · split
      · exact State.dropPacket_sendsOnly _
      · exact hcross _

/-- A packet issued by this module (R453). -/
theorem State.issue_sendsOnly (s : State) (p : Packet) : SendsOnly s (s.issue p) := by
  refine SendsOnly.trans ?_ (State.route_sendsOnly _ _)
  exact ⟨rfl, fun _ _ _ => rfl⟩

end Sys2Proof.Machine
end

section
/-! The store buffer and memory: what a store does as it leaves (R28, R337), and what a list of masked stores leaves (R16, R28). -/

namespace Sys2Proof.Machine

/-! ## Masked stores in order -/

/-- Masked stores made in order. -/
def State.putAll (s : State) (l : List (WAddr × BitVec 18 × Word)) : State := l.foldl (fun s x => s.putMasked x.1 x.2.1 x.2.2) s

/-- What a masked store leaves of the data of a word (R28), unless it covers a part of an uncorrectable one. -/
theorem State.data_putMasked {s : State} (h : s.Inv) {pa : WAddr} {m : BitVec 18} (hbad : (s.cell pa).bad = true → m = maskAll) (v : Word)
    (a : WAddr) : (s.putMasked pa m v).data a = if a = pa then merge m v (s.data pa) else s.data a := by
  have hwhole : ((s.cell pa).bad && m != maskAll) = false := by
    cases hb : (s.cell pa).bad
    · rfl
    · simp [hbad hb]
  unfold State.data
  rw [State.cell_putMasked h, hwhole]
  split
  · rfl
  · split <;> rfl

/-- A masked store clears the tags of its pair (R16). -/
theorem State.tag_putMasked {s : State} (h : s.Inv) (pa : WAddr) (m : BitVec 18) (v : Word) (a : WAddr) :
    ((s.putMasked pa m v).cell a).tag = ((s.cell a).tag && (a != pa && a != pairWord pa)) := by
  rw [State.cell_putMasked h]
  by_cases ha : a = pa
  · rw [if_pos ha]
    split <;> simp [ha]
  · rw [if_neg ha]
    split <;> simp_all

/-- A masked store makes no word uncorrectable. -/
theorem State.bad_of_putMasked {s : State} (h : s.Inv) {pa : WAddr} {m : BitVec 18} {v : Word} {a : WAddr}
    (hb : ((s.putMasked pa m v).cell a).bad = true) : (s.cell a).bad = true := by
  rw [State.cell_putMasked h] at hb
  split at hb
  · next ha =>
    subst ha
    split at hb
    · exact hb
    · exact absurd hb (by simp)
  · split at hb <;> exact hb

/-- Distinct words, none of them uncorrectable where only a part is stored. -/
def State.takesAll (s : State) (l : List (WAddr × BitVec 18 × Word)) : Prop :=
  s.Inv ∧ (l.map fun x => x.1).Nodup ∧ ∀ x ∈ l, (s.cell x.1).bad = true → x.2.1 = maskAll

theorem State.takesAll.tail {s : State} {x : WAddr × BitVec 18 × Word} {l : List (WAddr × BitVec 18 × Word)} (h : s.takesAll (x :: l)) :
    (s.putMasked x.1 x.2.1 x.2.2).takesAll l := by
  obtain ⟨hinv, hnodup, hbad⟩ := h
  exact ⟨hinv.putMasked _ _ _, (List.nodup_cons.1 hnodup).2, fun y hy hb => hbad y (List.mem_cons_of_mem x hy) (State.bad_of_putMasked hinv hb)⟩

/-- Words that no store of a list names keep their data. -/
theorem State.data_putAll_other {s : State} {l : List (WAddr × BitVec 18 × Word)} (h : s.takesAll l) {a : WAddr} (ha : ∀ x ∈ l, a ≠ x.1) :
    (s.putAll l).data a = s.data a := by
  induction l generalizing s with
  | nil => rfl
  | cons x l ih =>
    rw [List.forall_mem_cons] at ha
    show ((s.putMasked x.1 x.2.1 x.2.2).putAll l).data a = _
    rw [ih h.tail ha.2, State.data_putMasked h.1 (h.2.2 x List.mem_cons_self), if_neg ha.1]

/-- Each word of a list of stores takes its new data under its mask. -/
theorem State.data_putAll_mem {s : State} {l : List (WAddr × BitVec 18 × Word)} (h : s.takesAll l) {x : WAddr × BitVec 18 × Word} (hx : x ∈ l) :
    (s.putAll l).data x.1 = merge x.2.1 x.2.2 (s.data x.1) := by
  induction l generalizing s with
  | nil => exact absurd hx List.not_mem_nil
  | cons y l ih =>
    have hhead := State.data_putMasked h.1 (h.2.2 y List.mem_cons_self) y.2.2 x.1
    have hy : ∀ z ∈ l, y.1 ≠ z.1 := fun z hz he => (List.nodup_cons.1 h.2.1).1 (List.mem_map.2 ⟨z, hz, he.symm⟩)
    show ((s.putMasked y.1 y.2.1 y.2.2).putAll l).data x.1 = _
    rcases List.mem_cons.1 hx with rfl | hx
    · rw [State.data_putAll_other h.tail hy, hhead, if_pos rfl]
    · rw [ih h.tail hx, hhead, if_neg (hy x hx).symm]

/-- The tags that a list of stores leaves (R16). -/
theorem State.tag_putAll {s : State} {l : List (WAddr × BitVec 18 × Word)} (h : s.takesAll l) (a : WAddr) :
    ((s.putAll l).cell a).tag = ((s.cell a).tag && l.all fun x => a != x.1 && a != pairWord x.1) := by
  induction l generalizing s with
  | nil => simp [State.putAll]
  | cons x l ih =>
    show (((s.putMasked x.1 x.2.1 x.2.2).putAll l).cell a).tag = _
    rw [ih h.tail, State.tag_putMasked h.1, List.all_cons, Bool.and_assoc]

/-! ## Memory as a function of memory -/

theorem State.cell_congr {s t : State} (h : t.mem = s.mem) (pa : WAddr) : t.cell pa = s.cell pa := by
  unfold State.cell
  rw [h]

theorem State.putMasked_mem_congr {s t : State} (h : t.mem = s.mem) (pa : WAddr) (m : BitVec 18) (v : Word) :
    (t.putMasked pa m v).mem = (s.putMasked pa m v).mem := by
  unfold State.putMasked State.putCell State.cell
  dsimp only
  rw [h]

theorem State.putPass_mem_congr {s t : State} (h : t.mem = s.mem) (pa : WAddr) (p : PassReg) : (t.putPass pa p).mem = (s.putPass pa p).mem := by
  simp only [State.putPass, State.putCell, h]

/-! ## A store that leaves the buffer -/

/-- Memory and the store buffer of core n are the same. -/
def SameStores (n : CoreId) (s t : State) : Prop := t.mem = s.mem ∧ t.cores[n].storeBuf = s.cores[n].storeBuf

namespace SameStores

variable {n : CoreId} {s t u : State}

theorem refl (s : State) : SameStores n s s := ⟨rfl, rfl⟩

theorem trans (h : SameStores n s t) (k : SameStores n t u) : SameStores n s u := ⟨k.1.trans h.1, k.2.trans h.2⟩

theorem of_eq (hm : t.mem = s.mem) (hc : t.cores = s.cores) : SameStores n s t := ⟨hm, by rw [hc]⟩

end SameStores

variable {n : CoreId}

theorem SendsOnly.sameStores {s u : State} (h : SendsOnly s u) : SameStores n s u := .of_eq h.mem h.cores

theorem State.updCore_sameStores (s : State) (f : Core → Core) (h : ∀ c, (f c).storeBuf = c.storeBuf) : SameStores n s (s.updCore n f) :=
  ⟨rfl, by rw [Fin.getElem_fin, State.updCore_core, h]; rfl⟩

theorem State.raise_sameStores (s : State) (k : Nat) : SameStores n s (s.raise k) := .of_eq (State.raise_mem s k) (State.raise_cores s k)

theorem State.raiseBad_sameStores (s : State) (pa : WAddr) : SameStores n s (s.raiseBad pa) := by
  unfold State.raiseBad
  split
  · exact State.raise_sameStores s _
  · exact State.raise_sameStores s _
  · exact SameStores.refl s

theorem State.setLbEvt_sameStores (s : State) (k : Nat) : SameStores n s (s.setLbEvt k) :=
  .of_eq (State.raise_mem _ _) (State.raise_cores _ _)

theorem State.lateStore_sameStores (s : State) (cause : BitVec 8) (pa : WAddr) : SameStores n s (s.lateStore n cause pa) := by
  refine SameStores.trans (State.updCore_sameStores s _ fun c => ?_) (State.raise_sameStores _ _)
  dsimp only
  split <;> rfl

theorem State.touchLine_sameStores (s : State) (pa : WAddr) : SameStores n s (s.touchLine n pa) := by
  unfold State.touchLine
  dsimp only
  split
  · exact SameStores.refl s
  · exact SameStores.trans ⟨rfl, rfl⟩ (State.updCore_sameStores _ _ fun c => rfl)

theorem State.storeWindow_sameStores (s : State) (pa : WAddr) (m : BitVec 18) (v : Word) : SameStores n s (s.storeWindow pa m v) := by
  unfold State.storeWindow
  split
  · unfold State.putAptWord State.putHostPadded
    split <;> exact .of_eq (State.putHostOctets_mem _ _ _) (State.putHostOctets_cores _ _ _)
  · exact SameStores.refl s

theorem State.request_sameStores (s : State) (p : Packet) (f : ReqFor) : SameStores n s (s.request p f) := by
  refine SameStores.trans ?_ (State.issue_sendsOnly _ _).sameStores
  exact ⟨rfl, rfl⟩

theorem State.sendStore_sameStores (s : State) (pa : WAddr) (m : BitVec 18) (v : Word) (f : ReqFor) :
    SameStores n s (s.sendStore pa m v f) := by
  unfold State.sendStore
  split
  · split
    · exact State.request_sameStores s _ f
    · exact SameStores.refl s
  · exact State.request_sameStores s _ f

theorem State.storeRemote_sameStores (s : State) (pa : WAddr) (m : BitVec 18) (v : Word) : SameStores n s (s.storeRemote n pa m v) := by
  unfold State.storeRemote
  extract_lets line t
  have ht : SameStores n s t := ⟨rfl, rfl⟩
  split
  · exact ht.trans (State.lateStore_sameStores t 1 pa)
  · refine (ht.trans ?_).trans (State.lateStore_sameStores _ 3 pa)
    refine SameStores.trans ?_ (State.setLbEvt_sameStores _ 11)
    exact ⟨rfl, rfl⟩
  · exact ht.trans (State.sendStore_sameStores t pa m v _)

theorem regionOf_of_isLocalMem {pa : WAddr} (h : isLocalMem pa = true) : regionOf pa = .basin ∨ regionOf pa = .plain := by
  unfold isLocalMem at h
  split at h <;> simp_all

/-- Whether a word is of the local Plain or Basin regions. -/
def inLocalRegion (pa : WAddr) : Bool := regionOf pa == .basin || regionOf pa == .plain

theorem inLocalRegion_of_isLocalMem {pa : WAddr} (h : isLocalMem pa = true) : inLocalRegion pa = true := by
  rcases regionOf_of_isLocalMem h with hr | hr <;> simp [inLocalRegion, hr]

/-- What a buffered store does to memory. -/
def SbEnt.writeTo (e : SbEnt) (s : State) : State :=
  match e.pass with
  | some (w1, v) => s.putPass e.pa { w0 := e.data, w1 := w1, valid := v }
  | none => if inLocalRegion e.pa then s.putMasked e.pa e.mask e.data else s

theorem SbEnt.writeTo_cores (e : SbEnt) (s : State) : (e.writeTo s).cores = s.cores := by
  unfold SbEnt.writeTo
  split
  · simp
  · split <;> simp

theorem SbEnt.writeTo_mem_congr (e : SbEnt) {s t : State} (h : t.mem = s.mem) : (e.writeTo t).mem = (e.writeTo s).mem := by
  unfold SbEnt.writeTo
  split
  · exact State.putPass_mem_congr h _ _
  · split
    · exact State.putMasked_mem_congr h _ _ _
    · exact h

theorem SbEnt.writeTo_sameStores (e : SbEnt) {s t : State} (h : SameStores n s t) : SameStores n (e.writeTo s) (e.writeTo t) :=
  ⟨e.writeTo_mem_congr h.1, by rw [e.writeTo_cores, e.writeTo_cores, h.2]⟩

/-- A store that leaves the pipeline changes memory as its region gives, and no store buffer. -/
theorem State.performStore_sameStores (s : State) (e : SbEnt) : SameStores n (e.writeTo s) (s.performStore n e) := by
  have hwrite := e.writeTo_sameStores (State.touchLine_sameStores (n := n) s e.pa)
  unfold SbEnt.writeTo inLocalRegion at *
  unfold State.performStore
  cases hp : e.pass with
  | some x => simpa only [hp] using hwrite
  | none =>
    simp only [hp] at hwrite ⊢
    cases hr : regionOf e.pa <;> simp only [hr] at hwrite ⊢
    case basin | plain =>
      refine SameStores.trans (t := (s.touchLine n e.pa).putMasked e.pa e.mask e.data) hwrite ?_
      split
      · exact (State.raiseBad_sameStores _ _).trans (State.lateStore_sameStores _ _ _)
      · exact SameStores.refl _
    case window => exact (State.storeWindow_sameStores s _ _ _).trans (State.updCore_sameStores _ _ fun c => rfl)
    all_goals exact State.storeRemote_sameStores s _ _ _

/-! ## Draining -/

/-- The memory that a list of stores leaves as they leave the buffer in order. -/
def State.written (s : State) (l : List SbEnt) : State := l.foldl (fun u e => e.writeTo u) s

theorem State.written_mem_congr {s t : State} (h : t.mem = s.mem) (l : List SbEnt) : (t.written l).mem = (s.written l).mem := by
  induction l generalizing s t with
  | nil => exact h
  | cons e l ih => exact ih (e.writeTo_mem_congr h)

theorem State.written_append (s : State) (l k : List SbEnt) : s.written (l ++ k) = (s.written l).written k := List.foldl_append

theorem State.drainN_mem {s : State} {l : List SbEnt} (h : s.cores[n].storeBuf = l) : (s.drainN n l.length).mem = (s.written l).mem := by
  induction l generalizing s with
  | nil => rfl
  | cons e l ih =>
    obtain ⟨t, ht⟩ : ∃ t, t = s.updCore n fun c => { c with storeBuf := l } := ⟨_, rfl⟩
    have hone : s.drainOne n = t.performStore n e := by
      unfold State.drainOne
      rw [h, ht]
    have hbuf : t.cores[n].storeBuf = l := by rw [ht, Fin.getElem_fin, State.updCore_core]
    have hperf := State.performStore_sameStores (n := n) t e
    have hmem : (t.performStore n e).mem = (e.writeTo s).mem := hperf.1.trans (e.writeTo_mem_congr (by rw [ht, State.updCore_mem]))
    show ((s.drainOne n).drainN n l.length).mem = ((e.writeTo s).written l).mem
    rw [hone, ih (hperf.2.trans (by rw [e.writeTo_cores, hbuf]))]
    exact State.written_mem_congr hmem l

/-- Memory once the buffer has drained is what its stores make of the memory. -/
theorem State.drainAll_mem (s : State) (n : CoreId) : (s.drainAll n).mem = (s.written s.cores[n].storeBuf).mem := State.drainN_mem rfl

/-- Stores added at the end of the buffer are made after all that it held. -/
theorem State.drainAll_mem_append {t u : State} {l : List SbEnt} (hmem : u.mem = t.mem)
    (hbuf : u.cores[n].storeBuf = t.cores[n].storeBuf ++ l) : (u.drainAll n).mem = ((t.drainAll n).written l).mem := by
  rw [State.drainAll_mem, hbuf, State.written_append]
  exact State.written_mem_congr ((State.written_mem_congr hmem _).trans (State.drainAll_mem t n).symm) l

end Sys2Proof.Machine
end

section
/-! Stores of local words (R28, R61-R63, R67): the words enter the store buffer, and stand in memory once it has drained (log 7). -/

namespace Sys2Proof.Machine

/-! ## Entering the buffer -/

/-- The buffer entry of a checked word. -/
def WordRef.entry (r : WordRef) (v : Word) : SbEnt := { pa := r.pa, mask := r.mask, data := v, pass := none }

/-- A core with stores of checked words added to its buffer. -/
def Core.buffering (c : Core) (l : List (WordRef × Word)) : Core := { c with storeBuf := c.storeBuf ++ l.map fun x => x.1.entry x.2 }

variable {n : CoreId}

theorem chargeAccess_off {s : State} (h : s.cores[n].det = false) (pa : WAddr) : chargeAccess n pa s = .ok () s := by
  unfold chargeAccess
  rw [work_bind_ok (work_getCore n s), if_neg (by rw [Bool.not_eq_true]; exact h)]
  rfl

theorem markChg_done {x : Xl} {t : TlbEnt} (h : t.chg = true) (s : State) : markChg x t s = .ok () s := by
  unfold markChg
  rw [if_pos h]
  rfl

theorem eachL_markChg_done {x : Xl} {rs : List WordRef} (h : ∀ r ∈ rs, r.ent.chg = true) (s : State) :
    eachL (fun r => markChg x r.ent) rs s = .ok () s := by
  induction rs with
  | nil => rfl
  | cons r rs ih =>
    rw [List.forall_mem_cons] at h
    rw [eachL, work_bind_ok (markChg_done h.1 s), ih h.2]

/-- A store that finds room enters the buffer, outside deterministic mode (R337). -/
theorem State.bufferStore_of_room {s : State} {e : SbEnt} (hdet : s.cores[n].det = false) (hroom : s.cores[n].bufferUsed + e.entries ≤ 32) :
    s.bufferStore n e = s.updCore n fun c => { c with storeBuf := c.storeBuf ++ [e] } := by
  unfold State.bufferStore
  rw [if_neg (by rw [Bool.not_eq_true]; exact hdet)]
  dsimp only
  rw [if_pos hroom]

theorem putRef_buffering {s : State} {r : WordRef} (hdet : s.cores[n].det = false) (hroom : s.cores[n].bufferUsed + 1 ≤ 32) (v : Word) :
    putRef n r v s = .ok () (s.updCore n fun c => c.buffering [(r, v)]) := by
  unfold putRef
  rw [work_bind_ok (chargeAccess_off hdet r.pa), work_upd]
  exact congrArg (EStateM.Result.ok ()) (State.bufferStore_of_room (e := r.entry v) hdet hroom)

theorem State.updCore_self {s : State} {f : Core → Core} (h : f s.cores[n] = s.cores[n]) : s.updCore n f = s := by
  unfold State.updCore
  rw [h, Fin.getElem_fin, Vector.set_getElem_self]

theorem Core.bufferUsed_buffering_one (c : Core) (x : WordRef × Word) : (c.buffering [x]).bufferUsed = c.bufferUsed + 1 := by
  simp [Core.buffering, Core.bufferUsed, SbEnt.entries, WordRef.entry]

theorem eachL_putRef_buffering {s : State} {l : List (WordRef × Word)} (hdet : s.cores[n].det = false)
    (hroom : s.cores[n].bufferUsed + l.length ≤ 32) :
    eachL (fun x => putRef n x.1 x.2) l s = .ok () (s.updCore n fun c => c.buffering l) := by
  induction l generalizing s with
  | nil => rw [State.updCore_self (by simp [Core.buffering])]; rfl
  | cons x l ih =>
    rw [List.length_cons] at hroom
    obtain ⟨t, ht⟩ : ∃ t, t = s.updCore n fun c => c.buffering [x] := ⟨_, rfl⟩
    have hcore : t.cores[n] = s.cores[n].buffering [x] := by rw [ht, Fin.getElem_fin, State.updCore_core]; rfl
    rw [eachL, work_bind_ok (putRef_buffering hdet (by omega) x.2), ← ht,
      ih (by rw [hcore]; exact hdet) (by rw [hcore, Core.bufferUsed_buffering_one]; omega), ht, State.updCore_updCore]
    simp [Core.buffering]

theorem length_scatterPos (rs : List WordRef) (l : List (BitVec 4)) : (scatterPos rs l).length = rs.length := by
  induction rs generalizing l with
  | nil => rfl
  | cons r rs ih => simp [scatterPos, ih]

/-- The words of an operand with what is stored in them. -/
def storedWords (rs : List WordRef) (l : List (BitVec 4)) : List (WordRef × Word) := rs.zip (scatterPos rs l)

theorem storedWords_fst (rs : List WordRef) (l : List (BitVec 4)) : (storedWords rs l).map Prod.fst = rs :=
  List.map_fst_zip (Nat.le_of_eq (length_scatterPos rs l).symm)

theorem mem_of_mem_storedWords {rs : List WordRef} {l : List (BitVec 4)} {x : WordRef × Word} (h : x ∈ storedWords rs l) : x.1 ∈ rs :=
  (List.of_mem_zip (a := x.1) (b := x.2) h).1

theorem storeField_buffering {t : State} {rs : List WordRef} (h : t.storable n rs) (l : List (BitVec 4)) :
    storeField n 1 rs l t = .ok () (t.updCore n fun c => c.buffering (storedWords rs l)) := by
  obtain ⟨-, hdet, -, hroom, hlocal⟩ := h
  unfold storeField
  rw [work_bind_ok (eachL_markChg_done (fun r hr => (hlocal r hr).2.2) t)]
  refine eachL_putRef_buffering hdet ?_
  rw [List.length_zip, length_scatterPos, Nat.min_self]
  exact hroom

theorem regionOf_ne_device {pa : WAddr} (h : isLocalMem pa = true) : (regionOf pa == .device) = false := by
  rcases regionOf_of_isLocalMem h with hr | hr <;> simp [hr]

theorem storeWords_buffering {t : State} {rs : List WordRef} (h : t.storable n rs) (k : Nat) (v : Word) :
    storeWords n rs k v t = .ok .seq (t.updCore n fun c => c.buffering (storedWords rs (posOfNat k v.toNat))) := by
  have hfield := storeField_buffering h (posOfNat k v.toNat)
  unfold storeWords
  split
  · next r =>
    obtain ⟨-, -, -, -, hlocal⟩ := h
    rw [if_neg (by rw [regionOf_ne_device (hlocal r List.mem_cons_self).1]; exact Bool.false_ne_true), work_bind_ok hfield]
    rfl
  · rw [work_bind_ok hfield]
    rfl

/-- A store body whose address and operand pass their checks. -/
theorem storeBody_buffering {s t : State} {f : FmtM} {a : Acc} {k : Nat} {v : Core → Word} {rs : List WordRef} (h : t.storable n rs)
    (haddr : isDigitAddr (s.cores[n].gr f.rb)) (halign : k = 2 → daPos (s.cores[n].ea f) % 2 = 0)
    (hop : OperandPasses n f.pr permStore a (s.cores[n].ea f) k s rs t) :
    storeBody n f a k v s = .ok .seq (t.updCore n fun c => c.buffering (storedWords rs (posOfNat k (v t.cores[n]).toNat))) := by
  have hea : mEA n f s = .ok (s.cores[n].ea f) s := by
    unfold mEA formEA
    rw [work_bind_ok (work_gr n f.rb s)]
    exact work_bind_ok (regAddr_ok haddr s)
  have hbody : (do
      let rs ← operand n 1 f.pr permStore a (s.cores[n].ea f) k
      let c ← getCore n
      storeWords n rs k (v c) : M Next) s = .ok .seq (t.updCore n fun c => c.buffering (storedWords rs (posOfNat k (v t.cores[n]).toNat))) := by
    rw [work_bind_ok hop, work_bind_ok (work_getCore n t)]
    exact storeWords_buffering h k _
  unfold storeBody
  rw [work_bind_ok hea]
  by_cases hk : k = 2
  · have hal : aligned (daPos (s.cores[n].ea f) % 2 == 0) clsOctetAlign (s.cores[n].ea f) s = .ok () s := by
      unfold aligned
      rw [work_require, if_pos (by rw [beq_iff_eq]; exact halign hk)]
    rw [if_pos hk, work_bind_ok hal]
    exact hbody
  · rw [if_neg hk]
    exact hbody

/-! ## The state once the buffer has drained -/

/-- Stores of local words, as they leave the buffer, are masked stores. -/
theorem State.written_entries (s : State) {l : List (WordRef × Word)} (h : ∀ x ∈ l, isLocalMem x.1.pa = true) :
    s.written (l.map fun x => x.1.entry x.2) = s.putAll (l.map fun x => (x.1.pa, x.1.mask, x.2)) := by
  induction l generalizing s with
  | nil => rfl
  | cons x l ih =>
    rw [List.forall_mem_cons] at h
    have hx : (x.1.entry x.2).writeTo s = s.putMasked x.1.pa x.1.mask x.2 := if_pos (inLocalRegion_of_isLocalMem h.1)
    show ((x.1.entry x.2).writeTo s).written _ = (s.putMasked x.1.pa x.1.mask x.2).putAll _
    rw [hx, ih _ h.2]

/-- Words stored through the buffer stand in memory once it has drained (R16, R28, R337). -/
theorem storedTo_of_buffering {t u : State} {rs : List WordRef} (h : t.storable n rs) (l : List (BitVec 4)) (hmem : u.mem = t.mem)
    (hbuf : u.cores[n].storeBuf = (t.cores[n].buffering (storedWords rs l)).storeBuf) : StoredTo n t u rs (scatterPos rs l) := by
  obtain ⟨hinv, -, hnodup, -, hlocal⟩ := h
  obtain ⟨d, hd⟩ : ∃ d, d = t.drainAll n := ⟨_, rfl⟩
  have hbad : ∀ r ∈ rs, (d.cell r.pa).bad = false := fun r hr => hd ▸ (hlocal r hr).2.1
  have hwords (x) (hx : x ∈ storedWords rs l) : x.1 ∈ rs := mem_of_mem_storedWords hx
  have hdrain (pa : WAddr) :
      u.drainedCell n pa = (d.putAll ((storedWords rs l).map fun x => (x.1.pa, x.1.mask, x.2))).cell pa := by
    rw [← State.written_entries d fun x hx => (hlocal x.1 (hwords x hx)).1, hd]
    exact State.cell_congr (State.drainAll_mem_append hmem hbuf) pa
  have htakes : d.takesAll ((storedWords rs l).map fun x => (x.1.pa, x.1.mask, x.2)) := by
    refine ⟨hd ▸ (State.drainAll_kept n (Kept.refl t)).2 hinv, ?_, ?_⟩
    · rw [List.map_map]
      have : (storedWords rs l).map (fun x => x.1.pa) = rs.map fun r => r.pa := by
        rw [← storedWords_fst rs l, List.map_map, storedWords_fst rs l]
        rfl
      exact this ▸ hnodup
    · intro y hy hb
      obtain ⟨x, hx, rfl⟩ := List.mem_map.1 hy
      exact absurd hb (by simp [hbad x.1 (hwords x hx)])
  refine ⟨fun x hx => ?_, fun pa hpa => ?_, fun pa => ?_⟩
  · rw [hdrain, State.drainedCell, ← hd]
    exact State.data_putAll_mem htakes (List.mem_map_of_mem (f := fun x : WordRef × Word => (x.1.pa, x.1.mask, x.2)) hx)
  · rw [hdrain, State.drainedCell, ← hd]
    refine State.data_putAll_other htakes fun y hy => ?_
    obtain ⟨x, hx, rfl⟩ := List.mem_map.1 hy
    exact hpa x.1 (hwords x hx)
  · rw [hdrain, State.drainedCell, ← hd, State.tag_putAll htakes, List.all_map]
    conv => rhs; rw [← storedWords_fst rs l, List.all_map]
    rfl

/-! ## The instructions -/

/-- What a core that buffered stores leaves once its instruction has retired. -/
theorem Core.buffering_retire (c : Core) (l : List (WordRef × Word)) (sh : Shape) (a : BitVec 64) (v : BitVec 32) :
    let d := ((c.buffering l).retire sh .seq).settledAt a v
    d = { c.bookkept d with storeBuf := d.storeBuf } ∧ d.storeBuf = (c.buffering l).storeBuf ∧ (sh.slots = 1 → c.WentOn d 1) := by
  have hbuf : ((c.buffering l).retire sh .seq).storeBuf = (c.buffering l).storeBuf := by simp [Core.retire]
  have hbook := congrArg (fun x : Core => x.settledAt a v) (Core.retire_bookkept (c.buffering l) sh .seq)
  refine ⟨hbook.trans ?_, hbuf, fun hs => ⟨?_, ?_⟩⟩
  · show _ = { c.bookkept _ with storeBuf := ((c.buffering l).retire sh .seq).storeBuf }
    rw [hbuf]
    rfl
  · show ((c.buffering l).retire sh .seq).pc = _
    rw [Core.retire_seq_pc, hs]
    rfl
  · exact Core.retire_seq_retired (c.buffering l) sh

/-- A store instruction whose operand passes its checks. -/
theorem store_completes {i : Instr} {s t : State} {f : FmtM} {sh : Shape} {a : Acc} {k x : Nat} {v : Core → Word} {rs : List WordRef}
    (hslots : sh.slots = 1) (hexec : exec i s = .next (s.runIns n sh (storeBody n f a k v))) (h : t.storable n rs)
    (hruns : s.runs n sh = true) (haddr : isDigitAddr ((s.core n sh).gr f.rb)) (halign : k = 2 → daPos ((s.core n sh).ea f) % 2 = 0)
    (hop : OperandPasses n f.pr permStore a ((s.core n sh).ea f) k (s.fetched n sh) rs t) (hv : (v t.cores[n]).toNat = x) :
    ∃ u, exec i s = .next u ∧ OnlyBuffered n t u ∧ t.cores[n].WentOn u.cores[n] 1 ∧ StoredTo n t u rs (scatterPos rs (posOfNat k x)) := by
  obtain ⟨honly, b, w, hcore⟩ := runIns_updCore hruns (storeBody_buffering h haddr halign hop)
  obtain ⟨hkeep, hbuf, hwent⟩ := Core.buffering_retire t.cores[n] (storedWords rs (posOfNat k (v t.cores[n]).toNat)) sh b w
  generalize s.runIns n sh (storeBody n f a k v) = u at *
  have hcore : u.cores[n] = _ := hcore
  subst hv
  refine ⟨u, hexec, ⟨honly, ?_⟩, ?_, storedTo_of_buffering h _ (by rw [honly]) ?_⟩
  · rw [hcore]
    exact hkeep
  · rw [hcore]
    exact hwent hslots
  · rw [hcore]
    exact hbuf

/-- Settles O9: a store of the four puts its positions in the store buffer, and the drained buffer writes them at EA. -/
theorem storesWriteTheirPositions : Obligations.StoresWriteTheirPositions := by
  unfold Obligations.StoresWriteTheirPositions
  intro s t n f rs
  refine ⟨fun h hruns haddr => ?_, fun h hruns haddr hop => ?_⟩
  · have hval {a : Acc} {k : Nat} (hop : OperandPasses n f.pr permStore a ((s.core n (shapeM f)).ea f) k (s.fetched n (shapeM f)) rs t) :
        (t.cores[n].gr f.rt).toNat = ((s.core n (shapeM f)).gr f.rt).toNat :=
      congrArg BitVec.toNat (Core.gr_congr (operandPasses_registers hop n).1 f.rt)
    refine ⟨fun hop => ?_, fun heven hop => ?_, fun hop => ?_⟩
    · exact store_completes rfl rfl h hruns haddr (fun hk => absurd hk (by decide)) hop (hval hop)
    · exact store_completes rfl rfl h hruns haddr (fun _ => heven) hop (hval hop)
    · exact store_completes rfl rfl h hruns haddr (fun hk => absurd hk (by decide)) hop (hval hop)
  · have hval : ((t.cores[n].fr f.rt).setWidth 72).toNat = ((s.core n (shapeMF f)).fr f.rt).toNat := by
      have hf : t.cores[n].f = (s.core n (shapeMF f)).f := (operandPasses_registers hop n).2
      rw [BitVec.toNat_setWidth, Core.fr, Core.fr, hf]
      omega
    exact store_completes rfl rfl h hruns haddr (fun hk => absurd hk (by decide)) hop hval

end Sys2Proof.Machine
end

section
/-! The module as a target of the fabric (R454-R459): what it keeps for each source, and how it answers. -/

namespace Sys2Proof.Machine

/-! ## What a target keeps for a source (R459) -/

theorem State.servedFor_congr {s u : State} (h : u.lb.served = s.lb.served) (pair : PairId) (side ev : Bool) :
    u.servedFor pair side ev = s.servedFor pair side ev := by
  unfold State.servedFor
  rw [h]

/-- The entry of a source stands under its own keys. -/
theorem State.servedFor_keys (s : State) (pair : PairId) (side ev : Bool) :
    (s.servedFor pair side ev).pair = pair ∧ (s.servedFor pair side ev).side = side ∧ (s.servedFor pair side ev).events = ev := by
  unfold State.servedFor
  cases h : s.lb.served.find? fun x => x.pair == pair && x.side == side && x.events == ev with
  | none => exact ⟨rfl, rfl, rfl⟩
  | some x =>
    have hx := List.find?_some h
    simp only [Bool.and_eq_true, beq_iff_eq] at hx
    exact ⟨hx.1.1, hx.1.2, hx.2⟩

/-- An entry reads as it was set. -/
theorem State.servedFor_setServed (s : State) {v : Served} {pair : PairId} {side ev : Bool} (hp : v.pair = pair) (hs : v.side = side)
    (he : v.events = ev) : (s.setServed v).servedFor pair side ev = v := by
  subst hp hs he
  simp [State.servedFor, State.setServed]

/-! ## Requests in order -/

theorem State.here_iff {s : State} {p : Packet} {type : BitVec 4} : s.here p type = true ↔ s.delivers p type := by
  simp [State.here, State.delivers, packetIntact, and_assoc]

theorem not_here {s : State} {p : Packet} {type : BitVec 4} (h : ¬s.delivers p type) : (!s.here p type) = true := by
  rwa [Bool.not_eq_true', Bool.eq_false_iff, Ne, State.here_iff]

theorem not_not_here {s : State} {p : Packet} {type : BitVec 4} (h : s.delivers p type) : ¬(!s.here p type) = true := by
  rw [State.here_iff.2 h]
  exact Bool.false_ne_true

/-- A request under the expected number is served. -/
theorem State.inOrder_serves {s : State} {p : Packet} {ev : Bool} (h : p.eseq = (s.servedFor p.spair p.sside ev).expected)
    (serve : State → State) : s.inOrder p ev serve = serve s := by
  unfold State.inOrder
  exact if_pos (beq_iff_eq.2 h)

/-- A request served before is answered from its held response. -/
theorem State.inOrder_held {s : State} {p : Packet} {ev : Bool} (h : ¬p.eseq = (s.servedFor p.spair p.sside ev).expected)
    {x : BitVec 16 × Packet} (hx : (s.servedFor p.spair p.sside ev).held.find? (fun h => h.1 == p.eseq) = some x) (serve : State → State) :
    s.inOrder p ev serve = s.received.issue x.2 := by
  unfold State.inOrder
  refine (if_neg fun he => h (beq_iff_eq.1 he)).trans ?_
  rw [hx]

/-- Any other request is dropped. -/
theorem State.inOrder_dropped {s : State} {p : Packet} {ev : Bool} (h : ¬p.eseq = (s.servedFor p.spair p.sside ev).expected)
    (hx : (s.servedFor p.spair p.sside ev).held.find? (fun h => h.1 == p.eseq) = none) (serve : State → State) :
    s.inOrder p ev serve = s.dropPacket := by
  unfold State.inOrder
  refine (if_neg fun he => h (beq_iff_eq.1 he)).trans ?_
  rw [hx]

theorem State.dropPacket_lb (s : State) : s.dropPacket.lb = { s.lb with dropCnt := s.lb.dropCnt + 1, evt := setBit s.lb.evt 12 true } :=
  State.raise_lb _ _

/-! ## Replies -/

theorem mem_lastN_append {α : Type} {k : Nat} (hk : 0 < k) (l : List α) (x : α) : x ∈ lastN k (l ++ [x]) := by
  unfold lastN
  rw [List.drop_append_of_le_length (by simp; omega)]
  simp

/-- A reply keeps the response under the number of its request, expects the next number, and sends the response. -/
theorem State.replyTo_eq (t : State) (p : Packet) (ev : Bool) (type : BitVec 4) (hw1 : Word) (payload : List Word) :
    ∃ (l : List Served) (q : Packet), t.replyTo p ev type hw1 payload = State.issue { t with lb := { t.lb with served := l } } q ∧
      let w := State.servedFor { t with lb := { t.lb with served := l } } p.spair p.sside ev
      w.expected = p.eseq + 1 ∧ (p.eseq, { packet type 1 p.spair p.sside p.sagent hw1 payload with eseq := p.eseq }) ∈ w.held := by
  obtain ⟨hpair, hside, hev⟩ := t.servedFor_keys p.spair p.sside ev
  obtain ⟨v, hv⟩ : ∃ v, v = ({ t.servedFor p.spair p.sside ev with expected := inc p.eseq, heal := none } : Served) := ⟨_, rfl⟩
  obtain ⟨q, hq⟩ : ∃ q, q = ({ packet type 1 p.spair p.sside p.sagent hw1 payload with eseq := p.eseq } : Packet) := ⟨_, rfl⟩
  have hvpair : v.pair = p.spair := by rw [hv]; exact hpair
  have hvside : v.side = p.sside := by rw [hv]; exact hside
  have hvev : v.events = ev := by rw [hv]; exact hev
  have hget : (t.setServed v).servedFor p.spair p.sside ev = v := State.servedFor_setServed t hvpair hvside hvev
  have hu : t.replyTo p ev type hw1 payload = ((t.setServed v).setServed { (t.setServed v).servedFor p.spair p.sside ev with
      held := lastN 64 (((t.setServed v).servedFor p.spair p.sside ev).held ++ [(p.eseq, q)]) }).issue q := by
    rw [hv, hq]
    rfl
  rw [hget] at hu
  refine ⟨_, q, hu, ?_⟩
  have hserved := State.servedFor_setServed (t.setServed v) (v := { v with held := lastN 64 (v.held ++ [(p.eseq, q)]) }) hvpair hvside hvev
  refine ⟨(congrArg Served.expected hserved).trans (by rw [hv]; rfl), ?_⟩
  rw [← hq]
  exact (congrArg Served.held hserved).symm ▸ mem_lastN_append (by omega) v.held (p.eseq, q)

theorem State.replyTo_mem (t : State) (p : Packet) (ev : Bool) (type : BitVec 4) (hw1 : Word) (payload : List Word) :
    (t.replyTo p ev type hw1 payload).mem = t.mem := by
  obtain ⟨l, q, he, -⟩ := t.replyTo_eq p ev type hw1 payload
  rw [he, (State.issue_sendsOnly _ q).mem]

theorem State.replyTo_hi (t : State) (p : Packet) (ev : Bool) (type : BitVec 4) (hw1 : Word) (payload : List Word) :
    (t.replyTo p ev type hw1 payload).hi = t.hi := by
  obtain ⟨l, q, he, -⟩ := t.replyTo_eq p ev type hw1 payload
  rw [he, (State.issue_sendsOnly _ q).jobs]

/-- A reply to a packet that counts as received is an answer. -/
theorem State.replyTo_answered {s t : State} (h : t.lb.rxCnt = s.lb.rxCnt + 1) (p : Packet) (ev : Bool) (type : BitVec 4) (hw1 : Word)
    (payload : List Word) : Answered s (t.replyTo p ev type hw1 payload) p ev type hw1 payload := by
  obtain ⟨l, q, he, hexpected, hheld⟩ := t.replyTo_eq p ev type hw1 payload
  have hsend := State.issue_sendsOnly { t with lb := { t.lb with served := l } } q
  unfold Answered
  rw [he, State.servedFor_congr hsend.served, hsend.rxCnt]
  exact ⟨hexpected, hheld, h⟩

/-! ## Statuses of local words -/

/-- A load of a populated local word passes the region rules. -/
theorem State.targetStatus_load {s : State} {pa : WAddr} (hl : isLocalMem pa = true) (hp : s.populated pa = true) (m : BitVec 18) :
    s.targetStatus pa false m = 0 := by
  unfold State.targetStatus
  rcases regionOf_of_isLocalMem hl with h | h <;> simp [hp, h]

/-- A store to a populated local word that no owner guards and no shadow page holds passes the region rules. -/
theorem State.targetStatus_store {s : State} {pa : WAddr} (hl : isLocalMem pa = true) (hp : s.populated pa = true)
    (hg : regionOf pa = .plain → s.guarded (offsetOf pa) = false) (hs : s.shadowPage pa = false) (m : BitVec 18) :
    s.targetStatus pa true m = 0 := by
  unfold State.targetStatus
  rcases regionOf_of_isLocalMem hl with h | h <;> simp [hp, h, hs, hg]

theorem firstStatus_zero {l : List (BitVec 8)} (h : ∀ x ∈ l, x = 0) : firstStatus l = 0 := by
  induction l with
  | nil => rfl
  | cons x l ih =>
    rw [List.forall_mem_cons] at h
    rw [firstStatus, if_pos h.1, ih h.2]

/-- Local words are read from memory, and nothing changes. -/
theorem State.targetWords_local {s : State} {l : List WAddr} (h : ∀ a ∈ l, isLocalMem a = true) : s.targetWords l = (l.map s.data, s) := by
  induction l with
  | nil => rfl
  | cons a l ih =>
    rw [List.forall_mem_cons] at h
    have ha : s.targetWord a = (s.data a, s) := by
      unfold State.targetWord
      rw [if_neg (by rw [regionOf_ne_device h.1]; exact Bool.false_ne_true)]
    rw [State.targetWords, ha]
    dsimp only
    rw [ih h.2]
    rfl

/-! ## Loads -/

section
variable {s : State} {p : Packet}

/-- A load in order of a word whose rules refuse it. -/
theorem State.serveLoad_refused (h : firstStatus ((reqWords p.hw1).map fun a => s.targetStatus a false maskAll) ≠ 0) :
    s.serveLoad p = s.received.replyTo p false 4
      (rspHw1 (firstStatus ((reqWords p.hw1).map fun a => s.targetStatus a false maskAll)) p.hw1) [] := by
  unfold State.serveLoad
  exact if_pos h

/-- A load in order whose words can all be read. -/
theorem State.serveLoad_words (h : ∀ a ∈ reqWords p.hw1, isLocalMem a = true ∧ s.populated a = true ∧ (s.cell a).bad = false) :
    s.serveLoad p = s.received.replyTo p false 4 (rspHw1 0 p.hw1) ((reqWords p.hw1).map s.data) := by
  have hst : firstStatus ((reqWords p.hw1).map fun a => s.targetStatus a false maskAll) = 0 := by
    refine firstStatus_zero fun x hx => ?_
    obtain ⟨a, ha, rfl⟩ := List.mem_map.1 hx
    exact State.targetStatus_load (h a ha).1 (h a ha).2.1 maskAll
  have hbad : (reqWords p.hw1).find? (fun a => isLocalMem a && (s.cell a).bad) = none := by
    rw [List.find?_eq_none]
    intro a ha
    rw [(h a ha).2.2, Bool.and_false]
    exact Bool.false_ne_true
  unfold State.serveLoad
  dsimp only
  rw [hst, hbad, if_neg (not_not.2 rfl), State.targetWords_local fun a ha => (h a ha).1]

/-- A bad word that is found changes the sources alone. -/
theorem State.raiseBad_eq (s : State) (pa : WAddr) : s.raiseBad pa = { s with srcs := (s.raiseBad pa).srcs } := by
  have hraise (k : Nat) : s.raise k = { s with srcs := (s.raise k).srcs } := by
    unfold State.raise
    split
    · split <;> rfl
    · rfl
  unfold State.raiseBad
  split
  · exact hraise _
  · exact hraise _
  · rfl

/-- A load in order of one bad word that the Watershed can heal. -/
theorem State.serveLoad_heals {a : WAddr} (has : reqWords p.hw1 = [a]) (hl : isLocalMem a = true) (hp : s.populated a = true)
    (hb : (s.cell a).bad = true) (hh : s.canHeal a = true) (hn : (s.servedFor p.spair p.sside false).heal = none) :
    s.serveLoad p = ((s.raiseBad a).setServed { s.servedFor p.spair p.sside false with heal := some (a, false) }).startHeal
      (BitVec.ofNat 24 (offsetOf a)) := by
  have hcan : (s.raiseBad a).canHeal a = true := by
    rw [State.raiseBad_eq]
    exact hh
  have hst : firstStatus ([a].map fun a => s.targetStatus a false maskAll) = 0 := by
    rw [List.map_singleton, State.targetStatus_load hl hp]
    rfl
  have hbad : [a].find? (fun a => isLocalMem a && (s.cell a).bad) = some a := by
    rw [List.find?_cons, hl, hb]
    rfl
  unfold State.serveLoad
  rw [has]
  dsimp only
  rw [hst, hbad, if_neg (not_not.2 rfl)]
  dsimp only
  rw [hn, if_neg (show ¬(none == some (a, true)) = true from Bool.false_ne_true),
    if_neg (show ¬(none == some (a, false)) = true from Bool.false_ne_true), if_pos hcan]

end

/-! ## Healing -/

/-- Frames that leave or wait change neither the fabric nor what is healed. -/
def FramesOnly (s u : State) : Prop := u.lb = s.lb ∧ u.ws.heals = s.ws.heals

theorem FramesOnly.trans {s t u : State} (h : FramesOnly s t) (k : FramesOnly t u) : FramesOnly s u := ⟨k.1.trans h.1, k.2.trans h.2⟩

theorem State.sendFrame_framesOnly (s : State) (l : Fin 2) (kind : BitVec 4) (pos : BitVec 16) (words : List Word) :
    FramesOnly s (s.sendFrame l kind pos words) := by
  unfold State.sendFrame
  split
  · exact ⟨rfl, rfl⟩
  · exact ⟨rfl, rfl⟩

theorem State.pumpQueue_framesOnly (s : State) (k : Nat) : FramesOnly s (s.pumpQueue k) := by
  induction k generalizing s with
  | zero => exact ⟨rfl, rfl⟩
  | succ k ih =>
    unfold State.pumpQueue
    split
    · split
      · refine FramesOnly.trans ?_ (ih _)
        refine FramesOnly.trans ?_ (State.sendFrame_framesOnly _ _ _ _ _)
        exact ⟨rfl, rfl⟩
      · exact ⟨rfl, rfl⟩
    · exact ⟨rfl, rfl⟩

theorem State.sendFirst_framesOnly (s : State) (kind : BitVec 4) (pos : BitVec 16) (words : List Word) :
    FramesOnly s (s.sendFirst kind pos words) := by
  unfold State.sendFirst
  split
  · exact ⟨rfl, rfl⟩
  · refine FramesOnly.trans ?_ (State.pumpQueue_framesOnly _ _)
    exact ⟨rfl, rfl⟩

/-- A word that is asked of the twin is among those that are healed (R229), and the fabric is as it was. -/
theorem State.startHeal_spec (s : State) (off : BitVec 24) :
    (s.startHeal off).lb = s.lb ∧ ∃ h ∈ (s.startHeal off).ws.heals, h.off = off := by
  unfold State.startHeal
  split
  · next hany =>
    obtain ⟨h, hmem, hoff⟩ := List.any_eq_true.1 hany
    exact ⟨rfl, h, hmem, beq_iff_eq.1 hoff⟩
  · obtain ⟨hlb, hheals⟩ := State.sendFirst_framesOnly
      { s with ws := { s.ws with heals := s.ws.heals ++ [{ off := off, since := s.now, data := none }] } } 4 0 (six [off.setWidth 72])
    refine ⟨hlb, { off := off, since := s.now, data := none }, ?_, rfl⟩
    rw [hheals]
    simp

/-! ## Stores -/

theorem State.putAll_lb (s : State) (l : List (WAddr × BitVec 18 × Word)) : (s.putAll l).lb = s.lb := by
  induction l generalizing s with
  | nil => rfl
  | cons x l ih => exact ih _

theorem State.putAll_sr (s : State) (l : List (WAddr × BitVec 18 × Word)) : (s.putAll l).sr = s.sr := by
  induction l generalizing s with
  | nil => rfl
  | cons x l ih => exact ih _

/-- The words of a store of local words go to memory. -/
theorem foldl_targetPut {l : List (WAddr × Word)} (h : ∀ x ∈ l, isLocalMem x.1 = true) (m : BitVec 18) (s : State) :
    l.foldl (fun (s : State) x => s.targetPut x.1 m x.2) s = s.putAll (l.map fun x => (x.1, m, x.2)) := by
  induction l generalizing s with
  | nil => rfl
  | cons x l ih =>
    rw [List.forall_mem_cons] at h
    have hx : s.targetPut x.1 m x.2 = s.putMasked x.1 m x.2 := by
      unfold State.targetPut
      rw [if_neg (by rw [regionOf_ne_device h.1]; exact Bool.false_ne_true)]
    rw [List.foldl_cons, hx, ih h.2]
    rfl

section
variable {s : State} {p : Packet}

/-- A store in order of a word whose rules refuse it. -/
theorem State.serveStore_refused (h : firstStatus ((reqWords p.hw1).map fun a => s.targetStatus a true (bits p.hw1 16 18)) ≠ 0) :
    s.serveStore p = s.received.replyTo p false 5
      (at' (firstStatus ((reqWords p.hw1).map fun a => s.targetStatus a true (bits p.hw1 16 18))) 64) [] := by
  unfold State.serveStore
  exact if_pos h

/-- A store in order of a part of one bad word (R322, R456). -/
theorem State.serveStore_poisoned {a : WAddr} (has : reqWords p.hw1 = [a]) (hl : isLocalMem a = true)
    (hst : s.targetStatus a true (bits p.hw1 16 18) = 0) (hb : (s.cell a).bad = true) (hm : bits p.hw1 16 18 ≠ maskAll) :
    s.serveStore p = (s.raiseBad a).received.replyTo p false 5 (at' (3 : BitVec 8) 64) [] := by
  have hstatus : firstStatus ([a].map fun a => s.targetStatus a true (bits p.hw1 16 18)) = 0 := by
    rw [List.map_singleton, hst]
    rfl
  have hbad : [a].find? (fun a => isLocalMem a && (s.cell a).bad && bits p.hw1 16 18 != maskAll) = some a := by
    rw [List.find?_cons, hl, hb, bne_iff_ne.2 hm]
    rfl
  unfold State.serveStore
  rw [has]
  dsimp only
  rw [hstatus, hbad, if_neg (not_not.2 rfl)]

/-- A store in order of local words that take it whole. -/
theorem State.serveStore_words
    (h : ∀ a ∈ reqWords p.hw1, isLocalMem a = true ∧ s.populated a = true ∧ (regionOf a = .plain → s.guarded (offsetOf a) = false) ∧
      s.shadowPage a = false ∧ ((s.cell a).bad = true → bits p.hw1 16 18 = maskAll))
    (hlen : p.payload.length = (reqWords p.hw1).length) :
    s.serveStore p = (s.received.putAll (((reqWords p.hw1).zip p.payload).map fun x => (x.1, bits p.hw1 16 18, x.2))).replyTo p false 5 0 [] := by
  have hst : firstStatus ((reqWords p.hw1).map fun a => s.targetStatus a true (bits p.hw1 16 18)) = 0 := by
    refine firstStatus_zero fun x hx => ?_
    obtain ⟨a, ha, rfl⟩ := List.mem_map.1 hx
    obtain ⟨hl, hp, hg, hs, -⟩ := h a ha
    exact State.targetStatus_store hl hp hg hs _
  have hbad : (reqWords p.hw1).find? (fun a => isLocalMem a && (s.cell a).bad && bits p.hw1 16 18 != maskAll) = none := by
    rw [List.find?_eq_none]
    intro a ha hp
    simp only [Bool.and_eq_true, bne_iff_ne] at hp
    exact hp.2 ((h a ha).2.2.2.2 hp.1.2)
  have hzip : (reqWords p.hw1).zip (p.payload ++ List.replicate (reqWords p.hw1).length 0) = (reqWords p.hw1).zip p.payload := by
    simpa using List.zip_append (r₁ := []) (r₂ := List.replicate (reqWords p.hw1).length (0 : Word)) hlen.symm
  unfold State.serveStore
  dsimp only
  rw [hst, hbad, if_neg (not_not.2 rfl)]
  dsimp only
  rw [hzip, foldl_targetPut fun x hx => (h x.1 (List.of_mem_zip (a := x.1) (b := x.2) hx).1).1, if_pos (by rw [State.putAll_sr]; rfl)]

end

end Sys2Proof.Machine
end

section
/-! Requests between modules (R34, R36, R454-R459): each command of the fabric's target, on what it is given. -/

namespace Sys2Proof.Machine

/-! ## Which packets are taken -/

/-- The commands of packets that are delivered here, each with its type, leave the state as it is unless theirs is. -/
theorem exec_delivered (s : State) (p : Packet) :
    ∀ i ∈ [(Instr.loadReq p, (1 : BitVec 4)), (.storeReq p, 2), (.eventPacket p, 3), (.loadRsp p, 4), (.ack p, 5)],
      ∃ x, exec i.1 s = .next (if !s.here p i.2 then s else x) := by
  simp only [List.forall_mem_cons]
  exact ⟨⟨_, rfl⟩, ⟨_, rfl⟩, ⟨_, rfl⟩, ⟨_, rfl⟩, ⟨_, rfl⟩, fun _ h => absurd h List.not_mem_nil⟩

/-- The requests that are served in order, each with its type and its series. -/
theorem exec_ordered (s : State) (p : Packet) :
    ∀ i ∈ [(Instr.loadReq p, (1 : BitVec 4), false), (.storeReq p, 2, false), (.eventPacket p, 3, true)],
      ∃ serve, exec i.1 s = .next (if !s.here p i.2.1 then s else s.inOrder p i.2.2 serve) := by
  simp only [List.forall_mem_cons]
  exact ⟨⟨_, rfl⟩, ⟨_, rfl⟩, ⟨_, rfl⟩, fun _ h => absurd h List.not_mem_nil⟩

section
variable {s : State} {p : Packet}

theorem exec_loadReq (h : s.delivers p 1) (ho : p.eseq = (s.servedFor p.spair p.sside false).expected) :
    exec (.loadReq p) s = .next (s.serveLoad p) :=
  congrArg Host.Outcome.next ((if_neg (not_not_here h)).trans (State.inOrder_serves ho _))

theorem exec_storeReq (h : s.delivers p 2) (ho : p.eseq = (s.servedFor p.spair p.sside false).expected) :
    exec (.storeReq p) s = .next (s.serveStore p) :=
  congrArg Host.Outcome.next ((if_neg (not_not_here h)).trans (State.inOrder_serves ho _))

/-- An event in order: raised when its source is one that other modules may raise, else refused (R457). -/
theorem exec_eventPacket (h : s.delivers p 3) (ho : p.eseq = (s.servedFor p.spair p.sside true).expected) :
    exec (.eventPacket p) s = .next (if softSource (bits p.hw1 0 10).toNat then (s.received.raise (bits p.hw1 0 10).toNat).replyTo p true 5 0 []
      else s.received.replyTo p true 5 (at' (5 : BitVec 8) 64) []) :=
  congrArg Host.Outcome.next ((if_neg (not_not_here h)).trans (State.inOrder_serves ho _))

end

/-! ## The words of a request (R34, R455) -/

theorem length_reqWords (hw1 : Word) : (reqWords hw1).length = (bits hw1 12 4).toNat + 1 := by simp [reqWords]

theorem reqWords_getD {hw1 : Word} {k : Nat} (hk : k < (reqWords hw1).length) (hr : (bits hw1 70 2).toNat < 3) :
    (reqWords hw1).getD k 0 = BitVec.ofNat 52 ((bits hw1 70 2).toNat * 2 ^ 48 + ((bits hw1 34 36).toNat + k) % 2 ^ 36) := by
  rw [length_reqWords] at hk
  simp [reqWords, reqAddr, hk, hr]

/-! ## Loads -/

section
variable {s : State} {p : Packet}

theorem rspHw1_zero (hw1 : Word) : rspHw1 0 hw1 = at' (bits hw1 12 4) 12 := by simp [rspHw1, at']

theorem State.received_rxCnt (s : State) : s.received.lb.rxCnt = s.lb.rxCnt + 1 := rfl

theorem loadReq_words (h : s.delivers p 1) (ho : p.eseq = (s.servedFor p.spair p.sside false).expected)
    (hw : ∀ a ∈ reqWords p.hw1, isLocalMem a = true ∧ s.populated a = true ∧ (s.cell a).bad = false) :
    ∃ u, exec (.loadReq p) s = .next u ∧ Answered s u p false 4 (at' (bits p.hw1 12 4) 12) ((reqWords p.hw1).map s.data) ∧ u.mem = s.mem := by
  refine ⟨_, exec_loadReq h ho, ?_⟩
  rw [State.serveLoad_words hw, rspHw1_zero]
  exact ⟨State.replyTo_answered s.received_rxCnt _ _ _ _ _, State.replyTo_mem _ _ _ _ _ _⟩

theorem loadReq_refused (h : s.delivers p 1) (ho : p.eseq = (s.servedFor p.spair p.sside false).expected) {st : BitVec 8}
    (hst : firstStatus ((reqWords p.hw1).map fun a => s.targetStatus a false maskAll) = st) (h0 : st ≠ 0) :
    ∃ u, exec (.loadReq p) s = .next u ∧ Answered s u p false 4 (at' st 64 ||| at' (bits p.hw1 12 4) 12) [] ∧ u.mem = s.mem := by
  subst hst
  refine ⟨_, exec_loadReq h ho, ?_⟩
  rw [State.serveLoad_refused h0]
  exact ⟨State.replyTo_answered s.received_rxCnt _ _ _ _ _, State.replyTo_mem _ _ _ _ _ _⟩

theorem offsetOf_lt_of_canHeal {a : WAddr} (hl : isLocalMem a = true) (hh : s.canHeal a = true) : offsetOf a < 2 ^ 24 := by
  unfold State.canHeal at hh
  simp only [Bool.and_eq_true, beq_iff_eq] at hh
  unfold isLocalMem at hl
  rw [hh.1.1] at hl
  exact of_decide_eq_true hl

theorem loadReq_heals (h : s.delivers p 1) (ho : p.eseq = (s.servedFor p.spair p.sside false).expected) {a : WAddr}
    (has : reqWords p.hw1 = [a]) (hl : isLocalMem a = true) (hp : s.populated a = true) (hb : (s.cell a).bad = true)
    (hh : s.canHeal a = true) (hn : (s.servedFor p.spair p.sside false).heal = none) :
    ∃ u, exec (.loadReq p) s = .next u ∧ (u.servedFor p.spair p.sside false).heal = some (a, false) ∧
      (u.servedFor p.spair p.sside false).expected = p.eseq ∧ ∃ h ∈ u.ws.heals, h.off.toNat = offsetOf a := by
  obtain ⟨hpair, hside, hev⟩ := s.servedFor_keys p.spair p.sside false
  obtain ⟨v, hv⟩ : ∃ v, v = ({ s.servedFor p.spair p.sside false with heal := some (a, false) } : Served) := ⟨_, rfl⟩
  have hget : ((s.raiseBad a).setServed v).servedFor p.spair p.sside false = v :=
    State.servedFor_setServed _ (by rw [hv]; exact hpair) (by rw [hv]; exact hside) (by rw [hv]; exact hev)
  obtain ⟨hlb, x, hx, hoff⟩ := ((s.raiseBad a).setServed v).startHeal_spec (BitVec.ofNat 24 (offsetOf a))
  have hserved := (State.servedFor_congr (congrArg Fabric.served hlb) p.spair p.sside false).trans hget
  refine ⟨_, exec_loadReq h ho, ?_⟩
  rw [State.serveLoad_heals has hl hp hb hh hn, ← hv, hserved]
  refine ⟨by rw [hv], by rw [hv]; exact ho.symm, x, hx, ?_⟩
  rw [hoff, BitVec.toNat_ofNat, Nat.mod_eq_of_lt (offsetOf_lt_of_canHeal hl hh)]

/-! ## Stores -/

theorem storeReq_words (hinv : s.Inv) (h : s.delivers p 2) (ho : p.eseq = (s.servedFor p.spair p.sside false).expected)
    (hw : ∀ a ∈ reqWords p.hw1, isLocalMem a = true ∧ s.populated a = true ∧ (regionOf a = .plain → s.guarded (offsetOf a) = false) ∧
      s.shadowPage a = false ∧ ((s.cell a).bad = true → bits p.hw1 16 18 = maskAll))
    (hnodup : (reqWords p.hw1).Nodup) (hlen : p.payload.length = (reqWords p.hw1).length) :
    ∃ u, exec (.storeReq p) s = .next u ∧ Answered s u p false 5 0 [] ∧
      (∀ z ∈ (reqWords p.hw1).zip p.payload, u.data z.1 = merge (bits p.hw1 16 18) z.2 (s.data z.1)) ∧
      ∀ a, a ∉ reqWords p.hw1 → u.data a = s.data a := by
  obtain ⟨xs, hxs⟩ : ∃ xs, xs = ((reqWords p.hw1).zip p.payload).map fun x => (x.1, bits p.hw1 16 18, x.2) := ⟨_, rfl⟩
  have hmem {x} (hx : x ∈ xs) : x.1 ∈ reqWords p.hw1 ∧ x.2.1 = bits p.hw1 16 18 := by
    rw [hxs] at hx
    obtain ⟨y, hy, rfl⟩ := List.mem_map.1 hx
    exact ⟨(List.of_mem_zip (a := y.1) (b := y.2) hy).1, rfl⟩
  have htakes : s.received.takesAll xs := by
    refine ⟨hinv, ?_, fun x hx hb => ?_⟩
    · have : xs.map (fun x => x.1) = reqWords p.hw1 := by
        rw [hxs, List.map_map]
        exact List.map_fst_zip (Nat.le_of_eq hlen.symm)
      rw [this]
      exact hnodup
    · obtain ⟨ha, hm⟩ := hmem hx
      rw [hm]
      exact (hw x.1 ha).2.2.2.2 hb
  have hdata (u : State) (hu : u.mem = (s.received.putAll xs).mem) (a : WAddr) : u.data a = (s.received.putAll xs).data a :=
    congrArg MCell.data (State.cell_congr hu a)
  refine ⟨_, exec_storeReq h ho, ?_⟩
  rw [State.serveStore_words hw hlen, ← hxs]
  refine ⟨State.replyTo_answered (by rw [State.putAll_lb]; rfl) _ _ _ _ _, fun z hz => ?_, fun a ha => ?_⟩
  · rw [hdata _ (State.replyTo_mem _ _ _ _ _ _)]
    exact State.data_putAll_mem htakes (x := (z.1, bits p.hw1 16 18, z.2)) (hxs ▸ List.mem_map_of_mem hz)
  · rw [hdata _ (State.replyTo_mem _ _ _ _ _ _), State.data_putAll_other htakes fun x hx he => ha (by rw [he]; exact (hmem hx).1)]
    rfl

theorem storeReq_refused (h : s.delivers p 2) (ho : p.eseq = (s.servedFor p.spair p.sside false).expected) {st : BitVec 8}
    (hst : firstStatus ((reqWords p.hw1).map fun a => s.targetStatus a true (bits p.hw1 16 18)) = st) (h0 : st ≠ 0) :
    ∃ u, exec (.storeReq p) s = .next u ∧ Answered s u p false 5 (at' st 64) [] ∧ u.mem = s.mem := by
  subst hst
  refine ⟨_, exec_storeReq h ho, ?_⟩
  rw [State.serveStore_refused h0]
  exact ⟨State.replyTo_answered s.received_rxCnt _ _ _ _ _, State.replyTo_mem _ _ _ _ _ _⟩

theorem storeReq_poisoned (h : s.delivers p 2) (ho : p.eseq = (s.servedFor p.spair p.sside false).expected) {a : WAddr}
    (has : reqWords p.hw1 = [a]) (hl : isLocalMem a = true) (hst : s.targetStatus a true (bits p.hw1 16 18) = 0)
    (hb : (s.cell a).bad = true) (hm : bits p.hw1 16 18 ≠ maskAll) :
    ∃ u, exec (.storeReq p) s = .next u ∧ Answered s u p false 5 (at' (3 : BitVec 8) 64) [] ∧ u.mem = s.mem := by
  have heq := State.raiseBad_eq s a
  refine ⟨_, exec_storeReq h ho, ?_⟩
  rw [State.serveStore_poisoned has hl hst hb hm, heq]
  exact ⟨State.replyTo_answered rfl _ _ _ _ _, State.replyTo_mem _ _ _ _ _ _⟩

/-! ## Events -/

/-- The numbers of the sources that another module may raise (R457). -/
theorem softSource_iff (k : Nat) : softSource k = true ↔ (768 ≤ k ∨ (464 ≤ k ∧ k < 656 ∧ (k - 464) % 4 < 2)) := by
  simp [softSource, and_assoc]

theorem eventPacket_raises (h : s.delivers p 3) (ho : p.eseq = (s.servedFor p.spair p.sside true).expected)
    (hsoft : softSource (bits p.hw1 0 10).toNat = true) :
    ∃ u, exec (.eventPacket p) s = .next u ∧ Answered s u p true 5 0 [] ∧ u.mem = s.mem ∧
      ∀ c : SrcId, c.val = (bits p.hw1 0 10).toNat → u.srcs[c].pend = true ∧ u.srcs[c].raises = s.srcs[c].raises + 1 := by
  refine ⟨_, exec_eventPacket h ho, ?_⟩
  rw [if_pos hsoft]
  refine ⟨State.replyTo_answered (by rw [State.raise_lb]; rfl) _ _ _ _ _, ?_, fun c hc => ?_⟩
  · rw [State.replyTo_mem, State.raise_mem]
    rfl
  · rw [softSource_iff] at hsoft
    obtain ⟨l, q, he, -⟩ := (s.received.raise (bits p.hw1 0 10).toNat).replyTo_eq p true 5 0 []
    rw [he, (State.issue_sendsOnly _ q).srcs c (by omega) (by omega)]
    have hraised := State.raise_srcs_same (s := s.received) hc h.1
    exact ⟨congrArg Source.pend hraised, congrArg Source.raises hraised⟩

theorem eventPacket_refused (h : s.delivers p 3) (ho : p.eseq = (s.servedFor p.spair p.sside true).expected)
    (hsoft : ¬softSource (bits p.hw1 0 10).toNat = true) :
    ∃ u, exec (.eventPacket p) s = .next u ∧ Answered s u p true 5 (at' (5 : BitVec 8) 64) [] := by
  refine ⟨_, exec_eventPacket h ho, ?_⟩
  rw [if_neg hsoft]
  exact State.replyTo_answered s.received_rxCnt _ _ _ _ _

end

end Sys2Proof.Machine
end

section
/-! Answers that reach what waits for them, and unit jobs of other modules (R456-R458). -/

namespace Sys2Proof.Machine

/-! ## Answers -/

/-- The fabric once the one request that waited is answered (R458). -/
def State.cleared1 (s : State) (x : Series) : State :=
  { s with lb := { s.lb with series := [{ x with waiting := [], since := s.now, resends := 0 }], rxCnt := s.lb.rxCnt + 1 } }

section
variable {s : State} {p : Packet} {x : Series} {ev : Bool} {type : BitVec 4} {f : ReqFor}

/-- A response to the one request that waits takes it off its series (R458). -/
theorem State.answered_awaits (h : s.awaits p x ev type f) (hev : (type == 3) = ev) :
    s.received.answered p type = (some f, s.cleared1 x) := by
  obtain ⟨hseries, hpair, hside, hxev, w, hwait, htype⟩ := h
  have hit : (x.pair == p.spair && (x.side == p.sside || type == 8) && x.events == ev) = true := by simp [hpair, hside, hxev]
  have hw : x.waiting.find? (fun w => w.1 == p.eseq && w.2.2.type == type) = some (p.eseq, f, w) := by simp [hwait, htype]
  have hany : x.waiting.any (fun w => w.1 == p.eseq && w.2.2.type == type) = true := by simp [hwait, htype]
  have hfind : s.received.lb.series.find? (fun x => (x.pair == p.spair && (x.side == p.sside || type == 8) && x.events == ev) &&
      x.waiting.any fun w => w.1 == p.eseq && w.2.2.type == type) = some x := by
    rw [show s.received.lb.series = [x] from hseries, List.find?_cons, hit, hany]
    rfl
  unfold State.answered
  dsimp only
  rw [hev, hfind]
  dsimp only
  rw [hw]
  simp [State.cleared1, State.received, hseries, hwait, mapIf, inc]

/-- A response to a store finds nothing in the series of the events. -/
theorem State.answered_none (h : s.awaits p x true 3 f) : s.received.answered p 2 = (none, s.received) := by
  obtain ⟨hseries, -, -, hxev, -⟩ := h
  unfold State.answered
  simp [State.received, hseries, hxev]

end

section
variable {s : State} {p : Packet} {x : Series}

/-- A core that waits for a word takes it. -/
theorem State.loadAnswer_word {t : State} {n : CoreId} {pa : WAddr} (hwait : t.cores[n].wait = some pa) (st : BitVec 8) (w : Word) :
    t.loadAnswer (.coreLoad n pa) st [w] = t.updCore n fun c =>
      { c with wait := none, arrived := c.arrived ++ [{ pa := pa, status := st, word := w }] } := by
  have hline : ¬(decide (st = 0) && [w].length == 8) = true := by simp
  unfold State.loadAnswer
  dsimp only
  rw [if_neg hline]
  exact if_pos (beq_iff_eq.2 hwait)

/-- A loaded word reaches the core that waits for it (R456). -/
theorem loadRsp_reaches {n : CoreId} {pa : WAddr} (h : s.delivers p 4) (ha : s.awaits p x false 1 (.coreLoad n pa))
    (hwait : s.cores[n].wait = some pa) {w : Word} (hp : p.payload = [w]) :
    exec (.loadRsp p) s = .next ((s.cleared1 x).updCore n fun c =>
      { c with wait := none, arrived := c.arrived ++ [{ pa := pa, status := bits p.hw1 64 8, word := w }] }) := by
  refine congrArg Host.Outcome.next ((if_neg (not_not_here h)).trans ?_)
  rw [State.answered_awaits ha rfl, hp]
  exact State.loadAnswer_word (t := s.cleared1 x) hwait _ w

/-- The cause of a late store error by the status of the store (R322, R456). -/
theorem storeCause_eq (st : BitVec 8) :
    storeCause st = if st = 1 then 1 else if st = 2 then 2 else if st = 3 then 5 else 7 := by
  revert st
  decide

/-- The status of a store reaches its core (R322, R456). -/
theorem ack_store {n : CoreId} {pa : WAddr} (h : s.delivers p 5) (ha : s.awaits p x false 2 (.coreStore n pa)) (h5 : bits p.hw1 64 8 ≠ 5) :
    exec (.ack p) s = .next (if bits p.hw1 64 8 = 0 then s.cleared1 x
      else (s.cleared1 x).lateStore n (storeCause (bits p.hw1 64 8)) pa) := by
  refine congrArg Host.Outcome.next ((if_neg (not_not_here h)).trans ?_)
  dsimp only
  rw [if_neg h5, State.answered_awaits ha rfl]
  rfl

/-- The status of an event reaches its core. -/
theorem ack_event {n : CoreId} (h : s.delivers p 5) (ha : s.awaits p x true 3 (.event n)) :
    exec (.ack p) s = .next (if bits p.hw1 64 8 = 0 then s.cleared1 x
      else (s.cleared1 x).lateStore n (storeCause (bits p.hw1 64 8)) 0) := by
  refine congrArg Host.Outcome.next ((if_neg (not_not_here h)).trans ?_)
  dsimp only
  rw [State.answered_none ha, ite_self]
  dsimp only
  rw [State.answered_awaits ha rfl]
  rfl

end

/-! ## Unit jobs (R456) -/

section
variable {s : State} {p : Packet}

/-- A UNIT packet that reaches its pair. -/
def State.getsUnit (s : State) (p : Packet) : Prop :=
  s.brd.powered = true ∧ p.type = 8 ∧ p.ecrc = packetCode p ∧ p.dpair = s.applied.lbPair

theorem getsUnit_iff : (s.brd.powered && p.type == 8 && packetIntact p && p.dpair == s.applied.lbPair) = true ↔ s.getsUnit p := by
  simp [State.getsUnit, packetIntact, and_assoc]

theorem unit_ignored (h : ¬s.getsUnit p) : exec (.unit p) s = .next s :=
  congrArg Host.Outcome.next (if_pos (by rwa [Bool.not_eq_true', Bool.eq_false_iff, Ne, getsUnit_iff]))

/-- A request in order is served. -/
theorem unit_served (h : s.getsUnit p) (hvc : p.vc ≠ 1) (ho : p.eseq = (s.servedFor p.spair p.sside false).expected) :
    exec (.unit p) s = .next (s.serveUnit p) := by
  refine congrArg Host.Outcome.next ((if_neg ?_).trans ((if_neg ?_).trans (State.inOrder_serves ho _)))
  · rw [getsUnit_iff.2 h]
    exact Bool.false_ne_true
  · rwa [beq_iff_eq]

/-- A request that the twin serves or nobody does. -/
theorem State.serveUnit_elsewhere (hl : s.leads = false) (hn : s.namesSide p = false) (hp : p.spair ≠ s.applied.lbPair) :
    s.serveUnit p = if s.twinLeads then (s.setServed { s.servedFor p.spair p.sside false with expected := inc p.eseq }).emit none p
      else s.received.replyTo p false 8 (unitHw1 jobRefused 1) [0] := by
  unfold State.serveUnit
  rw [if_neg (by simp [hl, hn, hp])]

/-- Once a request is taken, the number after its own is expected, whatever else changes. -/
theorem servedFor_expected {t u : State}
    (hu : u.lb.served = (t.setServed { s.servedFor p.spair p.sside false with expected := inc p.eseq }).lb.served) :
    (u.servedFor p.spair p.sside false).expected = p.eseq + 1 := by
  obtain ⟨hpair, hside, hev⟩ := s.servedFor_keys p.spair p.sside false
  rw [State.servedFor_congr hu,
    State.servedFor_setServed t (v := { s.servedFor p.spair p.sside false with expected := inc p.eseq }) hpair hside hev]
  rfl

/-- A well-formed unit job is taken by a leader. -/
theorem unit_taken (h : s.getsUnit p) (hvc : p.vc ≠ 1) (ho : p.eseq = (s.servedFor p.spair p.sside false).expected) (hl : s.leads = true)
    (hopc : 0x40 ≤ (bits (p.payload.getD 0 0) 64 8).toNat)
    (hentry : entryStatus (p.payload.getD 0 0) (p.payload.getD 1 0) (p.payload.getD 2 0) (p.payload.getD 3 0) = none) :
    ∃ (u : State) (y : Job), exec (.unit p) s = .next u ∧ u.hi.jobs = s.hi.jobs ++ [y] ∧ y.id = s.hi.nextJob ∧
      y.origin = .fabric p.spair p.sside p.eseq ∧ y.s0 = p.payload.getD 0 0 ∧ y.s1 = p.payload.getD 1 0 ∧ y.s2 = p.payload.getD 2 0 ∧
      y.s3 = p.payload.getD 3 0 ∧ y.started = false ∧ (u.servedFor p.spair p.sside false).expected = p.eseq + 1 := by
  obtain ⟨t, ht⟩ : ∃ t, t = s.received.setServed { s.servedFor p.spair p.sside false with expected := inc p.eseq } := ⟨_, rfl⟩
  obtain ⟨r, hr⟩ : ∃ r, r = t.addJob (.fabric p.spair p.sside p.eseq) (p.payload.getD 0 0) (p.payload.getD 1 0) (p.payload.getD 2 0)
    (p.payload.getD 3 0) := ⟨_, rfl⟩
  have hserve : s.serveUnit p = r.2 := by
    unfold State.serveUnit
    rw [if_pos (by rw [hl]; rfl)]
    unfold State.acceptJob
    dsimp only
    rw [← ht, ← hr, if_neg (by rw [hr]; exact Nat.not_lt.2 hopc), hentry]
  refine ⟨_, r.1, unit_served h hvc ho, ?_⟩
  rw [hserve, hr]
  refine ⟨by rw [ht]; rfl, by rw [ht]; rfl, rfl, rfl, rfl, rfl, rfl, rfl, ?_⟩
  exact servedFor_expected (t := s.received) (by rw [ht]; rfl)

theorem unit_crosses (h : s.getsUnit p) (hvc : p.vc ≠ 1) (ho : p.eseq = (s.servedFor p.spair p.sside false).expected) (hl : s.leads = false)
    (hn : s.namesSide p = false) (hp : p.spair ≠ s.applied.lbPair) (ht : s.twinLeads = true) :
    ∃ u, exec (.unit p) s = .next u ∧ u.lb.out = s.lb.out ++ [{ link := none, packet := p }] ∧ u.hi.jobs = s.hi.jobs ∧
      (u.servedFor p.spair p.sside false).expected = p.eseq + 1 := by
  obtain ⟨t, hset⟩ : ∃ t, t = s.setServed { s.servedFor p.spair p.sside false with expected := inc p.eseq } := ⟨_, rfl⟩
  have hemit : t.emit none p = { t with lb := { t.lb with out := t.lb.out ++ [{ link := none, packet := p }] } } :=
    if_neg (by rw [hset]; simp [State.setServed, h.1])
  refine ⟨_, unit_served h hvc ho, ?_⟩
  rw [State.serveUnit_elsewhere hl hn hp, if_pos ht, ← hset, hemit]
  refine ⟨by rw [hset]; rfl, by rw [hset]; rfl, ?_⟩
  exact servedFor_expected (t := s) (by rw [hset])

theorem unit_refused (h : s.getsUnit p) (hvc : p.vc ≠ 1) (ho : p.eseq = (s.servedFor p.spair p.sside false).expected) (hl : s.leads = false)
    (hn : s.namesSide p = false) (hp : p.spair ≠ s.applied.lbPair) (ht : s.twinLeads = false) :
    ∃ u, exec (.unit p) s = .next u ∧ Answered s u p false 8 (at' (0x0A : BitVec 8) 64 ||| at' (1 : BitVec 8) 56) [0] ∧
      u.hi.jobs = s.hi.jobs := by
  refine ⟨_, unit_served h hvc ho, ?_⟩
  rw [State.serveUnit_elsewhere hl hn hp, if_neg (by rw [ht]; exact Bool.false_ne_true), State.replyTo_hi]
  exact ⟨State.replyTo_answered s.received_rxCnt _ _ _ _ _, rfl⟩

/-- The result of a unit job reaches the job that waits for it. -/
theorem unit_answered {x : Series} {j : JobId} (h : s.getsUnit p) (hvc : p.vc = 1) (hside : p.dside = s.ws.side)
    (ha : s.awaits p x false 8 (.unit j)) :
    exec (.unit p) s = .next ((s.cleared1 x).unitAnswer j (bits p.hw1 64 8) (bits p.hw1 56 8) (p.payload.getD 0 0)) := by
  refine congrArg Host.Outcome.next ((if_neg ?_).trans ((if_pos (beq_iff_eq.2 hvc)).trans ((if_neg ?_).trans ?_)))
  · rw [getsUnit_iff.2 h]
    exact Bool.false_ne_true
  · rw [bne_iff_ne, not_not]
    exact hside
  · rw [State.answered_awaits ha rfl]

end

/-- Settles O56, command by command: each clause is the lemma above for its packet. -/
theorem fabricRequestsAreServed : Obligations.FabricRequestsAreServed := by
  unfold Obligations.FabricRequestsAreServed
  intro s p hinv
  refine ⟨⟨length_reqWords p.hw1, fun k hk hr => reqWords_getD hk hr⟩, fun i hi hd => ?_, fun i hi hd ho => ?_, fun hd ho => ?_, fun hd ho => ?_,
    fun hd ho => ?_, fun x n pa => ?_, ?_⟩
  · obtain ⟨y, hy⟩ := exec_delivered s p i hi
    rw [hy, if_pos (not_here hd)]
  · obtain ⟨serve, hserve⟩ := exec_ordered s p i hi
    rw [hserve, if_neg (not_not_here hd)]
    refine ⟨fun h hheld => ?_, fun hheld => ?_⟩
    · rw [State.inOrder_held ho hheld]
      rfl
    · rw [State.inOrder_dropped ho hheld]
      exact ⟨_, rfl, State.dropPacket_lb s⟩
  · exact ⟨loadReq_words hd ho, fun st hst h0 => loadReq_refused hd ho hst h0, fun a has hl hp hb hh hn => loadReq_heals hd ho has hl hp hb hh hn⟩
  · exact ⟨storeReq_words hinv hd ho, fun st hst h0 => storeReq_refused hd ho hst h0, fun a has hl hst hb hm => storeReq_poisoned hd ho has hl hst hb hm⟩
  · rw [← softSource_iff]
    exact ⟨eventPacket_raises hd ho, eventPacket_refused hd ho⟩
  · refine ⟨fun hd ha hwait w hp => ⟨_, loadRsp_reaches hd ha hwait hp, rfl, onlyCore_updCore _ n _, ?_⟩, fun hd ha h5 => ?_, fun hd ha => ?_⟩
    · exact State.updCore_core (s.cleared1 x) n _
    · rw [← storeCause_eq]
      exact ack_store hd ha h5
    · rw [← storeCause_eq]
      exact ack_event hd ha
  · refine ⟨unit_ignored, fun hg hvc ho => ⟨unit_taken hg hvc ho, fun hl hn hp => ⟨unit_crosses hg hvc ho hl hn hp, unit_refused hg hvc ho hl hn hp⟩⟩,
      fun x j hg hvc hside ha => unit_answered hg hvc hside ha⟩

end Sys2Proof.Machine
end

section
/-! The integer unit: what an instruction that changes registers alone answers (R43, R49, R65, R67, R68). -/

namespace Sys2Proof.Machine

/-! ## Instructions that change registers alone -/

/-- An instruction whose body changes its core alone completes: it leaves its core retired, with the charges settled. -/
theorem completes_of_body {i : Instr} {s : State} {n : CoreId} {sh : Shape} {body : M Next} {g : Core → Core} {P : Core → Core → Prop}
    (hexec : exec i s = .next (s.runIns n sh body)) (hbody : body (s.fetched n sh) = .ok .seq ((s.fetched n sh).updCore n g))
    (hP : ∀ c a v, P c (((g c).retire sh .seq).settledAt a v)) : Completes i s n sh P := by
  intro hruns
  obtain ⟨honly, a, v, hcore⟩ := runIns_updCore hruns hbody
  refine ⟨_, hexec, honly, ?_⟩
  have := hP (s.core n sh) a v
  rwa [← State.fetched_core, ← hcore] at this

/-- One that changes registers alone. -/
theorem completes_regIns {i : Instr} {s : State} {n : CoreId} {sh : Shape} {g : Core → Core} {P : Core → Core → Prop}
    (hexec : exec i s = .next (regIns n sh g s)) (hP : ∀ c a v, P c (((g c).retire sh .seq).settledAt a v)) : Completes i s n sh P :=
  completes_of_body (body := do modCore n g; return .seq) hexec rfl hP

/-- One that writes a general register and the four flags. -/
theorem completes_computed {i : Instr} {s : State} {n : CoreId} {sh : Shape} {g : Core → Core} {rd : BitVec 5} {v : Core → Word}
    {nf z o cy : Core → Bool} (hslots : sh.slots = 1) (hexec : exec i s = .next (regIns n sh g s))
    (hg : ∀ c, g c = (c.setG rd (v c)).setNZVC (nf c) (z c) (o c) (cy c)) :
    Completes i s n sh fun c d => c.Computed d rd (v c) (nf c) (z c) (o c) (cy c) :=
  completes_regIns hexec fun c a x => by
    rw [hg]
    exact (Core.computed_of c sh rd _ _ _ _ _ hslots).settledAt a x

/-- A general register written, and the instruction retired. -/
theorem Core.loaded_of (c : Core) (sh : Shape) (rd : BitVec 5) (v : Word) (hslots : sh.slots = 1) (a : BitVec 64) (x : BitVec 32) :
    c.Loaded (((c.setG rd v).retire sh .seq).settledAt a x) rd v := by
  obtain ⟨hg, -, -, -⟩ := Core.retire_keeps (c.setG rd v) sh .seq
  have hbook := congrArg (fun d : Core => d.settledAt a x) (Core.retire_bookkept (c.setG rd v) sh .seq)
  refine ⟨hbook.trans ?_, ⟨?_, ?_⟩, ?_, fun i hi => ?_⟩
  · have hd : (((c.setG rd v).retire sh .seq).settledAt a x).g = (c.setG rd v).g := hg
    rw [hd]
    unfold Core.setG
    split <;> rfl
  · exact (Core.retire_seq_pc _ sh).trans (by rw [hslots, Core.setG_pc])
  · exact (Core.retire_seq_retired _ sh).trans (by rw [Core.setG_retired])
  · exact (Core.gr_congr (c := c.setG rd v) hg rd).trans (Core.setG_gr_same c rd v)
  · exact (Core.gr_congr (c := c.setG rd v) hg i).trans (Core.setG_gr_other c v hi)

/-- One that writes a general register alone. -/
theorem completes_loaded {i : Instr} {s : State} {n : CoreId} {sh : Shape} {rd : BitVec 5} {v : Core → Word} (hslots : sh.slots = 1)
    (hexec : exec i s = .next (regIns n sh (fun c => c.setG rd (v c)) s)) : Completes i s n sh fun c d => c.Loaded d rd (v c) :=
  completes_regIns hexec fun c a x => Core.loaded_of c sh rd (v c) hslots a x

/-! ## Sums and differences (R65) -/

theorem bit_top (v : Word) : bit v 71 = v.msb := (BitVec.msb_eq_getLsbD_last v).symm

/-- The flag V of an integer modulo 2^72 says that its signed value is another. -/
theorem outside_eq_toInt_ne {v : Word} {x : Int} (h : v = BitVec.ofInt 72 x) : outside x = (v.toInt != x) := by
  subst h
  rw [BitVec.toInt_ofInt, Bool.eq_iff_iff, bne_iff_ne, outside, Int.bmod_def]
  simp only [Bool.or_eq_true, decide_eq_true_eq]
  split <;> omega

theorem toInt_not (b : Word) : (~~~b).toInt = -b.toInt - 1 := by
  have := b.isLt
  rw [BitVec.toInt_eq_toNat_cond, BitVec.toInt_eq_toNat_cond, BitVec.toNat_not]
  split <;> split <;> omega

/-- A sum (R65), with its flags. -/
theorem Core.addTo_eq (c : Core) (rd : BitVec 5) (a b : Word) (cin : Bool) :
    let v := a + b + BitVec.ofNat 72 cin.toNat
    c.addTo rd a b cin = (c.setG rd v).setNZVC v.msb (v == 0) (v.toInt != a.toInt + b.toInt + cin.toNat)
      (decide (2 ^ 72 ≤ a.toNat + b.toNat + cin.toNat)) := by
  intro v
  have hv : BitVec.ofNat 72 (a.toNat + b.toNat + cin.toNat) = v := by simp [v, BitVec.ofNat_add]
  have hi : v = BitVec.ofInt 72 (a.toInt + b.toInt + cin.toNat) := by simp [v, BitVec.ofInt_add]
  simp only [Core.addTo, addCarry, Core.setFlags, hv, outside_eq_toInt_ne hi, bit_top, ge_iff_le]

/-- A difference is the sum with the complement (R65), with its flags. -/
theorem Core.addTo_not_eq (c : Core) (rd : BitVec 5) (a b : Word) (bin : Bool) :
    let v := a - b - BitVec.ofNat 72 bin.toNat
    c.addTo rd a (~~~b) (!bin) = (c.setG rd v).setNZVC v.msb (v == 0) (v.toInt != a.toInt - b.toInt - bin.toNat)
      (decide (b.toNat + bin.toNat ≤ a.toNat)) := by
  intro v
  have hv : a + ~~~b + BitVec.ofNat 72 (!bin).toNat = v := by
    have := b.isLt
    cases bin <;> simp only [v, Bool.not_true, Bool.not_false, Bool.toNat_true, Bool.toNat_false] <;> bv_omega
  have hi : a.toInt + (~~~b).toInt + (!bin).toNat = a.toInt - b.toInt - bin.toNat := by
    rw [toInt_not]
    cases bin <;> simp <;> omega
  have hc : 2 ^ 72 ≤ a.toNat + (~~~b).toNat + (!bin).toNat ↔ b.toNat + bin.toNat ≤ a.toNat := by
    rw [BitVec.toNat_not]
    have := b.isLt
    cases bin <;> simp <;> omega
  rw [Core.addTo_eq, hv, hi, decide_eq_decide.2 hc]

/-- A logical result, with its flags. -/
theorem Core.logicTo_eq (c : Core) (rd : BitVec 5) (v : Word) :
    c.logicTo rd v = (c.setG rd v).setNZVC v.msb (v == 0) false c.flagC := by
  rw [Core.logicTo, Core.setFlags, bit_top]

section
variable {i : Instr} {s : State} {n : CoreId} {sh : Shape} {rd : BitVec 5} {a b : Core → Word}

theorem completes_added {cin : Core → Bool} (hslots : sh.slots = 1)
    (hexec : exec i s = .next (regIns n sh (fun c => c.addTo rd (a c) (b c) (cin c)) s)) :
    Completes i s n sh fun c d => c.Added d rd (a c) (b c) (cin c) :=
  completes_computed hslots hexec fun c => Core.addTo_eq c rd (a c) (b c) (cin c)

theorem completes_subtracted {bin : Core → Bool} (hslots : sh.slots = 1)
    (hexec : exec i s = .next (regIns n sh (fun c => c.addTo rd (a c) (~~~(b c)) (!bin c)) s)) :
    Completes i s n sh fun c d => c.Subtracted d rd (a c) (b c) (bin c) :=
  completes_computed hslots hexec fun c => Core.addTo_not_eq c rd (a c) (b c) (bin c)

theorem completes_logical {v : Core → Word} (hslots : sh.slots = 1)
    (hexec : exec i s = .next (regIns n sh (fun c => c.logicTo rd (v c)) s)) : Completes i s n sh fun c d => c.Logical d rd (v c) :=
  completes_computed hslots hexec fun c => Core.logicTo_eq c rd (v c)

end

/-- SBC adds C to the complement: C is the borrow complemented. -/
theorem completes_sbc (s : State) (n : CoreId) (f : FmtA) :
    Completes (.sbc n f) s n (shapeA f) fun c d => c.Subtracted d f.rd (c.gr f.ra) (c.gr f.rb) (!c.flagC) :=
  completes_computed rfl rfl fun c => by
    have := Core.addTo_not_eq c f.rd (c.gr f.ra) (c.gr f.rb) (!c.flagC)
    rwa [Bool.not_not] at this

/-- NOP leaves its core as it was, retired. -/
theorem completes_nop (s : State) (n : CoreId) (f : FmtA) :
    Completes (.nop n f) s n (shapeNop f) fun c d => d = c.bookkept d ∧ c.WentOn d 1 :=
  completes_of_body (g := id) rfl (congrArg (EStateM.Result.ok Next.seq) (State.updCore_self rfl).symm) fun c a x =>
    ⟨congrArg (fun d : Core => d.settledAt a x) (Core.retire_bookkept c (shapeNop f) .seq),
      Core.retire_seq_pc c (shapeNop f), Core.retire_seq_retired c (shapeNop f)⟩

/-- Whether a bit lies in the quarter that INSI replaces (R67). -/
theorem bit_insert (x : Word) (q : BitVec 2) (imm : BitVec 18) {i : Nat} (hi : i < 72) :
    bit (setBits x (18 * q.toNat) 18 imm) i = if i / 18 = q.toNat then bit imm (i % 18) else bit x i := by
  rw [bit_setBits]
  by_cases h : i / 18 = q.toNat
  · rw [if_pos h, if_pos (by omega), ← h]
    congr 1
    omega
  · rw [if_neg h, if_neg (by omega)]

/-- Settles O1: each instruction is the shared sum, difference or logical result on its own operands. -/
theorem sumsLogicAndConstants : Obligations.SumsLogicAndConstants := by
  unfold Obligations.SumsLogicAndConstants
  intro s n
  refine ⟨fun f => ⟨?_, ?_, ?_, ?_, ?_, ?_⟩, fun f => ⟨?_, ?_⟩, fun f => ⟨?_, ?_, ?_, ?_, ?_, ?_⟩, fun f => ⟨?_, ?_, ?_, ?_, ?_⟩⟩
  case refine_1 => exact completes_added rfl rfl
  case refine_2 => exact completes_added (cin := Core.flagC) rfl rfl
  case refine_3 => exact completes_subtracted (bin := fun _ => false) rfl rfl
  case refine_4 => exact completes_sbc s n f
  case refine_5 => exact completes_subtracted (bin := fun _ => false) rfl rfl
  case refine_6 => exact completes_subtracted (bin := fun _ => false) rfl rfl
  case refine_7 => exact completes_added rfl rfl
  case refine_8 => exact completes_subtracted (bin := fun _ => false) rfl rfl
  case refine_14 => exact completes_nop s n f
  case refine_18 => exact completes_loaded rfl rfl
  case refine_19 =>
    refine completes_regIns rfl fun c a x => ⟨_, Core.loaded_of c _ f.rd _ rfl a x, fun i hi => ?_⟩
    exact bit_insert _ _ _ hi
  all_goals exact completes_logical rfl rfl

/-! ## Shifts and rotates (R68) -/

theorem bit_of_ge {w : Nat} (x : BitVec w) {i : Nat} (h : w ≤ i) : bit x i = false := BitVec.getLsbD_of_ge x i h

/-- A left shift by every count: its result, V, and C unless the count is 0. -/
theorem shiftLeft_eq (a : Word) (k : Nat) : shiftLeft a k =
    (a <<< k, decide ((a <<< k).toInt ≠ a.toInt * 2 ^ k), if k = 0 then none else some (decide (k ≤ 72) && bit a (72 - k))) := by
  unfold shiftLeft
  by_cases h0 : k = 0
  · simp [h0]
  · rw [if_neg h0, if_neg h0]
    by_cases h72 : k ≤ 72
    · simp [h72, bne, decide_not, BEq.beq]
    · have hzero : a <<< k = 0 := BitVec.shiftLeft_eq_zero (by omega)
      have hover : (a != 0) = decide ((0 : Word).toInt ≠ a.toInt * 2 ^ k) := by
        have h2 : (2 : Int) ^ k ≠ 0 := by positivity
        have h0 : (0 : Word).toInt = 0 := rfl
        rw [Bool.eq_iff_iff, bne_iff_ne, decide_eq_true_eq, h0, ne_comm (a := (0 : Int)), mul_ne_zero_iff_right h2, ← h0, Ne, Ne,
          BitVec.toInt_inj]
      rw [if_neg h72, hzero, hover]
      simp [h72]

/-- A logical right shift by every count. -/
theorem shiftRight_eq (a : Word) (k : Nat) : shiftRight a k = (a >>> k, if k = 0 then none else some (bit a (k - 1))) := by
  unfold shiftRight
  by_cases h0 : k = 0
  · simp [h0]
  · rw [if_neg h0, if_neg h0]
    by_cases h72 : k ≤ 72
    · rw [if_pos h72]
    · rw [if_neg h72, bit_of_ge a (by omega), BitVec.ushiftRight_eq_zero (by omega)]
      rfl

/-- An arithmetic right shift by every count: beyond 72 it leaves copies of bit 71. -/
theorem shiftArith_eq (a : Word) (k : Nat) : shiftArith a k =
    (a.sshiftRight k, if k = 0 then none else some (if k ≤ 72 then bit a (k - 1) else a.msb)) := by
  unfold shiftArith
  by_cases h0 : k = 0
  · simp [h0]
  · rw [if_neg h0, if_neg h0]
    by_cases h72 : k ≤ 72
    · rw [if_pos h72, if_pos h72]
    · have hcopies : a.sshiftRight k = if a.msb then BitVec.allOnes 72 else 0 := by
        apply BitVec.eq_of_getLsbD_eq
        intro i hi
        have hge : ¬k + i < 72 := by omega
        rw [BitVec.getLsbD_sshiftRight, if_neg hge]
        cases a.msb
        · simp
        · rw [if_pos rfl, BitVec.getLsbD_allOnes]
          simp [hi]
      rw [if_neg h72, if_neg h72, hcopies, bit_top]

theorem Core.shlTo_eq (c : Core) (rd : BitVec 5) (a : Word) (k : Nat) : c.shlTo rd a k =
    (c.setG rd (a <<< k)).setNZVC (a <<< k).msb (a <<< k == 0) (decide ((a <<< k).toInt ≠ a.toInt * 2 ^ k))
      (if k = 0 then c.flagC else decide (k ≤ 72) && bit a (72 - k)) := by
  simp only [Core.shlTo, shiftLeft_eq, Core.setFlags, bit_top]
  split <;> rfl

theorem Core.shrTo_shiftRight_eq (c : Core) (rd : BitVec 5) (a : Word) (k : Nat) : c.shrTo rd (shiftRight a k) =
    (c.setG rd (a >>> k)).setNZVC (a >>> k).msb (a >>> k == 0) false (if k = 0 then c.flagC else bit a (k - 1)) := by
  simp only [Core.shrTo, shiftRight_eq, Core.setFlags, bit_top]
  split <;> rfl

theorem Core.shrTo_shiftArith_eq (c : Core) (rd : BitVec 5) (a : Word) (k : Nat) : c.shrTo rd (shiftArith a k) =
    (c.setG rd (a.sshiftRight k)).setNZVC a.msb (a.sshiftRight k == 0) false
      (if k = 0 then c.flagC else if k ≤ 72 then bit a (k - 1) else a.msb) := by
  simp only [Core.shrTo, shiftArith_eq, Core.setFlags, bit_top, BitVec.msb_sshiftRight]
  split <;> rfl

/-- A rotate moves each bit up by the count modulo 72. -/
theorem bit_rotateLeft (a : Word) (k : Nat) {i : Nat} (hi : i < 72) : bit (a.rotateLeft (k % 72)) ((i + k) % 72) = bit a i := by
  unfold bit
  rw [BitVec.getLsbD_rotateLeft]
  have hk : k % 72 % 72 = k % 72 := Nat.mod_mod k 72
  rw [hk]
  by_cases h : (i + k) % 72 < k % 72
  · simp only [h, decide_true, cond_true]
    congr 1
    omega
  · simp only [h, decide_false, cond_false, show (i + k) % 72 < 72 by omega, decide_true, Bool.true_and]
    congr 1
    omega

section
variable {i : Instr} {s : State} {n : CoreId} {sh : Shape} {rd : BitVec 5} {a : Core → Word} {k : Core → Nat}

theorem completes_rotated (hslots : sh.slots = 1) (hexec : exec i s = .next (regIns n sh (fun c => c.rotTo rd (a c) (k c)) s)) :
    Completes i s n sh fun c d => ∃ v, c.Computed d rd v v.msb (v == 0) c.flagV c.flagC ∧
      ∀ i, i < 72 → bit v ((i + k c) % 72) = bit (a c) i := by
  intro hruns
  obtain ⟨u, hu, honly, hcomputed⟩ := completes_computed (v := fun c => (a c).rotateLeft (k c % 72)) (nf := fun c => ((a c).rotateLeft (k c % 72)).msb)
    (z := fun c => (a c).rotateLeft (k c % 72) == 0) (o := Core.flagV) (cy := Core.flagC) hslots hexec
    (fun c => by rw [Core.rotTo, Core.setFlags, bit_top]) hruns
  exact ⟨u, hu, honly, _, hcomputed, fun i hi => bit_rotateLeft _ _ hi⟩

end

/-- Settles O2: register and immediate forms run one shift, of which the lemmas above say every count. -/
theorem shiftsAndRotates : Obligations.ShiftsAndRotates := by
  unfold Obligations.ShiftsAndRotates
  intro s n shl shr sha rot
  exact ⟨fun f => ⟨completes_computed rfl rfl fun c => Core.shlTo_eq c _ _ _, completes_computed rfl rfl fun c => Core.shrTo_shiftRight_eq c _ _ _,
      completes_computed rfl rfl fun c => Core.shrTo_shiftArith_eq c _ _ _, completes_rotated rfl rfl⟩,
    fun f => ⟨completes_computed rfl rfl fun c => Core.shlTo_eq c _ _ _, completes_computed rfl rfl fun c => Core.shrTo_shiftRight_eq c _ _ _,
      completes_computed rfl rfl fun c => Core.shrTo_shiftArith_eq c _ _ _, completes_rotated rfl rfl⟩⟩

/-! ## RDST and WRST (R49) -/

/-- What RDST reads of ST: nothing below bit 55. -/
theorem Core.bit_readSt (c : Core) (i : Nat) : bit c.readSt i = (decide (55 ≤ i) && bit c.st i) := by
  have hmask : ((1 <<< 55 : Word) - 1) = BitVec.ofNat 72 (2 ^ 55 - 1) := rfl
  by_cases hi : i < 72
  · unfold bit Core.readSt
    rw [hmask, BitVec.getLsbD_and, BitVec.getLsbD_not, BitVec.getLsbD_ofNat, Nat.testBit_two_pow_sub_one]
    simp [hi, Bool.and_comm, ← decide_not]
  · rw [bit_of_ge _ (by omega), bit_of_ge _ (by omega), Bool.and_false]

/-- A field copied from one value to another. -/
theorem bit_copyField (x v : Word) (lo len : Nat) {i : Nat} (hi : i < 72) :
    bit (setBits x lo len (bits v lo len)) i = if lo ≤ i ∧ i < lo + len then bit v i else bit x i := by
  rw [bit_setBits, bit_bits]
  by_cases h : lo ≤ i ∧ i < lo + len
  · rw [if_pos h, if_pos ⟨h.1, h.2, hi⟩, show lo + (i - lo) = i by omega, decide_eq_true (by omega), Bool.true_and]
  · rw [if_neg h, if_neg fun h' => h ⟨h'.1, h'.2.1⟩]

/-- What WRST writes of ST. -/
theorem Core.bit_writeSt (c : Core) (v : Word) {i : Nat} (hi : i < 72) : bit (c.writeSt v).st i =
    if 68 ≤ i ∨ (59 ≤ i ∧ i < 64) ∨ (65 ≤ i ∧ i < 68 ∧ bits v 65 3 ≠ 7) then bit v i else bit c.st i := by
  unfold Core.writeSt
  by_cases hdrm : bits v 65 3 = 7
  · simp only [hdrm, if_true, bit_copyField _ _ _ _ hi, ne_eq, not_true_eq_false, and_false, or_false]
    grind
  · simp only [hdrm, if_false, bit_copyField _ _ _ _ hi, ne_eq, not_false_eq_true, and_true]
    grind

/-- Settles O6: each instruction changes its one register as the lemmas above say. -/
theorem statusRegisterAccess : Obligations.StatusRegisterAccess := by
  unfold Obligations.StatusRegisterAccess
  intro s n f
  refine ⟨completes_regIns rfl fun c a x => ⟨_, Core.loaded_of c _ f.rd _ rfl a x, c.bit_readSt⟩, completes_regIns rfl fun c a x => ?_⟩
  obtain ⟨-, hst, -, -⟩ := Core.retire_keeps (c.writeSt (c.gr f.ra)) (shapeWrst f) .seq
  have hbook := congrArg (fun d : Core => d.settledAt a x) (Core.retire_bookkept (c.writeSt (c.gr f.ra)) (shapeWrst f) .seq)
  refine ⟨hbook.trans ?_, ⟨Core.retire_seq_pc _ _, Core.retire_seq_retired _ _⟩, fun i hi => ?_⟩
  · have hd : (((c.writeSt (c.gr f.ra)).retire (shapeWrst f) .seq).settledAt a x).st = (c.writeSt (c.gr f.ra)).st := hst
    rw [hd]
    rfl
  · exact (congrArg (fun w => bit w i) hst).trans (c.bit_writeSt _ hi)

end Sys2Proof.Machine
end

section
/-! What an instruction that completes leaves (R58), and the loads of local words (R61-R63, R338). -/

namespace Sys2Proof.Machine

/-! ## Changes to one core -/

/-- Nothing but core n, the lines of its quad's L2 and the counter of free values differs, each at a value of its own. -/
theorem onlyCore_iff {n : CoreId} {t u : State} : OnlyCore n t u ↔ ∃ c k l, u =
    { t with cores := t.cores.set n c, free := k, quads := t.quads.set (quadOf n) { t.quads[quadOf n] with l2 := l } } := by
  refine ⟨fun h => ⟨_, _, _, h⟩, ?_⟩
  rintro ⟨c, k, l, rfl⟩
  simp [OnlyCore]

theorem OnlyCore.trans {n : CoreId} {t u v : State} (h : OnlyCore n t u) (k : OnlyCore n u v) : OnlyCore n t v := by
  obtain ⟨c, x, l, rfl⟩ := onlyCore_iff.1 h
  obtain ⟨d, y, m, rfl⟩ := onlyCore_iff.1 k
  exact onlyCore_iff.2 ⟨d, y, m, by simp⟩

theorem OnlyCore.mem {n : CoreId} {t u : State} (h : OnlyCore n t u) : u.mem = t.mem := by rw [h]

/-- An instruction whose body ends: its core has retired, and nothing else differs from what the body left. -/
theorem runIns_retires {s : State} {n : CoreId} {sh : Shape} {body : M Next} {nx : Next} {v : State} (hstarts : s.starts n sh = true)
    (hover : overruns (s.core n sh) sh nx = false) (hbody : body (s.fetched n sh) = .ok nx v) :
    OnlyCore n v (s.runIns n sh body) ∧ ∃ a x, (s.runIns n sh body).cores[n] = (v.cores[n].retire sh nx).settledAt a x := by
  rw [runIns_next hstarts hbody hover]
  obtain ⟨a, x, k, e⟩ := State.settleCharge_spec (v.updCore n fun c => c.retire sh nx) n
  rw [e, State.updCore_updCore]
  exact ⟨onlyCore_updCore_free v n _ k, a, x, State.updCore_core v n fun c => (c.retire sh nx).settledAt a x⟩

/-- A retired core is the core before but for its bookkeeping. -/
theorem Core.eq_bookkept_of_retire {c d : Core} {sh : Shape} {nx : Next} {a : BitVec 64} {x : BitVec 32}
    (h : d = (c.retire sh nx).settledAt a x) : d = c.bookkept d := by
  subst h
  exact congrArg (fun d : Core => d.settledAt a x) (Core.retire_bookkept c sh nx)

/-- An instruction that goes on to its successor (R58). -/
theorem runIns_goesOn {s : State} {n : CoreId} {sh : Shape} {body : M Next} {v : State} (hruns : s.runs n sh = true)
    (hbody : body (s.fetched n sh) = .ok .seq v) :
    let u := s.runIns n sh body
    OnlyCore n v u ∧ u.cores[n] = v.cores[n].bookkept u.cores[n] ∧ v.cores[n].WentOn u.cores[n] sh.slots := by
  intro u
  rw [State.runs, Bool.and_eq_true, Bool.not_eq_true'] at hruns
  obtain ⟨honly, a, x, hcore⟩ := runIns_retires hruns.1 hruns.2 hbody
  refine ⟨honly, Core.eq_bookkept_of_retire hcore, ?_, ?_⟩
  · rw [hcore]
    exact Core.retire_seq_pc _ sh
  · rw [hcore]
    exact Core.retire_seq_retired _ sh

/-- An instruction that goes to a target. -/
theorem runIns_goesTo {s : State} {n : CoreId} {sh : Shape} {body : M Next} {v : State} {pc : DAddr} (hstarts : s.starts n sh = true)
    (hbody : body (s.fetched n sh) = .ok (.jump pc) v) :
    let u := s.runIns n sh body
    OnlyCore n v u ∧ u.cores[n] = v.cores[n].bookkept u.cores[n] ∧ v.cores[n].WentTo u.cores[n] pc := by
  intro u
  obtain ⟨honly, a, x, hcore⟩ := runIns_retires hstarts rfl hbody
  refine ⟨honly, Core.eq_bookkept_of_retire hcore, ?_, ?_⟩
  · rw [hcore]
    exact Core.retire_jump_pc _ sh pc
  · rw [hcore]
    exact Core.retire_jump_retired _ sh pc

/-! ## Lines of the L1 and L2 (R329, R336) -/

theorem State.updQuad_self {s : State} {q : QuadId} {f : Quad → Quad} (h : f s.quads[q] = s.quads[q]) : s.updQuad q f = s := by
  unfold State.updQuad
  rw [h, Fin.getElem_fin, Vector.set_getElem_self]

/-- Other lines in core n's L1 and its quad's L2, and another count of L1 misses. -/
def State.withLines (s : State) (n : CoreId) (l1 : List WAddr) (k : BitVec 32) (l2 : List WAddr) : State :=
  (s.updQuad (quadOf n) fun q => { q with l2 := l2 }).updCore n fun c => { c with l1 := l1, l1miss := k }

/-- Nothing differs but the lines that an access may bring, and their count. -/
def LinesOnly (n : CoreId) (s t : State) : Prop := ∃ l1 k l2, t = s.withLines n l1 k l2

namespace LinesOnly

variable {n : CoreId} {s t u : State}

theorem refl (s : State) : LinesOnly n s s := by
  refine ⟨s.cores[n].l1, s.cores[n].l1miss, s.quads[quadOf n].l2, ?_⟩
  rw [State.withLines, State.updQuad_self rfl, State.updCore_self rfl]

theorem trans (h : LinesOnly n s t) (k : LinesOnly n t u) : LinesOnly n s u := by
  obtain ⟨l1, m, l2, rfl⟩ := h
  obtain ⟨l1', m', l2', rfl⟩ := k
  exact ⟨l1', m', l2', by simp [State.withLines, State.updCore, State.updQuad]⟩

theorem onlyCore (h : LinesOnly n s t) : OnlyCore n s t := by
  obtain ⟨l1, k, l2, rfl⟩ := h
  exact onlyCore_iff.2 ⟨{ s.cores[n] with l1 := l1, l1miss := k }, s.free, l2, rfl⟩

theorem mem (h : LinesOnly n s t) : t.mem = s.mem := h.onlyCore.mem

theorem core (h : LinesOnly n s t) : t.cores[n] = { s.cores[n] with l1 := t.cores[n].l1, l1miss := t.cores[n].l1miss } := by
  obtain ⟨l1, k, l2, rfl⟩ := h
  simp [State.withLines, State.updCore]

/-- What the lines do not bear on. -/
theorem bookkept (h : LinesOnly n s t) (d : Core) : t.cores[n].bookkept d = s.cores[n].bookkept d := by rw [h.core]; rfl
theorem storeBuf (h : LinesOnly n s t) : t.cores[n].storeBuf = s.cores[n].storeBuf := by rw [h.core]
theorem pc (h : LinesOnly n s t) : t.cores[n].pc = s.cores[n].pc := by rw [h.core]
theorem retired (h : LinesOnly n s t) : t.cores[n].retired = s.cores[n].retired := by rw [h.core]
theorem det (h : LinesOnly n s t) : t.cores[n].det = s.cores[n].det := by rw [h.core]; rfl
theorem data (h : LinesOnly n s t) (pa : WAddr) : t.data pa = s.data pa := congrArg MCell.data (State.cell_congr h.mem pa)

theorem settled (h : LinesOnly n s t) {r : WordRef} (hr : s.settled n r) : t.settled n r := by
  obtain ⟨hlocal, hbad, hbuf⟩ := hr
  exact ⟨hlocal, by rw [State.cell_congr h.mem]; exact hbad, by rw [h.storeBuf]; exact hbuf⟩

end LinesOnly

theorem State.touchLine_lines (s : State) (n : CoreId) (pa : WAddr) : LinesOnly n s (s.touchLine n pa) := by
  unfold State.touchLine
  dsimp only
  split
  · exact LinesOnly.refl s
  · exact ⟨_, _, _, rfl⟩

/-! ## Loads of settled words (R338) -/

section
variable {n : CoreId} {t : State} {r : WordRef}

/-- The buffer gives nothing of a word that no buffered store touches. -/
theorem fromBuffer_none (h : ∀ e ∈ t.cores[n].storeBuf, e.maskAt r.pa = 0) : fromBuffer n r t = .ok none t := by
  have hnone (m : BitVec 18) : (t.cores[n].storeBuf.filter fun e => e.maskAt r.pa &&& m != 0) = [] :=
    List.filter_eq_nil_iff.2 fun e he => by simp [h e he]
  unfold fromBuffer
  rw [work_bind_ok (work_getCore n t)]
  rw [← Fin.getElem_fin, hnone]
  rfl

theorem loadRef_settled (hdet : t.cores[n].det = false) (h : t.settled n r) :
    ∃ u, loadRef n r t = .ok (t.data r.pa) u ∧ LinesOnly n t u := by
  obtain ⟨hlocal, hbad, hbuf⟩ := h
  have hlines : ∃ u, loadLocal n r t = .ok (t.data r.pa) u ∧ LinesOnly n t u := by
    unfold loadLocal
    rw [work_bind_ok (fromBuffer_none hbuf)]
    by_cases hmt : (r.ent.mt != 1) = true
    · have ht := State.touchLine_lines t n r.pa
      refine ⟨t.touchLine n r.pa, ?_, ht⟩
      dsimp only
      rw [if_pos hmt, work_bind_ok (work_upd _ t), work_bind_ok (work_get _), if_neg (by rw [State.cell_congr ht.mem, hbad]; exact Bool.false_ne_true),
        ht.data]
      rfl
    · refine ⟨t, ?_, LinesOnly.refl t⟩
      dsimp only
      rw [if_neg hmt, work_bind_ok (work_get _), if_neg (by rw [hbad]; exact Bool.false_ne_true)]
      rfl
  unfold loadRef
  rw [work_bind_ok (chargeAccess_off hdet r.pa)]
  rcases regionOf_of_isLocalMem hlocal with hr | hr <;> rw [hr] <;> exact hlines

theorem loadWord_settled (hdet : t.cores[n].det = false) (h : t.settled n r) :
    ∃ u, loadWord n r t = .ok (t.data r.pa) u ∧ LinesOnly n t u := by
  unfold loadWord
  rw [if_neg (by rw [regionOf_ne_device h.1]; exact Bool.false_ne_true)]
  exact loadRef_settled hdet h

/-- Work on each element of a list in turn, each bringing no more than lines. -/
theorem mapL_lines {α β : Type} {f : α → M β} {g : α → β} {l : List α}
    (h : ∀ x ∈ l, ∀ u, LinesOnly n t u → ∃ v, f x u = .ok (g x) v ∧ LinesOnly n u v) :
    ∃ u, mapL f l t = .ok (l.map g) u ∧ LinesOnly n t u := by
  suffices ∀ s, LinesOnly n t s → ∃ u, mapL f l s = .ok (l.map g) u ∧ LinesOnly n t u from this t (LinesOnly.refl t)
  induction l with
  | nil => exact fun s hs => ⟨s, rfl, hs⟩
  | cons x l ih =>
    intro s hs
    rw [List.forall_mem_cons] at h
    obtain ⟨v, hv, hlines⟩ := h.1 s hs
    obtain ⟨u, hu, hrest⟩ := ih h.2 v (hs.trans hlines)
    refine ⟨u, ?_, hrest⟩
    unfold mapL
    rw [work_bind_ok hv, work_bind_ok hu]
    rfl

variable {rs : List WordRef}

theorem mapL_loadRef_settled (hdet : t.cores[n].det = false) (h : ∀ r ∈ rs, t.settled n r) :
    ∃ u, mapL (loadRef n) rs t = .ok (rs.map fun r => t.data r.pa) u ∧ LinesOnly n t u :=
  mapL_lines fun r hr u hu => by
    rw [← hu.data]
    exact loadRef_settled (hu.det.trans hdet) (hu.settled (h r hr))

theorem loadWords_settled (hdet : t.cores[n].det = false) (h : ∀ r ∈ rs, t.settled n r) :
    ∃ u, loadWords n rs t = .ok (BitVec.ofNat 72 (t.operandValue rs)) u ∧ LinesOnly n t u := by
  obtain ⟨u, hu, hlines⟩ : ∃ u, mapL (loadWord n) rs t = .ok (rs.map fun r => t.data r.pa) u ∧ LinesOnly n t u :=
    mapL_lines fun r hr u hu => by
      rw [← hu.data]
      exact loadWord_settled (hu.det.trans hdet) (hu.settled (h r hr))
  refine ⟨u, ?_, hlines⟩
  unfold loadWords
  rw [work_bind_ok hu]
  rfl

end

/-! ## The loads -/

/-- The address of an M-format instruction whose base holds a digit address (R61). -/
theorem mEA_ok {n : CoreId} {f : FmtM} {s : State} (h : isDigitAddr (s.cores[n].gr f.rb)) : mEA n f s = .ok (s.cores[n].ea f) s := by
  unfold mEA formEA
  rw [work_bind_ok (work_gr n f.rb s)]
  exact work_bind_ok (regAddr_ok h s)

theorem aligned_ok {ok : Bool} (h : ok = true) (cls : BitVec 5) (da : DAddr) (s : State) : aligned ok cls da s = .ok () s := by
  unfold aligned
  rw [work_require, if_pos h]

/-- A write to registers that bookkeeping does not bear on. -/
def BesideBook (put : Core → Core) : Prop := ∀ c d, (put c).bookkept d = put (c.bookkept d)

theorem besideBook_setG (rd : BitVec 5) (v : Word) : BesideBook fun c => c.setG rd v := by
  intro c d
  unfold Core.setG
  split <;> rfl

theorem besideBook_setF (rd : BitVec 5) (v : BitVec 32) : BesideBook fun c => c.setF rd v := fun _ _ => rfl

section
variable {i : Instr} {s t : State} {n : CoreId} {sh : Shape} {body : M Next}

/-- An instruction that brings lines and writes registers goes on with nothing else changed. -/
theorem loadAnswers_of_body {w : State} {put : Core → Core} (hslots : sh.slots = 1) (hexec : exec i s = .next (s.runIns n sh body))
    (hruns : s.runs n sh = true) (hput : BesideBook put) (hpc : ∀ c, (put c).pc = c.pc) (hret : ∀ c, (put c).retired = c.retired)
    (hlines : LinesOnly n t w) (hbody : body (s.fetched n sh) = .ok .seq (w.updCore n put)) : LoadAnswers i s t n put := by
  obtain ⟨honly, hcore, hwent⟩ := runIns_goesOn hruns hbody
  have hw : (w.updCore n put).cores[n] = put w.cores[n] := State.updCore_core w n put
  refine ⟨_, hexec, (hlines.onlyCore.trans (onlyCore_updCore w n put)).trans honly, ?_, ?_⟩
  · rw [hw, hslots] at hwent
    obtain ⟨h1, h2⟩ := hwent
    exact ⟨by rw [h1, hpc, hlines.pc], by rw [h2, hret, hlines.retired]⟩
  · rw [hw, hput, hlines.bookkept] at hcore
    exact hcore

variable {f : FmtM} {rs : List WordRef}

/-- A load whose operand passes its checks, of words that stand in memory (R61-R63). -/
theorem loadAnswers_of_operand {a : Acc} {k : Nat} {put : Core → Word → Core} (hslots : sh.slots = 1)
    (hexec : exec i s = .next (s.runIns n sh (loadBody n f a k put))) (hput : ∀ v, BesideBook fun c => put c v)
    (hpc : ∀ c v, (put c v).pc = c.pc) (hret : ∀ c v, (put c v).retired = c.retired) (hset : ∀ r ∈ rs, t.settled n r)
    (hdet : t.cores[n].det = false) (hruns : s.runs n sh = true) (haddr : isDigitAddr ((s.core n sh).gr f.rb))
    (halign : k = 2 → daPos ((s.core n sh).ea f) % 2 = 0)
    (hop : OperandPasses n f.pr permLoad a ((s.core n sh).ea f) k (s.fetched n sh) rs t) :
    LoadAnswers i s t n fun d => put d (BitVec.ofNat 72 (t.operandValue rs)) := by
  obtain ⟨w, hw, hlines⟩ := loadWords_settled hdet hset
  refine loadAnswers_of_body hslots hexec hruns (hput _) (fun c => hpc c _) (fun c => hret c _) hlines ?_
  have htail : (do
      let rs ← operand n 1 f.pr permLoad a ((s.core n sh).ea f) k
      let v ← loadWords n rs
      modCore n fun c => put c v
      return Next.seq : M Next) (s.fetched n sh) = .ok .seq (w.updCore n fun c => put c (BitVec.ofNat 72 (t.operandValue rs))) := by
    rw [work_bind_ok hop, work_bind_ok hw]
    rfl
  have hea : mEA n f (s.fetched n sh) = .ok ((s.core n sh).ea f) (s.fetched n sh) := mEA_ok haddr
  unfold loadBody
  rw [work_bind_ok hea]
  by_cases hk : k = 2
  · rw [if_pos hk, work_bind_ok (aligned_ok (beq_iff_eq.2 (halign hk)) _ _ _)]
    exact htail
  · rw [if_neg hk]
    exact htail

end

theorem atPlace_daAdd {v : Word} (h : isDigitAddr v) (k : Int) : daReg (daAdd (bits v 0 57) k) = atPlace (place v + k) := by
  rw [daAdd, daReg_advance, daPlace_bits h.1]

/-- LEA writes the effective address and makes no access. -/
theorem completes_lea {s : State} {n : CoreId} {f : FmtM} (h : isDigitAddr ((s.core n (shapeLea f)).gr f.rb)) :
    Completes (.lea n f) s n (shapeLea f) fun c d => c.Loaded d f.rt (atPlace (place (c.gr f.rb) + f.disp.toInt)) := by
  intro hruns
  have hbody : (do
      let da ← mEA n f
      setG n f.rt (daReg da)
      return Next.seq : M Next) (s.fetched n (shapeLea f)) =
      .ok .seq ((s.fetched n (shapeLea f)).updCore n fun c => c.setG f.rt (daReg ((s.core n (shapeLea f)).ea f))) := by
    rw [work_bind_ok (mEA_ok h)]
    rfl
  obtain ⟨honly, a, x, hcore⟩ := runIns_updCore hruns hbody
  refine ⟨_, rfl, honly, ?_⟩
  rw [Core.ea, atPlace_daAdd h, State.fetched_core] at hcore
  rw [Fin.getElem_fin, hcore]
  exact Core.loaded_of _ _ _ _ rfl a x

/-- Settles O8: each load is the shared body with its own length and register. -/
theorem loadsReadTheirPositions : Obligations.LoadsReadTheirPositions := by
  unfold Obligations.LoadsReadTheirPositions
  intro s t n f rs
  have hword {i : Instr} {sh : Shape} {a : Acc} {k : Nat} := loadAnswers_of_operand (i := i) (s := s) (t := t) (n := n) (sh := sh) (f := f)
    (rs := rs) (a := a) (k := k) (put := fun c v => c.setG f.rt v)
  refine ⟨fun hset hdet hruns haddr => ⟨fun hop => ?_, fun heven hop => ?_, fun hop => ?_⟩, fun hset hdet hruns haddr hop => ?_,
    fun haddr => completes_lea haddr⟩
  · exact hword rfl rfl (besideBook_setG f.rt) (by simp) (by simp) hset hdet hruns haddr (fun hk => absurd hk (by decide)) hop
  · exact hword rfl rfl (besideBook_setG f.rt) (by simp) (by simp) hset hdet hruns haddr (fun _ => heven) hop
  · exact hword rfl rfl (besideBook_setG f.rt) (by simp) (by simp) hset hdet hruns haddr (fun hk => absurd hk (by decide)) hop
  · exact loadAnswers_of_operand (put := fun c v => c.setF f.rt (bits v 0 32)) rfl rfl (fun v => besideBook_setF f.rt _) (fun _ _ => rfl)
      (fun _ _ => rfl) hset hdet hruns haddr (fun hk => absurd hk (by decide)) hop

end Sys2Proof.Machine
end

section
/-! The atomic instructions on a local word (R64, R67, R339). -/

namespace Sys2Proof.Machine

/-! ## The one access -/

theorem merge_maskAll (v old : Word) : merge maskAll v old = v := by
  have hall : maskBits maskAll = BitVec.allOnes 72 := by decide
  rw [merge, hall, BitVec.and_allOnes, BitVec.not_allOnes, BitVec.and_zero, BitVec.or_zero]

/-- The same memory put in both states leaves nothing but lines different. -/
theorem LinesOnly.withMem {n : CoreId} {s t : State} (h : LinesOnly n s t) (m : List (ℕ × MCell)) : LinesOnly n { s with mem := m } { t with mem := m } := by
  obtain ⟨l1, k, l2, rfl⟩ := h
  exact ⟨l1, k, l2, rfl⟩

theorem State.putMasked_eq_withMem (s : State) (pa : WAddr) (m : BitVec 18) (v : Word) :
    s.putMasked pa m v = { s with mem := (s.putMasked pa m v).mem } := rfl

section
variable {n : CoreId} {f : FmtM} {s t : State} {r : WordRef} {new : Core → Word → Option Word}

/-- The line that an atomic access brings, unless its space is not cached. -/
theorem touchCached_lines {α : Type} (n : CoreId) (r : WordRef) (t : State) :
    ∃ w, LinesOnly n t w ∧ ∀ k : M α, (if r.ent.mt != 1 then (do upd fun s => s.touchLine n r.pa; k) else k : M α) t = k w := by
  by_cases hmt : (r.ent.mt != 1) = true
  · exact ⟨_, State.touchLine_lines t n r.pa, fun k => by rw [if_pos hmt, work_bind_ok (work_upd _ t)]⟩
  · exact ⟨t, LinesOnly.refl t, fun k => by rw [if_neg hmt]⟩

/-- The access of a correctable local word (R64): it reads the old word, and stores the new one when there is one. -/
theorem atomicAccess_settled (haddr : isDigitAddr (s.cores[n].gr f.rb)) (halign : daPos (s.cores[n].ea f) = 0)
    (hop : OperandPasses n f.pr (permLoad ||| permStore) .atomic (s.cores[n].ea f) 18 (s.drainAll n) [r] t) (hinv : t.Inv)
    (hdet : t.cores[n].det = false) (hbad : (t.cell r.pa).bad = false) (hchg : r.ent.chg = true)
    (hnew : ∀ c d : Core, c.g = d.g → new c = new d) :
    let o := new t.cores[n] (t.data r.pa)
    ∃ z, atomicAccess n f new s = .ok (t.data r.pa, o.isSome) z ∧ LinesOnly n { t with mem := z.mem } z ∧
      ∀ a, z.data a = if a = r.pa then o.getD (t.data r.pa) else t.data a := by
  intro o
  obtain ⟨w, hlines, hw⟩ := touchCached_lines (α := Word × Bool) n r t
  have ho : new w.cores[n.val] (t.data r.pa) = o := congrFun (hnew _ _ (by rw [← Fin.getElem_fin, hlines.core])) _
  unfold atomicAccess
  rw [work_bind_ok (mEA_ok haddr), work_bind_ok (aligned_ok (beq_iff_eq.2 halign) _ _ _), work_bind_ok (work_upd _ s), work_bind_ok hop]
  dsimp only
  rw [work_bind_ok (chargeAccess_off hdet r.pa), work_bind_ok (chargeAccess_off hdet r.pa), hw, work_bind_ok (work_get w),
    if_neg (by rw [State.cell_congr hlines.mem, hbad]; exact Bool.false_ne_true), hlines.data]
  dsimp only [Fin.getElem_fin]
  rw [ho]
  cases o with
  | none =>
    refine ⟨w, rfl, ?_, fun a => ?_⟩
    · rw [hlines.mem]
      exact hlines
    · rw [hlines.data]
      split
      · next ha => rw [ha]; rfl
      · rfl
  | some v =>
    have hwinv : w.Inv := by
      obtain ⟨l1, k, l2, rfl⟩ := hlines
      exact hinv
    refine ⟨w.putMasked r.pa maskAll v, ?_, hlines.withMem _, fun a => ?_⟩
    · dsimp only
      rw [work_bind_ok (markChg_done hchg w), work_bind_ok (work_upd _ w)]
      rfl
    · rw [State.data_putMasked hwinv (fun _ => rfl), merge_maskAll, hlines.data]
      rfl

/-- An atomic instruction that makes its access and writes registers. -/
theorem swaps_of_access {i : Instr} {sh : Shape} {body : M Next} {z : State} {v : WAddr → Word} {put : Core → Core} (hslots : sh.slots = 1)
    (hexec : exec i s = .next (s.runIns n sh body)) (hruns : s.runs n sh = true) (hput : BesideBook put) (hpc : ∀ c, (put c).pc = c.pc)
    (hret : ∀ c, (put c).retired = c.retired) (hlines : LinesOnly n { t with mem := z.mem } z) (hdata : ∀ a, z.data a = v a)
    (hbody : body (s.fetched n sh) = .ok .seq (z.updCore n put)) :
    ∃ u, exec i s = .next u ∧ (∀ a, (u.cell a).data = v a) ∧ t.cores[n].WentOn u.cores[n] 1 ∧
      u.cores[n] = put (t.cores[n].bookkept u.cores[n]) ∧ OnlyCore n { t with mem := u.mem } u := by
  obtain ⟨u, hu, honly, hwent, hcore⟩ := loadAnswers_of_body hslots hexec hruns hput hpc hret hlines hbody
  have hmem : u.mem = z.mem := honly.mem
  refine ⟨u, hu, fun a => ?_, hwent, hcore, ?_⟩
  · rw [← hdata, State.data, State.cell_congr hmem]
  · rw [hmem]
    exact honly

end

theorem besideBook_casw (rt : BitVec 5) (old : Word) (hit : Bool) :
    BesideBook fun c => { c.setG rt old with st := setBit c.st 70 hit } := by
  intro c d
  exact congrArg (fun e : Core => { e with st := setBit c.st 70 hit }) (besideBook_setG rt old c d)

/-- Settles O10: each instruction is the one access with its own new word, and writes the old one to its register. -/
theorem atomicsSwapOneWord : Obligations.AtomicsSwapOneWord := by
  unfold Obligations.AtomicsSwapOneWord
  intro s t n f r
  refine ⟨?_, ?_, ?_⟩
  · rintro ⟨hruns, haddr, halign, hop, hinv, hdet, hbad, hchg⟩
    obtain ⟨z, hz, hlines, hdata⟩ := atomicAccess_settled (new := fun c old => if old = c.gr f.rt then some (c.gr (f.rt + 1)) else none)
      haddr halign hop hinv hdet hbad hchg fun c d h => by funext old; rw [Core.gr_congr h, Core.gr_congr h]
    refine swaps_of_access (sh := shapeCasw f) rfl rfl hruns (besideBook_casw f.rt _ _) (fun c => Core.setG_pc c f.rt _)
      (fun c => Core.setG_retired c f.rt _) hlines hdata ?_
    have hhit : (if t.data r.pa = t.cores[n].gr f.rt then some (t.cores[n].gr (f.rt + 1)) else none).isSome =
        (t.data r.pa == t.cores[n].gr f.rt) := by split <;> simp_all
    rw [work_bind_ok hz, hhit]
    refine congrArg (EStateM.Result.ok Next.seq) (congrArg (z.updCore n) (funext fun c => ?_))
    exact congrArg (fun st : Word => { c.setG f.rt (t.data r.pa) with st := setBit st 70 (t.data r.pa == t.cores[n].gr f.rt) })
      (Core.setG_st c f.rt _)
  · rintro ⟨hruns, haddr, halign, hop, hinv, hdet, hbad, hchg⟩
    obtain ⟨z, hz, hlines, hdata⟩ := atomicAccess_settled (new := fun c _ => some (c.gr f.rt))
      haddr halign hop hinv hdet hbad hchg fun c d h => by simp only [Core.gr, h]
    refine swaps_of_access rfl rfl hruns (besideBook_setG f.rt _) (by simp) (by simp) hlines hdata ?_
    rw [work_bind_ok hz]
    rfl
  · rintro ⟨hruns, haddr, halign, hop, hinv, hdet, hbad, hchg⟩
    obtain ⟨z, hz, hlines, hdata⟩ := atomicAccess_settled (new := fun c old => some (old + c.gr f.rt))
      haddr halign hop hinv hdet hbad hchg fun c d h => by simp only [Core.gr, h]
    refine swaps_of_access rfl rfl hruns (besideBook_setG f.rt _) (by simp) (by simp) hlines hdata ?_
    rw [work_bind_ok hz]
    rfl

end Sys2Proof.Machine
end

section
/-! The SYNC instructions (R71-R73, R322, R343). -/

namespace Sys2Proof.Machine

/-! ## A drained buffer -/

section
variable {n : CoreId} {s : State}

theorem State.drainN_storeBuf {l : List SbEnt} (h : s.cores[n].storeBuf = l) : (s.drainN n l.length).cores[n].storeBuf = [] := by
  induction l generalizing s with
  | nil => exact h
  | cons e l ih =>
    obtain ⟨t, ht⟩ : ∃ t, t = s.updCore n fun c => { c with storeBuf := l } := ⟨_, rfl⟩
    have hone : s.drainOne n = t.performStore n e := by
      unfold State.drainOne
      rw [h, ht]
    have hbuf : t.cores[n].storeBuf = l := by rw [ht, Fin.getElem_fin, State.updCore_core]
    obtain ⟨-, hperf⟩ := State.performStore_sameStores (n := n) t e
    show ((s.drainOne n).drainN n l.length).cores[n].storeBuf = []
    rw [hone]
    exact ih (by rw [hperf, e.writeTo_cores, hbuf])

/-- No store is left once the buffer has drained. -/
theorem State.drainAll_storeBuf (s : State) (n : CoreId) : (s.drainAll n).cores[n].storeBuf = [] := State.drainN_storeBuf rfl

theorem State.drainAll_of_empty (h : s.cores[n].storeBuf = []) : s.drainAll n = s := by
  rw [State.drainAll, h]
  rfl

/-! ## Waiting -/

/-- An instruction whose body waits is given again. -/
theorem runIns_wait {sh : Shape} {body : M Next} {u : State} (h : s.starts n sh = true) (hb : body (s.fetched n sh) = .error .wait u) :
    s.runIns n sh body = u.waitAfter n s := by
  unfold State.starts at h
  unfold State.fetched stateOf at hb
  unfold State.runIns
  rw [Bool.and_eq_true] at h
  rw [if_pos h.1]
  cases hf : fetchDecode n sh s with
  | ok a t => simp only [hf] at hb ⊢; simp only [hb]
  | error e t => simp [hf] at h

/-! ## What the instructions share -/

/-- The state once SYNC.M has completed a core's stores (R71, R462). -/
def State.synced (s : State) (n : CoreId) : State := (s.drainAll n).updQuad (quadOf n) fun q => { q with remote := [] }

theorem State.synced_cores (s : State) (n : CoreId) : (s.synced n).cores = (s.drainAll n).cores := rfl

/-- Every store of core n is complete in a state (R71). -/
def State.storesDone (t : State) (n : CoreId) : Prop := t.storesOut n = false ∧ t.cores[n].windows = []

theorem syncMemory_complete (h : (s.drainAll n).storesDone n) :
    syncMemory n s = if bit (s.drainAll n).cores[n].lseStat 71 then .error (.fault (lateFault (s.drainAll n).cores[n])) (s.synced n)
      else .ok () (s.synced n) := by
  obtain ⟨hout, hwin⟩ := h
  unfold syncMemory
  rw [work_bind_ok (work_upd _ s), work_bind_ok (work_get _), if_neg (by rw [hout, hwin]; decide), work_bind_ok (work_upd _ _), work_require]
  cases bit (s.drainAll n).cores[n].lseStat 71 <;> rfl

theorem syncMemory_waits (h : ¬(s.drainAll n).storesDone n) :
    syncMemory n s = .error .wait ((s.drainAll n).updCore n fun c => { c with windows := [] }) := by
  have hout : ((s.drainAll n).storesOut n || !(s.drainAll n).cores[n].windows.isEmpty) = true := by
    rw [State.storesDone, not_and_or, Bool.not_eq_false] at h
    rw [Bool.or_eq_true, Bool.not_eq_true', List.isEmpty_eq_false_iff]
    exact h
  unfold syncMemory
  rw [work_bind_ok (work_upd _ s), work_bind_ok (work_get _), if_pos hout, work_bind_ok (work_modCore _ _ _)]
  rfl

/-- A core with nothing fetched. -/
def Core.refetching (c : Core) : Core := { c with fetchBuf := [], fetchWord := none }

theorem Core.refetching_storeBuf (c : Core) : c.refetching.storeBuf = c.storeBuf := rfl

theorem Core.bookkept_st (c d : Core) : (c.bookkept d).st = c.st := rfl
theorem Core.bookkept_storeBuf (c d : Core) : (c.bookkept d).storeBuf = c.storeBuf := rfl

theorem syncFetch_eq (s : State) (n : CoreId) : syncFetch n s = .ok () ((s.drainAll n).updCore n Core.refetching) := rfl

end

/-! ## The instructions -/

section
variable {s : State} {n : CoreId} {f : FmtA}

/-- An instruction that changes its core and goes on. -/
theorem runIns_changes {sh : Shape} {body : M Next} {t : State} {g : Core → Core} (hruns : s.runs n sh = true)
    (hbody : body (s.fetched n sh) = .ok .seq (t.updCore n g)) :
    let u := s.runIns n sh body
    OnlyCore n t u ∧ u.cores[n] = (g t.cores[n]).bookkept u.cores[n] ∧ (g t.cores[n]).WentOn u.cores[n] sh.slots := by
  intro u
  obtain ⟨honly, hcore, hwent⟩ := runIns_goesOn hruns hbody
  have hg : (t.updCore n g).cores[n] = g t.cores[n] := State.updCore_core t n g
  rw [hg] at hcore hwent
  exact ⟨(onlyCore_updCore t n g).trans honly, hcore, hwent⟩

/-- Nothing is fetched once an instruction that fetches again has retired. -/
theorem Core.retire_fetchWord {c : Core} (h : c.fetchWord = none) (sh : Shape) : (c.retire sh .seq).fetchWord = none := by
  simp [Core.retire, h]

theorem syncI_answers (hruns : s.runs n (shapeSyncI f) = true) :
    let y := (s.fetched n (shapeSyncI f)).drainAll n
    ∃ u, exec (.syncI n f) s = .next u ∧ OnlyCore n y u ∧ y.cores[n].WentOn u.cores[n] 1 ∧
      u.cores[n] = { y.cores[n].bookkept u.cores[n] with fetchBuf := [] } ∧ u.cores[n].storeBuf = [] ∧ u.cores[n].fetchWord = none := by
  intro y
  have hbody : (do syncFetch n; return .seq : M Next) (s.fetched n (shapeSyncI f)) = .ok .seq (y.updCore n Core.refetching) := rfl
  obtain ⟨honly, hcore, hwent⟩ := runIns_changes hruns hbody
  obtain ⟨-, a, x, hretired⟩ := runIns_updCore hruns hbody
  refine ⟨_, rfl, honly, hwent, hcore, ?_, ?_⟩
  · rw [congrArg Core.storeBuf hcore, Core.bookkept_storeBuf, Core.refetching_storeBuf, State.drainAll_storeBuf]
  · exact (congrArg Core.fetchWord hretired).trans (Core.retire_fetchWord rfl _)

theorem syncM_answers (hruns : s.runs n (shapeSyncM f) = true) (hdone : ((s.fetched n (shapeSyncM f)).drainAll n).storesDone n)
    (hlate : bit ((s.fetched n (shapeSyncM f)).drainAll n).cores[n].lseStat 71 = false) :
    let t := (s.fetched n (shapeSyncM f)).drainAll n
    ∃ u, exec (.syncM n f) s = .next u ∧ OnlyCore n ((s.fetched n (shapeSyncM f)).synced n) u ∧
      u.cores[n] = t.cores[n].bookkept u.cores[n] ∧ t.cores[n].WentOn u.cores[n] 1 ∧ u.cores[n].storeBuf = [] := by
  intro t
  have hbody : (do syncMemory n; return .seq : M Next) (s.fetched n (shapeSyncM f)) = .ok .seq ((s.fetched n (shapeSyncM f)).synced n) :=
    work_bind_ok ((syncMemory_complete hdone).trans (if_neg (by rw [hlate]; decide)))
  obtain ⟨honly, hcore, hwent⟩ := runIns_goesOn hruns hbody
  refine ⟨_, rfl, honly, hcore, hwent, ?_⟩
  rw [congrArg Core.storeBuf hcore, Core.bookkept_storeBuf, State.synced_cores, State.drainAll_storeBuf]

theorem State.updCore_congr {t : State} {g h : Core → Core} (e : g t.cores[n] = h t.cores[n]) : t.updCore n g = t.updCore n h := by
  unfold State.updCore
  rw [e]

/-- A core that installs DETREQ in ST.DET and drops its page registers (R343, R346). -/
def Core.installDet (c : Core) : Core := { c with pageRegs := Vector.replicate 3 none, st := setBit c.st 58 (bit c.pipeCtl 0) }

theorem Core.charge_off {c : Core} (h : c.det = false) (k : Nat) : c.charge k = c := by
  unfold Core.charge
  rw [if_neg (by rw [h]; decide)]

/-- FILL_WAIT_COUNT risen by a free value (log 10). -/
def Core.fillWaited (v : Word) (c : Core) : Core := { c with fillWait := c.fillWait + bits v 0 32 }

/-- What SYNC.C leaves of a core outside deterministic mode; `v` is the free value of log 10. -/
def Core.syncedC (v : Word) (c : Core) : Core := (c.refetching.fillWaited v).installDet

theorem syncC_body (hdone : (s.drainAll n).storesDone n) (hlate : bit (s.drainAll n).cores[n].lseStat 71 = false)
    (hdet : (s.drainAll n).cores[n].det = false) : ∃ v k,
    (do syncMemory n; syncFetch n; fillWaits n; modCore n (Core.charge 3)
        modCore n fun c => { c with pageRegs := Vector.replicate 3 none, st := setBit c.st 58 (bit c.pipeCtl 0) }
        return .seq : M Next) s = .ok .seq ({ s.synced n with free := k }.updCore n (Core.syncedC v)) := by
  have hempty : (s.synced n).drainAll n = s.synced n := State.drainAll_of_empty (State.drainAll_storeBuf s n)
  have hfetch : syncFetch n (s.synced n) = .ok () ((s.synced n).updCore n Core.refetching) := by rw [syncFetch_eq, hempty]
  refine ⟨Config.freeWord (s.synced n).free, (s.synced n).free + 1, ?_⟩
  obtain ⟨t, ht⟩ : ∃ t, t = s.synced n := ⟨_, rfl⟩
  have hcharge : (t.cores[n].refetching).det = false := by rw [ht]; exact hdet
  rw [work_bind_ok ((syncMemory_complete hdone).trans (if_neg (by rw [hlate]; decide))), work_bind_ok hfetch, ← ht]
  have hwaits : fillWaits n (t.updCore n Core.refetching) = .ok () ({ t with free := t.free + 1 }.updCore n fun c =>
      c.refetching.fillWaited (Config.freeWord t.free)) := by
    unfold fillWaits
    rw [work_bind_ok (work_getCore n _), State.updCore_core, if_neg (by rw [← Fin.getElem_fin, hcharge]; decide), work_bind_ok (work_draw _), work_modCore]
    exact congrArg (EStateM.Result.ok ()) (State.updCore_updCore { t with free := t.free + 1 } n _ _)
  rw [work_bind_ok hwaits, work_bind_ok (work_modCore _ _ _), work_bind_ok (work_modCore _ _ _), State.updCore_updCore, State.updCore_updCore]
  refine congrArg (EStateM.Result.ok Next.seq) (State.updCore_congr ?_)
  exact congrArg Core.installDet (Core.charge_off (c := t.cores[n].refetching.fillWaited _) hcharge 3)

theorem onlyCore_free {t : State} (k : Nat) : OnlyCore n t { t with free := k } := by
  have h := onlyCore_updCore_free t n id k
  rwa [State.updCore_self rfl] at h

theorem Core.syncedC_pc (v : Word) (c : Core) : (c.syncedC v).pc = c.pc := rfl
theorem Core.syncedC_retired (v : Word) (c : Core) : (c.syncedC v).retired = c.retired := rfl

/-- What the core shows of SYNC.C once it has retired. -/
theorem Core.eq_syncedC {c d : Core} {v : Word} (h : d = (c.syncedC v).bookkept d) : d =
    { c.bookkept d with fetchBuf := [], pageRegs := d.pageRegs, st := d.st, fillWait := d.fillWait } := by
  have hst : d.st = setBit c.st 58 (bit c.pipeCtl 0) := congrArg Core.st h
  have hregs : d.pageRegs = Vector.replicate 3 none := congrArg Core.pageRegs h
  have hfill : d.fillWait = c.fillWait + bits v 0 32 := congrArg Core.fillWait h
  rw [hst, hregs, hfill]
  exact h

theorem Core.bit_syncedC_st (v : Word) (c : Core) (k : Nat) : bit (c.syncedC v).st k = if k = 58 then bit c.pipeCtl 0 else bit c.st k := by
  rw [show (c.syncedC v).st = setBit c.st 58 (bit c.pipeCtl 0) from rfl, bit_setBit]
  grind
theorem Core.syncedC_storeBuf (v : Word) (c : Core) : (c.syncedC v).storeBuf = c.storeBuf := rfl

theorem syncC_answers (hruns : s.runs n (shapeSyncC f) = true) (hdone : ((s.fetched n (shapeSyncC f)).drainAll n).storesDone n)
    (hlate : bit ((s.fetched n (shapeSyncC f)).drainAll n).cores[n].lseStat 71 = false)
    (hdet : ((s.fetched n (shapeSyncC f)).drainAll n).cores[n].det = false) :
    let w := (s.fetched n (shapeSyncC f)).drainAll n
    ∃ u, exec (.syncC n f) s = .next u ∧ OnlyCore n ((s.fetched n (shapeSyncC f)).synced n) u ∧
      u.cores[n] = { w.cores[n].bookkept u.cores[n] with
        fetchBuf := [], pageRegs := u.cores[n].pageRegs, st := u.cores[n].st, fillWait := u.cores[n].fillWait } ∧
      (∀ i : Fin 3, u.cores[n].pageRegs[i] = none) ∧ (∀ k, bit u.cores[n].st k = if k = 58 then bit w.cores[n].pipeCtl 0 else bit w.cores[n].st k) ∧
      w.cores[n].WentOn u.cores[n] 1 ∧ u.cores[n].storeBuf = [] := by
  intro w
  obtain ⟨v, x, hbody⟩ := syncC_body hdone hlate hdet
  obtain ⟨honly, hcore, hwent⟩ := runIns_changes hruns hbody
  rw [Core.WentOn, Core.syncedC_pc, Core.syncedC_retired] at hwent
  refine ⟨_, rfl, (onlyCore_free x).trans honly, ?_, fun i => ?_, fun k => ?_, hwent, ?_⟩
  · exact Core.eq_syncedC hcore
  · exact (congrArg (fun c : Core => c.pageRegs[i]) hcore).trans (Vector.getElem_replicate i.isLt)
  · rw [congrArg Core.st hcore, Core.bookkept_st, Core.bit_syncedC_st]
    rfl
  · rw [congrArg Core.storeBuf hcore, Core.bookkept_storeBuf, Core.syncedC_storeBuf, State.synced_cores, State.drainAll_storeBuf]

/-- A recorded late store error is the fault of SYNC.M (R322). -/
theorem syncM_faults (hstarts : s.starts n (shapeSyncM f) = true) (hdone : ((s.fetched n (shapeSyncM f)).drainAll n).storesDone n)
    (hlate : bit ((s.fetched n (shapeSyncM f)).drainAll n).cores[n].lseStat 71 = true) :
    exec (.syncM n f) s = .next (((s.fetched n (shapeSyncM f)).synced n).faultAfter n
      (lateFault ((s.fetched n (shapeSyncM f)).drainAll n).cores[n]) s) := by
  have hbody : (do syncMemory n; return .seq : M Next) (s.fetched n (shapeSyncM f)) =
      .error (.fault (lateFault ((s.fetched n (shapeSyncM f)).drainAll n).cores[n])) ((s.fetched n (shapeSyncM f)).synced n) := by
    rw [work_bind, syncMemory_complete hdone, if_pos hlate]
  exact congrArg Host.Outcome.next (runIns_fault hstarts hbody)

/-- SYNC.M waits while a store is not complete (R71); the PCIe reads that it waits for are made once (log 45). -/
theorem syncM_waits (hstarts : s.starts n (shapeSyncM f) = true) (hout : ¬((s.fetched n (shapeSyncM f)).drainAll n).storesDone n) :
    let t := (s.fetched n (shapeSyncM f)).drainAll n
    ∃ u, exec (.syncM n f) s = .next u ∧ u.cores[n].pc = t.cores[n].pc ∧ u.cores[n].retired = t.cores[n].retired ∧ u.cores[n].storeBuf = [] ∧
      u.cores[n].windows = [] ∧ u.mem = t.mem := by
  intro t
  have hbody : (do syncMemory n; return .seq : M Next) (s.fetched n (shapeSyncM f)) =
      .error .wait (t.updCore n fun c => { c with windows := [] }) := by
    rw [work_bind, syncMemory_waits hout]
  refine ⟨_, congrArg Host.Outcome.next (runIns_wait hstarts hbody), ?_⟩
  simpa [State.waitAfter, t] using State.drainAll_storeBuf _ n

end

/-- Settles O17: by the lemma of each instruction and outcome above. -/
theorem syncInstructions : Obligations.SyncInstructions := by
  unfold Obligations.SyncInstructions
  intro s n f
  refine ⟨syncI_answers, fun hruns hout hwin => syncM_answers hruns ⟨hout, hwin⟩, fun hruns hout hwin => syncC_answers hruns ⟨hout, hwin⟩,
    fun hstarts hout hwin => syncM_faults hstarts ⟨hout, hwin⟩, fun hstarts hopen => syncM_waits hstarts fun ⟨hout, hwin⟩ => ?_⟩
  rcases hopen with h | h
  · exact absurd h (by rw [hout]; decide)
  · exact h hwin

end Sys2Proof.Machine
end

section
/-! Branches and calls (R58, R60, R66, R67, R258). -/

namespace Sys2Proof.Machine

/-! ## Where the PC can go (R58, R60) -/

theorem place_daReg (da : DAddr) : place (daReg da) = daPlace da := by
  have hreg : (daReg da).toNat = da.toNat := by
    rw [daReg, BitVec.toNat_setWidth]
    omega
  rw [place, daPlace, hreg, toNat_daWord, daPos_eq_mod]

theorem advance_overflow (c : Core) (k : Int) : (advance c.pc k).2 = true ↔ ¬ c.reaches k := by
  rw [advance_eq_of_place, decide_eq_true_iff, Core.reaches, place_daReg]
  omega

theorem pcAfter_reached {c : Core} {k : Int} (h : c.reaches k) : pcAfter c.pc k = some (daAdd c.pc k) := by
  have hin : (advance c.pc k).2 = false := by rwa [← Bool.not_eq_true, advance_overflow, not_not]
  unfold pcAfter daAdd
  split <;> simp_all

theorem pcAfter_beyond {c : Core} {k : Int} (h : ¬ c.reaches k) : pcAfter c.pc k = none := by
  have hout : (advance c.pc k).2 = true := (advance_overflow c k).2 h
  unfold pcAfter
  split <;> simp_all

section
variable {n : CoreId} {s : State}

theorem relTarget_ok {disp : BitVec 24} (h : s.cores[n].reaches (9 * disp.toInt)) :
    relTarget n disp s = .ok (daAdd s.cores[n].pc (9 * disp.toInt)) s := by
  unfold relTarget
  rw [work_bind_ok (work_getCore n s), ← Fin.getElem_fin, pcAfter_reached h]
  rfl

theorem relTarget_beyond {disp : BitVec 24} (h : ¬ s.cores[n].reaches (9 * disp.toInt)) :
    relTarget n disp s = .error (.fault { cls := 8, faddr := s.cores[n].pc }) s := by
  unfold relTarget
  rw [work_bind_ok (work_getCore n s), ← Fin.getElem_fin, pcAfter_beyond h]
  rfl

theorem returnAddr_ok (h : s.cores[n].reaches 9) : returnAddr n s = .ok (daAdd s.cores[n].pc 9) s := by
  unfold returnAddr
  rw [work_bind_ok (work_getCore n s), ← Fin.getElem_fin, pcAfter_reached h]
  rfl

theorem regTarget_ok {v : Word} (h : isTarget v) (s : State) : regTarget v s = .ok (bits v 0 57) s := by
  obtain ⟨hform, hpos⟩ := h
  have hslot : (daPos (bits v 0 57) == 0 || daPos (bits v 0 57) == 9) = true := by
    rw [daPos_bits, Bool.or_eq_true, beq_iff_eq, beq_iff_eq]
    exact hpos
  unfold regTarget
  rw [work_bind_ok (by rw [work_require, if_pos ((formed_iff v).2 hform)]), work_bind_ok (by rw [work_require, if_pos hslot])]
  rfl

/-- A pass that grants a load of words that it covers passes the tests of R242. -/
theorem passTests_ok {p : PassReg} {need : BitVec 12} {a : Acc} {da : DAddr} {ws : List (WAddr × BitVec 18)} (husable : p.usable = true)
    (hload : a.isStore = false) (hgrants : p.grants need = true) (hcovers : ∀ w ∈ ws, p.covers (daWord da) w.1 = true) (preg : BitVec 4)
    (s : State) : passTests p preg need a da ws s = .ok () s := by
  rw [PassReg.usable, Bool.and_eq_true] at husable
  have hfind : (ws.find? fun w => !p.covers (daWord da) w.1) = none := List.find?_eq_none.2 fun w hw => by simp [hcovers w hw]
  unfold passTests
  rw [work_bind_ok (by rw [work_require, if_pos husable.1]), work_bind_ok (by rw [work_require, if_pos husable.2]),
    work_bind_ok (by rw [work_require, hload]; rfl), work_bind_ok (by rw [work_require, if_pos hgrants]), hfind]
  rfl

/-- A target that P15 covers passes its checks (R60, R242). -/
theorem checkTarget_ok {pc : DAddr} (h : s.cores[n].mayGo pc) : checkTarget n pc s = .ok () s := by
  obtain ⟨husable, hgrants, hbase, hlen⟩ := h
  have hcovers : s.cores[n].p[15].covers (daWord pc) (daWord pc) = true := by
    rw [PassReg.covers, BitVec.sub_self, BitVec.toNat_ofNat, Nat.zero_mod, Nat.add_zero, decide_eq_true hbase, decide_eq_true hlen, Bool.and_self]
  unfold checkTarget
  rw [work_bind_ok (work_getCore n s)]
  exact passTests_ok husable rfl hgrants (fun w hw => by rw [List.mem_singleton.1 hw]; exact hcovers) 15 s

end

/-! ## Predictors (R330) -/

/-- A core that differs in its bookkeeping and predictors alone shows no more once it has retired. -/
theorem Core.eq_sameBut {c e d : Core} (he : e = c.sameBut e) (hd : d = e.bookkept d) : d = c.sameBut d := by
  have hbtb : d.btb = e.btb := by rw [hd]; rfl
  have hstack : d.rstack = e.rstack := by rw [hd]; rfl
  have hmiss : d.mispred = e.mispred := by rw [hd]; rfl
  unfold Core.sameBut
  rw [hbtb, hstack, hmiss]
  exact hd.trans (congrArg (fun x : Core => x.bookkept d) he)

/-- A change of bookkeeping and predictors, after which the core stands where it stood. -/
def OnlyPredicts (g : Core → Core) : Prop := ∀ c, g c = c.sameBut (g c) ∧ (g c).pc = c.pc ∧ (g c).retired = c.retired

theorem OnlyPredicts.comp {g h : Core → Core} (hg : OnlyPredicts g) (hh : OnlyPredicts h) : OnlyPredicts fun c => g (h c) := by
  intro c
  obtain ⟨hcore, hpc, hret⟩ := hg (h c)
  obtain ⟨hcore', hpc', hret'⟩ := hh c
  refine ⟨?_, hpc.trans hpc', hret.trans hret'⟩
  have hinner := congrArg (fun x : Core => x.sameBut (g (h c))) hcore'
  exact hcore.trans hinner

theorem onlyPredicts_predict (kind : BitVec 3) (target : DAddr) (taken : Bool) : OnlyPredicts fun c => c.predict kind target taken := by
  intro c
  dsimp only [Core.predict]
  by_cases hdet : c.det = true
  · rw [if_pos hdet]
    exact ⟨rfl, rfl, rfl⟩
  · rw [if_neg hdet]
    by_cases hhit : (c.predicted == if taken then some target else none) = true
    · rw [if_pos hhit]
      split <;> exact ⟨rfl, rfl, rfl⟩
    · rw [if_neg hhit]
      split <;> exact ⟨rfl, rfl, rfl⟩

theorem onlyPredicts_charge (k : Nat) : OnlyPredicts (Core.charge k) := by
  intro c
  unfold Core.charge
  split <;> exact ⟨rfl, rfl, rfl⟩

theorem onlyPredicts_pushReturn (a : DAddr) : OnlyPredicts fun c => c.pushReturn a := by
  intro c
  dsimp only [Core.pushReturn]
  split <;> exact ⟨rfl, rfl, rfl⟩

theorem onlyPredicts_popReturn : OnlyPredicts Core.popReturn := by
  intro c
  unfold Core.popReturn
  split <;> exact ⟨rfl, rfl, rfl⟩

section
variable {n : CoreId} {s t : State} {sh : Shape} {body : M Next} {g : Core → Core}

/-- An instruction that changes predictors and goes on. -/
theorem runIns_goesOn_sameBut (hruns : s.runs n sh = true) (hg : OnlyPredicts g) (hbody : body (s.fetched n sh) = .ok .seq (t.updCore n g)) :
    let u := s.runIns n sh body
    OnlyCore n t u ∧ u.cores[n] = t.cores[n].sameBut u.cores[n] ∧ t.cores[n].WentOn u.cores[n] sh.slots := by
  intro u
  obtain ⟨honly, hcore, hpc, hret⟩ := runIns_changes hruns hbody
  obtain ⟨hsame, hpc', hret'⟩ := hg t.cores[n]
  exact ⟨honly, Core.eq_sameBut hsame hcore, by rw [hpc, hpc'], by rw [hret, hret']⟩

/-- An instruction that changes its core and its predictors and goes to a target. -/
theorem runIns_goesTo_sameBut {h : Core → Core} {pc : DAddr} (hstarts : s.starts n sh = true) (hg : OnlyPredicts g)
    (hbody : body (s.fetched n sh) = .ok (.jump pc) (t.updCore n fun c => g (h c))) :
    let u := s.runIns n sh body
    OnlyCore n t u ∧ u.cores[n] = (h t.cores[n]).sameBut u.cores[n] ∧ (h t.cores[n]).WentTo u.cores[n] pc := by
  intro u
  obtain ⟨honly, hcore, hwent, hret⟩ := runIns_goesTo hstarts hbody
  obtain ⟨hsame, -, hret'⟩ := hg (h t.cores[n])
  have hleft : (t.updCore n fun c => g (h c)).cores[n] = g (h t.cores[n]) := State.updCore_core t n _
  rw [hleft] at hcore hret
  exact ⟨(onlyCore_updCore t n _).trans honly, Core.eq_sameBut hsame hcore, hwent, by rw [hret, hret']⟩

end

/-! ## Branches -/

theorem branch_answers (s : State) (n : CoreId) (f : FmtB) : let c := s.core n (shapeB f)
    let t := daAdd c.pc (9 * f.disp.toInt)
    (c.cond f.cond = false → Completes (.b n f) s n (shapeB f) (fun c d => d = c.sameBut d ∧ c.WentOn d 1)) ∧
    (c.cond f.cond = true → c.reaches (9 * f.disp.toInt) → c.mayGo t → Goes (.b n f) s n (shapeB f) (fun c d => d = c.sameBut d ∧ c.WentTo d t)) ∧
    (c.cond f.cond = true → ¬ c.reaches (9 * f.disp.toInt) → s.starts n (shapeB f) = true →
      Faults (.b n f) s n (shapeB f) { cls := 8, faddr := c.pc }) := by
  intro c t
  refine ⟨fun hcond hruns => ?_, fun hcond hreach hgo hstarts => ?_, fun hcond hreach hstarts => ?_⟩
  · refine ⟨_, rfl, runIns_goesOn_sameBut hruns (onlyPredicts_predict 0 0 false) ?_⟩
    rw [work_bind_ok (work_getCore n _)]
    exact congrFun (if_neg (by rw [State.fetched_core, hcond]; decide)) _
  · refine ⟨_, rfl, runIns_goesTo_sameBut (h := id) hstarts ((onlyPredicts_charge 1).comp (onlyPredicts_predict (if f.cond = 14 then 1 else 0) t true)) ?_⟩
    rw [work_bind_ok (work_getCore n _)]
    refine (congrFun (if_pos hcond) _).trans ?_
    have hrel : relTarget n f.disp (s.fetched n (shapeB f)) = .ok t (s.fetched n (shapeB f)) := relTarget_ok hreach
    rw [work_bind_ok hrel, work_bind_ok (checkTarget_ok hgo)]
    rfl
  · refine congrArg Host.Outcome.next (runIns_fault hstarts ?_)
    rw [work_bind_ok (work_getCore n _)]
    refine (congrFun (if_pos hcond) _).trans ?_
    rw [work_bind, relTarget_beyond hreach]
    rfl

/-- BR goes to a target that P15 covers. -/
theorem goes_br {s : State} {n : CoreId} {f : FmtA} (htarget : isTarget ((s.core n (shapeBr f)).gr f.ra))
    (hgo : (s.core n (shapeBr f)).mayGo (bits ((s.core n (shapeBr f)).gr f.ra) 0 57)) :
    Goes (.br n f) s n (shapeBr f) fun c d => d = c.sameBut d ∧ c.WentTo d (bits ((s.core n (shapeBr f)).gr f.ra) 0 57) := by
  intro hstarts
  refine ⟨_, rfl, runIns_goesTo_sameBut (h := id) hstarts (onlyPredicts_predict 4 (bits ((s.core n (shapeBr f)).gr f.ra) 0 57) true) ?_⟩
  rw [work_bind_ok (work_gr n f.ra _), State.fetched_core, work_bind_ok (regTarget_ok htarget _), work_bind_ok (checkTarget_ok hgo)]
  rfl

/-! ## Calls and returns (R258) -/

/-- RET takes a call entry that matches its target off the shadow stack. -/
theorem ret_answers {s t : State} {n : CoreId} {f : FmtA} {v : DAddr} {r : WordRef} (hv : v = bits ((s.core n (shapeRet f)).gr f.ra) 0 57)
    (hstarts : s.starts n (shapeRet f) = true) (htarget : isTarget ((s.core n (shapeRet f)).gr f.ra)) (hgo : (s.core n (shapeRet f)).mayGo v)
    (hpop : popCheck n 1 (s.fetched n (shapeRet f)) = .ok [r] t) (hset : t.settled n r) (hdet : t.cores[n].det = false)
    (hkind : bits (t.data r.pa) 68 4 = 1) (hmatch : bits (t.data r.pa) 0 57 = v) :
    ∃ u, exec (.ret n f) s = .next u ∧ OnlyCore n t u ∧ u.cores[n] = { t.cores[n].sameBut u.cores[n] with ssp := t.cores[n].ssp + 1 } ∧
      t.cores[n].WentTo u.cores[n] v := by
  obtain ⟨w, hw, hlines⟩ := mapL_loadRef_settled hdet (List.forall_mem_singleton.2 hset)
  have hbody : (do
      let v ← gr n f.ra
      let t ← regTarget v
      checkTarget n t
      let rs ← popCheck n 1
      let ws ← mapL (loadRef n) rs
      let top := ws.headD 0
      require (bits top 68 4 == 1) { cls := clsFlow, code := 2 }
      require (bits top 0 57 == t) { cls := clsFlow, code := 1 }
      modCore n fun c => (({ c with ssp := c.ssp + 1 } : Core).predict 3 t true).popReturn
      return .jump t : M Next) (s.fetched n (shapeRet f)) =
      .ok (.jump v) (w.updCore n fun c => (({ c with ssp := c.ssp + 1 } : Core).predict 3 v true).popReturn) := by
    rw [work_bind_ok (work_gr n f.ra _), State.fetched_core, work_bind_ok (regTarget_ok htarget _), ← hv, work_bind_ok (checkTarget_ok hgo),
      work_bind_ok hpop, work_bind_ok hw]
    have hkind' : require (bits (([r].map fun r => t.data r.pa).headD 0) 68 4 == 1) { cls := clsFlow, code := 2 } w = .ok () w := by
      rw [work_require]
      exact if_pos (beq_iff_eq.2 hkind)
    have hmatch' : require (bits (([r].map fun r => t.data r.pa).headD 0) 0 57 == v) { cls := clsFlow, code := 1 } w = .ok () w := by
      rw [work_require]
      exact if_pos (beq_iff_eq.2 hmatch)
    rw [work_bind_ok hkind', work_bind_ok hmatch']
    rfl
  obtain ⟨honly, hcore, hpc, hret⟩ := runIns_goesTo_sameBut (h := fun c => { c with ssp := c.ssp + 1 }) hstarts
    (onlyPredicts_popReturn.comp (onlyPredicts_predict 3 v true)) hbody
  refine ⟨_, rfl, hlines.onlyCore.trans honly, ?_, hpc, hret.trans (congrArg (· + 1) hlines.retired)⟩
  rw [hlines.core] at hcore
  exact hcore

/-- A word stored through the buffer stands in memory once it has drained (R16, R28, R337). -/
theorem storedTo_of_entry {t u : State} {n : CoreId} {r : WordRef} {v : Word} (h : t.storable n [r]) (hmem : u.mem = t.mem)
    (hbuf : u.cores[n].storeBuf = t.cores[n].storeBuf ++ [r.entry v]) : StoredTo n t u [r] [v] := by
  obtain ⟨hinv, -, -, -, hlocal⟩ := h
  obtain ⟨hloc, hbad, -⟩ := List.forall_mem_singleton.1 hlocal
  have hdinv : (t.drainAll n).Inv := (State.drainAll_kept n (Kept.refl t)).2 hinv
  have hwrite : (t.drainAll n).written [r.entry v] = (t.drainAll n).putMasked r.pa r.mask v := if_pos (inLocalRegion_of_isLocalMem hloc)
  have hdrain (pa : WAddr) : u.drainedCell n pa = ((t.drainAll n).putMasked r.pa r.mask v).cell pa := by
    rw [← hwrite]
    exact State.cell_congr (State.drainAll_mem_append hmem hbuf) pa
  have hdata (pa : WAddr) : (u.drainedCell n pa).data = if pa = r.pa then merge r.mask v (t.drainedCell n r.pa).data else (t.drainedCell n pa).data :=
    (congrArg MCell.data (hdrain pa)).trans
      (State.data_putMasked hdinv (fun hb => absurd (hb.symm.trans hbad) (by decide)) v pa)
  refine ⟨fun x hx => ?_, fun pa hpa => ?_, fun pa => ?_⟩
  · rw [List.zip_cons_cons, List.zip_nil_left, List.mem_singleton] at hx
    rw [hx, hdata, if_pos rfl]
  · rw [hdata, if_neg (hpa r List.mem_cons_self)]
  · rw [hdrain, State.tag_putMasked hdinv, List.all_cons, List.all_nil, Bool.and_true]
    rfl

/-- What a call leaves of a core: the entry in its buffer, the stack pointer moved, and the return address in its register. -/
def Core.calling (c : Core) (r : WordRef) (rd : BitVec 5) (ra : DAddr) : Core :=
  ({ c.buffering [(r, at' (1 : BitVec 4) 68 ||| daReg ra)] with ssp := c.ssp - 1 } : Core).setG rd (daReg ra)

theorem Core.calling_sameBut (c d : Core) (r : WordRef) (rd : BitVec 5) (ra : DAddr) : (c.calling r rd ra).sameBut d =
    { (c.sameBut d).setG rd (daReg ra) with ssp := c.ssp - 1, storeBuf := (c.calling r rd ra).storeBuf } := by
  unfold Core.calling Core.setG
  split <;> rfl

theorem Core.calling_storeBuf (c : Core) (r : WordRef) (rd : BitVec 5) (ra : DAddr) :
    (c.calling r rd ra).storeBuf = c.storeBuf ++ [r.entry (at' (1 : BitVec 4) 68 ||| daReg ra)] := Core.setG_storeBuf _ _ _

theorem Core.calling_retired (c : Core) (r : WordRef) (rd : BitVec 5) (ra : DAddr) : (c.calling r rd ra).retired = c.retired :=
  Core.setG_retired _ _ _

section
variable {s t : State} {n : CoreId} {rd : BitVec 5} {v ra : DAddr} {r : WordRef}

theorem pushCall_ok (hstore : t.storable n [r]) (ra : DAddr) : pushCall n [r] ra t = .ok () (t.updCore n fun c =>
    { c.buffering [(r, at' (1 : BitVec 4) 68 ||| daReg ra)] with ssp := c.ssp - 1 }) := by
  obtain ⟨-, hdet, -, hroom, hlocal⟩ := hstore
  obtain ⟨-, -, hchg⟩ := List.forall_mem_singleton.1 hlocal
  have hword (w : Word) : eachL (fun r => storeRef n 1 r w) [r] t = .ok () (t.updCore n fun c => c.buffering [(r, w)]) :=
    work_bind_ok ((work_bind_ok (markChg_done hchg t)).trans (putRef_buffering hdet hroom w))
  unfold pushCall
  rw [work_bind_ok (hword _), work_modCore, State.updCore_updCore]
  rfl

/-- A call whose checks pass pushes its entry and goes to its target. -/
theorem callTo_ok (kind : BitVec 3) (hgo : s.cores[n].mayGo v) (hreach : s.cores[n].reaches 9) (hpush : pushCheck n 1 s = .ok [r] t)
    (hstore : t.storable n [r]) : callTo n rd v kind s = .ok (.jump v) (t.updCore n fun c =>
      ((c.calling r rd (daAdd s.cores[n].pc 9)).predict kind v true).pushReturn (daAdd s.cores[n].pc 9)) := by
  unfold callTo
  rw [work_bind_ok (checkTarget_ok hgo), work_bind_ok (returnAddr_ok hreach), work_bind_ok hpush, work_bind_ok (pushCall_ok hstore _),
    work_bind_ok (work_modCore _ _ _), State.updCore_updCore]
  rfl

/-- An instruction whose body is a call that passes its checks. -/
theorem calls_of_body {i : Instr} {sh : Shape} {body : M Next} {kind : BitVec 3} (hexec : exec i s = .next (s.runIns n sh body))
    (hbody : body (s.fetched n sh) = callTo n rd v kind (s.fetched n sh)) (hstarts : s.starts n sh = true) (hgo : (s.core n sh).mayGo v)
    (hreach : (s.core n sh).reaches 9) (hpush : pushCheck n 1 (s.fetched n sh) = .ok [r] t) (hstore : t.storable n [r]) :
    ∃ u, exec i s = .next u ∧ OnlyCore n t u ∧
      u.cores[n] = { (t.cores[n].sameBut u.cores[n]).setG rd (daReg (daAdd (s.core n sh).pc 9)) with
        ssp := t.cores[n].ssp - 1, storeBuf := u.cores[n].storeBuf } ∧
      t.cores[n].WentTo u.cores[n] v ∧ StoredTo n t u [r] [at' (1 : BitVec 4) 68 ||| daReg (daAdd (s.core n sh).pc 9)] := by
  obtain ⟨honly, hcore, hpc, hret⟩ := runIns_goesTo_sameBut hstarts
    ((onlyPredicts_pushReturn _).comp (onlyPredicts_predict kind v true)) (hbody.trans (callTo_ok kind hgo hreach hpush hstore))
  rw [Core.calling_sameBut] at hcore
  have hbuf := congrArg Core.storeBuf hcore
  refine ⟨_, hexec, honly, ?_, ⟨hpc, ?_⟩, storedTo_of_entry hstore honly.mem (hbuf.trans (Core.calling_storeBuf _ _ _ _))⟩
  · rw [hbuf]
    exact hcore
  · rw [hret, Core.calling_retired]

end

/-- Settles O15: by the lemma of each instruction above; CALL and CALLR are the one call after their own target. -/
theorem branchesAndCalls : Obligations.BranchesAndCalls := by
  unfold Obligations.BranchesAndCalls
  intro s n
  refine ⟨branch_answers s n, fun f => goes_br, fun f v t r hv => ret_answers hv, fun f t r hreach => ?_, fun f t r htarget => ?_⟩
  · exact calls_of_body rfl (work_bind_ok (relTarget_ok hreach))
  · exact calls_of_body rfl ((work_bind_ok (work_gr n f.ra _)).trans (work_bind_ok (regTarget_ok htarget _)))

end Sys2Proof.Machine
end

section
/-! Stores to device-control words (R37, R51-R53, R337): what the STW of a core leaves of its core, and the words of its own block. -/

namespace Sys2Proof.Machine

/-! ## What draining leaves of a core -/

/-- A core with its store buffer, its lines and what late stores and window stores record blanked. -/
def Core.besideStores (c : Core) : Core :=
  { c with storeBuf := [], l1 := [], l1miss := 0, lseStat := 0, lseAddr := 0, lseCnt := 0, windows := [] }

/-- Nothing of core n differs but what its stores change as they leave. -/
def StoresOnly (n : CoreId) (s t : State) : Prop := t.cores[n].besideStores = s.cores[n].besideStores

namespace StoresOnly

variable {n : CoreId} {s t u : State}

theorem refl (s : State) : StoresOnly n s s := rfl

theorem trans (h : StoresOnly n s t) (k : StoresOnly n t u) : StoresOnly n s u := Eq.trans k h

theorem of_cores (h : t.cores = s.cores) : StoresOnly n s t := by rw [StoresOnly, h]

theorem of_updCore (s : State) {f : Core → Core} (h : ∀ c, (f c).besideStores = c.besideStores) : StoresOnly n s (s.updCore n f) := by
  rw [StoresOnly, Fin.getElem_fin, State.updCore_core, h]
  rfl

/-- What stores do not change of a core. -/
theorem congr {α : Type} {π : Core → α} (h : StoresOnly n s t) (hπ : ∀ c, π c.besideStores = π c) : π t.cores[n] = π s.cores[n] := by
  rw [← hπ, ← hπ s.cores[n], h]

theorem st (h : StoresOnly n s t) : t.cores[n].st = s.cores[n].st := h.congr (π := Core.st) fun _ => rfl
theorem g (h : StoresOnly n s t) : t.cores[n].g = s.cores[n].g := h.congr (π := Core.g) fun _ => rfl
theorem pc (h : StoresOnly n s t) : t.cores[n].pc = s.cores[n].pc := h.congr (π := Core.pc) fun _ => rfl
theorem det (h : StoresOnly n s t) : t.cores[n].det = s.cores[n].det := congrArg (fun st : Word => bit st 58) h.st

end StoresOnly

variable {n : CoreId}

theorem State.lateStore_storesOnly (s : State) (cause : BitVec 8) (pa : WAddr) : StoresOnly n s (s.lateStore n cause pa) := by
  refine StoresOnly.trans (StoresOnly.of_updCore s fun c => ?_) (StoresOnly.of_cores (State.raise_cores _ _))
  dsimp only
  split <;> rfl

theorem State.touchLine_storesOnly (s : State) (pa : WAddr) : StoresOnly n s (s.touchLine n pa) := by
  rw [StoresOnly, (State.touchLine_lines s n pa).core]
  rfl

theorem State.request_cores (s : State) (p : Packet) (f : ReqFor) : (s.request p f).cores = s.cores :=
  (State.issue_sendsOnly _ _).cores

theorem State.sendStore_cores (s : State) (pa : WAddr) (m : BitVec 18) (v : Word) (f : ReqFor) : (s.sendStore pa m v f).cores = s.cores := by
  unfold State.sendStore
  split
  · split
    · exact State.request_cores s _ f
    · rfl
  · exact State.request_cores s _ f

theorem State.storeRemote_storesOnly (s : State) (pa : WAddr) (m : BitVec 18) (v : Word) : StoresOnly n s (s.storeRemote n pa m v) := by
  unfold State.storeRemote
  extract_lets line t
  have ht : StoresOnly n s t := StoresOnly.of_cores rfl
  split
  · exact ht.trans (State.lateStore_storesOnly t 1 pa)
  · refine (ht.trans ?_).trans (State.lateStore_storesOnly _ 3 pa)
    exact StoresOnly.of_cores (State.raise_cores _ _)
  · exact ht.trans (StoresOnly.of_cores (State.sendStore_cores t pa m v _))

theorem State.storeWindow_cores (s : State) (pa : WAddr) (m : BitVec 18) (v : Word) : (s.storeWindow pa m v).cores = s.cores := by
  unfold State.storeWindow
  split
  · unfold State.putAptWord State.putHostPadded
    split <;> exact State.putHostOctets_cores _ _ _
  · rfl

theorem State.performStore_storesOnly (s : State) (e : SbEnt) : StoresOnly n s (s.performStore n e) := by
  have htouch := State.touchLine_storesOnly (n := n) s e.pa
  unfold State.performStore
  cases e.pass with
  | some x => exact htouch.trans (StoresOnly.of_cores (State.putPass_cores _ _ _))
  | none =>
    cases regionOf e.pa <;> dsimp only
    case basin | plain =>
      refine htouch.trans (StoresOnly.trans (StoresOnly.of_cores (State.putMasked_cores _ e.pa e.mask e.data)) ?_)
      split
      · exact (StoresOnly.of_cores (State.raiseBad_cores _ _)).trans (State.lateStore_storesOnly _ _ _)
      · exact StoresOnly.refl _
    case window =>
      exact (StoresOnly.of_cores (State.storeWindow_cores s _ _ _)).trans (StoresOnly.of_updCore _ fun c => rfl)
    all_goals exact State.storeRemote_storesOnly s _ _ _

theorem State.drainOne_storesOnly (s : State) : StoresOnly n s (s.drainOne n) := by
  unfold State.drainOne
  split
  · exact StoresOnly.refl s
  · refine StoresOnly.trans (StoresOnly.of_updCore s fun c => ?_) (State.performStore_storesOnly _ _)
    rfl

theorem State.drainN_storesOnly (s : State) (k : Nat) : StoresOnly n s (s.drainN n k) := by
  induction k generalizing s with
  | zero => exact StoresOnly.refl s
  | succ k ih => exact (State.drainOne_storesOnly s).trans (ih _)

theorem State.drainAll_storesOnly (s : State) (n : CoreId) : StoresOnly n s (s.drainAll n) := State.drainN_storesOnly s _

/-! ## The device-control region -/

theorem toNat_deviceAddr {o : Nat} (h : o < 2 ^ 20) : (deviceAddr o).toNat = 2 ^ 49 + o := by
  rw [deviceAddr, BitVec.toNat_ofNat]
  omega

theorem bit_of_lt {w : Nat} {x : BitVec w} {i : Nat} (h : x.toNat < 2 ^ i) : bit x i = false := by
  rw [bit, BitVec.getLsbD, Nat.testBit_lt_two_pow h]

theorem not_remote_deviceAddr {o : Nat} (h : o < 2 ^ 20) : bit (deviceAddr o) 51 = false :=
  bit_of_lt (by rw [toNat_deviceAddr h]; omega)

theorem regionOf_deviceAddr {o : Nat} (h : o < 2 ^ 20) : regionOf (deviceAddr o) = .device := by
  have hregion : (bits (deviceAddr o) 48 3).toNat = 2 := by
    rw [toNat_bits, toNat_deviceAddr h]
    omega
  unfold regionOf
  rw [not_remote_deviceAddr h, hregion]
  rfl

theorem offsetOf_deviceAddr {o : Nat} (h : o < 2 ^ 20) : offsetOf (deviceAddr o) = o := by
  unfold offsetOf
  rw [not_remote_deviceAddr h, if_neg Bool.false_ne_true, toNat_bits, toNat_deviceAddr h]
  omega

/-- A device-control word that core n may store to (R52). -/
def ownDevice (n : CoreId) (o : Nat) : Prop := o < 2 ^ 20 ∧ (o < 0xC0000 ∨ 0xC3000 ≤ o ∨ o / 256 = 0xC00 + n.val)

theorem regionFault_ownDevice {o : Nat} (h : ownDevice n o) (s : State) (t : TlbEnt) (preg : BitVec 4) (fa : DAddr) :
    s.regionFault (some n) .stw maskAll t (deviceAddr o) preg fa = none := by
  obtain ⟨ho, hown⟩ := h
  have hpop : s.populated (deviceAddr o) = true := by
    unfold State.populated
    rw [regionOf_deviceAddr ho, offsetOf_deviceAddr ho]
    exact decide_eq_true ho
  have hmine : (decide (o < 0xC0000) || decide (0xC3000 ≤ o) || decide (o / 256 = 0xC00 + n.val)) = true := by
    rw [Bool.or_eq_true, Bool.or_eq_true, decide_eq_true_iff, decide_eq_true_iff, decide_eq_true_iff, or_assoc]
    exact hown
  unfold State.regionFault
  simp only [hpop, regionOf_deviceAddr ho, not_remote_deviceAddr ho, offsetOf_deviceAddr ho, hmine]
  rfl

/-- The STW of a core to a word that it may store to: its older stores have left, the word takes its effect, and the core goes on. -/
theorem controlStore_of_devStore {i : Instr} {s : State} {o : Nat} {w : Word} {P : State → State → Prop}
    (hexec : exec i s = .next (s.coreStore n o w)) (hown : ownDevice n o)
    (hdev : (s.atDevice n).cores[n].det = false →
      ∃ v, devStore n o w (s.atDevice n) = .ok () v ∧ v.sr.start = (s.atDevice n).sr.start ∧ P (s.atDevice n) v) : ControlStore i s n P := by
  intro hruns hdet
  obtain ⟨v, hv, hstart, hP⟩ := hdev hdet
  have hfetched : (s.fetched n {}).cores[n].det = false := (State.drainAll_storesOnly (s.fetched n {}) n).det.symm.trans hdet
  have hnext : devStoreNext n o w (s.fetched n {}) = .ok .seq v := by
    unfold devStoreNext
    rw [work_bind_ok (work_upd _ _), work_bind_ok (work_look _ _)]
    refine (work_bind_ok hv).trans ?_
    rw [work_bind_ok (work_look _ _)]
    exact congrArg (fun x => EStateM.Result.ok x v) (if_pos hstart.symm)
  have hbody : (do
      let s ← get
      match s.regionFault (some n) .stw maskAll (flatEnt (deviceAddr o)) (deviceAddr o) 0 0 with
      | some i => Machine.raise i
      | none => pure ()
      chargeAccess n (deviceAddr o)
      devStoreNext n o w : M Next) (s.fetched n {}) = .ok .seq v := by
    rw [work_bind_ok (work_get _), regionFault_ownDevice hown]
    dsimp only
    rw [work_bind_ok (chargeAccess_off hfetched _), hnext]
  obtain ⟨honly, hcore, hwent⟩ := runIns_goesOn hruns hbody
  exact ⟨v, _, hexec, hP, honly, hcore, hwent⟩

end Sys2Proof.Machine
end

section
/-! The control words of a core's own block (R52, R262, R281, R292, R312, R376). -/

namespace Sys2Proof.Machine

/-! ## Fields of a word -/

theorem bit_shiftLeft {w : Nat} (x : BitVec w) (lo i : Nat) : bit (x <<< lo) i = (decide (i < w) && decide (lo ≤ i) && bit x (i - lo)) := by
  unfold bit
  rw [BitVec.getLsbD_shiftLeft]
  by_cases h : i < lo
  · simp [h, Nat.not_le.2 h]
  · simp [h, Nat.not_lt.1 h]

theorem bit_setWidth {w v : Nat} (x : BitVec w) (i : Nat) : bit (x.setWidth v) i = (decide (i < v) && bit x i) := BitVec.getLsbD_setWidth ..

theorem bit_or {w : Nat} (x y : BitVec w) (i : Nat) : bit (x ||| y) i = (bit x i || bit y i) := BitVec.getLsbD_or

theorem bit_and {w : Nat} (x y : BitVec w) (i : Nat) : bit (x &&& y) i = (bit x i && bit y i) := BitVec.getLsbD_and
theorem bit_one {w : Nat} (i : Nat) : bit (1 : BitVec w) i = (decide (0 < w) && decide (i = 0)) := BitVec.getLsbD_one
theorem bit_at' {w : Nat} (x : BitVec w) (lo i : Nat) : bit (at' x lo) i = (decide (i < 72) && decide (lo ≤ i) && bit x (i - lo)) := by
  unfold at'
  rw [bit_shiftLeft, bit_setWidth]
  grind

/-! ## Stores to the block -/

variable {n : CoreId} {i : Instr} {s : State} {k : Nat} {w : Word}

theorem ownDevice_ctlOff (hk : k < 256) : ownDevice n (ctlOff n k) := by
  have := n.isLt
  unfold ownDevice ctlOff
  omega

theorem ctlBlock_ctlOff (hk : k < 256) : ctlBlock (some n) (ctlOff n k) = some (n, k) := by
  have := n.isLt
  unfold ctlBlock
  rw [dif_pos (by unfold ctlOff; omega)]
  refine congrArg some (Prod.ext (Fin.ext ?_) ?_)
  · show (ctlOff n k - 0xC0000) / 0x100 = n.val
    unfold ctlOff
    omega
  · show (ctlOff n k - 0xC0000) % 0x100 = k
    unfold ctlOff
    omega

theorem devStore_ctlOff (hk : k < 256) : devStore n (ctlOff n k) w = ctlStore n k w := by
  unfold devStore
  rw [ctlBlock_ctlOff hk]

/-- A store to a word of the core's own block, from what the word does. -/
theorem controlStore_of_ctlStore {P : State → State → Prop} (hexec : exec i s = .next (s.coreStore n (ctlOff n k) w)) (hk : k < 256)
    (hctl : (s.atDevice n).cores[n].det = false →
      ∃ v, ctlStore n k w (s.atDevice n) = .ok () v ∧ v.sr.start = (s.atDevice n).sr.start ∧ P (s.atDevice n) v) : ControlStore i s n P :=
  controlStore_of_devStore hexec (ownDevice_ctlOff hk) (by rw [devStore_ctlOff hk]; exact hctl)

/-- A store to a word that changes the core alone. -/
theorem controlWord_of_ctlStore {f : Core → Core} (hexec : exec i s = .next (s.coreStore n (ctlOff n k) w)) (hk : k < 256)
    (hctl : ctlStore n k w (s.atDevice n) = .ok () ((s.atDevice n).updCore n f)) : ControlWord i s n f :=
  controlStore_of_ctlStore hexec hk fun _ => ⟨_, hctl, rfl, rfl⟩

/-- REGISTER_WRITE of a word of the core's own block. -/
theorem exec_registerWrite_ctl (hk : k < 256) : exec (.registerWrite (.core n (BitVec.ofNat 20 (0xC0000 + 0x100 * n.val + k))) w) s =
    .next (s.coreStore n (ctlOff n k) w) := by
  have := n.isLt
  have hoff : (BitVec.ofNat 20 (0xC0000 + 0x100 * n.val + k)).toNat = ctlOff n k := by
    rw [BitVec.toNat_ofNat, ctlOff]
    omega
  show Host.Outcome.next (s.coreStore n (BitVec.ofNat 20 (0xC0000 + 0x100 * n.val + k)).toNat w) = _
  rw [hoff]

/-- Such a write that changes the core alone. -/
theorem controlWord_registerWrite {f : Core → Core} (hk : k < 256) (hctl : ctlStore n k w = modCore n f) :
    ControlWord (.registerWrite (.core n (BitVec.ofNat 20 (0xC0000 + 0x100 * n.val + k))) w) s n f :=
  controlWord_of_ctlStore (exec_registerWrite_ctl hk) hk (by rw [hctl]; rfl)

/-- A reserved or read-only word of the block takes a store without effect. -/
theorem controlWord_unchanged (hk : k < 256) (hctl : ctlStore n k w = pure ()) :
    ControlWord (.registerWrite (.core n (BitVec.ofNat 20 (0xC0000 + 0x100 * n.val + k))) w) s n fun c => c :=
  controlWord_of_ctlStore (exec_registerWrite_ctl hk) hk (by rw [hctl, State.updCore_self rfl]; rfl)

/-- FPOWN holds ACTIVE and an address (R302). -/
theorem fpown_fields (v : Word) : v &&& 0x80000FFFFFFFFFFFFF#72 = setBits (v &&& ((1 : Word) <<< 71)) 0 52 (v.setWidth 52) := by
  apply eq_of_bits
  intro i hi
  rw [bit_setBits]
  have hmask (k : Nat) (hk : k < 72) : bit 0x80000FFFFFFFFFFFFF#72 k = (decide (k < 52) || decide (k = 71)) := by
    revert k
    decide
  rw [bit_and, bit_and, hmask i hi, bit_shiftLeft, bit_one, bit_setWidth]
  grind

theorem ctlStore_fpown : ctlStore n 0x63 w = modCore n fun c => { c with fpown := setBits (w &&& ((1 : Word) <<< 71)) 0 52 (w.setWidth 52) } := by
  rw [← fpown_fields]
  rfl

/-! ## SS_MOVE and E_MOVE (R262, R312) -/

/-- The value that moves a pass out of its control register. -/
theorem passMove_out (p : PassId) : bits (0x10 ||| p.setWidth 72 : Word) 0 4 = p ∧ bit (0x10 ||| p.setWidth 72 : Word) 4 = true ∧
    bits (0x10 ||| p.setWidth 72 : Word) 5 67 = 0 := by
  revert p
  decide

/-- The value that moves a pass register in. -/
theorem passMove_in (p : PassId) : bits (p.setWidth 72 : Word) 0 4 = p ∧ bit (p.setWidth 72 : Word) 4 = false ∧
    bits (p.setWidth 72 : Word) 5 67 = 0 := by
  revert p
  decide

section
variable {p : PassId} {t : State}

theorem ssMove_out : ssMove n (0x10 ||| p.setWidth 72) t = .ok () (t.updCore n fun c => c.setP p c.sspass) := by
  obtain ⟨hfield, hout, hrest⟩ := passMove_out p
  unfold ssMove
  rw [hfield, hout, hrest]
  rfl

theorem work_require_ok {c : Bool} (h : c = true) (fa : FaultInfo) (s : State) : require c fa s = .ok () s := by
  rw [work_require, if_pos h]

/-- A usable pass passes the tests of a move. -/
theorem require_usable {α : Type} {q : PassReg} (h : q.usable = true) (fa fb : FaultInfo) (m : M α) (s : State) :
    (do require q.valid fa; require (!q.sealed) fb; m : M α) s = m s := by
  rw [PassReg.usable, Bool.and_eq_true] at h
  rw [work_bind_ok (by rw [work_require, if_pos h.1]), work_bind_ok (by rw [work_require, if_pos h.2])]

theorem ssMove_in (husable : (t.cores[n].pr p).usable = true) (hshadow : (t.cores[n].pr p).shadow = true) :
    ssMove n (p.setWidth 72) t = .ok () (t.updCore n fun c => { c with sspass := c.pr p }) := by
  obtain ⟨hfield, hin, hrest⟩ := passMove_in p
  unfold ssMove
  rw [hfield, hin, hrest]
  refine (work_bind_ok (work_getCore n t)).trans ((require_usable husable _ _ _ t).trans (work_bind_ok (work_require_ok hshadow _ t)))

theorem eMove_15 (husable : (t.cores[n].pr p).usable = true) :
    eMove n (p.setWidth 72) t = .ok () (t.updCore n fun c => { c with ep15 := c.pr p }) := by
  obtain ⟨hfield, hin, hrest⟩ := passMove_in p
  unfold eMove
  rw [hfield, hin, hrest]
  exact (work_bind_ok (work_getCore n t)).trans (require_usable husable _ _ _ t)

theorem eMove_14 (husable : (t.cores[n].pr p).usable = true) :
    eMove n (0x10 ||| p.setWidth 72) t = .ok () (t.updCore n fun c => { c with ep14 := c.pr p }) := by
  obtain ⟨hfield, hout, hrest⟩ := passMove_out p
  unfold eMove
  rw [hfield, hout, hrest]
  exact (work_bind_ok (work_getCore n t)).trans (require_usable husable _ _ _ t)

end

/-! ## The control store (R376) -/

/-- A request of MC_LOAD (R376). -/
def mcRequest (op : BitVec 2) (p : PassId) (a : BitVec 52) : Word := at' op 68 ||| at' p 64 ||| at' a 0

theorem mcRequest_fields (op : BitVec 2) (p : PassId) (a : BitVec 52) : let v := mcRequest op p a
    bits v 68 2 = op ∧ bits v 64 4 = p ∧ bits v 0 52 = a ∧ bits v 70 2 = 0 ∧ bits v 52 12 = 0 := by
  intro v
  refine ⟨?_, ?_, ?_, ?_, ?_⟩
  all_goals
    apply eq_of_bits
    intro i hi
    simp only [v, mcRequest, bit_bits, bit_or, bit_at', bit_zero]
    grind [bit_of_ge]

/-- A request under a pass that grants it. -/
theorem mcLoadStore_granted {op : BitVec 2} {p : PassId} {a : BitVec 52} {t : State} (husable : (t.cores[n].pr p).usable = true)
    (hgrants : (t.cores[n].pr p).grants (if op = 0 then permPatch ||| permLoad else permPatch) = true) (hop : op ≠ 3) :
    mcLoadStore n (mcRequest op p a) t =
      (if op = 0 then loadImage n (t.cores[n].pr p) p a
       else if op = 1 then do
         modCore n fun c => { c.noPatches with mcPid := 0 }
         setLres n lresDone
       else do
         modCore n fun c => { c with ocsv := 0 }
         setLres n lresDone : M Unit) t := by
  obtain ⟨hfop, hfp, hfa, hhigh, hmid⟩ := mcRequest_fields op p a
  have hform : (bits (mcRequest op p a) 70 2 != 0 || bits (mcRequest op p a) 52 12 != 0 || op == 3) = false := by
    rw [hhigh, hmid, beq_false_of_ne hop]
    rfl
  unfold mcLoadStore
  rw [hfop, hfp, hfa]
  refine (work_bind_ok (work_getCore n t)).trans ((require_usable husable _ _ _ t).trans ((work_bind_ok (work_require_ok hgrants _ t)).trans ?_))
  rw [if_neg (by rw [hform]; decide)]
  rfl

section
variable {p : PassId} {t : State}

theorem mcLoadStore_clearPatches (husable : (t.cores[n].pr p).usable = true) (hgrants : (t.cores[n].pr p).grants permPatch = true) :
    mcLoadStore n (mcRequest 1 p 0) t = .ok () (t.updCore n fun c =>
      { c with matchRegs := Vector.replicate 32 (MatchReg.of false 0 0), mcPid := 0, lres := 0, mcLoad := c.mcLoad + 1 }) := by
  rw [mcLoadStore_granted (op := 1) husable hgrants (by decide), if_neg (by decide), if_pos rfl, work_bind_ok (work_modCore _ _ _), setLres, work_modCore,
    State.updCore_updCore]
  rfl

theorem mcLoadStore_clearOpen (husable : (t.cores[n].pr p).usable = true) (hgrants : (t.cores[n].pr p).grants permPatch = true) :
    mcLoadStore n (mcRequest 2 p 0) t = .ok () (t.updCore n fun c => { c with ocsv := 0, lres := 0, mcLoad := c.mcLoad + 1 }) := by
  rw [mcLoadStore_granted (op := 2) husable hgrants (by decide), if_neg (by decide), if_neg (by decide), work_bind_ok (work_modCore _ _ _), setLres,
    work_modCore, State.updCore_updCore]
  rfl

theorem exec_clearPatches (s : State) : exec (.clearPatches n p) s = .next (s.coreStore n (ctlOff n 0xC0) (mcRequest 1 p 0)) := by
  show Host.Outcome.next (s.coreStore n (ctlOff n 0xC0) (at' (1 : BitVec 2) 68 ||| at' p 64)) = _
  simp [mcRequest, at']

theorem exec_clearOpenStore (s : State) : exec (.clearOpenStore n p) s = .next (s.coreStore n (ctlOff n 0xC0) (mcRequest 2 p 0)) := by
  show Host.Outcome.next (s.coreStore n (ctlOff n 0xC0) (at' (2 : BitVec 2) 68 ||| at' p 64)) = _
  simp [mcRequest, at']

theorem exec_mcLoadImage (a : BitVec 52) (s : State) :
    exec (.mcLoadImage n p a) s = .next (s.coreStore n (ctlOff n 0xC0) (mcRequest 0 p a)) := by
  show Host.Outcome.next (s.coreStore n (ctlOff n 0xC0) (at' p 64 ||| at' a 0)) = _
  simp [mcRequest, at']

end

end Sys2Proof.Machine
end

section
/-! The start block beside accesses: no access of a core, nor its translation, changes it (R469). -/

namespace Sys2Proof.Machine

/-! ## Stores that leave -/

variable {n : CoreId}

theorem SendsOnly.sr {s u : State} (h : SendsOnly s u) : u.sr = s.sr := by rw [h.eq]

theorem State.raiseBad_sr (s : State) (pa : WAddr) : (s.raiseBad pa).sr = s.sr := by
  unfold State.raiseBad
  split <;> simp

theorem State.setLbEvt_sr (s : State) (k : Nat) : (s.setLbEvt k).sr = s.sr := State.raise_sr _ _

theorem State.lateStore_sr (s : State) (cause : BitVec 8) (pa : WAddr) : (s.lateStore n cause pa).sr = s.sr := State.raise_sr _ _

theorem LinesOnly.sr {s t : State} (h : LinesOnly n s t) : t.sr = s.sr := by rw [h.onlyCore]

theorem State.request_sr (s : State) (p : Packet) (f : ReqFor) : (s.request p f).sr = s.sr := (State.issue_sendsOnly _ _).sr

theorem State.sendStore_sr (s : State) (pa : WAddr) (m : BitVec 18) (v : Word) (f : ReqFor) : (s.sendStore pa m v f).sr = s.sr := by
  unfold State.sendStore
  split
  · split
    · exact State.request_sr s _ f
    · rfl
  · exact State.request_sr s _ f

theorem State.storeRemote_sr (s : State) (pa : WAddr) (m : BitVec 18) (v : Word) : (s.storeRemote n pa m v).sr = s.sr := by
  unfold State.storeRemote
  extract_lets line t
  split
  · exact State.lateStore_sr t 1 pa
  · exact (State.lateStore_sr _ 3 pa).trans (State.setLbEvt_sr _ 11)
  · exact State.sendStore_sr t pa m v _

theorem State.storeWindow_sr (s : State) (pa : WAddr) (m : BitVec 18) (v : Word) : (s.storeWindow pa m v).sr = s.sr := by
  unfold State.storeWindow
  split
  · unfold State.putAptWord State.putHostPadded
    split <;> exact State.putHostOctets_sr _ _ _
  · rfl

theorem State.performStore_sr (s : State) (e : SbEnt) : (s.performStore n e).sr = s.sr := by
  have htouch : (s.touchLine n e.pa).sr = s.sr := (State.touchLine_lines s n e.pa).sr
  unfold State.performStore
  cases e.pass with
  | some x => exact htouch
  | none =>
    cases regionOf e.pa <;> dsimp only
    case basin | plain =>
      split
      · exact (State.lateStore_sr _ _ _).trans ((State.raiseBad_sr _ _).trans htouch)
      · exact htouch
    case window => exact State.storeWindow_sr s _ _ _
    all_goals exact State.storeRemote_sr s _ _ _

theorem State.drainOne_sr (s : State) : (s.drainOne n).sr = s.sr := by
  unfold State.drainOne
  split
  · rfl
  · exact State.performStore_sr _ _

theorem State.drainN_sr (s : State) (k : Nat) : (s.drainN n k).sr = s.sr := by
  induction k generalizing s with
  | zero => rfl
  | succ k ih => exact (ih _).trans (State.drainOne_sr s)

/-! ## Translation -/

theorem updCore_leaves_sr (m : CoreId) (f : Core → Core) : Leaves State.sr (modCore m f) := Leaves.upd fun _ => rfl

theorem chargeAccess_leaves_sr (m : CoreId) (pa : WAddr) : Leaves State.sr (chargeAccess m pa) := by
  unfold chargeAccess
  refine Leaves.bind (Leaves.getCore m) fun c => Leaves.ite ?_ (Leaves.pure ())
  split
  · exact updCore_leaves_sr m _
  · exact Leaves.bind (fun _ => rfl) fun f => updCore_leaves_sr m _

theorem countConflict_leaves_sr (x : Xl) : Leaves State.sr (countConflict x) := by
  cases x with
  | core m i => exact updCore_leaves_sr m _
  | engine e => exact Leaves.pure ()
  | job sp tr => exact Leaves.pure ()

theorem markRef_leaves_sr (t : TlbEnt) : Leaves State.sr (markRef t) := Leaves.upd fun s => by split <;> simp

theorem State.setOwnTlb_sr (s : State) (l : List TlbEnt) (x : Xl) : (s.setOwnTlb l x).sr = s.sr := by cases x <;> rfl

theorem State.dropOlder_sr (s : State) (t : TlbEnt) (x : Xl) : (s.dropOlder t x).sr = s.sr := by cases x <;> rfl

theorem setOwnTlb_leaves_sr (x : Xl) (l : List TlbEnt) : Leaves State.sr (upd fun s => s.setOwnTlb l x) :=
  Leaves.upd fun s => State.setOwnTlb_sr s l x

theorem dropEnt_leaves_sr (x : Xl) (t : TlbEnt) : Leaves State.sr (dropEnt x t) := by
  refine Leaves.upd fun s => ?_
  split <;> exact State.setOwnTlb_sr s _ x

theorem raiseBad_leaves_sr (pa : WAddr) : Leaves State.sr (upd fun s => s.raiseBad pa) := Leaves.upd fun s => State.raiseBad_sr s pa

theorem updQuad_leaves_sr (q : QuadId) (f : Quad → Quad) : Leaves State.sr (upd fun s => s.updQuad q f) := Leaves.upd fun _ => rfl

theorem walkNormal_leaves_sr (x : Xl) (va : WAddr) (preg : BitVec 4) (fa : DAddr) : Leaves State.sr (walkNormal x va preg fa) := by
  unfold walkNormal
  with_reducible repeat' (first
    | exact Leaves.pure _ | exact Leaves.raise _ | exact Leaves.get | exact raiseBad_leaves_sr _ | exact countConflict_leaves_sr x
    | exact updQuad_leaves_sr _ _ | apply Leaves.bind | intro _ | dsimp only | split)

theorem takeOwn_leaves_sr (x : Xl) (t : TlbEnt) (preg : BitVec 4) (fa : DAddr) : Leaves State.sr (takeOwn x t preg fa) := by
  unfold takeOwn
  with_reducible repeat' (first
    | exact Leaves.pure _ | exact Leaves.raise _ | exact Leaves.get | exact setOwnTlb_leaves_sr x _ | exact dropEnt_leaves_sr x t
    | exact countConflict_leaves_sr x | apply Leaves.bind | intro _ | split)

theorem walkAndKeep_leaves_sr (x : Xl) (va : WAddr) (preg : BitVec 4) (fa : DAddr) : Leaves State.sr (walkAndKeep x va preg fa) := by
  have holder (t : TlbEnt) (x : Xl) : Leaves State.sr (upd fun s => s.dropOlder t x) := Leaves.upd fun s => State.dropOlder_sr s t x
  unfold walkAndKeep
  with_reducible repeat' (first
    | exact Leaves.pure _ | exact Leaves.raise _ | exact Leaves.get | exact walkNormal_leaves_sr _ _ _ _ | exact updCore_leaves_sr _ _
    | exact updQuad_leaves_sr _ _ | exact countConflict_leaves_sr _ | exact takeOwn_leaves_sr _ _ _ _ | exact holder _ _
    | exact markRef_leaves_sr _ | apply Leaves.bind | intro _ | dsimp only | split)

theorem xlateNormal_leaves_sr (x : Xl) (va : WAddr) (store : Bool) (preg : BitVec 4) (fa : DAddr) :
    Leaves State.sr (xlateNormal x va store preg fa) := by
  unfold xlateNormal
  with_reducible repeat' (first
    | exact Leaves.pure _ | exact Leaves.get | exact dropEnt_leaves_sr x _ | exact takeOwn_leaves_sr x _ preg fa
    | exact walkAndKeep_leaves_sr x va preg fa | apply Leaves.bind | intro _ | dsimp only | split)

theorem xlateDet_leaves_sr (m : CoreId) (i : Fin 3) (va : WAddr) (store : Bool) (preg : BitVec 4) (fa : DAddr) :
    Leaves State.sr (xlateDet m i va store preg fa) := by
  have hentry (t : TlbEnt) (v : State → Word) : Leaves State.sr (upd fun s => s.putEntry t.entry (v s)) :=
    Leaves.upd fun s => State.putEntry_sr s _ _
  have holder (t : TlbEnt) : Leaves State.sr (upd fun s => s.dropOlder t (.core m i)) := Leaves.upd fun s => State.dropOlder_sr s t (.core m i)
  unfold xlateDet
  with_reducible repeat' (first
    | exact Leaves.pure _ | exact Leaves.raise _ | exact Leaves.get | exact updCore_leaves_sr m _ | exact hentry _ _ | exact holder _
    | exact chargeAccess_leaves_sr m _ | exact raiseBad_leaves_sr _ | exact countConflict_leaves_sr _ | apply Leaves.eachL
    | apply Leaves.bind | intro _ | dsimp only | split)

theorem xlate_leaves_sr (x : Xl) (va : WAddr) (store : Bool) (preg : BitVec 4) (fa : DAddr) : Leaves State.sr (xlate x va store preg fa) := by
  unfold xlate
  refine Leaves.bind Leaves.get fun s => Leaves.ite (Leaves.pure _) ?_
  cases x with
  | core m i => exact Leaves.ite (xlateDet_leaves_sr m i va store preg fa) (xlateNormal_leaves_sr _ va store preg fa)
  | engine e => exact xlateNormal_leaves_sr _ va store preg fa
  | job sp tr => exact xlateNormal_leaves_sr _ va store preg fa

/-! ## Checked words and loads -/

theorem checkField_leaves_sr (x : Xl) (p : PassReg) (preg : BitVec 4) (need : BitVec 12) (a : Acc) (da : DAddr) (len : Nat) :
    Leaves State.sr (checkField x p preg need a da len) :=
  Leaves.bind (passTests_leaves _ _ _ _ _ _) fun _ =>
    Leaves.bind (Leaves.mapL (fun _ => Leaves.bind (xlate_leaves_sr _ _ _ _ _) fun _ => checkEnt_leaves _ _ _ _ _ _ _) _) fun rs =>
      Leaves.bind (Leaves.eachL (fun r => checkRegion_leaves _ _ _ r) _) fun _ => Leaves.pure rs

theorem State.sendFrame_sr (s : State) (l : Fin 2) (kind : BitVec 4) (pos : BitVec 16) (words : List Word) :
    (s.sendFrame l kind pos words).sr = s.sr := by
  unfold State.sendFrame
  split <;> rfl

theorem State.pumpQueue_sr (s : State) (k : Nat) : (s.pumpQueue k).sr = s.sr := by
  induction k generalizing s with
  | zero => rfl
  | succ k ih =>
    unfold State.pumpQueue
    split
    · split
      · exact (ih _).trans (State.sendFrame_sr _ _ _ _ _)
      · rfl
    · rfl

theorem State.startHeal_sr (s : State) (off : BitVec 24) : (s.startHeal off).sr = s.sr := by
  unfold State.startHeal
  split
  · rfl
  · unfold State.sendFirst
    split
    · rfl
    · exact State.pumpQueue_sr _ _

theorem Leaves.throw {α γ : Type} {π : State → γ} (e : Stop) : Leaves π (throw e : M α) := fun _ => rfl

theorem badWord_leaves_sr {α : Type} (r : WordRef) : Leaves State.sr (badWord n r : M α) := by
  have hheal : Leaves State.sr (upd fun s => (s.startHeal (BitVec.ofNat 24 (offsetOf r.pa))).updCore n fun c =>
      { c with wait := some r.pa, late := c.det }) := Leaves.upd fun s => State.startHeal_sr s _
  unfold badWord
  refine Leaves.bind Leaves.get fun s => ?_
  split
  · exact Leaves.raise _
  · exact Leaves.bind (raiseBad_leaves_sr _) fun _ => Leaves.ite (Leaves.bind hheal fun _ => Leaves.throw _) (Leaves.raise _)

theorem fromBuffer_leaves_sr (r : WordRef) : Leaves State.sr (fromBuffer n r) := by
  have hpartial (m : BitVec 18) : Leaves State.sr (partialWait n r.pa m) := Leaves.upd fun s => State.drainN_sr s _
  refine Leaves.bind (Leaves.getCore n) fun c => ?_
  dsimp only
  split
  · exact Leaves.ite (Leaves.pure _) (Leaves.bind (hpartial _) fun _ => Leaves.pure _)
  · exact Leaves.pure _

theorem loadLocal_leaves_sr (r : WordRef) : Leaves State.sr (loadLocal n r) := by
  have htouch : Leaves State.sr (upd fun s => s.touchLine n r.pa) := Leaves.upd fun s => (State.touchLine_lines s n r.pa).sr
  have hread : Leaves State.sr (do
      let s ← get
      if (s.cell r.pa).bad then badWord n r else return s.data r.pa : M Word) :=
    Leaves.bind Leaves.get fun s => Leaves.ite (badWord_leaves_sr r) (Leaves.pure _)
  refine Leaves.bind (fromBuffer_leaves_sr r) fun o => ?_
  split
  · exact Leaves.pure _
  · exact Leaves.ite (Leaves.bind htouch fun _ => hread) hread

theorem loadWindow_leaves_sr (r : WordRef) : Leaves State.sr (loadWindow n r) := by
  refine Leaves.bind Leaves.get fun s => ?_
  split
  · exact Leaves.raise _
  · split
    · exact Leaves.bind (updCore_leaves_sr n _) fun _ => Leaves.pure _
    · exact Leaves.raise _

theorem loadRemote_leaves_sr (r : WordRef) : Leaves State.sr (loadRemote n r) := by
  have hundeliv : Leaves State.sr (upd fun s => ({ s with lb := { s.lb with undeliv := inc s.lb.undeliv } } : State).setLbEvt 11) :=
    Leaves.upd fun s => State.setLbEvt_sr _ 11
  have hsend (b : Bool) (f : Core → Core) : Leaves State.sr (upd fun s =>
      (if b then s.sendLoad (lineOf r.pa) 8 (.coreLoad n r.pa) else s.sendLoad r.pa 1 (.coreLoad n r.pa)).updCore n f) :=
    Leaves.upd fun s => by cases b <;> exact State.request_sr s _ _
  unfold loadRemote
  with_reducible repeat' (first
    | exact Leaves.pure _ | exact Leaves.raise _ | exact Leaves.get | exact Leaves.throw _ | exact hundeliv | exact hsend _ _
    | apply Leaves.bind | intro _ | dsimp only | split)

theorem loadRef_leaves_sr (r : WordRef) : Leaves State.sr (loadRef n r) := by
  have hbeyond : Leaves State.sr (loadBeyond n r) := by
    refine Leaves.bind (fromBuffer_leaves_sr r) fun o => ?_
    split
    · exact Leaves.pure _
    · exact Leaves.ite (loadWindow_leaves_sr r) (loadRemote_leaves_sr r)
  refine Leaves.bind (chargeAccess_leaves_sr n _) fun _ => ?_
  split
  · exact loadLocal_leaves_sr r
  · exact loadLocal_leaves_sr r
  · exact hbeyond

/-- Reading an image leaves the start block as it was. -/
theorem imageRead_leaves_sr (p : PassReg) (i : PassId) (a : WAddr) (len : Nat) : Leaves State.sr (imageRead n p i a len) :=
  Leaves.bind (checkField_leaves_sr _ _ _ _ _ _ _) fun rs => Leaves.bind (Leaves.mapL loadRef_leaves_sr rs) fun _ => Leaves.pure _

end Sys2Proof.Machine
end

section
/-! The load of an image into the control store (R376-R378). -/

namespace Sys2Proof.Machine

/-! ## The words of an image -/

section
variable {α β : Type}

/-- Work that goes on and answers has answered before. -/
theorem ok_of_bind {m : M α} {f : α → M β} {s u : State} {b : β} (h : (m >>= f) s = .ok b u) : ∃ a t, m s = .ok a t ∧ f a t = .ok b u := by
  rw [work_bind] at h
  cases e : m s with
  | ok a t => exact ⟨a, t, rfl, by rw [e] at h; exact h⟩
  | error x t => rw [e] at h; exact absurd h (by simp)

theorem length_of_mapL {f : α → M β} {l : List α} {s t : State} {r : List β} (h : mapL f l s = .ok r t) : r.length = l.length := by
  induction l generalizing s t r with
  | nil =>
    rw [work_mapL_nil, EStateM.Result.ok.injEq] at h
    rw [← h.1]
    rfl
  | cons x l ih =>
    unfold mapL at h
    obtain ⟨y, u, -, h⟩ := ok_of_bind h
    obtain ⟨ys, v, hys, h⟩ := ok_of_bind h
    rw [work_pure, EStateM.Result.ok.injEq] at h
    rw [← h.1, List.length_cons, List.length_cons, ih hys]

end

variable {n : CoreId}

/-- An image has as many words as are asked for. -/
theorem length_of_imageRead {p : PassReg} {i : PassId} {a : WAddr} {len : Nat} {s t : State} {r : List WordRef × List Word}
    (h : imageRead n p i a len s = .ok r t) : r.2.length = len := by
  have hwords : (fieldWords (18 * len) (daOf a 0) (18 * len)).length = len := by
    rw [length_fieldWords (Nat.le_refl _) (by rw [daPos_daOf _ (by omega)]; omega), daPos_daOf _ (by omega)]
    split <;> omega
  unfold imageRead at h
  obtain ⟨rs, u, hrs, h⟩ := ok_of_bind h
  obtain ⟨ws, v, hws, h⟩ := ok_of_bind h
  rw [work_pure, EStateM.Result.ok.injEq] at h
  obtain ⟨-, w, -, hrs⟩ := ok_of_bind hrs
  obtain ⟨rs', w', hrs', hrs⟩ := ok_of_bind hrs
  obtain ⟨-, w'', -, hrs⟩ := ok_of_bind hrs
  rw [work_pure, EStateM.Result.ok.injEq] at hrs
  rw [← h.1, length_of_mapL hws, ← hrs.1, length_of_mapL hrs', hwords]

theorem length_microWords : ∀ l : List Word, (microWords l).length = l.length / 2
  | [] => rfl
  | [_] => by simp [microWords]
  | hi :: lo :: l => by
    rw [microWords, List.length_cons, length_microWords l, List.length_cons, List.length_cons]
    omega

/-! ## What a load leaves -/

/-- A core with the result of a load recorded. -/
def Core.loadResult (r : BitVec 8) (c : Core) : Core := { c with lres := r, mcLoad := c.mcLoad + 1 }

theorem setLres_eq (r : BitVec 8) (s : State) : setLres n r s = .ok () (s.updCore n (Core.loadResult r)) := rfl

/-- An entry of consecutive micro-words put before others that lie outside their range. -/
theorem find_loaded {first x i : Nat} {ws : List MicroWord} {old : List (Nat × MicroWord)} (hlen : ws.length = x) (d : MicroWord) :
    ((((List.range x).map (first + ·)).zip ws ++ old.filter fun e => !(decide (first ≤ e.1) && decide (e.1 < first + x))).find? fun e => e.1 == i) =
      if first ≤ i ∧ i < first + x then some (i, ws.getD (i - first) d) else old.find? fun e => e.1 == i := by
  rw [List.find?_append]
  by_cases h : first ≤ i ∧ i < first + x
  · rw [if_pos h]
    have hnew : (((List.range x).map (first + ·)).zip ws).find? (fun e => e.1 == i) = some (i, ws.getD (i - first) d) := by
      rw [List.find?_eq_some_iff_getElem]
      refine ⟨beq_self_eq_true _, i - first, by simp; omega, ?_, fun j hj => ?_⟩
      · have : i - first < ws.length := by omega
        simp [List.getElem?_eq_getElem this]
        omega
      · simp
        omega
    rw [hnew]
    rfl
  · rw [if_neg h]
    have hnone : (((List.range x).map (first + ·)).zip ws).find? (fun e => e.1 == i) = none := by
      rw [List.find?_eq_none]
      intro e he heq
      rw [beq_iff_eq] at heq
      have := (List.of_mem_zip (a := e.1) (b := e.2) he).1
      simp only [List.mem_map, List.mem_range] at this
      omega
    rw [hnone, Option.none_or, List.find?_filter]
    congr 1
    funext e
    grind

/-- Bits set one after another where a test picks them. -/
theorem bit_foldl_setBit {w : Nat} (p f : Nat → Bool) (v : BitVec w) (k : Nat) {i : Nat} (hi : i < w) :
    bit ((List.range k).foldl (fun m j => if p j then setBit m j (f j) else m) v) i = if i < k ∧ p i = true then f i else bit v i := by
  induction k with
  | zero => simp
  | succ k ih =>
    rw [List.range_succ, List.foldl_append, List.foldl_cons, List.foldl_nil]
    split
    · rw [bit_setBit, ih]
      grind
    · rw [ih]
      grind

/-! ## The second pass -/

/-- A core whose load found the image changed. -/
def Core.loadChanged (ih : Word) (c : Core) : Core := { c with mcPid := if bits ih 68 4 = 1 then 0 else c.mcPid }.loadResult 5

/-- A core with an image installed, which is charged as R378 gives. -/
def Core.loadDone (ih ic : Word) (ms ws : List Word) (m x : Nat) (c : Core) : Core :=
  ((if bits ih 68 4 = 1 then c.loadPatch (bits ih 0 64) ms ws else c.loadOpen (bits ih 0 64) ic ws x).charge (14 + m + 2 * x)).loadResult 0

section
variable {p : PassReg} {i : PassId} {a : WAddr} {ih ic : Word} {m x : Nat} {t2 t3 : State}

theorem changed_eq (ih : Word) (t : State) : (do
    modCore n fun c => { c with mcPid := if bits ih 68 4 = 1 then 0 else c.mcPid }
    setLres n lresChanged : M Unit) t = .ok () (t.updCore n (Core.loadChanged ih)) := by
  rw [work_bind_ok (work_modCore n _ t), setLres_eq, State.updCore_updCore]
  rfl

theorem loadAgain_fault {f : FaultInfo} (h : imageRead n p i a (2 + m + 2 * x) (t2.updCore n fun c => c.emptyTarget ih ic) = .error (.fault f) t3) :
    loadAgain n p i a ih ic m x t2 = .ok () (t3.updCore n (Core.loadChanged ih)) := by
  unfold loadAgain
  rw [work_bind_ok (work_getCore n t2), work_bind_ok (work_modCore n _ t2)]
  dsimp only
  rw [work_bind_ok (work_get _), h]
  exact changed_eq ih t3

/-- An image whose counts have changed is not installed. -/
theorem loadAgain_recounted {again : List WordRef × List Word}
    (h : imageRead n p i a (2 + m + 2 * x) (t2.updCore n fun c => c.emptyTarget ih ic) = .ok again t3)
    (hcounts : imageCounts (again.2.getD 0 0) (again.2.getD 1 0) ≠ .ok (m, x)) :
    loadAgain n p i a ih ic m x t2 = .ok () (t3.updCore n (Core.loadChanged ih)) := by
  unfold loadAgain
  rw [work_bind_ok (work_getCore n t2), work_bind_ok (work_modCore n _ t2)]
  dsimp only
  rw [work_bind_ok (work_get _), h]
  dsimp only
  refine (congrFun (if_neg ?_) t3).trans (changed_eq ih t3)
  intro hsame
  rw [Bool.and_eq_true] at hsame
  obtain ⟨hsame, -⟩ := hsame
  split at hsame
  · next k hk => exact hcounts (by rw [hk, beq_iff_eq.1 hsame])
  · exact absurd hsame (by decide)

/-- An image that has not changed is installed. -/
theorem loadAgain_same {again : List WordRef × List Word} {rest : List Word}
    (h : imageRead n p i a (2 + m + 2 * x) (t2.updCore n fun c => c.emptyTarget ih ic) = .ok again t3) (hagain : again.2 = ih :: ic :: rest)
    (hcounts : imageCounts ih ic = .ok (m, x)) (hcheck : imageCheck ih ic (rest.take m) (rest.drop m) x = none) :
    loadAgain n p i a ih ic m x t2 = .ok () (t3.updCore n (Core.loadDone ih ic (rest.take m) (rest.drop m) m x)) := by
  have hdrop : (ih :: ic :: rest).drop (2 + m) = rest.drop m := by rw [Nat.add_comm]; rfl
  unfold loadAgain
  rw [work_bind_ok (work_getCore n t2), work_bind_ok (work_modCore n _ t2)]
  dsimp only
  rw [work_bind_ok (work_get _), h]
  dsimp only
  rw [hagain, hdrop]
  refine (congrFun (if_pos ?_) t3).trans ?_
  · simp [hcounts, show imageCheck ih ic (List.take m rest) (List.drop m rest) x = none from hcheck]
  · rw [work_bind_ok (work_modCore n _ t3), setLres_eq, State.updCore_updCore]
    rfl

end

/-! ## The first pass -/

section
variable {p : PassReg} {i : PassId} {a : WAddr} {rs : List WordRef} {ih ic : Word} {m x : Nat} {rest : List WordRef × List Word} {t t1 t2 : State}
variable (hhead : imageRead n p i a 2 t = .ok (rs, [ih, ic]) t1)
include hhead

theorem loadImage_badCounts {r : BitVec 8} (hcounts : imageCounts ih ic = .error r) : loadImage n p i a t = .ok () (t1.updCore n (Core.loadResult r)) := by
  unfold loadImage
  rw [work_bind_ok hhead]
  simp [hcounts, setLres_eq]

variable (hcounts : imageCounts ih ic = .ok (m, x)) (hsome : 0 < m + x) (hrest : imageRead n p i (a + 2) (m + 2 * x) t1 = .ok rest t2)
include hcounts hsome hrest

theorem loadImage_badWords {r : BitVec 8} (hcheck : imageCheck ih ic (rest.2.take m) (rest.2.drop m) x = some r) :
    loadImage n p i a t = .ok () (t2.updCore n (Core.loadResult r)) := by
  have hwords : m + 2 * x ≠ 0 := by omega
  unfold loadImage
  rw [work_bind_ok hhead]
  simp only [List.getD_cons_zero, List.getD_cons_succ, hcounts, if_neg hwords]
  rw [work_bind_ok hrest, hcheck]
  exact setLres_eq r t2

theorem loadImage_goodWords (hcheck : imageCheck ih ic (rest.2.take m) (rest.2.drop m) x = none) :
    loadImage n p i a t = loadAgain n p i a ih ic m x t2 := by
  have hwords : m + 2 * x ≠ 0 := by omega
  unfold loadImage
  rw [work_bind_ok hhead]
  simp only [List.getD_cons_zero, List.getD_cons_succ, hcounts, if_neg hwords]
  rw [work_bind_ok hrest, hcheck]

end

/-! ## The registers of an installed image -/

section
variable (r : BitVec 8) (c : Core)

@[simp] theorem Core.loadResult_lres : (c.loadResult r).lres = r := rfl
@[simp] theorem Core.loadResult_mcLoad : (c.loadResult r).mcLoad = c.mcLoad + 1 := rfl
@[simp] theorem Core.loadResult_mcPid : (c.loadResult r).mcPid = c.mcPid := rfl
@[simp] theorem Core.loadResult_mcOid : (c.loadResult r).mcOid = c.mcOid := rfl
@[simp] theorem Core.loadResult_ocs : (c.loadResult r).ocs = c.ocs := rfl
@[simp] theorem Core.loadResult_ocsv : (c.loadResult r).ocsv = c.ocsv := rfl
@[simp] theorem Core.loadResult_matchRegs : (c.loadResult r).matchRegs = c.matchRegs := rfl
@[simp] theorem Core.loadResult_patch : (c.loadResult r).patch = c.patch := rfl

end

section
variable (id : BitVec 64) (ic : Word) (ms ws : List Word) (x : Nat) (c : Core)

theorem Core.loadPatch_mcLoad : (c.loadPatch id ms ws).mcLoad = c.mcLoad := by rw [Core.loadPatch]
theorem Core.loadPatch_ocs : (c.loadPatch id ms ws).ocs = c.ocs := by rw [Core.loadPatch]
theorem Core.loadPatch_ocsv : (c.loadPatch id ms ws).ocsv = c.ocsv := by rw [Core.loadPatch]
theorem Core.loadPatch_mcPid : (c.loadPatch id ms ws).mcPid = id := by rw [Core.loadPatch]
theorem Core.loadOpen_mcLoad : (c.loadOpen id ic ws x).mcLoad = c.mcLoad := by rw [Core.loadOpen]
theorem Core.loadOpen_matchRegs : (c.loadOpen id ic ws x).matchRegs = c.matchRegs := by rw [Core.loadOpen]
theorem Core.loadOpen_patch : (c.loadOpen id ic ws x).patch = c.patch := by rw [Core.loadOpen]
theorem Core.loadOpen_mcOid : (c.loadOpen id ic ws x).mcOid = id := by rw [Core.loadOpen]

end

section
variable {ih ic : Word} {ms ws : List Word} {m x : Nat} (c : Core)

theorem Core.loadDone_lres : (Core.loadDone ih ic ms ws m x c).lres = 0 := by
  rw [Core.loadDone, Core.loadResult_lres]

theorem Core.loadDone_of_patch (h : bits ih 68 4 = 1) :
    Core.loadDone ih ic ms ws m x c = ((c.loadPatch (bits ih 0 64) ms ws).charge (14 + m + 2 * x)).loadResult 0 := by
  rw [Core.loadDone, if_pos h]

theorem Core.loadDone_of_open (h : bits ih 68 4 ≠ 1) :
    Core.loadDone ih ic ms ws m x c = ((c.loadOpen (bits ih 0 64) ic ws x).charge (14 + m + 2 * x)).loadResult 0 := by
  rw [Core.loadDone, if_neg h]

theorem Core.loadDone_mcLoad : (Core.loadDone ih ic ms ws m x c).mcLoad = c.mcLoad + 1 := by
  by_cases h : bits ih 68 4 = 1
  · rw [Core.loadDone_of_patch c h, Core.loadResult_mcLoad, Core.charge_mcLoad, Core.loadPatch_mcLoad]
  · rw [Core.loadDone_of_open c h, Core.loadResult_mcLoad, Core.charge_mcLoad, Core.loadOpen_mcLoad]

theorem Core.loadPatch_matchRegs (id : BitVec 64) {rest : List Word} (hlen : m ≤ rest.length) (i : Fin 32) :
    (c.loadPatch id (rest.take m) ws).matchRegs[i] = if i.val < m then matchOf (rest.getD i.val 0) else MatchReg.of false 0 0 := by
  have hreg : (c.loadPatch id (rest.take m) ws).matchRegs[i] = ((rest.take m).map matchOf).getD i.val (MatchReg.of false 0 0) := by
    rw [Fin.getElem_fin]
    exact Vector.getElem_ofFn _
  rw [hreg, List.getD_eq_getElem?_getD, List.getD_eq_getElem?_getD, List.getElem?_map]
  split
  · rw [List.getElem?_take_of_lt ‹_›, List.getElem?_eq_getElem (by omega)]
    rfl
  · rw [List.getElem?_eq_none (by rw [List.length_take]; omega)]
    rfl

/-- A patch image: the match registers it gives and no others, and its micro-words from word 0 of the patch store. -/
theorem Core.loadDone_patch {rest : List Word} (hpatch : bits ih 68 4 = 1) (hlen : rest.length = m + 2 * x) :
    let d := Core.loadDone ih ic (rest.take m) (rest.drop m) m x c
    d.mcPid = bits ih 0 64 ∧ d.ocs = c.ocs ∧ d.ocsv = c.ocsv ∧
      (∀ i : Fin 32, d.matchRegs[i] = if i.val < m then matchOf (rest.getD i.val 0) else MatchReg.of false 0 0) ∧
      d.patch = (List.range x).zip ((microWords (rest.drop m)).map MicroWord.of) := by
  have hhalf : (rest.drop m).length / 2 = x := by
    rw [List.length_drop]
    omega
  dsimp only
  rw [Core.loadDone_of_patch c hpatch, Core.loadResult_mcPid, Core.charge_mcPid, Core.loadResult_ocs, Core.charge_ocs, Core.loadResult_ocsv,
    Core.charge_ocsv, Core.loadResult_matchRegs, Core.charge_matchRegs, Core.loadResult_patch, Core.charge_patch]
  refine ⟨Core.loadPatch_mcPid .., Core.loadPatch_ocs .., Core.loadPatch_ocsv .., c.loadPatch_matchRegs _ (by omega), ?_⟩
  rw [Core.loadPatch, hhalf]

/-- An open image: its micro-words over its range of the open store, and the entries inside that range. -/
theorem Core.loadDone_open {rest : List Word} (hopen : bits ih 68 4 ≠ 1) (hlen : rest.length = m + 2 * x) :
    let d := Core.loadDone ih ic ms (rest.drop m) m x c
    let first := (bits ic 45 11).toNat
    d.mcOid = bits ih 0 64 ∧ d.matchRegs = c.matchRegs ∧ d.patch = c.patch ∧
      (∀ i : Nat, i < 2048 → (d.ocs.find? fun e => e.1 == i) = if first ≤ i ∧ i < first + x
        then some (i, ((microWords (rest.drop m)).map MicroWord.of).getD (i - first) (MicroWord.of 0)) else c.ocs.find? fun e => e.1 == i) ∧
      ∀ i : Nat, i < 16 → bit d.ocsv i = if first ≤ 128 * i ∧ 128 * i < first + x then bit ic (56 + i) else bit c.ocsv i := by
  have hws : ((microWords (rest.drop m)).map MicroWord.of).length = x := by
    rw [List.length_map, length_microWords, List.length_drop]
    omega
  dsimp only
  rw [Core.loadDone_of_open c hopen, Core.loadResult_mcOid, Core.charge_mcOid, Core.loadResult_ocs, Core.charge_ocs, Core.loadResult_ocsv,
    Core.charge_ocsv, Core.loadResult_matchRegs, Core.charge_matchRegs, Core.loadResult_patch, Core.charge_patch]
  refine ⟨Core.loadOpen_mcOid .., Core.loadOpen_matchRegs .., Core.loadOpen_patch .., fun i _ => find_loaded hws _, fun i hi => ?_⟩
  generalize hfirst : (bits ic 45 11).toNat = first
  rw [Core.loadOpen, hfirst]
  refine (bit_foldl_setBit (fun j => decide (first ≤ 128 * j) && decide (128 * j < first + x)) (fun j => bit ic (56 + j)) c.ocsv 16 hi).trans ?_
  simp [hi]

end

/-! ## The store to MC_LOAD that loads an image -/

section
variable {n : CoreId} {s : State} {k : PassId} {a : WAddr}

theorem controlStore_mcLoadImage {u : State} {f : Core → Core} (husable : ((s.atDevice n).cores[n].pr k).usable = true)
    (hgrants : ((s.atDevice n).cores[n].pr k).grants (permPatch ||| permLoad) = true)
    (hload : loadImage n ((s.atDevice n).cores[n].pr k) k a (s.atDevice n) = .ok () (u.updCore n f)) (hsr : u.sr = (s.atDevice n).sr) :
    ControlStore (.mcLoadImage n k a) s n fun _ v => v = u.updCore n f := by
  refine controlStore_of_ctlStore (exec_mcLoadImage a s) (by decide) fun _ => ⟨u.updCore n f, ?_, congrArg _ hsr, rfl⟩
  refine (mcLoadStore_granted (op := 0) husable hgrants (by decide)).trans ?_
  rw [if_pos rfl]
  exact hload

variable {p : PassReg} {i : PassId} {b : WAddr} {len : Nat} {r : List WordRef × List Word} {t u : State}

theorem sr_of_imageRead (h : imageRead n p i b len t = .ok r u) : u.sr = t.sr := (imageRead_leaves_sr p i b len).of_ok h

theorem sr_of_imageRead_error {e : Stop} (h : imageRead n p i b len t = .error e u) : u.sr = t.sr := by
  have hleaves := imageRead_leaves_sr (n := n) p i b len t
  rwa [stateOf, h] at hleaves

end

section
variable {n : CoreId} {s : State} {k : PassId} {a : WAddr} {rs : List WordRef} {rest again : List WordRef × List Word} {ih ic : Word} {m x : Nat}
  {t1 t2 t3 : State}
variable (husable : ((s.atDevice n).cores[n].pr k).usable = true) (hgrants : ((s.atDevice n).cores[n].pr k).grants (permPatch ||| permLoad) = true)
  (hhead : imageRead n ((s.atDevice n).cores[n].pr k) k a 2 (s.atDevice n) = .ok (rs, [ih, ic]) t1)
include husable hgrants hhead

/-- A header that is not well formed, or counts out of range, end the load with their result. -/
theorem mcLoadImage_badCounts {r : BitVec 8} (hcounts : imageCounts ih ic = .error r) :
    ControlStore (.mcLoadImage n k a) s n fun _ v => v = t1.updCore n (Core.loadResult r) :=
  controlStore_mcLoadImage husable hgrants (loadImage_badCounts hhead hcounts) (sr_of_imageRead hhead)

variable (hcounts : imageCounts ih ic = .ok (m, x)) (hsome : 0 < m + x)
  (hrest : imageRead n ((s.atDevice n).cores[n].pr k) k (a + 2) (m + 2 * x) t1 = .ok rest t2)
include hcounts hsome hrest

/-- A word that fails a check ends the load with its result. -/
theorem mcLoadImage_badWords {r : BitVec 8} (hcheck : imageCheck ih ic (rest.2.take m) (rest.2.drop m) x = some r) :
    ControlStore (.mcLoadImage n k a) s n fun _ v => v = t2.updCore n (Core.loadResult r) :=
  controlStore_mcLoadImage husable hgrants
    (loadImage_badWords hhead hcounts hsome hrest hcheck) ((sr_of_imageRead hrest).trans (sr_of_imageRead hhead))

variable (hcheck : imageCheck ih ic (rest.2.take m) (rest.2.drop m) x = none)
include hcheck

/-- A good image is loaded as its second pass gives. -/
theorem mcLoadImage_again {f : Core → Core}
    (hagain : loadAgain n ((s.atDevice n).cores[n].pr k) k a ih ic m x t2 = .ok () (t3.updCore n f)) (hsr : t3.sr = t2.sr) :
    ControlStore (.mcLoadImage n k a) s n fun _ v => v = t3.updCore n f := by
  have hload := (loadImage_goodWords hhead hcounts hsome hrest hcheck).trans hagain
  have hkept := hsr.trans ((sr_of_imageRead hrest).trans (sr_of_imageRead hhead))
  exact controlStore_mcLoadImage husable hgrants hload hkept

theorem mcLoadImage_fault {f : FaultInfo} (h : imageRead n ((s.atDevice n).cores[n].pr k) k a (2 + m + 2 * x)
    (t2.updCore n fun c => c.emptyTarget ih ic) = .error (.fault f) t3) :
    ControlStore (.mcLoadImage n k a) s n fun _ v => v = t3.updCore n (Core.loadChanged ih) := by
  have hagain := loadAgain_fault h
  exact mcLoadImage_again husable hgrants hhead hcounts hsome hrest hcheck hagain ((sr_of_imageRead_error h).trans (State.updCore_sr ..))

variable (h : imageRead n ((s.atDevice n).cores[n].pr k) k a (2 + m + 2 * x) (t2.updCore n fun c => c.emptyTarget ih ic) = .ok again t3)
include h

theorem mcLoadImage_recounted (hnew : imageCounts (again.2.getD 0 0) (again.2.getD 1 0) ≠ .ok (m, x)) :
    ControlStore (.mcLoadImage n k a) s n fun _ v => v = t3.updCore n (Core.loadChanged ih) := by
  have hagain := loadAgain_recounted h hnew
  exact mcLoadImage_again husable hgrants hhead hcounts hsome hrest hcheck hagain ((sr_of_imageRead h).trans (State.updCore_sr ..))

theorem mcLoadImage_same (hsame : again.2 = ih :: ic :: rest.2) : ControlStore (.mcLoadImage n k a) s n fun _ v =>
    v = t3.updCore n (Core.loadDone ih ic (rest.2.take m) (rest.2.drop m) m x) := by
  have hagain := loadAgain_same h hsame hcounts hcheck
  exact mcLoadImage_again husable hgrants hhead hcounts hsome hrest hcheck hagain ((sr_of_imageRead h).trans (State.updCore_sr ..))

end

/-- What a control store does implies what follows from it. -/
theorem ControlStore.imp {i : Instr} {s : State} {n : CoreId} {P Q : State → State → Prop} (h : ControlStore i s n P)
    (hPQ : ∀ v, P (s.atDevice n) v → Q (s.atDevice n) v) :
    ControlStore i s n Q := by
  intro hruns hdet
  obtain ⟨v, u, hexec, hP, hrest⟩ := h hruns hdet
  exact ⟨v, u, hexec, hPQ v hP, hrest⟩

end Sys2Proof.Machine
end

section
/-! Stores of whole local words that leave the buffer, and areas of words in local memory (R33, R295, R337). -/

namespace Sys2Proof.Machine

/-! ## Local memory -/

theorem regionOf_eq_local (pa : WAddr) :
    (regionOf pa = .basin ↔ pa.toNat < 2 ^ 48) ∧ (regionOf pa = .plain ↔ 2 ^ 48 ≤ pa.toNat ∧ pa.toNat < 2 ^ 49) := by
  have hhigh : bit pa 51 = decide (2 ^ 51 ≤ pa.toNat) := by
    have := pa.isLt
    rw [bit, BitVec.getLsbD, Nat.testBit_eq_decide_div_mod_eq, decide_eq_decide]
    omega
  have hfield : (bits pa 48 3).toNat = pa.toNat / 281474976710656 % 8 := toNat_bits pa 48 3
  unfold regionOf
  rw [hhigh]
  by_cases hremote : 2 ^ 51 ≤ pa.toNat
  · rw [decide_eq_true hremote, if_pos rfl]
    split <;> simp <;> omega
  · rw [decide_eq_false hremote, if_neg Bool.false_ne_true]
    generalize (bits pa 48 3).toNat = q at hfield ⊢
    have hq : q < 8 := by omega
    interval_cases q <;> simp <;> omega

theorem offsetOf_of_local {pa : WAddr} (h : pa.toNat < 2 ^ 49) : offsetOf pa = pa.toNat % 281474976710656 := by
  unfold offsetOf
  rw [bit_of_lt (by omega), if_neg Bool.false_ne_true, toNat_bits, Nat.pow_zero, Nat.div_one]
  rfl

/-- The populated local Basin and Plain as ranges of word addresses (R33). -/
theorem isLocalMem_iff {pa : WAddr} : isLocalMem pa = true ↔ pa.toNat < 2 ^ 33 ∨ 2 ^ 48 ≤ pa.toNat ∧ pa.toNat < 2 ^ 48 + 2 ^ 24 := by
  obtain ⟨hbasin, hplain⟩ := regionOf_eq_local pa
  unfold isLocalMem
  split
  · next h =>
    rw [hbasin] at h
    rw [offsetOf_of_local (by omega), decide_eq_true_iff]
    omega
  · next h =>
    rw [hplain] at h
    rw [offsetOf_of_local (by omega), decide_eq_true_iff]
    omega
  · next hb hp =>
    have hnb := fun h => hb (hbasin.2 h)
    have hnp := fun h => hp (hplain.2 h)
    rw [imp_false] at hnb hnp
    simp only [Bool.false_eq_true, false_iff]
    omega

/-! ## Areas -/

section
variable {a : WAddr} {len i : Nat}

theorem toNat_areaWord (h : a.toNat + i < 2 ^ 52) : (areaWord a i).toNat = a.toNat + i := by
  rw [areaWord, BitVec.toNat_add, BitVec.toNat_ofNat]
  omega

/-- The words of an area are consecutive words of one region of local memory. -/
theorem areaWord_of_rangeInMem (h : rangeInMem a len = true) (hlen : len ≤ 40) (hi : i < len) :
    (areaWord a i).toNat = a.toNat + i ∧ isLocalMem (areaWord a i) = true := by
  rw [rangeInMem, Bool.and_eq_true, Bool.and_eq_true, isLocalMem_iff, isLocalMem_iff, decide_eq_true_iff] at h
  obtain ⟨⟨hfirst, hlast⟩, hregion⟩ := h
  obtain ⟨hbasin, hplain⟩ := regionOf_eq_local a
  obtain ⟨hbasin', hplain'⟩ := regionOf_eq_local (a + BitVec.ofNat 52 (len - 1))
  have hend : (a + BitVec.ofNat 52 (len - 1)).toNat = a.toNat + (len - 1) := toNat_areaWord (by omega)
  have hword : (areaWord a i).toNat = a.toNat + i := toNat_areaWord (by omega)
  rw [← hregion, hend] at hbasin' hplain'
  rw [hend] at hlast
  refine ⟨hword, isLocalMem_iff.2 ?_⟩
  rw [hword]
  rcases hfirst with hfirst | hfirst
  · have hb := hbasin.2 (by omega)
    have := hbasin'.1 hb
    omega
  · omega

end

/-! ## Stores of whole local words -/

/-- Nothing differs but memory, core n's store buffer and the lines that its stores bring. -/
def StoredLines (n : CoreId) (s t : State) : Prop :=
  LinesOnly n ({ s with mem := t.mem }.updCore n fun c => { c with storeBuf := t.cores[n].storeBuf }) t

namespace StoredLines

variable {n : CoreId} {s t u : State}

theorem of_lines (h : LinesOnly n s t) : StoredLines n s t := by
  obtain ⟨l1, k, l2, rfl⟩ := h
  exact ⟨l1, k, l2, by simp [State.withLines, State.updCore, State.updQuad]⟩

theorem trans (h : StoredLines n s t) (k : StoredLines n t u) : StoredLines n s u := by
  obtain ⟨l1, x, l2, ht⟩ := h
  obtain ⟨l1', x', l2', hu⟩ := k
  refine ⟨l1', x', l2', ?_⟩
  rw [hu, ht]
  simp [State.withLines, State.updCore, State.updQuad]

theorem of_mem (m : List (ℕ × MCell)) : StoredLines n s { s with mem := m } := by
  rw [StoredLines, State.updCore_self rfl]
  exact LinesOnly.refl _

theorem of_buffer (l : List SbEnt) : StoredLines n s (s.updCore n fun c => { c with storeBuf := l }) := by
  rw [StoredLines, Fin.getElem_fin, State.updCore_core]
  exact LinesOnly.refl _

end StoredLines

section
variable {n : CoreId} {s : State}

/-- A store of a local word that leaves the buffer, unless it stores a part of an uncorrectable word, brings no more than lines. -/
theorem State.performStore_storedLines {e : SbEnt} (hpass : e.pass = none) (hlocal : isLocalMem e.pa = true)
    (hbad : (s.cell e.pa).bad = true → e.mask = maskAll) : StoredLines n s (s.performStore n e) := by
  have hwhole : ((s.cell e.pa).bad && e.mask != maskAll) = false := by
    cases hb : (s.cell e.pa).bad
    · rfl
    · simp [hbad hb]
  have hperf : s.performStore n e = (s.touchLine n e.pa).putMasked e.pa e.mask e.data := by
    unfold State.performStore
    rcases regionOf_of_isLocalMem hlocal with hr | hr <;> simp [hpass, hr, hwhole]
  rw [hperf, State.putMasked_eq_withMem]
  exact (StoredLines.of_lines (State.touchLine_lines s n e.pa)).trans (StoredLines.of_mem _)

/-- A store of a whole local word. -/
def SbEnt.wholeLocal (e : SbEnt) : Prop := e.pass = none ∧ isLocalMem e.pa = true ∧ e.mask = maskAll

theorem State.drainN_storedLines {l : List SbEnt} (hbuf : s.cores[n].storeBuf = l) (h : ∀ e ∈ l, e.wholeLocal) :
    StoredLines n s (s.drainN n l.length) := by
  induction l generalizing s with
  | nil => exact StoredLines.of_lines (LinesOnly.refl s)
  | cons e l ih =>
    rw [List.forall_mem_cons] at h
    obtain ⟨⟨hpass, hlocal, hmask⟩, hrest⟩ := h
    obtain ⟨t, ht⟩ : ∃ t, t = s.updCore n fun c => { c with storeBuf := l } := ⟨_, rfl⟩
    have hone : s.drainOne n = t.performStore n e := by
      unfold State.drainOne
      rw [hbuf, ht]
    have htbuf : t.cores[n].storeBuf = l := by rw [ht, Fin.getElem_fin, State.updCore_core]
    have hst : StoredLines n s t := by rw [ht]; exact StoredLines.of_buffer l
    have hperf : StoredLines n t (t.performStore n e) := State.performStore_storedLines hpass hlocal fun _ => hmask
    have hpbuf : (t.performStore n e).cores[n].storeBuf = l := by
      rw [(State.performStore_sameStores (n := n) t e).2, e.writeTo_cores, htbuf]
    show StoredLines n s ((s.drainOne n).drainN n l.length)
    rw [hone]
    exact (hst.trans hperf).trans (ih hpbuf hrest)

/-- Stores of whole local words that leave bring no more than lines. -/
theorem State.drainAll_storedLines (h : ∀ e ∈ s.cores[n].storeBuf, e.wholeLocal) : StoredLines n s (s.drainAll n) :=
  State.drainN_storedLines rfl h

end

/-! ## Words of an area read and written -/

section
variable {n : CoreId} {s : State}

theorem areaRead_settled {pa : WAddr} (hdet : s.cores[n].det = false) (hbad : (s.cell pa).bad = false) (area : WAddr) :
    ∃ u, areaRead n area pa s = .ok (s.data pa) u ∧ LinesOnly n s u := by
  have hlines := State.touchLine_lines s n pa
  refine ⟨s.touchLine n pa, ?_, hlines⟩
  unfold areaRead
  rw [work_bind_ok (chargeAccess_off hdet pa), work_bind_ok (work_upd _ s), work_bind_ok (work_get _),
    if_neg (by rw [State.cell_congr hlines.mem, hbad]; exact Bool.false_ne_true), hlines.data]
  rfl

theorem areaWords_settled {area : WAddr} {len : Nat} (hdet : s.cores[n].det = false) (hbad : ∀ i < len, (s.cell (areaWord area i)).bad = false) :
    ∃ u, mapL (fun i => areaRead n area (areaWord area i)) (List.range len) s = .ok ((List.range len).map fun i => s.data (areaWord area i)) u ∧
      LinesOnly n s u := by
  refine mapL_lines fun i hi u hu => ?_
  obtain ⟨v, hv, hlines⟩ := areaRead_settled (s := u) (pa := areaWord area i) (by rw [hu.det]; exact hdet)
    (by rw [State.cell_congr hu.mem]; exact hbad i (List.mem_range.1 hi)) area
  exact ⟨v, by rw [hv, hu.data], hlines⟩

/-- The store of a whole word. -/
def wholeStore (pa : WAddr) (v : Word) : SbEnt := { pa := pa, mask := maskAll, data := v, pass := none }

/-- A core with stores added to its buffer. -/
def Core.storing (l : List SbEnt) (c : Core) : Core := { c with storeBuf := c.storeBuf ++ l }

theorem Core.bufferUsed_storing (c : Core) (pa : WAddr) (v : Word) : (c.storing [wholeStore pa v]).bufferUsed = c.bufferUsed + 1 := by
  simp [Core.storing, Core.bufferUsed, SbEnt.entries, wholeStore]

theorem Core.storing_storing (l k : List SbEnt) (c : Core) : (c.storing l).storing k = c.storing (l ++ k) := by
  simp [Core.storing]

theorem Core.storing_det (l : List SbEnt) (c : Core) : (c.storing l).det = c.det := rfl

theorem areaWrite_buffers {pa : WAddr} (hdet : s.cores[n].det = false) (hroom : s.cores[n].bufferUsed + 1 ≤ 32) (v : Word) :
    areaWrite n pa v s = .ok () (s.updCore n (Core.storing [wholeStore pa v])) := by
  unfold areaWrite
  rw [work_bind_ok (chargeAccess_off hdet pa), work_upd]
  exact congrArg (EStateM.Result.ok ()) (State.bufferStore_of_room (e := wholeStore pa v) hdet hroom)

theorem StoredLines.of_storing (l : List SbEnt) : StoredLines n s (s.updCore n (Core.storing l)) := by
  rw [StoredLines, show (s.updCore n (Core.storing l)).cores[n] = s.cores[n].storing l from State.updCore_core s n _]
  have hsame : ({ s with mem := (s.updCore n (Core.storing l)).mem }.updCore n fun c => { c with storeBuf := (s.cores[n].storing l).storeBuf }) =
      s.updCore n (Core.storing l) := State.updCore_congr rfl
  rw [hsame]
  exact LinesOnly.refl _

/-- The stores of words of an area. -/
def areaStores (a : WAddr) (l : List (Word × Nat)) : List SbEnt := l.map fun x => wholeStore (areaWord a x.2) x.1

theorem areaWrites_buffer {a : WAddr} {l : List (Word × Nat)} (hdet : s.cores[n].det = false) (hroom : s.cores[n].bufferUsed + l.length ≤ 32) :
    eachL (fun x => areaWrite n (areaWord a x.2) x.1) l s = .ok () (s.updCore n (Core.storing (areaStores a l))) := by
  induction l generalizing s with
  | nil => rw [State.updCore_self (by simp [Core.storing, areaStores])]; rfl
  | cons x l ih =>
    rw [List.length_cons] at hroom
    obtain ⟨t, ht⟩ : ∃ t, t = s.updCore n (Core.storing [wholeStore (areaWord a x.2) x.1]) := ⟨_, rfl⟩
    have hcore : t.cores[n] = Core.storing [wholeStore (areaWord a x.2) x.1] s.cores[n] := by rw [ht, Fin.getElem_fin, State.updCore_core]; rfl
    rw [eachL, work_bind_ok (areaWrite_buffers hdet (by omega) x.1), ← ht,
      ih (by rw [hcore, Core.storing_det, hdet]) (by rw [hcore, Core.bufferUsed_storing]; omega), ht, State.updCore_updCore]
    exact congrArg (fun f => EStateM.Result.ok () (s.updCore n f)) (funext fun c => Core.storing_storing _ _ c)

/-- Stores of whole local words, as they leave the buffer, are masked stores. -/
theorem State.written_areaStores (s : State) {a : WAddr} {l : List (Word × Nat)} (h : ∀ x ∈ l, isLocalMem (areaWord a x.2) = true) :
    s.written (areaStores a l) = s.putAll (l.map fun x => (areaWord a x.2, maskAll, x.1)) := by
  induction l generalizing s with
  | nil => rfl
  | cons x l ih =>
    rw [List.forall_mem_cons] at h
    have hx : (wholeStore (areaWord a x.2) x.1).writeTo s = s.putMasked (areaWord a x.2) maskAll x.1 := if_pos (inLocalRegion_of_isLocalMem h.1)
    show ((wholeStore (areaWord a x.2) x.1).writeTo s).written (areaStores a l) = (s.putMasked (areaWord a x.2) maskAll x.1).putAll _
    rw [hx, ih _ h.2]

theorem State.data_putAll_maskAll {l : List (WAddr × BitVec 18 × Word)} (h : s.takesAll l) {pa : WAddr} {v : Word} (hx : (pa, maskAll, v) ∈ l) :
    (s.putAll l).data pa = v := by
  rw [State.data_putAll_mem h hx, merge_maskAll]

end

end Sys2Proof.Machine
end

section
/-! The exchange of the float registers (R301-R303). -/

namespace Sys2Proof.Machine

/-! ## What an exchange may change of its core -/

theorem setBit_bit_self {w : Nat} (x : BitVec w) (i : Nat) : setBit x i (bit x i) = x := by
  apply eq_of_bits
  intro j hj
  rw [bit_setBit]
  grind

theorem setBit_setBit_same {w : Nat} (x : BitVec w) (i : Nat) (p q : Bool) : setBit (setBit x i p) i q = setBit x i q := by
  apply eq_of_bits
  intro j hj
  rw [bit_setBit, bit_setBit, bit_setBit]
  grind

/-- A core with the float state, store buffer and bookkeeping of another, and its ST bit 64. -/
def Core.withFp (c d : Core) : Core :=
  { c.bookkept d with
    f := d.f, fs := d.fs, ftrap := d.ftrap, fpown := d.fpown, fpxchCnt := d.fpxchCnt, st := setBit c.st 64 (bit d.st 64), storeBuf := d.storeBuf }

/-- Nothing of a core differs but float state, its store buffer, lines and ST bit 64. -/
def Core.FpOnly (c e : Core) : Prop := (∀ d, e.withFp d = c.withFp d) ∧ e.pc = c.pc ∧ e.retired = c.retired

namespace Core.FpOnly

variable {c d e : Core}

theorem trans (h : c.FpOnly d) (k : d.FpOnly e) : c.FpOnly e :=
  ⟨fun x => (k.1 x).trans (h.1 x), k.2.1.trans h.2.1, k.2.2.trans h.2.2⟩

theorem eq (h : c.FpOnly d) : d = c.withFp d := by
  rw [← h.1 d]
  show d = { d with st := setBit d.st 64 (bit d.st 64) }
  rw [setBit_bit_self]

theorem det (h : c.FpOnly d) : d.det = c.det := by
  have hst : d.st = setBit c.st 64 (bit d.st 64) := congrArg Core.st h.eq
  rw [Core.det, hst, bit_setBit, if_neg (by omega)]
  rfl

end Core.FpOnly

/-- Nothing differs but memory, and of core n float state, its store buffer, lines and ST bit 64. -/
def OnlyFp (n : CoreId) (s t : State) : Prop := OnlyCore n { s with mem := t.mem } t ∧ s.cores[n].FpOnly t.cores[n]

theorem OnlyCore.withMem {n : CoreId} {s t : State} (h : OnlyCore n s t) (m : List (ℕ × MCell)) :
    OnlyCore n { s with mem := m } { t with mem := m } := by
  obtain ⟨c, k, l, rfl⟩ := onlyCore_iff.1 h
  exact onlyCore_iff.2 ⟨c, k, l, rfl⟩

namespace OnlyFp

variable {n : CoreId} {s t u : State}

theorem trans (h : OnlyFp n s t) (k : OnlyFp n t u) : OnlyFp n s u :=
  ⟨(h.1.withMem u.mem).trans k.1, h.2.trans k.2⟩

theorem sr (h : OnlyFp n s t) : t.sr = s.sr := by rw [h.1]

theorem of_updCore {f : Core → Core} (h : ∀ c : Core, c.FpOnly (f c)) : OnlyFp n s (s.updCore n f) := by
  refine ⟨onlyCore_updCore s n f, ?_⟩
  rw [show (s.updCore n f).cores[n] = f s.cores[n] from State.updCore_core s n f]
  exact h _

theorem of_free (k : Nat) : OnlyFp n s { s with free := k } := ⟨onlyCore_free k, fun _ => rfl, rfl, rfl⟩

theorem of_lines (h : LinesOnly n s t) : OnlyFp n s t := by
  refine ⟨?_, fun d => ?_, h.pc, h.retired⟩
  · rw [h.mem]
    exact h.onlyCore
  · rw [h.core]
    rfl

theorem of_storedLines (h : StoredLines n s t) : OnlyFp n s t := by
  have hmem : OnlyFp n s { s with mem := t.mem } := ⟨onlyCore_free (t := { s with mem := t.mem }) s.free, fun _ => rfl, rfl, rfl⟩
  have hbuf : OnlyFp n { s with mem := t.mem } ({ s with mem := t.mem }.updCore n fun c => { c with storeBuf := t.cores[n].storeBuf }) :=
    of_updCore fun c => ⟨fun _ => rfl, rfl, rfl⟩
  exact (hmem.trans hbuf).trans (of_lines h)

end OnlyFp

/-! ## Saving and loading -/

/-- A core whose float registers are saved (R303). -/
def Core.fpSaved (c : Core) : Core := { c with ftrap := none, fpown := setBit c.fpown 71 false, fpxchCnt := inc c.fpxchCnt }

/-- A core that has taken the float registers of CTXFP's area; `counted` says that the exchange is counted already. -/
def Core.fpTaken (l : List Word) (at_ : DAddr) (counted : Bool) (b : WAddr) (c : Core) : Core :=
  { (c.fpLoad l at_) with fpown := flagAt true 71 ||| b.setWidth 72, fpxchCnt := if counted then c.fpxchCnt else inc c.fpxchCnt }

theorem Core.fpSaved_fpOnly (c : Core) : c.FpOnly c.fpSaved := ⟨fun _ => rfl, rfl, rfl⟩

theorem Core.fpTaken_fpOnly (l : List Word) (at_ : DAddr) (k : Bool) (b : WAddr) (c : Core) : c.FpOnly (c.fpTaken l at_ k b) :=
  ⟨fun _ => by simp only [Core.withFp, Core.bookkept, Core.fpTaken, Core.fpLoad], by simp only [Core.fpTaken, Core.fpLoad],
    by simp only [Core.fpTaken, Core.fpLoad]⟩

theorem Core.length_fpWords (c : Core) : c.fpWords.length = 18 := by simp [Core.fpWords]

section
variable {n : CoreId} {s : State} {a : WAddr}

/-- The words of FPOWN's area hold the float registers, and no other word has changed (R302). -/
def SavedFp (a : WAddr) (c : Core) (s t : State) : Prop :=
  (∀ i < 18, t.data (areaWord a i) = c.fpWords.getD i 0) ∧ ∀ b : WAddr, (b.toNat < a.toNat ∨ a.toNat + 18 ≤ b.toNat) → t.data b = s.data b

theorem takesAll_area {l : List Word} (hinv : s.Inv) (hrange : rangeInMem a 18 = true) (hlen : l.length = 18) :
    s.takesAll ((l.zip (List.range 18)).map fun x => (areaWord a x.2, maskAll, x.1)) := by
  refine ⟨hinv, ?_, fun x hx _ => ?_⟩
  · have hwords : (l.zip (List.range 18)).map (fun x => areaWord a x.2) = (List.range 18).map (areaWord a) := by
      conv => rhs; rw [← List.map_snd_zip (l₁ := l) (l₂ := List.range 18) (by rw [hlen, List.length_range]), List.map_map]
      rfl
    rw [List.map_map]
    refine hwords ▸ List.nodup_range.map_on fun i hi j hj hij => ?_
    obtain ⟨hi, -⟩ := areaWord_of_rangeInMem hrange (by omega) (List.mem_range.1 hi)
    obtain ⟨hj, -⟩ := areaWord_of_rangeInMem hrange (by omega) (List.mem_range.1 hj)
    rw [hij] at hi
    omega
  · obtain ⟨y, -, rfl⟩ := List.mem_map.1 hx
    rfl

theorem fpSave_buffers (hbuf : s.cores[n].storeBuf = []) (hdet : s.cores[n].det = false) (ha : a = bits s.cores[n].fpown 0 52) :
    fpSave n s = .ok () (s.updCore n fun c => (c.storing (areaStores a (s.cores[n].fpWords.zip (List.range 18)))).fpSaved) := by
  have hroom : s.cores[n].bufferUsed + (s.cores[n].fpWords.zip (List.range 18)).length ≤ 32 := by
    rw [Core.bufferUsed, hbuf, List.length_zip, Core.length_fpWords]
    decide
  unfold fpSave
  rw [work_bind_ok (work_getCore n s)]
  rw [ha]
  refine (work_bind_ok (areaWrites_buffer hdet hroom)).trans ?_
  rw [work_modCore, State.updCore_updCore]
  rfl

/-- The save of the float registers, once its stores have left the buffer. -/
theorem fpSave_drains (hinv : s.Inv) (hbuf : s.cores[n].storeBuf = []) (hdet : s.cores[n].det = false) (ha : a = bits s.cores[n].fpown 0 52)
    (hrange : rangeInMem a 18 = true) :
    ∃ z, (∀ k : M Unit, (do fpSave n; upd fun s => s.drainAll n; k : M Unit) s = k z) ∧ StoredLines n (s.updCore n Core.fpSaved) z ∧
      z.cores[n].storeBuf = [] ∧ SavedFp a s.cores[n] s z := by
  obtain ⟨l, hl⟩ : ∃ l, l = s.cores[n].fpWords.zip (List.range 18) := ⟨_, rfl⟩
  have hlocal (x) (hx : x ∈ l) : isLocalMem (areaWord a x.2) = true := by
    rw [hl] at hx
    exact (areaWord_of_rangeInMem hrange (by omega) (List.mem_range.1 (List.of_mem_zip (a := x.1) (b := x.2) hx).2)).2
  obtain ⟨y, hy⟩ : ∃ y, y = s.updCore n fun c => (c.storing (areaStores a l)).fpSaved := ⟨_, rfl⟩
  have hsave : fpSave n s = .ok () y := by rw [fpSave_buffers hbuf hdet ha, hy, hl]
  have hybuf : y.cores[n].storeBuf = areaStores a l := by
    rw [hy, Fin.getElem_fin, State.updCore_core]
    show s.cores[n].storeBuf ++ areaStores a l = _
    rw [hbuf, List.nil_append]
  have hlines : StoredLines n (s.updCore n Core.fpSaved) y := by
    have h := StoredLines.of_storing (n := n) (s := s.updCore n Core.fpSaved) (areaStores a l)
    rw [State.updCore_updCore] at h
    rw [hy]
    exact h
  have hdrain : StoredLines n y (y.drainAll n) := State.drainAll_storedLines fun e he => by
    rw [hybuf] at he
    obtain ⟨x, hx, rfl⟩ := List.mem_map.1 he
    exact ⟨rfl, hlocal x hx, rfl⟩
  have hmem : (y.drainAll n).mem = (s.putAll (l.map fun x => (areaWord a x.2, maskAll, x.1))).mem := by
    rw [State.drainAll_mem, hybuf, ← State.written_areaStores s hlocal]
    exact State.written_mem_congr (by rw [hy, State.updCore_mem]) _
  have hdata (b : WAddr) : (y.drainAll n).data b = (s.putAll (l.map fun x => (areaWord a x.2, maskAll, x.1))).data b :=
    congrArg MCell.data (State.cell_congr hmem b)
  have htakes : s.takesAll (l.map fun x => (areaWord a x.2, maskAll, x.1)) := hl ▸ takesAll_area hinv hrange (Core.length_fpWords _)
  refine ⟨y.drainAll n, fun k => by rw [work_bind_ok hsave, work_bind_ok (work_upd _ y)], hlines.trans hdrain, State.drainAll_storeBuf y n,
    fun i hi => ?_, fun b hb => ?_⟩
  · rw [hdata]
    refine State.data_putAll_maskAll htakes (List.mem_map.2 ⟨(s.cores[n].fpWords.getD i 0, i), ?_, rfl⟩)
    rw [hl, List.mem_iff_getElem]
    refine ⟨i, by rw [List.length_zip, Core.length_fpWords, List.length_range]; omega, ?_⟩
    rw [List.getElem_zip, List.getElem_range, List.getD_eq_getElem]
  · rw [hdata]
    refine State.data_putAll_other htakes fun x hx hxb => ?_
    obtain ⟨y, hy, rfl⟩ := List.mem_map.1 hx
    rw [hl] at hy
    have hi := List.mem_range.1 (List.of_mem_zip (a := y.1) (b := y.2) hy).2
    obtain ⟨hword, -⟩ := areaWord_of_rangeInMem hrange (by omega) hi
    rw [hxb] at hb
    dsimp only at hb
    omega

theorem StoredLines.core {t : State} (h : StoredLines n s t) :
    t.cores[n] = { s.cores[n] with storeBuf := t.cores[n].storeBuf, l1 := t.cores[n].l1, l1miss := t.cores[n].l1miss } := by
  obtain ⟨l1, k, l2, ht⟩ := h
  have hcore : t.cores[n] = { s.cores[n] with storeBuf := t.cores[n].storeBuf, l1 := l1, l1miss := k } :=
    (congrArg (fun u : State => u.cores[n]) ht).trans (by simp [State.withLines, State.updCore])
  rw [show t.cores[n].l1 = l1 from congrArg Core.l1 hcore, show t.cores[n].l1miss = k from congrArg Core.l1miss hcore]
  exact hcore

/-- A core whose float registers have been saved: they stay, and the core owns none. -/
def Core.SavedFrom (c d : Core) : Prop :=
  d.f = c.f ∧ d.fs = c.fs ∧ d.ftrap = none ∧ bit d.fpown 71 = false ∧ d.fpxchCnt = c.fpxchCnt + 1

theorem Core.savedFrom_fpSaved (c : Core) : c.SavedFrom c.fpSaved :=
  ⟨rfl, rfl, rfl, (bit_setBit _ _ _ _).trans (if_pos ⟨rfl, by decide⟩), rfl⟩

/-- The save of the float registers after no more than lines were brought. -/
theorem fpSave_afterLines {u : State} (hlines : LinesOnly n s u) (hinv : s.Inv) (hbuf : s.cores[n].storeBuf = []) (hdet : s.cores[n].det = false)
    (hrange : rangeInMem (bits s.cores[n].fpown 0 52) 18 = true) :
    ∃ z, (∀ k : M Unit, (do fpSave n; upd fun s => s.drainAll n; k : M Unit) u = k z) ∧ OnlyFp n s z ∧ z.cores[n].storeBuf = [] ∧
      SavedFp (bits s.cores[n].fpown 0 52) s.cores[n] s z ∧ s.cores[n].SavedFrom z.cores[n] := by
  have huinv : u.Inv := by
    obtain ⟨l1, k, l2, rfl⟩ := hlines
    exact hinv
  have hfpown : bits s.cores[n].fpown 0 52 = bits u.cores[n].fpown 0 52 := by rw [hlines.core]
  have hwords : u.cores[n].fpWords = s.cores[n].fpWords := by rw [hlines.core]; rfl
  obtain ⟨z, hsave, hstored, hzbuf, hin, hout⟩ := fpSave_drains huinv (hlines.storeBuf.trans hbuf) (hlines.det.trans hdet) hfpown hrange
  refine ⟨z, hsave, ((OnlyFp.of_lines hlines).trans (OnlyFp.of_updCore Core.fpSaved_fpOnly)).trans (OnlyFp.of_storedLines hstored), hzbuf,
    ⟨fun i hi => by rw [hin i hi, hwords], fun b hb => by rw [hout b hb, hlines.data]⟩, ?_⟩
  have hcore := hstored.core
  rw [show (u.updCore n Core.fpSaved).cores[n] = u.cores[n].fpSaved from State.updCore_core u n _, hlines.core] at hcore
  rw [hcore]
  exact s.cores[n].savedFrom_fpSaved

end

end Sys2Proof.Machine
end

section
/-! A store to FPXCH: its flush and its exchange (R301-R303). -/

namespace Sys2Proof.Machine

section
variable {n : CoreId} {s t : State} {a b : WAddr} {l : List Word}

/-- The state once core n has taken the float registers of an area; where a loaded trap stood is a free value. -/
def State.fpTaken (s : State) (n : CoreId) (l : List Word) (counted : Bool) (b : WAddr) : State :=
  { s with free := s.free + 1 }.updCore n (Core.fpTaken l (bits (Config.freeWord s.free) 0 57) counted b)

theorem fpTake_eq (flush saves : Bool) (s : State) : (do
    let l ← (pure l : M (List Word))
    let at_ ← draw
    modCore n fun c =>
      { (c.fpLoad l (bits at_ 0 57)) with fpown := flagAt true 71 ||| b.setWidth 72, fpxchCnt := if saves && !flush then c.fpxchCnt else inc c.fpxchCnt }
    : M Unit) s = .ok () (s.fpTaken n l (saves && !flush) b) := rfl

theorem fpMove_none (hbuf : s.cores[n].storeBuf = []) (flush : Bool) : fpMove n flush false false b l s = .ok () s := by
  unfold fpMove
  rw [if_neg Bool.false_ne_true]
  refine (work_bind_ok (work_upd _ s)).trans ?_
  rw [if_neg Bool.false_ne_true, State.drainAll_of_empty hbuf]
  rfl

theorem fpMove_load (hbuf : s.cores[n].storeBuf = []) : fpMove n false false true b l s = .ok () (s.fpTaken n l false b) := by
  unfold fpMove
  rw [if_neg Bool.false_ne_true]
  refine (work_bind_ok (work_upd _ s)).trans ?_
  rw [if_pos rfl, if_neg Bool.false_ne_true, State.drainAll_of_empty hbuf]
  exact fpTake_eq false false s

theorem fpMove_flush (hsave : ∀ k : M Unit, (do fpSave n; upd fun s => s.drainAll n; k : M Unit) s = k t) :
    fpMove n true true false b l s = .ok () t := by
  unfold fpMove
  rw [if_pos rfl, if_neg Bool.false_ne_true]
  exact hsave _

theorem fpMove_exchange (hsave : ∀ k : M Unit, (do fpSave n; upd fun s => s.drainAll n; k : M Unit) s = k t) :
    fpMove n false true true b l s = .ok () (t.fpTaken n l true b) := by
  unfold fpMove
  rw [if_pos rfl, if_pos rfl, if_neg Bool.false_ne_true]
  exact (hsave _).trans (fpTake_eq false true t)

/-! ## The checks -/

/-- An area of float registers in local memory (R302). -/
def fpArea (a : WAddr) : Prop := a.toNat % 2 = 0 ∧ rangeInMem a 18 = true

theorem areaCheck_fpArea {stored : List Nat} (h : fpArea a) (code : BitVec 8) (hguard : s.guardedWords a stored = false) : areaCheck a 2 18 code stored s = .ok () s := by
  obtain ⟨heven, hrange⟩ := h
  unfold areaCheck
  rw [work_bind_ok (work_require_ok (by rw [areaOk, heven, hrange]; rfl) _ s), work_bind_ok (work_get s), work_require_ok (by rw [hguard]; rfl)]

theorem guardedWords_nil (s : State) (a : WAddr) : s.guardedWords a [] = false := by
  simp [State.guardedWords]

/-- A core that has completed an exchange. -/
def Core.fpExchanged (c : Core) : Core := { c with st := setBit c.st 64 true }

theorem Core.fpExchanged_fpOnly (c : Core) : c.FpOnly c.fpExchanged := by
  refine ⟨fun d => ?_, rfl, rfl⟩
  show { c.withFp d with st := setBit (setBit c.st 64 true) 64 (bit d.st 64) } = c.withFp d
  rw [setBit_setBit_same]
  rfl

theorem State.fpTaken_onlyFp (s : State) (n : CoreId) (l : List Word) (k : Bool) (b : WAddr) : OnlyFp n s (s.fpTaken n l k b) :=
  (OnlyFp.of_free (s.free + 1)).trans (OnlyFp.of_updCore (Core.fpTaken_fpOnly l _ k b))

/-- What follows the move: the charge, which is nothing outside deterministic mode, and ST bit 64. -/
theorem fpEnd_eq (hdet : s.cores[n].det = false) (k : Nat) : (do
    modCore n (Core.charge k)
    modCore n fun c => { c with st := setBit c.st 64 true } : M Unit) s = .ok () (s.updCore n Core.fpExchanged) := by
  rw [work_bind_ok (work_modCore n _ s), State.updCore_self (Core.charge_off hdet k), work_modCore]
  rfl

/-! ## The store -/

theorem bit_exchange : bit (1 : Word) 1 = false ∧ bit (1 : Word) 0 = true := by decide
theorem bit_flush : bit (2 : Word) 1 = true ∧ bit (2 : Word) 0 = false := by decide

/-- A flush of float registers that the core does not own changes nothing. -/
theorem fpxch_flush_none (hbuf : s.cores[n].storeBuf = []) (hdet : s.cores[n].det = false) (hown : bit s.cores[n].fpown 71 = false) :
    fpxch n 2 s = .ok () s := by
  rw [Fin.getElem_fin] at hown
  have hcharge (k : Nat) : s.updCore n (Core.charge k) = s := State.updCore_self (Core.charge_off hdet k)
  unfold fpxch
  rw [work_bind_ok (work_getCore n s)]
  simp only [bit_flush, hown, Bool.not_false, Bool.not_true, Bool.false_and, Bool.and_false, Bool.and_true, Bool.true_or, Bool.or_false, Bool.false_eq_true, ↓reduceIte, pure_bind]
  rw [work_bind_ok (work_upd _ s), State.drainAll_of_empty hbuf, work_bind_ok (work_get s)]
  refine (work_bind_ok (fpMove_none hbuf true)).trans ?_
  rw [work_bind_ok (work_modCore n _ s), hcharge]
  rfl

/-- An exchange of a core whose registers are of CTXFP's area already. -/
theorem fpxch_exchange_same (hbuf : s.cores[n].storeBuf = []) (hdet : s.cores[n].det = false) (hown : bit s.cores[n].fpown 71 = true)
    (hsame : bits s.cores[n].fpown 0 52 = s.cores[n].ctxfp) : fpxch n 1 s = .ok () (s.updCore n Core.fpExchanged) := by
  rw [Fin.getElem_fin] at hown hsame
  unfold fpxch
  rw [work_bind_ok (work_getCore n s)]
  simp only [bit_exchange, hown, hsame, beq_self_eq_true, Bool.not_false, Bool.not_true, Bool.and_false, Bool.and_true, Bool.false_or, Bool.or_false, Bool.false_eq_true, ↓reduceIte, pure_bind]
  rw [work_bind_ok (work_upd _ s), State.drainAll_of_empty hbuf, work_bind_ok (work_get s)]
  refine (work_bind_ok (fpMove_none hbuf false)).trans ?_
  exact fpEnd_eq hdet _

/-- A flush of float registers that the core owns. -/
theorem fpxch_flush (hbuf : s.cores[n].storeBuf = []) (hown : bit s.cores[n].fpown 71 = true)
    (harea : fpArea (bits s.cores[n].fpown 0 52)) (hguard : s.guardedWords (bits s.cores[n].fpown 0 52) (List.range 18) = false)
    (hsave : ∀ k : M Unit, (do fpSave n; upd fun s => s.drainAll n; k : M Unit) s = k t) (htdet : t.cores[n].det = false) :
    fpxch n 2 s = .ok () t := by
  rw [Fin.getElem_fin] at hown harea hguard
  have hcharge (k : Nat) : t.updCore n (Core.charge k) = t := State.updCore_self (Core.charge_off htdet k)
  unfold fpxch
  rw [work_bind_ok (work_getCore n s)]
  simp only [bit_flush, hown, Bool.not_true, Bool.false_and, Bool.true_and, Bool.and_false, Bool.and_true, Bool.true_or, Bool.or_false, Bool.false_eq_true, ↓reduceIte, pure_bind]
  rw [work_bind_ok (areaCheck_fpArea harea 4 hguard), work_bind_ok (work_upd _ s), State.drainAll_of_empty hbuf, work_bind_ok (work_get s)]
  refine (work_bind_ok (fpMove_flush hsave)).trans ?_
  rw [work_bind_ok (work_modCore n _ t), hcharge]
  rfl

/-- Every word of an area is good. -/
def State.readableFp (s : State) (b : WAddr) : Prop := ∀ i < 18, (s.cell (areaWord b i)).bad = false

theorem find_bad_none (h : s.readableFp b) : ((List.range 18).find? fun i => (s.cell (areaWord b i)).bad) = none := by
  rw [List.find?_eq_none]
  intro i hi
  rw [h i (List.mem_range.1 hi)]
  exact Bool.false_ne_true

/-- The words of an area. -/
def State.fpWordsAt (s : State) (b : WAddr) : List Word := (List.range 18).map fun i => s.data (areaWord b i)

/-- An exchange that loads the float registers of a core that owns none. -/
theorem fpxch_load (hbuf : s.cores[n].storeBuf = []) (hdet : s.cores[n].det = false) (hown : bit s.cores[n].fpown 71 = false)
    (harea : fpArea s.cores[n].ctxfp) (hgood : s.readableFp s.cores[n].ctxfp) :
    ∃ u, LinesOnly n s u ∧ fpxch n 1 s = .ok () ((u.fpTaken n (s.fpWordsAt s.cores[n].ctxfp) false s.cores[n].ctxfp).updCore n Core.fpExchanged) := by
  obtain ⟨u, hread, hlines⟩ := areaWords_settled (area := s.cores[n].ctxfp) hdet hgood
  have hubuf : u.cores[n].storeBuf = [] := by rw [hlines.storeBuf, hbuf]
  refine ⟨u, hlines, ?_⟩
  rw [Fin.getElem_fin] at hown harea hgood hread
  unfold fpxch
  rw [work_bind_ok (work_getCore n s)]
  simp only [bit_exchange, hown, Bool.not_false, Bool.false_and, Bool.true_and, Bool.and_false, Bool.and_true, Bool.false_or, Bool.false_eq_true, ↓reduceIte]
  rw [work_bind_ok (areaCheck_fpArea harea 4 (guardedWords_nil _ _)), work_bind_ok (work_upd _ s), State.drainAll_of_empty hbuf, work_bind_ok (work_get s)]
  rw [find_bad_none hgood]
  refine (work_bind_ok hread).trans ((work_bind_ok (fpMove_load hubuf)).trans ?_)
  exact fpEnd_eq (((OnlyFp.of_lines hlines).trans (State.fpTaken_onlyFp ..)).2.det.trans hdet) _

/-- An exchange that saves the float registers to their area and loads those of CTXFP's. -/
theorem fpxch_exchange (hbuf : s.cores[n].storeBuf = []) (hdet : s.cores[n].det = false) (hown : bit s.cores[n].fpown 71 = true)
    (hother : bits s.cores[n].fpown 0 52 ≠ s.cores[n].ctxfp) (hinv : s.Inv) (hsaved : fpArea (bits s.cores[n].fpown 0 52))
    (hguard : s.guardedWords (bits s.cores[n].fpown 0 52) (List.range 18) = false) (harea : fpArea s.cores[n].ctxfp)
    (hgood : s.readableFp s.cores[n].ctxfp) :
    ∃ z, OnlyFp n s z ∧ z.cores[n].storeBuf = [] ∧ SavedFp (bits s.cores[n].fpown 0 52) s.cores[n] s z ∧ s.cores[n].SavedFrom z.cores[n] ∧
      fpxch n 1 s = .ok () ((z.fpTaken n (s.fpWordsAt s.cores[n].ctxfp) true s.cores[n].ctxfp).updCore n Core.fpExchanged) := by
  obtain ⟨u, hread, hlines⟩ := areaWords_settled (area := s.cores[n].ctxfp) hdet hgood
  obtain ⟨z, hsave, hz, hzbuf, hwords, hcore⟩ := fpSave_afterLines hlines hinv hbuf hdet hsaved.2
  refine ⟨z, hz, hzbuf, hwords, hcore, ?_⟩
  have hne : (bits s.cores[n].fpown 0 52 == s.cores[n].ctxfp) = false := beq_false_of_ne hother
  rw [Fin.getElem_fin] at hown harea hgood hread hsaved hguard hne
  unfold fpxch
  rw [work_bind_ok (work_getCore n s)]
  simp only [bit_exchange, hown, hne, Bool.not_false, Bool.false_and, Bool.true_and, Bool.and_false, Bool.and_true, Bool.false_or, ↓reduceIte]
  rw [work_bind_ok (areaCheck_fpArea harea 4 (guardedWords_nil _ _)), work_bind_ok (areaCheck_fpArea hsaved 4 hguard), work_bind_ok (work_upd _ s),
    State.drainAll_of_empty hbuf, work_bind_ok (work_get s), find_bad_none hgood]
  refine (work_bind_ok hread).trans ((work_bind_ok (fpMove_exchange hsave)).trans ?_)
  exact fpEnd_eq ((hz.trans (State.fpTaken_onlyFp ..)).2.det.trans hdet) _

end

end Sys2Proof.Machine
end

section
/-! The control words of a core settled (R52, R262, R281, R292, R301-R303, R312, R376, R378). -/

namespace Sys2Proof.Machine

section
variable {n : CoreId} {s z : State} {a b : WAddr}

theorem exec_fpFlush : exec (.fpFlush n) s = .next (s.coreStore n (ctlOff n 0x65) 2) := rfl

theorem exec_fpExchange : exec (.fpExchange n) s = .next (s.coreStore n (ctlOff n 0x65) 1) := rfl

/-! ## What a loaded area gives -/

/-- The float registers, status, pending trap and area of a core are those of an area's words (R302). -/
def Core.FromArea (s : State) (b : WAddr) (d : Core) : Prop :=
  (∀ i : Nat, i < 32 → d.fr (BitVec.ofNat 5 i) = bits (s.data (b + BitVec.ofNat 52 (i / 2))) (if i % 2 = 0 then 32 else 0) 32) ∧
    d.fs = (s.data (b + 16)).setWidth 10 &&& 0x31F ∧ d.ftrap.isSome = bit (s.data (b + 17)) 71 ∧ d.fpown = flagAt true 71 ||| b.setWidth 72 ∧
    bit d.st 64 = true

theorem getD_fpWordsAt (s : State) (b : WAddr) {i : Nat} (hi : i < 18) : (s.fpWordsAt b).getD i 0 = s.data (b + BitVec.ofNat 52 i) := by
  simp [State.fpWordsAt, areaWord, hi]

theorem bits_zero_eq_setWidth {w : Nat} (x : BitVec w) (len : Nat) : bits x 0 len = x.setWidth len := by
  apply BitVec.eq_of_toNat_eq
  rw [toNat_bits, BitVec.toNat_setWidth, Nat.pow_zero, Nat.div_one]

theorem Core.fromArea_fpTaken (c : Core) (s : State) (b : WAddr) (at_ : DAddr) (k : Bool) :
    ((c.fpTaken (s.fpWordsAt b) at_ k b).fpExchanged).FromArea s b := by
  refine ⟨fun i hi => ?_, ?_, ?_, rfl, ?_⟩
  · have hreg : (BitVec.ofNat 5 i).toNat = i := by
      rw [BitVec.toNat_ofNat]
      omega
    refine (Vector.getElem_ofFn (BitVec.ofNat 5 i).isLt).trans ?_
    simp only [hreg]
    rw [getD_fpWordsAt s b (by omega)]
  · show bits ((s.fpWordsAt b).getD 16 0) 0 10 &&& 0x31F = _
    rw [getD_fpWordsAt s b (by decide), bits_zero_eq_setWidth]
    rfl
  · show (if bit ((s.fpWordsAt b).getD 17 0) 71 then some (bits ((s.fpWordsAt b).getD 17 0) 0 5, at_) else none).isSome = _
    rw [getD_fpWordsAt s b (by decide)]
    cases hbit : bit (s.data (b + BitVec.ofNat 52 17)) 71
    · rfl
    · rfl
  · exact (bit_setBit _ _ _ _).trans (if_pos ⟨rfl, by decide⟩)

theorem Core.fpTaken_storeBuf (c : Core) (l : List Word) (at_ : DAddr) (k : Bool) (b : WAddr) :
    ((c.fpTaken l at_ k b).fpExchanged).storeBuf = c.storeBuf := by
  simp only [Core.fpExchanged, Core.fpTaken, Core.fpLoad]

theorem Core.fpTaken_fpxchCnt (c : Core) (l : List Word) (at_ : DAddr) (k : Bool) (b : WAddr) :
    ((c.fpTaken l at_ k b).fpExchanged).fpxchCnt = if k then c.fpxchCnt else c.fpxchCnt + 1 := rfl

/-! ## The stores to FPXCH -/

/-- What a flush or an exchange may change, as the obligation states it. -/
theorem OnlyFp.facts {v : State} (h : OnlyFp n s v) : v.cores[n].pc = s.cores[n].pc ∧ v.cores[n].retired = s.cores[n].retired ∧
    OnlyCore n { s with mem := v.mem } v ∧ v.cores[n] = s.cores[n].withFp v.cores[n] :=
  ⟨h.2.2.1, h.2.2.2, h.1, h.2.eq⟩

/-- The words of an area hold the float registers of a core, and no other word has changed, once the buffers have drained. -/
def DrainedFp (n : CoreId) (a : WAddr) (c : Core) (s v : State) : Prop :=
  (∀ i : Nat, i < 18 → (v.drainedCell n (a + BitVec.ofNat 52 i)).data = c.fpWords.getD i 0) ∧
    ∀ b : WAddr, (b.toNat < a.toNat ∨ a.toNat + 18 ≤ b.toNat) → (v.drainedCell n b).data = (s.drainedCell n b).data

theorem SavedFp.drained {c : Core} {v : State} (h : SavedFp a c s z) (hs : s.cores[n].storeBuf = []) (hmem : v.mem = z.mem)
    (hv : v.cores[n].storeBuf = []) : DrainedFp n a c s v := by
  have hcell (b : WAddr) : (v.drainedCell n b).data = z.data b := by
    rw [State.drainedCell, State.drainAll_of_empty hv, State.cell_congr hmem]
    rfl
  refine ⟨fun i hi => (hcell _).trans (h.1 i hi), fun b hb => ?_⟩
  rw [hcell, h.2 b hb, State.drainedCell, State.drainAll_of_empty hs]
  rfl

/-- The state that an exchange with a load ends in. -/
def State.fpExchanged (z : State) (n : CoreId) (l : List Word) (counted : Bool) (b : WAddr) : State :=
  (z.fpTaken n l counted b).updCore n Core.fpExchanged

theorem State.fpExchanged_core (z : State) (n : CoreId) (l : List Word) (k : Bool) (b : WAddr) : (z.fpExchanged n l k b).cores[n] =
    (z.cores[n].fpTaken l (bits (Config.freeWord z.free) 0 57) k b).fpExchanged := by
  rw [show (z.fpExchanged n l k b).cores[n] = ((z.fpTaken n l k b).cores[n]).fpExchanged from State.updCore_core (z.fpTaken n l k b) n _,
    show (z.fpTaken n l k b).cores[n] = z.cores[n].fpTaken l (bits (Config.freeWord z.free) 0 57) k b from
      State.updCore_core { z with free := z.free + 1 } n _]

theorem State.fpExchanged_mem (z : State) (n : CoreId) (l : List Word) (k : Bool) (b : WAddr) : (z.fpExchanged n l k b).mem = z.mem := rfl

theorem State.fpExchanged_onlyFp (z : State) (n : CoreId) (l : List Word) (k : Bool) (b : WAddr) : OnlyFp n z (z.fpExchanged n l k b) :=
  (State.fpTaken_onlyFp z n l k b).trans (OnlyFp.of_updCore Core.fpExchanged_fpOnly)

theorem controlStore_fpxch {i : Instr} {s : State} {v : Word} {P : State → State → Prop} (hexec : exec i s = .next (s.coreStore n (ctlOff n 0x65) v))
    (h : (s.atDevice n).cores[n].det = false → ∃ u, fpxch n v (s.atDevice n) = .ok () u ∧ OnlyFp n (s.atDevice n) u ∧ P (s.atDevice n) u) :
    ControlStore i s n P :=
  controlStore_of_ctlStore hexec (by decide) fun hdet => by
    obtain ⟨u, hu, honly, hP⟩ := h hdet
    exact ⟨u, hu, congrArg _ honly.sr, hP⟩

end

section
variable {n : CoreId} {s t : State}

theorem fpFlush_none (ht : t = s.atDevice n) (hown : bit t.cores[n].fpown 71 = false) : ControlWord (.fpFlush n) s n fun c => c := by
  subst ht
  refine controlStore_fpxch exec_fpFlush fun hdet =>
    ⟨_, fpxch_flush_none (State.drainAll_storeBuf _ n) hdet hown, OnlyFp.of_lines (LinesOnly.refl _), ?_⟩
  exact (State.updCore_self (f := fun c => c) rfl).symm

theorem fpFlush_saves (ht : t = s.atDevice n) (hown : bit t.cores[n].fpown 71 = true) (hinv : t.Inv) (harea : fpArea (bits t.cores[n].fpown 0 52))
    (hguard : t.guardedWords (bits t.cores[n].fpown 0 52) (List.range 18) = false) : ControlStore (.fpFlush n) s n fun t v =>
      OnlyFp n t v ∧ DrainedFp n (bits t.cores[n].fpown 0 52) t.cores[n] t v ∧ t.cores[n].SavedFrom v.cores[n] := by
  subst ht
  have hbuf : (s.atDevice n).cores[n].storeBuf = [] := State.drainAll_storeBuf _ n
  refine controlStore_fpxch exec_fpFlush fun hdet => ?_
  obtain ⟨z, hsave, hz, hzbuf, hwords, hcore⟩ := fpSave_afterLines (LinesOnly.refl _) hinv hbuf hdet harea.2
  exact ⟨z, fpxch_flush hbuf hown harea hguard hsave (hz.2.det.trans hdet), hz, hz, hwords.drained hbuf rfl hzbuf, hcore⟩

theorem fpExchange_same (ht : t = s.atDevice n) (hown : bit t.cores[n].fpown 71 = true) (hsame : bits t.cores[n].fpown 0 52 = t.cores[n].ctxfp) :
    ControlWord (.fpExchange n) s n Core.fpExchanged := by
  subst ht
  exact controlStore_fpxch exec_fpExchange fun hdet => ⟨_, fpxch_exchange_same (State.drainAll_storeBuf _ n) hdet hown hsame,
    OnlyFp.of_updCore Core.fpExchanged_fpOnly, rfl⟩

theorem fpExchange_loads (ht : t = s.atDevice n) (hown : bit t.cores[n].fpown 71 = false) (harea : fpArea t.cores[n].ctxfp)
    (hgood : t.readableFp t.cores[n].ctxfp) : ControlStore (.fpExchange n) s n fun t v =>
      OnlyFp n t v ∧ v.mem = t.mem ∧ v.cores[n].FromArea t t.cores[n].ctxfp ∧ v.cores[n].fpxchCnt = t.cores[n].fpxchCnt + 1 := by
  subst ht
  refine controlStore_fpxch exec_fpExchange fun hdet => ?_
  obtain ⟨u, hlines, hx⟩ := fpxch_load (State.drainAll_storeBuf _ n) hdet hown harea hgood
  have honly := (OnlyFp.of_lines hlines).trans (State.fpExchanged_onlyFp u n ((s.atDevice n).fpWordsAt (s.atDevice n).cores[n].ctxfp) false
    (s.atDevice n).cores[n].ctxfp)
  refine ⟨_, hx, honly, honly, hlines.mem, ?_⟩
  rw [← State.fpExchanged, State.fpExchanged_core]
  refine ⟨Core.fromArea_fpTaken .., ?_⟩
  rw [Core.fpTaken_fpxchCnt, congrArg Core.fpxchCnt hlines.core]
  rfl

theorem fpExchange_swaps (ht : t = s.atDevice n) (hown : bit t.cores[n].fpown 71 = true) (hother : bits t.cores[n].fpown 0 52 ≠ t.cores[n].ctxfp)
    (hinv : t.Inv) (hsaved : fpArea (bits t.cores[n].fpown 0 52))
    (hguard : t.guardedWords (bits t.cores[n].fpown 0 52) (List.range 18) = false) (harea : fpArea t.cores[n].ctxfp)
    (hgood : t.readableFp t.cores[n].ctxfp) : ControlStore (.fpExchange n) s n fun t v =>
      OnlyFp n t v ∧ DrainedFp n (bits t.cores[n].fpown 0 52) t.cores[n] t v ∧ v.cores[n].FromArea t t.cores[n].ctxfp ∧
        v.cores[n].fpxchCnt = t.cores[n].fpxchCnt + 1 := by
  subst ht
  have hbuf : (s.atDevice n).cores[n].storeBuf = [] := State.drainAll_storeBuf _ n
  refine controlStore_fpxch exec_fpExchange fun hdet => ?_
  obtain ⟨z, hz, hzbuf, hwords, ⟨-, -, -, -, hcount⟩, hx⟩ := fpxch_exchange hbuf hdet hown hother hinv hsaved hguard harea hgood
  have honly := hz.trans (State.fpExchanged_onlyFp z n ((s.atDevice n).fpWordsAt (s.atDevice n).cores[n].ctxfp) true (s.atDevice n).cores[n].ctxfp)
  have hcore := State.fpExchanged_core z n ((s.atDevice n).fpWordsAt (s.atDevice n).cores[n].ctxfp) true (s.atDevice n).cores[n].ctxfp
  have hvbuf := (congrArg Core.storeBuf hcore).trans ((Core.fpTaken_storeBuf ..).trans hzbuf)
  refine ⟨_, hx, honly, honly, hwords.drained hbuf (State.fpExchanged_mem ..) hvbuf, ?_⟩
  rw [← State.fpExchanged, hcore]
  exact ⟨Core.fromArea_fpTaken .., (Core.fpTaken_fpxchCnt ..).trans hcount⟩

end

/-- Settles O42: each word by the lemma of what a store to it does; an image and an exchange of the float registers by their own. -/
theorem controlWordsOfACore : Obligations.ControlWordsOfACore := by
  unfold Obligations.ControlWordsOfACore
  intro s n k w t c q at_
  refine ⟨fun husable hshadow => controlWord_of_ctlStore (k := 0x41) rfl (by decide) (ssMove_in husable hshadow),
    controlWord_of_ctlStore (k := 0x41) rfl (by decide) ssMove_out,
    fun husable => ⟨controlWord_of_ctlStore (k := 0x84) rfl (by decide) (eMove_15 husable),
      controlWord_of_ctlStore (k := 0x84) rfl (by decide) (eMove_14 husable)⟩,
    fun husable hgrants => ⟨controlWord_of_ctlStore (exec_clearPatches s) (by decide) (mcLoadStore_clearPatches husable hgrants),
      controlWord_of_ctlStore (exec_clearOpenStore s) (by decide) (mcLoadStore_clearOpen husable hgrants)⟩,
    fun a rs ih ic t1 husable hgrants hhead _ => ?_,
    controlWord_registerWrite (by decide) rfl, controlWord_registerWrite (by decide) rfl, controlWord_registerWrite (by decide) rfl,
    controlWord_registerWrite (by decide) rfl, controlWord_registerWrite (by decide) rfl, controlWord_registerWrite (by decide) rfl,
    controlWord_registerWrite (by decide) ctlStore_fpown, controlWord_registerWrite (by decide) rfl,
    controlWord_registerWrite (by decide) rfl, controlWord_registerWrite (by decide) rfl, controlWord_registerWrite (by decide) rfl,
    controlWord_unchanged (by decide) rfl, fpFlush_none rfl, ?_⟩
  · refine ⟨fun r hcounts => mcLoadImage_badCounts husable hgrants hhead hcounts, fun m x rest t2 hcounts hsome hrest _ =>
      ⟨fun r hcheck => mcLoadImage_badWords husable hgrants hhead hcounts hsome hrest hcheck, fun hcheck =>
        ⟨fun f t3 h => mcLoadImage_fault husable hgrants hhead hcounts hsome hrest hcheck h, fun again t3 h =>
          ⟨mcLoadImage_recounted husable hgrants hhead hcounts hsome hrest hcheck h, fun hsame => ?_⟩⟩⟩⟩
    refine (mcLoadImage_same husable hgrants hhead hcounts hsome hrest hcheck h hsame).imp fun v hv => ⟨_, hv, ?_⟩
    have hlen := length_of_imageRead hrest
    exact ⟨Core.loadDone_lres _, Core.loadDone_mcLoad _, fun hpatch => Core.loadDone_patch _ hpatch hlen, fun hopen => Core.loadDone_open _ hopen hlen⟩
  · refine ⟨fun hown ⟨hinv, heven, hrange, hguard⟩ => (fpFlush_saves rfl hown hinv ⟨heven, hrange⟩ hguard).imp
        fun v ⟨honly, hwords, hcore⟩ => ⟨honly.facts, hwords, hcore⟩,
      fun hown hsame => fpExchange_same rfl hown hsame,
      fun hown ⟨heven, hrange, hgood⟩ => (fpExchange_loads rfl hown ⟨heven, hrange⟩ hgood).imp
        fun v ⟨honly, hmem, harea, hcount⟩ => ⟨honly.facts, hmem, harea, hcount⟩,
      fun hown hother ⟨hinv, heven, hrange, hguard⟩ ⟨heven', hrange', hgood⟩ =>
        (fpExchange_swaps rfl hown hother hinv ⟨heven, hrange⟩ hguard ⟨heven', hrange'⟩ hgood).imp
          fun v ⟨honly, hwords, harea, hcount⟩ => ⟨honly.facts, hwords, harea, hcount⟩⟩

end Sys2Proof.Machine
end

section
/-! Raises, timers, late store errors and the lines that arrive for a core (R307, R309, R322, R329, R336). -/

namespace Sys2Proof.Machine

/-! ## Raises (R307) -/

theorem State.raise_of_powered {s : State} (h : s.brd.powered = true) (k : SrcId) : s.raise k.val = { s with srcs := s.srcs.set k s.srcs[k].raised } := by
  unfold State.raise
  rw [dif_pos k.isLt, if_pos h]
  rfl

theorem State.srcRaise_eq (s : State) (k : Nat) (w : Word) :
    s.srcRaise k w = if bit w 0 = true ∧ (768 ≤ k ∨ 464 ≤ k ∧ k < 656 ∧ (k - 464) % 4 < 2) then s.raise k else s := by
  unfold State.srcRaise
  simp only [Bool.and_eq_true, softSource_iff]

section
variable {n : CoreId} {s : State} {k : SrcId} {w : Word}

/-- The device offset of SRC_RAISE of a source. -/
theorem devStore_srcRaise : devStore n (0xA0000 + 4 * k.val + 2) w s = .ok () (s.srcRaise k.val w) := by
  have hk := k.isLt
  have hctl : ctlBlock (some n) (0xA0000 + 4 * k.val + 2) = none := by
    unfold ctlBlock
    rw [dif_neg (by omega), if_neg (by omega)]
  have heng : engRequest (0xA0000 + 4 * k.val + 2) = none := by
    unfold engRequest
    rw [dif_neg (by omega)]
  have hunit : unitAt (0xA0000 + 4 * k.val + 2) = none := by
    unfold unitAt
    rw [if_neg (by omega), dif_neg (by omega), dif_neg (by omega)]
  have hsrc : (⟨(0xA0000 + 4 * k.val + 2 - 0xA0000) / 4, by omega⟩ : SrcId) = k := Fin.ext (by show (0xA0000 + 4 * k.val + 2 - 0xA0000) / 4 = k.val; omega)
  have hword : (0xA0000 + 4 * k.val + 2 - 0xA0000) % 4 = 2 := by omega
  have hput : s.devicePut (0xA0000 + 4 * k.val + 2) w = s.srcStore k 2 w := by
    unfold State.devicePut
    rw [hunit]
    dsimp only
    rw [if_neg (by omega), dif_pos (by omega), hsrc, hword]
  unfold devStore
  rw [hctl]
  dsimp only
  rw [heng]
  dsimp only
  rw [work_upd, hput]
  rfl

theorem srcRaise_controlStore : ControlStore (.srcRaise n k w) s n fun t v => v = t.srcRaise k.val w := by
  have hk := k.isLt
  refine controlStore_of_devStore (o := 0xA0000 + 4 * k.val + 2) rfl ⟨by omega, by omega⟩ fun _ => ⟨_, devStore_srcRaise, ?_, rfl⟩
  rw [State.srcRaise_eq]
  split
  · rw [State.raise_sr]
  · rfl

/-! ## Timers (R309) -/

theorem timerDue_iff {v : Word} {now : BitVec 64} : timerDue v now = true ↔ bit v 71 = true ∧ (bits v 0 64).toNat ≤ now.toNat := by
  rw [timerDue, Bool.and_eq_true, decide_eq_true_iff]

theorem timerExpiry_due {t : TimerId} (h : bit (s.timer t) 71 = true ∧ (bits (s.timer t) 0 64).toNat ≤ s.now.toNat) :
    exec (.timerExpiry t) s = .next ((s.setTimer (setBit (s.timer t) 71 false) t).raise (timerSource t)) :=
  congrArg Host.Outcome.next (if_pos (timerDue_iff.2 h))

theorem timerExpiry_early {t : TimerId} (h : bit (s.timer t) 71 = false ∨ s.now.toNat < (bits (s.timer t) 0 64).toNat) :
    exec (.timerExpiry t) s = .next s := by
  refine congrArg Host.Outcome.next (if_neg fun hdue => ?_)
  obtain ⟨hon, htime⟩ := timerDue_iff.1 hdue
  rcases h with h | h
  · rw [h] at hon
    exact Bool.false_ne_true hon
  · omega

/-! ## Late store errors (R322) -/

theorem exec_lateStoreError {cause : BitVec 8} {pa : WAddr} (h : 1 ≤ cause.toNat) (h' : cause.toNat ≤ 7) :
    exec (.lateStoreError n cause pa) s = .next ((s.updCore n fun c => { c with
      lseCnt := c.lseCnt + 1, lseAddr := if bit c.lseStat 71 then c.lseAddr else pa,
      lseStat := if bit c.lseStat 71 then setBit c.lseStat 70 true
        else flagAt true 71 ||| flagAt (bit c.lseStat 70) 70 ||| at' cause 0 }).raise (466 + 4 * n.val)) := by
  refine (congrArg Host.Outcome.next (if_pos ⟨h, h'⟩)).trans ?_
  unfold State.lateStore
  refine congrArg (fun u : State => Host.Outcome.next (u.raise (466 + 4 * n.val))) (State.updCore_congr ?_)
  dsimp only
  split <;> rfl

/-! ## Lines (R329, R336) -/

theorem mem_addWays {α : Type} (ways : Nat) (set : α → Nat) (pick : Nat) (x : α) (l : List α) : x ∈ addWays ways set pick x l := by
  unfold addWays
  dsimp only
  split <;> simp

theorem lineOf_of_aligned {line : WAddr} (h : line.toNat % 8 = 0) : lineOf line = line := by
  apply eq_of_bits
  intro i hi
  have hnot : bit (~~~(7 : WAddr)) i = !bit (7 : WAddr) i := by
    rw [bit, BitVec.getLsbD_not, decide_eq_true hi, Bool.true_and]
    rfl
  rw [lineOf, bit_and, hnot]
  by_cases hlow : i < 3
  · have hzero : bit line i = false := by
      rw [bit, BitVec.getLsbD, Nat.testBit_eq_decide_div_mod_eq, decide_eq_false_iff_not]
      interval_cases i <;> omega
    rw [hzero, Bool.false_and]
  · rw [bit_of_lt (x := (7 : WAddr)) (i := i) (Nat.lt_of_lt_of_le (by decide : (7 : WAddr).toNat < 2 ^ 3) (Nat.pow_le_pow_right (by omega) (by omega)))]
    simp

theorem State.touchLine_held {pa : WAddr} (h : s.cores[n].det = true ∨ lineOf pa ∈ s.cores[n].l1) : s.touchLine n pa = s := by
  refine if_pos ?_
  rcases h with h | h
  · rw [h]
    rfl
  · rw [Bool.or_eq_true, List.contains_iff_mem]
    exact Or.inr h

/-- The lines of a quad's L2 once one has been brought. -/
def Quad.bringLine (line : WAddr) (q : Quad) : Quad :=
  { q with l2 := if q.l2.contains line then q.l2 else addWays 16 l2Set line.toNat line q.l2 }

/-- A core whose L1 has missed a line and holds it now. -/
def Core.bringLine (line : WAddr) (c : Core) : Core := { c with l1miss := inc c.l1miss, l1 := addWays 8 l1Set line.toNat line c.l1 }

theorem State.touchLine_new {pa : WAddr} (hdet : s.cores[n].det = false) (h : lineOf pa ∉ s.cores[n].l1) :
    s.touchLine n pa = (s.updQuad (quadOf n) (Quad.bringLine (lineOf pa))).updCore n (Core.bringLine (lineOf pa)) := by
  refine if_neg ?_
  rw [hdet, Bool.false_or, List.contains_iff_mem]
  exact h

theorem Quad.mem_bringLine (line : WAddr) (q : Quad) : line ∈ (q.bringLine line).l2 := by
  show line ∈ if q.l2.contains line then q.l2 else addWays 16 l2Set line.toNat line q.l2
  split
  · next h => exact List.contains_iff_mem.1 h
  · exact mem_addWays ..

/-- The line that is brought stands in the L1 and the L2, and the miss is counted. -/
theorem State.touchLine_new_facts {pa : WAddr} (hdet : s.cores[n].det = false) (h : lineOf pa ∉ s.cores[n].l1) :
    let u := s.touchLine n pa
    lineOf pa ∈ u.cores[n].l1 ∧ lineOf pa ∈ u.quads[quadOf n].l2 ∧ OnlyCore n s u ∧ u.free = s.free ∧
      u.cores[n] = { s.cores[n] with l1 := u.cores[n].l1, l1miss := s.cores[n].l1miss + 1 } := by
  intro u
  have hu : u = (s.updQuad (quadOf n) (Quad.bringLine (lineOf pa))).updCore n (Core.bringLine (lineOf pa)) := State.touchLine_new hdet h
  have hcore : u.cores[n] = s.cores[n].bringLine (lineOf pa) := by
    rw [hu]
    exact State.updCore_core (s.updQuad (quadOf n) (Quad.bringLine (lineOf pa))) n _
  have hquad : u.quads[quadOf n] = s.quads[quadOf n].bringLine (lineOf pa) := by
    rw [hu]
    exact Vector.getElem_set_self ..
  refine ⟨?_, ?_, (State.touchLine_lines s n pa).onlyCore, by rw [hu]; rfl, ?_⟩
  · rw [hcore]
    exact mem_addWays ..
  · rw [hquad]
    exact Quad.mem_bringLine ..
  · rw [hcore]
    rfl

theorem exec_lineFill {line : WAddr} (h : isLocalMem line = true) : exec (.lineFill n line) s = .next (s.touchLine n line) :=
  congrArg Host.Outcome.next (if_pos h)

theorem lineFill_unused {line : WAddr} (h : s.cores[n].det = true ∨ isLocalMem line = false) : exec (.lineFill n line) s = .next s := by
  show Host.Outcome.next (s.fillLine n line) = _
  unfold State.fillLine
  rcases h with h | h
  · rw [State.touchLine_held (Or.inl h), ite_self]
  · rw [h]
    rfl

theorem exec_microTrap {x : MicroCause} {t : State} (hrun : s.cores[n].run = 2) (h : s.microService n x = some t) :
    exec (.microTrap n x) s = .next (t.updCore n fun c => { c with mtrapCnt := c.mtrapCnt + 1 }) := by
  refine (congrArg Host.Outcome.next (if_pos (by rw [hrun]; rfl))).trans ?_
  rw [h]
  rfl

theorem exec_microTrap_none {x : MicroCause} (hrun : s.cores[n].run = 2) (h : s.microService n x = none) : exec (.microTrap n x) s = .next s := by
  refine (congrArg Host.Outcome.next (if_pos (by rw [hrun]; rfl))).trans ?_
  rw [h]

/-- The micro-trap of a line that the L1 lacks brings it. -/
theorem microTrap_fill {line : WAddr} (hrun : s.cores[n].run = 2) (hdet : s.cores[n].det = false) (hlocal : isLocalMem line = true)
    (hnew : lineOf line ∉ s.cores[n].l1) :
    exec (.microTrap n (.fill line)) s = .next ((s.touchLine n line).updCore n fun c => { c with mtrapCnt := c.mtrapCnt + 1 }) := by
  refine exec_microTrap hrun (if_neg ?_)
  rw [hdet, hlocal, Bool.not_true, Bool.or_false, Bool.false_or, List.contains_iff_mem]
  exact hnew

theorem microTrap_evt {src : SrcId} (hrun : s.cores[n].run = 2) (h : s.sourceFor n = some src) :
    exec (.microTrap n .evt) s = .next (s.updCore n fun c => { c with offer := some (src, s.srcs[src].level), mtrapCnt := c.mtrapCnt + 1 }) := by
  have hservice : s.microService n .evt = some (s.updCore n fun c => { c with offer := some (src, s.srcs[src].level) }) := by
    rw [State.microService, h]
    rfl
  rw [exec_microTrap hrun hservice, State.updCore_updCore]

end

end Sys2Proof.Machine
end

section
/-! A store that leaves the buffer on its own (R337), and machine checks (R324, R380, R381). -/

namespace Sys2Proof.Machine

section
variable {n : CoreId} {s : State} {e : SbEnt} {r : List SbEnt}

/-! ## The oldest store leaves -/

theorem State.getPass_putPass (h : s.Inv) (pa : WAddr) (p : PassReg) : (s.putPass pa p).getPass pa = p := by
  have hne : pa ≠ pa + 1 := fun he => by
    have := congrArg BitVec.toNat he
    rw [BitVec.toNat_add] at this
    have hlt := pa.isLt
    have hone : (1 : WAddr).toNat = 1 := rfl
    omega
  have hlow : (s.putPass pa p).cell pa = { data := p.w0, tag := p.valid, bad := false } :=
    (State.cell_putCell_other (h.putCell _ _) _ hne).trans (State.cell_putCell_same h _ _)
  have hhigh : (s.putPass pa p).cell (pa + 1) = { data := p.w1, tag := p.valid, bad := false } := State.cell_putCell_same (h.putCell _ _) _ _
  unfold State.getPass
  rw [hlow, hhigh]
  simp

/-- Core n with its oldest store taken off the buffer. -/
def State.popped (s : State) (n : CoreId) (r : List SbEnt) : State := s.updCore n fun c => { c with storeBuf := r }

theorem State.popped_core (s : State) (n : CoreId) (r : List SbEnt) : (s.popped n r).cores[n] = { s.cores[n] with storeBuf := r } :=
  State.updCore_core s n _

theorem exec_storeDrain_empty (h : s.cores[n].storeBuf = []) : exec (.storeDrain n) s = .next s := by
  show Host.Outcome.next (s.drainOne n) = _
  rw [State.drainOne, h]

theorem exec_storeDrain (h : s.cores[n].storeBuf = e :: r) : exec (.storeDrain n) s = .next ((s.popped n r).performStore n e) := by
  show Host.Outcome.next (s.drainOne n) = _
  rw [State.drainOne, h]
  rfl

/-- What every store leaves of its core as it leaves. -/
theorem State.performStore_popped : let u := (s.popped n r).performStore n e
    u.cores[n].storeBuf = r ∧ u.cores[n].g = s.cores[n].g ∧ u.cores[n].pc = s.cores[n].pc := by
  intro u
  have hstores : StoresOnly n (s.popped n r) u := State.performStore_storesOnly _ e
  refine ⟨?_, hstores.g.trans (by rw [State.popped_core]), hstores.pc.trans (by rw [State.popped_core])⟩
  rw [(State.performStore_sameStores (n := n) (s.popped n r) e).2, e.writeTo_cores, State.popped_core]

/-- A store of a good local word. -/
theorem State.performStore_local (hinv : s.Inv) (hpass : e.pass = none) (hlocal : isLocalMem e.pa = true) (hbad : (s.cell e.pa).bad = false) :
    let u := (s.popped n r).performStore n e
    (u.cell e.pa).data = merge e.mask e.data (s.cell e.pa).data ∧ OnlyCore n { s.popped n r with mem := u.mem } u ∧
      u.cores[n] = { s.cores[n] with storeBuf := r, l1 := u.cores[n].l1, l1miss := u.cores[n].l1miss } ∧
      ∀ a, a ≠ e.pa → (u.cell a).data = (s.cell a).data := by
  intro u
  have hlines : StoredLines n (s.popped n r) u := State.performStore_storedLines hpass hlocal fun hb =>
    absurd hb (by show ¬(s.cell e.pa).bad = true; rw [hbad]; decide)
  have hbuf : u.cores[n].storeBuf = r := State.performStore_popped.1
  have hmem : u.mem = (s.putMasked e.pa e.mask e.data).mem := by
    refine (State.performStore_sameStores (n := n) (s.popped n r) e).1.trans ?_
    rw [SbEnt.writeTo, hpass]
    dsimp only
    rw [if_pos (inLocalRegion_of_isLocalMem hlocal)]
    exact State.putMasked_mem_congr rfl _ _ _
  have hdata (a : WAddr) : (u.cell a).data = if a = e.pa then merge e.mask e.data (s.cell e.pa).data else (s.cell a).data := by
    rw [State.cell_congr hmem]
    exact State.data_putMasked hinv (fun hb => absurd hb (by rw [hbad]; decide)) e.data a
  refine ⟨by rw [hdata, if_pos rfl], ?_, ?_, fun a ha => by rw [hdata, if_neg ha]⟩
  · exact (onlyCore_updCore _ n _).trans (LinesOnly.onlyCore hlines)
  · have hcore := hlines.core
    rw [State.popped_core, hbuf] at hcore
    exact hcore

/-- A store to a word of the host window. -/
theorem State.performStore_window (hpass : e.pass = none) (hwindow : regionOf e.pa = .window) :
    let u := (s.popped n r).performStore n e
    u.mem = s.mem ∧ u.cores[n] = { s.cores[n] with storeBuf := r, windows := noteAperture e.pa s.cores[n].windows } := by
  intro u
  have hu : u = ((s.popped n r).storeWindow e.pa e.mask e.data).updCore n fun c => { c with windows := noteAperture e.pa c.windows } := by
    show (s.popped n r).performStore n e = _
    rw [State.performStore, hpass]
    dsimp only
    rw [hwindow]
  have hcores := State.storeWindow_cores (s.popped n r) e.pa e.mask e.data
  refine ⟨?_, ?_⟩
  · rw [hu, State.updCore_mem, (State.storeWindow_sameStores (n := n) _ e.pa e.mask e.data).1]
    rfl
  · rw [hu]
    refine (State.updCore_core _ n _).trans ?_
    rw [hcores]
    exact congrArg (fun c : Core => { c with windows := noteAperture e.pa c.windows }) (State.popped_core s n r)

/-- A store of a pass. -/
theorem State.performStore_pass (hinv : s.Inv) {w1 : Word} {v : Bool} (hpass : e.pass = some (w1, v)) :
    ((s.popped n r).performStore n e).getPass e.pa = { w0 := e.data, w1 := w1, valid := v } := by
  have hperf : (s.popped n r).performStore n e = ((s.popped n r).touchLine n e.pa).putPass e.pa { w0 := e.data, w1 := w1, valid := v } := by
    rw [State.performStore, hpass]
  have htouch : ((s.popped n r).touchLine n e.pa).Inv := by
    obtain ⟨l1, k, l2, h⟩ := State.touchLine_lines (s.popped n r) n e.pa
    rw [h]
    exact hinv
  rw [hperf]
  exact State.getPass_putPass htouch _ _

end

/-! ## Machine checks -/

section
variable {n : CoreId} {s : State} {cause : BitVec 8} {x : BitVec 16}

/-- What bears on whether a core takes a machine check, and where. -/
theorem Core.corrupt_fields (c : Core) (x : BitVec 16) :
    (c.corrupt x).run = c.run ∧ (c.corrupt x).active = c.active ∧ (c.corrupt x).posts = c.posts ∧ (c.corrupt x).pc = c.pc := by
  unfold Core.corrupt
  dsimp only
  split_ifs <;> exact ⟨rfl, rfl, rfl, rfl⟩

/-- A parity error as its command brings it (R381). -/
def Core.parityError (fails : Bool) (x : BitVec 16) (c : Core) : Core := { (if fails then c.corrupt x else c) with mcAddr := x, mcPar := c.mcPar + 1 }

theorem Core.parityError_eq (fails : Bool) (x : BitVec 16) (c : Core) : (if fails then c.corrupt x else c).noteParity x = c.parityError fails x := by
  have hcount : (if fails then c.corrupt x else c).mcPar = c.mcPar := by
    cases fails
    · rfl
    · rw [if_pos rfl]
      unfold Core.corrupt
      dsimp only
      split_ifs <;> rfl
  rw [Core.noteParity, hcount]
  rfl

/-- The state in which a machine check stands: a parity error is noted. -/
def State.checkNoted (s : State) (n : CoreId) (cause : BitVec 8) (x : BitVec 16) : State :=
  if cause = 1 ∨ cause = 2 then s.draw.2.updCore n (Core.parityError (bit s.draw.1 0) x) else s

theorem exec_machineCheck (hrun : s.cores[n].run = 2) (hposts : s.cores[n].posts = []) (retry : Bool) :
    exec (.machineCheck n cause retry x) s = .next ((s.checkNoted n cause x).machineCheck n cause (retry && cause != 5)) := by
  have hcheck : s.checkable n = true := by
    rw [State.checkable, hrun, hposts]
    simp
  refine (congrArg Host.Outcome.next (if_pos hcheck)).trans (congrArg (fun u : State => Host.Outcome.next (u.machineCheck n cause _)) ?_)
  unfold State.checkNoted
  by_cases h : cause = 1 ∨ cause = 2
  · rw [if_pos h, if_pos (by simpa using h)]
    exact State.updCore_congr (Core.parityError_eq _ x _)
  · rw [if_neg h, if_neg (by simpa using h)]

theorem State.checkNoted_core : (s.checkNoted n cause x).cores[n] =
    if cause = 1 ∨ cause = 2 then s.cores[n].parityError (bit s.draw.1 0) x else s.cores[n] := by
  unfold State.checkNoted
  split
  · exact State.updCore_core s.draw.2 n _
  · rfl

theorem Core.parityError_fields (b : Bool) (x : BitVec 16) (c : Core) : (c.parityError b x).run = c.run ∧ (c.parityError b x).active = c.active ∧
    (c.parityError b x).posts = c.posts ∧ (c.parityError b x).pc = c.pc := by
  cases b
  · exact ⟨rfl, rfl, rfl, rfl⟩
  · exact c.corrupt_fields x

theorem State.checkNoted_fields : let d := (s.checkNoted n cause x).cores[n]
    d.run = s.cores[n].run ∧ d.active = s.cores[n].active ∧ d.posts = s.cores[n].posts ∧ d.pc = s.cores[n].pc := by
  dsimp only
  rw [State.checkNoted_core]
  split
  · exact Core.parityError_fields _ x _
  · exact ⟨rfl, rfl, rfl, rfl⟩

/-- A core that waits for nothing. -/
def State.unwaiting (s : State) (n : CoreId) : State := s.updCore n fun c => { c with wait := none }

/-- A machine check with RETRY, entered as a fault. -/
def State.enterCheck (t : State) (n : CoreId) (cause : BitVec 8) (w : Word) (s1 : State) : State :=
  match t.takeFault n { cls := clsMachine, code := cause, detail := 1 } w with
  | (some u, _) => u
  | (none, u) => u.waitEntry n s1

variable (hrun : s.cores[n].run = 2) (hposts : s.cores[n].posts = []) (hlevel : bit s.cores[n].active 17 = false)
include hrun hposts hlevel

theorem State.machineCheck_taken (retry : Bool) : s.machineCheck n cause retry =
    let w := ((s.unwaiting n).instrWord n).1
    let t := ((s.unwaiting n).instrWord n).2
    if retry then t.enterCheck n cause w s
    else (t.drainAll n).escalate n 8 { cls := 0, detail := at' clsMachine 47 ||| at' cause 39 } s.cores[n].pc w := by
  have hr : ¬(s.cores[n].run != 2) = true := by rw [hrun]; decide
  have hl : ¬bit s.cores[n].active 17 = true := by rw [hlevel]; decide
  have hp : ¬(!s.cores[n].posts.isEmpty) = true := by rw [hposts]; decide
  have hretry : flagAt true 0 = 1 := by decide
  refine (if_neg hr).trans ((if_neg hl).trans ((if_neg hp).trans ?_))
  dsimp only
  rw [← State.unwaiting]
  generalize (s.unwaiting n).instrWord n = got
  obtain ⟨w, t⟩ := got
  cases retry
  · rw [if_neg Bool.false_ne_true, if_neg Bool.false_ne_true]
  · rw [if_pos rfl, if_pos rfl, hretry]
    unfold State.enterCheck
    generalize t.takeFault n { cls := clsMachine, code := cause, detail := 1 } w = entry
    rcases entry with ⟨u | u, v⟩ <;> rfl

end

section
variable {n : CoreId} {s : State} {cause : BitVec 8} {x : BitVec 16}
variable (hrun : s.cores[n].run = 2) (hposts : s.cores[n].posts = [])
include hrun hposts

/-- A machine check of a core that can be entered, at the state that notes it. -/
theorem exec_machineCheck_taken (hlevel : bit s.cores[n].active 17 = false) (retry : Bool) : exec (.machineCheck n cause retry x) s =
    let s1 := s.checkNoted n cause x
    let w := ((s1.unwaiting n).instrWord n).1
    let t := ((s1.unwaiting n).instrWord n).2
    .next (if retry && cause != 5 then t.enterCheck n cause w s1
      else (t.drainAll n).escalate n 8 { cls := 0, detail := at' clsMachine 47 ||| at' cause 39 } s.cores[n].pc w) := by
  obtain ⟨hr, ha, hp, hpc⟩ := State.checkNoted_fields (s := s) (n := n) (cause := cause) (x := x)
  rw [exec_machineCheck hrun hposts, State.machineCheck_taken (hr.trans hrun) (hp.trans hposts) (by rw [ha, hlevel]), hpc]

/-- The 65th step without a safe point (R380). -/
theorem microStepLimit_eq : exec (.microStepLimit n) s = exec (.machineCheck n 5 false 0) s := by
  have hnoted : s.checkNoted n 5 0 = s := if_neg (by decide)
  rw [exec_machineCheck hrun hposts, hnoted]
  rfl

end

end Sys2Proof.Machine
end

section
/-! Walks made ahead of their access (R272, R379), the illegal instruction (R59), and which command an instruction word stands for (R54-R57). -/

namespace Sys2Proof.Machine

section
variable {n : CoreId} {s u : State} {va : WAddr} {acc : Access} {t : TlbEnt}

/-! ## Walks -/

theorem State.translateFor_ok {x : Xl} (h : xlate x va (acc == .store || acc == .loadStore) 0 (daOf va 0) s = .ok t u) :
    s.translateFor x va acc = u := by
  rw [State.translateFor, h]

theorem exec_tableWalk (hrun : s.cores[n].run = 2) (hdet : s.cores[n].det = false)
    (h : xlate (.core n (streamOf acc)) va (acc == .store || acc == .loadStore) 0 (daOf va 0) s = .ok t u) :
    exec (.tableWalk (.core n) va acc) s = .next u := by
  refine (congrArg Host.Outcome.next (if_pos ?_)).trans (congrArg Host.Outcome.next (State.translateFor_ok h))
  rw [hrun, hdet]
  rfl

theorem State.rootOf_core_space (i : Fin 3) : (s.rootOf (.core n i)).2 = s.cores[n].space := by
  unfold State.rootOf
  dsimp only
  split <;> rfl

theorem microTrap_walk (hrun : s.cores[n].run = 2) (hdet : s.cores[n].det = false)
    (h : xlate (.core n (streamOf acc)) va (acc == .store || acc == .loadStore) 0 (daOf va 0) s = .ok t u)
    (hroot : bit (s.rootOf (.core n (streamOf acc))).1 0 = true) (hmiss : tlbFind (s.ownTlb (.core n (streamOf acc))) s.cores[n].space va = none) :
    exec (.microTrap n (.walk va acc)) s = .next (u.updCore n fun c => { c with mtrapCnt := c.mtrapCnt + 1 }) := by
  refine exec_microTrap hrun ((if_neg ?_).trans (congrArg some (State.translateFor_ok h)))
  rw [State.rootOf_core_space, hroot, hmiss, hdet]
  decide

theorem microTrap_walk_held (hrun : s.cores[n].run = 2) (hheld : (tlbFind (s.ownTlb (.core n (streamOf acc))) s.cores[n].space va).isSome = true) :
    exec (.microTrap n (.walk va acc)) s = .next s := by
  refine exec_microTrap_none hrun (if_pos ?_)
  rw [State.rootOf_core_space, hheld, Bool.or_true]

/-! ## The illegal instruction (R59) -/

/-- The decode of an instruction of the plain shape adds nothing to its fetch. -/
theorem fetchDecode_plain (n : CoreId) (s : State) : fetchDecode n {} s = (do
    let _ ← fetchAt n s.cores[n].p[15] s.cores[n].pc
    return () : M Unit) s := by
  unfold fetchDecode
  rw [work_bind_ok (work_getCore n s)]
  refine congrFun (congrArg (fetchAt n s.cores[n].p[15] s.cores[n].pc >>= ·) (funext fun _ => ?_)) s
  rcases s.cores[n.val].ftrap with _ | ⟨causes, at_⟩ <;> rfl

/-- An instruction of the plain shape that starts has been fetched. -/
theorem fetchAt_of_starts (h : s.starts n {} = true) : ∃ w, fetchAt n s.cores[n].p[15] s.cores[n].pc s = .ok w (s.fetched n {}) := by
  unfold State.starts at h
  rw [Bool.and_eq_true, fetchDecode_plain, work_bind] at h
  unfold State.fetched stateOf
  rw [fetchDecode_plain, work_bind]
  cases hfetch : fetchAt n s.cores[n].p[15] s.cores[n].pc s with
  | ok w t => exact ⟨w, rfl⟩
  | error e t =>
    rw [hfetch] at h
    exact absurd h.2 Bool.false_ne_true

theorem fetchDecode_illegal {t : State} {w : Word} {f : FmtA} (h : fetchAt n s.cores[n].p[15] s.cores[n].pc s = .ok w t) :
    fetchDecode n (shapeIll f) s = .error (.fault illegal) t := by
  unfold fetchDecode
  refine (work_bind_ok (work_getCore n s)).trans ((work_bind_ok h).trans rfl)

theorem exec_ill {f : FmtA} (h : s.starts n {} = true) : exec (.ill n f) s = .next ((s.fetched n {}).faultAfter n illegal s) := by
  obtain ⟨w, hfetch⟩ := fetchAt_of_starts h
  have hdecode := fetchDecode_illegal (f := f) hfetch
  have hbegin : (s.cores[n].ready (shapeIll f).regs && s.mayBegin n) = true := by
    unfold State.starts at h
    rw [Bool.and_eq_true] at h
    exact h.1
  show Host.Outcome.next (s.runIns n (shapeIll f) (return .seq)) = _
  unfold State.runIns
  rw [if_pos hbegin, hdecode]

end

end Sys2Proof.Machine
end

section
/-! Which command of a core an instruction word stands for (R54-R57, R74, R75). -/

namespace Sys2Proof.Machine

/-! ## The opcode decides -/

/-- The command of an opcode, with the 36 bits of its instruction and the word that holds it. -/
def decodeOp (n : CoreId) (op : BitVec 8) (x : BitVec 36) (w : Word) : Instr :=
  let hi := (op.extractLsb' 4 4).toNat
  let lo := (op.extractLsb' 0 4).toNat
  let ill : Instr := .ill n (FmtA.ofBits x)
  let pick {α : Type} (l : List (α → Instr)) (f : α) : Instr := (l[lo]?.map fun c => c f).getD ill
  match hi, lo with
  | 0x5, 0x0 => .b n (FmtB.ofBits x)
  | 0x5, 0x1 => .call n (FmtB.ofBits x)
  | 0x5, 0x7 => .trap n (FmtI.ofBits x)
  | 0x9, 0x0 => .post n (FmtM.ofBits x)
  | 0x9, 0x1 => .commit n (FmtM.ofBits x)
  | 0x2, _ => pick (rowI n) (FmtI.ofBits x)
  | 0x3, _ => pick (rowM n) (FmtM.ofBits x)
  | 0x7, _ => pick (rowS n 0x7) (FmtS.ofBits w)
  | 0x8, _ => pick (rowS n 0x8) (FmtS.ofBits w)
  | _, _ => pick (rowA n hi) (FmtA.ofBits x)

theorem bits_bits_sub {w : Nat} (y : BitVec w) (lo len lo' len' : Nat) (h : lo' + len' ≤ len) : bits (bits y lo len) lo' len' = bits y (lo + lo') len' := by
  apply eq_of_bits
  intro i hi
  rw [bit_bits, bit_bits, bit_bits]
  grind

theorem decodeIns_eq (n : CoreId) {w : Word} {op : BitVec 8} {x : BitVec 36} (hop : bits w 64 8 = op) (hx : bits w 36 36 = x) :
    decodeIns n w = decodeOp n op x w := by
  have hhi : w.extractLsb' 68 4 = op.extractLsb' 4 4 := hop ▸ (bits_bits_sub w 64 8 4 4 (by omega)).symm
  have hlo : w.extractLsb' 64 4 = op.extractLsb' 0 4 := hop ▸ (bits_bits_sub w 64 8 0 4 (by omega)).symm
  unfold decodeIns decodeOp
  rw [hhi, hlo, ← hx]
  rfl

section
variable (n : CoreId) (x : BitVec 36) (w : Word)

theorem decodeOp_opsB : ∀ e ∈ opsB n (FmtB.ofBits x), decodeOp n e.1 x w = e.2 := by
  simp [opsB, decodeOp]

theorem decodeOp_opsI : ∀ e ∈ opsI n (FmtI.ofBits x), decodeOp n e.1 x w = e.2 := by
  simp [opsI, decodeOp, rowI]

theorem decodeOp_opsM : ∀ e ∈ opsM n (FmtM.ofBits x), decodeOp n e.1 x w = e.2 := by
  simp [opsM, decodeOp, rowM]

theorem decodeOp_opsS : ∀ e ∈ opsS n (FmtS.ofBits w), decodeOp n e.1 x w = e.2 := by
  simp [opsS, decodeOp, rowS]

theorem decodeOp_opsA : ∀ e ∈ opsA n (FmtA.ofBits x), decodeOp n e.1 x w = e.2 := by
  simp [opsA, decodeOp, rowA]

theorem decodeOp_uop (k : Fin 16) : decodeOp n (0xE0 + BitVec.ofNat 8 k.val) x w = .uop n k (FmtA.ofBits x) := by
  have hhi : ∀ k : Fin 16, ((0xE0 + BitVec.ofNat 8 k.val).extractLsb' 4 4).toNat = 14 := by decide
  have hlo : ∀ k : Fin 16, ((0xE0 + BitVec.ofNat 8 k.val).extractLsb' 0 4).toNat = k.val := by decide
  unfold decodeOp
  simp only [hhi, hlo]
  simp [rowA]

/-- The opcodes of rows 0 to 5 that R74 leaves unassigned, and ILL. -/
def lowGaps : List (BitVec 8) := (0x00 :: 0x0D :: 0x0F :: 0x5F :: (List.range' 0x1B 5 ++ List.range' 0x2C 4 ++ List.range' 0x3E 2 ++
  List.range' 0x48 8)).map (BitVec.ofNat 8)

/-- The unassigned opcodes of rows 6 to B. -/
def highGaps : List (BitVec 8) := (0xAF :: (List.range' 0x68 8 ++ List.range' 0x79 7 ++ List.range' 0x88 8 ++ List.range' 0x99 7 ++
  List.range' 0xB4 12)).map (BitVec.ofNat 8)

/-- The opcodes of the rows that hold none. -/
def emptyRows : List (BitVec 8) := (List.range' 0xC0 32 ++ List.range' 0xF0 16).map (BitVec.ofNat 8)

theorem mem_gaps {op : BitVec 8} (h : ¬opAssigned n op) : op ∈ lowGaps ++ highGaps ++ emptyRows := by
  have hall : ∀ op : BitVec 8, opAssigned 0 op ∨ op ∈ lowGaps ++ highGaps ++ emptyRows := by
    unfold opAssigned
    decide +kernel
  exact (hall op).resolve_left h

theorem decodeOp_lowGaps : ∀ op ∈ lowGaps, decodeOp n op x w = .ill n (FmtA.ofBits x) := by
  simp [lowGaps, List.range', decodeOp, rowA, rowI, rowM]

theorem decodeOp_highGaps : ∀ op ∈ highGaps, decodeOp n op x w = .ill n (FmtA.ofBits x) := by
  simp [highGaps, List.range', decodeOp, rowA, rowS]

theorem decodeOp_emptyRows : ∀ op ∈ emptyRows, decodeOp n op x w = .ill n (FmtA.ofBits x) := by
  simp [emptyRows, List.range', decodeOp, rowA]

theorem decodeOp_unassigned {op : BitVec 8} (h : ¬opAssigned n op) : decodeOp n op x w = .ill n (FmtA.ofBits x) := by
  rcases List.mem_append.1 (mem_gaps n h) with h | h
  · rcases List.mem_append.1 h with h | h
    · exact decodeOp_lowGaps n x w op h
    · exact decodeOp_highGaps n x w op h
  · exact decodeOp_emptyRows n x w op h

/-! ## The words of the formats -/

theorem bits_slotWord (op : BitVec 8) (low : BitVec 28) : bits (slotWord op low) 36 36 = op ++ low := by
  apply eq_of_bits
  intro i hi
  unfold slotWord
  rw [bit_bits]
  simp [bit]
  grind

theorem bits_op (op : BitVec 8) (low : BitVec 28) (y : BitVec 36) : bits ((op ++ low) ++ y : BitVec 72) 64 8 = op := by
  apply eq_of_bits
  intro i hi
  rw [bit_bits]
  simp [bit]
  grind

theorem bits_instr (z y : BitVec 36) : bits (z ++ y : BitVec 72) 36 36 = z := by
  apply eq_of_bits
  intro i hi
  rw [bit_bits]
  simp [bit]
  grind

end

end Sys2Proof.Machine
end

section
/-! The words of each format, and the commands that they stand for (R54-R57, R74, R75). -/

namespace Sys2Proof.Machine

/-! ## The fields of the formats -/

theorem FmtA.ofBits_append (op : BitVec 8) (f : FmtA) : FmtA.ofBits (op ++ (f.rd ++ f.ra ++ f.rb ++ f.fn)) = f := by
  obtain ⟨rd, ra, rb, fn⟩ := f
  rw [FmtA.ofBits, FmtA.mk.injEq]
  refine ⟨?_, ?_, ?_, ?_⟩ <;>
  · apply eq_of_bits
    intro i hi
    simp [bit]
    grind

theorem FmtI.ofBits_append (op : BitVec 8) (f : FmtI) : FmtI.ofBits (op ++ (f.rd ++ f.ra ++ f.imm)) = f := by
  obtain ⟨rd, ra, imm⟩ := f
  rw [FmtI.ofBits, FmtI.mk.injEq]
  refine ⟨?_, ?_, ?_⟩ <;>
  · apply eq_of_bits
    intro i hi
    simp [bit]
    grind

theorem FmtM.ofBits_append (op : BitVec 8) (f : FmtM) : FmtM.ofBits (op ++ (f.rt ++ f.rb ++ f.pr ++ f.disp)) = f := by
  obtain ⟨rt, rb, pr, disp⟩ := f
  rw [FmtM.ofBits, FmtM.mk.injEq]
  refine ⟨?_, ?_, ?_, ?_⟩ <;>
  · apply eq_of_bits
    intro i hi
    simp [bit]
    grind

theorem FmtB.ofBits_append (op : BitVec 8) (f : FmtB) : FmtB.ofBits (op ++ (f.cond ++ f.disp)) = f := by
  obtain ⟨cond, disp⟩ := f
  rw [FmtB.ofBits, FmtB.mk.injEq]
  refine ⟨?_, ?_⟩ <;>
  · apply eq_of_bits
    intro i hi
    simp [bit]
    grind

theorem bit_append {a b : Nat} (x : BitVec a) (y : BitVec b) (i : Nat) : bit (x ++ y) i = if i < b then bit y i else bit x (i - b) :=
  BitVec.getLsbD_append

/-- Which field of an S-format word a bit stands in. -/
theorem FmtS.bit_toWord (op : BitVec 8) (f : FmtS) (j : Nat) : bit (f.toWord op) j =
    if j < 15 then bit f.d2 j else if j < 19 then bit f.p2 (j - 15) else if j < 24 then bit f.b2 (j - 19) else if j < 39 then bit f.d1 (j - 24)
    else if j < 43 then bit f.p1 (j - 39) else if j < 48 then bit f.b1 (j - 43) else if j < 49 then bit f.res (j - 48)
    else if j < 52 then bit f.rnd (j - 49) else if j < 58 then bit f.l2 (j - 52) else if j < 64 then bit f.l1 (j - 58) else bit op (j - 64) := by
  refine (bit_append _ f.d2 j).trans ?_
  simp only [bit_append, Nat.sub_sub]
  refine ite_congr rfl (fun _ => rfl) fun _ => ite_congr (propext (by omega)) (fun _ => rfl) fun _ =>
    ite_congr (propext (by omega)) (fun _ => rfl) fun _ =>
    ite_congr (propext (by omega)) (fun _ => rfl) fun _ =>
    ite_congr (propext (by omega)) (fun _ => rfl) fun _ =>
    ite_congr (propext (by omega)) (fun _ => rfl) fun _ =>
    ite_congr (propext (by omega)) (fun _ => rfl) fun _ =>
    ite_congr (propext (by omega)) (fun _ => rfl) fun _ =>
    ite_congr (propext (by omega)) (fun _ => rfl) fun _ =>
    ite_congr (propext (by omega)) (fun _ => rfl) fun _ => rfl

theorem FmtS.ofBits_toWord (op : BitVec 8) (f : FmtS) : FmtS.ofBits (f.toWord op) = f ∧ bits (f.toWord op) 64 8 = op := by
  have hword := FmtS.bit_toWord op f
  generalize f.toWord op = w at hword
  obtain ⟨l1, l2, rnd, res, b1, p1, d1, b2, p2, d2⟩ := f
  rw [FmtS.ofBits, FmtS.mk.injEq]
  refine ⟨⟨?_, ?_, ?_, ?_, ?_, ?_, ?_, ?_, ?_, ?_⟩, ?_⟩ <;>
  · apply eq_of_bits
    intro i hi
    refine (bit_bits w _ _ i).trans ?_
    rw [hword]
    grind

/-! ## What a word spells -/

section
variable {n : CoreId} {op : BitVec 8} {i : Instr}

theorem decodeIns_slotWord (low : BitVec 28) (y : BitVec 36) :
    decodeIns n (bits (slotWord op low) 36 36 ++ y : BitVec 72) = decodeOp n op (op ++ low) (bits (slotWord op low) 36 36 ++ y : BitVec 72) := by
  rw [bits_slotWord]
  exact decodeIns_eq n (bits_op op low y) (bits_instr _ y)

theorem FmtA.decodeIns_toWord (f : FmtA) (h : (op, i) ∈ opsA n f) (y : BitVec 36) : decodeIns n (bits (f.toWord op) 36 36 ++ y : BitVec 72) = i := by
  rw [← FmtA.ofBits_append op f] at h
  exact (decodeIns_slotWord _ y).trans (decodeOp_opsA n _ _ _ h)

theorem FmtI.decodeIns_toWord (f : FmtI) (h : (op, i) ∈ opsI n f) (y : BitVec 36) : decodeIns n (bits (f.toWord op) 36 36 ++ y : BitVec 72) = i := by
  rw [← FmtI.ofBits_append op f] at h
  exact (decodeIns_slotWord _ y).trans (decodeOp_opsI n _ _ _ h)

theorem FmtM.decodeIns_toWord (f : FmtM) (h : (op, i) ∈ opsM n f) (y : BitVec 36) : decodeIns n (bits (f.toWord op) 36 36 ++ y : BitVec 72) = i := by
  rw [← FmtM.ofBits_append op f] at h
  exact (decodeIns_slotWord _ y).trans (decodeOp_opsM n _ _ _ h)

theorem FmtB.decodeIns_toWord (f : FmtB) (h : (op, i) ∈ opsB n f) (y : BitVec 36) : decodeIns n (bits (f.toWord op) 36 36 ++ y : BitVec 72) = i := by
  rw [← FmtB.ofBits_append op f] at h
  exact (decodeIns_slotWord _ y).trans (decodeOp_opsB n _ _ _ h)

theorem FmtS.decodeIns_toWord (f : FmtS) (h : (op, i) ∈ opsS n f) : decodeIns n (f.toWord op) = i := by
  obtain ⟨hfields, hop⟩ := FmtS.ofBits_toWord op f
  rw [← hfields] at h
  exact (decodeIns_eq n hop rfl).trans (decodeOp_opsS n _ _ _ h)

theorem decodeIns_uop (k : Fin 16) (f : FmtA) (y : BitVec 36) :
    decodeIns n (bits (f.toWord (0xE0 + BitVec.ofNat 8 k.val)) 36 36 ++ y : BitVec 72) = .uop n k f := by
  refine (decodeIns_slotWord _ y).trans ?_
  rw [decodeOp_uop, FmtA.ofBits_append]

theorem decodeIns_unassigned {w : Word} (h : ¬opAssigned n (bits w 64 8)) : ∃ f, decodeIns n w = .ill n f :=
  ⟨_, (decodeIns_eq n rfl rfl).trans (decodeOp_unassigned n _ _ h)⟩

theorem instrAt_append (pc : DAddr) (x y : BitVec 36) :
    instrAt pc (x ++ y : BitVec 72) = if daPos pc = 0 then (x ++ y : BitVec 72) else (y ++ (0 : BitVec 36) : BitVec 72) := by
  have hshift : (x ++ y : BitVec 72) <<< 36 = (y ++ (0 : BitVec 36) : BitVec 72) := by
    apply eq_of_bits
    intro j hj
    rw [bit_shiftLeft]
    simp [bit]
    grind
  rw [instrAt, hshift]

end

end Sys2Proof.Machine
end

section
/-! The fetch and the outstanding POSTs (R59, R150). -/

namespace Sys2Proof.Machine

/-! ## What a fetch does to the list of outstanding POSTs -/

/-- The outstanding POSTs and COMMITs of core n. -/
def postsOf (n : CoreId) (s : State) : List OutPost := s.cores[n].posts

variable {n : CoreId}

theorem postsOf_congr {s t : State} (h : t.cores = s.cores) : postsOf n t = postsOf n s := by rw [postsOf, h, postsOf]

theorem postsOf_updCore (s : State) {f : Core → Core} (h : ∀ c, (f c).posts = c.posts) : postsOf n (s.updCore n f) = postsOf n s :=
  (congrArg Core.posts (State.updCore_core s n f)).trans (h _)

/-- Work that leaves a core beside its translation stores leaves its POSTs. -/
theorem Leaves.posts_of_besideXlate {α : Type} {m : M α} (h : Leaves (besideXlateOf n) m) : Leaves (postsOf n) m :=
  fun s => by
    have hposts := congrArg Core.posts (h s)
    exact hposts

/-- A change to the core after work elsewhere. -/
theorem leaves_updCore_posts {g : State → State} {f : Core → Core} (hg : ∀ s, (g s).cores = s.cores) (hf : ∀ c, (f c).posts = c.posts) :
    Leaves (postsOf n) (upd fun s => (g s).updCore n f) :=
  Leaves.upd fun s => (postsOf_updCore (g s) hf).trans (postsOf_congr (hg s))

theorem State.touchLine_posts (s : State) (pa : WAddr) : postsOf n (s.touchLine n pa) = postsOf n s := by
  unfold postsOf
  rw [(State.touchLine_lines s n pa).core]

theorem State.sendFrame_cores (s : State) (l : Fin 2) (kind : BitVec 4) (pos : BitVec 16) (words : List Word) :
    (s.sendFrame l kind pos words).cores = s.cores := by
  unfold State.sendFrame
  split <;> rfl

theorem State.pumpQueue_cores (s : State) (k : Nat) : (s.pumpQueue k).cores = s.cores := by
  induction k generalizing s with
  | zero => rfl
  | succ k ih =>
    unfold State.pumpQueue
    split
    · split
      · exact (ih _).trans (State.sendFrame_cores _ _ _ _ _)
      · rfl
    · rfl

theorem State.startHeal_cores (s : State) (off : BitVec 24) : (s.startHeal off).cores = s.cores := by
  unfold State.startHeal
  split
  · rfl
  · unfold State.sendFirst
    split
    · rfl
    · exact State.pumpQueue_cores _ _

theorem badWord_leaves_posts {α : Type} (r : WordRef) : Leaves (postsOf n) (badWord n r : M α) := by
  have hheal : Leaves (postsOf n) (upd fun s => (s.startHeal (BitVec.ofNat 24 (offsetOf r.pa))).updCore n fun c =>
      { c with wait := some r.pa, late := c.det }) :=
    leaves_updCore_posts (fun s => State.startHeal_cores s _) fun _ => rfl
  unfold badWord
  refine Leaves.bind Leaves.get fun s => ?_
  split
  · exact Leaves.raise _
  · exact Leaves.bind (raiseBad_besideXlate _).posts_of_besideXlate fun _ =>
      Leaves.ite (Leaves.bind hheal fun _ => Leaves.throw _) (Leaves.raise _)

theorem loadRemote_leaves_posts (r : WordRef) : Leaves (postsOf n) (loadRemote n r) := by
  have hundeliv : Leaves (postsOf n) (upd fun s => ({ s with lb := { s.lb with undeliv := inc s.lb.undeliv } } : State).setLbEvt 11) :=
    Leaves.upd fun s => postsOf_congr (State.raise_cores _ _)
  have hsend (b : Bool) : Leaves (postsOf n) (upd fun s =>
      (if b then s.sendLoad (lineOf r.pa) 8 (.coreLoad n r.pa) else s.sendLoad r.pa 1 (.coreLoad n r.pa)).updCore n fun c =>
        { c with wait := some r.pa }) :=
    leaves_updCore_posts (fun s => by cases b <;> exact State.request_cores s _ _) fun _ => rfl
  refine Leaves.bind Leaves.get fun s => ?_
  dsimp only
  split
  · exact Leaves.ite (Leaves.pure _) (Leaves.raise _)
  · split
    · exact Leaves.pure _
    · split
      · exact Leaves.raise _
      · exact Leaves.bind hundeliv fun _ => Leaves.raise _
      · exact Leaves.bind (hsend _) fun _ => Leaves.throw _

theorem fetchData_leaves_posts (r : WordRef) : Leaves (postsOf n) (fetchData n r) := by
  have htouch : Leaves (postsOf n) (upd fun s => s.touchLine n r.pa) := Leaves.upd fun s => State.touchLine_posts s r.pa
  have hread : Leaves (postsOf n) (do
      let s ← get
      if (s.cell r.pa).bad then badWord n r else return s.data r.pa : M Word) :=
    Leaves.bind Leaves.get fun s => Leaves.ite (badWord_leaves_posts r) (Leaves.pure _)
  exact Leaves.ite (Leaves.ite (Leaves.bind htouch fun _ => hread) hread) (loadRemote_leaves_posts r)

theorem fetchEnt_leaves {γ : Type} {π : State → γ} (p15 : PassReg) (pc : DAddr) (t : TlbEnt) : Leaves π (fetchEnt n p15 pc t) :=
  Leaves.bind (checkEnt_leaves _ _ _ _ _ _ _) fun _ => Leaves.bind (checkRegion_leaves _ _ _ _) fun _ => Leaves.pure _

theorem fetchPass_leaves {γ : Type} {π : State → γ} (p15 : PassReg) (pc : DAddr) : Leaves π (fetchPass p15 pc) :=
  passTests_leaves _ _ _ _ _ _

theorem fetchRef_leaves_posts (p15 : PassReg) (pc : DAddr) : Leaves (postsOf n) (fetchRef n p15 pc) :=
  Leaves.bind (fetchPass_leaves p15 pc) fun _ => Leaves.bind (xlate_besideXlate _ _ _ _ _).posts_of_besideXlate fun t => fetchEnt_leaves p15 pc t

theorem State.requestLine_posts (s : State) (p15 : PassReg) (pc : DAddr) : postsOf n (s.requestLine n p15 pc) = postsOf n s := by
  unfold State.requestLine
  cases href : fetchRef n p15 pc s with
  | error e t => rfl
  | ok r t =>
    dsimp only
    split
    · exact (State.touchLine_posts t r.pa).trans ((fetchRef_leaves_posts p15 pc).of_ok href)
    · rfl

theorem State.runAhead_posts (s : State) (p15 : PassReg) (k : Nat) (pc : DAddr) : postsOf n (s.runAhead n p15 k pc) = postsOf n s := by
  induction k generalizing s pc with
  | zero => rfl
  | succ k ih => exact (ih _ _).trans (State.requestLine_posts s p15 pc)

theorem fetchAt_leaves_posts (p15 : PassReg) (pc : DAddr) : Leaves (postsOf n) (fetchAt n p15 pc) := by
  have hmod {f : Core → Core} (h : ∀ c, (f c).posts = c.posts) : Leaves (postsOf n) (modCore n f) := leaves_updCore_posts (fun _ => rfl) h
  have hahead : Leaves (postsOf n) (upd fun s => s.runAhead n p15 8 (s.cores[n].pathAfter pc)) :=
    Leaves.upd fun s => State.runAhead_posts s p15 8 _
  have hcharge (pa : WAddr) : Leaves (postsOf n) (chargeAccess n pa) := (chargeAccess_besideXlate n pa).posts_of_besideXlate
  refine Leaves.bind (fetchPass_leaves p15 pc) fun _ => Leaves.bind Leaves.get fun s => ?_
  dsimp only
  split
  · exact Leaves.bind (fetchEnt_leaves p15 pc _) fun _ => Leaves.pure _
  · refine Leaves.bind (fetchRef_leaves_posts p15 pc) fun r => ?_
    with_reducible repeat' (first
      | exact Leaves.pure _ | exact Leaves.get | exact hcharge _ | exact hmod fun _ => rfl | exact hahead | exact fetchData_leaves_posts r
      | apply Leaves.bind | intro _ | dsimp only | split)

theorem fetchDecode_leaves_posts (sh : Shape) : Leaves (postsOf n) (fetchDecode n sh) := by
  refine Leaves.bind (Leaves.getCore n) fun c => Leaves.bind (fetchAt_leaves_posts _ _) fun _ => Leaves.bind (Leaves.require _ _) fun _ =>
    Leaves.bind (Leaves.require _ _) fun _ => Leaves.bind (Leaves.require _ _) fun _ => ?_
  split
  · exact Leaves.ite (Leaves.bind (leaves_updCore_posts (g := id) (fun _ => rfl) fun _ => rfl) fun _ => Leaves.raise _) (Leaves.pure _)
  · exact Leaves.pure _

/-- The fetch leaves the outstanding POSTs of its core. -/
theorem State.core_posts (s : State) (n : CoreId) (sh : Shape) : (s.core n sh).posts = s.cores[n].posts := fetchDecode_leaves_posts sh s

end Sys2Proof.Machine
end

section
/-! UOPn with a routine of one ALU word (R75, R371-R373, R383). -/

namespace Sys2Proof.Machine

/-! ## Free values -/

/-- Drawing free values moves their counter alone. -/
theorem mapL_draw {α : Type} (l : List α) (s : State) : ∃ ws k, mapL (fun _ => draw) l s = .ok ws { s with free := k } := by
  induction l generalizing s with
  | nil => exact ⟨[], s.free, rfl⟩
  | cons x r ih =>
    obtain ⟨ws, k, hrest⟩ := ih { s with free := s.free + 1 }
    refine ⟨Config.freeWord s.free :: ws, k, ?_⟩
    exact (work_bind_ok (work_draw s)).trans (work_bind_ok hrest)

/-! ## A routine of one word -/

/-- A micro-word that gives one ALU operation on G[ra] and G[rb] to G[rd], copies the four micro-flags to ST and ends the routine. -/
def OneAlu (m : Micro) : Prop :=
  openOk m = true ∧ uSeq m = 3 ∧ uMem m = 0 ∧ uUnit m = 0 ∧ uA m = 0x32 ∧ uB m = 0x33 ∧ uD m = 0x31 ∧ bits m 44 4 = 0xF

/-- A routine with a word's steps counted (R380, R384). -/
def Routine.counted (r : Routine) (m : Micro) : Routine := { r with steps := r.steps + microSteps m, masked := maskedAfter r.masked m }

/-- The routine after such a word, whose operation gave `v` and the micro-flags `fl`. -/
def Routine.afterAlu (r : Routine) (f : FmtA) (m : Micro) (v : Word) (fl : BitVec 4) : Routine :=
  ({ (r.counted m).setG f.rd v with flags := fl } : Routine).copyFl m

theorem MicroWord.of_ok (m : Micro) : (MicroWord.of m).ok = true := beq_self_eq_true _

variable {n : CoreId} {f : FmtA} {m : Micro} {t : State} {r : Routine}

theorem Routine.setG_stack (r : Routine) (i : BitVec 5) (v : Word) : (r.setG i v).stack = r.stack := by
  unfold Routine.setG
  split <;> rfl

theorem Routine.afterAlu_stores (r : Routine) (v : Word) (fl : BitVec 4) : (r.afterAlu f m v fl).stores = r.stores := by
  show ((r.counted m).setG f.rd v).stores = r.stores
  unfold Routine.setG
  split <;> rfl

/-- A return with nothing to return to ends the routine (R373). -/
theorem microNext_done {det trap own : Bool} {a : Word} (hseq : uSeq m = 3) (hstack : r.stack = []) :
    microNext r f det trap own m a = pure (.done r) := by
  unfold microNext
  simp only [hseq, hstack]

/-- The first word of routine j, as its image holds it. -/
theorem microFetch_routine {j : Nat} (hj : j < 16)
    (h : (t.cores[n].ocs.find? fun e => e.1 == 128 * j) = some (128 * j, MicroWord.of m)) :
    microFetch n (0x4800 + 128 * j) t = .ok (.word m false) t := by
  unfold microFetch
  rw [work_bind_ok (work_getCore n t), if_neg (by omega), if_neg (by omega), if_pos (by omega), Nat.add_sub_cancel_left]
  unfold storeFetch
  rw [← Fin.getElem_fin, h]
  dsimp only
  rw [MicroWord.of_ok]
  rfl

theorem nameReg_ra : nameReg f 0x32 = some f.ra := rfl
theorem nameReg_rb : nameReg f 0x33 = some f.rb := rfl
theorem nameReg_rd : nameReg f 0x31 = some f.rd := rfl

/-- A core that is free to start UOP has no outstanding POST that writes a register of the word. -/
theorem namesPost_of_ready {c d : Core} (h : c.ready (FmtA.regs f) = true) (hposts : d.posts = c.posts)
    (ha : uA m = 0x32) (hb : uB m = 0x33) (hd : uD m = 0x31) : namesPost d f m = false := by
  have hfree : (c.posts.any fun p => p.rt != 0 && (FmtA.regs f).contains p.rt.toNat) = false := by
    unfold Core.ready at h
    simp only [Bool.and_eq_true, Bool.not_eq_true'] at h
    exact h.2
  have hnot (i : BitVec 5) (hi : (FmtA.regs f).contains i.toNat = true) : (d.posts.any fun p => p.rt != 0 && p.rt == i) = false := by
    rw [hposts, List.any_eq_false]
    intro p hp hnames
    rw [Bool.and_eq_true, beq_iff_eq] at hnames
    obtain ⟨hrt, rfl⟩ := hnames
    exact List.any_eq_false.1 hfree p hp (Bool.and_eq_true _ _ ▸ ⟨hrt, hi⟩)
  unfold namesPost
  rw [ha, hb, hd]
  simp only [List.any_cons, List.any_nil, nameReg_ra, nameReg_rb, nameReg_rd, Option.any_some]
  rw [hnot f.ra (by simp [FmtA.regs]), hnot f.rb (by simp [FmtA.regs]), hnot f.rd (by simp [FmtA.regs])]
  rfl

/-- Routines begin with no masked step, so one word masks at most one. -/
theorem maskedAfter_zero (m : Micro) : maskedAfter 0 m ≤ 64 := by
  have := Bool.toNat_le (bit m 122)
  unfold maskedAfter
  split <;> omega

/-- The micro-step of such a word ends the routine. -/
theorem microStep_oneAlu (pc : DAddr) {v : Word} {fl : BitVec 4} (hm : OneAlu m) (hfetch : microFetch n r.upc t = .ok (.word m false) t)
    (hmask : r.masked = 0) (hstack : r.stack = []) (hposts : namesPost t.cores[n] f m = false)
    (halu : aluOp (uAlu m) (r.gr f.ra) (r.gr f.rb) r.flags = pure (some v, fl)) :
    microStep n f pc r t = .ok (.done (r.afterAlu f m v fl)) { t with free := t.free + 1 } := by
  obtain ⟨hopen, hseq, hmem, hunit, ha, hb, hd, -⟩ := hm
  have hcode : uAlu m < 0x10 := by
    unfold openOk at hopen
    simp only [Bool.and_eq_true, decide_eq_true_eq] at hopen
    omega
  unfold microStep
  rw [work_bind_ok hfetch]
  dsimp only
  rw [if_neg (by simp [hopen, hmask, maskedAfter_zero]), work_bind_ok (work_getCore n t), ← Fin.getElem_fin, hposts, if_neg Bool.false_ne_true]
  have hop : microOp (r.counted m) f m ((r.counted m).source f pc m (uA m)) ((r.counted m).source f pc m (uB m)) = pure (some v, fl) := by
    unfold microOp
    rw [if_neg (by simp [hunit, hcode]), if_pos hunit, ha, hb]
    exact halu
  unfold Routine.counted at hop
  rw [hop, pure_bind]
  simp only [hmem, pure_bind, hd]
  rw [work_bind_ok (work_draw t)]
  refine (work_bind_ok (work_look _ _)).trans ?_
  exact congrFun (microNext_done (r := r.afterAlu f m v fl) hseq ((Routine.setG_stack _ _ _).trans hstack)) _

/-- A routine ends with the word that ends it. -/
theorem microRun_done {pc : DAddr} {k : Nat} {r' : Routine} {u : State} (h : microStep n f pc r t = .ok (.done r') u) :
    microRun n f pc (k + 1) r t = .ok (.done r') u :=
  work_bind_ok h

/-- A routine that holds a core's registers holds them after both write one. -/
theorem Routine.setG_g {c : Core} (hg : r.g = c.g) (i : BitVec 5) (v : Word) : (r.setG i v).g = (c.setG i v).g := by
  unfold Routine.setG Core.setG
  split
  · exact hg
  · exact congrArg (fun g : Vector Word 32 => g.set i.toNat v i.isLt) hg

/-- FL with all four bits set copies every micro-flag. -/
theorem Routine.copyFl_all (hfl : bits m 44 4 = 0xF) :
    r.copyFl m = { r with stN := some (bit r.flags 3), stZ := some (bit r.flags 2), stV := some (bit r.flags 1), stC := some (bit r.flags 0) } := by
  have hbit (i : Nat) (hi : i < 4) : bit m (44 + i) = bit (0xF : BitVec 4) i := by
    rw [← hfl, bit_bits, decide_eq_true hi, Bool.true_and]
  unfold Routine.copyFl
  rw [hbit 0 (by omega), hbit 1 (by omega), hbit 2 (by omega), hbit 3 (by omega)]
  rfl

/-- The registers and flags that such a word leaves in its core. -/
theorem Core.finish_afterAlu {c : Core} {v : Word} {nf z o cy : Bool} (hg : r.g = c.g) (hfl : bits m 44 4 = 0xF) :
    c.finish (r.afterAlu f m v (mkFlags nf z o cy)) = (c.setG f.rd v).setNZVC nf z o cy := by
  have hregs := Routine.setG_g (r := r.counted m) hg f.rd v
  have hflags : bit (mkFlags nf z o cy) 3 = nf ∧ bit (mkFlags nf z o cy) 2 = z ∧ bit (mkFlags nf z o cy) 1 = o ∧ bit (mkFlags nf z o cy) 0 = cy := by
    cases nf <;> cases z <;> cases o <;> cases cy <;> decide
  obtain ⟨h3, h2, h1, h0⟩ := hflags
  unfold Routine.afterAlu
  rw [Routine.copyFl_all hfl, Core.finish]
  simp only [hregs, h3, h2, h1, h0, Option.getD_some]
  unfold Core.setNZVC Core.setG
  split <;> rfl

/-- UOPj with such a routine: its core takes the result, and the counter of free values moves. -/
theorem uopBody_oneAlu {j : Fin 16} {v : Word} {nf z o cy : Bool} (hm : OneAlu m) (hvalid : bit t.cores[n].ocsv j.val = true)
    (hword : (t.cores[n].ocs.find? fun e => e.1 == 128 * j.val) = some (128 * j.val, MicroWord.of m))
    (hposts : namesPost t.cores[n] f m = false)
    (halu : aluOp (uAlu m) (t.cores[n].gr f.ra) (t.cores[n].gr f.rb) 0 = pure (some v, mkFlags nf z o cy)) :
    ∃ k steps, uopBody n j f t =
      .ok .seq (({ t with free := k } : State).updCore n fun c => ((c.setG f.rd v).setNZVC nf z o cy).charge steps) := by
  obtain ⟨-, -, -, -, -, -, -, hfl⟩ := id hm
  obtain ⟨ws, k, hdraw⟩ := mapL_draw (List.range 16) t
  let mdr := Config.freeWord k
  let at_ := Config.freeWord (k + 1)
  let r0 : Routine :=
    { upc := 0x4800 + 128 * j.val, stack := [], flags := 0, t := Vector.ofFn fun i => ws.getD i.val 0, mdr := mdr, mdrAt := bits at_ 0 57,
      g := t.cores[n].g, stores := [], issued := 0, steps := 0, masked := 0, stN := none, stZ := none, stV := none, stC := none }
  have hrun : microRun n f t.cores[n].pc 256 r0 { t with free := k + 1 + 1 } =
      .ok (.done (r0.afterAlu f m v (mkFlags nf z o cy))) { t with free := k + 1 + 1 + 1 } :=
    microRun_done (microStep_oneAlu (t := { t with free := k + 1 + 1 }) _ hm (microFetch_routine j.isLt hword) rfl rfl hposts halu)
  refine ⟨k + 1 + 1 + 1, (r0.afterAlu f m v (mkFlags nf z o cy)).steps, ?_⟩
  unfold uopBody
  rw [work_bind_ok (work_get t), work_bind_ok (work_getCore n t), ← Fin.getElem_fin, work_bind_ok (by rw [work_require, if_pos hvalid]),
    work_bind_ok hdraw, work_bind_ok (work_draw _), work_bind_ok (work_draw _), work_bind_ok hrun]
  dsimp only
  rw [Routine.afterAlu_stores, work_bind_ok (work_eachL_nil _ _), work_bind_ok (work_eachL_nil _ _), work_bind_ok (work_modCore _ _ _)]
  refine congrArg (EStateM.Result.ok Next.seq) (State.updCore_congr ?_)
  exact congrArg (Core.charge _) (Core.finish_afterAlu rfl hfl)

/-- An instruction whose body changes its core alone, and moves the counter of free values: it leaves every line where it was. -/
theorem runIns_free {s t : State} {sh : Shape} {body : M Next} {g : Core → Core} {k : Nat} (h : s.runs n sh = true)
    (hbody : body (s.fetched n sh) = .ok .seq (({ t with free := k } : State).updCore n g)) :
    ∃ a v k', s.runIns n sh body =
      { t with free := k', cores := t.cores.set n (((g t.cores[n]).retire sh .seq).settledAt a v) } := by
  rw [State.runs, Bool.and_eq_true, Bool.not_eq_true'] at h
  rw [runIns_next h.1 hbody h.2, State.updCore_updCore]
  obtain ⟨a, v, k', e⟩ := State.settleCharge_spec (({ t with free := k } : State).updCore n fun c => (g c).retire sh .seq) n
  rw [e, State.updCore_updCore]
  exact ⟨a, v, k', rfl⟩

/-- UOPj with such a routine, from the fetch on. -/
theorem exec_uop_oneAlu {s : State} {j : Fin 16} {v : Word} {nf z o cy : Bool} (hm : OneAlu m) (hruns : s.runs n (shapeUop f) = true)
    (hvalid : bit (s.core n (shapeUop f)).ocsv j.val = true)
    (hword : ((s.core n (shapeUop f)).ocs.find? fun e => e.1 == 128 * j.val) = some (128 * j.val, MicroWord.of m))
    (halu : aluOp (uAlu m) ((s.core n (shapeUop f)).gr f.ra) ((s.core n (shapeUop f)).gr f.rb) 0 = pure (some v, mkFlags nf z o cy)) :
    ∃ u, exec (.uop n j f) s = .next u ∧
      u = { s.fetched n (shapeUop f) with free := u.free, cores := (s.fetched n (shapeUop f)).cores.set n u.cores[n] } ∧
      ((s.core n (shapeUop f)).det = false → (s.core n (shapeUop f)).Computed u.cores[n] f.rd v nf z o cy) := by
  have hready : s.cores[n].ready (FmtA.regs f) = true := by
    unfold State.runs State.starts at hruns
    simp only [Bool.and_eq_true] at hruns
    exact hruns.1.1.1
  obtain ⟨-, -, -, -, ha, hb, hd, -⟩ := id hm
  have hposts := namesPost_of_ready hready (State.core_posts s n (shapeUop f)) ha hb hd
  obtain ⟨k, steps, hbody⟩ := uopBody_oneAlu (t := s.fetched n (shapeUop f)) hm hvalid hword hposts halu
  obtain ⟨a, x, k', hrun⟩ := runIns_free hruns hbody
  refine ⟨_, congrArg Host.Outcome.next hrun, ?_, fun hdet => ?_⟩
  · simp
  · have hoff (c : Core) (hc : c.det = false) : ((c.setG f.rd v).setNZVC nf z o cy).charge steps = (c.setG f.rd v).setNZVC nf z o cy :=
      Core.charge_off (by rw [Core.det, Core.setNZVC_low _ _ _ _ _ (by omega), Core.setG_st]; exact hc) steps
    have hcore := (Core.computed_of (s.core n (shapeUop f)) (shapeUop f) f.rd v nf z o cy rfl).settledAt a x
    rw [← hoff _ hdet] at hcore
    rw [Fin.getElem_fin, Vector.getElem_set_self]
    exact hcore

/-- UOPj whose routine is not valid takes F01 (R75). -/
theorem exec_uop_invalid {s : State} {j : Fin 16} (hruns : s.runs n (shapeUop f) = true)
    (hvalid : bit (s.core n (shapeUop f)).ocsv j.val = false) : Faults (.uop n j f) s n (shapeUop f) { cls := clsIllegal, code := 1 } := by
  unfold State.runs at hruns
  rw [Bool.and_eq_true] at hruns
  refine congrArg Host.Outcome.next (runIns_fault hruns.1 ?_)
  unfold uopBody
  rw [work_bind_ok (work_get _), work_bind_ok (work_getCore n _), work_bind, work_require, if_neg ?_]
  · rfl
  · rw [State.fetched_core, hvalid]
    exact Bool.false_ne_true

/-- A sum of the ALU (R372), with the flags of R65. -/
theorem aluOp_add (a b : Word) : aluOp 3 a b 0 = pure (some (a + b),
    mkFlags (a + b).msb (a + b == 0) ((a + b).toInt != a.toInt + b.toInt) (decide (2 ^ 72 ≤ a.toNat + b.toNat))) := by
  have hv : BitVec.ofNat 72 (a.toNat + b.toNat + false.toNat) = a + b := by simp [BitVec.ofNat_add]
  have hi : a + b = BitVec.ofInt 72 (a.toInt + b.toInt + false.toNat) := by simp [BitVec.ofInt_add]
  have ho := outside_eq_toInt_ne hi
  simp only [aluOp, addCarry, resFlags, hv, ho, bit_top]
  simp

theorem aluOp_and (a b : Word) : aluOp 5 a b 0 = pure (some (a &&& b), mkFlags (a &&& b).msb (a &&& b == 0) false false) := by
  rw [← bit_top]
  rfl

theorem aluOp_xor (a b : Word) : aluOp 7 a b 0 = pure (some (a ^^^ b), mkFlags (a ^^^ b).msb (a ^^^ b == 0) false false) := by
  rw [← bit_top]
  rfl

end Sys2Proof.Machine
end

section
/-! What acts on a core from around it (R272, R307, R309, R322, R324, R329, R336, R337, R379-R381). -/

namespace Sys2Proof.Machine

section
variable {n : CoreId} {s : State}

/-! ## The state that a machine check finds -/

section
variable {cause : BitVec 8} {x : BitVec 16}

/-- The state in which a machine check stands, written out: only a parity error, cause 1 or 2, draws a value and changes the core. -/
theorem State.checkNoted_eq : s.checkNoted n cause x =
    { (if cause = 1 ∨ cause = 2 then s.draw.2 else s) with
      cores := s.cores.set n (if cause = 1 ∨ cause = 2 then s.cores[n].parityError (bit s.draw.1 0) x else s.cores[n]) } := by
  unfold State.checkNoted
  by_cases h : cause = 1 ∨ cause = 2
  · rw [if_pos h, if_pos h, if_pos h]
    rfl
  · rw [if_neg h, if_neg h, if_neg h]
    exact (State.updCore_self (s := s) (n := n) (f := id) rfl).symm

/-- A machine check with RETRY enters the fault handler, save cause 5; any other escalates (R324, R381). -/
theorem machineCheck_of_noted {s1 s2 : State} (h1 : s.checkNoted n cause x = s1) (h2 : s1.unwaiting n = s2) (hrun : s.cores[n].run = 2)
    (hposts : s.cores[n].posts = []) (hlevel : bit s.cores[n].active 17 = false) (retry : Bool) :
    (retry = true → cause ≠ 5 → exec (.machineCheck n cause retry x) s =
      .next ((s2.instrWord n).2.enterCheck n cause (s2.instrWord n).1 s1)) ∧
    (retry = false ∨ cause = 5 → exec (.machineCheck n cause retry x) s =
      .next (((s2.instrWord n).2.drainAll n).escalate n 8 { cls := 0, detail := at' clsMachine 47 ||| at' cause 39 } s.cores[n].pc (s2.instrWord n).1)) := by
  have hexec := exec_machineCheck_taken (cause := cause) (x := x) hrun hposts hlevel retry
  subst h1 h2
  refine ⟨fun hr hc => hexec.trans ?_, fun h => hexec.trans ?_⟩
  · exact congrArg Host.Outcome.next (if_pos (by rw [hr, bne_iff_ne.2 hc]; rfl))
  · refine congrArg Host.Outcome.next (if_neg ?_)
    rcases h with h | h <;> rw [h] <;> simp

theorem State.unwaiting_eq {s1 : State} {d : Core} (h : s1.cores[n] = d) :
    s1.unwaiting n = { s1 with cores := s1.cores.set n { d with wait := none } } := by
  subst h
  rfl

end

/-! ## Clauses of several commands -/

/-- What the oldest store does as it leaves the buffer (R337). -/
theorem exec_storeDrain_spec {e : SbEnt} {r : List SbEnt} (h : s.cores[n].storeBuf = e :: r) (hinv : s.Inv) :
    ∃ u, exec (.storeDrain n) s = .next u ∧ u.cores[n].storeBuf = r ∧ u.cores[n].g = s.cores[n].g ∧ u.cores[n].pc = s.cores[n].pc ∧
      (e.pass = none → isLocalMem e.pa = true → (s.cell e.pa).bad = false → (u.cell e.pa).data = merge e.mask e.data (s.cell e.pa).data ∧
        OnlyCore n { s.popped n r with mem := u.mem } u ∧
        u.cores[n] = { s.cores[n] with storeBuf := r, l1 := u.cores[n].l1, l1miss := u.cores[n].l1miss } ∧
        ∀ a, a ≠ e.pa → (u.cell a).data = (s.cell a).data) ∧
      (e.pass = none → regionOf e.pa = .window →
        u.mem = s.mem ∧ u.cores[n] = { s.cores[n] with storeBuf := r, windows := noteAperture e.pa s.cores[n].windows }) ∧
      ∀ w1 v, e.pass = some (w1, v) → e.pa.toNat % 2 = 0 → u.getPass e.pa = { w0 := e.data, w1 := w1, valid := v } := by
  obtain ⟨hbuf, hg, hpc⟩ := State.performStore_popped (n := n) (s := s) (e := e) (r := r)
  exact ⟨_, exec_storeDrain h, hbuf, hg, hpc, State.performStore_local hinv, State.performStore_window,
    fun _ _ hpass _ => State.performStore_pass hinv hpass⟩

/-- A line that arrives for a core that lacks it, alone and as a micro-trap (R329, R336). -/
theorem exec_lineFill_new {line : WAddr} (hdet : s.cores[n].det = false) (haligned : line.toNat % 8 = 0) (hlocal : isLocalMem line = true)
    (hnew : line ∉ s.cores[n].l1) :
    ∃ u, exec (.lineFill n line) s = .next u ∧ line ∈ u.cores[n].l1 ∧ line ∈ u.quads[quadOf n].l2 ∧ OnlyCore n s u ∧ u.free = s.free ∧
      u.cores[n] = { s.cores[n] with l1 := u.cores[n].l1, l1miss := s.cores[n].l1miss + 1 } ∧
      (s.cores[n].run = 2 → exec (.microTrap n (.fill line)) s =
        .next (u.updCore n fun c => { c with mtrapCnt := c.mtrapCnt + 1 })) := by
  have hline := lineOf_of_aligned haligned
  rw [← hline] at hnew
  obtain ⟨hl1, hl2, honly, hfree, hcore⟩ := State.touchLine_new_facts hdet hnew
  rw [hline] at hl1 hl2
  exact ⟨_, exec_lineFill hlocal, hl1, hl2, honly, hfree, hcore, fun hrun => microTrap_fill hrun hdet hlocal hnew⟩

theorem exec_lineFill_held {line : WAddr} (haligned : line.toNat % 8 = 0) (hlocal : isLocalMem line = true) (hheld : line ∈ s.cores[n].l1) :
    exec (.lineFill n line) s = .next s := by
  rw [exec_lineFill hlocal, State.touchLine_held (Or.inr ((lineOf_of_aligned haligned).symm ▸ hheld))]

/-- A routine that goes beyond its limit meets the machine check of cause 5, which escalates (R380). -/
theorem exec_microStepLimit (hrun : s.cores[n].run = 2) (hposts : s.cores[n].posts = []) (hlevel : bit s.cores[n].active 17 = false) :
    ∃ (u v : State) (w : Word), exec (.microStepLimit n) s = .next u ∧ exec (.machineCheck n 5 false 0) s = .next u ∧
      u = v.escalate n 8 { cls := 0, detail := at' clsMachine 47 ||| at' (5 : BitVec 8) 39 } s.cores[n].pc w := by
  have hcheck := (machineCheck_of_noted (cause := 5) (x := 0) rfl rfl hrun hposts hlevel false).2 (Or.inl rfl)
  exact ⟨_, _, _, (microStepLimit_eq hrun hposts).trans hcheck, hcheck, rfl⟩

end

/-- Settles O43: each command around a core is the operation of its rule; a machine check is the one of the state that notes it, and a routine of
one word runs one micro-step. -/
theorem surroundingsOfACore : Obligations.SurroundingsOfACore := by
  unfold Obligations.SurroundingsOfACore
  intro s n k c put
  refine ⟨fun h => State.raise_of_powered h k, fun h => congrArg Host.Outcome.next (if_pos h), fun h => congrArg Host.Outcome.next (if_neg (by omega)),
    fun w => ?raiseWord, ⟨fun h => timerExpiry_due h, fun h => timerExpiry_early h⟩, fun j hon htime => timerExpiry_due ⟨hon, htime⟩,
    ⟨exec_storeDrain_empty, fun e r h hinv => exec_storeDrain_spec h hinv⟩, fun cause pa h h' => exec_lateStoreError h h', ?check,
    exec_microStepLimit, fun hrun hdet va acc t u h => ⟨exec_tableWalk hrun hdet h, microTrap_walk hrun hdet h, microTrap_walk_held hrun⟩,
    fun hdet line haligned hlocal => ⟨exec_lineFill_held haligned hlocal, exec_lineFill_new hdet haligned hlocal⟩,
    fun line h => lineFill_unused h, fun hrun src h => microTrap_evt hrun h, fun f h => exec_ill h, ?decode, fun j f m => ?routine,
    fun j f => exec_uop_invalid⟩
  case raiseWord => exact srcRaise_controlStore.imp fun _ hv => hv.trans (State.srcRaise_eq _ k.val w)
  case check =>
    intro cause retry x hrun hposts hlevel parity c' s1 s2 w t taken
    exact machineCheck_of_noted State.checkNoted_eq (State.unwaiting_eq (Vector.getElem_set_self ..)) hrun hposts hlevel retry
  case decode =>
    exact ⟨fun f _ h => FmtA.decodeIns_toWord f h, fun f _ h => FmtI.decodeIns_toWord f h, fun f _ h => FmtM.decodeIns_toWord f h,
      fun f _ h => FmtB.decodeIns_toWord f h, fun f _ h => FmtS.decodeIns_toWord f h, fun f k => decodeIns_uop k f,
      fun _ h => decodeIns_unassigned h, instrAt_append⟩
  case routine =>
    intro sh b hruns hvalid hword hopen hseq hmem hunit ha hb hd hfl ends
    have hm : OneAlu m := ⟨hopen, hseq, hmem, hunit, ha, hb, hd, hfl⟩
    have hends {v : Word} {o cy : Bool} (halu : aluOp (uAlu m) (b.gr f.ra) (b.gr f.rb) 0 = pure (some v, mkFlags v.msb (v == 0) o cy)) : ends v o cy :=
      exec_uop_oneAlu hm hruns hvalid hword halu
    exact ⟨fun h => hends (h ▸ aluOp_add _ _), fun h => hends (h ▸ aluOp_and _ _), fun h => hends (h ▸ aluOp_xor _ _)⟩

end Sys2Proof.Machine
end

section
/-! A unit of a long instruction (R112-R115, R118): what a start that succeeds and a unit of work leave in the core. -/

namespace Sys2Proof.Machine

/-! ## What a unit may change of its core -/

/-- Of the core nothing but general registers, ST, the store buffer and the bookkeeping differs. -/
def Core.UnitOnly (c d : Core) : Prop := d = { c.bookkept d with g := d.g, st := d.st, storeBuf := d.storeBuf }

namespace Core.UnitOnly

theorem trans {c d e : Core} (h : c.UnitOnly d) (k : d.UnitOnly e) : c.UnitOnly e :=
  Eq.trans k (congrArg (fun x : Core => { x.bookkept e with g := e.g, st := e.st, storeBuf := e.storeBuf }) h)

theorem of_bookkept {c d : Core} (h : d = c.bookkept d) : c.UnitOnly d :=
  Eq.trans h (by rw [h]; rfl)

theorem setG (c : Core) (i : BitVec 5) (v : Word) : c.UnitOnly (c.setG i v) := by
  unfold Core.setG
  split <;> rfl

theorem charge (c : Core) (k : Nat) : c.UnitOnly (c.charge k) := by
  unfold Core.charge
  split <;> rfl

theorem setProg (c : Core) (p : Prog) (w : Word) (keep : Bool) : c.UnitOnly (c.setProg p w keep) := by
  have hstart : c.UnitOnly (((c.setG 2 w).setG 3 p.g3).setG 4 (daReg p.a1)) := ((setG _ _ _).trans (setG _ _ _)).trans (setG _ _ _)
  cases keep with
  | false => exact hstart.trans <| (setG _ 5 _).trans <| (setG _ 6 _).trans (setG _ 7 _)
  | true => exact hstart.trans <| (setG _ 6 _).trans (setG _ 7 _)

theorem setHold (c : Core) (h : Option LongHold) : c.UnitOnly { c with hold := h } := rfl

end Core.UnitOnly

/-! ## The progress in G2-G7 (R113) -/

section
variable (c : Core) (p : Prog) (w : Word) (keep : Bool)

theorem Core.setProg_gr (i : BitVec 5) : (c.setProg p w keep).gr i =
    if i = 7 then BitVec.ofNat 72 p.n2 else if i = 6 then BitVec.ofNat 72 p.n1 else if i = 5 ∧ keep = false then daReg p.a2
    else if i = 4 then daReg p.a1 else if i = 3 then p.g3 else if i = 2 then w else c.gr i := by
  have hset (d : Core) (j : BitVec 5) (v : Word) (hj : j ≠ 0) : (d.setG j v).gr i = if i = j then v else d.gr i := by
    split
    · next h => rw [h, Core.setG_gr_same, if_neg hj]
    · next h => exact Core.setG_gr_other d v h
  unfold Core.setProg
  cases keep with
  | false => simp (disch := decide) only [hset, Bool.false_eq_true, if_false, and_true]
  | true => simp (disch := decide) only [hset, if_true, Bool.true_eq_false, and_false, if_false]

theorem Core.setProg_st : (c.setProg p w keep).st = c.st := by cases keep <;> simp [Core.setProg]
theorem Core.setProg_pc : (c.setProg p w keep).pc = c.pc := by cases keep <;> simp [Core.setProg]
theorem Core.setProg_retired : (c.setProg p w keep).retired = c.retired := by cases keep <;> simp [Core.setProg]
theorem Core.setProg_storeBuf : (c.setProg p w keep).storeBuf = c.storeBuf := by cases keep <;> simp [Core.setProg]

end

/-- The flags that the end of a long instruction sets, N, Z, V and C, if any. -/
def FlagsAre : Option (Bool × Bool × Bool × Bool) → Core → Core → Prop
  | none => Core.SameSt
  | some (a, b, v, cy) => fun c d => c.Flags d a b v cy

/-- A core whose registers hold the progress, and which ended or stays as its kind of end says. -/
theorem Core.progressed_of_setProg {c d : Core} {op : BitVec 8} {fin keep : Bool} {res w : Word} {q : Prog} {P : Core → Core → Prop}
    (hg : ∀ i, d.gr i = (c.setProg q w keep).gr i) (hw : w = if fin then res else at' op 64 ||| q.par.setWidth 72)
    (hend : if fin then c.WentOn d 2 ∧ P c d else d.pc = c.pc ∧ d.retired = c.retired ∧ d.st = c.st) (honly : c.UnitOnly d) :
    c.Progressed d op fin keep res q P := by
  have hgr (i : BitVec 5) := (hg i).trans (Core.setProg_gr c q w keep i)
  refine ⟨(hgr 2).trans hw, hgr 3, hgr 4, ?_, hgr 6, hgr 7, fun i hi => ?_, hend, honly⟩
  · rw [hgr 5]
    cases keep <;> rfl
  · have hne (j : BitVec 5) (hj : 2 ≤ j.toNat ∧ j.toNat ≤ 7) : i ≠ j := by
      rintro rfl
      rcases hi with rfl | rfl | hi
      · exact absurd hj (by decide)
      · exact absurd hj (by decide)
      · omega
    rw [hgr i, if_neg (hne 7 (by decide)), if_neg (hne 6 (by decide)), if_neg fun h => hne 5 (by decide) h.1, if_neg (hne 4 (by decide)),
      if_neg (hne 3 (by decide)), if_neg (hne 2 (by decide))]

/-! ## The end of a unit -/

/-- The core as the end of a unit leaves it, before it retires; `m` steps are charged beside the unit's own (R136). -/
def Core.endUnit (c : Core) (k : LongKind) (m : Nat) : UnitEnd → Core
  | .more steps q h =>
    ({ c.setProg q (at' k.opcode 64 ||| q.par.setWidth 72) (k.second == 0) with hold := some h } : Core).charge (m + steps)
  | .done steps q r none => (c.setProg q r (k.second == 0)).charge (m + steps)
  | .done steps q r (some (a, b, v, cy)) => ((c.setProg q r (k.second == 0)).charge (m + steps)).setNZVC a b v cy

/-- Where the PC goes after a unit (R115). -/
def UnitEnd.next : UnitEnd → Next
  | .more .. => .stay
  | .done .. => .seq

/-- The progress that a unit of a kind leaves, between the core before and after. -/
def UnitEnd.Leaves (e : UnitEnd) (k : LongKind) (c d : Core) : Prop :=
  match e with
  | .more _ q _ => ∀ res P, c.Progressed d k.opcode false (k.second == 0) res q P
  | .done _ q r fl => c.Progressed d k.opcode true (k.second == 0) r q (FlagsAre fl)

theorem Core.endUnit_unitOnly (c : Core) (k : LongKind) (m : Nat) (e : UnitEnd) : c.UnitOnly (c.endUnit k m e) := by
  match e with
  | .more steps q h => exact ((UnitOnly.setProg c q _ _).trans (UnitOnly.setHold _ _)).trans (UnitOnly.charge _ _)
  | .done steps q r none => exact (UnitOnly.setProg c q r _).trans (UnitOnly.charge _ _)
  | .done steps q r (some (a, b, v, cy)) => exact ((UnitOnly.setProg c q r _).trans (UnitOnly.charge _ _)).trans rfl

theorem Core.endUnit_storeBuf (c : Core) (k : LongKind) (m : Nat) (e : UnitEnd) : (c.endUnit k m e).storeBuf = c.storeBuf := by
  match e with
  | .more steps q h => exact (Core.charge_storeBuf _ _).trans (Core.setProg_storeBuf ..)
  | .done steps q r none => exact (Core.charge_storeBuf _ _).trans (Core.setProg_storeBuf ..)
  | .done steps q r (some (a, b, v, cy)) => exact (Core.charge_storeBuf _ _).trans (Core.setProg_storeBuf ..)

theorem Core.retire_storeBuf (c : Core) (sh : Shape) (nx : Next) : (c.retire sh nx).storeBuf = c.storeBuf := by
  cases nx <;> simp [Core.retire]

variable {n : CoreId} {k : LongKind} {e : UnitEnd}

/-- The core that a unit has left, retired and its charges settled, holds the unit's progress. -/
theorem UnitEnd.leaves_retired (e : UnitEnd) (k : LongKind) (m : Nat) (c : Core) {sh : Shape} (hslots : sh.slots = 2) (a : BitVec 64)
    (x : BitVec 32) : e.Leaves k c (((c.endUnit k m e).retire sh e.next).settledAt a x) := by
  obtain ⟨d, hd⟩ : ∃ d, d = ((c.endUnit k m e).retire sh e.next).settledAt a x := ⟨_, rfl⟩
  rw [← hd]
  have honly : c.UnitOnly d :=
    (Core.endUnit_unitOnly c k m e).trans (Core.UnitOnly.of_bookkept (Core.eq_bookkept_of_retire hd))
  obtain ⟨hg, hst, -, -⟩ := Core.retire_keeps (c.endUnit k m e) sh e.next
  have hgr (i : BitVec 5) : d.gr i = (c.endUnit k m e).gr i := by rw [hd]; exact Core.gr_congr hg i
  have hst : d.st = (c.endUnit k m e).st := by rw [hd]; exact hst
  match e with
  | .more steps q h =>
    intro res P
    refine Core.progressed_of_setProg (w := at' k.opcode 64 ||| q.par.setWidth 72) (fun i => ?_) rfl ⟨?_, ?_, ?_⟩ honly
    · exact (hgr i).trans (Core.gr_congr (Core.charge_g _ _) i)
    · rw [hd]
      exact (Core.charge_pc _ _).trans (Core.setProg_pc ..)
    · rw [hd]
      exact (Core.charge_retired _ _).trans (Core.setProg_retired ..)
    · exact hst.trans ((Core.charge_st _ _).trans (Core.setProg_st ..))
  | .done steps q r fl =>
    have hreg (i : BitVec 5) : (c.endUnit k m (.done steps q r fl)).gr i = (c.setProg q r (k.second == 0)).gr i := by
      rcases fl with _ | ⟨_, _, _, _⟩ <;> exact Core.gr_congr (Core.charge_g _ _) i
    have hpc : (c.endUnit k m (.done steps q r fl)).pc = c.pc := by
      rcases fl with _ | ⟨_, _, _, _⟩ <;> exact (Core.charge_pc _ _).trans (Core.setProg_pc ..)
    have hret : (c.endUnit k m (.done steps q r fl)).retired = c.retired := by
      rcases fl with _ | ⟨_, _, _, _⟩ <;> exact (Core.charge_retired _ _).trans (Core.setProg_retired ..)
    refine Core.progressed_of_setProg (w := r) (fun i => (hgr i).trans (hreg i)) rfl ⟨⟨?_, ?_⟩, ?_⟩ honly
    · rw [hd]
      exact (Core.retire_seq_pc _ sh).trans (by rw [hpc, hslots])
    · rw [hd]
      exact (Core.retire_seq_retired _ sh).trans (by rw [hret])
    · match fl with
      | none => exact hst.trans ((Core.charge_st _ _).trans (Core.setProg_st ..))
      | some (fn, fz, fv, fc) =>
        have hbit (j : Nat) : bit d.st j = bit (((c.setProg q r (k.second == 0)).charge (m + steps)).setNZVC fn fz fv fc).st j :=
          congrArg (bit · j) hst
        have hlow : ((c.setProg q r (k.second == 0)).charge (m + steps)).st = c.st :=
          (Core.charge_st _ _).trans (Core.setProg_st ..)
        exact ⟨(hbit 71).trans (Core.setNZVC_flagN ..), (hbit 70).trans (Core.setNZVC_flagZ ..), (hbit 69).trans (Core.setNZVC_flagV ..),
          (hbit 68).trans (Core.setNZVC_flagC ..), fun j hj => by rw [hbit, Core.setNZVC_low _ _ _ _ _ hj, hlow]⟩

/-- What a unit stores bears on no other part of the progress. -/
theorem UnitEnd.Leaves.of_buffering {c d : Core} {l : List (WordRef × Word)} (h : e.Leaves k (c.buffering l) d) : e.Leaves k c d := by
  match e, h with
  | .more _ _ _, h => exact h
  | .done _ _ _ none, h => exact h
  | .done _ _ _ (some (_, _, _, _)), h => exact h

/-- A unit that ends the instruction exactly when `b` holds. -/
theorem UnitEnd.leaves_ite {a b : Prop} [Decidable a] [Decidable b] {c d : Core} {steps : Nat} {q : Prog} {r : Word}
    {fl : Option (Bool × Bool × Bool × Bool)} {hold : LongHold} (hab : a ↔ b)
    (h : (if a then UnitEnd.done steps q r fl else .more steps q hold).Leaves k c d) :
    c.Progressed d k.opcode (decide b) (k.second == 0) r q (FlagsAre fl) := by
  rw [← decide_eq_decide.2 hab]
  by_cases ha : a
  · rw [if_pos ha] at h
    rw [decide_eq_true ha]
    exact h
  · rw [if_neg ha] at h
    rw [decide_eq_false ha]
    exact h r _

/-- A unit that ends the instruction, with G3 cleared, exactly when `b` holds. -/
theorem UnitEnd.leaves_cleared {a b : Prop} [Decidable a] [Decidable b] {c d : Core} {steps : Nat} {q : Prog} {r : Word}
    {fl : Option (Bool × Bool × Bool × Bool)} {hold : LongHold} (hab : a ↔ b)
    (h : (if a then UnitEnd.done steps { q with g3 := 0 } r fl else .more steps q hold).Leaves k c d) :
    c.Progressed d k.opcode (decide b) (k.second == 0) r { q with g3 := if b then 0 else q.g3 } (FlagsAre fl) := by
  have hends := leaves_ite (q := { q with g3 := if b then 0 else q.g3 }) (steps := steps) (r := r) (fl := fl) (hold := hold) (k := k)
    (c := c) (d := d) hab
  by_cases ha : a
  · rw [if_pos ha] at h hends
    rw [if_pos (hab.1 ha)] at hends ⊢
    exact hends h
  · rw [if_neg ha] at h hends
    rw [if_neg (mt hab.2 ha)] at hends ⊢
    exact hends h

/-! ## A long instruction that runs one unit (R112, R114, R115) -/

variable {f : FmtS} {unit : Option LongHold → Prog → M UnitEnd} {s t0 : State} {p : Prog} {h : Option LongHold}

/-- A long instruction whose start succeeds runs its unit from there and leaves what the unit's end says. -/
theorem longBody_ok (hop : k.opcode ≠ 0) (hstart : LongStarts s n f k p h t0) {v : State} (hunit : unit h p t0 = .ok e v) :
    longBody n f k unit (s.fetched n (shapeLong f)) =
      .ok e.next (v.updCore n fun c => c.endUnit k (if h.isSome then 0 else k.first) e) := by
  obtain ⟨hheld, -, hfields, -, -, hbegin⟩ := hstart
  obtain ⟨w, hw⟩ : ∃ w, w = s.fetched n (shapeLong f) := ⟨_, rfl⟩
  have hcore : s.core n (shapeLong f) = w.cores[n.val] := by rw [hw]; rfl
  rw [hcore] at hheld hbegin
  rw [← hw] at hbegin ⊢
  have htag : (bits (w.cores[n.val].gr 2) 64 8 == 0 || bits (w.cores[n.val].gr 2) 64 8 == k.opcode) = true := by
    rcases hbegin with ⟨h0, -⟩ | ⟨h1, -⟩ <;> simp_all
  have hheld : (if (bits (w.cores[n.val].gr 2) 64 8 == 0) = true then none else w.cores[n.val].hold) = h := by
    rw [hheld]
    exact if_congr beq_iff_eq rfl rfl
  unfold longBody
  rw [work_bind_ok (work_require_ok hfields _ w), work_bind_ok (work_gr n 2 w), work_bind_ok (work_getCore n w)]
  dsimp only
  rw [work_bind_ok (work_require_ok htag _ w)]
  rcases hbegin with ⟨h0, hfresh⟩ | ⟨h1, hresume⟩
  · rw [if_pos (beq_iff_eq.2 h0), work_bind_ok hfresh, hheld, work_bind_ok hunit]
    rcases e with _ | ⟨_, _, _, _ | ⟨_, _, _, _⟩⟩ <;> rfl
  · rw [if_neg (by rw [beq_iff_eq, h1]; exact hop), work_bind_ok hresume, hheld, work_bind_ok hunit]
    rcases e with _ | ⟨_, _, _, _ | ⟨_, _, _, _⟩⟩ <;> rfl

/-- A long instruction whose start succeeds and whose unit stores words `l`, or none: nothing but its core differs from the state that the
unit's accesses leave, and the core holds the progress. -/
theorem long_unit {i : Instr} (hexec : exec i s = .next (s.runIns n (shapeLong f) (longBody n f k unit))) (hop : k.opcode ≠ 0)
    (hstart : LongStarts s n f k p h t0) {t : State} {l : List (WordRef × Word)}
    (hunit : unit h p t0 = .ok e (t.updCore n fun c => c.buffering l)) :
    ∃ u, exec i s = .next u ∧ OnlyCore n t u ∧ u.cores[n].storeBuf = (t.cores[n].buffering l).storeBuf ∧ e.Leaves k t.cores[n] u.cores[n] := by
  have hbody := longBody_ok hop hstart hunit
  obtain ⟨-, hruns, -⟩ := hstart
  rw [State.runs, Bool.and_eq_true, Bool.not_eq_true'] at hruns
  have hover : overruns (s.core n (shapeLong f)) (shapeLong f) e.next = false := by
    cases e with
    | more => rfl
    | done => exact hruns.2
  obtain ⟨honly, a, x, hcore⟩ := runIns_retires hruns.1 hover hbody
  rw [State.updCore_updCore] at honly hcore
  rw [Fin.getElem_fin (t.updCore n _).cores, State.updCore_core] at hcore
  refine ⟨_, hexec, (onlyCore_updCore t n _).trans honly, ?_, ?_⟩
  · rw [hcore]
    exact (Core.retire_storeBuf _ _ _).trans (Core.endUnit_storeBuf _ _ _ _)
  · rw [hcore]
    exact (UnitEnd.leaves_retired e k _ _ rfl a x).of_buffering

/-- A unit that stores to operand 1. -/
theorem long_unit_stores {i : Instr} (hexec : exec i s = .next (s.runIns n (shapeLong f) (longBody n f k unit))) (hop : k.opcode ≠ 0)
    (hstart : LongStarts s n f k p h t0) {t : State} {rs : List WordRef} {l : List (BitVec 4)} (hstore : t.storable n rs)
    (hunit : unit h p t0 = .ok e (t.updCore n fun c => c.buffering (storedWords rs l))) :
    ∃ u, exec i s = .next u ∧ OnlyCore n t u ∧ StoredTo n t u rs (scatterPos rs l) ∧ e.Leaves k t.cores[n] u.cores[n] := by
  obtain ⟨u, hu, honly, hbuf, hleaves⟩ := long_unit hexec hop hstart hunit
  exact ⟨u, hu, honly, storedTo_of_buffering hstore l honly.mem hbuf, hleaves⟩

/-- A unit that stores nothing. -/
theorem long_unit_reads {i : Instr} (hexec : exec i s = .next (s.runIns n (shapeLong f) (longBody n f k unit))) (hop : k.opcode ≠ 0)
    (hstart : LongStarts s n f k p h t0) {t : State} (hunit : unit h p t0 = .ok e t) :
    ∃ u, exec i s = .next u ∧ OnlyCore n t u ∧ (∀ a, u.drainedCell n a = t.drainedCell n a) ∧ e.Leaves k t.cores[n] u.cores[n] := by
  have hnone : t.updCore n (fun c => c.buffering []) = t := State.updCore_self (by simp [Core.buffering])
  obtain ⟨u, hu, honly, hbuf, hleaves⟩ := long_unit (l := []) hexec hop hstart (hunit.trans (congrArg _ hnone.symm))
  exact ⟨u, hu, honly, fun a => State.cell_congr (State.drainAll_mem_append honly.mem hbuf) a, hleaves⟩

end Sys2Proof.Machine
end

section
/-! Positions and octets in order (R10, R11, R121, R123): the octets and the pad of a run of positions, and where a test first picks one. -/

namespace Sys2Proof.Machine

/-! ## Octets and pads -/

theorem bits_append_low (a b : BitVec 4) : bits (a ++ b) 0 4 = b := BitVec.extractLsb'_append_eq_right
theorem bits_append_high (a b : BitVec 4) : bits (a ++ b) 4 4 = a := BitVec.extractLsb'_append_eq_left

/-- The octets of a run of positions that begins with two. -/
theorem octetsAt_cons (a b : BitVec 4) (r : List (BitVec 4)) : octetsAt (a :: b :: r) = (a ++ b) :: octetsAt r := by
  have hlen : (a :: b :: r).length / 2 = r.length / 2 + 1 := by
    rw [List.length_cons, List.length_cons]
    omega
  unfold octetsAt
  rw [hlen, List.range_succ_eq_map, List.map_cons, List.map_map]
  rfl

theorem octetsAt_of_short {l : List (BitVec 4)} (h : ∀ a b r, l = a :: b :: r → False) : octetsAt l = [] := by
  match l, h with
  | [], _ => rfl
  | [_], _ => simp [octetsAt]
  | a :: b :: r, h => exact absurd rfl (h a b r)

theorem octetsOfPos_eq (l : List (BitVec 4)) : octetsOfPos l = octetsAt l := by
  induction l using octetsOfPos.induct with
  | case1 a b r ih => rw [octetsOfPos, ih, octetsAt_cons]
  | case2 l hl =>
    rw [octetsAt_of_short hl]
    exact octetsOfPos.eq_2 l hl

@[simp] theorem length_octetsAt (l : List (BitVec 4)) : (octetsAt l).length = l.length / 2 := by simp [octetsAt]

theorem getElem_octetsAt (l : List (BitVec 4)) {j : Nat} (h : j < (octetsAt l).length) :
    (octetsAt l)[j] = l.getD (2 * j) 0 ++ l.getD (2 * j + 1) 0 := by
  simp [octetsAt]

theorem zonedDigits_eq (l : List (BitVec 4)) : zonedDigits l = (octetsAt l).map fun o => bits o 0 4 := by
  induction l using zonedDigits.induct with
  | case1 a b r ih =>
    rw [zonedDigits, ih, octetsAt_cons, List.map_cons, bits_append_low]
  | case2 l hl =>
    rw [octetsAt_of_short hl]
    exact zonedDigits.eq_2 l hl

theorem padRun_eq (pad : BitVec 8) (da : DAddr) (k : Nat) : padRun pad da k = padAt pad da k := by
  unfold padRun padAt padNibble
  simp only [daPos_daAdd]

@[simp] theorem length_padAt (pad : BitVec 8) (da : DAddr) (k : Nat) : (padAt pad da k).length = k := by simp [padAt]

/-! ## The first that a test picks -/

/-- The first element that a test picks stands at `i`, or none does and `i` is the length. -/
theorem findIdx_eq {α : Type} {p : α → Bool} {l : List α} {i : Nat} (k : Nat) (hi : i ≤ l.length)
    (hbefore : ∀ (j : Nat) (hj : j < l.length), j < i → p l[j] = false) (hat : ∀ h : i < l.length, p l[i] = true) :
    findIdx p l k = if i < l.length then some (k + i) else none := by
  induction l generalizing i k with
  | nil => rfl
  | cons x r ih =>
    cases i with
    | zero =>
      have hx : p x = true := hat (by simp)
      simp [findIdx, hx]
    | succ i =>
      have hx : p x = false := hbefore 0 (by simp) (by omega)
      have hrest := ih (k + 1) (Nat.le_of_succ_le_succ hi) (fun j hj hlt => hbefore (j + 1) (by simpa using hj) (by omega))
        (fun h => hat (by simpa using h))
      simp [findIdx, hx, hrest, Nat.add_assoc, Nat.add_comm 1]

/-- The first invalid nibble of a packed field stands at `i`, or the field is valid and `i` is its length. -/
theorem firstBad_eq {l : List (BitVec 4)} {i : Nat} (k : Nat) (hi : i ≤ l.length)
    (hbefore : ∀ (j : Nat) (hj : j < l.length), j < i → (if j + 1 = l.length then isSign l[j] else isDigit l[j]) = true)
    (hat : ∀ h : i < l.length, (if i + 1 = l.length then isSign l[i] else isDigit l[i]) = false) :
    firstBad l k = if i < l.length then some (k + i) else none := by
  induction l generalizing i k with
  | nil => rfl
  | cons x r ih =>
    cases r with
    | nil =>
      cases i with
      | zero =>
        have hx : isSign x = false := by simpa using hat (by simp)
        simp [firstBad, hx]
      | succ i =>
        have hx : isSign x = true := by simpa using hbefore 0 (by simp) (by omega)
        simp [firstBad, hx]
    | cons y r =>
      cases i with
      | zero =>
        have hx : isDigit x = false := (if_neg (by simp)).symm.trans (hat (by simp))
        simp [firstBad, hx]
      | succ i =>
        have hx : isDigit x = true := (if_neg (by simp)).symm.trans (hbefore 0 (by simp) (by omega))
        have hrest := ih (k + 1) (Nat.le_of_succ_le_succ hi)
          (fun j hj hlt => (if_congr Nat.succ_inj.symm rfl rfl).trans (hbefore (j + 1) (Nat.succ_lt_succ hj) (by omega)))
          (fun h => (if_congr Nat.succ_inj.symm rfl rfl).trans (hat (Nat.succ_lt_succ h)))
        rw [firstBad, if_pos hx, hrest]
        · simp [Nat.add_assoc, Nat.add_comm 1]
        · simp

/-- Two lists of one length differ first at some index, or are equal. -/
theorem firstDiff_cases {a b : List (BitVec 4)} (hlen : a.length = b.length) (k : Nat) :
    (∃ d, d < a.length ∧ firstDiff a b k = some (k + d) ∧ (∀ i : Nat, i < d → a[i]? = b[i]?) ∧ a.getD d 0 ≠ b.getD d 0) ∨
      (firstDiff a b k = none ∧ a = b) := by
  induction a generalizing b k with
  | nil => exact Or.inr ⟨rfl, (List.length_eq_zero_iff.1 hlen.symm).symm⟩
  | cons x a ih =>
    cases b with
    | nil => exact absurd hlen (by simp)
    | cons y b =>
      by_cases hxy : x = y
      · rcases ih (by simpa using hlen) (k + 1) with ⟨d, hd, hfirst, hbefore, hne⟩ | ⟨hnone, hab⟩
        · refine Or.inl ⟨d + 1, by simpa using hd, ?_, fun i hi => ?_, by simpa using hne⟩
          · rw [firstDiff, if_pos hxy, hfirst]
            congr 1
            omega
          · cases i with
            | zero => simp [hxy]
            | succ i => simpa using hbefore i (by omega)
        · exact Or.inr ⟨by rw [firstDiff, if_pos hxy, hnone], by rw [hxy, hab]⟩
      · exact Or.inl ⟨0, by simp, by simp [firstDiff, hxy], fun i hi => absurd hi (by omega), by simpa using hxy⟩

end Sys2Proof.Machine
end

section
/-! The units of MVS, CLS, TRX and TSC (R115, R121-R125). -/

namespace Sys2Proof.Machine

variable {n : CoreId} {f : FmtS} {h : Option LongHold} {p : Prog} {t0 t1 t : State} {rs : List WordRef}

/-! ## MVS (R121, R122) -/

/-- The progress that a unit of MVS leaves that fills `m` positions, `k` of them from operand 2. -/
def mvsNext (p : Prog) (m k : Nat) : Prog :=
  if bit p.par 8 then { p with n1 := p.n1 - m, n2 := min p.n2 (p.n1 - m) }
  else { p with a1 := daAdd p.a1 m, a2 := daAdd p.a2 k, n1 := p.n1 - m, n2 := p.n2 - k }

theorem mvsNext_n1 (p : Prog) (m k : Nat) : (mvsNext p m k).n1 = p.n1 - m := by
  unfold mvsNext
  split <;> rfl

theorem mvsUnit_ok {m i k : Nat} {ws : List ((WAddr × Word) × List (BitVec 4))}
    (hm : m = if bit p.par 8 then lastChunk p else firstChunk p) (hi : i = if bit p.par 8 then p.n1 - m else 0) (hk : k = min (p.n2 - i) m)
    (hwords : unitWords n f.p2 (h.bind (·.word)) (daAdd p.a2 i) k t0 = .ok ws t1)
    (hrefs : unitRefs n 1 f.p1 .store (daAdd p.a1 i) m t1 = .ok rs t) (hstore : t.storable n rs) :
    ∃ hold, mvsUnit n f h p t0 = .ok (if (mvsNext p m k).n1 = 0 then .done 1 (mvsNext p m k) 0 none else .more 1 (mvsNext p m k) hold)
      (t.updCore n fun c => c.buffering (storedWords rs (ws.flatMap (·.2) ++
        padAt (bits p.par 0 8) (daAdd (daAdd p.a1 i) k) (m - k)))) := by
  refine ⟨holdWord (((if bit p.par 8 then ws.head? else ws.getLast?).map (·.1)).or (h.bind (·.word))), ?_⟩
  unfold mvsUnit
  dsimp only
  rw [← hm, ← hi, ← hk, work_bind_ok hwords, work_bind_ok hrefs, padRun_eq, work_bind_ok (storeField_buffering hstore _)]
  rfl

/-! ## CLS (R123) -/

/-- The progress of CLS past `d` positions of a unit that reads `k1` of operand 1 and `k2` of operand 2. -/
def clsNext (p : Prog) (k1 k2 d : Nat) : Prog :=
  { p with
    a1 := daAdd p.a1 (min d k1), a2 := daAdd p.a2 (min d k2), n1 := p.n1 - min d k1, n2 := p.n2 - min d k2, g3 := p.g3 + BitVec.ofNat 72 d }

/-- How a unit of CLS of `m` positions ends, which are `a` and `b` with their pads. -/
def clsEnd (p : Prog) (m k1 k2 : Nat) (a b : List (BitVec 4)) (hold : LongHold) : UnitEnd :=
  match firstDiff a b 0 with
  | some d =>
    let less := decide ((a.getD d 0).toNat < (b.getD d 0).toNat)
    .done 1 (clsNext p k1 k2 d) 0 (some (less, false, false, !less))
  | none =>
    if (clsNext p k1 k2 m).n1 = 0 ∧ (clsNext p k1 k2 m).n2 = 0 then .done 1 (clsNext p k1 k2 m) 0 (some (false, true, false, true))
    else .more 1 (clsNext p k1 k2 m) hold

theorem clsUnit_ok {m k1 k2 : Nat} {x : List (BitVec 4)} {ws : List ((WAddr × Word) × List (BitVec 4))}
    (hm : m = if p.n1 = 0 then min p.n2 (18 - daPos p.a2) else firstChunk p) (h1 : k1 = min p.n1 m) (h2 : k2 = min p.n2 m)
    (hnone : k1 = 0 → x = [] ∧ t1 = t0)
    (hsome : k1 ≠ 0 → ∃ v, unitRefs n 1 f.p1 .load p.a1 k1 t0 = .ok rs v ∧ loadField n rs v = .ok x t1)
    (hwords : unitWords n f.p2 (h.bind (·.word)) p.a2 k2 t1 = .ok ws t) :
    ∃ hold, clsUnit n f h p t0 = .ok (clsEnd p m k1 k2 (x ++ padAt (bits p.par 0 8) (daAdd p.a2 k1) (m - k1))
      (ws.flatMap (·.2) ++ padAt (bits p.par 0 8) (daAdd p.a1 k2) (m - k2)) hold) t := by
  rw [← padRun_eq, ← padRun_eq]
  refine ⟨holdWord (ws.getLast?.map (·.1)), ?_⟩
  unfold clsUnit clsEnd
  dsimp only
  rw [← hm, ← h1, ← h2]
  obtain ⟨a, ha⟩ : ∃ a, a = x ++ padRun (bits p.par 0 8) (daAdd p.a2 k1) (m - k1) := ⟨_, rfl⟩
  obtain ⟨b, hb⟩ : ∃ b, b = ws.flatMap (·.2) ++ padRun (bits p.par 0 8) (daAdd p.a1 k2) (m - k2) := ⟨_, rfl⟩
  rw [← ha, ← hb]
  by_cases h0 : k1 = 0
  · obtain ⟨hx, ht⟩ := hnone h0
    rw [if_pos h0, work_bind_ok (work_pure _ _), ← ht, work_bind_ok hwords, ← hx, ← ha, ← hb]
    cases firstDiff a b 0 <;> rfl
  · obtain ⟨v, hrefs, hload⟩ := hsome h0
    rw [if_neg h0, work_bind_ok hrefs, work_bind_ok hload, work_bind_ok hwords, ← ha, ← hb]
    cases firstDiff a b 0 <;> rfl

/-! ## TRX (R111, R124) -/

/-- The progress past the part of operand 1 in its first word. -/
def chunkNext (p : Prog) : Prog := { p with a1 := daAdd p.a1 (firstChunk p), n1 := p.n1 - firstChunk p }

theorem firstChunk_le (p : Prog) : firstChunk p ≤ p.n1 := Nat.min_le_left _ _

theorem chunkNext_done (p : Prog) : (chunkNext p).n1 = 0 ↔ p.n1 = firstChunk p := by
  have := firstChunk_le p
  unfold chunkNext
  dsimp only
  omega

theorem trxUnit_ok {v : State} {l : List (BitVec 4)} {es : List (BitVec 8)}
    (hrefs : unitRefs n 1 f.p1 .update p.a1 (firstChunk p) t0 = .ok rs v) (hload : loadField n rs v = .ok l t1)
    (hlook : mapL (lookup n f p.a2) (octetsAt l) t1 = .ok es t) (hstore : t.storable n rs) :
    ∃ steps hold, trxUnit n f h p t0 = .ok (if (chunkNext p).n1 = 0 then .done steps (chunkNext p) 0 none else .more steps (chunkNext p) hold)
      (t.updCore n fun c => c.buffering (storedWords rs (es.flatMap fun o => [bits o 4 4, bits o 0 4]))) := by
  rw [← octetsOfPos_eq] at hlook
  unfold trxUnit
  refine ⟨1 + firstChunk p / 2, holdWord none, 
    (work_bind_ok hrefs).trans <| (work_bind_ok hload).trans <| (work_bind_ok hlook).trans <| work_bind_ok (storeField_buffering hstore _)⟩

/-! ## TSC (R111, R125) -/

/-- Work on a list that does not stop does its first element and then the rest. -/
theorem mapL_cons_ok {α β : Type} {g : α → M β} {x : α} {r : List α} {l : List β} {s u : State} (h : mapL g (x :: r) s = .ok l u) :
    ∃ y v l', g x s = .ok y v ∧ mapL g r v = .ok l' u ∧ l = y :: l' := by
  obtain ⟨y, v, hy, h⟩ := ok_of_bind h
  obtain ⟨l', w, hr, h⟩ := ok_of_bind h
  cases h
  exact ⟨y, v, l', hy, hr, rfl⟩

/-- A scan whose entries up to the first that is not zero, or all of them, are given. -/
theorem scanTable_ok {table : DAddr} {os es : List (BitVec 8)} {i : Nat} (k : Nat) {s : State} (hi : i ≤ os.length)
    (hlook : mapL (lookup n f table) (os.take (min (i + 1) os.length)) s = .ok es t) (hzero : ∀ j : Nat, j < i → es.getD j 0 = 0)
    (hat : i < os.length → es.getD i 0 ≠ 0) :
    scanTable n f table os k s = .ok (if i < os.length then some (k + i, es.getD i 0) else none) t := by
  induction os generalizing i k s es with
  | nil =>
    cases hlook
    rfl
  | cons v os ih =>
    rw [List.length_cons, Nat.succ_min_succ, List.take_succ_cons] at hlook
    obtain ⟨x, w, r, hv, hr, rfl⟩ := mapL_cons_ok hlook
    rw [scanTable, work_bind_ok hv]
    cases i with
    | zero =>
      have hx : x ≠ 0 := hat (by simp)
      rw [Nat.zero_min, List.take_zero] at hr
      cases hr
      rw [if_pos (bne_iff_ne.2 hx), if_pos (by simp)]
      rfl
    | succ i =>
      have hx : x = 0 := hzero 0 (by omega)
      have hrest := ih (k + 1) (Nat.le_of_succ_le_succ hi) hr (fun j hj => hzero (j + 1) (by omega)) (fun h => hat (Nat.succ_lt_succ h))
      simp [hx, hrest, Nat.add_assoc, Nat.add_comm 1]

/-- How a unit of TSC ends: at the first octet whose entry `e` is not zero, or past all `k` of them. -/
def tscEnd (p : Prog) (i k : Nat) (e : BitVec 8) : UnitEnd :=
  if i < k then
    .done (2 + i) { p with a1 := daAdd p.a1 (2 * i), n1 := p.n1 - 2 * i, g3 := daReg (daAdd p.a1 (2 * i)) } (e.setWidth 72)
      (some (false, false, false, true))
  else if (chunkNext p).n1 = 0 then .done (1 + firstChunk p / 2) { chunkNext p with g3 := 0 } 0 (some (false, true, false, false))
  else .more (1 + firstChunk p / 2) (chunkNext p) (holdWord none)

theorem tscUnit_ok {v : State} {l : List (BitVec 4)} {es : List (BitVec 8)} {i : Nat}
    (hrefs : unitRefs n 1 f.p1 .load p.a1 (firstChunk p) t0 = .ok rs v) (hload : loadField n rs v = .ok l t1) (hi : i ≤ l.length / 2)
    (hlook : mapL (lookup n f p.a2) ((octetsAt l).take (min (i + 1) (l.length / 2))) t1 = .ok es t)
    (hzero : ∀ j : Nat, j < i → es.getD j 0 = 0) (hat : i < l.length / 2 → es.getD i 0 ≠ 0) :
    tscUnit n f h p t0 = .ok (tscEnd p i (l.length / 2) (es.getD i 0)) t := by
  rw [← length_octetsAt] at hi hlook hat ⊢
  have hscan := scanTable_ok 0 hi hlook hzero hat
  unfold tscUnit tscEnd
  rw [work_bind_ok hrefs, work_bind_ok hload, octetsOfPos_eq, work_bind_ok hscan]
  by_cases hlt : i < (octetsAt l).length
  · rw [if_pos hlt, if_pos hlt, Nat.zero_add]
    rfl
  · rw [if_neg hlt, if_neg hlt]
    rfl

/-! ## The four instructions -/

/-- Settles O27: each instruction starts its unit with the progress that it found, and the unit's end says what it leaves. -/
theorem moveCompareTranslateUnits : Obligations.MoveCompareTranslateUnits := by
  unfold Obligations.MoveCompareTranslateUnits
  intro s t0 n f p h
  refine ⟨?mvs, ?cls, ?trx, ?tsc⟩
  case mvs =>
    rintro t1 t rs l hstart pad down m i k da ⟨ws, hwords, hl, -, -⟩ - - hrefs hstore
    subst hl
    obtain ⟨hold, hunit⟩ := mvsUnit_ok (m := m) (i := i) (k := k) rfl rfl rfl hwords hrefs hstore
    obtain ⟨u, hu, honly, hstored, hleaves⟩ := long_unit_stores (i := .mvs n f) rfl (by decide) hstart hstore hunit
    have hdone : (mvsNext p m k).n1 = 0 ↔ p.n1 = m := by
      have hle : m ≤ p.n1 := by
        simp only [m]
        split <;> exact Nat.min_le_left _ _
      rw [mvsNext_n1]
      omega
    have hprog := UnitEnd.leaves_ite hdone hleaves
    exact ⟨u, hu, honly, hstored, hprog⟩
  case cls =>
    rintro t1 t rs1 x y hstart pad m k1 k2 hnone hsome ⟨ws, hwords, hy, hlen, -⟩ - - a b
    subst hy
    have hreads (h0 : k1 ≠ 0) : ∃ v, unitRefs n 1 f.p1 .load p.a1 k1 t0 = .ok rs1 v ∧ loadField n rs1 v = .ok x t1 := by
      obtain ⟨v, hrefs, hload, -⟩ := hsome h0
      exact ⟨v, hrefs, hload⟩
    obtain ⟨hold, hunit⟩ : ∃ hold, clsUnit n f h p t0 = .ok (clsEnd p m k1 k2 a b hold) t := clsUnit_ok rfl rfl rfl hnone hreads hwords
    obtain ⟨u, hu, honly, hcells, hleaves⟩ := long_unit_reads (i := .cls n f) rfl (by decide) hstart hunit
    have hx : x.length = k1 := by
      by_cases h0 : k1 = 0
      · rw [(hnone h0).1, h0]
        rfl
      · obtain ⟨-, -, -, -, -, hx⟩ := hsome h0
        exact hx
    have ha : a.length = m := by
      rw [List.length_append, hx, length_padAt, Nat.add_sub_cancel' (Nat.min_le_right _ _)]
    have hb : b.length = m := by
      rw [List.length_append, hlen, length_padAt, Nat.add_sub_cancel' (Nat.min_le_right _ _)]
    rcases firstDiff_cases (ha.trans hb.symm) 0 with ⟨d, hd, hfirst, hbefore, hne⟩ | ⟨hnone, hab⟩
    · rw [clsEnd, hfirst, Nat.zero_add] at hleaves
      rw [ha] at hd
      refine ⟨d, hd.le, hbefore, fun _ => hne, u, hu, honly, hcells, ?_⟩
      rw [decide_eq_true hd, Bool.true_or]
      simp only [if_pos hd]
      exact hleaves
    · rw [clsEnd, hnone] at hleaves
      refine ⟨m, le_rfl, fun i _ => by rw [hab], fun hm => absurd hm (lt_irrefl m), u, hu, honly, hcells, ?_⟩
      rw [decide_eq_false (lt_irrefl m), Bool.false_or]
      simp only [if_neg (lt_irrefl m)]
      have hprog := UnitEnd.leaves_ite Iff.rfl hleaves
      exact hprog
  case trx =>
    rintro t1 t rs l es hstart ⟨v, hrefs, hload, -, -, -⟩ hlook hstore
    obtain ⟨steps, hold, hunit⟩ := trxUnit_ok (h := h) hrefs hload hlook hstore
    obtain ⟨u, hu, honly, hstored, hleaves⟩ := long_unit_stores (i := .trx n f) rfl (by decide) hstart hstore hunit
    have hprog := UnitEnd.leaves_ite (chunkNext_done p) hleaves
    exact ⟨u, hu, honly, hstored, hprog⟩
  case tsc =>
    rintro t1 t rs l i es hstart ⟨v, hrefs, hload, -, -, hlen⟩ hi - hlook hzero hat -
    rw [← hlen] at hi hlook hat
    obtain ⟨u, hu, honly, -, hleaves⟩ := long_unit_reads (i := .tsc n f) rfl (by decide) hstart (tscUnit_ok (h := h) hrefs hload hi hlook hzero hat)
    rw [hlen] at hleaves
    refine ⟨u, hu, honly, fun hlt => ?_, fun hend => ?_⟩
    · rw [tscEnd, if_pos hlt] at hleaves
      exact hleaves
    · rw [tscEnd, if_neg (by omega)] at hleaves
      have hprog := UnitEnd.leaves_cleared (chunkNext_done p) hleaves
      exact hprog

end Sys2Proof.Machine
end

section
/-! The units of SCD and VDG (R115, R126, R127). -/

namespace Sys2Proof.Machine

variable {n : CoreId} {f : FmtS} {h : Option LongHold} {p : Prog} {t0 t v : State} {rs : List WordRef} {l : List (BitVec 4)}

/-! ## SCD (R126) -/

theorem scdMatch_iff (par : BitVec 64) (o : BitVec 8) :
    scdMatch par o = true ↔ ((o = bits par 0 8 ∨ o = bits par 8 8) ↔ bit par 16 = false) := by
  unfold scdMatch
  cases bit par 16 <;> simp

/-- The progress of SCD past `m` positions without a match. -/
def scdNext (p : Prog) (m : Nat) : Prog := { p with a1 := if bit p.par 17 then p.a1 else daAdd p.a1 m, n1 := p.n1 - m }

/-- The progress of SCD at the first octet that matches, after `i` octets that do not. -/
def scdHit (p : Prog) (i : Nat) : Prog :=
  { p with
    a1 := if bit p.par 17 then p.a1 else daAdd p.a1 (2 * i), n1 := p.n1 - 2 * i,
    g3 := daReg (if bit p.par 17 then daAdd p.a1 (((p.n1 - 2 * i : Nat) : Int) - 2) else daAdd p.a1 (2 * i)) }

/-- How a unit of SCD of `m` positions ends, by the index of its first match. -/
def scdEnd (p : Prog) (m : Nat) : Option Nat → UnitEnd
  | some i => .done 1 (scdHit p i) 0 (some (false, false, false, true))
  | none =>
    if (scdNext p m).n1 = 0 then .done 1 { scdNext p m with g3 := 0 } 0 (some (false, true, false, false))
    else .more 1 (scdNext p m) (holdWord none)

theorem scdUnit_ok {m : Nat} (hm : m = if bit p.par 17 then lastChunk p else firstChunk p)
    (hrefs : unitRefs n 1 f.p1 .load (if bit p.par 17 then daAdd p.a1 ((p.n1 : Int) - m) else p.a1) m t0 = .ok rs v)
    (hload : loadField n rs v = .ok l t) :
    scdUnit n f h p t0 =
      .ok (scdEnd p m (findIdx (scdMatch p.par) (if bit p.par 17 then (octetsAt l).reverse else octetsAt l) 0)) t := by
  have hle : m ≤ p.n1 := by
    rw [hm]
    split <;> exact Nat.min_le_left _ _
  rw [← Nat.cast_sub hle] at hrefs
  unfold scdUnit
  dsimp only
  rw [← hm, work_bind_ok hrefs, work_bind_ok hload, octetsOfPos_eq]
  cases findIdx (scdMatch p.par) (if bit p.par 17 then (octetsAt l).reverse else octetsAt l) 0 with
  | none => rfl
  | some i =>
    unfold scdEnd scdHit
    cases bit p.par 17 <;> rfl

/-! ## VDG (R127) -/

/-- What format `k` asks of position `j`, or of the octet that begins there, of `m` positions; `last` says that they end the operand. -/
def VdgGood (k : Nat) (last : Bool) (m : Nat) (l : List (BitVec 4)) (j : Nat) : Prop :=
  match k with
  | 0 => if last = true ∧ j + 1 = m then 10 ≤ (l.getD j 0).toNat else (l.getD j 0).toNat ≤ 9
  | 1 => (l.getD (j + 1) 0).toNat ≤ 9 ∧
    ((l.getD j 0).toNat = 3 ∨ if last = true ∧ j + 2 = m then 10 ≤ (l.getD j 0).toNat else (l.getD j 0).toNat = 15)
  | 2 => (l.getD j 0).toNat = 3 ∧ (l.getD (j + 1) 0).toNat ≤ 9
  | _ => (l.getD j 0).toNat ≤ 9

theorem isDigit_iff (x : BitVec 4) : isDigit x = true ↔ x.toNat ≤ 9 := decide_eq_true_iff
theorem isSign_iff (x : BitVec 4) : isSign x = true ↔ 10 ≤ x.toNat := decide_eq_true_iff

/-- Whether a zoned octet is valid; the final one may hold a sign (R100, R127). -/
def zoneOk (o : BitVec 8) (final : Bool) : Bool :=
  isDigit (bits o 0 4) && (if final then isSign (bits o 4 4) || bits o 4 4 == 3 else bits o 4 4 == 3 || bits o 4 4 == 0xF)

theorem zoneOk_iff (a b : BitVec 4) (final : Bool) : zoneOk (a ++ b) final = true ↔
    b.toNat ≤ 9 ∧ (a.toNat = 3 ∨ if final = true then 10 ≤ a.toNat else a.toNat = 15) := by
  have hnat (c : BitVec 4) : (a == c) = true ↔ a.toNat = c.toNat := by rw [beq_iff_eq, BitVec.toNat_inj]
  rw [zoneOk, bits_append_low, bits_append_high, Bool.and_eq_true, isDigit_iff]
  cases final
  · rw [if_neg Bool.false_ne_true, if_neg Bool.false_ne_true, Bool.or_eq_true, hnat, hnat]
    rfl
  · rw [if_pos rfl, if_pos rfl, Bool.or_eq_true, hnat, isSign_iff, or_comm]
    rfl

theorem textDigit_isNone_iff (a b : BitVec 4) : (textDigit (a ++ b)).isNone = false ↔ a.toNat = 3 ∧ b.toNat ≤ 9 := by
  have hthree : a = 3 ↔ a.toNat = 3 := by rw [← BitVec.toNat_inj]; rfl
  rw [textDigit, bits_append_low, bits_append_high, ← hthree]
  split <;> simp_all

/-- The octets of a part with the mark of the one that ends the operand, if it does. -/
def marked (last : Bool) (l : List (BitVec 4)) : List (BitVec 8 × Bool) :=
  (octetsAt l).zip (List.replicate ((octetsAt l).length - 1) false ++ [last])

theorem length_marked (last : Bool) (l : List (BitVec 4)) : (marked last l).length = l.length / 2 := by
  simp [marked]
  omega

theorem getElem_marked (last : Bool) (l : List (BitVec 4)) {j : Nat} (h : j < (marked last l).length) :
    (marked last l)[j] = (l.getD (2 * j) 0 ++ l.getD (2 * j + 1) 0, last && decide (j + 1 = l.length / 2)) := by
  have hj := h
  rw [length_marked] at hj
  simp only [marked, List.getElem_zip, getElem_octetsAt, List.getElem_append, List.getElem_replicate, length_octetsAt, List.length_replicate]
  split
  · next hlt => simp [show ¬ j + 1 = l.length / 2 by omega]
  · next hge => simp [show j + 1 = l.length / 2 by omega]

/-- The index of an octet as that of its first position. -/
theorem double_half {i m : Nat} (hi : i % 2 = 0) (hm : m % 2 = 0) :
    (if i / 2 < m / 2 then some (0 + i / 2) else none).map (2 * ·) = if i < m then some i else none := by
  by_cases h : i < m
  · rw [if_pos h, if_pos (by omega), Option.map_some]
    congr 1
    omega
  · rw [if_neg h, if_neg (by omega)]
    rfl

/-- A part of single positions that satisfy the test of their format before `i`, and fail it at `i` if there is one. -/
theorem vdgBad_positions {fmt : BitVec 2} {last : Bool} {i : Nat} (hfmt : fmt = 0 ∨ fmt = 3) (hi : i ≤ l.length)
    (hbefore : ∀ j : Nat, j < i → VdgGood fmt.toNat last l.length l j) (hat : i < l.length → ¬ VdgGood fmt.toNat last l.length l i) :
    vdgBad fmt last l = if i < l.length then some i else none := by
  have hget {j : Nat} (hj : j < l.length) : l.getD j 0 = l[j] := List.getD_eq_getElem l 0 hj
  by_cases hend : fmt = 0 ∧ last = true
  · obtain ⟨rfl, rfl⟩ := hend
    have hgood {j : Nat} (hj : j < l.length) :
        VdgGood 0 true l.length l j ↔ (if j + 1 = l.length then isSign l[j] else isDigit l[j]) = true := by
      simp only [VdgGood, true_and, hget hj]
      split
      · exact (isSign_iff _).symm
      · exact (isDigit_iff _).symm
    have hfirst := firstBad_eq 0 hi (fun j hj hlt => (hgood hj).1 (hbefore j hlt)) fun hlt => Bool.eq_false_iff.2 (mt (hgood hlt).2 (hat hlt))
    rw [Nat.zero_add] at hfirst
    exact hfirst
  · have hgood {j : Nat} (hj : j < l.length) : VdgGood fmt.toNat last l.length l j ↔ (!isDigit l[j]) = false := by
      rw [Bool.not_eq_false', isDigit_iff, ← hget hj]
      rcases hfmt with rfl | rfl
      · have hlast : ¬ (last = true ∧ j + 1 = l.length) := fun hl => hend ⟨rfl, hl.1⟩
        exact iff_of_eq (if_neg hlast)
      · rfl
    have hfirst := findIdx_eq (p := fun x => !isDigit x) 0 hi (fun j hj hlt => (hgood hj).1 (hbefore j hlt))
      fun hlt => Bool.eq_true_of_not_eq_false (mt (hgood hlt).2 (hat hlt))
    rw [Nat.zero_add] at hfirst
    rw [← hfirst]
    rcases hfmt with rfl | rfl
    · have hlast : last = false := Bool.eq_false_iff.2 fun hl => hend ⟨rfl, hl⟩
      rw [hlast]
      rfl
    · rfl

/-- A part of octets that satisfy the test of their format before position `i`, and fail it at `i` if there is one. -/
theorem vdgBad_octets {fmt : BitVec 2} {last : Bool} {i : Nat} (hfmt : fmt = 1 ∨ fmt = 2) (hi : i ≤ l.length) (hi2 : i % 2 = 0)
    (hl2 : l.length % 2 = 0) (hbefore : ∀ j : Nat, j < i → j % 2 = 0 → VdgGood fmt.toNat last l.length l j)
    (hat : i < l.length → ¬ VdgGood fmt.toNat last l.length l i) : vdgBad fmt last l = if i < l.length then some i else none := by
  have hbefore (j : Nat) (hj : j < i / 2) := hbefore (2 * j) (by omega) (by omega)
  have hat (hlt : i / 2 < l.length / 2) : ¬ VdgGood fmt.toNat last l.length l (2 * (i / 2)) := by
    rw [show 2 * (i / 2) = i by omega]
    exact hat (by omega)
  rw [← double_half hi2 hl2]
  rcases hfmt with rfl | rfl
  · have hgood {j : Nat} (hj : j < (marked last l).length) :
        VdgGood 1 last l.length l (2 * j) ↔ (!zoneOk (marked last l)[j].1 (marked last l)[j].2) = false := by
      have hlast : last = true ∧ 2 * j + 2 = l.length ↔ (last && decide (j + 1 = l.length / 2)) = true := by
        rw [Bool.and_eq_true, decide_eq_true_iff]
        exact and_congr_right fun _ => by omega
      rw [Bool.not_eq_false', getElem_marked, zoneOk_iff]
      exact and_congr_right fun _ => or_congr_right (iff_of_eq (if_congr hlast rfl rfl))
    have hfirst := findIdx_eq (p := fun x : BitVec 8 × Bool => !zoneOk x.1 x.2) (l := marked last l) (i := i / 2) 0
      (by rw [length_marked]; omega) (fun j hj hlt => (hgood hj).1 (hbefore j hlt)) fun hlt =>
        Bool.eq_true_of_not_eq_false (mt (hgood hlt).2 (hat (by rwa [length_marked] at hlt)))
    rw [length_marked] at hfirst
    rw [← hfirst, marked, ← octetsOfPos_eq]
    rfl
  · have hgood {j : Nat} (hj : j < (octetsAt l).length) :
        VdgGood 2 last l.length l (2 * j) ↔ (textDigit (octetsAt l)[j]).isNone = false := by
      rw [getElem_octetsAt, textDigit_isNone_iff]
      rfl
    have hfirst := findIdx_eq (p := fun o => (textDigit o).isNone) (l := octetsAt l) (i := i / 2) 0
      (by rw [length_octetsAt]; omega) (fun j hj hlt => (hgood hj).1 (hbefore j hlt)) fun hlt =>
        Bool.eq_true_of_not_eq_false (mt (hgood hlt).2 (hat (by rwa [length_octetsAt] at hlt)))
    rw [length_octetsAt] at hfirst
    rw [← hfirst, ← octetsOfPos_eq]
    rfl

theorem vdgFormat_cases (fmt : BitVec 2) : (fmt = 0 ∨ fmt = 3) ∨ fmt = 1 ∨ fmt = 2 := by
  revert fmt
  decide

/-- A part whose positions before `i` its format takes and that at `i`, if there is one, it does not. -/
theorem vdgBad_eq {fmt : BitVec 2} {last : Bool} {i m : Nat} (hm : l.length = m) (hi : i ≤ m)
    (heven : fmt.toNat = 1 ∨ fmt.toNat = 2 → i % 2 = 0 ∧ m % 2 = 0)
    (hbefore : ∀ j : Nat, j < i → (fmt.toNat = 1 ∨ fmt.toNat = 2 → j % 2 = 0) → VdgGood fmt.toNat last m l j)
    (hat : i < m → ¬ VdgGood fmt.toNat last m l i) : vdgBad fmt last l = if i < m then some i else none := by
  subst hm
  rcases vdgFormat_cases fmt with hfmt | hfmt
  · have hno : ¬ (fmt.toNat = 1 ∨ fmt.toNat = 2) := by rcases hfmt with rfl | rfl <;> decide
    exact vdgBad_positions hfmt hi (fun j hj => hbefore j hj fun ho => absurd ho hno) hat
  · have ho : fmt.toNat = 1 ∨ fmt.toNat = 2 := by rcases hfmt with rfl | rfl <;> decide
    obtain ⟨hi2, hl2⟩ := heven ho
    exact vdgBad_octets hfmt hi hi2 hl2 (fun j hj h2 => hbefore j hj fun _ => h2) hat

/-! ### The sign and the digits of a valid part -/

theorem vdgSign_eq (fmt : BitVec 2) (l : List (BitVec 4)) : vdgSign fmt l =
    if fmt.toNat = 0 then l.getD (l.length - 1) 0 else if fmt.toNat = 1 then l.getD (l.length - 2) 0 else 0xC := by
  have hlast : l.getLastD 0 = l.getD (l.length - 1) 0 := by
    rw [List.getLastD_eq_getLast?, List.getLast?_eq_getElem?, List.getD_eq_getElem?_getD]
  have hzone : (l.drop (l.length - 2)).headD 0 = l.getD (l.length - 2) 0 := by
    rw [List.headD_eq_head?_getD, List.head?_drop, List.getD_eq_getElem?_getD]
  rw [← hlast, ← hzone]
  rcases vdgFormat_cases fmt with (rfl | rfl) | rfl | rfl <;> rfl

/-- Which positions of a part of `m` hold digits that count towards a value other than zero. -/
def VdgDigitAt (k : Nat) (last : Bool) (m j : Nat) : Prop :=
  match k with
  | 0 => ¬(last = true ∧ j + 1 = m)
  | 1 => j % 2 = 1
  | _ => False

theorem any_ne_zero_iff (r : List (BitVec 4)) : r.any (· != 0) = true ↔ ∃ j : Nat, j < r.length ∧ (r.getD j 0).toNat ≠ 0 := by
  have hne (x : BitVec 4) : (x != 0) = true ↔ x.toNat ≠ 0 := by rw [bne_iff_ne, ne_eq, ← BitVec.toNat_inj]; rfl
  rw [List.any_eq_true]
  constructor
  · rintro ⟨x, hx, hnz⟩
    obtain ⟨j, hj, rfl⟩ := List.mem_iff_getElem.1 hx
    exact ⟨j, hj, by rw [List.getD_eq_getElem r 0 hj]; exact (hne _).1 hnz⟩
  · rintro ⟨j, hj, hnz⟩
    rw [List.getD_eq_getElem r 0 hj] at hnz
    exact ⟨r[j], List.getElem_mem hj, (hne _).2 hnz⟩

theorem vdgDigits_any (fmt : BitVec 2) (last : Bool) (l : List (BitVec 4)) : (vdgDigits fmt last l).any (· != 0) = true ↔
    ∃ j : Nat, j < l.length ∧ VdgDigitAt fmt.toNat last l.length j ∧ (l.getD j 0).toNat ≠ 0 := by
  rw [any_ne_zero_iff]
  have hnone {k : BitVec 2} (hdigits : vdgDigits k last l = []) (hno : ∀ j, ¬ VdgDigitAt k.toNat last l.length j) :
      (∃ j : Nat, j < (vdgDigits k last l).length ∧ ((vdgDigits k last l).getD j 0).toNat ≠ 0) ↔
        ∃ j : Nat, j < l.length ∧ VdgDigitAt k.toNat last l.length j ∧ (l.getD j 0).toNat ≠ 0 := by
    simp [hdigits, hno]
  rcases vdgFormat_cases fmt with (rfl | rfl) | rfl | rfl
  · cases last with
    | false => exact exists_congr fun j => and_congr_right fun _ => (and_iff_right fun hl => Bool.false_ne_true hl.1).symm
    | true =>
      have hdigits : vdgDigits 0 true l = l.dropLast := rfl
      rw [hdigits, List.length_dropLast]
      refine exists_congr fun j => ?_
      have hiff : j < l.length - 1 ↔ j < l.length ∧ VdgDigitAt (0 : BitVec 2).toNat true l.length j := by
        have hat : VdgDigitAt (0 : BitVec 2).toNat true l.length j ↔ ¬ j + 1 = l.length := not_congr (and_iff_right rfl)
        rw [hat]
        omega
      rw [← and_assoc, ← hiff]
      refine and_congr_right fun hj => ?_
      rw [List.getD_eq_getElem?_getD, List.getD_eq_getElem?_getD, List.getElem?_dropLast, if_pos hj]
  · exact hnone rfl fun _ hd => hd
  · have hdigits : vdgDigits 1 last l = (octetsAt l).map fun o => bits o 0 4 := zonedDigits_eq l
    have hget {j : Nat} (hj : j < l.length / 2) : ((octetsAt l).map fun o => bits o 0 4).getD j 0 = l.getD (2 * j + 1) 0 := by
      rw [List.getD_eq_getElem _ _ (by simpa using hj), List.getElem_map, getElem_octetsAt, bits_append_low]
    rw [hdigits, List.length_map, length_octetsAt]
    constructor
    · rintro ⟨j, hj, hx⟩
      rw [hget hj] at hx
      exact ⟨2 * j + 1, by omega, Nat.mul_add_mod 2 j 1, hx⟩
    · rintro ⟨j, hj, hodd, hx⟩
      have hodd : j % 2 = 1 := hodd
      refine ⟨j / 2, by omega, ?_⟩
      rw [hget (by omega), show 2 * (j / 2) + 1 = j by omega]
      exact hx
  · exact hnone rfl fun _ hd => hd

/-! ### A unit -/

/-- The progress of VDG past a valid part of `m` positions; `nz` says whether a digit other than zero has been seen. -/
def vdgNext (p : Prog) (m : Nat) (nz : Bool) : Prog :=
  { p with a1 := daAdd p.a1 m, n1 := p.n1 - m, g3 := p.g3 + BitVec.ofNat 72 m, par := setBit p.par 8 nz }

/-- How a unit of VDG of `m` positions ends, by the index of its first failure. -/
def vdgEnd (p : Prog) (m : Nat) (nz : Bool) (sign : BitVec 4) : Option Nat → UnitEnd
  | some i =>
    .done 1 { p with a1 := daAdd p.a1 i, n1 := p.n1 - i, g3 := p.g3 + BitVec.ofNat 72 (i + 1) } 0 (some (false, false, true, false))
  | none =>
    if p.n1 = m then .done 1 { vdgNext p m nz with g3 := 0 } 0 (some (isMinus sign && nz, true, false, false))
    else .more 1 (vdgNext p m nz) (holdWord none)

theorem vdgUnit_ok (hrefs : unitRefs n 1 f.p1 .load p.a1 (firstChunk p) t0 = .ok rs v) (hload : loadField n rs v = .ok l t) :
    vdgUnit n f h p t0 = .ok (vdgEnd p (firstChunk p) (bit p.par 8 || (vdgDigits (bits p.par 0 2) (decide (p.n1 = firstChunk p)) l).any (· != 0))
      (vdgSign (bits p.par 0 2) l) (vdgBad (bits p.par 0 2) (decide (p.n1 = firstChunk p)) l)) t := by
  have hlast : (firstChunk p == p.n1) = decide (p.n1 = firstChunk p) := by rw [beq_eq_decide, decide_eq_decide, eq_comm]
  unfold vdgUnit
  dsimp only
  rw [work_bind_ok hrefs, work_bind_ok hload, hlast]
  cases vdgBad (bits p.par 0 2) (decide (p.n1 = firstChunk p)) l with
  | some i => rfl
  | none =>
    unfold vdgEnd
    by_cases hend : p.n1 = firstChunk p
    · rw [if_pos hend]
      dsimp only
      rw [if_pos (decide_eq_true hend)]
      rfl
    · rw [if_neg hend]
      dsimp only
      rw [if_neg (by rw [decide_eq_true_iff]; exact hend)]
      rfl

/-! ## The two instructions -/

/-- Settles O28: the part of the operand in one word is searched for its first match or failure, and the unit's end says what it leaves. -/
theorem scanAndValidateUnits : Obligations.ScanAndValidateUnits := by
  unfold Obligations.ScanAndValidateUnits
  intro s t0 t n f p h rs l i first
  refine ⟨?scd, ?vdg⟩
  case scd =>
    rintro hstart back m ⟨v, hrefs, hload, -, -, hlen⟩ heven - - os hit hi hbefore hat
    have hunit := scdUnit_ok (h := h) (m := m) rfl hrefs hload
    have hos : os.length = m / 2 := by
      simp only [os]
      split <;> simp [hlen]
    have hfind := findIdx_eq (p := scdMatch p.par) (l := os) 0 (hi.trans hos.ge)
      (fun j hj hlt => by
        rw [← Bool.not_eq_true, scdMatch_iff, ← List.getD_eq_getElem os 0 hj]
        exact hbefore j hlt)
      fun hlt => by
        rw [scdMatch_iff, ← List.getD_eq_getElem os 0 hlt]
        exact hat (hos ▸ hlt)
    rw [Nat.zero_add, hos] at hfind
    have hunit : scdUnit n f h p t0 = .ok (scdEnd p m (if i < m / 2 then some i else none)) t := by
      rw [← hfind]
      exact hunit
    obtain ⟨u, hu, honly, -, hleaves⟩ := long_unit_reads (i := .scd n f) rfl (by decide) hstart hunit
    refine ⟨u, hu, honly, fun hlt => ?_, fun hend => ?_⟩
    · rw [if_pos hlt] at hleaves
      exact hleaves
    · rw [if_neg (by omega)] at hleaves
      have hdone : (scdNext p m).n1 = 0 ↔ p.n1 = m := by
        have hle : m ≤ p.n1 := by
          simp only [m]
          split <;> exact Nat.min_le_left _ _
        show p.n1 - m = 0 ↔ _
        omega
      have hprog := UnitEnd.leaves_cleared hdone hleaves
      exact hprog
  case vdg =>
    rintro hstart ⟨v, hrefs, hload, -, -, hlen⟩ fmt last octets x good digit sign - hi heven hbefore hat
    have hbad : vdgBad (bits p.par 0 2) last l = if i < first then some i else none := vdgBad_eq hlen hi heven hbefore hat
    obtain ⟨nz, hnz⟩ : ∃ nz, nz = (bit p.par 8 || (vdgDigits (bits p.par 0 2) last l).any (· != 0)) := ⟨_, rfl⟩
    have hunit : vdgUnit n f h p t0 = .ok (vdgEnd p first nz (vdgSign (bits p.par 0 2) l) (if i < first then some i else none)) t := by
      rw [hnz, ← hbad]
      exact vdgUnit_ok hrefs hload
    obtain ⟨u, hu, honly, -, hleaves⟩ := long_unit_reads (i := .vdg n f) rfl (by decide) hstart hunit
    refine ⟨u, hu, honly, fun hlt => ?_, fun hend => ⟨nz, ?_, ?_⟩⟩
    · rw [if_pos hlt] at hleaves
      exact hleaves
    · rw [hnz, Bool.or_eq_true, vdgDigits_any, hlen]
      rfl
    · rw [if_neg (by omega), vdgSign_eq, hlen] at hleaves
      have hprog := UnitEnd.leaves_cleared (b := last = true) decide_eq_true_iff.symm hleaves
      rw [Bool.decide_eq_true] at hprog
      exact hprog

end Sys2Proof.Machine
end

section
/-! The units of EDIT and EDMK (R115, R129-R135), and what each pattern octet does (R129, R131). -/

namespace Sys2Proof.Machine

variable {n : CoreId} {f : FmtS} {mark : Bool} {p : Prog} {t0 t1 t2 t v : State} {rs : List WordRef} {l ds : List (BitVec 4)}
  {wd : Option (WAddr × Word)} {e : EditSt} {out : List (BitVec 8)}

/-! ## A unit -/

/-- The state of an edit as a unit finds it, with the digits of the open field and the word of them that it holds. -/
def editFrom (p : Prog) (ds : List (BitVec 4)) (wd : Option (WAddr × Word)) : EditSt := { editOf p [] none with digits := ds, word := wd }

/-- The progress that a unit of an edit leaves with the state `e`. -/
def editNext (p : Prog) (e : EditSt) : Prog :=
  { par := e.par, g3 := e.mark, a1 := daAdd p.a1 (firstChunk p), a2 := e.a2, n1 := p.n1 - firstChunk p, n2 := e.n2 }

theorem editNext_done (p : Prog) (e : EditSt) : (editNext p e).n1 = 0 ↔ p.n1 = firstChunk p := chunkNext_done p

/-- Whether a unit begins within a field that has digits left. -/
def midField (p : Prog) : Bool := bit p.par 14 && decide ((bits p.par 8 6).toNat ≠ 0)

theorem midField_iff : midField p = true ↔ ((editOf p [] none).fld && (editOf p [] none).drem != 0) = true := by
  rw [midField, Bool.and_eq_true, Bool.and_eq_true, decide_eq_true_iff, bne_iff_ne]
  exact Iff.rfl

/-- The digits of the open field that a unit begins with: held, read again on a resume, or none (R134). -/
def EditOpens (n : CoreId) (f : FmtS) (h : Option LongHold) (p : Prog) (t1 : State) (ds : List (BitVec 4)) (wd : Option (WAddr × Word))
    (t2 : State) : Prop :=
  let k := (bits p.par 8 6).toNat
  (∀ x, h = some x → ds = x.digits ∧ wd = x.word ∧ t2 = t1) ∧
  (h = none → midField p = true → ∃ dl, readSource n f p.a2 k (fieldWords (k + 1) p.a2 (k + 1)) none [] t1 = .ok (dl, wd) t2 ∧ ds = dl.dropLast) ∧
  (h = none → midField p = false → ds = [] ∧ wd = none ∧ t2 = t1)

theorem editUnit_ok {h : Option LongHold} (hrefs : unitRefs n 1 f.p1 .update p.a1 (firstChunk p) t0 = .ok rs v)
    (hload : loadField n rs v = .ok l t1) (hopens : EditOpens n f h p t1 ds wd t2)
    (hrun : editRun n f mark (daAdd p.a1 (firstChunk p)) (p.n1 - firstChunk p) (octetsAt l) p.a1 (editFrom p ds wd) [] t2 = .ok (e, out) t)
    (hstore : t.storable n rs) :
    ∃ steps hold, editUnit n f mark h p t0 =
      .ok (if (editNext p e).n1 = 0 then .done steps (editNext p e) 0 (some (e.neg, e.zf, false, false)) else .more steps (editNext p e) hold)
      (t.updCore n fun c => c.buffering (storedWords rs (out.flatMap fun o => [bits o 4 4, bits o 0 4]))) := by
  rw [← octetsOfPos_eq] at hrun
  obtain ⟨hheld, hread, hnone⟩ := hopens
  refine ⟨1 + firstChunk p / 2 + 2 * e.opened, { digits := e.digits, word := e.word }, ?_⟩
  unfold editUnit
  rw [work_bind_ok hrefs, work_bind_ok hload]
  cases h with
  | some x =>
    obtain ⟨rfl, rfl, rfl⟩ := hheld x rfl
    exact (work_bind_ok (work_pure _ _)).trans <| (work_bind_ok hrun).trans <| work_bind_ok (storeField_buffering hstore _)
  | none =>
    by_cases hmid : midField p = true
    · obtain ⟨dl, hdl, rfl⟩ := hread rfl hmid
      exact (congrFun (if_pos (midField_iff.1 hmid)) t1).trans <| (work_bind_ok hdl).trans <| (work_bind_ok (work_pure _ _)).trans <|
        (work_bind_ok hrun).trans <| work_bind_ok (storeField_buffering hstore _)
    · obtain ⟨rfl, rfl, rfl⟩ := hnone rfl (Bool.eq_false_iff.2 hmid)
      exact (congrFun (if_neg (mt midField_iff.2 hmid)) t2).trans <| (work_bind_ok (work_pure _ _)).trans <|
        (work_bind_ok hrun).trans <| work_bind_ok (storeField_buffering hstore _)

theorem edit_unit {i : Instr} {op : BitVec 8} {s : State} {h : Option LongHold}
    (hexec : exec i s = .next (s.runIns n (shapeLong f) (longBody n f (editKind op) (editUnit n f mark)))) (hop : op ≠ 0)
    (hstart : LongStarts s n f (editKind op) p h t0) (hreads : UnitReads n f.p1 .update p.a1 (firstChunk p) t0 rs l t1)
    (hopens : EditOpens n f h p t1 ds wd t2)
    (hrun : editRun n f mark (daAdd p.a1 (firstChunk p)) (p.n1 - firstChunk p) (octetsAt l) p.a1 (editFrom p ds wd) [] t2 = .ok (e, out) t)
    (hstore : t.storable n rs) :
    ∃ u, exec i s = .next u ∧ OnlyCore n t u ∧ StoredTo n t u rs (scatterPos rs (out.flatMap fun o => [bits o 4 4, bits o 0 4])) ∧
      t.cores[n].Progressed u.cores[n] op (decide (p.n1 = firstChunk p)) false 0 (editNext p e) fun c x => c.Flags x e.neg e.zf false false := by
  obtain ⟨v, hrefs, hload, -, -, -⟩ := hreads
  obtain ⟨steps, hold, hunit⟩ := editUnit_ok hrefs hload hopens hrun hstore
  obtain ⟨u, hu, honly, hstored, hleaves⟩ := long_unit_stores hexec hop hstart hstore hunit
  have hprog := UnitEnd.leaves_ite (editNext_done p e) hleaves
  exact ⟨u, hu, honly, hstored, hprog⟩

/-! ## Pattern octets (R129, R131) -/

/-- What a digit place leaves of a source digit, the last of its field or not. -/
theorem takeDigit_eq {d : BitVec 4} {r : List (BitVec 4)} (hdigits : e.digits = d :: r) (hrem : 1 ≤ e.drem) (keep mark : Bool) (at_ : DAddr) :
    takeDigit e keep mark at_ =
      ({ e with
          digits := r, drem := e.drem - 1, a2 := if decide (e.drem = 1) then daAdd (daAdd e.a2 1) 1 else daAdd e.a2 1,
          n2 := if decide (e.drem = 1) then e.n2 - 1 - 1 else e.n2 - 1,
          sig := if decide (e.drem = 1) then e.neg else e.sig || d != 0 || keep,
          mark := if mark && (!e.sig && d != 0) then daReg at_ else e.mark },
        if e.sig || d != 0 then (3 : BitVec 4) ++ d else e.fill) := by
  unfold takeDigit
  rw [hdigits, ← Bool.and_assoc]
  by_cases hlast : e.drem = 1
  · simp [hlast]
  · simp [hlast, show e.drem - 1 ≠ 0 by omega]

/-- An octet outside 0x18 to 0x1C stands for itself while significance is on. -/
theorem editOctet_other {o : BitVec 8} (h : o.toNat < 0x18 ∨ 0x1C < o.toNat) (e : EditSt) (mark : Bool) (at_ : DAddr) (s : State) :
    editOctet e mark o at_ s = .ok (e, if e.sig then o else e.fill) s := by
  unfold editOctet
  generalize o.toNat = k at h
  split
  case h_6 => rfl
  all_goals omega

/-- A digit place, with significance kept on after it or not. -/
theorem editOctet_digit (keep : Bool) (e : EditSt) (mark : Bool) (at_ : DAddr) : editOctet e mark (if keep then 0x19 else 0x18) at_ =
    if e.drem = 0 then raise stringOperand else pure (takeDigit e keep mark at_) := by
  cases keep <;> rfl

/-- Settles O29: a unit of either instruction runs the pattern octets of a word, and each octet acts by its own table entry. -/
theorem editUnits : Obligations.EditUnits := by
  unfold Obligations.EditUnits
  refine ⟨?units, ?octets⟩
  case units =>
    intro s t0 t1 t2 t n f p h rs l ds wd e out first drem open_ unit
    exact ⟨fun hstart hreads hheld hread hnone hrun hstore =>
        edit_unit (i := .edit n f) rfl (by decide) hstart hreads ⟨hheld, hread, hnone⟩ hrun hstore,
      fun hstart hreads hheld hread hnone hrun hstore =>
        edit_unit (i := .edmk n f) rfl (by decide) hstart hreads ⟨hheld, hread, hnone⟩ hrun hstore⟩
  case octets =>
    intro s e mark o at_
    refine ⟨fun ho => editOctet_other ho e mark at_ s, rfl, rfl, rfl, fun keep d r hdigits _ hrem => ?_, fun hrem => ⟨?_, ?_⟩⟩
    · rw [editOctet_digit, if_neg (by omega), takeDigit_eq hdigits hrem]
      rfl
    · exact congrFun ((editOctet_digit false e mark at_).trans (if_pos hrem)) s
    · exact congrFun ((editOctet_digit true e mark at_).trans (if_pos hrem)) s

end Sys2Proof.Machine
end

section
/-! The vector checks of a posting (R145, R152 items 1 to 4). -/

namespace Sys2Proof.Machine

/-! ## Packed amounts -/

theorem natOfDigits_eq_digitsVal (l : List (BitVec 4)) : natOfDigits l = digitsVal l := by
  simp only [natOfDigits, digitsVal, Nat.mul_comm]

/-- The amount of a word is the value of its packed field (R12). -/
theorem packedInt_eq_fieldInt (w : Word) : packedInt w = fieldInt (posList w) := by
  simp only [packedInt, packedVal, Dec.val, isMinus, natOfDigits_eq_digitsVal]
  rfl

/-! ## The first leg that fails -/

theorem firstFail_eq_none {l : List (BitVec 8)} (h : ∀ x ∈ l, x = 0) : firstFail l = none := by
  have hfind := findIdx_eq (p := fun x => x != (0 : BitVec 8)) 0 (Nat.le_refl l.length)
    (fun j hj _ => by simp [h l[j] (List.getElem_mem hj)]) (fun hlt => absurd hlt (Nat.lt_irrefl _))
  rw [firstFail, hfind, if_neg (Nat.lt_irrefl _)]
  rfl

theorem firstFail_eq_some {l : List (BitVec 8)} {k : Nat} (hk : k < l.length) (hbefore : ∀ j : Nat, j < k → l.getD j 0 = 0)
    (hat : l.getD k 0 ≠ 0) : firstFail l = some (l.getD k 0, BitVec.ofNat 4 k) := by
  have hfind := findIdx_eq (p := fun x => x != (0 : BitVec 8)) 0 hk.le
    (fun j hj hlt => by simpa [List.getD_eq_getElem?_getD, hj] using hbefore j hlt)
    (fun hlt => by simpa [List.getD_eq_getElem?_getD, hlt] using hat)
  rw [firstFail, hfind, if_pos hk, Nat.zero_add]
  rfl

theorem exists_first_nonzero {l : List (BitVec 8)} (h : ¬∀ x ∈ l, x = 0) :
    ∃ k : Nat, k < l.length ∧ (∀ j : Nat, j < k → l.getD j 0 = 0) ∧ l.getD k 0 ≠ 0 := by
  push Not at h
  obtain ⟨x, hx, hne⟩ := h
  have hlt : l.findIdx (fun x => x != 0) < l.length := List.findIdx_lt_length_of_exists ⟨x, hx, by simpa using hne⟩
  refine ⟨_, hlt, fun j hj => ?_, ?_⟩
  · simpa [List.getD_eq_getElem?_getD, hj.trans hlt] using List.not_of_lt_findIdx hj
  · rw [List.getD_eq_getElem?_getD, List.getElem?_eq_getElem hlt, Option.getD_some]
    exact bne_iff_ne.1 (List.findIdx_getElem (p := fun x : BitVec 8 => x != 0) (w := hlt))

theorem State.length_legChecks (s : State) (earlier l : List (Word × Word)) : (s.legChecks earlier l).length = l.length := by
  induction l generalizing earlier with
  | nil => rfl
  | cons x r ih => simp [State.legChecks, ih]

/-! ## The balance (R152 item 4) -/

/-- The sum of the amount legs of a CUR. -/
def curSum (l : List (Word × Word)) (cur : BitVec 12) : Int :=
  ((l.filter fun x => l0Op x.1 == 0 && l0Cur x.1 == cur).map fun x => fieldInt (posList x.2)).sum

theorem foldl_packedInt (l : List (Word × Word)) :
    l.foldl (fun a y => a + packedInt y.2) (0 : Int) = (l.map fun x => fieldInt (posList x.2)).sum := by
  simp only [packedInt_eq_fieldInt, List.sum_eq_foldl, List.foldl_map]

/-- A vector is unbalanced when the amount legs of some CUR do not sum to zero; a CUR that no leg names sums to zero. -/
theorem unbalanced_iff (l : List (Word × Word)) : unbalanced l = true ↔ ∃ cur, curSum l cur ≠ 0 := by
  have hsum (x : Word × Word) : (((l.filter fun y => l0Op y.1 == 0).filter fun y => l0Cur y.1 == l0Cur x.1).foldl
      (fun a y => a + packedInt y.2) (0 : Int) != 0) = true ↔ curSum l (l0Cur x.1) ≠ 0 := by
    rw [foldl_packedInt, List.filter_filter, bne_iff_ne, curSum]
    simp only [Bool.and_comm]
  unfold unbalanced
  simp only [List.any_eq_true, hsum]
  refine ⟨fun ⟨x, _, h⟩ => ⟨_, h⟩, fun ⟨cur, h⟩ => ?_⟩
  have hne : (l.filter fun x => l0Op x.1 == 0 && l0Cur x.1 == cur) ≠ [] := fun he => h (by rw [curSum, he]; rfl)
  obtain ⟨x, hx⟩ := List.exists_mem_of_ne_nil _ hne
  obtain ⟨hmem, hboth⟩ := List.mem_filter.1 hx
  rw [Bool.and_eq_true, beq_iff_eq, beq_iff_eq] at hboth
  exact ⟨x, List.mem_filter.2 ⟨hmem, beq_iff_eq.2 hboth.1⟩, hboth.2.symm ▸ h⟩

/-! ## The checks in their order -/

/-- The header that R145 asks for. -/
def PostReq.headed (r : PostReq) : Prop := bits (r.word 1) 68 4 = 1 ∧ bits (r.word 0) 0 8 = 0

theorem State.vectorChecks_badHeader {s : State} {r : PostReq} (h : ¬r.headed) : (s.vectorChecks r).1 = some (0x26, 0) := by
  rw [PostReq.headed, not_and_or] at h
  rw [State.vectorChecks, if_pos h]

section
variable {s : State} {r : PostReq} (h : r.headed)
include h

theorem State.vectorChecks_manyPairs (hp : 4 < (pairsOf r.legs).length) : (s.vectorChecks r).1 = some (0x22, 0) := by
  rw [PostReq.headed, ← not_not (a := _ ∧ _), not_and_or] at h
  rw [State.vectorChecks, if_neg h, if_pos hp]

variable (hp : (pairsOf r.legs).length ≤ 4)
include hp

theorem State.vectorChecks_legs : (s.vectorChecks r).1 =
    (firstFail (s.legChecks [] r.legs)).or (if r.home.isNone && unbalanced r.legs then some (0x10, 0) else none) := by
  rw [PostReq.headed, ← not_not (a := _ ∧ _), not_and_or] at h
  rw [State.vectorChecks, if_neg h, if_neg (by omega)]
  dsimp only
  cases firstFail (s.legChecks [] r.legs) with
  | some x => rfl
  | none => cases r.home.isNone && unbalanced r.legs <;> rfl

theorem State.vectorChecks_badLeg (hbad : ¬∀ x ∈ s.legChecks [] r.legs, x = 0) :
    ∃ k : Nat, k < r.legs.length ∧ (∀ j : Nat, j < k → (s.legChecks [] r.legs).getD j 0 = 0) ∧
      (s.legChecks [] r.legs).getD k 0 ≠ 0 ∧ (s.vectorChecks r).1 = some ((s.legChecks [] r.legs).getD k 0, BitVec.ofNat 4 k) := by
  obtain ⟨k, hk, hbefore, hat⟩ := exists_first_nonzero hbad
  refine ⟨k, (s.length_legChecks [] r.legs).symm ▸ hk, hbefore, hat, ?_⟩
  rw [State.vectorChecks_legs h hp, firstFail_eq_some hk hbefore hat, Option.some_or]

variable (hsound : ∀ x ∈ s.legChecks [] r.legs, x = 0)
include hsound

theorem State.vectorChecks_unbalanced (hhome : r.home = none) (hsum : ∃ cur, curSum r.legs cur ≠ 0) : (s.vectorChecks r).1 = some (0x10, 0) := by
  rw [State.vectorChecks_legs h hp, firstFail_eq_none hsound, (unbalanced_iff _).2 hsum, hhome]
  rfl

theorem State.vectorChecks_pass (hsum : ∀ cur, curSum r.legs cur = 0) : (s.vectorChecks r).1 = none := by
  have hbal : unbalanced r.legs = false := by
    rw [← Bool.not_eq_true, unbalanced_iff]
    push Not
    exact hsum
  rw [State.vectorChecks_legs h hp, firstFail_eq_none hsound, hbal, Bool.and_false]
  rfl

end

/-- Settles O31: each check of R152 decides once those before it pass. -/
theorem vectorChecksInOrder : Obligations.VectorChecksInOrder := by
  unfold Obligations.VectorChecksInOrder
  intro s r header pairs sound sum
  exact ⟨State.vectorChecks_badHeader, State.vectorChecks_manyPairs, State.vectorChecks_badLeg, State.vectorChecks_unbalanced,
    State.vectorChecks_pass⟩

end Sys2Proof.Machine
end

section
/-! The checks of an amount leg at its bank (R143, R152 item 5, R160). -/

namespace Sys2Proof.Machine

section
variable {s : State} {l : Leg}

/-- A bank that reserves a leg whose words are all sound checks it (R159). -/
theorem exec_bankReserve_checks {b : Fin 64} {f : Flight} {k : Nat} (hnext : s.nextLeg b.val = some (f, k, l))
    (hsound : s.legPoison f.seq l = none) : exec (.bankReserve b) s = .next (s.updLeg f.seq k (s.bankCheck f.seq)) := by
  show execBankReserve b s = _
  simp only [execBankReserve, hnext, hsound]

/-- The checks of R143 in their order. -/
theorem State.limits_eq (s : State) (c : CellWords) (a : Int) : s.limits c a =
    let x := balInt c.bal
    let rule (j : Nat) : Word := s.data (s.ruleAddr c.rule j)
    if 10 ^ 17 ≤ (x + a).natAbs then 0x14
    else if c.rule = 0 then 0
    else if bit (rule 3) 69 = true ∧ balInt (rule 2) < (a.natAbs : Int) then 0x13
    else if bit (rule 3) 71 = true ∧ a < 0 ∧ x + a < balInt (rule 0) then 0x11
    else if bit (rule 3) 70 = true ∧ 0 < a ∧ balInt (rule 1) < x + a then 0x12
    else 0 := by
  simp only [State.limits, Bool.and_eq_true, decide_eq_true_eq, and_assoc, ge_iff_le]

/-- A leg with what its bank found of its cell, and its result (R152). -/
def Leg.found (l : Leg) (c : CellWords) (st : BitVec 8) (bal : Int) : Leg :=
  { l with cur := c.cur, scale := c.scale, res := some st, newBal := bal }

/-- The checks of an amount leg in their order (R152 item 5). -/
theorem State.bankCheck_amount (s : State) (seq : BitVec 48) (hop : l0Op l.l0 = 0) : s.bankCheck seq l =
    let i := l0Ci l.l0
    let c := s.provisional seq i
    let a := packedInt l.l1
    if ∃ p ∈ s.led.preps, i ∈ p.cells then l.found c 0x30 l.newBal
    else if c.state = 3 then l.found c 0x17 l.newBal
    else if c.state = 0 then l.found c 0x15 l.newBal
    else if c.state = 2 then l.found c 0x16 l.newBal
    else if c.cur ≠ l0Cur l.l0 then l.found c 0x18 l.newBal
    else l.found c (s.limits c a) (balInt c.bal + a) := by
  simp [State.bankCheck, hop, Leg.found]

end

/-- Settles O33: the bank gives the result of the first check that fails, and the limits are checked last. -/
theorem banksCheckTheirLegs : Obligations.BanksCheckTheirLegs := by
  unfold Obligations.BanksCheckTheirLegs
  intro s b f k l hnext hsound i c rule a x gives hop
  have hgives {st : BitVec 8} {bal : Int} (h : s.bankCheck f.seq l = l.found c st bal) : gives st bal :=
    ⟨s.bankCheck f.seq, exec_bankReserve_checks hnext hsound, h⟩
  have hcheck := s.bankCheck_amount f.seq hop
  have hlimits := s.limits_eq c a
  dsimp only at hcheck hlimits
  split_ifs with h1 h2 h3 h4 h5 h6 h7 h8 h9 h10
  · exact hgives (by rw [hcheck, if_pos h1])
  · exact hgives (by rw [hcheck, if_neg h1, if_pos h2])
  · exact hgives (by rw [hcheck, if_neg h1, if_neg h2, if_pos h3])
  · exact hgives (by rw [hcheck, if_neg h1, if_neg h2, if_neg h3, if_pos h4])
  · exact hgives (by rw [hcheck, if_neg h1, if_neg h2, if_neg h3, if_neg h4, if_pos h5])
  all_goals
    refine hgives (hcheck.trans ?_)
    rw [if_neg h1, if_neg h2, if_neg h3, if_neg h4, if_neg h5, hlimits]
  · rw [if_pos h6]
  · rw [if_neg h6, if_pos h7]
  · rw [if_neg h6, if_neg h7, if_pos h8]
  · rw [if_neg h6, if_neg h7, if_neg h8, if_pos h9]
  · rw [if_neg h6, if_neg h7, if_neg h8, if_neg h9, if_pos h10]
  · rw [if_neg h6, if_neg h7, if_neg h8, if_neg h9, if_neg h10]

end Sys2Proof.Machine
end

section
/-! Packed words (R10, R12, R80), and what an accepted leg leaves in its cell (R141, R146, R212). -/

namespace Sys2Proof.Machine

/-! ## Words from positions (R10) -/

theorem natOfPos_append (l : List (BitVec 4)) (d : BitVec 4) : natOfPos (l ++ [d]) = natOfPos l * 16 + d.toNat := by simp [natOfPos]

/-- The nibble of a number that stands before the last `e` of its nibbles. -/
theorem natOfPos_nibble {l : List (BitVec 4)} {p e : Nat} (h : p + e + 1 = l.length) : natOfPos l / 16 ^ e % 16 = (l[p]'(by omega)).toNat := by
  induction l using List.reverseRecOn generalizing e with
  | nil => exact absurd h (by simp)
  | append_singleton r d ih =>
    have hd := d.isLt
    rw [List.length_append, List.length_singleton] at h
    rw [natOfPos_append]
    cases e with
    | zero =>
      rw [List.getElem_concat_length (by omega)]
      omega
    | succ e =>
      rw [List.getElem_append_left (by omega), ← ih (e := e) (by omega), Nat.pow_succ', ← Nat.div_div_eq_div_mul]
      congr 2
      omega

/-- A word reads as the positions that it was made of. -/
theorem posList_wordOfPos {l : List (BitVec 4)} (h : l.length = 18) : posList (wordOfPos l) = l := by
  refine List.ext_getElem (by simp [posList, h]) fun p hp hl => ?_
  have hnibble := natOfPos_nibble (l := l) (p := p) (e := 17 - p) (by omega)
  have hdiv : 72 = 68 - 4 * p + 4 + 4 * p := by omega
  have hpow : 2 ^ (68 - 4 * p) = 16 ^ (17 - p) := by
    rw [show 68 - 4 * p = 4 * (17 - p) by omega, Nat.pow_mul]
  simp only [posList, List.getElem_map, List.getElem_range, posOf, wordOfPos, h, Nat.sub_self, Nat.pow_zero, Nat.mul_one]
  refine BitVec.eq_of_toNat_eq ?_
  rw [toNat_bits, BitVec.toNat_ofNat, ← hnibble, ← hpow, hdiv, Nat.pow_add, Nat.pow_add, Nat.mul_assoc, Nat.mod_mul_right_div_self,
    Nat.mod_mul_right_mod]

/-! ## Decimal digits (R12, R80) -/

theorem digitsVal_append (l : List (BitVec 4)) (d : BitVec 4) : digitsVal (l ++ [d]) = 10 * digitsVal l + d.toNat := by simp [digitsVal]

/-- The last n decimal digits of a number: n digits, each at most 9, with the value modulo 10^n. -/
theorem digitsOf_spec (n v : Nat) : (digitsOf n v).length = n ∧ (∀ d ∈ digitsOf n v, d.toNat ≤ 9) ∧ digitsVal (digitsOf n v) = v % 10 ^ n := by
  induction n generalizing v with
  | zero => exact ⟨rfl, by simp [digitsOf], (Nat.mod_one v).symm⟩
  | succ n ih =>
    obtain ⟨hlen, hdigits, hval⟩ := ih (v / 10)
    have hlast : (BitVec.ofNat 4 (v % 10)).toNat = v % 10 := by
      rw [BitVec.toNat_ofNat]
      omega
    rw [digitsOf]
    refine ⟨by simp [hlen], fun d hd => ?_, ?_⟩
    · rcases List.mem_append.1 hd with hd | hd
      · exact hdigits d hd
      · rw [List.mem_singleton.1 hd, hlast]
        omega
    · rw [digitsVal_append, hval, hlast, Nat.pow_succ', Nat.mod_mul, Nat.add_comm]

/-- A value as a packed word: its magnitude modulo 10^17, and the sign of R80. -/
theorem packedAs_packInt (v : Int) : PackedAs (posList (packInt v)) 17 v.natAbs (signOf 17 v.natAbs (decide (v < 0))) := by
  obtain ⟨hlen, hdigits, hval⟩ := digitsOf_spec 17 (v.natAbs % 10 ^ 17)
  have hfield : posList (packInt v) = digitsOf 17 (v.natAbs % 10 ^ 17) ++ [signOf 17 v.natAbs (decide (v < 0))] :=
    posList_wordOfPos (by rw [packedField, List.length_append, show (fitDec 17 (decide (v < 0)) v.natAbs).mag = v.natAbs % 10 ^ 17 from rfl, hlen]; rfl)
  rw [hfield, PackedAs, List.dropLast_concat, List.getLastD_concat, hval, Nat.mod_mod]
  exact ⟨by rw [List.length_append, hlen]; rfl, hdigits, rfl, rfl⟩

/-! ## Words of the ledger -/

theorem toNat_plainAddr {off : Nat} (h : off < 2 ^ 48) : (plainAddr off).toNat = 2 ^ 48 + off := by
  rw [plainAddr, BitVec.toNat_ofNat]
  omega

theorem plainAddr_inj {a b : Nat} (ha : a < 2 ^ 48) (hb : b < 2 ^ 48) : plainAddr a = plainAddr b ↔ a = b := by
  rw [← BitVec.toNat_inj, toNat_plainAddr ha, toNat_plainAddr hb, Nat.add_left_cancel_iff]

/-- A word stored whole. -/
theorem State.data_putWord {s : State} (h : s.Inv) (pa : WAddr) (v : Word) (a : WAddr) : (s.putWord pa v).data a = if a = pa then v else s.data a := by
  rw [State.putWord, State.data_putMasked h fun _ => rfl, merge_maskAll]

/-- A word written only where it is new reads as it would were it stored. -/
theorem State.data_putNew {s : State} (h : s.Inv) (pa : WAddr) (v : Word) (a : WAddr) : (s.putNew pa v).data a = if a = pa then v else s.data a := by
  unfold State.putNew
  split
  · exact State.data_putWord h pa v a
  · next hsame =>
    rw [Bool.or_eq_true, not_or, bne_iff_ne, not_not] at hsame
    split
    · next ha => rw [ha, hsame.2]
    · rfl

theorem State.Inv.putNew {s : State} (h : s.Inv) (pa : WAddr) (v : Word) : (s.putNew pa v).Inv := (State.putNew_kept pa v (Kept.refl s)).2 h

/-! ## An accepted leg (R212) -/

section
variable {s : State} {seq : BitVec 48} {e : LegEnt}

theorem State.cellWords_lseq (s : State) (i : Nat) : (s.cellWords i).lseq = s.data (s.cellAddr i 2) := rfl

theorem State.applyEnt_remote (h : e.rem = true) : s.applyEnt seq e = s := by rw [State.applyEnt, if_pos h]

section
variable (hrem : e.rem = false) (hsound : (s.cell (s.cellAddr e.ci 2)).bad = false)
include hrem hsound

/-- A cell whose LSEQ has reached the number was changed before. -/
theorem State.applyEnt_applied (hop : e.op ≠ 2) (hseq : seq.toNat ≤ (bits (s.data (s.cellAddr e.ci 2)) 24 48).toNat) : s.applyEnt seq e = s := by
  have hdone : (!(s.cell (s.cellAddr e.ci 2)).bad && decide (seq.toNat ≤ (bits (s.cellWords e.ci).lseq 24 48).toNat)) = true := by
    rw [hsound, State.cellWords_lseq, decide_eq_true hseq]
    rfl
  rw [State.applyEnt, if_neg (by rw [hrem]; exact Bool.false_ne_true), if_neg hop]
  exact if_pos hdone

/-- An amount leg writes BAL and LSEQ. -/
theorem State.applyEnt_amount (hop : e.op = 0) (hseq : (bits (s.data (s.cellAddr e.ci 2)) 24 48).toNat < seq.toNat) :
    s.applyEnt seq e = (s.putNew (s.cellAddr e.ci 2) (at' seq 24 ||| (bits (s.data (s.cellAddr e.ci 2)) 0 24 + 1).setWidth 72)).putNew
      (s.cellAddr e.ci 0) (packInt e.newBal) := by
  have hlater : (!(s.cell (s.cellAddr e.ci 2)).bad && decide (seq.toNat ≤ (bits (s.cellWords e.ci).lseq 24 48).toNat)) = false := by
    rw [State.cellWords_lseq, decide_eq_false (Nat.not_le.2 hseq), Bool.and_false]
  have hbase : s.countBase seq e.ci = (s.data (s.cellAddr e.ci 2), s) := by
    rw [State.countBase, hsound, Bool.false_and]
    rfl
  rw [State.applyEnt, if_neg (by rw [hrem]; exact Bool.false_ne_true), if_neg (by rw [hop]; decide)]
  dsimp only
  rw [hlater, if_neg Bool.false_ne_true, hbase]
  dsimp only
  rw [State.putLeg, if_pos hop, LegEnt.onCell, if_pos hop]
  rfl

end

/-- The LSEQ word of a cell: the number of its last posting, and the count of postings (R141). -/
theorem lseqWord_fields (seq : BitVec 48) (k : BitVec 24) :
    bits (at' seq 24 ||| k.setWidth 72) 24 48 = seq ∧ bits (at' seq 24 ||| k.setWidth 72) 0 24 = k := by
  constructor
  · refine eq_of_bits fun i hi => ?_
    have hk : bit k (24 + i) = false := bit_of_ge k (by omega)
    simp [bit_bits, bit_or, bit_at', bit_setWidth, hi, hk, show 24 + i < 72 by omega]
  · refine eq_of_bits fun i hi => ?_
    simp [bit_bits, bit_or, bit_at', bit_setWidth, hi, Nat.not_le.2 hi, show i < 72 by omega]

end

/-- Settles O35: an amount leg writes BAL and LSEQ, two of the four words of the cell, and the other legs write nothing here. -/
theorem acceptedLegsChangeTheirCells : Obligations.AcceptedLegsChangeTheirCells := by
  unfold Obligations.AcceptedLegsChangeTheirCells
  intro s seq e a l hinv hfits hsound u
  refine ⟨State.applyEnt_remote, fun hrem hop hseq => State.applyEnt_applied hrem (hsound 2 (by decide)) hop hseq, fun hrem hop hseq => ?_⟩
  have hne (j k : Nat) (hj : j < 4) (hk : k < 4) (h : j ≠ k) : a j ≠ a k := fun he =>
    h (Nat.add_left_cancel ((plainAddr_inj (by omega) (by omega)).1 he))
  have hdata (x : WAddr) : u.data x =
      if x = a 0 then packInt e.newBal else if x = a 2 then at' seq 24 ||| (bits l 0 24 + 1).setWidth 72 else s.data x := by
    show (s.applyEnt seq e).data x = _
    rw [State.applyEnt_amount hrem (hsound 2 (by decide)) hop hseq, State.data_putNew (hinv.putNew _ _), State.data_putNew hinv]
  have hlseq : u.data (a 2) = at' seq 24 ||| (bits l 0 24 + 1).setWidth 72 := by
    rw [hdata, if_neg (hne 2 0 (by decide) (by decide) (by decide)), if_pos rfl]
  obtain ⟨hnumber, hcount⟩ := lseqWord_fields seq (bits l 0 24 + 1)
  refine ⟨?_, ?_, ?_, hlseq ▸ hnumber, hlseq ▸ hcount, fun x hx => ?_⟩
  · rw [hdata, if_pos rfl]
    exact packedAs_packInt e.newBal
  · rw [hdata, if_neg (hne 1 0 (by decide) (by decide) (by decide)), if_neg (hne 1 2 (by decide) (by decide) (by decide))]
  · rw [hdata, if_neg (hne 3 0 (by decide) (by decide) (by decide)), if_neg (hne 3 2 (by decide) (by decide) (by decide))]
  · rw [hdata, if_neg (hx 0 (by decide)), if_neg (hx 2 (by decide))]

end Sys2Proof.Machine
end

section
/-! Words of the journal ring (R175, R176), and how they reach the twin (R204, R209, R210). -/

namespace Sys2Proof.Machine

/-! ## What streaming changes -/

/-- Nothing differs but the frames that went out on the twin links, and what waits to. -/
def StreamsOnly (s u : State) : Prop :=
  u = { s with ws := { s.ws with links := u.ws.links, txq := u.ws.txq, txLink := u.ws.txLink, queue := u.ws.queue, out := u.ws.out } }

namespace StreamsOnly

variable {s t u : State}

theorem refl (s : State) : StreamsOnly s s := rfl

theorem trans (h : StreamsOnly s t) (k : StreamsOnly t u) : StreamsOnly s u :=
  Eq.trans k (congrArg (fun x : State =>
    { x with ws := { x.ws with links := u.ws.links, txq := u.ws.txq, txLink := u.ws.txLink, queue := u.ws.queue, out := u.ws.out } }) h)

theorem mem (h : StreamsOnly s u) : u.mem = s.mem := by rw [h]
theorem cores (h : StreamsOnly s u) : u.cores = s.cores := by rw [h]
theorem applied (h : StreamsOnly s u) : u.applied = s.applied := by rw [h]
theorem led (h : StreamsOnly s u) : u.led = s.led := by rw [h]
theorem role (h : StreamsOnly s u) : u.ws.role = s.ws.role := by rw [h]
theorem ahor (h : StreamsOnly s u) : u.ws.ahor = s.ws.ahor := by rw [h]

end StreamsOnly

theorem State.sendFrame_streams (s : State) (l : Fin 2) (kind : BitVec 4) (pos : BitVec 16) (words : List Word) :
    StreamsOnly s (s.sendFrame l kind pos words) := by
  unfold State.sendFrame
  split <;> rfl

theorem State.pumpStream_streams (s : State) (k : Nat) : StreamsOnly s (s.pumpStream k) := by
  induction k generalizing s with
  | zero => rfl
  | succ k ih =>
    unfold State.pumpStream
    split
    · rfl
    · next p n r _ =>
      split
      · exact StreamsOnly.trans (t := { s with ws := { s.ws with txq := r } }) rfl (ih _)
      · split
        · rfl
        · next l _ =>
          refine StreamsOnly.trans ?_ (ih _)
          refine StreamsOnly.trans (State.sendFrame_streams s l 1 (BitVec.ofNat 16 (s.frameStart p (min 6 n)))
            (s.ringWords (s.frameStart p (min 6 n)) 6)) ?_
          rfl

theorem State.pumpQueue_streams (s : State) (k : Nat) : StreamsOnly s (s.pumpQueue k) := by
  induction k generalizing s with
  | zero => rfl
  | succ k ih =>
    unfold State.pumpQueue
    split
    · next f r _ _ _ =>
      split
      · exact (StreamsOnly.trans (t := { s with ws := { s.ws with queue := r } }) rfl (State.sendFrame_streams _ _ _ _ _)).trans (ih _)
      · rfl
    · rfl

theorem State.pump_streams (s : State) : StreamsOnly s s.pump := (State.pumpStream_streams s _).trans (State.pumpQueue_streams _ _)

/-- Ring words are written here, and what goes to the twin changes nothing else (R204). -/
theorem State.writeRing_streams (s : State) (p : Nat) (ws : List Word) : StreamsOnly (s.putRing p ws) (s.writeRing p ws) := by
  unfold State.writeRing
  dsimp only
  split
  · refine StreamsOnly.trans ?_ (State.pump_streams _)
    rfl
  · rfl

/-! ## Ring words (R176) -/

/-- The stores of ring words from a position on. -/
def State.ringStores (s : State) (p : Nat) (ws : List Word) : List (WAddr × BitVec 18 × Word) :=
  (ws.zipIdx p).map fun x => (s.ringAddr x.2, maskAll, x.1)

theorem State.putRing_eq_putAll (s : State) (p : Nat) (ws : List Word) : s.putRing p ws = s.putAll (s.ringStores p ws) := by
  induction ws generalizing s p with
  | nil => rfl
  | cons v r ih => exact ih (s.putWord (s.ringAddr p) v) (p + 1)

theorem State.putRing_eq_withMem (s : State) (p : Nat) (ws : List Word) : s.putRing p ws = { s with mem := (s.putRing p ws).mem } := by
  induction ws generalizing s p with
  | nil => rfl
  | cons v r ih => exact ih (s.putWord (s.ringAddr p) v) (p + 1)

theorem State.writeRing_applied (s : State) (p : Nat) (ws : List Word) : (s.writeRing p ws).applied = s.applied := by
  rw [(s.writeRing_streams p ws).applied, State.putRing_eq_withMem]

theorem State.writeRing_cores (s : State) (p : Nat) (ws : List Word) : (s.writeRing p ws).cores = s.cores := by
  rw [(s.writeRing_streams p ws).cores, State.putRing_eq_withMem]

theorem State.writeRing_led (s : State) (p : Nat) (ws : List Word) : (s.writeRing p ws).led = s.led := by
  rw [(s.writeRing_streams p ws).led, State.putRing_eq_withMem]

theorem State.ringAddr_inj {s : State} (h : s.ringFits) (p q : Nat) :
    s.ringAddr p = s.ringAddr q ↔ p % 2 ^ s.applied.jnRingLog2.toNat = q % 2 ^ s.applied.jnRingLog2.toNat := by
  have hp := Nat.mod_lt p (Nat.two_pow_pos s.applied.jnRingLog2.toNat)
  have hq := Nat.mod_lt q (Nat.two_pow_pos s.applied.jnRingLog2.toNat)
  obtain ⟨_, hend⟩ := h
  rw [State.ringAddr, State.ringAddr, plainAddr_inj (by omega) (by omega), Nat.add_left_cancel_iff]

/-- Words that fit in the ring stand at distinct addresses. -/
theorem State.takesAll_ringStores {s : State} (hinv : s.Inv) (hfits : s.ringFits) {ws : List Word}
    (hlen : ws.length ≤ 2 ^ s.applied.jnRingLog2.toNat) (p : Nat) : s.takesAll (s.ringStores p ws) := by
  refine ⟨hinv, ?_, fun x hx _ => ?_⟩
  · have haddrs : (s.ringStores p ws).map (fun x => x.1) = (List.range' p ws.length).map s.ringAddr := by
      rw [State.ringStores, List.map_map, ← List.zipIdx_map_snd p ws, List.map_map]
      rfl
    rw [haddrs]
    refine List.Nodup.map_on (fun i hi j hj he => ?_) List.nodup_range'
    rw [List.mem_range'_1] at hi hj
    exact (Nat.ModEq.eq_of_abs_lt ((State.ringAddr_inj hfits i j).1 he) (by rw [abs_lt]; omega))
  · obtain ⟨y, _, rfl⟩ := List.mem_map.1 hx
    rfl

/-- Words stand in the ring from a position on, and every other word of memory is as it was. -/
def RingHolds (s u : State) (p : Nat) (ws : List Word) : Prop :=
  (∀ i : Nat, i < ws.length → u.ringWord (p + i) = ws.getD i 0) ∧
    ∀ a, (∀ i : Nat, i < ws.length → a ≠ s.ringAddr (p + i)) → u.data a = s.data a

theorem State.writeRing_holds {s u : State} (hinv : s.Inv) (hfits : s.ringFits) {p : Nat} {ws : List Word}
    (hlen : ws.length ≤ 2 ^ s.applied.jnRingLog2.toNat) (hmem : u.mem = (s.writeRing p ws).mem) (happlied : u.applied = s.applied) :
    RingHolds s u p ws := by
  have htakes := State.takesAll_ringStores hinv hfits hlen p
  have hdata (a : WAddr) : u.data a = (s.putAll (s.ringStores p ws)).data a := by
    rw [← State.putRing_eq_putAll]
    exact congrArg MCell.data (State.cell_congr (hmem.trans (s.writeRing_streams p ws).mem) a)
  refine ⟨fun i hi => ?_, fun a ha => ?_⟩
  · have haddr : u.ringAddr (p + i) = s.ringAddr (p + i) := by rw [State.ringAddr, happlied, State.ringAddr]
    rw [State.ringWord, haddr, hdata, List.getD_eq_getElem _ _ hi]
    exact State.data_putAll_maskAll htakes (List.mem_map.2 ⟨(ws[i], p + i), List.mk_add_mem_zipIdx_iff_getElem?.2 (List.getElem?_eq_getElem hi), rfl⟩)
  · rw [hdata]
    refine State.data_putAll_other htakes fun x hx => ?_
    obtain ⟨⟨v, q⟩, hy, rfl⟩ := List.mem_map.1 hx
    obtain ⟨hle, hlt, _⟩ := List.mem_zipIdx hy
    obtain ⟨i, rfl⟩ := Nat.exists_eq_add_of_le hle
    exact ha i (by omega)

end Sys2Proof.Machine
end

section
/-! Record digests and block trailers (R173, R186, R194-R196). -/

namespace Sys2Proof.Machine

/-! ## What the two commands share with the rest of the ledger -/

/-- A list with the elements replaced that meet a proposition. -/
theorem mapIf_eq_map {α : Type} {p : α → Bool} {P : α → Prop} [DecidablePred P] (h : ∀ x, p x = true ↔ P x) (f : α → α) (l : List α) :
    mapIf p f l = l.map fun x => if P x then f x else x := by
  simp only [mapIf, h]

/-- An element of a list with some replaced is replaced, or one that was not picked. -/
theorem exists_of_mem_mapIf {α : Type} {p : α → Bool} {f : α → α} {l : List α} {x : α} (h : x ∈ mapIf p f l) :
    ∃ y ∈ l, (p y = true ∧ x = f y) ∨ (p y = false ∧ x = y) := by
  obtain ⟨y, hy, rfl⟩ := List.mem_map.1 h
  refine ⟨y, hy, ?_⟩
  cases p y
  · exact .inr ⟨rfl, rfl⟩
  · exact .inl ⟨rfl, rfl⟩

theorem State.backlogged_of_full {s : State} (h : s.hashBacklog = 4096) : s.backlogged = true := decide_eq_true h.ge

theorem State.backlogged_of_lt {s : State} (h : s.hashBacklog < 4096) : s.backlogged = false := decide_eq_false (Nat.not_le.2 h)

theorem State.releaseDecisions_none {s : State} (h : s.led.decisions = []) : s.releaseDecisions = s := by
  rw [State.releaseDecisions, h]
  rfl

theorem State.leads_iff (s : State) : s.leads = true ↔ s.ws.role = 1 ∨ s.ws.role = 3 := by simp [State.leads]

/-! ## RECORD_HASH (R173, R194) -/

/-- A record of the ring with its digest known. -/
def State.digested (s : State) (r : Rec) : State := { s with led := { s.led with
  recs := s.led.recs.map fun x => if x.trailer = false ∧ x.seq = r.seq then { x with digest := some (sha256 (serialise (s.ringWords r.pos.toNat r.len))) }
    else x } }

theorem exec_recordHash {s : State} {r : Rec} (h : s.led.recs.find? (fun r => !r.trailer && r.digest.isNone && s.recDurable r) = some r) :
    exec .recordHash s = .next (if (s.digested r).backlogged then s.digested r else (s.digested r).clearStall.releaseDecisions) := by
  show execRecordHash s = _
  simp only [execRecordHash, h]
  rw [mapIf_eq_map (P := fun x : Rec => x.trailer = false ∧ x.seq = r.seq) (by simp)]
  rfl

/-! ## BLOCK_TRAILER (R186, R195, R196) -/

/-- A digest reads back from its four words. -/
theorem digestOf_digestWords (d : BitVec 256) : digestOf (digestWords d) = d := by
  have hwords : digestWords d = [at' (bits d 192 64) 8, at' (bits d 128 64) 8, at' (bits d 64 64) 8, at' (bits d 0 64) 8] := rfl
  have hword (v : BitVec 64) : bits (at' v 8) 8 64 = v := eq_of_bits fun i hi => by simp [bit_bits, bit_at', hi, show 8 + i < 72 by omega]
  simp only [hwords, digestOf, List.foldl, hword]
  refine eq_of_bits fun i hi => ?_
  simp only [bit_or, bit_shiftLeft, bit_setWidth, bit_bits]
  grind

/-- Ring words read from a position are those that stand there. -/
theorem State.ringWords_eq {u : State} {p k : Nat} {l : List Word} (hlen : l.length = k) (h : ∀ i : Nat, i < k → u.ringWord (p + i) = l.getD i 0) :
    u.ringWords p k = l := by
  refine List.ext_getElem (by simp [State.ringWords, hlen]) fun i hi hl => ?_
  simp only [State.ringWords, List.getElem_map, List.getElem_range]
  rw [h i (by omega), List.getD_eq_getElem _ _ hl]

theorem State.prevDigest_of_trailer {u : State} {p : BitVec 64} (h : u.led.lastTrailer = some p) :
    u.prevDigest = digestOf (u.ringWords (p.toNat + 4) 4) := by rw [State.prevDigest, h]

/-- Words T0 to T3 of the trailer of a block written now. -/
def State.headOf (s : State) (t : Rec) : List Word := trailerHead (blockOf t.seq) s.ws.term (s.timeAt s.now)

/-- The digest of a block whose trailer is written now. -/
def State.digestOfBlock (s : State) (t : Rec) : BitVec 256 :=
  blockDigest ((s.led.recs.filter fun r => !r.trailer && blockOf r.seq == blockOf t.seq).filterMap (·.digest)) (s.headOf t) s.prevDigest

/-- The trailer of a block: its head, its digest, and the digest of the block before (R186, R195). -/
def State.trailerWords (s : State) (t : Rec) : List Word := s.headOf t ++ digestWords (s.digestOfBlock t) ++ digestWords s.prevDigest

theorem State.length_trailerWords (s : State) (t : Rec) : (s.trailerWords t).length = 12 := rfl

/-- A trailer that stands in the ring noted as written (R176, R196). -/
def State.noteTrailer (v : State) (t : Rec) : State :=
  ({ v with led := { v.led with
      recs := mapIf (fun r => r.trailer && r.seq == t.seq) (fun r => { r with written := true }) v.led.recs, lastTrailer := some t.pos } } : State).settleDpos

theorem State.noteTrailer_mem (v : State) (t : Rec) : (v.noteTrailer t).mem = v.mem := rfl
theorem State.noteTrailer_applied (v : State) (t : Rec) : (v.noteTrailer t).applied = v.applied := rfl
theorem State.noteTrailer_cores (v : State) (t : Rec) : (v.noteTrailer t).cores = v.cores := rfl
theorem State.noteTrailer_lastTrailer (v : State) (t : Rec) : (v.noteTrailer t).led.lastTrailer = some t.pos := rfl

/-- The state once the trailer of a block is written (R196). -/
def State.trailed (s : State) (t : Rec) : State := (s.writeRing t.pos.toNat (s.trailerWords t)).noteTrailer t

section
variable {s : State} {t : Rec}

theorem exec_blockTrailer (h : s.led.recs.find? (fun r => r.trailer && !r.written) = some t) (hlead : s.ws.role = 1 ∨ s.ws.role = 3)
    (hlen : (s.led.recs.filter fun r => !r.trailer && blockOf r.seq == blockOf t.seq).length = 64)
    (hready : ∀ r ∈ s.led.recs.filter fun r => !r.trailer && blockOf r.seq == blockOf t.seq, r.digest.isSome = true ∧ s.recDurable r = true) :
    exec .blockTrailer s = .next (s.trailed t) := by
  have hall : ((s.led.recs.filter fun r => !r.trailer && blockOf r.seq == blockOf t.seq).all fun r => r.digest.isSome && s.recDurable r) = true :=
    List.all_eq_true.2 fun r hr => Bool.and_eq_true_iff.2 (hready r hr)
  show execBlockTrailer s = _
  simp only [execBlockTrailer, h]
  rw [if_neg (by rw [hall, hlen, s.leads_iff.2 hlead]; decide)]
  rfl

theorem State.trailed_holds (hinv : s.Inv) (hfits : s.ringFits) (hroom : 12 ≤ 2 ^ s.applied.jnRingLog2.toNat) :
    RingHolds s (s.trailed t) t.pos.toNat (s.trailerWords t) :=
  State.writeRing_holds hinv hfits hroom (State.noteTrailer_mem _ t) ((State.noteTrailer_applied _ t).trans (s.writeRing_applied _ _))

/-- The chain goes on from the digest that the trailer holds (R195). -/
theorem State.trailed_prevDigest (h : RingHolds s (s.trailed t) t.pos.toNat (s.trailerWords t)) :
    (s.trailed t).prevDigest = s.digestOfBlock t := by
  rw [State.trailed, State.prevDigest_of_trailer (State.noteTrailer_lastTrailer _ t), ← State.trailed,
    State.ringWords_eq (k := 4) (l := digestWords (s.digestOfBlock t)) rfl fun i hi => ?_,
    digestOf_digestWords]
  rw [Nat.add_assoc, h.1 (4 + i) (by rw [State.length_trailerWords]; omega), State.trailerWords, List.append_assoc,
    List.getD_append_right _ _ _ _ (Nat.le_add_right 4 i), show (s.headOf t).length = 4 from rfl, Nat.add_sub_cancel_left,
    List.getD_append _ _ _ _ hi]

end

/-- Settles O37: a hashed record lets the sequencer go on, and a trailer stands in the ring with the digest from which the next block chains. -/
theorem recordsAndBlocksAreHashed : Obligations.RecordsAndBlocksAreHashed := by
  unfold Obligations.RecordsAndBlocksAreHashed
  intro s r
  constructor
  · intro hfind t
    have hexec : exec .recordHash s = .next (if t.backlogged then t else t.clearStall.releaseDecisions) := exec_recordHash hfind
    rw [hexec]
    refine ⟨fun hfull => congrArg _ (if_pos (State.backlogged_of_full hfull)), fun hbelow hnone => congrArg _ ?_⟩
    exact (if_neg (by rw [State.backlogged_of_lt hbelow]; exact Bool.false_ne_true)).trans (State.releaseDecisions_none hnone)
  · intro hinv hfind hlead b rs hlen hready hlog hend hroom head d ws
    have hholds := State.trailed_holds hinv ⟨hlog, hend⟩ hroom (t := r)
    exact ⟨s.trailed r, exec_blockTrailer hfind hlead hlen hready, State.trailed_prevDigest hholds, State.noteTrailer_lastTrailer _ r,
      (State.noteTrailer_cores _ r).trans (s.writeRing_cores _ _), hholds.1, hholds.2⟩

end Sys2Proof.Machine
end

section
/-! The decision on a posting, and its record (R151 stage 6, R179-R183). -/

namespace Sys2Proof.Machine

/-! ## The outcome of the legs (R151, R152) -/

/-- The posting is accepted with every status zero, or rejected with the lowest that is not. -/
def LegsGive (sts : List (BitVec 8)) (st : BitVec 8) (leg : BitVec 4) : Prop :=
  (∀ x ∈ sts, x = 0) ∧ st = 0 ∧ leg = 0 ∨
    (∃ k : Nat, k < sts.length ∧ (∀ j : Nat, j < k → sts.getD j 0 = 0) ∧ sts.getD k 0 = st ∧ st ≠ 0 ∧ leg = BitVec.ofNat 4 k)

theorem firstFail_getD_of_legsGive {sts : List (BitVec 8)} {st : BitVec 8} {leg : BitVec 4} (h : LegsGive sts st leg) :
    (firstFail sts).getD (0, 0) = (st, leg) := by
  obtain ⟨hall, rfl, rfl⟩ | ⟨k, hk, hbefore, hat, hne, rfl⟩ := h
  · rw [firstFail_eq_none hall]
    rfl
  · rw [firstFail_eq_some hk hbefore (hat ▸ hne), Option.getD_some, hat]

section
variable {s : State} {f : Flight} {st : BitVec 8} {leg : BitVec 4}

theorem State.outcome_of_legs (hearly : f.early = none) (hres : ∀ l ∈ f.legs, l.res.isSome = true)
    (h : LegsGive (f.legs.map (legStatus s.applied.lbPair f.legs)) st leg) : s.outcome f = some (st, leg) := by
  rw [State.outcome, hearly]
  dsimp only
  rw [if_pos (List.all_eq_true.2 hres), firstFail_getD_of_legsGive h]

theorem LegsGive.leg_of_accepted {sts : List (BitVec 8)} (h : LegsGive sts 0 leg) : leg = 0 := by
  obtain ⟨_, _, hleg⟩ | ⟨_, _, _, _, hne, _⟩ := h
  · exact hleg
  · exact absurd rfl hne

/-! ## The record (R179-R183, R188) -/

/-- The record of a posting of this pair alone, from a module that leads with a twin. -/
theorem State.recordWords_posting (hrole : s.ws.role = 1) (hkind : f.kind = .posting) (hprepare : f.prepare = false) (hearly : f.early = none)
    (hhome : f.req.home = none) (hleg : st = 0 → leg = 0) : s.recordWords f st leg =
      [at' (if st = 0 then (1 : BitVec 4) else 2) 68 ||| at' (BitVec.ofNat 4 (f.req.count - 1)) 64 ||| at' st 56 ||| at' leg 52 ||| flagAt f.xp 50 |||
          at' f.seq 0, at' f.req.ref 8, at' (bits f.req.head 48 16) 56 ||| at' (bits f.req.head 0 48) 8,
        at' (if s.led.lastTime.toNat < s.now.toNat then s.now else s.led.lastTime) 8] ++
      f.legs.flatMap fun l => if st = 0 then (l.ent s.applied.lbPair).words else [setBits l.l0 0 8 (legStatus s.applied.lbPair f.legs l), l.l1] := by
  have hheader (type : BitVec 4) (n : Nat) (st : BitVec 8) (leg : BitVec 4) : recHeader type n st leg false f.xp false f.seq =
      at' type 68 ||| at' (BitVec.ofNat 4 n) 64 ||| at' st 56 ||| at' leg 52 ||| flagAt f.xp 50 ||| at' f.seq 0 := by simp [recHeader, flagAt]
  have hsolo : (s.ws.role == 3) = false := by rw [hrole]; rfl
  by_cases hst : st = 0
  · subst hst
    obtain rfl := hleg rfl
    simp only [State.recordWords, hkind, hsolo, hhome, hprepare, State.recTime, State.timeAt, PostReq.w2, if_true, Option.isSome_none, hheader,
      Bool.false_eq_true, if_false]
  · simp only [State.recordWords, hkind, hsolo, hhome, hearly, State.recTime, State.timeAt, PostReq.w2, if_neg hst, Option.isSome_none, hheader,
      Bool.false_eq_true, if_false]

/-! ## POSTING_DECISION -/

/-- What the module keeps of a decided posting, without a solo grant, once its record stands in the ring (R151). -/
def State.noteDecided (v : State) (f : Flight) (st : BitVec 8) (leg : BitVec 4) (time : BitVec 64) : State :=
  { v with led := { v.led with
      flights := mapIf (fun g => g.seq == f.seq) (fun g => { g with decided := some (st, leg), solo := false }) v.led.flights,
      recs := mapIf (fun r => !r.trailer && r.seq == f.seq) (fun r => { r with written := true }) v.led.recs, lastTime := time } }

theorem State.noteDecided_flights (v : State) (f : Flight) (st : BitVec 8) (leg : BitVec 4) (time : BitVec 64) :
    (∀ g ∈ (v.noteDecided f st leg time).led.flights, g.seq = f.seq → g.decided = some (st, leg)) ∧
      (v.noteDecided f st leg time).led.flights.map (fun g => (g.seq, g.legs)) = v.led.flights.map (fun g => (g.seq, g.legs)) := by
  refine ⟨fun g hg hseq => ?_, ?_⟩
  · obtain ⟨x, _, ⟨_, rfl⟩ | ⟨hother, rfl⟩⟩ := exists_of_mem_mapIf hg
    · rfl
    · exact absurd hseq (beq_eq_false_iff_ne.1 hother)
  · rw [State.noteDecided, mapIf, List.map_map]
    refine List.map_congr_left fun x _ => ?_
    rw [Function.comp_apply]
    split <;> rfl

theorem State.noteDecided_recs (v : State) (f : Flight) (st : BitVec 8) (leg : BitVec 4) (time : BitVec 64) :
    ∀ r ∈ (v.noteDecided f st leg time).led.recs, r.trailer = false → r.seq = f.seq → r.written = true := by
  intro r hr htrailer hseq
  obtain ⟨x, _, ⟨_, rfl⟩ | ⟨hother, rfl⟩⟩ := exists_of_mem_mapIf hr
  · rfl
  · rw [htrailer, hseq, beq_self_eq_true] at hother
    exact absurd hother (by decide)

/-- The decision on a posting of one pair whose record is not yet durable as it is written (R151). -/
theorem exec_postingDecision (hfind : s.led.flights.find? (fun f => f.decided.isNone) = some f) (hout : s.outcome f = some (st, leg))
    (hrole : s.ws.role = 1) (hkind : f.kind = .posting) (hprepare : f.prepare = false) :
    exec .postingDecision s = .next ((s.writeRing f.pos.toNat (s.recordWords f st leg)).noteDecided f st leg (s.recTime f)) := by
  have hsolo : ((s.writeRing f.pos.toNat (s.recordWords f st leg)).ws.role == 3) = false := by
    rw [(s.writeRing_streams _ _).role, State.putRing_eq_withMem, hrole]
    rfl
  show execPostingDecision s = _
  simp only [execPostingDecision, hfind, hout, hsolo, hkind, hprepare, Bool.false_and, Bool.false_eq_true, if_false, List.append_nil]
  rfl

end

/-- Settles O34: the outcome is the one that the legs give, and its record is what the decision writes to the ring. -/
theorem decisionsAreRecorded : Obligations.DecisionsAreRecorded := by
  unfold Obligations.DecisionsAreRecorded
  intro s f st leg hinv hrole hfind hkind hprepare hearly hhome hres sts hgive ws hlog hend hroom
  have hwords : s.recordWords f st leg = ws :=
    State.recordWords_posting hrole hkind hprepare hearly hhome fun hst => LegsGive.leg_of_accepted (hst ▸ hgive)
  have hexec := exec_postingDecision hfind (State.outcome_of_legs hearly hres hgive) hrole hkind hprepare
  rw [hwords] at hexec
  have hholds : RingHolds s ((s.writeRing f.pos.toNat ws).noteDecided f st leg (s.recTime f)) f.pos.toNat ws :=
    State.writeRing_holds hinv ⟨hlog, hend⟩ hroom rfl (s.writeRing_applied f.pos.toNat ws)
  obtain ⟨hdecided, hlegs⟩ := (s.writeRing f.pos.toNat ws).noteDecided_flights f st leg (s.recTime f)
  refine ⟨_, hexec, s.writeRing_cores _ _, ?_, hholds.1, hholds.2, hdecided, ?_, State.noteDecided_recs _ f st leg _⟩
  · exact (s.writeRing_streams _ _).ahor.trans (by rw [State.putRing_eq_withMem])
  · rw [hlegs, s.writeRing_led]

end Sys2Proof.Machine
end

section
/-! Decisions on prepared postings: their numbers (R173, R184, R188, R189), and what a raised bit of JN_EVT changes (R175). -/

namespace Sys2Proof.Machine

/-! ## Sources and JN_EVT -/

theorem State.raise_eq_withSrcs (s : State) (k : Nat) : s.raise k = { s with srcs := (s.raise k).srcs } := by
  unfold State.raise
  split
  · split <;> rfl
  · rfl

theorem State.setJnEvt_eq (s : State) (k : Nat) :
    s.setJnEvt k = { s with srcs := (s.setJnEvt k).srcs, led := { s.led with evt := setBit s.led.evt k true } } := by
  unfold State.setJnEvt
  conv_lhs => rw [State.raise_eq_withSrcs]

/-- Nothing differs but JN_EVT and the sources that its bits raise. -/
def NotesOnly (s u : State) : Prop := u = { s with srcs := u.srcs, led := { s.led with evt := u.led.evt } }

theorem State.noteLow_notes (s t : State) : NotesOnly t (s.noteLow t) := by
  unfold State.noteLow
  split
  · rw [NotesOnly, State.setJnEvt_eq]
  · rfl

theorem State.noteStall_eq (s : State) : s.noteStall = if s.led.stalled then s else
    ({ s with led := { s.led with stalled := true, evt := setBit s.led.evt 3 true } } : State).raise 208 := rfl

/-! ## A decision takes its number, or waits -/

theorem charge_four (q : BitVec 48) : charge q 4 = if q.toNat % 64 = 0 then 16 else 4 := by
  unfold charge
  split <;> rfl

section
variable {s : State} {r : PostReq} {home : PairId} {n pseq : BitVec 48} {st : BitVec 8} {leg : BitVec 4}

/-- A decision in the list of those that wait. -/
def State.waitDec (s : State) (r : PostReq) (home : PairId) (n pseq : BitVec 48) (st : BitVec 8) (leg : BitVec 4) : WaitDec :=
  { req := { r with since := s.now }, home := home, n := n, pseq := pseq, status := st, leg := leg }

def State.withDecisions (s : State) (l : List WaitDec) : State := { s with led := { s.led with decisions := l } }

/-- Where no other decision waits, a decision waits for the backlog or the ring, or takes its number (R173, log 51). -/
theorem State.decision_eq (h : s.led.decisions = []) : let d := s.waitDec r home n pseq st leg
    s.decide_ r home n pseq st leg = if s.backlogged then (s.withDecisions [d]).noteStall
      else if s.ringFull (if s.led.seqNext.toNat % 64 = 0 then 16 else 4) then s.withDecisions [d] else (s.clearStall.withDecisions []).numberDecision d := by
  rw [← charge_four]
  unfold State.decide_
  dsimp only
  rw [h]
  rfl

theorem State.decision_waits (h : s.led.decisions = [])
    (hwait : s.hashBacklog = 4096 ∨ ¬s.ringFull (if s.led.seqNext.toNat % 64 = 0 then 16 else 4) = false) :
    let u := s.decide_ r home n pseq st leg
    u.led.decisions.length = 1 ∧ u.led.seqNext = s.led.seqNext ∧ u.led.flights = s.led.flights ∧ u.mem = s.mem := by
  have hstall (t : State) : t.noteStall.led.decisions = t.led.decisions ∧ t.noteStall.led.seqNext = t.led.seqNext ∧
      t.noteStall.led.flights = t.led.flights ∧ t.noteStall.mem = t.mem := by
    rw [State.noteStall_eq]
    split <;> simp
  rw [State.decision_eq h]
  cases hb : s.backlogged with
  | true =>
    obtain ⟨hdec, hseq, hflights, hmem⟩ := hstall (s.withDecisions [s.waitDec r home n pseq st leg])
    exact ⟨congrArg List.length hdec, hseq, hflights, hmem⟩
  | false =>
    rw [if_neg Bool.false_ne_true, if_pos]
    · exact ⟨rfl, rfl, rfl, rfl⟩
    · rcases hwait with hfull | hring
      · exact absurd (hb.symm.trans (State.backlogged_of_full hfull)) Bool.false_ne_true
      · exact Bool.eq_true_of_not_eq_false hring

theorem State.decision_numbered (h : s.led.decisions = []) (hbelow : s.hashBacklog < 4096)
    (hroom : s.ringFull (if s.led.seqNext.toNat % 64 = 0 then 16 else 4) = false) :
    let u := s.decide_ r home n pseq st leg
    u.led.seqNext = s.led.seqNext + 1 ∧ u.led.wpos = s.led.wpos + (if s.led.seqNext.toNat % 64 = 0 then 16 else 4) ∧ u.mem = s.mem ∧ u.lb = s.lb ∧
      u.led.parts = s.led.parts ∧
      ∃ f : Flight, u.led.flights = s.led.flights ++ [f] ∧ f.seq = s.led.seqNext ∧ f.kind = .decision home n (st == 0) ∧ f.decided = none := by
  rw [State.decision_eq h, State.backlogged_of_lt hbelow, hroom, if_neg Bool.false_ne_true, if_neg Bool.false_ne_true, State.numberDecision,
    State.noteLow_notes]
  refine ⟨rfl, ?_, rfl, rfl, rfl, _, rfl, rfl, rfl, rfl⟩
  show s.led.wpos + BitVec.ofNat 64 (charge s.led.seqNext 4) = _
  rw [charge_four]
  split <;> rfl

end

end Sys2Proof.Machine
end

section
/-! The coordinator of a posting that spans pairs (R164-R168). -/

namespace Sys2Proof.Machine

section
variable {s : State} {c : Coord} {src : PairId} {n : BitVec 48} {scales : List (BitVec 8)}

/-! ## Votes (R165, R168) -/

/-- The coordinator's entry with one more YES. -/
def Coord.withYes (c : Coord) (src : PairId) (scales : List (BitVec 8)) : Coord := { c with yes := c.yes ++ [(src, scales)] }

/-- Whether every pair has voted YES once `src` has. -/
def Coord.allYes (c : Coord) (src : PairId) (scales : List (BitVec 8)) : Bool :=
  c.pairs.all fun p => (c.yes ++ [(src, scales)]).any fun y => y.1 == p

/-- The pairs that have not voted YES. -/
def Coord.missing (c : Coord) : List PairId := c.pairs.filter fun p => !(c.yes.any fun y => y.1 == p)

theorem Coord.allYes_iff : c.allYes src scales = true ↔ ∀ p ∈ c.pairs, p = src ∨ ∃ y ∈ c.yes, y.1 = p := by
  simp only [Coord.allYes, List.all_eq_true, List.any_append, Bool.or_eq_true, List.any_eq_true, beq_iff_eq, List.mem_singleton, exists_eq_left]
  exact forall₂_congr fun p _ => by rw [or_comm, eq_comm]

/-- The coordinator collects votes, on a module that leads. -/
def State.collects (s : State) (c : Coord) : Prop := c.phase = 1 ∧ c.commit = none ∧ (s.ws.role = 1 ∨ s.ws.role = 3)

section
variable (hcoord : s.coordFor n = some c)
include hcoord

/-- The first YES of a pair is noted, and the last one decides: for commit, or for abort on a scale that differs (R168). -/
theorem exec_yes (hvoting : s.collects c) (hsrc : src ∈ c.pairs) (hnew : ∀ y ∈ c.yes, y.1 ≠ src) :
    let c' := c.withYes src scales
    let t := s.updCoord n fun _ => c'
    exec (.yes src n scales) s = .next (if c.allYes src scales then
      (c'.scaleClash s.applied.lbPair).elim (t.coordDecide c' 0 0 0) fun k => t.coordDecide c' 0x19 (BitVec.ofNat 4 k) 0 else t) := by
  obtain ⟨hphase, hcommit, hlead⟩ := hvoting
  have hlead' (c' : Coord) : (s.updCoord n fun _ => c').leads = true := s.leads_iff.2 hlead
  have happlied (c' : Coord) : (s.updCoord n fun _ => c').applied = s.applied := rfl
  have hopen : (c.phase != 1 || c.commit.isSome || !c.pairs.contains src || c.yes.any fun y => y.1 == src) = false := by
    simp only [hphase, hcommit, bne_self_eq_false, Option.isSome_none, List.contains_iff_mem.2 hsrc, Bool.not_true, Bool.false_or]
    exact List.any_eq_false.2 fun y hy => by simpa using hnew y hy
  show execYes src n scales s = _
  simp only [execYes, hcoord, hopen, Bool.false_eq_true, if_false, hlead', happlied, Bool.not_true, Bool.false_or]
  unfold Coord.withYes Coord.allYes
  generalize ({ c with yes := c.yes ++ [(src, scales)] } : Coord) = c'
  cases c.pairs.all fun p => (c.yes ++ [(src, scales)]).any fun y => y.1 == p with
  | false => rfl
  | true => cases c'.scaleClash s.applied.lbPair <;> rfl

theorem exec_no (hvoting : s.collects c) (hsrc : src ∈ c.pairs) (st : BitVec 8) :
    exec (.no src n st) s = .next (if 0x40 ≤ st.toNat ∧ st.toNat < 0x50 then s.coordDecide c 0x31 (lowestLeg c.legs [src]) 0
      else s.coordDecide c 0x24 (lowestLeg c.legs [src]) st) := by
  obtain ⟨hphase, hcommit, hlead⟩ := hvoting
  have hopen : (c.phase != 1 || c.commit.isSome || !c.pairs.contains src || !s.leads) = false := by
    simp [hphase, hcommit, hsrc, s.leads_iff.2 hlead]
  have hclass : bits st 4 4 = 4 ↔ 0x40 ≤ st.toNat ∧ st.toNat < 0x50 := by
    have hlt := st.isLt
    rw [← BitVec.toNat_inj, toNat_bits, show (4 : BitVec 4).toNat = 4 from rfl]
    omega
  show execNo src n st s = _
  simp only [execNo, hcoord, hopen, Bool.false_eq_true, if_false, State.coordNo, hclass]

/-! ## Timers (R166) -/

theorem exec_voteTimer (hvoting : s.collects c) (hdue : c.since.toNat + 20000 ≤ s.now.toNat) :
    exec (.voteTimer n) s = .next (s.coordDecide c 0x32 (lowestLeg c.legs c.missing) 0) := by
  obtain ⟨hphase, hcommit, hlead⟩ := hvoting
  show execVoteTimer n s = _
  simp only [execVoteTimer, hcoord, hphase, hcommit, s.leads_iff.2 hlead, hdue, decide_true, Option.isNone_none, Bool.and_self, if_true]
  rfl

theorem exec_voteTimer_early (h : s.now.toNat < c.since.toNat + 20000) : exec (.voteTimer n) s = .next s := by
  show execVoteTimer n s = _
  simp only [execVoteTimer, hcoord, decide_eq_false (Nat.not_le.2 h), Bool.and_false, Bool.false_eq_true, if_false]

theorem exec_revotePoint (hphase : c.phase = 1) (hcommit : c.commit = none) (hrevoted : c.revoted = false) (hdue : c.since.toNat + 10000 ≤ s.now.toNat) :
    exec (.revotePoint n) s = .next (c.missing.foldl (fun s p => s.postMsg p 0 s.applied.lbPair n 5 0 [])
      (s.updCoord n fun c => { c with revoted := true })) := by
  show execRevotePoint n s = _
  simp only [execRevotePoint, hcoord, hphase, hcommit, hrevoted, hdue, decide_true, Option.isNone_none, Bool.not_false, Bool.and_self, if_true]
  rfl

theorem exec_resendTimer (hphase : c.phase = 2) (hdue : c.resent.toNat + 10000 ≤ s.now.toNat) :
    exec (.resendTimer n) s = .next ((c.pairs.filter fun p => !c.acks.contains p).foldl (fun s p => s.postMsg p 0 s.applied.lbPair n 2 0 [])
      (s.updCoord n fun c => { c with resent := s.now })) := by
  show execResendTimer n s = _
  simp only [execResendTimer, hcoord, hphase, hdue, decide_true, Bool.and_self, if_true]

/-! ## ACK and QUERY (R165) -/

theorem exec_postingAck (hphase : c.phase = 2) (hsrc : src ∈ c.pairs) :
    exec (.postingAck src n) s = .next (if ∀ p ∈ c.pairs, p = src ∨ p ∈ c.acks then
        { s with led := { s.led with coords := s.led.coords.filter fun x => x.n != n } }
      else s.updCoord n fun c => { c with acks := if src ∈ c.acks then c.acks else src :: c.acks }) := by
  have hopen : (c.phase != 2 || !c.pairs.contains src) = false := by simp [hphase, hsrc]
  show execPostingAck src n s = _
  simp only [execPostingAck, hcoord, hopen, Bool.false_eq_true, if_false, List.all_eq_true, Bool.or_eq_true, beq_iff_eq, List.contains_iff_mem]

theorem exec_query : exec (.query src n) s = .next (s.postMsg src 1 s.applied.lbPair n
    (if c.phase = 2 then 2 else if ∃ q ∈ s.led.preps, q.part = false ∧ q.seq = n then 10 else 3) 0 []) := by
  show execQuery src n s = _
  simp only [execQuery, hcoord, List.any_eq_true, Bool.and_eq_true, Bool.not_eq_true', beq_iff_eq]

end

end

/-- Settles O38: each message and timer by its lemma above; a decision goes the way of every decision on a prepared posting. -/
theorem coordinatorsFollowTheTable : Obligations.CoordinatorsFollowTheTable := by
  unfold Obligations.CoordinatorsFollowTheTable
  intro s c src n st scales hcoord voting missing c' voted lowest asked drop
  refine ⟨fun hvoting hsrc hnew => ?yes, fun hvoting hsrc => exec_no hcoord hvoting hsrc st, exec_voteTimer hcoord, exec_voteTimer_early hcoord,
    exec_revotePoint hcoord, exec_resendTimer hcoord, fun hphase hsrc => ?ack, ⟨_, exec_query hcoord, fun h => if_pos h, fun h => if_neg h⟩, ?decision⟩
  case yes =>
    rw [exec_yes hcoord hvoting hsrc hnew]
    refine ⟨fun ⟨p, hp, hother, hvote⟩ => congrArg _ (if_neg fun h => ?_), fun hall => ?_⟩
    · rcases Coord.allYes_iff.1 h p hp with he | ⟨y, hy, he⟩
      · exact hother he
      · exact hvote y hy he
    · have hlast : c.allYes src scales = true := Coord.allYes_iff.2 hall
      rw [if_pos hlast]
      exact ⟨fun hclash => congrArg (fun o : Option Nat => Host.Outcome.next (o.elim _ _)) hclash,
        fun k hclash => congrArg (fun o : Option Nat => Host.Outcome.next (o.elim _ _)) hclash⟩
  case ack =>
    rw [exec_postingAck hcoord hphase hsrc]
    refine ⟨fun hall => congrArg _ (if_pos hall), fun ⟨p, hp, hother, hack⟩ => congrArg _ (if_neg fun h => ?_)⟩
    rcases h p hp with he | he
    · exact hother he
    · exact hack he
  case decision =>
    intro d g u room hnone
    refine ⟨fun hwait => State.decision_waits (s := s.updCoord c.n _) hnone hwait, fun hbelow hroom => ?_⟩
    obtain ⟨hseq, hpos, hmem, hlb, -, hflight⟩ := State.decision_numbered (s := s.updCoord c.n _) (r := c.req) (home := s.applied.lbPair) (n := c.n) (pseq := c.n)
      (st := st) (leg := g) hnone hbelow hroom
    exact ⟨hseq, hpos, hmem, hlb, hflight⟩

end Sys2Proof.Machine
end

section
/-! The participant of a posting that spans pairs (R164-R166). -/

namespace Sys2Proof.Machine

section
variable {s : State} {p : Part} {home : PairId} {n : BitVec 48} {w2 : Word} {legs : List (Word × Word)}

/-! ## The participant's entry -/

theorem State.partFor_spec (h : s.partFor home n = some p) : p.home = home ∧ p.n = n := by
  have hkeys := List.find?_some h
  rwa [Bool.and_eq_true, beq_iff_eq, beq_iff_eq] at hkeys

theorem State.partOf_of_partFor (h : s.partFor home n = some p) : s.partOf home n = some p := by rw [State.partOf, h]; rfl

theorem State.partFor_of_partOf_none (h : s.partOf home n = none) : s.partFor home n = none := by
  rw [State.partOf] at h
  cases hfor : s.partFor home n with
  | none => rfl
  | some p => rw [hfor] at h; exact absurd h (by simp)

/-- A class N status is not that of a vote for YES (R149). -/
theorem State.notSequencing_ne_zero {st : BitVec 8} (h : s.notSequencing = some st) : st ≠ 0 := by
  unfold State.notSequencing at h
  split at h
  case h_5 =>
    split at h
    · exact absurd h (by simp)
    · rw [← Option.some.inj h]
      decide
  all_goals
    rw [← Option.some.inj h]
    decide

/-! ## PREPARE (R165) -/

/-- The entry of a posting whose PREPARE has just come. -/
def newPart (home : PairId) (n : BitVec 48) (w2 : Word) (now : BitVec 64) : Part :=
  { home := home, n := n, pseq := 0, phase := 0, legs := [], w2 := w2, vote := 0, since := now, queried := now, aged := false, decision := none }

def State.addPart (s : State) (p : Part) : State := { s with led := { s.led with parts := s.led.parts ++ [p] } }

/-- The words of the request that a PREPARE makes: a vector with the legs of this pair. -/
def prepareWords (w2 : Word) (legs : List (Word × Word)) : List Word :=
  ([0, at' (1 : BitVec 4) 68 ||| at' (BitVec.ofNat 4 (legs.length - 1)) 64 ||| (w2 >>> 8), 0] : List Word) ++ legs.flatMap fun l => [l.1, l.2]

theorem getD_flatMap_pair (legs : List (Word × Word)) {i : Nat} (hi : i < legs.length) :
    ((legs.flatMap fun l => [l.1, l.2]).getD (2 * i) 0, (legs.flatMap fun l => [l.1, l.2]).getD (2 * i + 1) 0) = legs[i] := by
  induction legs generalizing i with
  | nil => exact absurd hi (Nat.not_lt_zero i)
  | cons l r ih =>
    cases i with
    | zero => rfl
    | succ i => exact ih (Nat.lt_of_succ_lt_succ hi)

/-- The request has the legs of the PREPARE. -/
theorem PostReq.legs_of_prepareWords {r : PostReq} (hwords : r.words = prepareWords w2 legs) (hcommit : r.commit = false) (hsome : legs ≠ [])
    (hlen : legs.length ≤ 16) : r.legs = legs := by
  have hpos : 0 < legs.length := List.length_pos_iff.2 hsome
  have hword (k : Nat) : r.word k = (prepareWords w2 legs).getD k 0 := by rw [PostReq.word, hwords]
  have hfield : bits r.head 64 4 = BitVec.ofNat 4 (legs.length - 1) := by
    have hhead : r.head = at' (1 : BitVec 4) 68 ||| at' (BitVec.ofNat 4 (legs.length - 1)) 64 ||| (w2 >>> 8) := by
      rw [PostReq.head, hcommit, if_neg Bool.false_ne_true, hword]
      rfl
    refine eq_of_bits fun i hi => ?_
    have hhigh : bit (w2 >>> 8) (64 + i) = false := by
      rw [bit, BitVec.getLsbD_ushiftRight]
      exact bit_of_ge w2 (by omega)
    simp [hhead, bit_bits, bit_or, bit_at', hhigh, hi, show 64 + i < 72 by omega, show ¬68 ≤ 64 + i by omega]
  have hcount : r.count = legs.length := by
    rw [PostReq.count, hfield, BitVec.toNat_ofNat]
    omega
  refine List.ext_getElem (by simp [PostReq.legs, hcount]) fun i hi hl => ?_
  rw [← getD_flatMap_pair legs hl]
  simp only [PostReq.legs, List.getElem_map, List.getElem_range, hword, Nat.add_comm 3, Nat.add_comm 4]
  rfl

theorem exec_prepare_known (h : s.partOf home n = some p) (hseq : p.phase = 0 → s.notSequencing = none) :
    exec (.prepare home n w2 legs) s = .next (if p.phase = 0 then s else s.vote p) := by
  show execPrepare home n w2 legs s = _
  simp only [execPrepare, h]
  split
  · next heq _ => rw [Option.some.inj heq]
  · next q st heq hst =>
    obtain rfl := Option.some.inj heq
    by_cases hphase : p.phase = 0
    · rw [hseq hphase] at hst
      exact absurd hst (by simp)
    · rw [if_neg hphase, if_neg hphase]
  · next heq => exact absurd heq (by simp)

theorem exec_prepare_notLeading (h : s.partOf home n = some p) (hphase : p.phase = 0) {st : BitVec 8} (hst : s.notSequencing = some st) :
    exec (.prepare home n w2 legs) s = .next (s.postMsg home 1 home n 9 st []) := by
  show execPrepare home n w2 legs s = _
  simp only [execPrepare, h, hst, hphase, if_true]

theorem exec_prepare_new (h : s.partOf home n = none) (hseq : s.notSequencing = none) :
    exec (.prepare home n w2 legs) s =
      .next ((s.addPart (newPart home n w2 s.now)).submit (.home home n) false 0 (prepareWords w2 legs)).2 := by
  show execPrepare home n w2 legs s = _
  simp only [execPrepare, h, hseq]
  rfl

/-- The entry that a refused PREPARE leaves: done, with a NO. -/
def refusedPart (home : PairId) (n : BitVec 48) (w2 : Word) (now : BitVec 64) (st : BitVec 8) : Part :=
  { newPart home n w2 now with phase := 2, vote := st }

theorem mapIf_eq_self {α : Type} {q : α → Bool} {l : List α} (h : ∀ x ∈ l, ¬q x = true) (f : α → α) : mapIf q f l = l :=
  (List.map_congr_left fun x hx => if_neg (h x hx)).trans (List.map_id l)

theorem State.partNo_addPart (hnone : s.partFor home n = none) {st : BitVec 8} (hst : st ≠ 0) :
    (s.addPart (newPart home n w2 s.now)).partNo home n st =
      (s.addPart (refusedPart home n w2 s.now st)).postMsg home 1 home n 9 st [] := by
  have hother : ∀ x ∈ s.led.parts, ¬(x.home == home && x.n == n) = true := List.find?_eq_none.1 hnone
  have hupd : (s.addPart (newPart home n w2 s.now)).updPart home n (fun p => { p with phase := 2, vote := st }) =
      s.addPart (refusedPart home n w2 s.now st) := by
    have hparts : mapIf (fun p : Part => p.home == home && p.n == n) (fun p => { p with phase := 2, vote := st })
        (s.led.parts ++ [newPart home n w2 s.now]) = s.led.parts ++ [refusedPart home n w2 s.now st] := by
      rw [mapIf, List.map_append]
      refine congrArg₂ _ (mapIf_eq_self hother _) ?_
      simp [newPart, refusedPart]
    exact congrArg (fun l => ({ s with led := { s.led with parts := l } } : State)) hparts
  have hfor : (s.addPart (refusedPart home n w2 s.now st)).partFor home n = some (refusedPart home n w2 s.now st) := by
    show (s.led.parts ++ [refusedPart home n w2 s.now st]).find? _ = _
    rw [List.find?_append, List.find?_eq_none.2 hother]
    simp [newPart, refusedPart]
  rw [State.partNo, hupd, hfor]
  exact if_neg hst

theorem exec_prepare_refused (h : s.partOf home n = none) {st : BitVec 8} (hst : s.notSequencing = some st) :
    exec (.prepare home n w2 legs) s = .next ((s.addPart (refusedPart home n w2 s.now st)).postMsg home 1 home n 9 st []) := by
  rw [← State.partNo_addPart (State.partFor_of_partOf_none h) (State.notSequencing_ne_zero hst)]
  show execPrepare home n w2 legs s = _
  simp only [execPrepare, h, hst]
  rfl

/-! ## REVOTE (R165) -/

theorem exec_revote (h : s.partOf home n = some p) : exec (.revote home n) s = .next (if p.phase = 0 then s else s.vote p) := by
  show execRevote home n s = _
  simp only [execRevote, h]

theorem exec_revote_unknown (h : s.partOf home n = none) : exec (.revote home n) s = .next s := by
  show execRevote home n s = _
  simp only [execRevote, h]

/-! ## COMMIT and ABORT (R165) -/

theorem exec_commitMsg_recorded (h : s.partFor home n = none) (hdec : s.decisionFor home n = some true) :
    exec (.commitMsg home n) s = .next (s.postMsg home 1 home n 11 0 []) := by
  show execCommitMsg home n s = _
  simp only [execCommitMsg, h, hdec, beq_self_eq_true, if_true]

section
variable (h : s.partFor home n = some p)
include h

theorem exec_commitMsg_done (hphase : p.phase = 2) (hvote : p.vote = 0) : exec (.commitMsg home n) s = .next (s.postMsg home 1 home n 11 0 []) := by
  show execCommitMsg home n s = _
  simp [execCommitMsg, h, hphase, hvote]

theorem exec_abort_done (hphase : p.phase = 2) : exec (.abort home n) s = .next s := by
  show execAbort home n s = _
  simp [execAbort, h, hphase]

theorem exec_decided_inDoubt (hphase : p.phase = 1) (hdec : p.decision = none) (hlead : s.ws.role = 1 ∨ s.ws.role = 3) (ok : Bool) :
    exec (if ok then .commitMsg home n else .abort home n) s = .next (s.partDecide home n ok) := by
  have hleads := s.leads_iff.2 hlead
  cases ok with
  | true =>
    show execCommitMsg home n s = _
    simp only [execCommitMsg, h, hphase, hdec, hleads, Option.isNone_none, Bool.and_self, if_true]
  | false =>
    show execAbort home n s = _
    simp only [execAbort, h, hphase, hdec, hleads, Option.isNone_none, Bool.and_self, decide_true, if_true]

/-! ## Timers (R166) -/

theorem exec_queryTimer (hphase : p.phase = 1) (hdue : p.queried.toNat + 50000 ≤ s.now.toNat) :
    exec (.queryTimer home n) s = .next ((s.updPart home n fun p => { p with queried := s.now }).postMsg home 0 home n 4 0 []) := by
  show execQueryTimer home n s = _
  simp only [execQueryTimer, h, hphase, hdue, decide_true, Bool.and_self, if_true]

theorem exec_queryTimer_early (hearly : s.now.toNat < p.queried.toNat + 50000) : exec (.queryTimer home n) s = .next s := by
  show execQueryTimer home n s = _
  simp only [execQueryTimer, h, decide_eq_false (Nat.not_le.2 hearly), Bool.and_false, Bool.false_eq_true, if_false]

theorem exec_inDoubtAging (hphase : p.phase = 1) (hage : (bits s.applied.peCtl 8 8).toNat ≠ 0) (haged : p.aged = false)
    (hdue : p.since.toNat + (bits s.applied.peCtl 8 8).toNat * 100000 < s.now.toNat) :
    exec (.inDoubtAging home n) s = .next ((s.updPart home n fun p => { p with aged := true }).raise 204) := by
  show execInDoubtAging home n s = _
  simp only [execInDoubtAging, h, hphase, bne_iff_ne.2 hage, haged, hdue, decide_true, Bool.not_false, Bool.and_self, if_true]

end

/-- A participant in doubt that takes a decision: its record has the next number, and its entry the decision. -/
theorem State.partDecide_numbered {q : Prep} (hq : s.led.preps.find? (fun q => q.part && q.home == home && q.n == n) = some q)
    (hnone : s.led.decisions = []) (hbelow : s.hashBacklog < 4096) (hroom : s.ringFull (if s.led.seqNext.toNat % 64 = 0 then 16 else 4) = false)
    (ok : Bool) : let u := s.partDecide home n ok
    u.led.seqNext = s.led.seqNext + 1 ∧ u.mem = s.mem ∧
      (∃ f : Flight, u.led.flights = s.led.flights ++ [f] ∧ f.seq = s.led.seqNext ∧ f.kind = .decision home n ok) ∧
      ∀ x ∈ u.led.parts, x.home = home → x.n = n → x.decision = some ok := by
  intro u
  have hu : u = (s.updPart home n fun p => { p with decision := some ok }).decide_ (partReq home n s.now) home n q.seq (if ok then 0 else 0x24) 0 := by
    show s.partDecide home n ok = _
    rw [State.partDecide, hq]
  obtain ⟨hseq, -, hmem, -, hparts, f, hflights, hfseq, hkind, -⟩ := State.decision_numbered (s := s.updPart home n fun p => { p with decision := some ok })
    (r := partReq home n s.now) (home := home) (n := n) (pseq := q.seq) (st := if ok then 0 else 0x24) (leg := 0) hnone hbelow hroom
  rw [← hu] at hseq hmem hparts hflights
  have hstatus : ((if ok then 0 else 0x24 : BitVec 8) == 0) = ok := by cases ok <;> rfl
  rw [hstatus] at hkind
  refine ⟨hseq, hmem, ⟨f, hflights, hfseq, hkind⟩, fun x hx hhome hn => ?_⟩
  rw [hparts] at hx
  obtain ⟨y, _, ⟨_, rfl⟩ | ⟨hother, rfl⟩⟩ := exists_of_mem_mapIf hx
  · rfl
  · rw [hhome, hn, beq_self_eq_true, beq_self_eq_true] at hother
    exact absurd hother (by decide)

end

/-- Settles O39: each message and timer by its lemma above. -/
theorem participantsFollowTheTable : Obligations.ParticipantsFollowTheTable := by
  unfold Obligations.ParticipantsFollowTheTable
  intro s home n w2 legs say
  refine ⟨rfl, fun hnew hseq hsome hlen => ?new, fun st hnew hst => ?refused, exec_revote_unknown, exec_commitMsg_recorded, fun p hp => ?known⟩
  case new =>
    exact ⟨_, _, exec_prepare_new hnew hseq, rfl, rfl, rfl, rfl, rfl, PostReq.legs_of_prepareWords (w2 := w2) rfl rfl hsome hlen, rfl⟩
  case refused => exact ⟨refusedPart home n w2 s.now st, rfl, rfl, rfl, rfl, exec_prepare_refused hnew hst⟩
  case known =>
    intro vote
    have hof := State.partOf_of_partFor hp
    refine ⟨fun hphase => ⟨?_, fun hseq => ?_, fun st hst => exec_prepare_notLeading hof hphase hst⟩, fun hphase => ⟨?_, ?_⟩, ?_,
      fun hphase hvote => ⟨exec_commitMsg_done hp hphase hvote, exec_abort_done hp hphase⟩, exec_queryTimer hp, exec_inDoubtAging hp,
      exec_queryTimer_early hp⟩
    · rw [exec_revote hof, if_pos hphase]
    · rw [exec_prepare_known hof fun _ => hseq, if_pos hphase]
    · rw [exec_revote hof, if_neg hphase]
      rfl
    · rw [exec_prepare_known hof fun h => absurd h hphase, if_neg hphase]
      rfl
    · intro hphase hdec hlead q hq hnone hbelow hroom ok
      exact ⟨_, exec_decided_inDoubt hp hphase hdec hlead ok, State.partDecide_numbered hq hnone hbelow hroom ok⟩

end Sys2Proof.Machine
end

section
/-! Completion words on their way to their slots and issuers (R148, R154, R350, R380). -/

namespace Sys2Proof.Machine

section
variable {s : State} {n : CoreId}

/-! ## Late completions (R350, log 56) -/

/-- A core with its deterministic counters at other values. -/
def Core.recharge (a : BitVec 64) (b : BitVec 32) (c : Core) : Core := { c with detSteps := a, detVar := b }

/-- A state with the charge of a core and the counter of free values at other values. -/
def State.recharged (v : State) (n : CoreId) (k : Nat) (a : BitVec 64) (b : BitVec 32) : State :=
  { v.updCore n (Core.recharge a b) with free := k }

theorem State.recharged_same (v : State) (n : CoreId) (k : Nat) : v.recharged n k v.cores[n].detSteps v.cores[n].detVar = { v with free := k } :=
  congrArg (fun u : State => { u with free := k }) (State.updCore_self rfl)

theorem State.recharged_core (v : State) (n : CoreId) (k : Nat) (a : BitVec 64) (b : BitVec 32) :
    (v.recharged n k a b).cores[n] = v.cores[n].recharge a b :=
  v.updCore_core n (Core.recharge a b)

theorem State.updCore_recharged {f : Core → Core} {k : Nat} {a : BitVec 64} {b : BitVec 32} (v : State)
    (hf : ∀ c, f (c.recharge a b) = (f c).recharge a b) : (v.recharged n k a b).updCore n f = (v.updCore n f).recharged n k a b := by
  have hmove : (v.updCore n (Core.recharge a b)).updCore n f = (v.updCore n f).updCore n (Core.recharge a b) := by
    rw [State.updCore_updCore, State.updCore_updCore]
    exact State.updCore_congr (hf _)
  exact congrArg (fun u : State => { u with free := k }) hmove

/-- The charge of a completion that may be late; outside deterministic mode there is none. -/
theorem State.lateCompletion_spec (s : State) (n : CoreId) : ∃ k a b, s.lateCompletion n = s.recharged n k a b ∧
    (s.cores[n].det = false → k = s.free ∧ a = s.cores[n].detSteps ∧ b = s.cores[n].detVar) := by
  have hself (k : Nat) : ({ s with free := k } : State) = s.recharged n k s.cores[n].detSteps s.cores[n].detVar := (s.recharged_same n k).symm
  unfold State.lateCompletion State.draw
  cases hdet : s.cores[n].det with
  | false =>
    rw [if_neg Bool.false_ne_true]
    exact ⟨s.free, _, _, hself s.free, fun _ => ⟨rfl, rfl, rfl⟩⟩
  | true =>
    rw [if_pos rfl]
    dsimp only
    split
    · refine ⟨s.free + 1, s.cores[n].detSteps + bits (Config.freeWord s.free) 0 64, inc s.cores[n].detVar, ?_, fun h => absurd h (by decide)⟩
      have hdepart : ({ s.cores[n] with detSteps := s.cores[n].detSteps + bits (Config.freeWord s.free) 0 64 } : Core).depart =
          s.cores[n].recharge (s.cores[n].detSteps + bits (Config.freeWord s.free) 0 64) (inc s.cores[n].detVar) := if_pos hdet
      rw [State.updCore, hdepart]
      rfl
    · exact ⟨s.free + 1, _, _, hself _, fun h => absurd h (by decide)⟩

/-- What a command leaves that ends in v but for a charge that may be late (log 56). -/
def LateOnly (n : CoreId) (s v u : State) : Prop :=
  (s.cores[n].det = false → u = v) ∧
    u = { v with free := u.free, cores := v.cores.set n { v.cores[n] with detSteps := u.cores[n].detSteps, detVar := u.cores[n].detVar } }

theorem lateOnly_recharged {v : State} {k : Nat} {a : BitVec 64} {b : BitVec 32}
    (h : s.cores[n].det = false → k = v.free ∧ a = v.cores[n].detSteps ∧ b = v.cores[n].detVar) : LateOnly n s v (v.recharged n k a b) := by
  refine ⟨fun hdet => ?_, ?_⟩
  · obtain ⟨rfl, rfl, rfl⟩ := h hdet
    exact v.recharged_same n v.free
  · rw [State.recharged_core]
    rfl

/-! ## Late store errors (R322) -/

/-- What a late store error leaves in its core. -/
def Core.lateNoted (cause : BitVec 8) (pa : WAddr) (c : Core) : Core :=
  let c := { c with lseCnt := inc c.lseCnt }
  if bit c.lseStat 71 then { c with lseStat := setBit c.lseStat 70 true }
  else { c with lseStat := flagAt true 71 ||| flagAt (bit c.lseStat 70) 70 ||| at' cause 0, lseAddr := pa }

theorem Core.lateNoted_recharge (c : Core) (cause : BitVec 8) (pa : WAddr) (a : BitVec 64) (b : BitVec 32) :
    (c.recharge a b).lateNoted cause pa = (c.lateNoted cause pa).recharge a b := by
  unfold Core.lateNoted Core.recharge
  dsimp only
  split <;> rfl

theorem Core.lateNoted_counters (c : Core) (cause : BitVec 8) (pa : WAddr) :
    (c.lateNoted cause pa).detSteps = c.detSteps ∧ (c.lateNoted cause pa).detVar = c.detVar := by
  have hkept := c.lateNoted_recharge cause pa c.detSteps c.detVar
  exact ⟨(congrArg Core.detSteps hkept :), (congrArg Core.detVar hkept :)⟩

theorem State.raise_srcs_congr {s t : State} (hsrcs : t.srcs = s.srcs) (hbrd : t.brd = s.brd) (k : Nat) : (t.raise k).srcs = (s.raise k).srcs := by
  unfold State.raise
  rw [hbrd]
  split
  · split
    · dsimp only
      rw [hsrcs]
    · exact hsrcs
  · exact hsrcs

theorem State.lateStore_eq (s : State) (n : CoreId) (cause : BitVec 8) (pa : WAddr) :
    s.lateStore n cause pa = { s.updCore n (Core.lateNoted cause pa) with srcs := (s.raise (466 + 4 * n.val)).srcs } := by
  have hraised : s.lateStore n cause pa = (s.updCore n (Core.lateNoted cause pa)).raise (466 + 4 * n.val) := rfl
  rw [hraised, State.raise_eq_withSrcs, State.raise_srcs_congr (s := s) (t := s.updCore n _) rfl rfl]

theorem State.lateStore_core (s : State) (n : CoreId) (cause : BitVec 8) (pa : WAddr) :
    (s.lateStore n cause pa).cores[n] = s.cores[n].lateNoted cause pa := by
  rw [State.lateStore_eq]
  exact s.updCore_core n _

/-- A late store error and a change of its core in fields that it does not touch may change places. -/
theorem State.lateStore_updCore {f : Core → Core} {cause : BitVec 8} {pa : WAddr}
    (hf : ∀ c, (f c).lateNoted cause pa = f (c.lateNoted cause pa)) : (s.updCore n f).lateStore n cause pa = (s.lateStore n cause pa).updCore n f := by
  have hmove : (s.updCore n f).updCore n (Core.lateNoted cause pa) = (s.updCore n (Core.lateNoted cause pa)).updCore n f := by
    rw [State.updCore_updCore, State.updCore_updCore]
    exact State.updCore_congr (hf _)
  rw [State.lateStore_eq, State.lateStore_eq, hmove, State.raise_srcs_congr (s := s) (t := s.updCore n f) rfl rfl]
  rfl

theorem State.lateStore_recharged {cause : BitVec 8} {pa : WAddr} {k : Nat} {a : BitVec 64} {b : BitVec 32} :
    (s.recharged n k a b).lateStore n cause pa = (s.lateStore n cause pa).recharged n k a b := by
  rw [State.lateStore_eq, State.lateStore_eq, State.updCore_recharged s (Core.lateNoted_recharge · cause pa a b),
    State.raise_srcs_congr (s := s) (t := s.recharged n k a b) rfl rfl]
  rfl

theorem State.lateStore_withLed (s : State) (n : CoreId) (cause : BitVec 8) (pa : WAddr) (l : Ledger) :
    ({ s with led := l } : State).lateStore n cause pa = { s.lateStore n cause pa with led := l } := by
  rw [State.lateStore_eq, State.lateStore_eq, State.raise_srcs_congr (s := s) (t := { s with led := l }) rfl rfl]
  rfl

/-! ## The first known completion (R148) -/

section
variable {d : DoneWord} {rest : List DoneWord} {rt : BitVec 5}

/-- A completion word that has reached G[rt] of its core; its POST or COMMIT is no longer outstanding. -/
def Core.handed (rt : BitVec 5) (d : DoneWord) (c : Core) : Core :=
  { c with g := (c.setG rt d.word).g, posts := c.posts.filter fun p => p.ticket != d.req.ticket }

theorem Core.setG_g_eq (c : Core) (i : BitVec 5) (v : Word) : (c.setG i v).g = if i = 0 then c.g else c.g.set i.toNat v i.isLt := by
  unfold Core.setG
  split <;> rfl

theorem Core.handed_recharge (a : BitVec 64) (b : BitVec 32) (c : Core) : (c.recharge a b).handed rt d = (c.handed rt d).recharge a b := by
  unfold Core.handed
  rw [Core.setG_g_eq, Core.setG_g_eq]
  rfl

theorem Core.handed_lateNoted {cause : BitVec 8} {pa : WAddr} (c : Core) : (c.handed rt d).lateNoted cause pa = (c.lateNoted cause pa).handed rt d := by
  unfold Core.handed Core.lateNoted
  dsimp only
  split <;> (rw [Core.setG_g_eq, Core.setG_g_eq])

/-- The completion lists once the first word has left: the duplicates that wait for it have it. -/
def Ledger.completed (l : Ledger) (d : DoneWord) (rest : List DoneWord) : Ledger :=
  { l with done := rest, dups := l.dups.map fun x => if x.on = d.req.ticket then { x with word := some d.word } else x }

theorem State.deliver_eq (hissuer : d.req.issuer = .core n rt) (hfinal : d.final = false) (t : State) (stored : Bool) :
    t.deliver d stored = if stored then (t.lateCompletion n).updCore n (Core.handed rt d)
      else ((t.lateCompletion n).updCore n (Core.handed rt d)).lateStore n 2 d.req.slot := by
  have hgiven (v : State) : v.updCore n (fun c => { c with
      g := if rt = 0 then c.g else c.g.set rt.toNat d.word rt.isLt, posts := c.posts.filter fun p => p.ticket != d.req.ticket }) =
      v.updCore n (Core.handed rt d) := State.updCore_congr (by rw [Core.handed, Core.setG_g_eq])
  rw [State.deliver, hissuer]
  simp only [hfinal, Bool.false_eq_true, if_false, hgiven]

theorem State.completeFirst_eq (hdone : s.led.done = d :: rest) (hfinal : d.final = false) :
    s.completeFirst =
      let w := ({ s with led := { s.led with done := rest } } : State).writeSlot d
      let v := w.1.deliver d w.2
      { v with led := { v.led with dups := v.led.dups.map fun x => if x.on = d.req.ticket then { x with word := some d.word } else x } } := by
  rw [State.completeFirst, hdone]
  simp only [hfinal, Bool.false_eq_true, if_false, mapIf_eq_map (P := fun x : DupWait => x.on = d.req.ticket) (fun x => beq_iff_eq)]

section
variable (hdone : s.led.done = d :: rest) (hfinal : d.final = false) (hissuer : d.req.issuer = .core n rt)
include hdone hfinal hissuer

/-- A word whose slot takes the store (R148). -/
theorem State.completeFirst_stored (hlocal : isLocalMem d.req.slot = true)
    (hopen : regionOf d.req.slot = .plain → s.guarded (offsetOf d.req.slot) = false) :
    LateOnly n s { (s.putMasked d.req.slot maskAll d.word).updCore n (Core.handed rt d) with led := s.led.completed d rest } s.completeFirst := by
  obtain ⟨t, ht⟩ : ∃ t : State, t = ({ s with led := { s.led with done := rest } } : State).putWord d.req.slot d.word := ⟨_, rfl⟩
  have hslot : ({ s with led := { s.led with done := rest } } : State).writeSlot d = (t, true) := by
    have hguard : (regionOf d.req.slot == .plain && s.guarded (offsetOf d.req.slot)) = false := by
      cases hr : regionOf d.req.slot == .plain with
      | false => rfl
      | true => exact hopen (beq_iff_eq.1 hr)
    rw [ht, State.writeSlot, hlocal]
    exact if_neg (by rw [show ({ s with led := { s.led with done := rest } } : State).guarded = s.guarded from rfl, hguard]; decide)
  obtain ⟨k, a, b, hlate, hfree⟩ := t.lateCompletion_spec n
  have hdeliver : t.deliver d true = (t.updCore n (Core.handed rt d)).recharged n k a b := by
    rw [State.deliver_eq hissuer hfinal, if_pos rfl, hlate, State.updCore_recharged t (Core.handed_recharge a b)]
  rw [State.completeFirst_eq hdone hfinal, hslot]
  dsimp only
  rw [hdeliver]
  rw [ht] at hfree ⊢
  refine lateOnly_recharged (v := { (s.putMasked d.req.slot maskAll d.word).updCore n (Core.handed rt d) with led := s.led.completed d rest }) fun hdet => ?_
  obtain ⟨hk, ha, hb⟩ := hfree hdet
  have hcore := (s.putMasked d.req.slot maskAll d.word).updCore_core n (Core.handed rt d)
  refine ⟨hk, ha.trans (congrArg Core.detSteps hcore).symm, hb.trans (congrArg Core.detVar hcore).symm⟩

/-- A word whose slot takes no store leaves a late store error (R148, R322). -/
theorem State.completeFirst_refused (hlocal : isLocalMem d.req.slot = false) :
    LateOnly n s { (s.lateStore n 2 d.req.slot).updCore n (Core.handed rt d) with led := s.led.completed d rest } s.completeFirst := by
  obtain ⟨t, ht⟩ : ∃ t : State, t = { s with led := { s.led with done := rest } } := ⟨_, rfl⟩
  have hslot : ({ s with led := { s.led with done := rest } } : State).writeSlot d = (t, false) := by
    rw [ht, State.writeSlot, hlocal]
    exact if_pos (Bool.or_true _)
  obtain ⟨k, a, b, hlate, hfree⟩ := t.lateCompletion_spec n
  have hstore : t.lateStore n 2 d.req.slot = { s.lateStore n 2 d.req.slot with led := { s.led with done := rest } } := by
    rw [ht]
    exact s.lateStore_withLed n 2 d.req.slot _
  have hdeliver : t.deliver d false =
      (({ s.lateStore n 2 d.req.slot with led := { s.led with done := rest } } : State).updCore n (Core.handed rt d)).recharged n k a b := by
    rw [State.deliver_eq hissuer hfinal, if_neg Bool.false_ne_true, hlate, State.updCore_recharged t (Core.handed_recharge a b),
      State.lateStore_recharged, State.lateStore_updCore Core.handed_lateNoted, hstore]
  rw [State.completeFirst_eq hdone hfinal, hslot]
  dsimp only
  rw [hdeliver]
  rw [ht] at hfree
  refine lateOnly_recharged (v := { (s.lateStore n 2 d.req.slot).updCore n (Core.handed rt d) with led := s.led.completed d rest }) fun hdet => ?_
  obtain ⟨hk, ha, hb⟩ := hfree hdet
  have hcore :=
    ((s.lateStore n 2 d.req.slot).updCore_core n (Core.handed rt d)).trans (congrArg (Core.handed rt d) (s.lateStore_core n 2 d.req.slot))
  obtain ⟨hsteps, hvar⟩ := s.cores[n].lateNoted_counters 2 d.req.slot
  exact ⟨hk.trans (congrArg State.free (s.lateStore_eq n 2 d.req.slot)).symm,
    ha.trans ((congrArg Core.detSteps hcore).trans hsteps).symm, hb.trans ((congrArg Core.detVar hcore).trans hvar).symm⟩

/-- A core's only completion word is handed over as COMPLETION_WORD hands it over (R380). -/
theorem State.handOver_only (hlast : rest = []) : s.handOver n s.led.done.length = s.completeFirst := by
  rw [hlast] at hdone
  have hsame : ({ s with led := { s.led with done := [d] } } : State) = s := by rw [← hdone]
  rw [hdone, List.length_singleton, State.handOver]
  simp [hdone, hfinal, hissuer, hsame, State.handOver]

end
end
end

/-- Settles O36: the slot takes the word or not, and what is left of the charge is free in deterministic mode only. -/
theorem completionsReachTheirIssuers : Obligations.CompletionsReachTheirIssuers := by
  intro s d rest n rt hdone hfinal hissuer
  refine ⟨fun hlocal hopen => ⟨⟨_, rfl, State.completeFirst_stored hdone hfinal hissuer hlocal hopen⟩, fun hlast hrun hwait => ?_⟩,
    fun hlocal => ⟨_, rfl, State.completeFirst_refused hdone hfinal hissuer hlocal⟩⟩
  refine ⟨s.completeFirst, ?_, State.completeFirst_stored hdone hfinal hissuer hlocal hopen⟩
  exact congrArg Host.Outcome.next ((if_pos (by rw [hrun, hwait]; rfl)).trans (State.handOver_only hdone hfinal hissuer hlast))

end Sys2Proof.Machine
end

section
/-! The oldest waiting request: what the sequencer answers, numbers or keeps back (R149, R151, R157, R162, R173, R174, R187, R189). -/

namespace Sys2Proof.Machine

section
variable {s : State} {r : PostReq} {rest : List PostReq}

/-! ## The status of the role (R149) -/

/-- A module that sequences: LEADER or SOLO, with ENABLE 1. -/
def State.sequences (s : State) : Prop := (s.ws.role = 1 ∨ s.ws.role = 3) ∧ bit s.applied.peCtl 0 = true

/-- The class N status with which a role that does not sequence answers. -/
def statusOfRole (role : BitVec 3) : Nat := if role = 0 then 0x41 else if role = 2 then 0x42 else if role = 4 ∨ role = 5 then 0x43 else 0x45

theorem statusOfRole_spec : ∀ role : BitVec 3, (role = 0 → statusOfRole role = 0x41) ∧ (role = 2 → statusOfRole role = 0x42) ∧
    (role = 4 ∨ role = 5 → statusOfRole role = 0x43) ∧ (role = 1 ∨ role = 3 → statusOfRole role = 0x45) := by decide

theorem State.notSequencing_of_sequences (h : s.sequences) : s.notSequencing = none := by
  obtain ⟨hrole, henable⟩ := h
  unfold State.notSequencing
  rcases hrole with hrole | hrole <;> (rw [hrole]; exact if_pos henable)

theorem State.notSequencing_of_not (hsix : s.ws.role.toNat < 6) (h : ¬s.sequences) :
    s.notSequencing = some (BitVec.ofNat 8 (statusOfRole s.ws.role)) := by
  have hrole : s.ws.role = 0 ∨ s.ws.role = 2 ∨ s.ws.role = 4 ∨ s.ws.role = 5 ∨ s.ws.role = 1 ∨ s.ws.role = 3 := by
    generalize s.ws.role = k at hsix
    revert k
    decide
  have hoff (hleads : s.ws.role = 1 ∨ s.ws.role = 3) : ¬bit s.applied.peCtl 0 = true := fun henable => h ⟨hleads, henable⟩
  unfold State.notSequencing
  rcases hrole with hk | hk | hk | hk | hk | hk
  · rw [hk]; rfl
  · rw [hk]; rfl
  · rw [hk]; rfl
  · rw [hk]; rfl
  · have hoff := hoff (.inl hk)
    rw [hk]
    exact if_neg hoff
  · have hoff := hoff (.inr hk)
    rw [hk]
    exact if_neg hoff

/-! ## A request whose checks are done -/

theorem State.checksOf_checked (s : State) (r : PostReq) : s.checksOf { r with checked := true } = s.checksOf r := rfl

theorem State.roomless_checked (s : State) (r : PostReq) : s.roomless { r with checked := true } = s.roomless r := rfl

/-! ## SEQUENCE_ASSIGN, by what it finds -/

/-- A state with other waiting requests. -/
def State.withArrivals (s : State) (l : List PostReq) : State := { s with led := { s.led with arrivals := l } }

theorem State.dropArrival_eq (harr : s.led.arrivals = r :: rest) : s.dropArrival = s.withArrivals rest := by
  rw [State.dropArrival, harr]
  rfl

theorem complWord_status (st : BitVec 8) : complWord st 0 0 false false false 0 = at' st 64 := by
  simp [complWord, at', flagAt]

/-- A request from this pair that completes with a status of class N. -/
theorem State.refuseReq_own (hown : r.home = none) (st : BitVec 8) : s.refuseReq r st =
    { s with led := { s.led with
      notseq := if r.commit then s.led.notseq else s.led.notseq + 1, done := s.led.done ++ [{ req := r, word := at' st 64, final := false }] } } := by
  rw [State.refuseReq, hown, complWord_status]
  dsimp only
  rw [State.countNotSeq]
  split <;> rfl

section
variable (hdec : s.led.decisions = []) (harr : s.led.arrivals = r :: rest)
include hdec harr

theorem exec_sequenceAssign_refuses {st : BitVec 8} (hnew : r.checked = false) (hst : s.notSequencing = some st) :
    exec .sequenceAssign s = .next ((s.withArrivals rest).refuseReq r st) := by
  show execSequenceAssign s = _
  rw [execSequenceAssign, State.releaseDecisions_none hdec, ← State.dropArrival_eq harr]
  simp only [harr, hnew, Bool.false_eq_true, if_false, hst]

section
variable (hnew : r.checked = false) (hpost : r.commit = false) (href : (r.ref == 0) = false) (hseq : s.notSequencing = none)
include hnew hpost href hseq

theorem exec_sequenceAssign_repeats {k : Nat} (hflight : s.inFlight r.ref = some k) : exec .sequenceAssign s =
    .next { s with led := { s.led with arrivals := rest, dups := s.led.dups ++ [{ req := r, on := k, word := none }] } } := by
  show execSequenceAssign s = _
  rw [execSequenceAssign, State.releaseDecisions_none hdec, State.dropArrival_eq harr]
  simp only [harr, hnew, hseq, hpost, href, hflight, Bool.or_false, Bool.false_eq_true, if_false]
  rfl

theorem exec_sequenceAssign_answers {w : Word} (hflight : s.inFlight r.ref = none) (hfound : s.filterFind r.ref = some w) :
    exec .sequenceAssign s = .next ((s.withArrivals rest).answerDup r w) := by
  show execSequenceAssign s = _
  rw [execSequenceAssign, State.releaseDecisions_none hdec, State.dropArrival_eq harr]
  simp only [harr, hnew, hseq, hpost, href, hflight, hfound, Bool.or_false, Bool.false_eq_true, if_false]

end

/-- A request that a leading module neither refuses nor finds again takes its number, or waits. -/
theorem exec_sequenceAssign_checked (hlead : s.ws.role = 1 ∨ s.ws.role = 3)
    (hopen : r.checked = true ∨ (s.sequences ∧ (r.commit = true ∨ r.ref = 0 ∨ (s.inFlight r.ref = none ∧ s.filterFind r.ref = none)))) :
    exec .sequenceAssign s = .next (
      if s.ruleBarrier || s.roomless r then s.withArrivals ({ r with checked := true } :: rest)
      else if s.backlogged then (s.withArrivals ({ r with checked := true } :: rest)).noteStall
      else s.noteLow ((s.withArrivals rest).clearStall.assign { r with checked := true } (s.checksOf r).1 (s.checksOf r).2 r.len)) := by
  have hstatus : (if r.checked then none else s.notSequencing) = none := by
    rcases hopen with h | ⟨h, -⟩
    · rw [h]; rfl
    · rw [State.notSequencing_of_sequences h, ite_self]
  have hnew : (if r.checked || r.commit || r.ref == 0 then none else s.inFlight r.ref) = none ∧
      (if r.checked || r.commit || r.ref == 0 then none else s.filterFind r.ref) = none := by
    rcases hopen with h | ⟨-, h | h | ⟨hflight, hfound⟩⟩
    · simp [h]
    · simp [h]
    · simp [h]
    · simp [hflight, hfound]
  have hleads : (s.ws.role != 1 && s.ws.role != 3) = false := by
    rcases hlead with h | h <;> (rw [h]; rfl)
  have hnone : (!s.led.decisions.isEmpty) = false := by rw [hdec]; rfl
  show execSequenceAssign s = _
  rw [execSequenceAssign, State.releaseDecisions_none hdec, State.dropArrival_eq harr]
  simp only [harr, hstatus, hnew.1, hnew.2, hleads, hnone, Bool.false_or, Bool.false_and, Bool.or_false]
  rw [State.roomless_checked, State.checksOf_checked]
  rfl

end

/-! ## A number taken (R151, R187, R189) -/

/-- Whether a request with these checks becomes a prepare record (R164). -/
def State.prepares (s : State) (r : PostReq) : Bool :=
  (s.checksOf r).1.isNone && !r.commit && (r.home.isSome || r.legs.any fun l => l0Pair l.1 != s.applied.lbPair)

theorem State.roomless_eq (s : State) (r : PostReq) :
    s.roomless r = decide (s.credit < (charge s.led.seqNext r.len + if s.prepares r then 4 else 0 : Nat)) := rfl

/-- What the assignment of a number leaves: the request's flight at the end of those in flight, and the ring words charged. -/
theorem State.assign_spec (hown : r.commit = true → r.home = none) (early : Option (BitVec 8 × BitVec 4)) (rs : List (BitVec 8)) :
    let u := s.assign r early rs r.len
    u.led.seqNext = s.led.seqNext + 1 ∧ u.led.wpos = s.led.wpos + BitVec.ofNat 64 (charge s.led.seqNext r.len) ∧
      u.led.arrivals = s.led.arrivals ∧ u.mem = s.mem ∧ u.cores = s.cores ∧
      ∃ f : Flight, u.led.flights = s.led.flights ++ [f] ∧ f.seq = s.led.seqNext ∧ f.pos = s.led.wpos ∧ f.len = r.len ∧ f.early = early ∧
        f.decided = none ∧ f.prepare = (early.isNone && !r.commit && (r.home.isSome || r.legs.any fun l => l0Pair l.1 != s.applied.lbPair)) ∧
        f.req.words = r.words ∧ f.req.ticket = r.ticket := by
  have hprepare : (early.isNone && ((!r.commit && r.home.isNone && r.legs.any fun l => l0Pair l.1 != s.applied.lbPair) || r.home.isSome)) =
      (early.isNone && !r.commit && (r.home.isSome || r.legs.any fun l => l0Pair l.1 != s.applied.lbPair)) := by
    cases hc : r.commit with
    | true => rw [hown hc]; simp
    | false => cases r.home <;> simp
  unfold State.assign
  dsimp only
  split <;> exact ⟨rfl, rfl, rfl, rfl, rfl, _, rfl, rfl, rfl, rfl, rfl, rfl, hprepare, rfl, rfl⟩

/-- NotesOnly keeps what a numbered request is about. -/
theorem NotesOnly.keeps {t u : State} (h : NotesOnly t u) : u.led.seqNext = t.led.seqNext ∧ u.led.wpos = t.led.wpos ∧
    u.led.arrivals = t.led.arrivals ∧ u.mem = t.mem ∧ u.cores = t.cores ∧ u.led.flights = t.led.flights := by
  rw [h]
  exact ⟨rfl, rfl, rfl, rfl, rfl, rfl⟩

/-! ## JOURNAL_FULL (R174, R190) -/

/-- The FULLWAIT time of a request has run out (R174). -/
def State.fullWaited (s : State) (r : PostReq) : Prop := r.since.toNat + 250 * 2 ^ min 6 (bits s.applied.peCtl 4 3).toNat ≤ s.now.toNat

/-- JN_FULL_COUNT. -/
def State.countFull (s : State) : State := { s with led := { s.led with fullCnt := s.led.fullCnt + 1 } }

section
variable (harr : s.led.arrivals = r :: rest) (hchecked : r.checked = true) (hwaited : s.fullWaited r)
include harr hchecked hwaited

theorem State.find_fullWaited : s.led.arrivals.find? (fun r => r.checked && decide (r.since.toNat + 250 * 2 ^ min 6 (bits s.applied.peCtl 4 3).toNat ≤ s.now.toNat)) =
    some r := by
  rw [harr]
  exact List.find?_cons_of_pos (Bool.and_eq_true_iff.2 ⟨hchecked, decide_eq_true hwaited⟩)

theorem exec_journalFull_room (hroom : s.roomless r = false) (hbelow : s.hashBacklog < 4096) : exec .journalFull s = .next s := by
  show execJournalFull s = _
  simp only [execJournalFull, State.find_fullWaited harr hchecked hwaited, hroom, State.backlogged_of_lt hbelow, Bool.not_false, Bool.and_self, if_true]

/-- A request of this pair that has waited so long for room or the backlog is answered, and the requests of its REF behind it wait anew (R162). -/
theorem exec_journalFull_full (hown : r.home = none) (hheld : (!s.roomless r && !s.backlogged) = false) :
    exec .journalFull s = .next (((s.withArrivals ((rest.filter fun x => x.ticket != r.ticket).map fun x =>
      if !x.commit && !r.commit && r.ref != 0 && x.ref == r.ref then { x with since := s.now } else x)).countFull.setJnEvt 1).refuseReq r 0x40) := by
  have hdrop : s.led.arrivals.filter (fun x => x.ticket != r.ticket) = rest.filter fun x => x.ticket != r.ticket := by
    rw [harr]
    exact List.filter_cons_of_neg (by simp)
  show execJournalFull s = _
  simp only [execJournalFull, State.find_fullWaited harr hchecked hwaited, hheld, Bool.false_eq_true, if_false, hown, Option.isNone_none, if_true, hdrop]
  rfl

end

/-! ## DUPLICATE_RESOLVE (R162) -/

/-- A state without the entry of a request that waited for a posting in flight. -/
def State.dropDup (s : State) (x : DupWait) : State := { s with led := { s.led with dups := s.led.dups.filter fun y => y.req.ticket != x.req.ticket } }

theorem exec_duplicateResolve {x : DupWait} {w : Word} (hfind : s.led.dups.find? (fun y => y.word.isSome) = some x) (hword : x.word = some w) :
    exec .duplicateResolve s = .next (if (bits w 64 8).toNat < 0x40 then (s.dropDup x).answerDup x.req w
      else (s.dropDup x).withArrivals (s.led.arrivals ++ [{ x.req with checked := false, since := s.now }])) := by
  show execDuplicateResolve s = _
  simp only [execDuplicateResolve, hfind, hword, Option.getD_some, decide_eq_true_eq]
  rfl

end

/-- Settles O32: what the oldest request finds, in the order of R151, and its number where nothing holds it back. -/
theorem theSequencerTakesRequests : Obligations.TheSequencerTakesRequests := by
  unfold Obligations.TheSequencerTakesRequests
  intro s r rest answered d sequencing notseq
  refine ⟨?refuses, ?repeats, ?takes, ?resolves, ?full⟩
  case refuses =>
    intro hdec harr hown hnew hsix hnot
    obtain ⟨hpassive, hfollower, hother, hoff⟩ := statusOfRole_spec s.ws.role
    refine ⟨statusOfRole s.ws.role, ?_, hpassive, hfollower, hother, hoff⟩
    rw [exec_sequenceAssign_refuses hdec harr hnew (State.notSequencing_of_not hsix hnot), State.refuseReq_own hown]
    rfl
  case repeats =>
    intro hdec harr hnew hpost href hseq
    have href := beq_eq_false_iff_ne.2 href
    have hseq := State.notSequencing_of_sequences hseq
    exact ⟨fun k hflight => exec_sequenceAssign_repeats hdec harr hnew hpost href hseq hflight,
      fun w hflight hfound => exec_sequenceAssign_answers hdec harr hnew hpost href hseq hflight hfound⟩
  case takes =>
    intro hdec harr hown hlead hopen early remote prepare len need waits
    have hexec := exec_sequenceAssign_checked hdec harr hlead hopen
    have hchecks : (s.checksOf r).1 = early := by
      rw [State.checksOf]
      exact apply_ite Prod.fst _ _ _
    have hprepare : s.prepares r = prepare := by rw [State.prepares, hchecks]
    have hroomless : s.roomless r = decide (s.credit < (need + if prepare then 4 else 0 : Nat)) := by rw [State.roomless_eq, hprepare]; rfl
    refine ⟨fun hroom hbelow hbarrier => ?_, fun hheld => ?_, fun hroom hfull hbarrier => ?_⟩
    · rw [hbarrier, hroomless, decide_eq_false (Int.not_lt.2 hroom), State.backlogged_of_lt hbelow] at hexec
      obtain ⟨hnext, hwpos, harrivals, hmem, hcores, f, hflights, hf⟩ :=
        State.assign_spec (s := (s.withArrivals rest).clearStall) (r := { r with checked := true }) hown (s.checksOf r).1 (s.checksOf r).2
      obtain ⟨hseq', hwpos', harr', hmem', hcores', hflights'⟩ := (s.noteLow_notes ((s.withArrivals rest).clearStall.assign { r with checked := true }
        (s.checksOf r).1 (s.checksOf r).2 r.len)).keeps
      refine ⟨_, hexec, hseq'.trans hnext, hwpos'.trans hwpos, harr'.trans harrivals, hmem'.trans hmem, hcores'.trans hcores, f, hflights'.trans hflights, ?_⟩
      rwa [← hchecks, ← hprepare]
    · rw [hexec, hroomless, if_pos]
      · rfl
      · rcases hheld with h | h
        · rw [decide_eq_true h, Bool.or_true]
        · rw [h, Bool.true_or]
    · rw [hexec, hbarrier, hroomless, decide_eq_false (Int.not_lt.2 hroom), State.backlogged_of_full hfull]
      rfl
  case resolves =>
    intro x w hfind hword l
    rw [exec_duplicateResolve hfind hword]
    exact ⟨fun hlow => congrArg _ (if_pos hlow), fun hhigh => congrArg _ (if_neg (Nat.not_lt.2 hhigh))⟩
  case full =>
    intro harr hchecked hown hwaited
    refine ⟨exec_journalFull_room harr hchecked hwaited, fun hfull => ?_⟩
    have hheld : (!s.roomless r && !s.backlogged) = false := by
      rcases hfull with h | h
      · rw [h]; rfl
      · rw [State.backlogged_of_full h, Bool.not_true, Bool.and_false]
    refine ⟨_, exec_journalFull_full harr hchecked hwaited hown hheld, ?_⟩
    rw [State.refuseReq_own hown, State.setJnEvt_eq]
    refine ⟨?_, rfl, rfl, rfl, ?_, rfl⟩
    · exact (bit_setBit _ _ _ _).trans (if_pos ⟨rfl, by decide⟩)
    · refine List.map_congr_left fun x _ => if_congr ?_ rfl rfl
      simp only [Bool.and_eq_true, Bool.not_eq_true', bne_iff_ne, beq_iff_eq]
      tauto

end Sys2Proof.Machine
end

section
/-! POST and COMMIT on their way to the sequencer (R147, R150, R156, R191). -/

namespace Sys2Proof.Machine

section
variable {s t v : State} {n : CoreId} {f : FmtM} {commit : Bool} {ws : List Word} {slot : WAddr}

/-- An instruction that goes on changes nothing outside its core but the counter of free values. -/
theorem runIns_frame {sh : Shape} {body : M Next} (hruns : s.runs n sh = true) (hbody : body (s.fetched n sh) = .ok .seq v) :
    let u := s.runIns n sh body
    u = { v with cores := v.cores.set n u.cores[n], free := u.free } := by
  rw [State.runs, Bool.and_eq_true, Bool.not_eq_true'] at hruns
  dsimp only
  rw [runIns_next hruns.1 hbody hruns.2]
  obtain ⟨d, x, k, hsettle⟩ := State.settleCharge_spec (v.updCore n fun c => c.retire sh .seq) n
  rw [hsettle, State.updCore_updCore]
  simp [State.updCore]

/-- The words and the slot given to the sequencer, and the POST or COMMIT noted as outstanding (R147, R156). -/
def State.requested (v : State) (n : CoreId) (rt : BitVec 5) (commit : Bool) (ws : List Word) (slot : WAddr) : State :=
  (v.submit (.core n rt) commit slot ws).2.updCore n fun c => { c with posts := c.posts ++ [{ rt := rt, ticket := v.led.tickets + 1 }] }

/-- What a core reads its vector or block with. -/
def Core.reader (c : Core) (n : CoreId) (pr : PassId) : Reader := { x := .core n 1, pass := c.pr pr, preg := pr }

/-- With a place free, the stores leave, the operand is read, and the request is the sequencer's (R147, R150, R191). -/
theorem issuePost_ok (hfree : s.cores[n].posts.length < 4) (ht : t = s.drainAll n) (hdigit : isDigitAddr (t.cores[n].gr f.rb))
    (haligned : daPos (t.cores[n].ea f) = 0)
    (hread : (if commit then readBlock (s.cores[n].reader n f.pr) (t.cores[n].ea f) else readVector (s.cores[n].reader n f.pr) (t.cores[n].ea f)) t =
      .ok (ws, slot) v) :
    issuePost n f commit s = .ok .seq (v.requested n f.rt commit ws slot) := by
  unfold issuePost
  rw [work_bind_ok (work_getCore n s), if_neg (by rw [decide_eq_true_eq]; exact Nat.not_le.2 hfree), work_bind_ok (work_upd _ s), ← ht,
    work_bind_ok (mEA_ok hdigit), work_bind_ok (aligned_ok (beq_iff_eq.2 haligned) _ _ t)]
  cases commit with
  | false => exact work_bind_ok hread
  | true => exact work_bind_ok hread

/-- The outcome that the statement gives of a POST or a COMMIT that has read its words. -/
theorem runIns_issuePost {sh : Shape} (hslots : sh.slots = 1) (hruns : s.runs n sh = true)
    (hbody : issuePost n f commit (s.fetched n sh) = .ok .seq (v.requested n f.rt commit ws slot)) :
    let u := s.runIns n sh (issuePost n f commit)
    u.led = { v.led with
      tickets := v.led.tickets + 1,
      arrivals := v.led.arrivals ++
        [{ ticket := v.led.tickets + 1, issuer := .core n f.rt, commit := commit, slot := slot, words := ws, since := v.now, checked := false }] } ∧
    u.cores[n] = { v.cores[n].bookkept u.cores[n] with posts := v.cores[n].posts ++ [{ rt := f.rt, ticket := v.led.tickets + 1 }] } ∧
    v.cores[n].WentOn u.cores[n] 1 ∧ u = { v with led := u.led, cores := v.cores.set n u.cores[n], free := u.free } := by
  obtain ⟨-, hcore, hwent⟩ := runIns_goesOn hruns hbody
  have hframe := runIns_frame hruns hbody
  have hrequested : (v.requested n f.rt commit ws slot).cores[n] =
      { v.cores[n] with posts := v.cores[n].posts ++ [{ rt := f.rt, ticket := v.led.tickets + 1 }] } := State.updCore_core _ n _
  rw [hrequested] at hcore hwent
  rw [hslots] at hwent
  have hled := (congrArg State.led hframe).trans (show _ = (v.requested n f.rt commit ws slot).led from rfl)
  refine ⟨hled, hcore, hwent, ?_⟩
  rw [hled]
  have hset (c : Core) : (v.requested n f.rt commit ws slot).cores.set n c = v.cores.set n c := Vector.set_set ..
  dsimp only at hframe
  rw [hset] at hframe
  exact hframe

end

/-- Settles O30: both instructions issue alike; they differ in what they read. -/
theorem requestsReachTheSequencer : Obligations.RequestsReachTheSequencer := by
  unfold Obligations.RequestsReachTheSequencer
  intro s t v n f ws slot issues
  dsimp only [issues]
  constructor
  · intro ht hruns hfree hdigit haligned hread
    exact ⟨_, rfl, runIns_issuePost rfl hruns (issuePost_ok hfree ht hdigit haligned hread)⟩
  · intro ht hruns hfree hdigit haligned hread
    exact ⟨_, rfl, runIns_issuePost rfl hruns (issuePost_ok hfree ht hdigit haligned hread)⟩

end Sys2Proof.Machine
end

section
/-! Completion room (R435, R439, log 16): completions that wait in the module use it up, so a pair with some of them waiting takes no further
entry, although its jobs in progress and its written completions alone would leave room. -/

namespace Sys2Proof.Machine

/-! ## Entries that are not taken -/

/-- A pair whose jobs in progress, waiting completions and unconsumed completions fill its slots has no completion room. -/
theorem State.cqRoom_eq_false {s : State} {q : QpId} (h : s.hi.qps[q].cqSlots ≤
    s.inProgress q + s.hi.qps[q].waiting.length + (s.hi.qps[q].cqt.toNat - s.hi.qps[q].cqh.toNat)) : s.cqRoom q = false :=
  decide_eq_false (Nat.not_lt.2 h)

theorem State.mayTake_eq_false {s : State} {q : QpId} (h : s.cqRoom q = false) : s.mayTake q = false := by
  rw [State.mayTake, h, Bool.and_false]

/-- A pair without completion room takes no entry (R435, R439). -/
theorem exec_jobFetch_noRoom {s : State} {q : QpId} (h : s.cqRoom q = false) : exec (.jobFetch q) s = .next s := by
  show execJobFetch q s = _
  simp only [execJobFetch, State.mayTake_eq_false h, Bool.and_false, Bool.false_and, Bool.false_eq_true, if_false]

/-! ## A pair whose last slot is owed to a waiting completion -/

/-- The completion of a NOP, the sixteenth job of its pair, that is not yet written. -/
def sixteenthDone : Completion := { job := 15, post := false, cid := 15, status := jobDone, detail := 0, result := 0 }

/-- An enabled pair of sixteen completion slots. Its first sixteen jobs are complete: fifteen completions are written and not consumed, the
sixteenth waits, and the host has submitted a seventeenth entry. -/
def owedPair : Qp :=
  { Qp.reset with
    ctl := setBit Qp.reset.ctl 31 true, sqBase := 0x10000, cqBase := 0x20000, sqDb := 0x3000, cqDb := 0x3010, state := qpActive,
    sqh := 16, sqt := 17, cqt := 15, cqh := 0, jobs := 16, waiting := [sixteenthDone],
    bind := some { space := 0, troot := 0, dpass := .rootP15, ppass := .rootP15, cpass := .rootP15, apass := .rootP15, vstage := 0 } }

/-- A module that serves its host, with that pair as pair 0 and no job in progress. -/
def owedState : State :=
  { State.reset with
    brd := { Board.reset with powered := true }, sr := { StartBlk.reset with pcieServed := true, hostServed := true },
    hi := { HostIf.reset with qps := HostIf.reset.qps.set 0 owedPair, jobCnt := 16, nextJob := 16 } }

theorem owedState_inv : owedState.Inv := ⟨rfl, rfl⟩

theorem owedState_pair : owedState.hi.qps[(0 : QpId)] = owedPair := Vector.getElem_set_self ..

theorem owedState_qpJobs : owedState.qpJobs 0 = [] := rfl

/-- Fifteen slots written and one owed: none of the sixteen is left. -/
theorem owedState_noRoom : owedState.cqRoom 0 = false := by
  refine State.cqRoom_eq_false ?_
  rw [State.inProgress, owedState_qpJobs, owedState_pair]
  decide

/-- Refutes O53: the clause of JOB_FETCH leaves out the completions that wait in the module. In `owedState` no job is in progress and fifteen
completions of sixteen slots are written, so the clause has the next entry taken; the model counts the waiting completion too (log 16) and
takes none. -/
theorem not_queuePairsServeTheHost : ¬ Obligations.QueuePairsServeTheHost := by
  unfold Obligations.QueuePairsServeTheHost
  intro h
  obtain ⟨-, -, -, -, -, -, -, -, -, ⟨htakes, -⟩, -⟩ := h owedState 0 (.sq 0) owedState_inv
  rw [owedState_pair, owedState_qpJobs] at htakes
  obtain ⟨u, hexec, hsqh, -⟩ := htakes ⟨by decide, rfl, by decide, by decide, by decide, by decide, by decide⟩
  have hsame : owedState = u := Host.Outcome.next.inj ((exec_jobFetch_noRoom owedState_noRoom).symm.trans hexec)
  rw [← hsame, owedState_pair] at hsqh
  exact absurd hsqh (by decide)

end Sys2Proof.Machine
end

section
/-! Frames that go out on the twin links (R207-R210): what sending leaves of a link, and that nothing sent is taken back. -/

namespace Sys2Proof.Machine

/-! ## What sending changes -/

/-- A link that frames went out on: they are numbered and kept for replay, and nothing else of the link differs (R209). -/
def TwinLink.SentOn (t u : TwinLink) : Prop := u = { t with tx := u.tx, rtry := u.rtry, store := u.store, fullSince := u.fullSince }

namespace TwinLink.SentOn

variable {t u : TwinLink}

theorem up (h : t.SentOn u) : u.up = t.up := by rw [h]
theorem training (h : t.SentOn u) : u.training = t.training := by rw [h]
theorem lastBeat (h : t.SentOn u) : u.lastBeat = t.lastBeat := by rw [h]

end TwinLink.SentOn

/-- Frames went out or wait: nothing else differs, each link is as sending leaves it, and what went out before is still recorded. -/
structure Streamed (s u : State) : Prop where
  only : StreamsOnly s u
  links : ∀ l : Fin 2, s.ws.links[l].SentOn u.ws.links[l]
  out : ∃ more, u.ws.out = s.ws.out ++ more

namespace Streamed

variable {s t u : State}

theorem refl (s : State) : Streamed s s := ⟨rfl, fun _ => rfl, [], (List.append_nil _).symm⟩

theorem trans (h : Streamed s t) (k : Streamed t u) : Streamed s u := by
  obtain ⟨a, ha⟩ := h.out
  obtain ⟨b, hb⟩ := k.out
  refine ⟨h.only.trans k.only, fun l => ?_, a ++ b, by rw [hb, ha, List.append_assoc]⟩
  have hl := h.links l
  have kl := k.links l
  unfold TwinLink.SentOn at hl kl ⊢
  rw [kl, hl]

/-- What waits to be sent may change. -/
theorem requeue (s : State) (txq : List (Nat × Nat)) (txLink : Fin 2) (queue : List WaitFrame) :
    Streamed s { s with ws := { s.ws with txq := txq, txLink := txLink, queue := queue } } :=
  ⟨rfl, fun _ => rfl, [], (List.append_nil _).symm⟩

theorem up (h : Streamed s u) (l : Fin 2) : u.ws.links[l].up = s.ws.links[l].up := (h.links l).up
theorem training (h : Streamed s u) (l : Fin 2) : u.ws.links[l].training = s.ws.links[l].training := (h.links l).training
theorem lastBeat (h : Streamed s u) (l : Fin 2) : u.ws.links[l].lastBeat = s.ws.links[l].lastBeat := (h.links l).lastBeat
theorem eq (h : Streamed s u) :
    u = { s with ws := { s.ws with links := u.ws.links, txq := u.ws.txq, txLink := u.ws.txLink, queue := u.ws.queue, out := u.ws.out } } := h.only

end Streamed

/-- A frame on a link that it finds room on (R207, R209). -/
def State.frameFor (s : State) (l : Fin 2) (kind : BitVec 4) (pos : BitVec 16) (words : List Word) : SentFrame :=
  let t := s.ws.links[l]
  { link := l, kind := kind, fseq := t.tx + 1, fack := t.rx, rtry := t.rtry, pos := pos, words := words,
    crc := frameCrc kind (t.tx + 1) t.rx t.rtry pos words, replays := 0 }

theorem State.sendFrame_room {s : State} {l : Fin 2} (h : s.twinRoom l = true) (kind : BitVec 4) (pos : BitVec 16) (words : List Word) :
    s.sendFrame l kind pos words = { s with ws := { s.ws with
      out := s.ws.out ++ [s.frameFor l kind pos words],
      links := s.ws.links.set l
        { s.ws.links[l] with
          tx := s.ws.links[l].tx + 1, rtry := false, store := s.ws.links[l].store ++ [s.frameFor l kind pos words],
          fullSince := if s.ws.links[l].store.length + 1 < 128 then none else some (s.ws.links[l].fullSince.getD s.now) } } } := by
  rw [State.sendFrame, if_pos h]
  simp only [State.updTwin, TwinLink.noteFull, List.length_append, List.length_singleton]
  rfl

theorem State.sendFrame_full {s : State} {l : Fin 2} (h : s.twinRoom l = false) (kind : BitVec 4) (pos : BitVec 16) (words : List Word) :
    s.sendFrame l kind pos words = s := by
  rw [State.sendFrame, h]
  rfl

/-- A link with another in its place. -/
theorem getElem_set_link (v : Vector TwinLink 2) (l m : Fin 2) (t : TwinLink) : (v.set l t)[m] = if m = l then t else v[m] := by
  split
  · next h => subst h; simp
  · next h => simp [Fin.val_inj, Ne.symm h]

theorem State.sendFrame_streamed (s : State) (l : Fin 2) (kind : BitVec 4) (pos : BitVec 16) (words : List Word) :
    Streamed s (s.sendFrame l kind pos words) := by
  cases h : s.twinRoom l with
  | false => rw [State.sendFrame_full h]; exact .refl s
  | true =>
    refine ⟨State.sendFrame_streams s l kind pos words, fun m => ?_, ?_⟩
    · rw [State.sendFrame_room h]
      dsimp only
      rw [getElem_set_link]
      split
      · next hm => subst hm; rfl
      · rfl
    · rw [State.sendFrame_room h]
      exact ⟨_, rfl⟩

theorem State.pumpStream_streamed (s : State) (k : Nat) : Streamed s (s.pumpStream k) := by
  induction k generalizing s with
  | zero => exact .refl s
  | succ k ih =>
    unfold State.pumpStream
    split
    · exact .refl s
    · split
      · exact (Streamed.requeue s _ _ _).trans (ih _)
      · split
        · exact .refl s
        · exact ((State.sendFrame_streamed s _ _ _ _).trans (Streamed.requeue _ _ _ _)).trans (ih _)

theorem State.pumpQueue_streamed (s : State) (k : Nat) : Streamed s (s.pumpQueue k) := by
  induction k generalizing s with
  | zero => exact .refl s
  | succ k ih =>
    unfold State.pumpQueue
    split
    · split
      · exact ((Streamed.requeue s _ _ _).trans (State.sendFrame_streamed _ _ _ _ _)).trans (ih _)
      · exact .refl s
    · exact .refl s

theorem State.pump_streamed (s : State) : Streamed s s.pump := (State.pumpStream_streamed s _).trans (State.pumpQueue_streamed _ _)

theorem State.sendBoth_streamed (s : State) (kind : BitVec 4) (words : List Word) : Streamed s (s.sendBoth kind words) :=
  (State.sendFrame_streamed s 0 kind 0 words).trans (State.sendFrame_streamed _ 1 kind 0 words)

/-! ## Frames for each link (R211, R214) -/

theorem State.twinRoom_sendFrame_other {s : State} {l m : Fin 2} (h : m ≠ l) (kind : BitVec 4) (pos : BitVec 16) (words : List Word) :
    (s.sendFrame l kind pos words).twinRoom m = s.twinRoom m := by
  cases hr : s.twinRoom l with
  | false => rw [State.sendFrame_full hr]
  | true =>
    rw [State.sendFrame_room hr]
    unfold State.twinRoom
    dsimp only
    rw [getElem_set_link, if_neg h]

theorem State.sendFrame_sends {s : State} {l : Fin 2} (h : s.twinRoom l = true) (kind : BitVec 4) (words : List Word) :
    ∃ f ∈ (s.sendFrame l kind 0 words).ws.out, f.link = l ∧ f.kind = kind ∧ f.words = words := by
  rw [State.sendFrame_room h]
  exact ⟨_, List.mem_append_right _ (List.mem_singleton_self _), rfl, rfl, rfl⟩

/-- A frame for both links goes out on each that has room. -/
theorem State.sendBoth_sent (s : State) (kind : BitVec 4) (words : List Word) : Sent s (s.sendBoth kind words) kind words := by
  intro l hl
  match l with
  | 0 =>
    obtain ⟨f, hf, hlink, hkind, hwords⟩ := State.sendFrame_sends hl kind words
    obtain ⟨more, hmore⟩ := (State.sendFrame_streamed (s.sendFrame 0 kind 0 words) 1 kind 0 words).out
    exact ⟨f, by rw [State.sendBoth, hmore]; exact List.mem_append_left _ hf, hlink, hkind, hwords⟩
  | 1 =>
    exact State.sendFrame_sends (by rw [State.twinRoom_sendFrame_other (by decide)]; exact hl) kind words

theorem Sent.of_room {s t u : State} {kind : BitVec 4} {ws : List Word} (h : Sent t u kind ws) (hroom : ∀ l, t.twinRoom l = s.twinRoom l) : Sent s u kind ws :=
  fun l hl => h l ((hroom l).trans hl)

/-- What was sent is still recorded after more was. -/
theorem Sent.of_out {s t u : State} {kind : BitVec 4} {ws : List Word} (h : Sent s t kind ws) (hout : ∃ more, u.ws.out = t.ws.out ++ more) :
    Sent s u kind ws := by
  obtain ⟨more, hmore⟩ := hout
  intro l hl
  obtain ⟨f, hf, hfields⟩ := h l hl
  exact ⟨f, hmore ▸ List.mem_append_left _ hf, hfields⟩

end Sys2Proof.Machine
end

section
/-! Frames that arrive on a twin link (R207, R209, R214). -/

namespace Sys2Proof.Machine

section
variable {s : State} {l : Fin 2} {kind : BitVec 4} {fr : Frame} {words : List Word}

/-- One twin link replaced. -/
def State.setLink (s : State) (l : Fin 2) (t : TwinLink) : State := { s with ws := { s.ws with links := s.ws.links.set l t } }

theorem State.setLink_link (s : State) (l : Fin 2) (t : TwinLink) : (s.setLink l t).ws.links[l] = t := by simp [State.setLink]

theorem State.setLink_setLink (s : State) (l : Fin 2) (t u : TwinLink) : (s.setLink l t).setLink l u = s.setLink l u := by simp [State.setLink]

/-- A link after a frame in order (R209): numbered on, with what its FACK covers gone from the replay store. -/
def State.linkTook (s : State) (l : Fin 2) (fr : Frame) : TwinLink :=
  let t := s.ws.links[l]
  let left := unacked fr.fack t.store
  { t with
    rx := fr.fseq, lastGood := s.now, store := left, good := t.good + 1,
    fullSince := if left.length < 128 then none else some (t.fullSince.getD s.now) }

/-- A link after a frame that fails its CRC or comes out of order (R209). -/
def State.linkRefused (s : State) (l : Fin 2) : TwinLink :=
  { s.ws.links[l] with crcCnt := s.ws.links[l].crcCnt + 1, rtry := true, good := 0 }

/-- A valid frame (R207, R209): of its kind, with its CRC, in order, on a link that is not retraining. -/
structure State.frameValid (s : State) (l : Fin 2) (kind : BitVec 4) (fr : Frame) : Prop where
  training : s.ws.links[l].training = false
  kind : fr.kind = kind
  crc : fr.crc = frameCode fr
  fseq : fr.fseq = s.ws.links[l].rx + 1

theorem State.frameIn_training (h : s.ws.links[l].training = true) : s.frameIn l kind fr = (s, false) := if_pos h

theorem State.frameIn_refused (htrained : s.ws.links[l].training = false)
    (hbad : fr.kind ≠ kind ∨ fr.crc ≠ frameCode fr ∨ fr.fseq ≠ s.ws.links[l].rx + 1) :
    s.frameIn l kind fr = (s.setLink l (s.linkRefused l), false) := by
  have htest : (!frameGood fr kind || fr.fseq != inc s.ws.links[l].rx) = true := by
    simp only [frameGood, inc, Bool.not_and, Bool.or_eq_true, Bool.not_eq_true', beq_eq_false_iff_ne, bne_iff_ne]
    tauto
  exact (if_neg (by rw [htrained]; exact Bool.false_ne_true)).trans (if_pos htest)

/-- A valid frame's content is taken on a link in service, and on one that returns to it with 64 valid frames in a row (R209). -/
def State.served (v : State) (l : Fin 2) : State × Bool :=
  if v.ws.links[l].up then (v.pump, true)
  else if !v.ws.links[l].training && decide (64 ≤ v.ws.links[l].good) then
    (((v.setLink l { v.ws.links[l] with up := true, lastBeat := v.now }).setWsEvt 7).pump, true)
  else (v, false)

theorem State.served_up {v : State} (h : v.ws.links[l].up = true) : v.served l = (v.pump, true) := if_pos h

theorem State.served_down {v : State} (h : v.ws.links[l].up = false) (hfew : v.ws.links[l].training = true ∨ v.ws.links[l].good < 64) :
    v.served l = (v, false) := by
  refine (if_neg (by rw [h]; exact Bool.false_ne_true)).trans (if_neg ?_)
  rcases hfew with htraining | hgood
  · rw [htraining]
    exact Bool.false_ne_true
  · rw [decide_eq_false (Nat.not_le.2 hgood), Bool.and_false]
    exact Bool.false_ne_true

theorem State.served_returns {v : State} (h : v.ws.links[l].up = false) (htrained : v.ws.links[l].training = false) (hmany : 64 ≤ v.ws.links[l].good) :
    v.served l = (((v.setLink l { v.ws.links[l] with up := true, lastBeat := v.now }).setWsEvt 7).pump, true) :=
  (if_neg (by rw [h]; exact Bool.false_ne_true)).trans (if_pos (by rw [htrained, decide_eq_true hmany]; rfl))

/-- What becomes of a valid frame: a replay where it asks for one, and its content taken if the link is in service, or returns to it. -/
theorem State.frameIn_valid (h : s.frameValid l kind fr) : s.frameIn l kind fr =
    (if fr.rtry then (s.setLink l (s.linkTook l fr)).replayTwin l else s.setLink l (s.linkTook l fr)).served l := by
  obtain ⟨htrained, hkind, hcrc, hseq⟩ := h
  have htest : ¬(!frameGood fr kind || fr.fseq != inc s.ws.links[l].rx) = true := by
    rw [frameGood, beq_iff_eq.2 hkind, beq_iff_eq.2 hcrc, hseq]
    simp [inc]
  exact (if_neg (by rw [htrained]; exact Bool.false_ne_true)).trans (if_neg htest)

theorem State.frameValid_of_order (h : s.frameInOrder l kind fr) : s.frameValid l kind fr := by
  obtain ⟨htrained, -, hkind, hcrc, hseq, -⟩ := h
  exact ⟨htrained, hkind, hcrc, hseq⟩

/-- A frame in order on a link in service is heard, and its content taken. -/
theorem State.frameIn_ordered (h : s.frameInOrder l kind fr) : s.frameIn l kind fr = (s.heard l fr, true) := by
  obtain ⟨-, hup, -, -, -, hrtry⟩ := id h
  rw [State.frameIn_valid (State.frameValid_of_order h), hrtry, if_neg Bool.false_ne_true]
  exact State.served_up (by rw [State.setLink_link]; exact hup)

/-! ## The frames of each KIND (R208) -/

/-- Each KIND with the command of its frame. -/
def twinFrames (l : Fin 2) (fr : Frame) (words : List Word) : List (BitVec 4 × Instr) :=
  [(0, .idle l fr), (1, .stream l fr), (2, .twinAck l fr), (3, .heartbeat l fr), (4, .healReq l fr), (5, .healData l fr), (6, .copyStart l fr),
    (7, .copy l fr), (8, .recon l fr words), (9, .wtab l fr)]

/-- A frame whose content is not taken does what its arrival does, whatever its KIND. -/
theorem exec_frame_untaken {x : BitVec 4 × Instr} (hx : x ∈ twinFrames l fr words) {t : State} (h : s.frameIn l x.1 fr = (t, false)) :
    exec x.2 s = .next t := by
  simp only [twinFrames, List.mem_cons, List.not_mem_nil, or_false] at hx
  rcases hx with rfl | rfl | rfl | rfl | rfl | rfl | rfl | rfl | rfl | rfl
  · show execIdle l fr s = _
    simp only [execIdle, h]
  · show execStream l fr s = _
    simp only [execStream, h]
  · show execTwinAck l fr s = _
    simp only [execTwinAck, h]
  · show execHeartbeat l fr s = _
    simp only [execHeartbeat, h]
  · show execHealReq l fr s = _
    simp only [execHealReq, h]
  · show execHealData l fr s = _
    simp only [execHealData, h]
  · show execCopyStart l fr s = _
    simp only [execCopyStart, h]
  · show execCopy l fr s = _
    simp only [execCopy, h]
  · show execRecon l fr words s = _
    simp only [execRecon, h]
  · show execWtab l fr s = _
    simp only [execWtab, h]

/-- IDLE with its content taken (R208, R214). -/
theorem exec_idle_taken {t : State} (h : s.frameIn l 0 fr = (t, true)) : exec (.idle l fr) s = .next t.plainIn := by
  show execIdle l fr s = _
  simp only [execIdle, h]

/-! ## A frame in order that names no term (R214) -/

theorem State.plainIn_apart (h : s.ws.contact = false) : s.plainIn = s := if_neg (by rw [h]; exact Bool.false_ne_true)

/-- Nothing differs but the link, what goes out, and when the lease began. -/
def HeardOnly (s u : State) : Prop := u = { s with ws := { s.ws with
  links := u.ws.links, txq := u.ws.txq, txLink := u.ws.txLink, queue := u.ws.queue, out := u.ws.out, lastTerm := u.ws.lastTerm } }

theorem StreamsOnly.heardOnly {u : State} (h : StreamsOnly s u) : HeardOnly s u := by
  have hlease : u.ws.lastTerm = s.ws.lastTerm := by rw [h]
  rw [HeardOnly, hlease]
  exact h

theorem HeardOnly.trans {t u : State} (h : HeardOnly s t) (k : HeardOnly t u) : HeardOnly s u :=
  Eq.trans k (congrArg (fun x : State => { x with ws := { x.ws with
    links := u.ws.links, txq := u.ws.txq, txLink := u.ws.txLink, queue := u.ws.queue, out := u.ws.out, lastTerm := u.ws.lastTerm } }) h)

/-- The lease renewed by a twin in contact begins anew, and no more. -/
theorem State.leased_heardOnly (h : s.ws.contact = true) : HeardOnly s s.leased :=
  congrArg (fun b : Bool => ({ s with ws := { s.ws with contact := b, lastTerm := s.now } } : State)) h.symm

theorem State.heard_streams (s : State) (l : Fin 2) (fr : Frame) : StreamsOnly s (s.heard l fr) :=
  StreamsOnly.trans (t := s.setLink l (s.linkTook l fr)) rfl (State.pump_streams _)

theorem State.heard_contact (s : State) (l : Fin 2) (fr : Frame) : (s.heard l fr).ws.contact = s.ws.contact := by rw [s.heard_streams l fr]

theorem State.heard_plainIn (s : State) (l : Fin 2) (fr : Frame) : (s.heard l fr).plainIn = s.took l fr := by
  rw [State.took, ← s.heard_contact l fr]
  rfl

theorem State.took_heardOnly (s : State) (l : Fin 2) (fr : Frame) : HeardOnly s (s.took l fr) := by
  unfold State.took
  split
  · next h => exact (s.heard_streams l fr).heardOnly.trans (State.leased_heardOnly ((s.heard_contact l fr).trans h))
  · exact (s.heard_streams l fr).heardOnly

end

end Sys2Proof.Machine
end

section
/-! A twin link in service and out of it (R209, R214, R215). -/

namespace Sys2Proof.Machine

section
variable {s : State} {l : Fin 2} {fr : Frame}

/-! ## WS_EVT (R236) -/

theorem State.setWsEvt_ws (s : State) (k : Nat) : (s.setWsEvt k).ws = { s.ws with evt := setBit s.ws.evt k true } := State.raise_ws _ _
theorem State.setWsEvt_mem (s : State) (k : Nat) : (s.setWsEvt k).mem = s.mem := State.raise_mem _ _
theorem State.setWsEvt_cores (s : State) (k : Nat) : (s.setWsEvt k).cores = s.cores := State.raise_cores _ _
theorem State.setWsEvt_led (s : State) (k : Nat) : (s.setWsEvt k).led = s.led := State.raise_led _ _

theorem bit_setBit_same {w : Nat} (x : BitVec w) {k : Nat} (h : k < w) : bit (setBit x k true) k = true := by simp [bit_setBit, h]

/-! ## A link taken out of service (R209) -/

/-- A link that goes out of service and retrains. -/
def TwinLink.downed (t : TwinLink) : TwinLink := { t with up := false, training := true, good := 0, store := [], fullSince := none, rtry := false }

def State.twinRetrains (s : State) (l : Fin 2) : State := (s.setLink l s.ws.links[l].downed).setWsEvt 7

theorem State.twinRetrains_ws (s : State) (l : Fin 2) :
    (s.twinRetrains l).ws = { s.ws with links := s.ws.links.set l s.ws.links[l].downed, evt := setBit s.ws.evt 7 true } := State.setWsEvt_ws _ _

/-- What waits to be sent, and how much a full copy brings, changed. -/
def State.requeued (s : State) (txq : List (Nat × Nat)) (queue : List WaitFrame) (copied : Nat) : State :=
  { s with ws := { s.ws with txq := txq, queue := queue, copied := copied } }

/-- What no ACK covers waits to be streamed again (R209). -/
def State.restreams (s : State) : State := s.requeued (s.unackedWords s.ws.twinAseq) s.ws.queue s.ws.copied

/-- The frames of a full copy no longer wait to be sent (log 52). -/
def State.dropsCopy (s : State) : State := s.requeued s.ws.txq (s.ws.queue.filter fun f => f.kind != 6 && f.kind != 7) s.ws.copied

theorem State.twinDown_eq (s : State) (l : Fin 2) : s.twinDown l =
    let d := s.twinRetrains l
    if d.streams then
      if d.ws.sync == 1 && d.ws.copied != 0 && !d.ws.twinSynced then d.restreams.dropsCopy.sendCopy else d.restreams.pump
    else d.pump := rfl

/-- Outside a synchronisation, a module that leads streams again what no ACK covers. -/
theorem State.twinDown_outsideSync (hsync : s.ws.sync ≠ 1) : s.twinDown l = if s.ws.role = 1 ∧ s.ws.sync ≠ 1
    then ({ s.twinRetrains l with ws := { (s.twinRetrains l).ws with txq := (s.twinRetrains l).unackedWords s.ws.twinAseq } } : State).pump
    else (s.twinRetrains l).pump := by
  have hws := s.twinRetrains_ws l
  have hnot : (s.ws.sync == 1) = false := beq_eq_false_iff_ne.2 hsync
  have hsource : ((s.twinRetrains l).ws.sync == 1) = false := by rw [hws]; exact hnot
  have hstreams : (s.twinRetrains l).streams = (s.ws.role == 1) := by rw [State.streams, hsource, hws, Bool.or_false]
  have haseq : (s.twinRetrains l).ws.twinAseq = s.ws.twinAseq := by rw [hws]
  rw [State.twinDown_eq]
  dsimp only
  rw [hstreams, hsource, Bool.false_and, Bool.false_and, if_neg Bool.false_ne_true, ← haseq]
  by_cases hrole : s.ws.role = 1
  · rw [if_pos (beq_iff_eq.2 hrole), if_pos ⟨hrole, hsync⟩]
    rfl
  · rw [if_neg (mt beq_iff_eq.1 hrole), if_neg fun h => hrole h.1]

/-- A full copy sends frames, and notes how much it brings (R227). -/
theorem State.sendCopy_streamed (s : State) : Streamed (s.requeued s.ws.txq s.ws.queue s.copyTotal) s.sendCopy :=
  (Streamed.requeue (s.requeued s.ws.txq s.ws.queue s.copyTotal) _ _ _).trans (State.pump_streamed _)

/-- A link is out of service and retrains, which WS_EVT reports; the count of replays stands. -/
def State.DownAfter (s : State) (l : Fin 2) (u : State) : Prop :=
  u.ws.links[l].up = false ∧ u.ws.links[l].training = true ∧ bit u.ws.evt 7 = true ∧ u.ws.replayCnt = s.ws.replayCnt

theorem State.twinRetrains_downAfter (s : State) (l : Fin 2) : s.DownAfter l (s.twinRetrains l) := by
  have hlink : (s.twinRetrains l).ws.links[l] = s.ws.links[l].downed := by rw [s.twinRetrains_ws]; simp
  refine ⟨by rw [hlink]; rfl, by rw [hlink]; rfl, ?_, by rw [s.twinRetrains_ws]⟩
  rw [s.twinRetrains_ws]
  exact bit_setBit_same _ (by decide)

theorem State.DownAfter.requeued {t : State} (h : s.DownAfter l t) (txq : List (Nat × Nat)) (queue : List WaitFrame) (copied : Nat) :
    s.DownAfter l (t.requeued txq queue copied) := h

theorem State.DownAfter.streamed {t u : State} (h : s.DownAfter l t) (k : Streamed t u) : s.DownAfter l u := by
  obtain ⟨hup, htraining, hevt, hcount⟩ := h
  exact ⟨(k.up l).trans hup, (k.training l).trans htraining, by rw [k.eq]; exact hevt, by rw [k.eq]; exact hcount⟩

theorem State.twinDown_downAfter (s : State) (l : Fin 2) : s.DownAfter l (s.twinDown l) := by
  have hdown := s.twinRetrains_downAfter l
  rw [State.twinDown_eq]
  generalize s.twinRetrains l = d at hdown
  dsimp only
  split
  · split
    · exact (((hdown.requeued _ _ _).requeued _ _ _).requeued _ _ _).streamed (State.sendCopy_streamed _)
    · exact (hdown.requeued _ _ _).streamed (State.pump_streamed _)
  · exact hdown.streamed (State.pump_streamed d)

end

end Sys2Proof.Machine
end

section
/-! Frames replayed, links returned to service, and the timers of a link (R209, R214, R215). -/

namespace Sys2Proof.Machine

section
variable {s : State} {l : Fin 2} {fr : Frame}

/-! ## Replay (R209) -/

/-- The frames that a link keeps, as they are replayed: with the FACK of now, and counted. -/
def TwinLink.replayed (t : TwinLink) : List SentFrame := t.store.map fun x => { x.stamp t.rx false with replays := x.replays + 1 }

/-- The frames of a link sent again. -/
def State.resends (s : State) (l : Fin 2) : State := { s with ws := { s.ws with
  links := s.ws.links.set l { s.ws.links[l] with store := s.ws.links[l].replayed },
  replayCnt := s.ws.replayCnt + BitVec.ofNat 32 s.ws.links[l].replayed.length, out := s.ws.out ++ s.ws.links[l].replayed } }

theorem State.resends_link (s : State) (l : Fin 2) : (s.resends l).ws.links[l] = { s.ws.links[l] with store := s.ws.links[l].replayed } := by
  simp [State.resends]

/-- A frame replayed for the eighth time has been replayed seven times before. -/
theorem TwinLink.any_replayed (t : TwinLink) : (t.replayed.any fun x => decide (8 ≤ x.replays)) = true ↔ ∃ x ∈ t.store, 7 ≤ x.replays := by
  simp [TwinLink.replayed]

theorem State.replayTwin_resends (h : ∀ x ∈ s.ws.links[l].store, x.replays < 7) : s.replayTwin l = s.resends l :=
  if_neg fun hany => by
    obtain ⟨x, hx, hseven⟩ := (TwinLink.any_replayed s.ws.links[l]).1 hany
    exact Nat.not_le.2 (h x hx) hseven

theorem State.replayTwin_down (h : ∃ x ∈ s.ws.links[l].store, 7 ≤ x.replays) : s.replayTwin l = (s.resends l).twinDown l :=
  if_pos ((TwinLink.any_replayed s.ws.links[l]).2 h)

/-! ## What the lease leaves of a link (R214) -/

theorem State.plainIn_spec (s : State) : s.plainIn.ws.links = s.ws.links ∧ s.plainIn.ws.out = s.ws.out ∧ s.plainIn.ws.replayCnt = s.ws.replayCnt := by
  unfold State.plainIn
  split <;> exact ⟨rfl, rfl, rfl⟩

/-! ## IDLE on a link in service and on one out of it -/

/-- A valid frame that is not yet the 64th in a row leaves a link out of service (R209). -/
theorem exec_idle_counted (h : s.frameValid l 0 fr) (hdown : s.ws.links[l].up = false) (hrtry : fr.rtry = false) (hfew : s.ws.links[l].good + 1 < 64) :
    exec (.idle l fr) s = .next (s.setLink l (s.linkTook l fr)) := by
  refine exec_frame_untaken (words := []) List.mem_cons_self ?_
  rw [State.frameIn_valid h, hrtry, if_neg Bool.false_ne_true]
  exact State.served_down (by rw [State.setLink_link]; exact hdown) (.inr (by rw [State.setLink_link]; exact hfew))

/-- A link with its 64th valid frame in a row is in service again (R209). -/
def State.returns (s : State) (l : Fin 2) (fr : Frame) : State :=
  ((s.setLink l { s.linkTook l fr with up := true, lastBeat := s.now }).setWsEvt 7).pump

theorem State.returns_spec (s : State) (l : Fin 2) (fr : Frame) : let u := s.returns l fr
    u.ws.links[l].up = true ∧ u.ws.links[l].lastBeat = s.now ∧ bit u.ws.evt 7 = true ∧ u.mem = s.mem ∧ u.cores = s.cores ∧ u.ws.contact = s.ws.contact := by
  intro u
  let v := s.setLink l { s.linkTook l fr with up := true, lastBeat := s.now }
  have hsent : Streamed (v.setWsEvt 7) u := State.pump_streamed _
  have hlink : (v.setWsEvt 7).ws.links[l] = { s.linkTook l fr with up := true, lastBeat := s.now } := by
    rw [State.setWsEvt_ws]
    exact s.setLink_link l _
  refine ⟨by rw [hsent.up, hlink], by rw [hsent.lastBeat, hlink], ?_, ?_, ?_, ?_⟩
  · rw [hsent.eq, State.setWsEvt_ws]
    exact bit_setBit_same _ (by decide)
  · rw [hsent.eq]; exact State.setWsEvt_mem v 7
  · rw [hsent.eq]; exact State.setWsEvt_cores v 7
  · rw [hsent.eq, State.setWsEvt_ws]; rfl

theorem exec_idle_returns (h : s.frameValid l 0 fr) (hdown : s.ws.links[l].up = false) (hrtry : fr.rtry = false) (hmany : 64 ≤ s.ws.links[l].good + 1)
    (hcontact : s.ws.contact = false) : exec (.idle l fr) s = .next (s.returns l fr) := by
  have hin : s.frameIn l 0 fr = (s.returns l fr, true) := by
    rw [State.frameIn_valid h, hrtry, if_neg Bool.false_ne_true, State.served_returns, State.setLink_link, State.setLink_setLink]
    · rfl
    · rw [State.setLink_link]; exact hdown
    · rw [State.setLink_link]; exact h.training
    · rw [State.setLink_link]; exact hmany
  rw [exec_idle_taken hin, State.plainIn_apart ((s.returns_spec l fr).2.2.2.2.2.trans hcontact)]

/-- What a frame that asks for a replay finds (R209): the frames that its FACK does not cover. -/
theorem State.frameIn_rtry (h : s.frameValid l 0 fr) (hup : s.ws.links[l].up = true) (hrtry : fr.rtry = true) :
    let left := unacked fr.fack s.ws.links[l].store
    let v := (s.setLink l (s.linkTook l fr)).resends l
    ((∀ x ∈ left, x.replays < 7) → s.frameIn l 0 fr = (v.pump, true)) ∧
    ((∃ x ∈ left, 7 ≤ x.replays) → s.frameIn l 0 fr = (v.twinDown l, false)) := by
  have hstore : (s.setLink l (s.linkTook l fr)).ws.links[l].store = unacked fr.fack s.ws.links[l].store := by rw [State.setLink_link]; rfl
  intro left v
  have hin := State.frameIn_valid h
  rw [hrtry, if_pos rfl] at hin
  rw [hin]
  constructor
  · intro hfew
    rw [State.replayTwin_resends (by rw [hstore]; exact hfew)]
    exact State.served_up (by rw [State.resends_link, State.setLink_link]; exact hup)
  · intro hmany
    rw [State.replayTwin_down (by rw [hstore]; exact hmany)]
    obtain ⟨hdown, htraining, -⟩ := v.twinDown_downAfter l
    exact State.served_down hdown (.inl htraining)

theorem exec_idle_rtry (h : s.frameValid l 0 fr) (hup : s.ws.links[l].up = true) (hrtry : fr.rtry = true) :
    let left := unacked fr.fack s.ws.links[l].store
    ∃ u, exec (.idle l fr) s = .next u ∧ u.ws.replayCnt = s.ws.replayCnt + BitVec.ofNat 32 left.length ∧
      ((∀ x ∈ left, x.replays < 7) → ∃ rest, u.ws.links[l].up = true ∧
        u.ws.out = s.ws.out ++ (left.map fun x => { x.stamp fr.fseq false with replays := x.replays + 1 }) ++ rest) ∧
      ((∃ x ∈ left, 7 ≤ x.replays) → u.ws.links[l].up = false ∧ u.ws.links[l].training = true ∧ bit u.ws.evt 7 = true) := by
  intro left
  obtain ⟨hfew, hmany⟩ := State.frameIn_rtry h hup hrtry
  let v := (s.setLink l (s.linkTook l fr)).resends l
  have hlink : (s.setLink l (s.linkTook l fr)).ws.links[l] = s.linkTook l fr := s.setLink_link l _
  have hagain : (s.linkTook l fr).replayed = left.map fun x => { x.stamp fr.fseq false with replays := x.replays + 1 } := rfl
  have hcount : v.ws.replayCnt = s.ws.replayCnt + BitVec.ofNat 32 left.length := by
    show s.ws.replayCnt + BitVec.ofNat 32 (s.setLink l (s.linkTook l fr)).ws.links[l].replayed.length = _
    rw [hlink, hagain, List.length_map]
  by_cases hold : ∃ x ∈ left, 7 ≤ x.replays
  · obtain ⟨hdown, htraining, hevt, hkept⟩ := v.twinDown_downAfter l
    exact ⟨_, exec_frame_untaken (words := []) List.mem_cons_self (hmany hold), hkept.trans hcount,
      fun hall => absurd hold fun ⟨x, hx, hseven⟩ => Nat.not_le.2 (hall x hx) hseven, fun _ => ⟨hdown, htraining, hevt⟩⟩
  · have hall : ∀ x ∈ left, x.replays < 7 := fun x hx => Nat.lt_of_not_le fun hseven => hold ⟨x, hx, hseven⟩
    obtain ⟨hlinks, hout, hkept⟩ := v.pump.plainIn_spec
    have hsent := v.pump_streamed
    obtain ⟨more, hmore⟩ := hsent.out
    refine ⟨_, exec_idle_taken (hfew hall), ?_, fun _ => ⟨more, ?_, ?_⟩, fun hseven => absurd hseven hold⟩
    · exact hkept.trans (Eq.trans (by rw [hsent.eq]) hcount)
    · rw [hlinks, hsent.up, State.resends_link, hlink]
      exact hup
    · rw [hout, hmore]
      show s.ws.out ++ (s.setLink l (s.linkTook l fr)).ws.links[l].replayed ++ more = _
      rw [hlink, hagain]

/-! ## Timers (R209, R214, R215) -/

theorem exec_heartbeatTimer (hup : s.ws.links[l].up = true) (hdue : s.ws.links[l].lastBeat.toNat + 500 ≤ s.now.toNat) :
    exec (.heartbeatTimer l) s = .next ((s.setLink l { s.ws.links[l] with lastBeat := s.now }).sendFrame l 3 0 s.beatWords) :=
  congrArg _ (if_pos (by rw [hup, decide_eq_true hdue]; rfl))

theorem exec_heartbeatTimer_early (h : s.now.toNat < s.ws.links[l].lastBeat.toNat + 500) : exec (.heartbeatTimer l) s = .next s :=
  congrArg _ (if_neg (by rw [decide_eq_false (Nat.not_le.2 h), Bool.and_false]; exact Bool.false_ne_true))

theorem exec_linkSilence (hup : s.ws.links[l].up = true) (hdue : s.ws.links[l].lastGood.toNat + 2000 ≤ s.now.toNat) :
    exec (.linkSilence l) s = .next (s.twinDown l) :=
  congrArg _ (if_pos (by rw [hup, decide_eq_true hdue]; rfl))

theorem exec_linkSilence_early (h : s.now.toNat < s.ws.links[l].lastGood.toNat + 2000) : exec (.linkSilence l) s = .next s :=
  congrArg _ (if_neg (by rw [decide_eq_false (Nat.not_le.2 h), Bool.and_false]; exact Bool.false_ne_true))

theorem exec_twinReplayStoreFull (hup : s.ws.links[l].up = true) {t0 : BitVec 64} (hfull : s.ws.links[l].fullSince = some t0)
    (hdue : t0.toNat + 2000 ≤ s.now.toNat) : exec (.twinReplayStoreFull l) s = .next (s.twinDown l) :=
  congrArg _ (if_pos (by rw [hup, hfull, Option.any_some, decide_eq_true hdue]; rfl))

theorem exec_twinReplayStoreFull_early (h : ∀ t0, s.ws.links[l].fullSince = some t0 → s.now.toNat < t0.toNat + 2000) :
    exec (.twinReplayStoreFull l) s = .next s := by
  refine congrArg _ (if_neg fun hdue => ?_)
  obtain ⟨t0, hfull, hlong⟩ := (Option.any_eq_true _ _).1 (Bool.and_eq_true_iff.1 hdue).2
  exact Nat.not_le.2 (h t0 hfull) (of_decide_eq_true hlong)

theorem exec_twinRetrainDone (htraining : s.ws.links[l].training = true) (hpower : s.brd.powered = true) :
    exec (.twinRetrainDone l true) s = .next (s.setLink l
      { s.ws.links[l] with training := false, good := 0, tx := 0, rx := 0, rtry := false, store := [], fullSince := none }) :=
  congrArg _ (if_pos (by rw [htraining, hpower]; rfl))

end

/-- Settles O44: frames that are not taken by their arrival, IDLE by the state of its link, and the timers by their lemmas. -/
theorem twinLinksTakeFramesInOrder : Obligations.TwinLinksTakeFramesInOrder := by
  unfold Obligations.TwinLinksTakeFramesInOrder
  intro s l fr words t put frames valid left since down outOfService
  have hvalid (h : valid) : s.frameValid l 0 fr := ⟨h.2.2.2, h.1, h.2.1, h.2.2.1⟩
  refine ⟨fun x hx h => exec_frame_untaken hx (State.frameIn_training h), fun x hx htrained hbad => exec_frame_untaken hx (State.frameIn_refused htrained hbad),
    fun h => ?taken, fun h hdown hrtry => ⟨exec_idle_counted (hvalid h) hdown hrtry, fun hmany hcontact => ?back⟩,
    fun h => exec_idle_rtry (hvalid h), fun kind pos ws => ?send, exec_heartbeatTimer, exec_heartbeatTimer_early,
    fun hup hsync => ⟨fun hdue => ?silent, fun t0 hfull hdue => ?full⟩, exec_linkSilence_early, exec_twinReplayStoreFull_early, exec_twinRetrainDone, rfl⟩
  case taken => rw [exec_idle_taken (State.frameIn_ordered h), State.heard_plainIn]
  case back =>
    obtain ⟨hup, hbeat, hevt, hmem, hcores, -⟩ := s.returns_spec l fr
    exact ⟨_, exec_idle_returns (hvalid h) hdown hrtry hmany hcontact, hup, hbeat, hevt, hmem, hcores⟩
  case send =>
    cases hroom : s.twinRoom l with
    | true =>
      have htest := hroom
      rw [State.twinRoom, Bool.and_eq_true, Bool.and_eq_true, decide_eq_true_eq, and_assoc] at htest
      rw [State.sendFrame_room hroom]
      exact (if_pos htest).symm
    | false =>
      rw [State.sendFrame_full hroom]
      refine (if_neg fun htest => ?_).symm
      rw [State.twinRoom, htest.1, htest.2.1, decide_eq_true htest.2.2] at hroom
      exact Bool.false_ne_true hroom.symm
  case silent => exact (exec_linkSilence hup hdue).trans (congrArg _ (State.twinDown_outsideSync hsync))
  case full => exact (exec_twinReplayStoreFull hup hfull hdue).trans (congrArg _ (State.twinDown_outsideSync hsync))

end Sys2Proof.Machine
end

section
/-! What the ledger's operations leave of the Watershed (R154-R168, R212, R217, R222). -/

namespace Sys2Proof.Machine

/-- A projection that no step of a fold changes is as it was at the end. -/
theorem foldl_leaves {α β : Type} (π : State → β) {f : State → α → State} (h : ∀ s x, π (f s x) = π s) (l : List α) (s : State) :
    π (l.foldl f s) = π s := by
  induction l generalizing s with
  | nil => rfl
  | cons x r ih => exact (ih (f s x)).trans (h s x)

/-! ## Messages -/

theorem SendsOnly.ws {s u : State} (h : SendsOnly s u) : u.ws = s.ws := by rw [h.eq]
theorem SendsOnly.led {s u : State} (h : SendsOnly s u) : u.led = s.led := by rw [h.eq]

@[simp] theorem State.issue_ws (s : State) (p : Packet) : (s.issue p).ws = s.ws := (s.issue_sendsOnly p).ws
@[simp] theorem State.issue_led (s : State) (p : Packet) : (s.issue p).led = s.led := (s.issue_sendsOnly p).led

theorem State.postMsg_sendsOnly (s : State) (dst : PairId) (vc : BitVec 2) (home : PairId) (n : BitVec 48) (kind : BitVec 4) (status : BitVec 8)
    (payload : List Word) : SendsOnly s (s.postMsg dst vc home n kind status payload) := by
  unfold State.postMsg
  split
  · exact .refl s
  · exact s.issue_sendsOnly _

theorem State.vote_sendsOnly (s : State) (p : Part) : SendsOnly s (s.vote p) := by
  unfold State.vote
  split <;> exact s.postMsg_sendsOnly _ _ _ _ _ _ _

theorem State.grantMsg_sendsOnly (s : State) (dst : PairId) (side : Bool) (vc : BitVec 2) (kind : BitVec 4) (role : BitVec 3) (payload : List Word) :
    SendsOnly s (s.grantMsg dst side vc kind role payload) := by
  unfold State.grantMsg
  split
  · exact .refl s
  · exact s.issue_sendsOnly _

/-- Messages to some pairs in turn. -/
theorem SendsOnly.foldl {α : Type} {f : State → α → State} (h : ∀ s x, SendsOnly s (f s x)) (l : List α) (s : State) : SendsOnly s (l.foldl f s) := by
  induction l generalizing s with
  | nil => exact .refl s
  | cons x r ih => exact (h s x).trans (ih _)

/-! ## Decisions (R165, R173, R184) -/

section
variable (s : State)

theorem State.noteLow_ws (t : State) : (s.noteLow t).ws = t.ws := by rw [State.noteLow_notes]

theorem State.noteStall_ws : s.noteStall.ws = s.ws := by
  rw [State.noteStall_eq]
  split
  · rfl
  · exact State.raise_ws _ _

theorem State.numberDecisions_ws (k : Nat) : (s.numberDecisions k).ws = s.ws := by
  induction k generalizing s with
  | zero => rfl
  | succ k ih =>
    unfold State.numberDecisions
    split
    · rfl
    · split
      · exact s.noteStall_ws
      · split
        · rfl
        · exact (ih _).trans (State.noteLow_ws _ _)

theorem State.decide_ws (r : PostReq) (home : PairId) (n pseq : BitVec 48) (status : BitVec 8) (leg : BitVec 4) :
    (s.decide_ r home n pseq status leg).ws = s.ws := State.numberDecisions_ws _ _

theorem State.coordDecide_ws (c : Coord) (status : BitVec 8) (leg : BitVec 4) (detail : BitVec 8) : (s.coordDecide c status leg detail).ws = s.ws :=
  State.decide_ws _ _ _ _ _ _ _

theorem State.coordNo_ws (c : Coord) (src : PairId) (status : BitVec 8) : (s.coordNo c src status).ws = s.ws := by
  unfold State.coordNo
  split <;> exact State.coordDecide_ws _ _ _ _ _

theorem State.sendPrepares_ws (c : Coord) : (s.sendPrepares c).ws = s.ws := by
  have hsent : (c.pairs.foldl (fun t p => t.postMsg p 0 s.applied.lbPair c.n 1 0
      (c.req.w2 :: (c.req.legs.filter fun l => l0Pair l.1 == p).flatMap fun l => [l.1, l.2])) s).ws = s.ws :=
    (SendsOnly.foldl (fun _ _ => State.postMsg_sendsOnly _ _ _ _ _ _ _ _) _ _).ws
  unfold State.sendPrepares
  dsimp only
  split
  · exact (State.coordNo_ws _ _ _ _).trans hsent
  · exact hsent

/-! ## What a durable record completes (R154, R155) -/

theorem State.confirmFlight_ws (f : Flight) : (s.confirmFlight f).ws = s.ws := by
  have hcount (t : State) (ok : Bool) : (t.countOutcome ok).ws = t.ws := by cases ok <;> rfl
  unfold State.confirmFlight
  dsimp only
  split
  · rfl
  · split
    · exact hcount _ _
    · split
      · split
        · split
          · exact State.sendPrepares_ws _ _
          · rfl
        · rfl
      · exact hcount _ _
  · split
    · exact (State.vote_sendsOnly _ _).ws
    · rfl
  · split
    · split
      · rfl
      · next c _ =>
        have hfinal (t : State) : (t.completeFinal c.req c.final).ws = t.ws := by
          unfold State.completeFinal
          split <;> rfl
        split <;> exact (SendsOnly.foldl (fun t p => t.postMsg_sendsOnly p _ _ _ _ _ _) _ _).ws.trans ((hfinal _).trans (hcount _ _))
    · split
      · exact (State.postMsg_sendsOnly _ _ _ _ _ _ _ _).ws
      · rfl

/-! ## A record applied (R212) -/

/-- Nothing differs but memory, the free values drawn, what is held in doubt, and where the next filter entry goes. -/
def RecordsOnly (s u : State) : Prop :=
  u = { s with mem := u.mem, free := u.free, led := { s.led with preps := u.led.preps, filterNext := u.led.filterNext } }

theorem RecordsOnly.refl : RecordsOnly s s := rfl

variable {s} in
theorem RecordsOnly.trans {t u : State} (h : RecordsOnly s t) (k : RecordsOnly t u) : RecordsOnly s u :=
  Eq.trans k (congrArg (fun x : State =>
    { x with mem := u.mem, free := u.free, led := { x.led with preps := u.led.preps, filterNext := u.led.filterNext } }) h)

variable {s} in
theorem RecordsOnly.ws {u : State} (h : RecordsOnly s u) : u.ws = s.ws := by rw [h]

theorem State.putNew_records (pa : WAddr) (v : Word) : RecordsOnly s (s.putNew pa v) := by
  unfold State.putNew
  split <;> rfl

theorem State.applyEnt_records (seq : BitVec 48) (e : LegEnt) : RecordsOnly s (s.applyEnt seq e) := by
  have hput (t : State) (d : CellWords) : RecordsOnly t (t.putLeg seq e d) := by
    have hlseq := t.putNew_records (t.cellAddr e.ci 2) d.lseq
    unfold State.putLeg
    dsimp only
    split_ifs
    · exact hlseq.trans (State.putNew_records _ _ _)
    · exact hlseq.trans (State.putNew_records _ _ _)
    · exact hlseq
    · exact hlseq.trans (State.putNew_records _ _ _)
  have hbase : RecordsOnly s (s.countBase seq e.ci).2 := by
    unfold State.countBase
    dsimp only
    split <;> rfl
  unfold State.applyEnt
  dsimp only
  split_ifs
  · rfl
  · exact s.putNew_records _ _
  · rfl
  · exact hbase.trans (hput _ _)

theorem State.applyLegs_records (pos : Nat) (seq : BitVec 48) : RecordsOnly s (s.applyLegs pos seq) := by
  unfold State.applyLegs
  generalize s.entsAt pos = l
  induction l generalizing s with
  | nil => rfl
  | cons e r ih => exact (s.applyEnt_records seq e).trans (ih _)

theorem State.filterAdd_records (ref : BitVec 64) (w : Word) : RecordsOnly s (s.filterAdd ref w) := by
  unfold State.filterAdd
  split
  · rfl
  · refine ((s.putNew_records (s.filterAddr s.led.filterNext.toNat 0) (at' ref 8)).trans
      (State.putNew_records _ (s.filterAddr s.led.filterNext.toNat 1) w)).trans ?_
    rfl

theorem State.filterFinal_records (seq : BitVec 48) (w : Word) : RecordsOnly s (s.filterFinal seq w) := by
  unfold State.filterFinal
  split
  · rfl
  · dsimp only
    split
    · exact (s.putNew_records _ _).trans (State.putNew_records _ _ _)
    · exact s.putNew_records _ _

theorem State.addPrep_records (p : Prep) : RecordsOnly s (s.addPrep p) := by
  unfold State.addPrep
  split <;> rfl

theorem State.dropPrep_records (seq : BitVec 48) : RecordsOnly s (s.dropPrep seq) := rfl

/-- The filter entry of the record at a position, made in a state (R161). -/
def State.enters (s t : State) (pos : Nat) (solo : Bool) : State := match s.entryAt pos solo with
  | some (ref, w) => t.filterAdd ref w
  | none => t

theorem State.enters_records (t : State) (pos : Nat) (solo : Bool) : RecordsOnly t (s.enters t pos solo) := by
  unfold State.enters
  split
  · exact t.filterAdd_records _ _
  · rfl

/-- A decision record applied (R165, R212): the legs of its prepare record where it commits, and the final word of the filter entry. -/
def State.appliesDecision (s : State) (pos : Nat) (solo : Bool) (final : Option Word) (p : Prep) : State :=
  let pseq := bits (s.ringWord (pos + 2)) 24 48
  let t := (if recStatus (s.ringWord pos) = 0 then s.applyLegs p.pos.toNat pseq else s).dropPrep pseq
  if p.part then t else t.filterFinal pseq (final.getD (s.finalAt pos solo))

/-- A record applied, by its TYPE (R179, R212). -/
theorem State.applyRecord_eq (pos : Nat) (solo : Bool) (final : Option Word) : s.applyRecord pos solo final =
    match recType (s.ringWord pos) with
    | 1 => s.enters (s.applyLegs pos (recSeq (s.ringWord pos))) pos solo
    | 2 => s.enters s pos solo
    | 3 => s.enters (s.addPrep (s.prepAt pos)) pos solo
    | 4 => match s.led.preps.find? fun q => q.seq == bits (s.ringWord (pos + 2)) 24 48 with
      | none => s
      | some p => s.appliesDecision pos solo final p
    | _ => s := rfl

theorem State.applyRecord_records (pos : Nat) (solo : Bool) (final : Option Word) : RecordsOnly s (s.applyRecord pos solo final) := by
  rw [State.applyRecord_eq]
  split
  · exact (s.applyLegs_records _ _).trans (s.enters_records _ _ _)
  · exact s.enters_records s _ _
  · exact (s.addPrep_records _).trans (s.enters_records _ _ _)
  · split
    · rfl
    · next p _ =>
      have hlegs : RecordsOnly s (if recStatus (s.ringWord pos) = 0 then s.applyLegs p.pos.toNat (bits (s.ringWord (pos + 2)) 24 48) else s) := by
        split
        · exact s.applyLegs_records _ _
        · rfl
      unfold State.appliesDecision
      dsimp only
      split
      · exact hlegs.trans (State.dropPrep_records _ _)
      · exact (hlegs.trans (State.dropPrep_records _ _)).trans (State.filterFinal_records _ _ _)
  · rfl

theorem State.applyRecord_ws (pos : Nat) (solo : Bool) (final : Option Word) : (s.applyRecord pos solo final).ws = s.ws :=
  (s.applyRecord_records pos solo final).ws

@[simp] theorem State.settleDpos_ws : s.settleDpos.ws = s.ws := rfl

/-- Of the Watershed, the horizon alone advances (R154). -/
theorem State.advance_ws (h : BitVec 48) (solo : Bool) : (s.advance h solo).ws = { s.ws with ahor := (s.advance h solo).ws.ahor } := by
  have hstep (t : State) (r : Rec) (f : Option Flight) (final : Option Word) :
      let v : State := { t.applyRecord r.pos.toNat solo final with ws := { (t.applyRecord r.pos.toNat solo final).ws with ahor := r.seq } }
      (match f with
        | none => v
        | some f => ({ v with led := { v.led with flights := v.led.flights.filter fun g => g.seq != r.seq } } : State).confirmFlight f).ws =
        { t.ws with ahor := r.seq } := by
    intro v
    have hv : v.ws = { t.ws with ahor := r.seq } := congrArg (fun w : Watershed => { w with ahor := r.seq }) (t.applyRecord_ws _ _ _)
    split
    · exact hv
    · exact (State.confirmFlight_ws _ _).trans hv
  have hfold (a : BitVec 48) : { (s.advance h solo).ws with ahor := a } = { s.ws with ahor := a } :=
    foldl_leaves (fun t : State => { t.ws with ahor := a }) (fun t r => congrArg (fun w : Watershed => { w with ahor := a }) (hstep t r _ _)) _ s
  exact hfold _

/-! ## Leaving the lead and taking it (R167, R217) -/

theorem State.partNo_ws (home : PairId) (n : BitVec 48) (status : BitVec 8) : (s.partNo home n status).ws = s.ws := by
  unfold State.partNo
  dsimp only
  split
  · exact (State.vote_sendsOnly _ _).ws
  · rfl

theorem State.refuseReq_ws (r : PostReq) (status : BitVec 8) : (s.refuseReq r status).ws = s.ws := by
  unfold State.refuseReq State.countNotSeq
  split
  · exact s.partNo_ws _ _ _
  · split <;> rfl

theorem State.dropFlight_ws (status : BitVec 8) (f : Flight) : (State.dropFlight status s f).ws = s.ws := by
  unfold State.dropFlight
  split
  · rfl
  · rfl
  · split
    · exact s.partNo_ws _ _ _
    · rfl
  · split <;> rfl

theorem State.unassign_ws : s.unassign.ws = s.ws := by
  unfold State.unassign
  dsimp only
  split <;> rfl

theorem State.stopLeading_ws (status : BitVec 8) : (s.stopLeading status).ws = s.ws := by
  have hflights : (s.led.flights.foldl (State.dropFlight status) s.unassign).ws = s.ws :=
    (foldl_leaves State.ws (fun t f => t.dropFlight_ws status f) _ _).trans s.unassign_ws
  have hdecisions (t : State) : (s.led.decisions.foldl (fun t d => t.undecide d.home d.n) t).ws = t.ws :=
    foldl_leaves State.ws (f := fun t (d : WaitDec) => t.undecide d.home d.n) (fun _ _ => rfl) _ t
  exact (foldl_leaves State.ws (fun t r => t.refuseReq_ws r status) _ _).trans ((hdecisions _).trans hflights)

theorem State.settlePreps_ws : s.settlePreps.ws = s.ws := by
  refine foldl_leaves State.ws (fun t p => ?_) _ _
  split
  · exact (State.postMsg_sendsOnly _ _ _ _ _ _ _ _).ws
  · exact State.coordDecide_ws _ _ _ _ _

/-! ## Requests that wait -/

theorem State.partNo_arrivals (home : PairId) (n : BitVec 48) (status : BitVec 8) : (s.partNo home n status).led.arrivals = s.led.arrivals := by
  unfold State.partNo
  dsimp only
  split
  · rw [(State.vote_sendsOnly _ _).led]
    rfl
  · rfl

theorem State.refuseReq_arrivals (r : PostReq) (status : BitVec 8) : (s.refuseReq r status).led.arrivals = s.led.arrivals := by
  unfold State.refuseReq State.countNotSeq
  split
  · exact s.partNo_arrivals _ _ _
  · split <;> rfl

/-- A module that stops leading answers every request that waits (R217). -/
theorem State.stopLeading_arrivals (status : BitVec 8) : (s.stopLeading status).led.arrivals = [] :=
  foldl_leaves (fun t : State => t.led.arrivals) (fun t r => t.refuseReq_arrivals r status) _ _

end

end Sys2Proof.Machine
end

section
/-! Roles (R205, R216, R217). -/

namespace Sys2Proof.Machine

/-- A role taken: of the Watershed nothing differs but the role with its record and its counts, SYNCED and WS_EVT, no bit of which is cleared. -/
structure RoleTaken (r : BitVec 3) (s u : State) : Prop where
  ws : u.ws = { s.ws with
    role := r, roleCnt := u.ws.roleCnt, lrole := u.ws.lrole, gen := u.ws.gen, copy := u.ws.copy, lastWrite := u.ws.lastWrite, evt := u.ws.evt,
    synced := u.ws.synced }
  evt : ∀ k, bit s.ws.evt k = true → bit u.ws.evt k = true

section
variable (s : State)

theorem bit_setBit_of {w : Nat} {x : BitVec w} {i : Nat} (h : bit x i = true) (k : Nat) : bit (setBit x k true) i = true := by
  rw [bit_setBit]
  split
  · rfl
  · exact h

theorem State.setWsEvt_bit (k : Nat) {i : Nat} (h : bit s.ws.evt i = true) : bit (s.setWsEvt k).ws.evt i = true := by
  rw [State.setWsEvt_ws]
  exact bit_setBit_of h k

theorem State.setWsEvt_bit_same {k : Nat} (h : k < 16) : bit (s.setWsEvt k).ws.evt k = true := by
  rw [State.setWsEvt_ws]
  exact bit_setBit_same _ h

/-! ## The role record (R205) -/

/-- The role record as the Watershed counts it, once it is written again. -/
def Watershed.rewritten (w : Watershed) (now : BitVec 64) : Watershed := { w with gen := w.gen + 1, copy := !w.copy, lastWrite := now }

theorem State.writeRole_unpowered (h : s.brd.powered = false) : s.writeRole = s := if_pos (by rw [h]; rfl)

theorem State.writeRole_powered (h : s.brd.powered = true) : s.writeRole =
    let t : State := { s with ws := s.ws.rewritten s.now }
    t.putWords (plainAddr (0xFF0010 + (if !s.ws.copy then 4 else 0))) t.roleWords := if_neg (by rw [h]; exact Bool.false_ne_true)

theorem State.writeRole_ws : s.writeRole.ws = if s.brd.powered then s.ws.rewritten s.now else s.ws := by
  cases h : s.brd.powered with
  | false => rw [s.writeRole_unpowered h]; rfl
  | true => rw [s.writeRole_powered h]; exact State.putWords_ws _ _ _

theorem State.writeRole_led : s.writeRole.led = s.led := by
  cases h : s.brd.powered with
  | false => rw [s.writeRole_unpowered h]
  | true => rw [s.writeRole_powered h]; exact State.putWords_led _ _ _

/-! ## A role taken (R216, R217) -/

namespace RoleTaken

variable {r : BitVec 3} {s t u : State}

theorem role (h : RoleTaken r s u) : u.ws.role = r := by rw [h.ws]

/-- The same of a state whose Watershed differs from it alike. -/
theorem trans (h : RoleTaken r s t) (k : RoleTaken r t u) : RoleTaken r s u := by
  refine ⟨?_, fun i hi => k.evt i (h.evt i hi)⟩
  have hw := congrArg (fun w : Watershed => { w with
    role := r, roleCnt := u.ws.roleCnt, lrole := u.ws.lrole, gen := u.ws.gen, copy := u.ws.copy, lastWrite := u.ws.lastWrite, evt := u.ws.evt,
    synced := u.ws.synced }) h.ws
  exact k.ws.trans hw

theorem of_ws {v : State} (h : RoleTaken r s u) (hs : v.ws = s.ws) : RoleTaken r v u := ⟨hs ▸ h.ws, hs ▸ h.evt⟩

/-- No longer SYNCED beforehand. -/
theorem of_unsynced (h : RoleTaken r { s with ws := { s.ws with synced := false } } u) : RoleTaken r s u := ⟨h.ws, h.evt⟩

end RoleTaken

theorem State.setRole_same {r : BitVec 3} (h : s.ws.role = r) : s.setRole r = s := if_pos h

/-- The Watershed of a module that takes a role, before it is recorded. -/
def Watershed.takes (w : Watershed) (r : BitVec 3) : Watershed :=
  { w with role := r, roleCnt := inc w.roleCnt, lrole := if 1 ≤ r.toNat ∧ r.toNat ≤ 3 then bits r 0 2 else w.lrole }

/-- A module that starts to sequence exports from its own JN_APOS (R201). -/
def State.exportsFrom (t : State) : State := if !s.leads && t.leads then { t with led := { t.led with xpos := t.led.apos } } else t

/-- The state of a module that takes a role, before it is recorded. -/
def State.takesRole (r : BitVec 3) : State := s.exportsFrom { s with ws := s.ws.takes r }

/-- The report of a role. -/
def State.reportRole (r : BitVec 3) : State :=
  match roleEvt r with
  | some k => s.setWsEvt k
  | none => s

theorem State.setRole_other {r : BitVec 3} (h : s.ws.role ≠ r) : s.setRole r = (s.takesRole r).writeRole.reportRole r := by
  unfold State.setRole
  rw [if_neg h]
  rfl

theorem RoleTaken.setWsEvt {r : BitVec 3} {u : State} (h : RoleTaken r s u) (k : Nat) : RoleTaken r s (u.setWsEvt k) := by
  refine ⟨?_, fun i hi => u.setWsEvt_bit k (h.evt i hi)⟩
  rw [State.setWsEvt_ws]
  exact congrArg (fun w : Watershed => { w with evt := setBit w.evt k true }) h.ws

theorem State.reportRole_led (r : BitVec 3) : (s.reportRole r).led = s.led := by
  unfold State.reportRole
  split
  · exact s.setWsEvt_led _
  · rfl

theorem State.exportsFrom_ws (t : State) : (s.exportsFrom t).ws = t.ws := by
  unfold State.exportsFrom
  split <;> rfl

theorem State.exportsFrom_led (t : State) : ∃ x, (s.exportsFrom t).led = { t.led with xpos := x } := by
  unfold State.exportsFrom
  split
  · exact ⟨_, rfl⟩
  · exact ⟨_, rfl⟩

theorem State.setRole_taken (r : BitVec 3) : RoleTaken r s (s.setRole r) := by
  by_cases h : s.ws.role = r
  · rw [s.setRole_same h]
    subst h
    exact ⟨rfl, fun _ hk => hk⟩
  · have hws : (s.takesRole r).writeRole.ws = if (s.takesRole r).brd.powered then (s.ws.takes r).rewritten (s.takesRole r).now else s.ws.takes r := by
      rw [State.writeRole_ws, State.takesRole, State.exportsFrom_ws]
    have htaken : RoleTaken r s (s.takesRole r).writeRole := by
      refine ⟨?_, fun k hk => ?_⟩
      all_goals
        rw [hws]
        split
      · rfl
      · rfl
      · exact hk
      · exact hk
    rw [s.setRole_other h]
    unfold State.reportRole
    split
    · exact htaken.setWsEvt s _
    · exact htaken

theorem State.setRole_led (r : BitVec 3) : ∃ x, (s.setRole r).led = { s.led with xpos := x } := by
  by_cases h : s.ws.role = r
  · exact ⟨s.led.xpos, by rw [s.setRole_same h]⟩
  · rw [s.setRole_other h, State.reportRole_led, State.writeRole_led]
    exact s.exportsFrom_led _

/-- A module that leaves the lead answers what waits (R217). -/
def State.leaves (r : BitVec 3) : State := if s.leads && r != 1 && r != 3 then s.stopLeading (leaveStatus r) else s

theorem State.leaves_ws (r : BitVec 3) : (s.leaves r).ws = s.ws := by
  unfold State.leaves
  split
  · exact s.stopLeading_ws _
  · rfl

theorem State.toRole_eq (r : BitVec 3) : s.toRole r =
    (if r = 1 ∨ r = 3 then s.leaves r else { s.leaves r with ws := { (s.leaves r).ws with synced := false } }).setRole r := rfl

theorem State.toRole_taken (r : BitVec 3) : RoleTaken r s (s.toRole r) := by
  rw [s.toRole_eq]
  split
  · exact (State.setRole_taken _ r).of_ws (s.leaves_ws r).symm
  · exact (State.setRole_taken _ r).of_unsynced.of_ws (s.leaves_ws r).symm

/-- Requests that wait are answered as a module leaves the lead. -/
theorem State.toRole_arrivals {r : BitVec 3} (hlead : s.ws.role = 1 ∨ s.ws.role = 3) (hr : r ≠ 1 ∧ r ≠ 3) : (s.toRole r).led.arrivals = [] := by
  have hleaves : (s.leaves r).led.arrivals = [] := by
    have htest : (s.leads && r != 1 && r != 3) = true := by
      rw [s.leads_iff.2 hlead, bne_iff_ne.2 hr.1, bne_iff_ne.2 hr.2]
      rfl
    rw [State.leaves, if_pos htest]
    exact s.stopLeading_arrivals _
  rw [s.toRole_eq, if_neg (not_or.2 hr)]
  obtain ⟨x, hx⟩ := State.setRole_led { s.leaves r with ws := { (s.leaves r).ws with synced := false } } r
  rw [hx]
  exact hleaves

end

end Sys2Proof.Machine
end

section
/-! Watershed jobs that act (R233-R235, R434, R435). -/

namespace Sys2Proof.Machine

section
variable {s : State} {j : JobId} {opc : Nat} {x : Job}

theorem State.updJob_started (s : State) (j : JobId) : (s.updJob j fun y => { y with started := true }) = s.begun j := by
  rw [State.updJob, mapIf_eq_map (P := fun y : Job => y.id = j) fun y => beq_iff_eq]
  rfl

/-- A job free to start, with its authority, starts and does what it is for. -/
theorem State.wsJob_acts (h : s.jobActs j opc x) (act : Job → State → State) : s.wsJob j opc act = act x (s.begun j) := by
  obtain ⟨hjob, hauthority⟩ := h
  rw [State.wsJob, hjob]
  dsimp only
  rw [hauthority, State.updJob_started]

end

end Sys2Proof.Machine
end

section
/-! Witnesses and grants (R218-R222). -/

namespace Sys2Proof.Machine

section
variable {s : State} {w : Word} {seq : BitVec 48} {pair : PairId} {side : Bool} {x : WitReq}

/-! ## GREQ and PROBE (R221) -/

theorem State.isWitness_iff (s : State) : s.isWitness = true ↔ (s.ws.role = 1 ∨ s.ws.role = 3) ∧ s.applied.wsWtable ≠ 0 := by
  rw [State.isWitness, Bool.and_eq_true, s.leads_iff, bne_iff_ne]

theorem exec_greq_notServing (h : ¬s.isWitness = true) : exec (.greq w seq) s = .next s :=
  congrArg _ (if_pos (by rw [Bool.eq_false_of_not_eq_true h]; rfl))

/-- The last grant to a pair, as the witness's table has it (R221). -/
def State.lastGrant (s : State) (p : PairId) : BitVec 48 := bits (s.witnessWord p) 24 48

/-- Whether a request asks for a grant that was made already. -/
def State.grantedBefore (s : State) (w : Word) : Prop :=
  s.lastGrant (bits w 12 12) ≠ 0 ∧ bit (s.witnessWord (bits w 12 12)) 23 = bit w 11 ∧ (bits w 24 48).toNat < (s.lastGrant (bits w 12 12)).toNat

/-- The request that a witness serves from now on. -/
def State.newRequest (s : State) (w : Word) (seq : BitVec 48) : WitReq :=
  { pair := bits w 12 12, side := bit w 11, term := BitVec.ofNat 48 (max (bits w 24 48).toNat (s.lastGrant (bits w 12 12)).toNat + 1), wseq := seq,
    since := s.now, chosen := none }

section
variable (hserves : s.isWitness = true)
include hserves

theorem exec_greq_served (h : ∃ x ∈ s.ws.wits, x.pair = bits w 12 12) : exec (.greq w seq) s = .next s := by
  have hany : (s.ws.wits.any fun x => x.pair == bits w 12 12) = true := by simpa using h
  exact congrArg _ ((if_neg (by rw [hserves]; exact Bool.false_ne_true)).trans (if_pos hany))

theorem exec_greq_unserved (h : ∀ x ∈ s.ws.wits, x.pair ≠ bits w 12 12) : exec (.greq w seq) s = .next
    (if s.lastGrant (bits w 12 12) != 0 && bit (s.witnessWord (bits w 12 12)) 23 == bit w 11 &&
        decide ((bits w 24 48).toNat < (s.lastGrant (bits w 12 12)).toNat)
      then s.grantMsg (bits w 12 12) (bit w 11) 1 9 0 [grantWord (s.lastGrant (bits w 12 12)) (bits w 12 12) (bit w 11)]
      else ({ s with ws := { s.ws with wits := s.ws.wits ++ [s.newRequest w seq] } } : State).grantMsg (bits w 12 12) (!bit w 11) 0 2 0 [w]) := by
  have hany : ¬(s.ws.wits.any fun x => x.pair == bits w 12 12) = true := by simpa using h
  exact congrArg _ ((if_neg (by rw [hserves]; exact Bool.false_ne_true)).trans (if_neg hany))

theorem exec_greq_again (h : ∀ x ∈ s.ws.wits, x.pair ≠ bits w 12 12) (hagain : s.grantedBefore w) : exec (.greq w seq) s =
    .next (s.grantMsg (bits w 12 12) (bit w 11) 1 9 0 [grantWord (s.lastGrant (bits w 12 12)) (bits w 12 12) (bit w 11)]) := by
  obtain ⟨hterm, hside, hold⟩ := hagain
  rw [exec_greq_unserved hserves h, if_pos (by rw [bne_iff_ne.2 hterm, beq_iff_eq.2 hside, decide_eq_true hold]; rfl)]

theorem exec_greq_new (h : ∀ x ∈ s.ws.wits, x.pair ≠ bits w 12 12) (hnew : ¬s.grantedBefore w) : exec (.greq w seq) s =
    .next (({ s with ws := { s.ws with wits := s.ws.wits ++ [s.newRequest w seq] } } : State).grantMsg (bits w 12 12) (!bit w 11) 0 2 0 [w]) := by
  rw [exec_greq_unserved hserves h, if_neg fun htest => hnew ?_]
  rwa [Bool.and_eq_true, Bool.and_eq_true, bne_iff_ne, beq_iff_eq, decide_eq_true_eq, and_assoc] at htest

end

theorem State.newRequest_term (s : State) (w : Word) (seq : BitVec 48)
    (h : max (bits w 24 48).toNat (s.lastGrant (bits w 12 12)).toNat + 1 < 2 ^ 48) :
    (s.newRequest w seq).term.toNat = max (bits w 24 48).toNat (s.lastGrant (bits w 12 12)).toNat + 1 := by
  show (BitVec.ofNat 48 _).toNat = _
  rw [BitVec.toNat_ofNat, Nat.mod_eq_of_lt h]

/-! ## The side chosen (R221) -/

theorem chooses_leader (hrole : s.ws.role = 1) (x : WitReq) (sd : Bool) :
    let off := s.applied.wsWtable.toNat + x.pair.toNat
    let v := at' x.term 24 ||| flagAt sd 23
    s.chooseSide x sd = ({ s.putWord (plainAddr off) v with ws := { s.ws with
      wits := s.ws.wits.map fun y => if y.pair = x.pair then { y with chosen := some sd } else y } } : State).sendFirst 9 0
        [v, BitVec.ofNat 72 off, 0, 0, 0, 0] := by
  intro off v
  rw [← mapIf_eq_map (p := fun y : WitReq => y.pair == x.pair) (P := fun y : WitReq => y.pair = x.pair) fun y => beq_iff_eq]
  exact if_pos (beq_iff_eq.2 hrole)

theorem chooses_alone (hrole : s.ws.role ≠ 1) (x : WitReq) (sd : Bool) :
    let off := s.applied.wsWtable.toNat + x.pair.toNat
    let v := at' x.term 24 ||| flagAt sd 23
    s.chooseSide x sd = (({ s.putWord (plainAddr off) v with ws := { s.ws with
      wits := s.ws.wits.filter fun y => y.pair != x.pair } } : State).grantMsg x.pair sd 1 9 0 [grantWord x.term x.pair sd]).setWsEvt 11 :=
  if_neg (mt beq_iff_eq.1 hrole)

/-- What the answer to a probe has the witness do with the request that it was sent for. -/
theorem exec_probeAns (r : BitVec 3)
    (h : s.ws.wits.find? (fun x => x.pair == bits w 12 12 && x.side != bit w 11 && x.chosen.isNone) = some x) : exec (.probeAns r w seq) s = .next
      (if r = 0 then s.chooseSide x (if x.wseq = seq then false else if seq.toNat < x.wseq.toNat then x.side else !x.side)
      else if r = 4 then s.chooseSide x x.side
      else ({ s with ws := { s.ws with wits := s.ws.wits.filter fun y => y.pair != x.pair } } : State).setWsEvt 11) := by
  show execProbeAns r w seq s = _
  simp only [execProbeAns, h]
  by_cases hzero : r = 0
  · subst hzero
    rfl
  · by_cases hfour : r = 4
    · subst hfour
      rfl
    · rw [if_neg hzero, if_neg hfour]
      split
      · next hr => exact absurd (BitVec.eq_of_toNat_eq hr) hzero
      · next hr => exact absurd (BitVec.eq_of_toNat_eq hr) hfour
      · rfl

theorem exec_witnessProbeTimer
    (h : s.ws.wits.find? (fun x => x.pair == pair && x.chosen.isNone && decide (x.since.toNat + 10000 ≤ s.now.toNat)) = some x) :
    exec (.witnessProbeTimer pair) s = .next (s.chooseSide x x.side) := by
  show execWitnessProbeTimer pair s = _
  simp only [execWitnessProbeTimer, h]

theorem exec_witnessProbeTimer_early (h : ∀ x ∈ s.ws.wits, x.pair = pair → s.now.toNat < x.since.toNat + 10000) :
    exec (.witnessProbeTimer pair) s = .next s := by
  have hnone : s.ws.wits.find? (fun x => x.pair == pair && x.chosen.isNone && decide (x.since.toNat + 10000 ≤ s.now.toNat)) = none := by
    refine List.find?_eq_none.2 fun x hx hdue => ?_
    rw [Bool.and_eq_true, Bool.and_eq_true, beq_iff_eq, decide_eq_true_eq] at hdue
    exact Nat.not_le.2 (h x hx hdue.1.1) hdue.2
  show execWitnessProbeTimer pair s = _
  simp only [execWitnessProbeTimer, hnone]

theorem exec_witnessTableAcked (h : s.ws.wits.find? (fun x => x.pair == pair) = some x) (hchosen : x.chosen = some side) :
    exec (.witnessTableAcked pair) s = .next (s.sendGrant x side) := by
  show execWitnessTableAcked pair s = _
  simp only [execWitnessTableAcked, h, hchosen]

/-! ## A grant taken or refused (R219, R222) -/

theorem State.grantCode_eq (s : State) (w : Word) : s.grantCode w =
    if bits w 12 12 ≠ s.applied.lbPair ∨ bit w 11 ≠ s.ws.side then 1
    else if (bits w 24 48).toNat ≤ s.ws.term.toNat then 2 else if s.ws.role ≠ 0 ∧ s.ws.role ≠ 3 then 3
    else if s.ws.contact = true ∧ s.ws.twinRole ≠ 4 then 4 else if bits w 0 11 ≠ 0 then 5 else if s.ws.sideConflict = true then 6 else 0 := by
  unfold State.grantCode
  simp only [Bool.and_eq_true, bne_iff_ne]

theorem State.role_of_granted (h : s.grantCode w = 0) : s.ws.role = 0 ∨ s.ws.role = 3 := by
  by_contra hother
  rw [not_or] at hother
  rw [State.grantCode_eq, if_pos hother] at h
  split_ifs at h
  all_goals exact absurd h (by decide)

/-- The state with the outcome of a grant recorded. -/
def State.notesGrant (s : State) (w : Word) : State := { s with ws := { s.ws with grantLast := setBits w 0 8 (s.grantCode w) } }

theorem State.takeGrant_refused (h : s.grantCode w ≠ 0) : s.takeGrant w = (s.notesGrant w).setWsEvt 9 := if_pos h

theorem State.takeGrant_again (h : s.grantCode w = 0) (hrole : s.ws.role = 3) :
    s.takeGrant w = ({ s.notesGrant w with ws := { (s.notesGrant w).ws with term := bits w 24 48 } } : State).writeRole :=
  (if_neg (not_not.2 h)).trans (if_pos hrole)

/-- A HELD module that a grant makes SOLO, before it takes the role. -/
def State.granted (s : State) (w : Word) : State :=
  { (s.notesGrant w).quiet with ws := { (s.notesGrant w).quiet.ws with term := bits w 24 48, soloFirst := s.led.seqNext, sync := 0, recon := none } }

theorem State.takeGrant_held (h : s.grantCode w = 0) (hrole : s.ws.role = 0) :
    s.takeGrant w = ((((s.granted w).setRole 3).advance (s.granted w).wseq true).settlePreps).settleDpos :=
  (if_neg (not_not.2 h)).trans (if_neg (by
    show s.ws.role ≠ 3
    rw [hrole]
    decide))

/-- What the Watershed of a module has become that took or refused a grant (R219, R222). -/
theorem State.takeGrant_spec (s : State) (w : Word) : let u := s.takeGrant w
    let code := s.grantCode w
    u.ws.grantLast = setBits w 0 8 code ∧ (code ≠ 0 → u = (s.notesGrant w).setWsEvt 9) ∧
    (code = 0 → u.ws.grantLast = setBits w 0 8 code ∧ u.ws.term = bits w 24 48 ∧ u.ws.role = 3 ∧
      (s.ws.role = 0 → u.ws.soloFirst = s.led.seqNext ∧ u.ws.sync = 0 ∧ u.ws.recon = none) ∧
      (s.ws.role = 3 → u.ws.soloFirst = s.ws.soloFirst ∧ u.led = s.led)) := by
  intro u code
  by_cases hcode : code = 0
  · rcases State.role_of_granted hcode with hrole | hrole
    · have hu : u = _ := State.takeGrant_held hcode hrole
      have htaken := (s.granted w).setRole_taken 3
      have hws : u.ws = { ((s.granted w).setRole 3).ws with ahor := u.ws.ahor } := by
        rw [hu, State.settleDpos_ws, State.settlePreps_ws]
        exact State.advance_ws _ _ _
      rw [htaken.ws] at hws
      rw [hws]
      exact ⟨rfl, fun h => absurd hcode h, fun _ => ⟨rfl, rfl, rfl, fun _ => ⟨rfl, rfl, rfl⟩, fun h => absurd (hrole.symm.trans h) (by decide)⟩⟩
    · have hu : u = _ := State.takeGrant_again hcode hrole
      have hws := State.writeRole_ws ({ s.notesGrant w with ws := { (s.notesGrant w).ws with term := bits w 24 48 } } : State)
      have hled := State.writeRole_led ({ s.notesGrant w with ws := { (s.notesGrant w).ws with term := bits w 24 48 } } : State)
      rw [← hu] at hws hled
      rw [hws]
      split
      all_goals exact ⟨rfl, fun h => absurd hcode h, fun _ => ⟨rfl, rfl, hrole, fun h => absurd (hrole.symm.trans h) (by decide), fun _ => ⟨rfl, hled⟩⟩⟩
  · have hu : u = _ := State.takeGrant_refused hcode
    refine ⟨?_, fun _ => hu, fun h => absurd h hcode⟩
    rw [hu, State.setWsEvt_ws]
    rfl

theorem exec_grant {j : JobId} {y : Job} (h : s.jobActs j 0x10 y) : JobEnds (.grant j) s ((s.begun j).takeGrant y.s1) y 0 0 (setBits y.s1 0 8 (s.grantCode y.s1)) := by
  refine (congrArg Host.Outcome.next (State.wsJob_acts h _)).trans ?_
  dsimp only
  rw [((s.begun j).takeGrant_spec y.s1).1]
  rfl

end

/-- Settles O47: each message, answer and timer by its lemma above. -/
theorem witnessesGrantOneSide : Obligations.WitnessesGrantOneSide := by
  unfold Obligations.WitnessesGrantOneSide
  intro s w seq pair side word serves p row g again chooses
  have hchooses (x : WitReq) (sd : Bool) (i : Instr) (h : exec i s = .next (s.chooseSide x sd)) : chooses x sd i :=
    ⟨fun hrole => h.trans (congrArg _ (chooses_leader hrole x sd)), fun hrole => h.trans (congrArg _ (chooses_alone hrole x sd))⟩
  refine ⟨fun h => exec_greq_notServing (mt s.isWitness_iff.1 h), fun h => exec_greq_served (s.isWitness_iff.2 h),
    fun h => exec_greq_again (s.isWitness_iff.2 h), fun h hfree hnew => ⟨s.newRequest w seq, exec_greq_new (s.isWitness_iff.2 h) hfree hnew, rfl, rfl, rfl, rfl,
      rfl, s.newRequest_term w seq⟩, rfl, fun x hx => ⟨hchooses x _ _ ?_, hchooses x _ _ ?_, fun r hzero hfour => ?_⟩,
    fun x hx => hchooses x _ _ (exec_witnessProbeTimer hx), exec_witnessProbeTimer_early, fun x sd => exec_witnessTableAcked, ?grants⟩
  case grants =>
    intro code last taken
    have hcode : s.grantCode w = code := s.grantCode_eq w
    have htaken (v : State) (hv : v.grantCode w = code) : taken v (v.takeGrant w) := by
      obtain ⟨-, hrefused, hgranted⟩ := v.takeGrant_spec w
      rw [State.notesGrant, hv] at hrefused
      rw [hv] at hgranted
      exact ⟨hrefused, hgranted⟩
    refine ⟨⟨_, rfl, htaken s hcode⟩, fun j x hacts hx => ⟨_, ?_, htaken (s.begun j) hcode⟩⟩
    subst hx
    have hends := exec_grant hacts
    rw [hcode] at hends
    exact hends
  · exact (exec_probeAns 0 hx).trans (congrArg _ (if_pos rfl))
  · exact (exec_probeAns 4 hx).trans rfl
  · exact (exec_probeAns r hx).trans (by rw [if_neg hzero, if_neg hfour])

end Sys2Proof.Machine
end

section
/-! What a record that is applied depends on (R161, R212). -/

namespace Sys2Proof.Machine

/-- A state with the same memory, settings, free values, postings in flight, prepare records and place of the next filter entry: records act on
both alike. -/
structure SameLedger (s t : State) : Prop where
  mem : t.mem = s.mem
  applied : t.applied = s.applied
  free : t.free = s.free
  flights : t.led.flights = s.led.flights
  preps : t.led.preps = s.led.preps
  filterNext : t.led.filterNext = s.led.filterNext

namespace SameLedger

variable {s t : State}

/-! ## What is read -/

section
variable (h : SameLedger s t)
include h

theorem cell (pa : WAddr) : t.cell pa = s.cell pa := State.cell_congr h.mem pa
theorem data (pa : WAddr) : t.data pa = s.data pa := congrArg MCell.data (h.cell pa)
theorem cellAddr (i k : Nat) : t.cellAddr i k = s.cellAddr i k := by rw [State.cellAddr, State.cellAddr, h.applied]
theorem ruleAddr (r k : Nat) : t.ruleAddr r k = s.ruleAddr r k := by rw [State.ruleAddr, State.ruleAddr, h.applied]
theorem filterAddr (i k : Nat) : t.filterAddr i k = s.filterAddr i k := by rw [State.filterAddr, State.filterAddr, h.applied]
theorem ringWord (p : Nat) : t.ringWord p = s.ringWord p := by
  rw [State.ringWord, State.ringWord, State.ringAddr, State.ringAddr, h.applied, h.data]
theorem ringWords (p n : Nat) : t.ringWords p n = s.ringWords p n := by simp only [State.ringWords, h.ringWord]
theorem entsAt (p : Nat) : t.entsAt p = s.entsAt p := by rw [State.entsAt, State.entsAt, h.ringWord, h.ringWords]
theorem cellWords (i : Nat) : t.cellWords i = s.cellWords i := by simp only [State.cellWords, h.cellAddr, h.data]
theorem buffered (seq : BitVec 48) : t.buffered seq = s.buffered seq := by rw [State.buffered, State.buffered, h.flights]
theorem filterEntries : t.filterEntries = s.filterEntries := by simp only [State.filterEntries, h.applied, h.mem, h.data]
theorem prepAt (p : Nat) : t.prepAt p = s.prepAt p := by simp only [State.prepAt, h.ringWord, h.entsAt, h.applied]
theorem entryAt (p : Nat) (solo : Bool) : t.entryAt p solo = s.entryAt p solo := by simp only [State.entryAt, h.ringWord]
theorem finalAt (p : Nat) (solo : Bool) : t.finalAt p solo = s.finalAt p solo := by simp only [State.finalAt, h.ringWord]

/-! ## What is written -/

theorem putWord (pa : WAddr) (v : Word) : SameLedger (s.putWord pa v) (t.putWord pa v) :=
  ⟨by simp only [State.putWord, State.putMasked, State.putCell, h.cell, h.mem], h.applied, h.free, h.flights, h.preps, h.filterNext⟩

theorem putNew (pa : WAddr) (v : Word) : SameLedger (s.putNew pa v) (t.putNew pa v) := by
  unfold State.putNew
  rw [h.cell, h.data]
  split
  · exact h.putWord pa v
  · exact h

theorem putLeg (seq : BitVec 48) (e : LegEnt) (d : CellWords) : SameLedger (s.putLeg seq e d) (t.putLeg seq e d) := by
  have hlseq := h.putNew (s.cellAddr e.ci 2) d.lseq
  unfold State.putLeg
  simp only [h.cellAddr, h.cell, h.buffered]
  split_ifs
  · exact hlseq.putNew _ _
  · exact hlseq.putNew _ _
  · exact hlseq
  · exact hlseq.putNew _ _

theorem countBase (seq : BitVec 48) (i : Nat) : (t.countBase seq i).1 = (s.countBase seq i).1 ∧ SameLedger (s.countBase seq i).2 (t.countBase seq i).2 := by
  unfold State.countBase
  simp only [h.cellAddr, h.cell, h.data, h.buffered, h.free]
  split
  · exact ⟨rfl, h.mem, h.applied, rfl, h.flights, h.preps, h.filterNext⟩
  · exact ⟨rfl, h⟩

theorem applyEnt (seq : BitVec 48) (e : LegEnt) : SameLedger (s.applyEnt seq e) (t.applyEnt seq e) := by
  obtain ⟨hbase, hafter⟩ := h.countBase seq e.ci
  unfold State.applyEnt
  simp only [h.ruleAddr, h.cellWords, h.cellAddr, h.cell, hbase]
  split_ifs
  · exact h
  · exact h.putNew _ _
  · exact h
  · exact hafter.putLeg _ _ _

theorem applyLegs (pos : Nat) (seq : BitVec 48) : SameLedger (s.applyLegs pos seq) (t.applyLegs pos seq) := by
  unfold State.applyLegs
  rw [h.entsAt]
  generalize s.entsAt pos = l
  induction l generalizing s t with
  | nil => exact h
  | cons e r ih => exact ih (h.applyEnt seq e)

theorem filterAdd (ref : BitVec 64) (w : Word) : SameLedger (s.filterAdd ref w) (t.filterAdd ref w) := by
  have hfirst := h.putNew (s.filterAddr s.led.filterNext.toNat 0) (at' ref 8)
  obtain ⟨hmem, happlied, hfree, hflights, hpreps, -⟩ := hfirst.putNew (s.filterAddr s.led.filterNext.toNat 1) w
  unfold State.filterAdd
  simp only [h.filterEntries, h.filterNext, h.filterAddr]
  split
  · exact h
  · exact ⟨hmem, happlied, hfree, hflights, hpreps, rfl⟩

theorem filterFinal (seq : BitVec 48) (w : Word) : SameLedger (s.filterFinal seq w) (t.filterFinal seq w) := by
  unfold State.filterFinal
  rw [h.filterEntries]
  split
  · exact h
  · next e _ =>
    have hword := h.putNew (s.filterAddr e.1 1) w
    simp only [h.filterAddr, hword.filterAddr]
    split
    · exact hword.putNew _ _
    · exact hword

theorem addPrep (p : Prep) : SameLedger (s.addPrep p) (t.addPrep p) := by
  obtain ⟨hmem, happlied, hfree, hflights, hpreps, hnext⟩ := id h
  unfold State.addPrep
  rw [hpreps]
  split
  · exact h
  · exact ⟨hmem, happlied, hfree, hflights, rfl, hnext⟩

theorem dropPrep (seq : BitVec 48) : SameLedger (s.dropPrep seq) (t.dropPrep seq) :=
  ⟨h.mem, h.applied, h.free, h.flights, congrArg (List.filter fun q : Prep => q.seq != seq) h.preps, h.filterNext⟩

theorem enters {s' t' : State} (k : SameLedger s' t') (pos : Nat) (solo : Bool) : SameLedger (s.enters s' pos solo) (t.enters t' pos solo) := by
  unfold State.enters
  rw [h.entryAt]
  split
  · exact k.filterAdd _ _
  · exact k

theorem appliesDecision (pos : Nat) (solo : Bool) (final : Option Word) (p : Prep) :
    SameLedger (s.appliesDecision pos solo final p) (t.appliesDecision pos solo final p) := by
  have hlegs (seq : BitVec 48) : SameLedger (if recStatus (s.ringWord pos) = 0 then s.applyLegs p.pos.toNat seq else s)
      (if recStatus (s.ringWord pos) = 0 then t.applyLegs p.pos.toNat seq else t) := by
    split
    · exact h.applyLegs _ _
    · exact h
  unfold State.appliesDecision
  simp only [h.ringWord, h.finalAt]
  split
  · exact (hlegs _).dropPrep _
  · exact ((hlegs _).dropPrep _).filterFinal _ _

/-- A record acts on both alike (R212). -/
theorem applyRecord (pos : Nat) (solo : Bool) (final : Option Word) : SameLedger (s.applyRecord pos solo final) (t.applyRecord pos solo final) := by
  rw [s.applyRecord_eq, t.applyRecord_eq, h.ringWord, h.prepAt, h.ringWord, h.preps]
  split
  · exact h.enters (h.applyLegs _ _) _ _
  · exact h.enters h _ _
  · exact h.enters (h.addPrep _) _ _
  · split
    · exact h
    · exact h.appliesDecision _ _ _ _
  · exact h

end

end SameLedger

end Sys2Proof.Machine
end

section
/-! The durable horizon advances by a record (R154, R155, R211). -/

namespace Sys2Proof.Machine

section
variable {s : State} {h : BitVec 48} {solo : Bool} {r : Rec} {f : Flight} {st : BitVec 8} {leg : BitVec 4}

/-- The records that become durable as the horizon advances to a number. -/
def State.newlyDurable (s : State) (h : BitVec 48) : List Rec :=
  s.led.recs.filter fun r => !r.trailer && r.written && decide (s.ws.ahor.toNat < r.seq.toNat) && decide (r.seq.toNat ≤ h.toNat)

/-- The horizon at a number. -/
def State.withHorizon (s : State) (q : BitVec 48) : State := { s with ws := { s.ws with ahor := q } }

/-- A flight taken out of those that wait for their record to be durable. -/
def State.landFlight (s : State) (q : BitVec 48) : State := { s with led := { s.led with flights := s.led.flights.filter fun g => g.seq != q } }

/-- The final word that a coordinator knows of the posting whose decision record a flight is. -/
def State.finalOf (s : State) (f : Flight) : Option Word := match f.kind with
  | .decision home n _ => if home = s.applied.lbPair then (s.coordFor n).map (·.final) else none
  | _ => none

/-- A record becomes durable: it is applied, and what waits for it becomes known. -/
def State.makesDurable (s : State) (solo : Bool) (r : Rec) : State :=
  let f := s.led.flights.find? fun f => f.seq == r.seq
  let v := (s.applyRecord r.pos.toNat solo (f.bind s.finalOf)).withHorizon r.seq
  match f with
  | none => v
  | some f => (v.landFlight r.seq).confirmFlight f

theorem State.advance_eq (s : State) (h : BitVec 48) (solo : Bool) :
    s.advance h solo = ((s.newlyDurable h).foldl (fun t r => t.makesDurable solo r) s).settleDpos := rfl

theorem State.advance_none (hrecs : s.newlyDurable h = []) : s.advance h solo = s.settleDpos := by rw [State.advance_eq, hrecs]; rfl

theorem State.advance_one (hrecs : s.newlyDurable h = [r]) : s.advance h solo = (s.makesDurable solo r).settleDpos := by
  rw [State.advance_eq, hrecs]
  rfl

/-- A record that no flight waits for, as on a follower. -/
theorem State.makesDurable_unawaited (hnone : s.led.flights.find? (fun f => f.seq == r.seq) = none) :
    s.makesDurable solo r = (s.applyRecord r.pos.toNat solo none).withHorizon r.seq := by
  unfold State.makesDurable
  rw [hnone]
  rfl

/-- The completion of a posting of this pair alone (R148, R155). -/
def Flight.completion (f : Flight) (st : BitVec 8) (leg : BitVec 4) : DoneWord :=
  { req := f.req, final := false, word := complWord st f.seq (if st = 0 then 0 else leg) false f.solo f.xp 0 }

/-- What the durable record of a posting of this pair alone makes known. -/
theorem State.confirmFlight_posting (hkind : f.kind = .posting) (hprepare : f.prepare = false) (hdecided : f.decided = some (st, leg)) (s : State) :
    let u := s.confirmFlight f
    u.mem = s.mem ∧ u.ws = s.ws ∧ u.led.flights = s.led.flights ∧ u.led.accept = (if st = 0 then s.led.accept + 1 else s.led.accept) ∧
      u.led.reject = (if st = 0 then s.led.reject else s.led.reject + 1) ∧ u.led.done = s.led.done ++ [f.completion st leg] := by
  unfold State.confirmFlight Flight.completion
  simp only [hkind, hprepare, hdecided, Option.getD_some]
  by_cases hst : st = 0
  · subst hst
    exact ⟨rfl, rfl, rfl, rfl, rfl, rfl⟩
  · simp only [if_neg hst, if_pos hst, ne_eq]
    exact ⟨rfl, rfl, rfl, rfl, rfl, rfl⟩

/-- The same once its record is durable, which is then applied. -/
theorem State.makesDurable_posting (hfind : s.led.flights.find? (fun f => f.seq == r.seq) = some f) (hkind : f.kind = .posting) (hprepare : f.prepare = false)
    (hdecided : f.decided = some (st, leg)) : let u := s.makesDurable solo r
    u.mem = (s.applyRecord r.pos.toNat solo none).mem ∧ u.ws = { s.ws with ahor := r.seq } ∧
      u.led.flights = s.led.flights.filter (fun g => g.seq != r.seq) ∧ u.led.accept = (if st = 0 then s.led.accept + 1 else s.led.accept) ∧
      u.led.reject = (if st = 0 then s.led.reject else s.led.reject + 1) ∧ u.led.done = s.led.done ++ [f.completion st leg] := by
  have hu : s.makesDurable solo r = (((s.applyRecord r.pos.toNat solo none).withHorizon r.seq).landFlight r.seq).confirmFlight f := by
    have hfinal : s.finalOf f = none := by rw [State.finalOf, hkind]
    simp only [State.makesDurable, hfind, Option.bind_some, hfinal]
  have happly := s.applyRecord_records r.pos.toNat solo none
  rw [hu]
  generalize s.applyRecord r.pos.toNat solo none = v at happly
  obtain ⟨hmem, hws, hflights, haccept, hreject, hdone⟩ := State.confirmFlight_posting hkind hprepare hdecided ((v.withHorizon r.seq).landFlight r.seq)
  refine ⟨hmem, hws.trans ?_, hflights.trans ?_, haccept.trans ?_, hreject.trans ?_, hdone.trans ?_⟩
  · exact congrArg (fun w : Watershed => { w with ahor := r.seq }) happly.ws
  · show v.led.flights.filter _ = _
    rw [happly]
  · show (if st = 0 then v.led.accept + 1 else v.led.accept) = _
    rw [happly]
  · show (if st = 0 then v.led.reject else v.led.reject + 1) = _
    rw [happly]
  · show v.led.done ++ _ = _
    rw [happly]

theorem State.settleHeals_none (hnone : s.ws.heals = []) : s.settleHeals = s := by
  unfold State.settleHeals
  rw [hnone]
  rfl

/-! ## What tells nothing of the ledger apart -/

theorem HeardOnly.sameLedger {u : State} (k : HeardOnly s u) : SameLedger s u := by
  rw [k]
  exact ⟨rfl, rfl, rfl, rfl, rfl, rfl⟩

end

end Sys2Proof.Machine
end

section
/-! Frames that name a term: acknowledgements and heartbeats (R197, R211, R214, R216). -/

namespace Sys2Proof.Machine

section
variable {s : State} {l : Fin 2} {fr : Frame}

/-! ## The term (R214) -/

theorem State.wseq_congr {t : State} (h : t.led = s.led) : t.wseq = s.wseq := by rw [State.wseq, State.wseq, h]

/-- A frame of the module's own term, of a twin in contact, renews the lease. -/
theorem State.termIn_own {term : BitVec 48} (hcontact : s.ws.contact = true) (hterm : term = s.ws.term) (role : BitVec 3) :
    s.termIn term role = (s.leased, true) := by
  unfold State.termIn
  rw [hterm, bne_self_eq_false, beq_self_eq_true, hcontact, if_neg Bool.false_ne_true]
  split
  · rfl
  · exact if_neg Bool.false_ne_true

/-- A frame of a FENCED or DIVERGENT twin renews the lease. -/
theorem State.termIn_apart {role : BitVec 3} (h : apart role = true) (term : BitVec 48) : s.termIn term role = (s.leased, term == s.ws.term) :=
  if_pos (by rw [h]; rfl)

/-- A frame of another term starts the reconnection exchange (R223). -/
theorem State.termIn_other {term : BitVec 48} {role : BitVec 3} (hrole : apart role = false) (hown : apart s.ws.role = false)
    (hside : s.ws.sideConflict = false) (hterm : term ≠ s.ws.term) : s.termIn term role = (s.startRecon, false) := by
  unfold State.termIn
  rw [hrole, hown, hside, bne_iff_ne.2 hterm]
  rfl

/-! ## TWIN_ACK (R211) -/

/-- What an ACK says of its sender, kept where it is more than was known. -/
def State.notesAck (b : State) (fr : Frame) : State := { b with ws := { b.ws with
  twinTblk := if b.ws.twinTblk.toNat < (bits fr.w2 24 48).toNat then bits fr.w2 24 48 else b.ws.twinTblk,
  twinAseq := if b.ws.twinAseq.toNat < (bits fr.w0 24 48).toNat then bits fr.w0 24 48 else b.ws.twinAseq } }

/-- MSEQ at the ASEQ of an ACK, and the horizon with it, where it covers more records than before and no more than were written. -/
def State.raisesMseq (b : State) (aseq : BitVec 48) : State :=
  if b.ws.mseq.toNat < aseq.toNat && decide (aseq.toNat ≤ b.wseq.toNat) then ({ b with ws := { b.ws with mseq := aseq } } : State).advance aseq false else b

theorem exec_twinAck_leader (h : s.frameInOrder l 2 fr) (hcontact : s.ws.contact = true) (hrole : s.ws.role = 1) (hterm : bits fr.w1 24 48 = s.ws.term) :
    exec (.twinAck l fr) s = .next ((((s.heard l fr).leased.notesAck fr).raisesMseq (bits fr.w0 24 48)).settleDpos).settleHeals := by
  have hheard := s.heard_streams l fr
  have hin : (s.heard l fr).termIn (bits fr.w1 24 48) (s.heard l fr).ws.twinRole = ((s.heard l fr).leased, true) :=
    State.termIn_own (by rw [hheard]; exact hcontact) (by rw [hheard]; exact hterm) _
  have hlead : ((s.heard l fr).leased.notesAck fr).ws.role = 1 := by
    show (s.heard l fr).ws.role = 1
    rw [hheard.role, hrole]
  have hnotes (b : State) : (let b := if b.ws.twinTblk.toNat < (bits fr.w2 24 48).toNat then { b with ws := { b.ws with twinTblk := bits fr.w2 24 48 } } else b
      if b.ws.twinAseq.toNat < (bits fr.w0 24 48).toNat then { b with ws := { b.ws with twinAseq := bits fr.w0 24 48 } } else b) = b.notesAck fr := by
    unfold State.notesAck
    dsimp only
    split_ifs <;> rfl
  show execTwinAck l fr s = _
  simp only [execTwinAck, State.frameIn_ordered h, hin]
  have hb := hnotes (s.heard l fr).leased
  dsimp only at hb
  rw [hb]
  exact congrArg _ (if_pos (beq_iff_eq.2 hlead))

theorem exec_twinAck_otherTerm (h : s.frameInOrder l 2 fr) (hown : apart s.ws.role = false) (htwin : apart s.ws.twinRole = false)
    (hside : s.ws.sideConflict = false) (hterm : bits fr.w1 24 48 ≠ s.ws.term) : exec (.twinAck l fr) s = .next (s.heard l fr).startRecon := by
  have hheard := s.heard_streams l fr
  have hin : (s.heard l fr).termIn (bits fr.w1 24 48) (s.heard l fr).ws.twinRole = ((s.heard l fr).startRecon, false) :=
    State.termIn_other (by rw [hheard]; exact htwin) (by rw [hheard]; exact hown) (by rw [hheard]; exact hside) (by rw [hheard]; exact hterm)
  show execTwinAck l fr s = _
  simp only [execTwinAck, State.frameIn_ordered h, hin]

/-- The state in which an ACK of the leader's term finds the ledger. -/
theorem State.acked_spec (s : State) (l : Fin 2) (fr : Frame) (hcontact : s.ws.contact = true) : let b := (s.heard l fr).leased.notesAck fr
    SameLedger s b ∧ b.led = s.led ∧ b.ws.ahor = s.ws.ahor ∧ b.ws.mseq = s.ws.mseq ∧ b.ws.heals = s.ws.heals ∧
      b.ws.twinTblk = (if s.ws.twinTblk.toNat < (bits fr.w2 24 48).toNat then bits fr.w2 24 48 else s.ws.twinTblk) := by
  have hheard : HeardOnly s (s.heard l fr).leased :=
    (s.heard_streams l fr).heardOnly.trans (State.leased_heardOnly ((s.heard_contact l fr).trans hcontact))
  intro b
  show SameLedger s (State.notesAck _ fr) ∧ (State.notesAck _ fr).led = s.led ∧ (State.notesAck _ fr).ws.ahor = s.ws.ahor ∧
    (State.notesAck _ fr).ws.mseq = s.ws.mseq ∧ (State.notesAck _ fr).ws.heals = s.ws.heals ∧ (State.notesAck _ fr).ws.twinTblk = _
  generalize (s.heard l fr).leased = a at hheard
  rw [hheard]
  exact ⟨⟨rfl, rfl, rfl, rfl, rfl, rfl⟩, rfl, rfl, rfl, rfl, rfl⟩

end

end Sys2Proof.Machine
end

section
/-! What an acknowledgement makes durable (R197, R211). -/

namespace Sys2Proof.Machine

section
variable {s : State} {l : Fin 2} {fr : Frame} {r : Rec} {f : Flight} {st : BitVec 8} {leg : BitVec 4}

/-- MSEQ at a number. -/
def State.withMseq (s : State) (q : BitVec 48) : State := { s with ws := { s.ws with mseq := q } }

theorem State.raisesMseq_more {q : BitVec 48} (hmore : s.ws.mseq.toNat < q.toNat) (hwritten : q.toNat ≤ s.wseq.toNat) :
    s.raisesMseq q = (s.withMseq q).advance q false := if_pos (by rw [decide_eq_true hmore, decide_eq_true hwritten]; rfl)

theorem State.raisesMseq_nothing {q : BitVec 48} (hmore : q.toNat ≤ s.ws.mseq.toNat) : s.raisesMseq q = s :=
  if_neg (by rw [decide_eq_false (Nat.not_lt.2 hmore), Bool.false_and]; exact Bool.false_ne_true)

/-- An ACK of the leader's term that makes one posting durable. -/
theorem exec_twinAck_posting (h : s.frameInOrder l 2 fr) (hcontact : s.ws.contact = true) (hrole : s.ws.role = 1) (hterm : bits fr.w1 24 48 = s.ws.term)
    (hheals : s.ws.heals = []) (hmore : s.ws.mseq.toNat < (bits fr.w0 24 48).toNat) (hwritten : (bits fr.w0 24 48).toNat ≤ s.wseq.toNat)
    (hrecs : s.newlyDurable (bits fr.w0 24 48) = [r]) (hfind : s.led.flights.find? (fun f => f.seq == r.seq) = some f) (hkind : f.kind = .posting)
    (hprepare : f.prepare = false) (hdecided : f.decided = some (st, leg)) :
    ∃ u, exec (.twinAck l fr) s = .next u ∧ u.ws.mseq = bits fr.w0 24 48 ∧ u.ws.ahor = r.seq ∧
      u.ws.twinTblk = (if s.ws.twinTblk.toNat < (bits fr.w2 24 48).toNat then bits fr.w2 24 48 else s.ws.twinTblk) ∧
      u.mem = (s.applyRecord r.pos.toNat false none).mem ∧ u.led.flights = s.led.flights.filter (fun g => g.seq != r.seq) ∧
      u.led.accept = (if st = 0 then s.led.accept + 1 else s.led.accept) ∧ u.led.reject = (if st = 0 then s.led.reject else s.led.reject + 1) ∧
      u.led.done = s.led.done ++ [f.completion st leg] := by
  refine ⟨_, exec_twinAck_leader h hcontact hrole hterm, ?_⟩
  obtain ⟨hsame, hled, hahor, hmseq, hnoheals, htblk⟩ := s.acked_spec l fr hcontact
  generalize (s.heard l fr).leased.notesAck fr = b at hsame hled hahor hmseq hnoheals htblk
  rw [State.raisesMseq_more (by rw [hmseq]; exact hmore) (by rw [State.wseq_congr hled]; exact hwritten),
    State.advance_one (r := r) (by
      show (b.led.recs.filter fun r => !r.trailer && r.written && decide (b.ws.ahor.toNat < r.seq.toNat) && _) = _
      rw [hled, hahor]
      exact hrecs)]
  obtain ⟨hmem, hws, hflights, haccept, hreject, hdone⟩ :=
    State.makesDurable_posting (s := b.withMseq (bits fr.w0 24 48)) (solo := false) (by
      show b.led.flights.find? _ = _
      rw [hled]
      exact hfind) hkind hprepare hdecided
  generalize (b.withMseq (bits fr.w0 24 48)).makesDurable false r = v at hmem hws hflights haccept hreject hdone
  have happlied : SameLedger s (b.withMseq (bits fr.w0 24 48)) := ⟨hsame.mem, hsame.applied, hsame.free, hsame.flights, hsame.preps, hsame.filterNext⟩
  have hsettled : v.settleDpos.settleDpos.settleHeals = v.settleDpos.settleDpos := State.settleHeals_none (by
    show v.ws.heals = []
    rw [hws]
    exact hnoheals.trans hheals)
  rw [hsettled]
  show v.ws.mseq = _ ∧ v.ws.ahor = _ ∧ v.ws.twinTblk = _ ∧ v.mem = _ ∧ v.led.flights = _ ∧ v.led.accept = _ ∧ v.led.reject = _ ∧ v.led.done = _
  refine ⟨by rw [hws]; rfl, by rw [hws], by rw [hws]; exact htblk, hmem.trans (happlied.applyRecord _ _ _).mem, ?_, ?_, ?_, ?_⟩
  · exact hflights.trans (by rw [State.withMseq, hled])
  · exact haccept.trans (by rw [State.withMseq, hled])
  · exact hreject.trans (by rw [State.withMseq, hled])
  · exact hdone.trans (by rw [State.withMseq, hled])

/-- An ACK of the leader's term that covers no new record. -/
theorem exec_twinAck_nothing (h : s.frameInOrder l 2 fr) (hcontact : s.ws.contact = true) (hrole : s.ws.role = 1) (hterm : bits fr.w1 24 48 = s.ws.term)
    (hheals : s.ws.heals = []) (hmore : (bits fr.w0 24 48).toNat ≤ s.ws.mseq.toNat) :
    ∃ u, exec (.twinAck l fr) s = .next u ∧ u.ws.mseq = s.ws.mseq ∧ u.ws.ahor = s.ws.ahor ∧
      u.ws.twinTblk = (if s.ws.twinTblk.toNat < (bits fr.w2 24 48).toNat then bits fr.w2 24 48 else s.ws.twinTblk) ∧
      u.mem = s.mem ∧ u.led.done = s.led.done := by
  refine ⟨_, exec_twinAck_leader h hcontact hrole hterm, ?_⟩
  obtain ⟨hsame, hled, hahor, hmseq, hnoheals, htblk⟩ := s.acked_spec l fr hcontact
  generalize (s.heard l fr).leased.notesAck fr = b at hsame hled hahor hmseq hnoheals htblk
  rw [State.raisesMseq_nothing (by rw [hmseq]; exact hmore), State.settleHeals_none (s := b.settleDpos) (hnoheals.trans hheals)]
  exact ⟨hmseq, hahor, htblk, hsame.mem, (show b.led.done = _ by rw [hled])⟩

end

end Sys2Proof.Machine
end

section
/-! Heartbeats, side conflicts and the loss of the twin (R203, R205, R214-R216). -/

namespace Sys2Proof.Machine

section
variable {s : State} {l : Fin 2} {fr : Frame}

/-! ## Side conflicts and the loss of the twin (R203, R216) -/

/-- A module whose side its twin claims is HELD, and WS_EVT says so. -/
theorem State.sideClash_spec (s : State) : s.sideClash.ws.sideConflict = true ∧ s.sideClash.ws.role = 0 ∧ bit s.sideClash.ws.evt 12 = true := by
  have htaken := State.toRole_taken ({ s.quiet with ws := { s.quiet.ws with sideConflict := true, sync := 0, recon := none } } : State) 0
  refine ⟨?_, ?_, State.setWsEvt_bit_same _ (by decide)⟩
  all_goals rw [State.sideClash, State.setWsEvt_ws, htaken.ws]

/-- How far a synchronisation is. -/
def State.withSync (s : State) (v : BitVec 2) : State := { s with ws := { s.ws with sync := v } }

/-- What a module does by its role that no longer has a twin (R216, R217). -/
def State.standsAlone (s : State) (role : Nat) : State := match role with
  | 1 => s.toRole 0
  | 2 => if ((s.withSync 0).toRole 0).asksWitness then ((s.withSync 0).toRole 0).sendGreq else (s.withSync 0).toRole 0
  | _ => s

theorem State.loseTwin_eq (s : State) :
    s.loseTwin = (s.quiet.withSync (if s.ws.role = 3 ∨ s.ws.role = 0 then 0 else s.ws.sync)).standsAlone s.ws.role.toNat := rfl

theorem State.loseTwin_leader (h : s.ws.role = 1) : s.loseTwin = s.quiet.toRole 0 := by
  rw [State.loseTwin_eq, h, if_neg (by decide)]
  rfl

theorem State.loseTwin_follower (h : s.ws.role = 2) : s.loseTwin =
    if ((s.quiet.withSync 0).toRole 0).asksWitness then ((s.quiet.withSync 0).toRole 0).sendGreq else (s.quiet.withSync 0).toRole 0 := by
  rw [State.loseTwin_eq, h, if_neg (by decide)]
  rfl

theorem State.loseTwin_solo (h : s.ws.role = 3) : s.loseTwin = s.quiet.withSync 0 := by
  rw [State.loseTwin_eq, h, if_pos (.inl rfl)]
  rfl

theorem State.sendGreq_ws (s : State) : s.sendGreq.ws = { s.ws with lastGreq := s.now } := (State.grantMsg_sendsOnly _ _ _ _ _ _ _).ws

/-- A leader that loses its twin is HELD, and answers what waits (R217). -/
theorem State.loseTwin_leader_spec (h : s.ws.role = 1) : s.loseTwin.ws.role = 0 ∧ s.loseTwin.led.arrivals = [] ∧ s.loseTwin.ws.contact = s.ws.contact ∧
    ∀ k, bit s.ws.evt k = true → bit s.loseTwin.ws.evt k = true := by
  have htaken := s.quiet.toRole_taken 0
  rw [State.loseTwin_leader h]
  exact ⟨htaken.role, State.toRole_arrivals _ (.inl h) (by decide), by rw [htaken.ws]; rfl, htaken.evt⟩

/-- A follower that loses its twin is HELD. -/
theorem State.loseTwin_follower_spec (h : s.ws.role = 2) : s.loseTwin.ws.role = 0 ∧ s.loseTwin.ws.contact = s.ws.contact ∧
    ∀ k, bit s.ws.evt k = true → bit s.loseTwin.ws.evt k = true := by
  have htaken := (s.quiet.withSync 0).toRole_taken 0
  rw [State.loseTwin_follower h]
  split
  · rw [State.sendGreq_ws]
    exact ⟨htaken.role, by rw [htaken.ws]; rfl, htaken.evt⟩
  · exact ⟨htaken.role, by rw [htaken.ws]; rfl, htaken.evt⟩

/-! ## HEARTBEAT (R197, R214) -/

/-- What a HEARTBEAT says of its sender. -/
def State.notesBeat (b : State) (fr : Frame) : State := { b with ws := { b.ws with
  twinRole := bits fr.w0 21 3, twinSynced := bit fr.w0 19, twinWseq := bits fr.w1 24 48, twinApos := bits fr.w2 0 64 } }

/-- What the Watershed keeps as it hears of its twin. -/
theorem State.notesBeat_keeps (s : State) (l : Fin 2) (fr : Frame) : let a := (s.heard l fr).notesBeat fr
    a.ws.side = s.ws.side ∧ a.ws.contact = s.ws.contact ∧ a.ws.term = s.ws.term ∧ a.leased.ws.role = s.ws.role ∧ a.leased.ws.sync = s.ws.sync := by
  intro a
  have hheard := s.heard_streams l fr
  show (State.notesBeat _ fr).ws.side = _ ∧ (State.notesBeat _ fr).ws.contact = _ ∧ (State.notesBeat _ fr).ws.term = _ ∧
    (State.notesBeat _ fr).leased.ws.role = _ ∧ (State.notesBeat _ fr).leased.ws.sync = _
  generalize s.heard l fr = v at hheard
  rw [hheard]
  exact ⟨rfl, rfl, rfl, rfl, rfl⟩

theorem State.notesBeat_side (s : State) (l : Fin 2) (fr : Frame) : ((s.heard l fr).notesBeat fr).ws.side = s.ws.side := (s.notesBeat_keeps l fr).1

/-- A HEARTBEAT of the module's own side. -/
theorem exec_heartbeat_clash (h : s.frameInOrder l 3 fr) (hside : bit fr.w0 20 = s.ws.side) :
    exec (.heartbeat l fr) s = .next ((s.heard l fr).notesBeat fr).sideClash := by
  have htest : (bit fr.w0 20 == ((s.heard l fr).notesBeat fr).ws.side) = true := by rw [s.notesBeat_side, hside, beq_self_eq_true]
  show execHeartbeat l fr s = _
  simp only [execHeartbeat, State.frameIn_ordered h]
  exact congrArg _ (if_pos htest)

/-- A HEARTBEAT of the other side. -/
theorem exec_heartbeat_twin (h : s.frameInOrder l 3 fr) (hside : bit fr.w0 20 ≠ s.ws.side) {b : State} {own : Bool}
    (hterm : ((s.heard l fr).notesBeat fr).termIn (bits fr.w0 24 48) (bits fr.w0 21 3) = (b, own)) : exec (.heartbeat l fr) s = .next
      (if bits fr.w0 21 3 == 4 then b.loseTwin
      else if !own then b
      else if b.ws.role == 2 then (b.takeBeat (bits fr.w2 0 64) (bits fr.w3 24 48)).followerSynced
      else if bit fr.w0 19 && bits fr.w0 21 3 == 2 then b.sourceSynced (bits fr.w1 24 48) else b) := by
  have htest : ¬(bit fr.w0 20 == ((s.heard l fr).notesBeat fr).ws.side) = true := by
    rw [s.notesBeat_side, beq_iff_eq]
    exact hside
  unfold State.notesBeat at htest hterm
  show execHeartbeat l fr s = _
  simp only [execHeartbeat, State.frameIn_ordered h]
  rw [if_neg htest, hterm]

/-- A HEARTBEAT of a FENCED twin. -/
theorem exec_heartbeat_fenced (h : s.frameInOrder l 3 fr) (hside : bit fr.w0 20 ≠ s.ws.side) (hfenced : bits fr.w0 21 3 = 4) :
    exec (.heartbeat l fr) s = .next ((s.heard l fr).notesBeat fr).leased.loseTwin := by
  rw [exec_heartbeat_twin h hside (State.termIn_apart (by rw [hfenced]; rfl) _), hfenced]
  rfl

/-- A position that is at least the one below which all is exported. -/
def raisedTo (p apos : BitVec 64) : BitVec 64 := if p.toNat < apos.toNat then apos else p

/-- What a follower in step takes from its leader's HEARTBEAT (R197, R205). -/
theorem State.takeBeat_inStep (h : s.ws.sync = 0) (apos : BitVec 64) (both : BitVec 48) : s.takeBeat apos both = { s with
    ws := { s.ws with mseq := if s.ws.mseq.toNat < both.toNat ∧ both.toNat ≤ s.wseq.toNat then both else s.ws.mseq },
    led := if s.led.apos.toNat ≤ apos.toNat ∧ apos.toNat ≤ s.led.wpos.toNat
      then { s.led with apos := apos, xpos := raisedTo s.led.xpos apos, dpos := raisedTo s.led.dpos apos }
      else s.led } := by
  have hstart : ¬(s.ws.sync == 3 && s.led.seqNext == 0 && s.ws.rxHave.isEmpty) = true := by rw [h]; exact Bool.false_ne_true
  have hrange : ((s.ws.sync != 3 || s.led.seqNext != 0) && decide (s.led.apos.toNat ≤ apos.toNat) && decide (apos.toNat ≤ s.led.wpos.toNat)) = true ↔
      s.led.apos.toNat ≤ apos.toNat ∧ apos.toNat ≤ s.led.wpos.toNat := by
    rw [h, Bool.and_eq_true, Bool.and_eq_true, decide_eq_true_eq, decide_eq_true_eq]
    exact ⟨fun k => ⟨k.1.2, k.2⟩, fun k => ⟨⟨rfl, k.1⟩, k.2⟩⟩
  unfold State.takeBeat
  dsimp only
  rw [if_neg hstart, if_congr hrange rfl rfl]
  have hboth (t : State) : (if decide (t.ws.mseq.toNat < both.toNat) && decide (both.toNat ≤ t.wseq.toNat) then
      ({ t with ws := { t.ws with mseq := both } } : State) else t) =
      { t with ws := { t.ws with mseq := if t.ws.mseq.toNat < both.toNat ∧ both.toNat ≤ t.wseq.toNat then both else t.ws.mseq } } := by
    by_cases htest : t.ws.mseq.toNat < both.toNat ∧ both.toNat ≤ t.wseq.toNat
    · rw [if_pos htest, if_pos (by rw [decide_eq_true htest.1, decide_eq_true htest.2]; rfl)]
    · rw [if_neg htest, if_neg (by rwa [Bool.and_eq_true, decide_eq_true_eq, decide_eq_true_eq])]
  rw [hboth]
  by_cases htaken : s.led.apos.toNat ≤ apos.toNat ∧ apos.toNat ≤ s.led.wpos.toNat
  · rw [if_pos htaken, if_pos htaken]
    rfl
  · rw [if_neg htaken, if_neg htaken]

theorem State.takeBeat_sync (h : s.ws.sync = 0) (apos : BitVec 64) (both : BitVec 48) : (s.takeBeat apos both).ws.sync = 0 := by
  rw [State.takeBeat_inStep h]
  exact h

theorem State.followerSynced_inStep (h : s.ws.sync = 0) : s.followerSynced = s := if_neg (by rw [h]; simp)

/-- A HEARTBEAT of a follower's leader, in step. -/
theorem exec_heartbeat_leader (h : s.frameInOrder l 3 fr) (hside : bit fr.w0 20 ≠ s.ws.side) (hleads : bits fr.w0 21 3 = 1) (hcontact : s.ws.contact = true)
    (hrole : s.ws.role = 2) (hsync : s.ws.sync = 0) (hterm : bits fr.w0 24 48 = s.ws.term) :
    exec (.heartbeat l fr) s = .next (((s.heard l fr).notesBeat fr).leased.takeBeat (bits fr.w2 0 64) (bits fr.w3 24 48)) := by
  obtain ⟨-, hcontact', hterm', hrole', hsync'⟩ := s.notesBeat_keeps l fr
  have hin := State.termIn_own (hcontact'.trans hcontact) (hterm.trans hterm'.symm) (bits fr.w0 21 3)
  have hfollows := hrole'.trans hrole
  have hstep := hsync'.trans hsync
  have hsynced : (((s.heard l fr).notesBeat fr).leased.takeBeat (bits fr.w2 0 64) (bits fr.w3 24 48)).followerSynced =
      ((s.heard l fr).notesBeat fr).leased.takeBeat (bits fr.w2 0 64) (bits fr.w3 24 48) := State.followerSynced_inStep (State.takeBeat_sync hstep _ _)
  rw [exec_heartbeat_twin h hside hin, hleads, hfollows, if_neg (by decide), if_neg (by decide), if_pos (by decide), hsynced]

/-- What that leaves. -/
theorem State.beaten_eq (hrole : bits fr.w0 21 3 = 1) (hsync : s.ws.sync = 0) (l : Fin 2) : let apos := bits fr.w2 0 64
    let both := bits fr.w3 24 48
    ((s.heard l fr).notesBeat fr).leased.takeBeat apos both = {
      (s.heard l fr).leased with
      ws := {
        (s.heard l fr).leased.ws with
        twinRole := 1, twinSynced := bit fr.w0 19, twinWseq := bits fr.w1 24 48, twinApos := apos,
        mseq := if s.ws.mseq.toNat < both.toNat ∧ both.toNat ≤ s.wseq.toNat then both else s.ws.mseq },
      led := if s.led.apos.toNat ≤ apos.toNat ∧ apos.toNat ≤ s.led.wpos.toNat
        then { s.led with apos := apos, xpos := raisedTo s.led.xpos apos, dpos := raisedTo s.led.dpos apos }
        else s.led } := by
  have hheard := s.heard_streams l fr
  have hled : (s.heard l fr).led = s.led := by rw [hheard]
  have hmseq : (s.heard l fr).ws.mseq = s.ws.mseq := by rw [hheard]
  have hstep : (s.heard l fr).ws.sync = 0 := by
    rw [hheard]
    exact hsync
  generalize s.heard l fr = v at hled hmseq hstep
  have hwseq : (v.notesBeat fr).leased.wseq = s.wseq := State.wseq_congr hled
  intro apos both
  rw [State.takeBeat_inStep (s := (v.notesBeat fr).leased) hstep, hwseq, ← hled, ← hmseq, ← hrole]
  rfl

end

end Sys2Proof.Machine
end

section
/-! Words put at Plain offsets (R33). -/

namespace Sys2Proof.Machine

theorem State.Inv.putWord {s : State} (h : s.Inv) (pa : WAddr) (v : Word) : (s.putWord pa v).Inv := h.putMasked pa maskAll v

theorem plainAddr_succ (off : Nat) : plainAddr off + 1 = plainAddr (off + 1) := (BitVec.ofNat_add (2 ^ 48 + off) 1).symm

/-- Words stand from a Plain offset on, and every other word of memory is as it was. -/
def PlainHolds (s u : State) (off : Nat) (ws : List Word) : Prop :=
  (∀ i : Nat, i < ws.length → u.data (plainAddr (off + i)) = ws.getD i 0) ∧
    ∀ a, (∀ i : Nat, i < ws.length → a ≠ plainAddr (off + i)) → u.data a = s.data a

theorem State.putWords_plain {s : State} (h : s.Inv) {off : Nat} {ws : List Word} (hroom : off + ws.length ≤ 2 ^ 48) :
    PlainHolds s (s.putWords (plainAddr off) ws) off ws := by
  induction ws generalizing s off with
  | nil => exact ⟨fun i hi => absurd hi (Nat.not_lt_zero i), fun _ _ => rfl⟩
  | cons v r ih =>
    rw [List.length_cons] at hroom
    obtain ⟨hrest, hother⟩ := ih (h.putWord (plainAddr off) v) (off := off + 1) (by omega)
    rw [← plainAddr_succ] at hrest hother
    refine ⟨fun i hi => ?_, fun a ha => ?_⟩
    · rw [List.length_cons] at hi
      cases i with
      | zero =>
        refine (hother _ fun j hj he => ?_).trans ((State.data_putWord h _ v _).trans (if_pos rfl))
        have := (plainAddr_inj (by omega) (by omega)).1 he
        omega
      | succ i =>
        have hword := hrest i (by omega)
        rw [Nat.add_right_comm, Nat.add_assoc] at hword
        exact hword
    · refine (hother a fun j hj he => ha (j + 1) (by simpa using hj) ?_).trans ((State.data_putWord h _ v _).trans (if_neg ?_))
      · rw [he, Nat.add_right_comm, Nat.add_assoc]
      · exact ha 0 (Nat.succ_pos _)

end Sys2Proof.Machine
end

section
/-! Timers of the Watershed, and the role record (R205, R215). -/

namespace Sys2Proof.Machine

section
variable {s : State}

/-! ## The lease (R214, R216) -/

/-- A module whose lease has run out. -/
def State.uncontacted (s : State) : State := ({ s with ws := { s.ws with contact := false } } : State).setWsEvt 0

theorem State.uncontacted_ws (s : State) : s.uncontacted.ws = { s.ws with contact := false, evt := setBit s.ws.evt 0 true } := State.setWsEvt_ws _ _

theorem State.uncontacted_evt (s : State) : bit s.uncontacted.ws.evt 0 = true := State.setWsEvt_bit_same _ (by decide)

theorem exec_leaseExpiry (hcontact : s.ws.contact = true) (hdue : s.ws.lastTerm.toNat + 20000 ≤ s.now.toNat) :
    exec .leaseExpiry s = .next s.uncontacted.loseTwin := congrArg _ (if_pos (by rw [hcontact, decide_eq_true hdue]; rfl))

theorem exec_leaseExpiry_early (h : s.now.toNat < s.ws.lastTerm.toNat + 20000) : exec .leaseExpiry s = .next s :=
  congrArg _ (if_neg (by rw [decide_eq_false (Nat.not_le.2 h), Bool.and_false]; exact Bool.false_ne_true))

theorem State.uncontacted_role (s : State) : s.uncontacted.ws.role = s.ws.role := by rw [s.uncontacted_ws]
theorem State.uncontacted_contact (s : State) : s.uncontacted.ws.contact = false := by rw [s.uncontacted_ws]

/-! ## The role record (R205) -/

theorem State.length_roleWords (s : State) : s.roleWords.length = 4 := rfl

/-- The role record written: its four words, in the copy that was not current. -/
theorem State.writeRole_holds (hinv : s.Inv) (hpower : s.brd.powered = true) : s.writeRole.ws = s.ws.rewritten s.now ∧
    PlainHolds s s.writeRole (0xFF0010 + (if s.writeRole.ws.copy then 4 else 0)) ({ s with ws := s.ws.rewritten s.now } : State).roleWords := by
  have hws : s.writeRole.ws = s.ws.rewritten s.now := by
    rw [s.writeRole_ws, if_pos hpower]
  refine ⟨hws, ?_⟩
  rw [hws, s.writeRole_powered hpower]
  have hholds := State.putWords_plain (s := { s with ws := s.ws.rewritten s.now }) hinv (off := 0xFF0010 + (if !s.ws.copy then 4 else 0))
    (ws := ({ s with ws := s.ws.rewritten s.now } : State).roleWords) (by
      show 0xFF0010 + (if !s.ws.copy then 4 else 0) + 4 ≤ 2 ^ 48
      split <;> omega)
  exact hholds

/-! ## Reconnection and grant requests (R215, R221) -/

theorem exec_reconnectionTimer {t0 : BitVec 64} (h : s.ws.recon = some t0) :
    exec .reconnectionTimer s = .next (if t0.toNat + 100000 ≤ s.now.toNat then s.sendRecon else s) := by
  show execReconnectionTimer s = _
  simp only [execReconnectionTimer, h]

/-- A RECON frame goes out, and the exchange is under way (R223). -/
theorem State.sendRecon_spec (s : State) : s.sendRecon.ws.recon = some s.now ∧
    Sent s s.sendRecon 8 [at' s.ws.term 24 ||| at' s.ws.role 21 ||| at' s.ws.lrole 19 ||| flagAt s.ws.side 18 ||| at' s.ws.gen 0, at' s.ws.mseq 24,
      at' s.ws.soloFirst 24, at' s.ws.ahor 24, at' s.wseq 24, s.applied.digest] := by
  refine ⟨?_, (State.sendBoth_sent _ _ _).of_room fun _ => rfl⟩
  unfold State.sendRecon
  rw [(State.sendBoth_streamed _ _ _).eq]

theorem exec_grantRequestTimer (hrole : s.ws.role = 0) (hcontact : s.ws.contact = false) (hasks : s.asksWitness = true)
    (hdue : s.ws.lastGreq.toNat + 50000 ≤ s.now.toNat) : exec .grantRequestTimer s = .next s.sendGreq :=
  congrArg _ (if_pos (by rw [hrole, hcontact, hasks, decide_eq_true hdue]; rfl))

theorem exec_grantRequestTimer_early (h : s.now.toNat < s.ws.lastGreq.toNat + 50000) : exec .grantRequestTimer s = .next s :=
  congrArg _ (if_neg (by rw [decide_eq_false (Nat.not_le.2 h), Bool.and_false]; exact Bool.false_ne_true))

end

end Sys2Proof.Machine
end

section
/-! What the exchange of RECON frames compares (R223, R224). -/

namespace Sys2Proof.Machine

section
variable {s t : State}

/-! ## The ring, by what it depends on -/

theorem SameLedger.scanRing (h : SameLedger s t) (f p e : Nat) : t.scanRing f p e = s.scanRing f p e := by
  induction f generalizing p with
  | zero => rfl
  | succ f ih => simp only [State.scanRing, h.ringWord, ih]

theorem SameLedger.ringRecords (h : SameLedger s t) (hled : t.led = s.led) : t.ringRecords = s.ringRecords := by
  simp only [State.ringRecords, State.ringEnd, hled, h.scanRing]

/-! ## A module under the exchange -/

/-- Nothing differs but the links with what goes out, the lease, what is known of the twin, and whether the exchange is under way. -/
def ReconOnly (s u : State) : Prop := u = { s with ws := { s.ws with
  links := u.ws.links, txq := u.ws.txq, txLink := u.ws.txLink, queue := u.ws.queue, out := u.ws.out, lastTerm := u.ws.lastTerm, contact := u.ws.contact,
  recon := u.ws.recon, twinRole := u.ws.twinRole, twinWseq := u.ws.twinWseq } }

namespace ReconOnly

variable {u : State}

theorem trans (h : ReconOnly s t) (k : ReconOnly t u) : ReconOnly s u :=
  Eq.trans k (congrArg (fun x : State => { x with ws := { x.ws with
    links := u.ws.links, txq := u.ws.txq, txLink := u.ws.txLink, queue := u.ws.queue, out := u.ws.out, lastTerm := u.ws.lastTerm, contact := u.ws.contact,
    recon := u.ws.recon, twinRole := u.ws.twinRole, twinWseq := u.ws.twinWseq } }) h)

theorem of_streams (h : StreamsOnly s u) : ReconOnly s u := by
  have hlease : u.ws.lastTerm = s.ws.lastTerm := by rw [h]
  have hcontact : u.ws.contact = s.ws.contact := by rw [h]
  have hrecon : u.ws.recon = s.ws.recon := by rw [h]
  have hrole : u.ws.twinRole = s.ws.twinRole := by rw [h]
  have hwseq : u.ws.twinWseq = s.ws.twinWseq := by rw [h]
  rw [ReconOnly, hlease, hcontact, hrecon, hrole, hwseq]
  exact h

theorem sameLedger (h : ReconOnly s u) : SameLedger s u := by
  rw [h]
  exact ⟨rfl, rfl, rfl, rfl, rfl, rfl⟩

theorem led (h : ReconOnly s u) : u.led = s.led := by rw [h]
theorem ringRecords (h : ReconOnly s u) : u.ringRecords = s.ringRecords := h.sameLedger.ringRecords h.led
theorem wseq (h : ReconOnly s u) : u.wseq = s.wseq := State.wseq_congr h.led

end ReconOnly

theorem State.sendRecon_reconOnly (s : State) : ReconOnly s s.sendRecon :=
  ReconOnly.trans (t := { s with ws := { s.ws with recon := some s.now } }) rfl (.of_streams (State.sendBoth_streamed _ _ _).only)

theorem State.startRecon_reconOnly (s : State) : ReconOnly s s.startRecon := by
  unfold State.startRecon
  split
  · rfl
  · exact s.sendRecon_reconOnly

theorem State.sendRecords_reconOnly (s : State) (lo hi : Nat) : ReconOnly s (s.sendRecords lo hi) :=
  ReconOnly.trans (t := s.requeued _ s.ws.queue s.ws.copied) rfl (.of_streams (State.pump_streams _))

end

end Sys2Proof.Machine
end

section
/-! RECON (R203, R223-R225). -/

namespace Sys2Proof.Machine

section
variable {s : State} {l : Fin 2} {fr : Frame} {words : List Word}

/-! ## What RECON says (R223) -/

/-- What RECON says of its sender. -/
def State.notesRecon (v : State) (fr : Frame) : State := { v with ws := { v.ws with twinRole := bits fr.w0 21 3, twinWseq := bits fr.w4 24 48 } }

/-- A RECON heard, which renews the lease where it is of the module's own term. -/
def State.hearsRecon (v : State) (fr : Frame) : State :=
  if bits fr.w0 24 48 == (v.notesRecon fr).ws.term then (v.notesRecon fr).leased else v.notesRecon fr

/-- The last record on which the modules agree (R223). -/
def State.agreed (s : State) (lo hi : Nat) (theirs : List (List Word)) : BitVec 48 := match s.firstDiff (s.recordsIn lo hi) theirs with
  | some q => q - 1
  | none => BitVec.ofNat 48 hi

/-- Whether the module has records of its own SOLO term above a number (R224). -/
def State.soloAbove (s : State) (c : BitVec 48) : Bool :=
  s.ringRecords.any fun r => recType r.2 != 6 && decide (c.toNat < (recSeq r.2).toNat) && recSolo r.2

/-- A role that leads. -/
def leadRole (r : BitVec 2) : Bool := r == 1 || r == 3

/-- Whether the module is the source where no tail decides it (R224). -/
def State.outranks (s : State) (term : BitVec 48) (lrole : BitVec 2) : Bool :=
  if s.ws.term != term then decide (term.toNat < s.ws.term.toNat)
  else if leadRole s.ws.lrole != leadRole lrole then leadRole s.ws.lrole
  else !s.ws.side

/-- The higher of two terms. -/
def State.higherTerm (s : State) (term : BitVec 48) : BitVec 48 := if s.ws.term.toNat < term.toNat then term else s.ws.term

/-- Whether a module that is the source must send a full copy (R226). -/
def State.lacks (s : State) (c ahor : BitVec 48) : Bool :=
  (decide (c.toNat < s.wseq.toNat) && !(s.ringRecords.any fun r => recType r.2 != 6 && recSeq r.2 == c + 1)) || needsCopy c ahor

/-- What a module becomes once it knows the prefix that both agree on, and whether each has a SOLO tail (R224). -/
def State.resolves (s : State) (c : BitVec 48) (ownSolo twinSolo : Bool) (fr : Frame) : State :=
  if ownSolo && twinSolo then ({ s with ws := { s.ws with recon := none, sync := 0 } } : State).leased.toRole 5
  else if (if ownSolo then true else if twinSolo then false else s.outranks (bits fr.w0 24 48) (bits fr.w0 19 2)) then
    s.leased.becomeSource (s.higherTerm (bits fr.w0 24 48)) c (s.lacks c (bits fr.w3 24 48))
  else s.leased.becomeFollower (s.higherTerm (bits fr.w0 24 48)) c (s.ws.lostApplied || needsCopy c s.ws.ahor || !s.ringCovers)

/-- The prefix noted. -/
def State.notesPrefix (s : State) (c : BitVec 48) : State := { s with ws := { s.ws with divPfx := c, divTail := s.wseq } }

/-- The records of both compared. -/
def State.compares (s : State) (lo hi : Nat) (fr : Frame) (words : List Word) : State :=
  let theirs := splitRecords words.length words
  let c := s.agreed lo hi theirs
  (s.notesPrefix c).resolves c (s.soloAbove c) (tailSolo c (bits fr.w4 24 48) (bits fr.w2 24 48) theirs) fr

/-- What a module does with a RECON that it has heard (R203, R223, R224). -/
def State.answersRecon (a : State) (fr : Frame) (words : List Word) : State :=
  if bit fr.w0 18 == a.ws.side then a.sideClash
  else if apart (bits fr.w0 21 3) || apart a.ws.role || a.ws.sideConflict then a.leased
  else if fr.w5 != a.applied.digest then ({ a with ws := { a.ws with recon := none } } : State).setWsEvt 13
  else
    let t := a.quiet.startRecon
    let lo := min t.ws.mseq.toNat (bits fr.w1 24 48).toNat
    let hi := min t.wseq.toNat (bits fr.w4 24 48).toNat
    (t.sendRecords lo hi).compares lo hi fr words

theorem State.reconnect_eq (v : State) (fr : Frame) (words : List Word) :
    v.reconnect fr.w0 fr.w1 fr.w2 fr.w3 fr.w4 fr.w5 words = (v.hearsRecon fr).answersRecon fr words := by
  unfold State.reconnect
  extract_lets term role lrole side mseq ahor wseq w0 b a w1 t lo hi q theirs c twinSolo ownSolo w2 d w3 leads wins source higher gone
  have ha : v.hearsRecon fr = a := rfl
  rw [ha]
  clear_value a
  unfold State.answersRecon
  refine if_congr Iff.rfl rfl (if_congr Iff.rfl rfl (if_congr Iff.rfl rfl ?_))
  show _ = q.compares lo hi fr words
  clear_value q lo hi
  have hd : q.notesPrefix c = d := rfl
  show _ = (q.notesPrefix c).resolves c ownSolo twinSolo fr
  rw [hd]
  clear_value d c ownSolo twinSolo
  rfl

end

end Sys2Proof.Machine
end

section
/-! Source and follower of a synchronisation (R224-R227). -/

namespace Sys2Proof.Machine

section
variable (s : State) (term c : BitVec 48) (full : Bool)

/-! ## The source -/

/-- A source enters the synchronisation: a SOLO source stays SOLO, another is HELD (R224). -/
def State.entersSource : State := if s.ws.role == 3 then s else s.toRole 0

theorem State.entersSource_taken : RoleTaken (if s.ws.role = 3 then 3 else 0) s s.entersSource := by
  unfold State.entersSource
  by_cases h : s.ws.role = 3
  · rw [if_pos h, if_pos (beq_iff_eq.2 h), ← h]
    exact ⟨rfl, fun _ hk => hk⟩
  · rw [if_neg h, if_neg (mt beq_iff_eq.1 h)]
    exact s.toRole_taken 0

/-- The Watershed of a source of a synchronisation. -/
def Watershed.asSource (w : Watershed) : Watershed :=
  { w with term := term, sync := 1, recon := none, copied := 0, twinSynced := false, twinAseq := if full then 0 else c, twinTblk := 0 }

/-- Of the Watershed, recording the role changes the counts of the record alone (R205). -/
theorem State.writeRole_counts : s.writeRole.ws =
    { s.ws with gen := s.writeRole.ws.gen, copy := s.writeRole.ws.copy, lastWrite := s.writeRole.ws.lastWrite } := by
  rw [s.writeRole_ws]
  split <;> rfl

/-- The source before it sends. -/
def State.asSource : State := ({ s.entersSource with ws := s.entersSource.ws.asSource term c full } : State).writeRole

theorem State.becomeSource_eq : s.becomeSource term c full =
    if full then (s.asSource term c full).sendCopy
    else ((s.asSource term c full).requeued ((s.asSource term c full).ws.txq ++ (s.asSource term c full).unackedWords c)
      (s.asSource term c full).ws.queue (s.asSource term c full).ws.copied).pump := rfl

/-- The source of a synchronisation (R224). -/
theorem State.becomeSource_spec : let u := s.becomeSource term c full
    u.ws.role = (if s.ws.role = 3 then 3 else 0) ∧ u.ws.sync = 1 ∧ u.ws.term = term ∧ u.ws.recon = none ∧ u.ws.reconcile = s.ws.reconcile := by
  have hsource : let a := s.asSource term c full
      a.ws.role = (if s.ws.role = 3 then 3 else 0) ∧ a.ws.sync = 1 ∧ a.ws.term = term ∧ a.ws.recon = none ∧ a.ws.reconcile = s.ws.reconcile := by
    dsimp only
    rw [State.asSource, State.writeRole_counts, s.entersSource_taken.ws]
    exact ⟨rfl, rfl, rfl, rfl, rfl⟩
  have hsent : ∃ txq queue copied, Streamed ((s.asSource term c full).requeued txq queue copied) (s.becomeSource term c full) := by
    rw [State.becomeSource_eq]
    split
    · exact ⟨_, _, _, State.sendCopy_streamed _⟩
    · exact ⟨_, _, _, State.pump_streamed _⟩
  obtain ⟨txq, queue, copied, hsent⟩ := hsent
  intro u
  have hu : u = _ := hsent.eq
  rw [hu]
  exact hsource

/-! ## The follower -/

/-- Of the Watershed, a discard changes what it says of the records and of the twin's trailers, and reports itself (R225). -/
theorem State.discardTail_ws : (s.discardTail c).ws = { s.ws with
    ahor := (s.discardTail c).ws.ahor, mseq := (s.discardTail c).ws.mseq, twinTblk := (s.discardTail c).ws.twinTblk,
    lostApplied := (s.discardTail c).ws.lostApplied, evt := (s.discardTail c).ws.evt } := by
  unfold State.discardTail
  split
  · rfl
  · dsimp only
    rw [State.setWsEvt_ws, State.settleDpos_ws]

/-- The Watershed of a follower of a synchronisation. -/
def Watershed.asFollower (w : Watershed) : Watershed :=
  { w with term := term, sync := if full then 3 else 2, recon := none, soloFirst := 0, synced := false, rxWords := [], rxHave := [], live := [], copied := 0,
           run := none }

/-- The follower before it says so. -/
def State.asFollower : State :=
  ({ (s.toRole 0).discardTail c with ws := ((s.toRole 0).discardTail c).ws.asFollower term full } : State).setRole 2

/-- A follower that takes a full copy holds no record (R227). -/
def State.emptied : State := { s with
  led := { s.led with
    seqNext := 0, wpos := s.ws.twinApos, apos := s.ws.twinApos, dpos := s.ws.twinApos, xpos := s.ws.twinApos, recs := [], preps := [],
    flights := [], decisionWords := 0, lastTrailer := none, blockNext := 0 },
  ws := { s.ws with twinTblk := 0 } }

theorem State.becomeFollower_eq : s.becomeFollower term c full =
    if full then (s.asFollower term c full).emptied.sendAck else (s.asFollower term c full).applyTo c := by
  unfold State.becomeFollower
  extract_lets b w d a
  have ha : s.asFollower term c full = a := rfl
  rw [ha]
  clear_value a
  rfl

/-- Outside a full copy a follower applies as any module does (R212). -/
theorem State.applyTo_advance (h : s.ws.sync ≠ 3) : s.applyTo c = s.advance c false := by
  have htest : (s.ws.sync != 3) = true := bne_iff_ne.2 h
  unfold State.applyTo
  rw [htest, if_pos rfl]

/-- The follower of a synchronisation (R224-R226). -/
theorem State.becomeFollower_spec : let u := s.becomeFollower term c full
    u.ws.role = 2 ∧ u.ws.sync = (if full then 3 else 2) ∧ u.ws.term = term ∧ u.ws.recon = none ∧ u.ws.reconcile = s.ws.reconcile := by
  have hheld := (s.toRole_taken 0).ws
  have hdiscard := (s.toRole 0).discardTail_ws c
  rw [hheld] at hdiscard
  have hfollows := (State.setRole_taken ({ (s.toRole 0).discardTail c with ws := ((s.toRole 0).discardTail c).ws.asFollower term full } : State) 2).ws
  have hfollower : let a := s.asFollower term c full
      a.ws.role = 2 ∧ a.ws.sync = (if full then 3 else 2) ∧ a.ws.term = term ∧ a.ws.recon = none ∧ a.ws.reconcile = s.ws.reconcile := by
    dsimp only
    rw [State.asFollower, hfollows, hdiscard]
    exact ⟨rfl, rfl, rfl, rfl, rfl⟩
  rw [State.becomeFollower_eq]
  generalize s.asFollower term c full = a at hfollower
  cases full with
  | true =>
    rw [if_pos rfl, State.sendAck, (State.sendBoth_streamed _ _ _).eq]
    exact hfollower
  | false =>
    rw [if_neg Bool.false_ne_true, a.applyTo_advance c (by rw [hfollower.2.1]; decide)]
    dsimp only
    rw [State.advance_ws]
    exact hfollower

end

end Sys2Proof.Machine
end

section
/-! RECON taken (R203, R223-R226). -/

namespace Sys2Proof.Machine

section
variable {s q : State} {l : Fin 2} {fr : Frame} {words : List Word} {lo hi : Nat} {c : BitVec 48}

/-! ## What stands through the exchange -/

theorem State.hearsRecon_reconOnly (v : State) (fr : Frame) : ReconOnly v (v.hearsRecon fr) := by
  unfold State.hearsRecon
  split <;> rfl

theorem State.heard_hearsRecon (s : State) (l : Fin 2) (fr : Frame) : ReconOnly s ((s.heard l fr).hearsRecon fr) :=
  (ReconOnly.of_streams (s.heard_streams l fr)).trans (State.hearsRecon_reconOnly _ fr)

theorem State.quiet_reconOnly (s : State) : ReconOnly s s.quiet := rfl

namespace ReconOnly

variable (h : ReconOnly s q)
include h

theorem recordsIn (lo hi : Nat) : q.recordsIn lo hi = s.recordsIn lo hi := by rw [State.recordsIn, h.ringRecords, State.recordsIn]

theorem agreed (lo hi : Nat) (theirs : List (List Word)) : q.agreed lo hi theirs = s.agreed lo hi theirs := by
  have hdiff : q.firstDiff (q.recordsIn lo hi) theirs = s.firstDiff (s.recordsIn lo hi) theirs := by
    simp only [State.firstDiff, h.recordsIn, h.sameLedger.ringWords]
  rw [State.agreed, hdiff, State.agreed]

theorem soloAbove (c : BitVec 48) : q.soloAbove c = s.soloAbove c := by rw [State.soloAbove, h.ringRecords, State.soloAbove]

theorem ringCovers : q.ringCovers = s.ringCovers := by
  rw [h]
  rfl

end ReconOnly

/-! ## RECON by what it says -/

theorem exec_recon_ordered (h : s.frameInOrder l 8 fr) : exec (.recon l fr words) s = .next (((s.heard l fr).hearsRecon fr).answersRecon fr words) := by
  show execRecon l fr words s = _
  simp only [execRecon, State.frameIn_ordered h, State.reconnect_eq]

theorem State.answersRecon_clash (h : bit fr.w0 18 = s.ws.side) : s.answersRecon fr words = s.sideClash :=
  if_pos (beq_iff_eq.2 h)

section
variable (hside : bit fr.w0 18 ≠ s.ws.side) (htwin : apart (bits fr.w0 21 3) = false) (hown : apart s.ws.role = false) (hclash : s.ws.sideConflict = false)
include hside htwin hown hclash

theorem State.answersRecon_digest (h : fr.w5 ≠ s.applied.digest) :
    s.answersRecon fr words = ({ s with ws := { s.ws with recon := none } } : State).setWsEvt 13 := by
  unfold State.answersRecon
  rw [if_neg (mt beq_iff_eq.1 hside), htwin, hown, hclash, if_neg (by decide), if_pos (bne_iff_ne.2 h)]

theorem State.answersRecon_compares (h : fr.w5 = s.applied.digest) : ∃ q, ReconOnly s q ∧
    s.answersRecon fr words =
      q.compares (min s.ws.mseq.toNat (bits fr.w1 24 48).toNat) (min s.wseq.toNat (bits fr.w4 24 48).toNat) fr words := by
  have hstarted : ReconOnly s s.quiet.startRecon := s.quiet_reconOnly.trans (State.startRecon_reconOnly _)
  unfold State.answersRecon
  rw [if_neg (mt beq_iff_eq.1 hside), htwin, hown, hclash, if_neg (by decide), if_neg (by rw [h, bne_self_eq_false]; exact Bool.false_ne_true)]
  generalize s.quiet.startRecon = t at hstarted
  have hmseq : t.ws.mseq = s.ws.mseq := by rw [hstarted]
  dsimp only
  rw [hmseq, hstarted.wseq]
  exact ⟨_, hstarted.trans (State.sendRecords_reconOnly t _ _), rfl⟩

end

/-! ## The outcome (R224) -/

/-- The module as it was, once the exchange has told it the prefix. -/
theorem ReconOnly.compares (h : ReconOnly s q) : let theirs := splitRecords words.length words
    let c := s.agreed lo hi theirs
    q.compares lo hi fr words = (q.notesPrefix c).resolves c (s.soloAbove c) (tailSolo c (bits fr.w4 24 48) (bits fr.w2 24 48) theirs) fr := by
  unfold State.compares
  dsimp only
  rw [h.agreed, h.soloAbove]

/-- A module whose tail and whose twin's tail both hold SOLO records is DIVERGENT. -/
theorem State.resolves_divergent (d : State) (c : BitVec 48) (fr : Frame) : let u := d.resolves c true true fr
    u.ws.role = 5 ∧ u.ws.divPfx = d.ws.divPfx ∧ u.ws.divTail = d.ws.divTail ∧ u.ws.recon = none := by
  have htaken := State.toRole_taken ({ d with ws := { d.ws with recon := none, sync := 0 } } : State).leased 5
  intro u
  have hu : u = (({ d with ws := { d.ws with recon := none, sync := 0 } } : State).leased).toRole 5 := if_pos rfl
  rw [hu, htaken.ws]
  exact ⟨rfl, rfl, rfl, rfl⟩

/-- The side that becomes source of the synchronisation. -/
def State.isSource (s : State) (own twin : Bool) (fr : Frame) : Bool :=
  if own then true else if twin then false else s.outranks (bits fr.w0 24 48) (bits fr.w0 19 2)

theorem State.isSource_iff (s : State) (own twin : Bool) (fr : Frame) : s.isSource own twin fr = true ↔
    own = true ∨ (¬twin = true ∧ s.outranks (bits fr.w0 24 48) (bits fr.w0 19 2) = true) := by
  cases own <;> cases twin <;> simp [State.isSource]

theorem State.resolves_source {d : State} {own twin : Bool} (hboth : (own && twin) = false) (h : d.isSource own twin fr = true) :
    d.resolves c own twin fr = d.leased.becomeSource (d.higherTerm (bits fr.w0 24 48)) c (d.lacks c (bits fr.w3 24 48)) := by
  unfold State.isSource at h
  unfold State.resolves
  rw [hboth, if_neg Bool.false_ne_true, h, if_pos rfl]

theorem State.resolves_follower {d : State} {own twin : Bool} (hboth : (own && twin) = false) (h : d.isSource own twin fr = false) :
    d.resolves c own twin fr =
      d.leased.becomeFollower (d.higherTerm (bits fr.w0 24 48)) c (d.ws.lostApplied || needsCopy c d.ws.ahor || !d.ringCovers) := by
  unfold State.isSource at h
  unfold State.resolves
  rw [hboth, if_neg Bool.false_ne_true, h, if_neg Bool.false_ne_true]

/-- A follower takes a full copy where it lost a record that it had applied, would lose one, or the ring no longer reaches back (R226). -/
theorem copies_iff (lost covers : Bool) (c ahor : BitVec 48) :
    (lost || needsCopy c ahor || !covers) = true ↔ lost = true ∨ c.toNat < ahor.toNat ∨ covers = false := by
  rw [Bool.or_eq_true, Bool.or_eq_true, needsCopy, decide_eq_true_eq, Bool.not_eq_true', or_assoc]

theorem State.soloAbove_iff (s : State) (c : BitVec 48) :
    s.soloAbove c = true ↔ ∃ r ∈ s.ringRecords, recType r.2 ≠ 6 ∧ c.toNat < (recSeq r.2).toNat ∧ recSolo r.2 = true := by
  simp only [State.soloAbove, List.any_eq_true, Bool.and_eq_true, bne_iff_ne, decide_eq_true_eq, and_assoc]

theorem tailSolo_iff (c wseq solo : BitVec 48) (theirs : List (List Word)) : tailSolo c wseq solo theirs = true ↔
    (∃ r ∈ theirs, c.toNat < (recSeq (r.getD 0 0)).toNat ∧ recSolo (r.getD 0 0) = true) ∨
      (solo ≠ 0 ∧ solo.toNat ≤ wseq.toNat ∧ c.toNat < wseq.toNat) := by
  simp only [tailSolo, Bool.or_eq_true, List.any_eq_true, Bool.and_eq_true, bne_iff_ne, decide_eq_true_eq, and_assoc]

theorem leadRole_iff (r : BitVec 2) : leadRole r = true ↔ r = 1 ∨ r = 3 := by simp [leadRole]

/-- One of two modules of the same term is the source: one that led before one that did not, or else the one of side A. -/
theorem leads_first_iff : ∀ mine theirs side : Bool, (if mine != theirs then mine else !side) = true ↔
    (mine = true ∧ ¬theirs = true) ∨ ((mine = true ↔ theirs = true) ∧ side = false) := by decide

/-- Which module is the source where no tail decides it (R224). -/
theorem State.outranks_iff (s : State) (term : BitVec 48) (lrole : BitVec 2) : s.outranks term lrole = true ↔
    term.toNat < s.ws.term.toNat ∨ (term = s.ws.term ∧
      (((s.ws.lrole = 1 ∨ s.ws.lrole = 3) ∧ ¬(lrole = 1 ∨ lrole = 3)) ∨
        (((s.ws.lrole = 1 ∨ s.ws.lrole = 3) ↔ (lrole = 1 ∨ lrole = 3)) ∧ s.ws.side = false))) := by
  unfold State.outranks
  rw [← leadRole_iff, ← leadRole_iff]
  by_cases hterm : term = s.ws.term
  · have hless : ¬term.toNat < s.ws.term.toNat := by rw [hterm]; exact Nat.lt_irrefl _
    rw [if_neg (by rw [hterm, bne_self_eq_false]; exact Bool.false_ne_true), leads_first_iff, or_iff_right hless, and_iff_right hterm]
  · rw [if_pos (bne_iff_ne.2 (Ne.symm hterm)), decide_eq_true_eq, or_iff_left fun h => hterm h.1]

/-- What a RECON of the same settings makes of a module (R224-R226). -/
theorem State.answersRecon_outcome (hside : bit fr.w0 18 ≠ s.ws.side) (htwin : apart (bits fr.w0 21 3) = false) (hown : apart s.ws.role = false)
    (hclash : s.ws.sideConflict = false) (hdigest : fr.w5 = s.applied.digest) : let u := s.answersRecon fr words
    let theirs := splitRecords words.length words
    let c := s.agreed (min s.ws.mseq.toNat (bits fr.w1 24 48).toNat) (min s.wseq.toNat (bits fr.w4 24 48).toNat) theirs
    let ownSolo := s.soloAbove c
    let twinSolo := tailSolo c (bits fr.w4 24 48) (bits fr.w2 24 48) theirs
    let higher := s.higherTerm (bits fr.w0 24 48)
    (ownSolo = true → twinSolo = true → u.ws.role = 5 ∧ u.ws.divPfx = c ∧ u.ws.divTail = s.wseq ∧ u.ws.recon = none) ∧
    ((ownSolo && twinSolo) = false → s.isSource ownSolo twinSolo fr = true →
      u.ws.role = (if s.ws.role = 3 then 3 else 0) ∧ u.ws.sync = 1 ∧ u.ws.term = higher ∧ u.ws.recon = none) ∧
    ((ownSolo && twinSolo) = false → s.isSource ownSolo twinSolo fr = false →
      u.ws.role = 2 ∧ u.ws.sync = (if s.ws.lostApplied || needsCopy c s.ws.ahor || !s.ringCovers then 3 else 2) ∧ u.ws.term = higher ∧ u.ws.recon = none) := by
  obtain ⟨q, hq, hanswers⟩ := State.answersRecon_compares (words := words) hside htwin hown hclash hdigest
  intro u theirs c ownSolo twinSolo higher
  have hu : u = (q.notesPrefix c).resolves c ownSolo twinSolo fr := hanswers.trans hq.compares
  have hsource : (q.notesPrefix c).isSource ownSolo twinSolo fr = s.isSource ownSolo twinSolo fr := by
    rw [hq]
    rfl
  have hhigher : (q.notesPrefix c).higherTerm (bits fr.w0 24 48) = higher := by
    rw [hq]
    rfl
  have hrole : (q.notesPrefix c).leased.ws.role = s.ws.role := by
    rw [hq]
    rfl
  have hlost : (q.notesPrefix c).ws.lostApplied = s.ws.lostApplied := by
    rw [hq]
    rfl
  have hahor : (q.notesPrefix c).ws.ahor = s.ws.ahor := by
    rw [hq]
    rfl
  have htail : (q.notesPrefix c).ws.divTail = s.wseq := hq.wseq
  have hcovers : (q.notesPrefix c).ringCovers = s.ringCovers := hq.ringCovers
  have hprefix : (q.notesPrefix c).ws.divPfx = c := rfl
  clear_value u c ownSolo twinSolo higher
  generalize q.notesPrefix c = d at *
  subst hu
  refine ⟨fun hmine htheirs => ?_, fun hboth hwins => ?_, fun hboth hloses => ?_⟩
  · rw [hmine, htheirs, ← hprefix, ← htail]
    exact d.resolves_divergent _ fr
  · obtain ⟨hr, hsync, hterm, hrecon, -⟩ := State.becomeSource_spec d.leased (d.higherTerm (bits fr.w0 24 48)) c (d.lacks c (bits fr.w3 24 48))
    rw [State.resolves_source hboth (hsource.trans hwins), ← hhigher, ← hrole]
    exact ⟨hr, hsync, hterm, hrecon⟩
  · obtain ⟨hr, hsync, hterm, hrecon, -⟩ := State.becomeFollower_spec d.leased (d.higherTerm (bits fr.w0 24 48)) c
      (d.ws.lostApplied || needsCopy c d.ws.ahor || !d.ringCovers)
    rw [State.resolves_follower hboth (hsource.trans hloses), ← hhigher, ← hlost, ← hahor, ← hcovers]
    exact ⟨hr, hsync, hterm, hrecon⟩

/-- A RECON frame of other settings (R223). -/
theorem exec_recon_digest (h : s.frameInOrder l 8 fr) (hside : bit fr.w0 18 ≠ s.ws.side) (htwin : apart (bits fr.w0 21 3) = false)
    (hown : apart s.ws.role = false) (hclash : s.ws.sideConflict = false) (hdigest : fr.w5 ≠ s.applied.digest) :
    ∃ u, exec (.recon l fr words) s = .next u ∧ u.ws.role = s.ws.role ∧ u.ws.recon = none ∧ bit u.ws.evt 13 = true ∧ u.mem = s.mem := by
  have hheard := s.heard_hearsRecon l fr
  refine ⟨_, exec_recon_ordered h, ?_⟩
  generalize (s.heard l fr).hearsRecon fr = a at hheard
  rw [State.answersRecon_digest (by rw [hheard]; exact hside) htwin (by rw [hheard]; exact hown) (by rw [hheard]; exact hclash)
    (by rw [hheard]; exact hdigest)]
  refine ⟨?_, ?_, State.setWsEvt_bit_same _ (by decide), (State.setWsEvt_mem _ _).trans hheard.sameLedger.mem⟩
  · rw [State.setWsEvt_ws, hheard]
  · rw [State.setWsEvt_ws]

/-- A RECON frame of the same settings (R224-R226). -/
theorem exec_recon_outcome (h : s.frameInOrder l 8 fr) (hside : bit fr.w0 18 ≠ s.ws.side) (htwin : apart (bits fr.w0 21 3) = false)
    (hown : apart s.ws.role = false) (hclash : s.ws.sideConflict = false) (hdigest : fr.w5 = s.applied.digest) :
    let theirs := splitRecords words.length words
    let c := s.agreed (min s.ws.mseq.toNat (bits fr.w1 24 48).toNat) (min s.wseq.toNat (bits fr.w4 24 48).toNat) theirs
    let ownSolo := s.soloAbove c
    let twinSolo := tailSolo c (bits fr.w4 24 48) (bits fr.w2 24 48) theirs
    let higher := s.higherTerm (bits fr.w0 24 48)
    ∃ u, exec (.recon l fr words) s = .next u ∧
    (ownSolo = true → twinSolo = true → u.ws.role = 5 ∧ u.ws.divPfx = c ∧ u.ws.divTail = s.wseq ∧ u.ws.recon = none) ∧
    ((ownSolo && twinSolo) = false → s.isSource ownSolo twinSolo fr = true →
      u.ws.role = (if s.ws.role = 3 then 3 else 0) ∧ u.ws.sync = 1 ∧ u.ws.term = higher ∧ u.ws.recon = none) ∧
    ((ownSolo && twinSolo) = false → s.isSource ownSolo twinSolo fr = false →
      u.ws.role = 2 ∧ u.ws.sync = (if s.ws.lostApplied || needsCopy c s.ws.ahor || !s.ringCovers then 3 else 2) ∧ u.ws.term = higher ∧ u.ws.recon = none) := by
  have hheard := s.heard_hearsRecon l fr
  intro theirs c ownSolo twinSolo higher
  refine ⟨_, exec_recon_ordered h, ?_⟩
  generalize (s.heard l fr).hearsRecon fr = a at hheard
  have houtcome := State.answersRecon_outcome (s := a) (words := words) (by rw [hheard]; exact hside) htwin (by rw [hheard]; exact hown)
    (by rw [hheard]; exact hclash) (by rw [hheard]; exact hdigest)
  have hmseq : a.ws.mseq = s.ws.mseq := by rw [hheard]
  have hrole : a.ws.role = s.ws.role := by rw [hheard]
  have hlost : a.ws.lostApplied = s.ws.lostApplied := by rw [hheard]
  have hahor : a.ws.ahor = s.ws.ahor := by rw [hheard]
  have hhigher : a.higherTerm (bits fr.w0 24 48) = s.higherTerm (bits fr.w0 24 48) := by
    rw [hheard]
    rfl
  have hsource (own twin : Bool) : a.isSource own twin fr = s.isSource own twin fr := by
    rw [hheard]
    rfl
  simp only [hheard.agreed, hheard.soloAbove, hheard.wseq, hheard.ringCovers, hmseq, hrole, hlost, hahor, hhigher, hsource] at houtcome
  exact houtcome

/-- The same, by which tails hold records of a SOLO term and which module outranks the other. -/
theorem exec_recon_roles (h : s.frameInOrder l 8 fr) (hside : bit fr.w0 18 ≠ s.ws.side) (htwin : apart (bits fr.w0 21 3) = false)
    (hown : apart s.ws.role = false) (hclash : s.ws.sideConflict = false) (hdigest : fr.w5 = s.applied.digest) {ownSolo twinSolo wins : Prop}
    (hc : s.agreed (min s.ws.mseq.toNat (bits fr.w1 24 48).toNat) (min s.wseq.toNat (bits fr.w4 24 48).toNat) (splitRecords words.length words) = c)
    (hmine : s.soloAbove c = true ↔ ownSolo)
    (htheirs : tailSolo c (bits fr.w4 24 48) (bits fr.w2 24 48) (splitRecords words.length words) = true ↔ twinSolo)
    (hwins : s.outranks (bits fr.w0 24 48) (bits fr.w0 19 2) = true ↔ wins) : let higher := s.higherTerm (bits fr.w0 24 48)
    (ownSolo → twinSolo → ∃ u, exec (.recon l fr words) s = .next u ∧ u.ws.role = 5 ∧ u.ws.divPfx = c ∧ u.ws.divTail = s.wseq ∧ u.ws.recon = none) ∧
    (¬(ownSolo ∧ twinSolo) → (ownSolo ∨ (¬twinSolo ∧ wins)) → ∃ u, exec (.recon l fr words) s = .next u ∧ u.ws.role = (if s.ws.role = 3 then 3 else 0) ∧
      u.ws.sync = 1 ∧ u.ws.term = higher ∧ u.ws.recon = none) ∧
    (¬ownSolo → (twinSolo ∨ ¬wins) → ∃ u, exec (.recon l fr words) s = .next u ∧ u.ws.role = 2 ∧ u.ws.term = higher ∧ u.ws.recon = none ∧
      u.ws.sync = (if s.ws.lostApplied = true ∨ c.toNat < s.ws.ahor.toNat ∨ s.ringCovers = false then 3 else 2)) := by
  have hsource := s.isSource_iff (s.soloAbove c) (tailSolo c (bits fr.w4 24 48) (bits fr.w2 24 48) (splitRecords words.length words)) fr
  have hboth : (s.soloAbove c && tailSolo c (bits fr.w4 24 48) (bits fr.w2 24 48) (splitRecords words.length words)) = false ↔ ¬(ownSolo ∧ twinSolo) := by
    rw [← Bool.not_eq_true, Bool.and_eq_true, hmine, htheirs]
  rw [hmine, htheirs, hwins] at hsource
  obtain ⟨u, hu, hdivergent, hleads, hfollows⟩ := exec_recon_outcome (words := words) h hside htwin hown hclash hdigest
  rw [hc] at hdivergent hleads hfollows
  refine ⟨fun hown htwin => ⟨u, hu, hdivergent (hmine.2 hown) (htheirs.2 htwin)⟩,
    fun hnot hside => ⟨u, hu, hleads (hboth.2 hnot) (hsource.2 hside)⟩, fun hnot hside => ?_⟩
  have hloses : ¬(ownSolo ∨ ¬twinSolo ∧ wins) := fun k => k.elim hnot fun k => hside.elim k.1 fun hw => hw k.2
  obtain ⟨hrole, hsync, hterm, hnone⟩ := hfollows (hboth.2 fun k => hnot k.1) (Bool.eq_false_of_not_eq_true (mt hsource.1 hloses))
  exact ⟨u, hu, hrole, hterm, hnone, hsync.trans (if_congr (copies_iff _ _ c _) rfl rfl)⟩

end

end Sys2Proof.Machine
end

section
/-! Watershed jobs that change the role (R233-R235, R434). -/

namespace Sys2Proof.Machine

section
variable {s : State} {j : JobId} {x : Job} {w : ReconcileWords}

/-! ## FENCE and UNFENCE (R216, R233) -/

/-- A module that an operator fences. -/
def State.fenced (s : State) : State := ({ s.quiet with ws := { s.quiet.ws with sync := 0, recon := none } } : State).toRole 4

theorem exec_fence (h : s.jobActs j 0x11 x) (hrole : s.ws.role ≠ 5) : JobEnds (.fence j) s (s.begun j).fenced x 0 0 0 :=
  congrArg Host.Outcome.next ((State.wsJob_acts h _).trans (if_neg hrole))

theorem exec_fence_divergent (h : s.jobActs j 0x11 x) (hrole : s.ws.role = 5) : JobEnds (.fence j) s (s.begun j) x 0x0A 1 0 :=
  congrArg Host.Outcome.next ((State.wsJob_acts h _).trans (if_pos hrole))

theorem State.fenced_spec (s : State) : s.fenced.ws.role = 4 ∧ s.fenced.ws.sync = 0 ∧ (s.ws.role = 1 ∨ s.ws.role = 3 → s.fenced.led.arrivals = []) := by
  have htaken := State.toRole_taken ({ s.quiet with ws := { s.quiet.ws with sync := 0, recon := none } } : State) 4
  exact ⟨htaken.role, by rw [State.fenced, htaken.ws], fun hlead => State.toRole_arrivals _ hlead (by decide)⟩

/-- A module that is no longer fenced: HELD, and in the exchange with a twin in contact. -/
def State.unfenced (s : State) : State :=
  if (s.toRole 0).ws.contact && !apart (s.toRole 0).ws.twinRole then (s.toRole 0).startRecon else s.toRole 0

theorem exec_unfence (h : s.jobActs j 0x12 x) (hrole : s.ws.role = 4) : JobEnds (.unfence j) s (s.begun j).unfenced x 0 0 0 :=
  congrArg Host.Outcome.next ((State.wsJob_acts h _).trans (if_neg (not_not.2 hrole)))

theorem exec_unfence_other (h : s.jobActs j 0x12 x) (hrole : s.ws.role ≠ 4) : JobEnds (.unfence j) s (s.begun j) x 0x0A 1 0 :=
  congrArg Host.Outcome.next ((State.wsJob_acts h _).trans (if_pos hrole))

/-- The exchange is under way once it starts, unless a side conflict forbids it (R203, R223). -/
theorem State.startRecon_underWay (h : s.ws.sideConflict = false) : s.startRecon.ws.recon.isSome = true := by
  unfold State.startRecon
  rw [h, Bool.or_false]
  split
  · next hrecon => exact hrecon
  · rw [s.sendRecon_spec.1]
    rfl

theorem State.unfenced_spec (s : State) : s.unfenced.ws.role = 0 ∧
    (s.ws.contact = true → apart s.ws.twinRole = false → s.ws.sideConflict = false → s.unfenced.ws.recon.isSome = true) := by
  have htaken := s.toRole_taken 0
  have hcontact : (s.toRole 0).ws.contact = s.ws.contact := by rw [htaken.ws]
  have htwin : (s.toRole 0).ws.twinRole = s.ws.twinRole := by rw [htaken.ws]
  have hside : (s.toRole 0).ws.sideConflict = s.ws.sideConflict := by rw [htaken.ws]
  have hrole := htaken.role
  unfold State.unfenced
  rw [hcontact, htwin]
  generalize s.toRole 0 = t at hrole hside
  refine ⟨?_, fun hc ht hs => ?_⟩
  · split
    · rw [t.startRecon_reconOnly]
      exact hrole
    · exact hrole
  · rw [hc, ht]
    exact State.startRecon_underWay (hside.trans hs)

/-! ## RECONCILE (R235) -/

section
variable (h : s.jobActs j 0x13 x) (hzero : bits x.s1 0 23 = 0) (hzero' : bits x.s2 0 24 = 0)
include h hzero hzero'

theorem exec_reconcile_notDivergent (hrole : s.ws.role ≠ 5) (tw : Option ReconcileWords) : JobEnds (.reconcile j tw) s (s.begun j) x 0x0A 1 0 :=
  congrArg Host.Outcome.next
    ((State.wsJob_acts h _).trans ((if_neg (not_or.2 ⟨not_not.2 hzero, not_not.2 hzero'⟩)).trans (if_pos hrole)))

section
variable (hrole : s.ws.role = 5)
include hrole

theorem exec_reconcile_refused
    (hbad : bits x.s2 24 48 ≠ s.ws.divPfx ∨ (bits x.s1 24 48).toNat ≤ max s.ws.term.toNat w.ownTerm.toNat) :
    JobEnds (.reconcile j (some w)) s (s.begun j) x 0x0A 2 0 :=
  congrArg Host.Outcome.next ((State.wsJob_acts h _).trans
    ((if_neg (not_or.2 ⟨not_not.2 hzero, not_not.2 hzero'⟩)).trans ((if_neg (not_not.2 hrole)).trans (if_pos hbad))))

/-- A RECONCILE that may be made, with none waiting. -/
theorem exec_reconcile_made (hpfx : bits x.s2 24 48 = s.ws.divPfx) (hterm : max s.ws.term.toNat w.ownTerm.toNat < (bits x.s1 24 48).toNat)
    (hfree : s.ws.reconcile = none) : exec (.reconcile j (some w)) s = .next
      (if w.term = bits x.s1 24 48 ∧ w.pfx = bits x.s2 24 48 ∧ w.keep ≠ bit x.s1 23
        then ((s.begun j).reconciled (reconcileOf x s.ws.term)).finishJob x jobDone 0 0
        else { s.begun j with ws := { s.ws with reconcile := some (j, reconcileOf x s.ws.term, s.now) } }) := by
  have hnone : (s.begun j).ws.reconcile = none := hfree
  have hgood : ¬((reconcileOf x (s.begun j).ws.term).pfx ≠ (s.begun j).ws.divPfx ∨
      (reconcileOf x (s.begun j).ws.term).term.toNat ≤ max (s.begun j).ws.term.toNat w.ownTerm.toNat) :=
    not_or.2 ⟨not_not.2 hpfx, Nat.not_le.2 hterm⟩
  refine congrArg Host.Outcome.next ((State.wsJob_acts h _).trans
    ((if_neg (not_or.2 ⟨not_not.2 hzero, not_not.2 hzero'⟩)).trans ((if_neg (not_not.2 hrole)).trans ((if_neg hgood).trans ?_))))
  simp only [hnone]
  rfl

end

end

/-- What the module that keeps its tail and the one that yields it become (R235). -/
theorem State.reconciled_spec (s : State) (w : ReconcileWords) : let u := s.reconciled w
    u.ws.term = w.term ∧ u.ws.reconcile = none ∧ u.ws.role = (if w.keep then 0 else 2) ∧ u.ws.sync = (if w.keep then 1 else 3) := by
  have htaken := State.toRole_taken ({ s with ws := { s.ws with reconcile := none } } : State).quiet.leased 0
  have hreconcile : (({ s with ws := { s.ws with reconcile := none } } : State).quiet.leased.toRole 0).ws.reconcile = none := by rw [htaken.ws]; rfl
  have hrole := htaken.role
  intro u
  have hu : u = if w.keep then (({ s with ws := { s.ws with reconcile := none } } : State).quiet.leased.toRole 0).becomeSource w.term w.pfx true
    else (({ s with ws := { s.ws with reconcile := none } } : State).quiet.leased.toRole 0).becomeFollower w.term w.pfx true := rfl
  clear_value u
  generalize ({ s with ws := { s.ws with reconcile := none } } : State).quiet.leased.toRole 0 = t at hreconcile hrole hu
  cases hkeep : w.keep with
  | true =>
    rw [hkeep, if_pos rfl] at hu
    obtain ⟨hr, hsync, hterm, -, hnone⟩ := t.becomeSource_spec w.term w.pfx true
    rw [hu]
    exact ⟨hterm, hnone.trans hreconcile, hr.trans (if_neg (by rw [hrole]; decide)), hsync⟩
  | false =>
    rw [hkeep, if_neg Bool.false_ne_true] at hu
    obtain ⟨hr, hsync, hterm, -, hnone⟩ := t.becomeFollower_spec w.term w.pfx true
    rw [hu]
    exact ⟨hterm, hnone.trans hreconcile, hr, hsync⟩

/-! ## RECONCILE_TIMEOUT (R434) -/

theorem exec_reconcileTimeout {t0 : BitVec 64} (h : s.ws.reconcile = some (j, w, t0)) (hjob : s.job j = some x) (hdue : t0.toNat + 1000000 ≤ s.now.toNat) :
    JobEnds (.reconcileTimeout j) s { s with ws := { s.ws with reconcile := none } } x 0x0A 3 0 := by
  have hjob' : ({ s with ws := { s.ws with reconcile := none } } : State).job j = some x := hjob
  show execReconcileTimeout j s = _
  simp only [execReconcileTimeout, h]
  rw [if_pos (by simp [hdue]), hjob']

theorem exec_reconcileTimeout_early {t0 : BitVec 64} (h : s.ws.reconcile = some (j, w, t0)) (hearly : s.now.toNat < t0.toNat + 1000000) :
    exec (.reconcileTimeout j) s = .next s := by
  show execReconcileTimeout j s = _
  simp only [execReconcileTimeout, h]
  rw [if_neg (by rw [decide_eq_false (Nat.not_le.2 hearly), Bool.and_false]; exact Bool.false_ne_true)]

end

end Sys2Proof.Machine
end

section
/-! Acknowledgements, roles and reconnection settled (R203, R205, R211, R214-R217, R223-R226, R233-R235). -/

namespace Sys2Proof.Machine

/-- Settles O46: each frame, timer and job by its lemma above. -/
theorem rolesFollowTheTwin : Obligations.RolesFollowTheTwin := by
  unfold Obligations.RolesFollowTheTwin
  intro s l fr ordered aseq tblk together
  refine ⟨?ack, ?ackOld, ?ackTerm, ?clash, ?beat, ?fenced, ?lease, exec_leaseExpiry_early, ?record, ?recordUnpowered, ?timer, ?greq, exec_grantRequestTimer_early,
    ?reconClash, ?recon, ?fence, ?unfence, ?reconcile, ?timeout⟩
  case ack =>
    intro r f st leg h htogether hrole hterm hheals hmore hwritten hrecs hfind hkind hprepare hdecided
    exact exec_twinAck_posting h htogether.1 hrole hterm hheals hmore hwritten hrecs hfind hkind hprepare hdecided
  case ackOld =>
    intro h htogether hrole hterm hheals hmore
    exact exec_twinAck_nothing h htogether.1 hrole hterm hheals hmore
  case ackTerm =>
    rintro h ⟨-, hown, htwin⟩ hside hterm
    exact exec_twinAck_otherTerm h hown htwin hside hterm
  case clash => exact fun h hside => ⟨_, exec_heartbeat_clash h hside, State.sideClash_spec _⟩
  case beat =>
    intro h hside hleads hcontact hrole hsync hterm apos both
    exact (exec_heartbeat_leader h hside hleads hcontact hrole hsync hterm).trans (congrArg _ (State.beaten_eq hleads hsync l))
  case fenced =>
    intro h hside hfenced hrole
    have hleads : ((s.heard l fr).notesBeat fr).leased.ws.role = 1 := (s.notesBeat_keeps l fr).2.2.2.1.trans hrole
    obtain ⟨hheld, harrivals, -, -⟩ := State.loseTwin_leader_spec hleads
    exact ⟨_, exec_heartbeat_fenced h hside hfenced, hheld, harrivals⟩
  case lease =>
    intro hcontact hdue
    have hevt := s.uncontacted_evt
    refine ⟨fun hrole => ⟨_, exec_leaseExpiry hcontact hdue, ?_⟩, fun hrole => ⟨_, exec_leaseExpiry hcontact hdue, ?_⟩⟩
    · rcases hrole with hleads | hfollows
      · obtain ⟨hheld, harrivals, hgone, hkept⟩ := State.loseTwin_leader_spec (s.uncontacted_role.trans hleads)
        exact ⟨hheld, hgone.trans s.uncontacted_contact, hkept 0 hevt, fun _ => harrivals⟩
      · obtain ⟨hheld, hgone, hkept⟩ := State.loseTwin_follower_spec (s.uncontacted_role.trans hfollows)
        exact ⟨hheld, hgone.trans s.uncontacted_contact, hkept 0 hevt, fun hleads => absurd (hleads.symm.trans hfollows) (by decide)⟩
    · rw [State.loseTwin_solo (s.uncontacted_role.trans hrole)]
      exact ⟨s.uncontacted_role.trans hrole, s.uncontacted_contact, hevt, State.setWsEvt_led _ 0⟩
  case record =>
    intro hinv hpower
    obtain ⟨hws, hwords, hother⟩ := State.writeRole_holds hinv hpower
    rw [State.length_roleWords] at hwords hother
    refine ⟨s.writeRole, rfl, hws, ?_⟩
    intro a
    exact ⟨hwords 0 (by decide), hwords 1 (by decide), hwords 2 (by decide), hwords 3 (by decide), hother⟩
  case recordUnpowered => exact fun h => congrArg _ (s.writeRole_unpowered h)
  case timer =>
    intro t0 hrecon
    refine ⟨fun hdue => ⟨_, (exec_reconnectionTimer hrecon).trans (congrArg _ (if_pos hdue)), s.sendRecon_spec⟩, fun hearly => ?_⟩
    exact (exec_reconnectionTimer hrecon).trans (congrArg _ (if_neg (Nat.not_le.2 hearly)))
  case greq => exact exec_grantRequestTimer
  case reconClash =>
    intro words h hside
    refine ⟨_, (exec_recon_ordered h).trans (congrArg _ (State.answersRecon_clash (hside.trans ?_))), State.sideClash_spec _⟩
    rw [s.heard_hearsRecon l fr]
  case recon =>
    intro words h hside htwin hown hclash term mseq solo wseq lo hi mine c twinSolo ownSolo led wins higher
    exact ⟨exec_recon_digest h hside htwin hown hclash, fun hdigest => exec_recon_roles h hside htwin hown hclash hdigest rfl (s.soloAbove_iff c)
      (tailSolo_iff c _ solo _) (s.outranks_iff term _)⟩
  case fence =>
    intro j x h
    obtain ⟨hrole, hsync, harrivals⟩ := (s.begun j).fenced_spec
    exact ⟨fun hnot => ⟨_, exec_fence h hnot, hrole, hsync, harrivals⟩, exec_fence_divergent h⟩
  case unfence =>
    intro j x h
    exact ⟨fun hrole => ⟨_, exec_unfence h hrole, (s.begun j).unfenced_spec⟩, exec_unfence_other h⟩
  case reconcile =>
    intro j x w h hzero hzero' term pfx
    refine ⟨exec_reconcile_notDivergent h hzero hzero', exec_reconcile_refused h hzero hzero', fun hrole hpfx hterm hfree => ⟨?_, ?_⟩⟩
    · intro hsameTerm hsamePfx hkeep
      obtain ⟨hnewTerm, hnone, hnewRole, hnewSync⟩ := (s.begun j).reconciled_spec (reconcileOf x s.ws.term)
      exact ⟨_, (exec_reconcile_made h hzero hzero' hrole hpfx hterm hfree).trans (congrArg _ (if_pos ⟨hsameTerm, hsamePfx, hkeep⟩)), hnewTerm, hnone,
        hnewRole, hnewSync⟩
    · intro hkeep own
      exact (exec_reconcile_made h hzero hzero' hrole hpfx hterm hfree).trans (congrArg _ (if_neg fun hmatch => hmatch.2.2 hkeep))
  case timeout =>
    intro j x w t0 h hjob
    exact ⟨exec_reconcileTimeout h hjob, exec_reconcileTimeout_early h⟩

end Sys2Proof.Machine
end

section
/-! STREAM, COPY-START, WTAB and HEAL-REQ (R210, R221, R227, R229). -/

namespace Sys2Proof.Machine

section
variable {s : State} {l : Fin 2} {fr : Frame}

/-! ## What a frame heard leaves -/

section
variable {t : State} (h : HeardOnly s t)
include h

theorem HeardOnly.role : t.ws.role = s.ws.role := by rw [h]
theorem HeardOnly.led : t.led = s.led := by rw [h]
theorem HeardOnly.sync : t.ws.sync = s.ws.sync := by rw [h]
theorem HeardOnly.copied : t.ws.copied = s.ws.copied := by rw [h]
theorem HeardOnly.run : t.ws.run = s.ws.run := by rw [h]
theorem HeardOnly.ahor : t.ws.ahor = s.ws.ahor := by rw [h]
theorem HeardOnly.applied : t.applied = s.applied := by rw [h]
theorem HeardOnly.mem : t.mem = s.mem := by rw [h]
theorem HeardOnly.heals : t.ws.heals = s.ws.heals := by rw [h]

end

/-! ## STREAM (R210) -/

/-- The words of a STREAM frame that a module takes, each with its position. -/
def streamedWords (s : State) (fr : Frame) : List (Nat × Word) :=
  ((frameWords fr).zip (List.range 6)).filterMap fun x =>
    let q := s.fullPos fr.pos + x.2
    if 0 ≤ q && (decide (s.led.wpos.toNat ≤ q.toNat) || s.openSlot q.toNat) then some (q.toNat, x.1) else none

/-- Words received from the twin, in place of those received before for the same positions. -/
def State.receives (s : State) (ws : List (Nat × Word)) : State :=
  { s with ws := { s.ws with rxWords := (s.ws.rxWords.filter fun x => !(ws.any fun y => y.1 == x.1)) ++ ws } }

theorem exec_stream_ordered (h : s.frameInOrder l 1 fr) : exec (.stream l fr) s =
    .next (if s.ws.role = 2 then (s.took l fr).receives (streamedWords (s.took l fr) fr) else s.took l fr) := by
  have hheard := s.took_heardOnly l fr
  show execStream l fr s = _
  simp only [execStream, State.frameIn_ordered h, State.heard_plainIn]
  refine congrArg _ ?_
  by_cases hrole : s.ws.role = 2
  · rw [if_pos hrole, if_neg (by rw [hheard.role, hrole]; decide)]
    rfl
  · rw [if_neg hrole, if_pos (by rw [hheard.role]; exact bne_iff_ne.2 hrole)]

/-- A position within 2^15 of JN_WPOS, by its low sixteen bits (R210). -/
theorem State.fullPos_spec (s : State) (pos : BitVec 16) : s.fullPos pos % 2 ^ 16 = pos.toNat ∧
    -(2 ^ 15) ≤ s.fullPos pos - s.led.wpos.toNat ∧ s.fullPos pos - s.led.wpos.toNat < 2 ^ 15 := by
  have hlow : (bits s.led.wpos 0 16).toNat = s.led.wpos.toNat % 2 ^ 16 := by simp [bits]
  have hpos := pos.isLt
  have hdiff : (pos - bits s.led.wpos 0 16).toInt = ((pos.toNat : Int) - (s.led.wpos.toNat % 2 ^ 16 : Nat)).bmod (2 ^ 16) := by
    rw [BitVec.toInt_sub, BitVec.toInt_eq_toNat_bmod, BitVec.toInt_eq_toNat_bmod, hlow, Int.bmod_sub_bmod, Int.sub_bmod_bmod]
  unfold State.fullPos
  rw [hdiff, Int.bmod]
  generalize s.led.wpos.toNat = w
  push_cast
  split <;> omega

theorem mem_streamedWords {k : Nat} (hk : k < 6) (hnew : (s.led.wpos.toNat : Int) ≤ s.fullPos fr.pos + k) :
    ((s.fullPos fr.pos + k).toNat, (frameWords fr).getD k 0) ∈ streamedWords s fr := by
  have hlen : (frameWords fr).length = 6 := rfl
  refine List.mem_filterMap.2 ⟨((frameWords fr).getD k 0, k), ?_, ?_⟩
  · refine List.mem_iff_getElem.2 ⟨k, by simp [hlen, hk], ?_⟩
    rw [List.getElem_zip, List.getElem_range, List.getD_eq_getElem _ _ (by omega)]
  · dsimp only
    rw [if_pos]
    rw [Bool.and_eq_true, decide_eq_true_eq, Bool.or_eq_true, decide_eq_true_eq]
    exact ⟨by omega, .inl (by omega)⟩

/-- Every word taken has a position of the frame. -/
theorem position_of_mem_streamedWords {y : Nat × Word} (h : y ∈ streamedWords s fr) : s.fullPos fr.pos ≤ y.1 ∧ (y.1 : Int) < s.fullPos fr.pos + 6 := by
  obtain ⟨⟨v, i⟩, hmem, hsome⟩ := List.mem_filterMap.1 h
  have hi : i < 6 := List.mem_range.1 (List.of_mem_zip hmem).2
  dsimp only at hsome
  split at hsome
  · next htaken =>
    rw [Bool.and_eq_true, decide_eq_true_eq] at htaken
    obtain rfl := Option.some.inj hsome
    have := htaken.1
    constructor <;> dsimp only <;> omega
  · exact absurd hsome (by simp)

/-- A word received before stands where the frame has none. -/
theorem State.mem_receives_of_apart {y : Nat × Word} (hy : y ∈ s.ws.rxWords) (hapart : (y.1 : Int) < s.fullPos fr.pos ∨ s.fullPos fr.pos + 6 ≤ y.1) :
    y ∈ (s.receives (streamedWords s fr)).ws.rxWords := by
  refine List.mem_append_left _ (List.mem_filter.2 ⟨hy, ?_⟩)
  rw [Bool.not_eq_true', List.any_eq_false]
  intro z hz he
  rw [beq_iff_eq] at he
  obtain ⟨hlow, hhigh⟩ := position_of_mem_streamedWords hz
  rw [he] at hlow hhigh
  omega

/-! ## COPY-START (R227) -/

theorem exec_copyStart_ordered (h : s.frameInOrder l 6 fr) (hrole : s.ws.role = 2) (hsync : s.ws.sync = 3) : let t := s.took l fr
    exec (.copyStart l fr) s = .next { t with ws := { t.ws with
      run := some { off := (bits fr.w0 0 24).toNat, len := (bits fr.w1 0 16).toNat, horizon := bits fr.w2 24 48, got := 0, cell := [] },
      copied := if (bits fr.w0 0 24).toNat = s.applied.peFilterBase.toNat then 0 else s.ws.copied,
      ahor := if s.ws.run = none then bits fr.w2 24 48 else s.ws.ahor } } := by
  have hheard := s.took_heardOnly l fr
  intro t
  have hexec : exec (.copyStart l fr) s = .next (if t.ws.role == 2 && t.ws.sync == 3 then { t with ws := { t.ws with
      run := some { off := (bits fr.w0 0 24).toNat, len := (bits fr.w1 0 16).toNat, horizon := bits fr.w2 24 48, got := 0, cell := [] },
      copied := if (bits fr.w0 0 24).toNat = t.applied.peFilterBase.toNat then 0 else t.ws.copied,
      ahor := if t.ws.run.isNone then bits fr.w2 24 48 else t.ws.ahor } } else t) := by
    show execCopyStart l fr s = _
    simp only [execCopyStart, State.frameIn_ordered h, State.heard_plainIn]
    rfl
  rw [hexec]
  have hrole' : t.ws.role = 2 := hheard.role.trans hrole
  have hsync' : t.ws.sync = 3 := hheard.sync.trans hsync
  rw [if_pos (by rw [hrole', hsync']; rfl), hheard.applied, hheard.copied, hheard.run, hheard.ahor, if_congr Option.isNone_iff_eq_none rfl rfl]

/-! ## WTAB (R221) -/

theorem exec_wtab_ordered (h : s.frameInOrder l 9 fr) (hrole : s.ws.role = 2) (htable : s.applied.wsWtable.toNat ≠ 0)
    (hlow : s.applied.wsWtable.toNat ≤ (bits fr.w1 0 24).toNat) (hhigh : (bits fr.w1 0 24).toNat < s.applied.wsWtable.toNat + 4096) :
    exec (.wtab l fr) s = .next (((s.took l fr).putWord (plainAddr (bits fr.w1 0 24).toNat) fr.w0).sendAck) := by
  have hheard := s.took_heardOnly l fr
  show execWtab l fr s = _
  simp only [execWtab, State.frameIn_ordered h, State.heard_plainIn]
  rw [if_pos]
  rw [hheard.role, hheard.applied, hrole, decide_eq_true hlow, decide_eq_true hhigh, bne_iff_ne.2 htable]
  rfl

end

end Sys2Proof.Machine
end

section
/-! HEAL-REQ (R229). -/

namespace Sys2Proof.Machine

section
variable {s : State} {l : Fin 2} {fr : Frame} {o b n : Nat}

/-! ## Plain words read in a row -/

theorem plainAddr_add (off k : Nat) : plainAddr off + BitVec.ofNat 52 k = plainAddr (off + k) := by
  rw [plainAddr, plainAddr, ← Nat.add_assoc, ← BitVec.ofNat_add]

theorem State.anyBad_plain (s : State) (b n : Nat) : s.anyBad (plainAddr b) n = false ↔ ∀ k : Nat, k < n → (s.cell (plainAddr (b + k))).bad = false := by
  simp only [State.anyBad, List.any_eq_false, List.mem_range, plainAddr_add, Bool.not_eq_true]

theorem State.length_getWords (s : State) (pa : WAddr) (n : Nat) : (s.getWords pa n).length = n := by
  induction n generalizing pa with
  | zero => rfl
  | succ n ih => exact congrArg Nat.succ (ih _)

theorem State.getWords_plain (s : State) (b : Nat) {n k : Nat} (hk : k < n) : (s.getWords (plainAddr b) n).getD k 0 = s.data (plainAddr (b + k)) := by
  induction n generalizing b k with
  | zero => exact absurd hk (Nat.not_lt_zero k)
  | succ n ih =>
    cases k with
    | zero => rfl
    | succ k =>
      have hnext := ih (b + 1) (Nat.lt_of_succ_lt_succ hk)
      rw [← plainAddr_succ, Nat.add_right_comm, Nat.add_assoc] at hnext
      exact hnext

/-! ## The words healed together (R229) -/

/-- An offset that lies in a cell. -/
abbrev State.inCell (s : State) (o : Nat) : Prop := s.applied.peCellBase.toNat ≤ o ∧ o < s.applied.peCellBase.toNat + 4 * s.applied.peCellCount.toNat

/-- The first offset of the cell that an offset lies in. -/
def State.cellStart (s : State) (o : Nat) : Nat := s.applied.peCellBase.toNat + (o - s.applied.peCellBase.toNat) / 4 * 4

theorem State.cellBaseOf_inCell (h : s.inCell o) : s.cellBaseOf o = some (s.cellStart o) := if_pos h
theorem State.cellBaseOf_apart (h : ¬s.inCell o) : s.cellBaseOf o = none := if_neg h

/-- Whether a module answers a heal request with n words from an offset. -/
def State.serves (s : State) (o b n : Nat) : Bool :=
  (s.ws.role == 1 || (s.ws.role == 2 && s.ws.synced)) && s.healable o && s.ringHeld o && !s.anyBad (plainAddr b) n

theorem State.serves_iff (s : State) (o b n : Nat) : s.serves o b n = true ↔ (s.ws.role = 1 ∨ (s.ws.role = 2 ∧ s.ws.synced = true)) ∧
    s.healable o = true ∧ s.ringHeld o = true ∧ ∀ k : Nat, k < n → (s.cell (plainAddr (b + k))).bad = false := by
  rw [← s.anyBad_plain]
  simp only [State.serves, Bool.and_eq_true, Bool.or_eq_true, beq_iff_eq, Bool.not_eq_true', and_assoc]

/-- The answer to a heal request, with n words from an offset where the module has them. -/
def State.answersHeal (s : State) (off : BitVec 24) (b n : Nat) : State :=
  if s.serves off.toNat b n then s.sendFirst 5 0 (six ([flagAt true 71 ||| at' off 0, at' s.ws.ahor 24] ++ s.getWords (plainAddr b) n))
  else s.sendFirst 5 0 (six [at' off 0, at' s.ws.ahor 24])

theorem State.answersHeal_held {off : BitVec 24} (h : s.serves off.toNat b n = true) : s.answersHeal off b n =
    s.sendFirst 5 0 (six ([flagAt true 71 ||| at' off 0, at' s.ws.ahor 24] ++ s.getWords (plainAddr b) n)) := if_pos h

theorem State.answersHeal_unheld {off : BitVec 24} (h : ¬s.serves off.toNat b n = true) :
    s.answersHeal off b n = s.sendFirst 5 0 [at' off 0, at' s.ws.ahor 24, 0, 0, 0, 0] := if_neg h

section
variable (h : s.frameInOrder l 4 fr)
include h

theorem exec_healReq_cell (hcell : s.inCell (bits fr.w0 0 24).toNat) : exec (.healReq l fr) s =
    .next ((s.took l fr).answersHeal (bits fr.w0 0 24) (s.cellStart (bits fr.w0 0 24).toNat) 4) := by
  have hbase : (s.took l fr).cellBaseOf (bits fr.w0 0 24).toNat = some (s.cellStart (bits fr.w0 0 24).toNat) := by
    rw [← State.cellBaseOf_inCell hcell, State.cellBaseOf, (s.took_heardOnly l fr).applied, State.cellBaseOf]
  show execHealReq l fr s = _
  simp only [execHealReq, State.frameIn_ordered h, State.heard_plainIn, hbase]
  rfl

theorem exec_healReq_word (hcell : ¬s.inCell (bits fr.w0 0 24).toNat) : exec (.healReq l fr) s =
    .next ((s.took l fr).answersHeal (bits fr.w0 0 24) (bits fr.w0 0 24).toNat 1) := by
  have hbase : (s.took l fr).cellBaseOf (bits fr.w0 0 24).toNat = none := by
    rw [← State.cellBaseOf_apart hcell, State.cellBaseOf, (s.took_heardOnly l fr).applied, State.cellBaseOf]
  show execHealReq l fr s = _
  simp only [execHealReq, State.frameIn_ordered h, State.heard_plainIn, hbase]
  rfl

end

section
variable {t : State} (h : HeardOnly s t)
include h

theorem HeardOnly.serves (o b n : Nat) : t.serves o b n = s.serves o b n := by
  rw [h]
  rfl

theorem HeardOnly.data (pa : WAddr) : t.data pa = s.data pa := h.sameLedger.data pa

end

/-- A module that holds the word answers with it, and with the rest of its cell (R229). -/
theorem exec_healReq_held (h : s.frameInOrder l 4 fr) : let t := s.took l fr
    let off := bits fr.w0 0 24
    let o := off.toNat
    let lo := if s.inCell o then s.cellStart o else o
    (s.ws.role = 1 ∨ (s.ws.role = 2 ∧ s.ws.synced = true)) ∧ s.healable o = true ∧ s.ringHeld o = true ∧
      (∀ k : Nat, k < 4 → (k = 0 ∨ s.inCell o) → (s.cell (plainAddr (lo + k))).bad = false) →
    ∃ (u : State) (ws : List Word), exec (.healReq l fr) s = .next u ∧ u = t.sendFirst 5 0 ([flagAt true 71 ||| at' off 0, at' s.ws.ahor 24] ++ ws) ∧ ws.length = 4 ∧
      ws.getD 0 0 = s.data (plainAddr lo) ∧ (s.inCell o → ∀ k : Nat, k < 4 → ws.getD k 0 = s.data (plainAddr (lo + k))) := by
  have hheard := s.took_heardOnly l fr
  intro t off o lo
  rintro ⟨hrole, hheals, hring, hgood⟩
  by_cases hcell : s.inCell o
  · have hlo : lo = s.cellStart o := if_pos hcell
    rw [hlo] at hgood ⊢
    have hserves : t.serves o (s.cellStart o) 4 = true := by
      rw [hheard.serves, s.serves_iff]
      exact ⟨hrole, hheals, hring, fun k hk => hgood k hk (.inr hcell)⟩
    have hwords (k : Nat) (hk : k < 4) : (t.getWords (plainAddr (s.cellStart o)) 4).getD k 0 = s.data (plainAddr (s.cellStart o + k)) := by
      rw [t.getWords_plain _ hk, hheard.data]
    refine ⟨_, t.getWords (plainAddr (s.cellStart o)) 4, exec_healReq_cell h hcell, ?_, t.length_getWords _ _, hwords 0 (by decide), fun _ => hwords⟩
    rw [State.answersHeal_held hserves, hheard.ahor]
    rfl
  · have hlo : lo = o := if_neg hcell
    rw [hlo] at hgood ⊢
    have hserves : t.serves o o 1 = true := by
      rw [hheard.serves, s.serves_iff]
      exact ⟨hrole, hheals, hring, fun k hk => hgood k (by omega) (.inl (by omega))⟩
    refine ⟨_, [s.data (plainAddr o), 0, 0, 0], exec_healReq_word h hcell, ?_, rfl, rfl, fun k => absurd k hcell⟩
    rw [State.answersHeal_held hserves, hheard.ahor, ← hheard.data]
    rfl

/-- A module that does not hold the word says so (R229). -/
theorem exec_healReq_unheld (h : s.frameInOrder l 4 fr) : let off := bits fr.w0 0 24
    let o := off.toNat
    let lo := if s.inCell o then s.cellStart o else o
    ¬((s.ws.role = 1 ∨ (s.ws.role = 2 ∧ s.ws.synced = true)) ∧ s.healable o = true ∧ s.ringHeld o = true ∧
      ∀ k : Nat, k < 4 → (k = 0 ∨ s.inCell o) → (s.cell (plainAddr (lo + k))).bad = false) →
    exec (.healReq l fr) s = .next ((s.took l fr).sendFirst 5 0 [at' off 0, at' s.ws.ahor 24, 0, 0, 0, 0]) := by
  have hheard := s.took_heardOnly l fr
  intro off o lo hnot
  by_cases hcell : s.inCell o
  · have hlo : lo = s.cellStart o := if_pos hcell
    rw [hlo] at hnot
    rw [exec_healReq_cell h hcell, State.answersHeal_unheld, hheard.ahor]
    rw [hheard.serves, s.serves_iff]
    exact fun ⟨hrole, hheals, hring, hgood⟩ => hnot ⟨hrole, hheals, hring, fun k hk _ => hgood k hk⟩
  · have hlo : lo = o := if_neg hcell
    rw [hlo] at hnot
    rw [exec_healReq_word h hcell, State.answersHeal_unheld, hheard.ahor]
    rw [hheard.serves, s.serves_iff]
    refine fun ⟨hrole, hheals, hring, hgood⟩ => hnot ⟨hrole, hheals, hring, fun k _ hk => ?_⟩
    obtain rfl := hk.resolve_right hcell
    exact hgood 0 (by decide)

end

end Sys2Proof.Machine
end

section
/-! FOLLOWER-WRITE-VERIFIED (R211, R212). -/

namespace Sys2Proof.Machine

section
variable {s : State} {n : Nat}

/-! ## The words written -/

/-- The stores of the words received, at their positions. -/
def State.rxStores (s : State) : List (WAddr × BitVec 18 × Word) := s.ws.rxWords.map fun x => (s.ringAddr x.1, maskAll, x.2)

/-- The words received now stand in the ring. -/
def State.keepsWords (s : State) : State :=
  let t := s.ws.rxWords.foldl (fun s x => s.putWord (s.ringAddr x.1) x.2) s
  { t with ws := { t.ws with rxWords := [], rxHave := t.ws.rxHave.filter (fun p => !(s.ws.rxWords.any fun x => x.1 == p)) ++ s.ws.rxWords.map (·.1) } }

/-- Positions below JN_WPOS are noted no more, but for trailer slots. -/
def State.forgets (s : State) : State :=
  { s with ws := { s.ws with rxHave := s.ws.rxHave.filter fun p => decide (s.led.wpos.toNat ≤ p) || s.openSlot p } }

/-- What was written is acknowledged and applied. -/
def State.acknowledges (s : State) : State := if s.ws.sync == 3 && s.led.seqNext == 0 then s else s.sendAck.applyTo s.wseq

theorem exec_followerWriteVerified (hrole : s.ws.role = 2) : exec .followerWriteVerified s =
    .next ((s.keepsWords.takeRecords s.keepsWords.ws.rxHave.length).takeTrailers.forgets.acknowledges.settleDpos.settleHeals).followerSynced := by
  have htest : ¬(s.ws.role != 2) = true := by rw [hrole]; decide
  show execFollowerWriteVerified s = _
  unfold execFollowerWriteVerified
  rw [if_neg htest]
  extract_lets ws t w v a b c
  have hv : s.keepsWords = v := rfl
  rw [hv]
  clear_value v
  rfl

theorem State.putAll_eq_withMem (s : State) (l : List (WAddr × BitVec 18 × Word)) : s.putAll l = { s with mem := (s.putAll l).mem } := by
  induction l generalizing s with
  | nil => rfl
  | cons x r ih => exact ih (s.putMasked x.1 x.2.1 x.2.2)

/-- Words put in the ring are stores. -/
theorem State.putRingWords_eq (s : State) (l : List (Nat × Word)) :
    l.foldl (fun s x => s.putWord (s.ringAddr x.1) x.2) s = s.putAll (l.map fun x => (s.ringAddr x.1, maskAll, x.2)) := by
  induction l generalizing s with
  | nil => rfl
  | cons x r ih => exact ih (s.putWord (s.ringAddr x.1) x.2)

/-- Nothing differs but memory, and which ring words have come. -/
theorem State.keepsWords_eq (s : State) : s.keepsWords = { s with
    mem := (s.putAll s.rxStores).mem, ws := { s.ws with rxWords := [], rxHave := s.keepsWords.ws.rxHave } } := by
  unfold State.keepsWords
  rw [State.putRingWords_eq, State.putAll_eq_withMem]
  rfl

theorem State.keepsWords_rxHave (s : State) : s.keepsWords.ws.rxHave =
    s.ws.rxHave.filter (fun p => !(s.ws.rxWords.any fun x => x.1 == p)) ++ s.ws.rxWords.map (·.1) := by
  unfold State.keepsWords
  rw [State.putRingWords_eq, State.putAll_eq_withMem]

/-- With nothing received nothing changes. -/
theorem State.keepsWords_none (h : s.ws.rxWords = []) : s.keepsWords = s := by
  have hws (w : Watershed) {a : List (Nat × Word)} {b : List Nat} (ha : w.rxWords = a) (hb : w.rxHave = b) : { w with rxWords := a, rxHave := b } = w := by
    subst ha hb
    rfl
  have hhave : s.ws.rxHave.filter (fun _ => true) = s.ws.rxHave := List.filter_eq_self.2 fun _ _ => rfl
  have hkeeps : s.keepsWords = { s with ws := { s.ws with rxWords := [], rxHave := s.ws.rxHave.filter (fun _ => true) ++ [] } } := by
    unfold State.keepsWords
    rw [h]
    rfl
  rw [hkeeps, hhave, List.append_nil, hws s.ws h rfl]

/-- Each word received is read at its position. -/
theorem State.ringWord_keepsWords (hinv : s.Inv) (hfits : s.ringFits)
    (hdistinct : (s.ws.rxWords.map fun y => y.1 % 2 ^ s.applied.jnRingLog2.toNat).Nodup) {y : Nat × Word} (hy : y ∈ s.ws.rxWords) :
    s.keepsWords.ringWord y.1 = y.2 := by
  have htakes : s.takesAll s.rxStores := by
    refine ⟨hinv, ?_, fun x hx _ => ?_⟩
    · rw [State.rxStores, List.map_map, List.nodup_map_iff_inj_on (List.Nodup.of_map _ hdistinct)]
      intro x hx z hz he
      exact (List.nodup_map_iff_inj_on (List.Nodup.of_map _ hdistinct)).1 hdistinct x hx z hz ((State.ringAddr_inj hfits _ _).1 he)
    · obtain ⟨z, -, rfl⟩ := List.mem_map.1 hx
      rfl
  have hword : (s.putAll s.rxStores).data (s.ringAddr y.1) = y.2 :=
    State.data_putAll_maskAll htakes (List.mem_map.2 ⟨y, hy, rfl⟩)
  rw [s.keepsWords_eq]
  exact hword

/-! ## Records and trailers taken (R211) -/

theorem State.takeRecords_stops (h : s.led.wpos.toNat ∉ s.ws.rxHave) (k : Nat) : s.takeRecords k = s := by
  cases k with
  | zero => rfl
  | succ k =>
    unfold State.takeRecords
    exact if_pos (by rw [Bool.not_eq_true', Bool.eq_false_iff, ne_eq, List.contains_iff_mem]; exact h)

theorem State.takeTrailers_none (h : ∀ r ∈ s.led.recs, r.trailer = false) : s.takeTrailers = s := by
  have hnone : (s.led.recs.filter fun r => r.trailer && decide (s.ws.twinTblk.toNat ≤ blockOf r.seq)) = [] := by
    rw [List.filter_eq_nil_iff]
    intro r hr
    rw [h r hr, Bool.false_and]
    exact Bool.false_ne_true
  rw [State.takeTrailers, hnone]
  rfl

theorem recLen_pos {w : Word} (h : recLen w = some n) : 0 < n := by
  unfold recLen at h
  dsimp only at h
  split at h
  all_goals simp only [Option.some.injEq, reduceCtorEq] at h <;> omega

/-- A whole record at JN_WPOS taken. -/
def State.takesRecord (s : State) (n : Nat) : State :=
  let w0 := s.ringWord s.led.wpos.toNat
  let t := ({ s with led := { s.led with seqNext := recSeq w0 } } : State).takeSeq n
  { t with led := { t.led with
      lastTime := bits (t.ringWord (s.led.wpos.toNat + 3)) 8 64,
      recs := mapIf (fun r => !r.trailer && r.seq == recSeq w0) (fun r => { r with written := true }) t.led.recs } }

theorem State.takeRecords_record (hheld : ∀ i : Nat, i < n → s.led.wpos.toNat + i ∈ s.ws.rxHave)
    (hlen : recLen (s.ringWord s.led.wpos.toNat) = some n) (htype : recType (s.ringWord s.led.wpos.toNat) ≠ 6)
    (hseq : recSeq (s.ringWord s.led.wpos.toNat) = s.led.seqNext) (hsync : s.ws.sync ≠ 3) (k : Nat) :
    s.takeRecords (k + 1) = (s.takesRecord n).takeRecords k := by
  have hwhole : s.ws.rxHave.contains s.led.wpos.toNat = true := List.contains_iff_mem.2 (hheld 0 (recLen_pos hlen))
  have hfirst : ¬(!s.ws.rxHave.contains s.led.wpos.toNat) = true := by
    rw [hwhole]
    decide
  have hholds : ¬(!s.holds s.led.wpos.toNat n) = true := by
    rw [Bool.not_eq_true', Bool.not_eq_false, State.holds, List.all_eq_true]
    exact fun i hi => List.contains_iff_mem.2 (hheld i (List.mem_range.1 hi))
  have hnext : (recSeq (s.ringWord s.led.wpos.toNat) == s.led.seqNext || (decide (s.ws.sync = 3) && s.led.recs.isEmpty && decide (s.led.seqNext = 0))) = true := by
    rw [hseq, beq_self_eq_true, Bool.true_or]
  have hnotes (t : State) (p : Nat) (ht : t.ws.sync = s.ws.sync) : t.noteCopied p = t :=
    if_pos (by rw [ht, bne_iff_ne.2 hsync, Bool.true_or])
  conv_lhs => unfold State.takeRecords
  dsimp only
  rw [if_neg hfirst, hlen]
  dsimp only
  rw [if_neg hholds, if_neg htype, if_pos hnext]
  exact congrArg (fun t : State => t.takeRecords k) (hnotes (s.takesRecord n) _ rfl)

end

end Sys2Proof.Machine
end

section
/-! What a follower in step acknowledges and applies (R211, R212). -/

namespace Sys2Proof.Machine

section
variable {s : State} {n : Nat}

/-- A follower in step acknowledges what it holds, and applies it. -/
theorem State.acknowledges_inStep (h : s.ws.sync = 0) : s.acknowledges = s.sendAck.advance s.wseq false := by
  have hsent : StreamsOnly s s.sendAck := (State.sendBoth_streamed _ _ _).only
  have hsync : s.sendAck.ws.sync ≠ 3 := by
    rw [hsent]
    show s.ws.sync ≠ 3
    rw [h]
    decide
  have hstart : ¬(s.ws.sync == 3 && s.led.seqNext == 0) = true := by
    rw [h]
    exact Bool.false_ne_true
  rw [State.acknowledges, if_neg hstart, State.applyTo_advance _ _ hsync]

/-- An ACK goes out on each link (R211). -/
theorem State.sendAck_sent (s : State) : Sent s s.sendAck 2 [at' s.wseq 24, at' s.ws.term 24, at' s.tblk 24, 0, 0, 0] := State.sendBoth_sent s 2 _

theorem State.sendAck_streams (s : State) : StreamsOnly s s.sendAck := (State.sendBoth_streamed _ _ _).only

/-! ## Words without a record -/

/-- The state of a follower whose words make no record whole. -/
theorem State.acknowledges_nothing (hsync : s.ws.sync = 0) (hheals : s.ws.heals = []) (hrecs : s.led.recs = []) :
    (s.acknowledges.settleDpos.settleHeals).followerSynced = s.sendAck.settleDpos.settleDpos := by
  have hsent := s.sendAck_streams
  have hnone : s.sendAck.newlyDurable s.wseq = [] := by
    rw [State.newlyDurable, hsent.led, hrecs]
    rfl
  have hheals' : s.sendAck.ws.heals = [] := by
    rw [hsent]
    exact hheals
  have hsync' : s.sendAck.ws.sync = 0 := by
    rw [hsent]
    exact hsync
  rw [State.acknowledges_inStep hsync, State.advance_none hnone]
  generalize s.sendAck = a at hheals' hsync'
  rw [State.settleHeals_none (s := a.settleDpos.settleDpos) hheals', State.followerSynced_inStep (s := a.settleDpos.settleDpos) hsync']

/-- Words received that make no record whole are written and acknowledged. -/
theorem exec_followerWriteVerified_words (hinv : s.Inv) (hrole : s.ws.role = 2) (hsync : s.ws.sync = 0) (hheals : s.ws.heals = []) (hrecs : s.led.recs = [])
    (hhave : s.ws.rxHave = []) (hfits : s.ringFits) (hnone : ∀ y ∈ s.ws.rxWords, y.1 ≠ s.led.wpos.toNat)
    (hdistinct : (s.ws.rxWords.map fun y => y.1 % 2 ^ s.applied.jnRingLog2.toNat).Nodup) :
    ∃ u, exec .followerWriteVerified s = .next u ∧ (∀ y ∈ s.ws.rxWords, u.ringWord y.1 = y.2) ∧ u.ws.rxWords = [] ∧ u.led.seqNext = s.led.seqNext ∧
      u.ws.ahor = s.ws.ahor ∧ u.led.wpos = s.led.wpos ∧ Sent s u 2 [at' s.wseq 24, at' s.ws.term 24, at' s.tblk 24, 0, 0, 0] := by
  have hkeeps := s.keepsWords_eq
  have hwords (y : Nat × Word) (hy : y ∈ s.ws.rxWords) : s.keepsWords.ringWord y.1 = y.2 := State.ringWord_keepsWords hinv hfits hdistinct hy
  have hled : s.keepsWords.led = s.led := by rw [hkeeps]
  have hstops : s.keepsWords.led.wpos.toNat ∉ s.keepsWords.ws.rxHave := by
    rw [hled, s.keepsWords_rxHave, hhave]
    intro hmem
    obtain ⟨y, hy, he⟩ := List.mem_map.1 hmem
    exact hnone y hy he
  have htrailers : s.keepsWords.takeTrailers = s.keepsWords := State.takeTrailers_none (by rw [hled, hrecs]; simp)
  have hfacts : let v := s.keepsWords.forgets
      v.ws.sync = s.ws.sync ∧ v.ws.heals = s.ws.heals ∧ v.led = s.led ∧ v.ws.rxWords = [] ∧ v.ws.ahor = s.ws.ahor ∧ v.ws.term = s.ws.term ∧
        ∀ l, v.twinRoom l = s.twinRoom l := by
    dsimp only
    rw [State.forgets, hkeeps]
    exact ⟨rfl, rfl, rfl, rfl, rfl, rfl, fun _ => rfl⟩
  obtain ⟨hvsync, hvheals, hvled, hvwords, hvahor, hvterm, hvroom⟩ := hfacts
  have hword (p : Nat) : s.keepsWords.forgets.ringWord p = s.keepsWords.ringWord p := rfl
  refine ⟨_, exec_followerWriteVerified hrole, ?_⟩
  rw [State.takeRecords_stops hstops, htrailers]
  generalize s.keepsWords.forgets = v at *
  rw [State.acknowledges_nothing (hvsync.trans hsync) (hvheals.trans hheals) ((congrArg Ledger.recs hvled).trans hrecs)]
  have hsent := v.sendAck_streams
  have hack := v.sendAck_sent
  rw [State.wseq_congr hvled, hvterm, State.tblk, hvled, ← State.tblk] at hack
  generalize v.sendAck = a at hsent hack
  refine ⟨fun y hy => ?_, ?_, ?_, hsent.ahor.trans hvahor, ?_, hack.of_room fun l => (hvroom l).symm ▸ rfl⟩
  · exact (hsent.heardOnly.sameLedger.ringWord y.1).trans ((hword y.1).trans (hwords y hy))
  · show a.ws.rxWords = []
    rw [hsent]
    exact hvwords
  · show a.led.seqNext = _
    rw [hsent.led, hvled]
  · show a.led.wpos = _
    rw [hsent.led, hvled]

end

end Sys2Proof.Machine
end

section
/-! A whole record that a follower takes and applies (R211, R212). -/

namespace Sys2Proof.Machine

section
variable {s : State} {n : Nat}

/-- The record at JN_WPOS, written. -/
def State.nextRec (s : State) (n : Nat) : Rec :=
  { trailer := false, seq := s.led.seqNext, pos := s.led.wpos, len := n, written := true, digest := none }

/-- The ledger of a follower that holds no record, once it has taken one that ends no block. -/
theorem State.takesRecord_led (hrecs : s.led.recs = []) (hblock : s.led.seqNext.toNat % 64 ≠ 0)
    (hseq : recSeq (s.ringWord s.led.wpos.toNat) = s.led.seqNext) : ∃ time block, (s.takesRecord n).led = { s.led with
      seqNext := s.led.seqNext + 1, wpos := s.led.wpos + BitVec.ofNat 64 n, recs := [s.nextRec n], lastTime := time, blockNext := block } := by
  have hwritten : mapIf (fun r : Rec => !r.trailer && r.seq == s.led.seqNext) (fun r => { r with written := true })
      [{ trailer := false, seq := s.led.seqNext, pos := s.led.wpos, len := n, written := false, digest := none }] = [s.nextRec n] := by
    simp [mapIf, State.nextRec]
  unfold State.takesRecord State.takeSeq charge
  simp only [hseq, hrecs, if_neg hblock, List.nil_append, List.append_nil, hwritten, Nat.add_zero]
  exact ⟨_, _, rfl⟩

/-- The block that the next record is of changes only after one that ends it. -/
theorem block_of_next {q : Nat} (h : q % 64 ≠ 0) : (q + 1 - 1) / 64 = (q - 1) / 64 := by omega

/-- A follower that holds one record, written and above its horizon, acknowledges and applies it. -/
theorem State.acknowledges_record {r : Rec} (hsync : s.ws.sync = 0) (hheals : s.ws.heals = []) (hflights : s.led.flights = [])
    (hdue : s.newlyDurable s.wseq = [r]) : (s.acknowledges.settleDpos.settleHeals).followerSynced =
      (((s.sendAck.applyRecord r.pos.toNat false none).withHorizon r.seq).settleDpos).settleDpos := by
  have hsent := s.sendAck_streams
  have hdue' : s.sendAck.newlyDurable s.wseq = [r] := by
    rw [State.newlyDurable, hsent.led, hsent.ahor]
    exact hdue
  have hheals' : s.sendAck.ws.heals = [] := by
    rw [hsent]
    exact hheals
  have hsync' : s.sendAck.ws.sync = 0 := by
    rw [hsent]
    exact hsync
  have hunawaited : s.sendAck.led.flights.find? (fun f => f.seq == r.seq) = none := by rw [hsent.led, hflights]; rfl
  rw [State.acknowledges_inStep hsync, State.advance_one hdue', State.makesDurable_unawaited hunawaited]
  have happly := s.sendAck.applyRecord_ws r.pos.toNat false none
  generalize s.sendAck.applyRecord r.pos.toNat false none = x at happly
  have hx : (x.withHorizon r.seq).settleDpos.settleDpos.ws = { s.sendAck.ws with ahor := r.seq } :=
    congrArg (fun w : Watershed => { w with ahor := r.seq }) happly
  generalize s.sendAck = a at *
  rw [State.settleHeals_none (by rw [hx]; exact hheals'), State.followerSynced_inStep (by rw [hx]; exact hsync')]

/-- A horizon noted and JN_DPOS settled leave the rest. -/
theorem State.settled_withHorizon (x : State) (q : BitVec 48) : let u := ((x.withHorizon q).settleDpos).settleDpos
    u.led.seqNext = x.led.seqNext ∧ u.led.wpos = x.led.wpos ∧ u.ws.ahor = q ∧ u.mem = x.mem ∧ u.ws.out = x.ws.out := ⟨rfl, rfl, rfl, rfl, rfl⟩

/-- What a follower in step makes of the record that it has taken. -/
theorem State.acknowledges_nextRec {v : State} (hsame : SameLedger s v) (hnext : v.led.seqNext = s.led.seqNext + 1) (hrecs : v.led.recs = [s.nextRec n])
    (hws : v.ws = { s.ws with rxHave := v.ws.rxHave }) (hbrd : v.brd = s.brd) (hsync : s.ws.sync = 0) (hheals : s.ws.heals = [])
    (hflights : s.led.flights = []) (hempty : s.led.recs = []) (hblock : s.led.seqNext.toNat % 64 ≠ 0) (hroom : s.led.seqNext.toNat + 1 < 2 ^ 48)
    (hnew : s.ws.ahor.toNat < s.led.seqNext.toNat) : let u := (v.acknowledges.settleDpos.settleHeals).followerSynced
    u.led.seqNext = s.led.seqNext + 1 ∧ u.led.wpos = v.led.wpos ∧ u.ws.ahor = s.led.seqNext ∧
      u.mem = (s.applyRecord s.led.wpos.toNat false none).mem ∧ Sent s u 2 [at' s.led.seqNext 24, at' s.ws.term 24, at' s.tblk 24, 0, 0, 0] := by
  have hinc : (s.led.seqNext + 1).toNat = s.led.seqNext.toNat + 1 := by
    rw [BitVec.toNat_add]
    exact Nat.mod_eq_of_lt hroom
  have hwseq : v.wseq = s.led.seqNext := by
    have hpositive : s.led.seqNext + 1 ≠ 0 := fun h => by
      rw [h] at hinc
      exact absurd hinc (by simp)
    rw [State.wseq, hrecs, hnext]
    show (if s.led.seqNext + 1 = 0 then 0 else s.led.seqNext + 1 - 1) = s.led.seqNext
    rw [if_neg hpositive, BitVec.add_sub_cancel]
  have htblk : v.tblk = s.tblk := by
    rw [State.tblk, State.tblk, hrecs, hempty, hnext]
    show BitVec.ofNat 48 (((s.led.seqNext + 1).toNat - 1) / 64) = BitVec.ofNat 48 ((s.led.seqNext.toNat - 1) / 64)
    rw [hinc, block_of_next hblock]
  have hdue : v.newlyDurable v.wseq = [s.nextRec n] := by
    rw [State.newlyDurable, hrecs, hwseq, List.filter_cons_of_pos, List.filter_nil]
    rw [hws]
    simp only [State.nextRec, Bool.not_false, Bool.true_and, Bool.and_eq_true]
    exact ⟨decide_eq_true hnew, decide_eq_true (Nat.le_refl _)⟩
  have hvsync : v.ws.sync = 0 := by rw [hws]; exact hsync
  have hvheals : v.ws.heals = [] := by rw [hws]; exact hheals
  have hvterm : v.ws.term = s.ws.term := by rw [hws]
  have hvroom (l : Fin 2) : v.twinRoom l = s.twinRoom l := by rw [State.twinRoom, hws, hbrd, State.twinRoom]
  have hsent := v.sendAck_streams
  have hack := v.sendAck_sent
  rw [hwseq, hvterm, htblk] at hack
  rw [State.acknowledges_record hvsync hvheals (hsame.flights.trans hflights) hdue]
  generalize v.sendAck = a at hsent hack
  have hmem := (hsame.applyRecord s.led.wpos.toNat false none).mem
  have hmem' := (hsent.heardOnly.sameLedger.applyRecord s.led.wpos.toNat false none).mem
  have hrecords := a.applyRecord_records s.led.wpos.toNat false none
  have hrec : a.applyRecord (s.nextRec n).pos.toNat false none = a.applyRecord s.led.wpos.toNat false none := rfl
  rw [hrec]
  generalize a.applyRecord s.led.wpos.toNat false none = x at hmem' hrecords
  obtain ⟨hseqNext, hwpos, hahor, hmem'', hout⟩ := x.settled_withHorizon (s.nextRec n).seq
  have hled : x.led.seqNext = v.led.seqNext ∧ x.led.wpos = v.led.wpos := by
    rw [hrecords, ← hsent.led]
    exact ⟨rfl, rfl⟩
  refine ⟨hseqNext.trans (hled.1.trans hnext), hwpos.trans hled.2, hahor, hmem''.trans (hmem'.trans hmem), (hack.of_room hvroom).of_out ⟨[], ?_⟩⟩
  rw [hout, hrecords.ws, List.append_nil]

/-- A whole record at JN_WPOS is taken, acknowledged and applied. -/
theorem exec_followerWriteVerified_record (hrole : s.ws.role = 2) (hsync : s.ws.sync = 0) (hheals : s.ws.heals = []) (hrecs : s.led.recs = [])
    (hflights : s.led.flights = []) (hwords : s.ws.rxWords = []) (hlen : recLen (s.ringWord s.led.wpos.toNat) = some n)
    (htype : recType (s.ringWord s.led.wpos.toNat) ≠ 6) (hseq : recSeq (s.ringWord s.led.wpos.toNat) = s.led.seqNext)
    (hblock : s.led.seqNext.toNat % 64 ≠ 0) (hseqRoom : s.led.seqNext.toNat + 1 < 2 ^ 48) (hposRoom : s.led.wpos.toNat + n < 2 ^ 64)
    (hheld : ∀ i : Nat, i < n → s.led.wpos.toNat + i ∈ s.ws.rxHave) (hend : s.led.wpos.toNat + n ∉ s.ws.rxHave)
    (hnew : s.ws.ahor.toNat < s.led.seqNext.toNat) :
    ∃ u, exec .followerWriteVerified s = .next u ∧ u.led.seqNext = s.led.seqNext + 1 ∧ u.led.wpos.toNat = s.led.wpos.toNat + n ∧ u.ws.ahor = s.led.seqNext ∧
      u.mem = (s.applyRecord s.led.wpos.toNat false none).mem ∧ Sent s u 2 [at' s.led.seqNext 24, at' s.ws.term 24, at' s.tblk 24, 0, 0, 0] := by
  obtain ⟨time, block, hled⟩ := State.takesRecord_led (n := n) hrecs hblock hseq
  have hpos : (s.led.wpos + BitVec.ofNat 64 n).toNat = s.led.wpos.toNat + n := by
    rw [BitVec.toNat_add, BitVec.toNat_ofNat, Nat.add_mod_mod, Nat.mod_eq_of_lt hposRoom]
  have hstops : (s.takesRecord n).led.wpos.toNat ∉ (s.takesRecord n).ws.rxHave := by
    rw [hled, hpos]
    exact hend
  have htaken : s.takeRecords s.ws.rxHave.length = s.takesRecord n := by
    obtain ⟨k, hk⟩ : ∃ k, s.ws.rxHave.length = k + 1 :=
      Nat.exists_eq_add_one.2 (List.length_pos_of_mem (hheld 0 (recLen_pos hlen)))
    rw [hk, State.takeRecords_record hheld hlen htype hseq (by rw [hsync]; decide), State.takeRecords_stops hstops]
  have htrailers : (s.takesRecord n).takeTrailers = s.takesRecord n := State.takeTrailers_none (by rw [hled]; simp [State.nextRec])
  refine ⟨_, exec_followerWriteVerified hrole, ?_⟩
  rw [State.keepsWords_none hwords, htaken, htrailers]
  have hsame : SameLedger s (s.takesRecord n).forgets :=
    ⟨rfl, rfl, rfl, show (s.takesRecord n).led.flights = _ by rw [hled], show (s.takesRecord n).led.preps = _ by rw [hled],
      show (s.takesRecord n).led.filterNext = _ by rw [hled]⟩
  obtain ⟨hseqNext, hwpos, hahor, hmem, hsent⟩ := State.acknowledges_nextRec (n := n) hsame (show (s.takesRecord n).led.seqNext = _ by rw [hled])
    (show (s.takesRecord n).led.recs = _ by rw [hled]) rfl rfl hsync hheals hflights hrecs hblock hseqRoom hnew
  refine ⟨hseqNext, ?_, hahor, hmem, hsent⟩
  rw [hwpos]
  show (s.takesRecord n).led.wpos.toNat = _
  rw [hled]
  exact hpos

end

end Sys2Proof.Machine
end

section
/-! COPY (R227): the words of a run installed. -/

namespace Sys2Proof.Machine

section
variable {s : State} {l : Fin 2} {fr : Frame} {r : CopyRun}

/-! ## One word of a run -/

/-- More words of a full copy counted. -/
def State.copies (s : State) (k : Nat) : State := { s with ws := { s.ws with copied := s.ws.copied + k } }

theorem State.copies_copies (s : State) (j k : Nat) : (s.copies j).copies k = s.copies (j + k) := by
  simp only [State.copies, Nat.add_assoc]

/-- An offset that lies outside the ring. -/
def State.outsideRing (s : State) (o : Nat) : Prop :=
  o < s.applied.jnRingBase.toNat ∨ s.applied.jnRingBase.toNat + 2 ^ s.applied.jnRingLog2.toNat ≤ o

theorem State.liveAbove_none (h : s.ws.live = []) (r : CopyRun) (o : Nat) : s.liveAbove r o = false := by
  rw [State.liveAbove, h]
  rfl

/-- A copied word outside the ring, by whether it lies in a cell. -/
theorem State.installCopied_eq (h : s.outsideRing (r.off + r.got)) (w : Word) : s.installCopied r w =
    match s.cellBaseOf (r.off + r.got) with
    | some c =>
      if (r.cell ++ [w]).length < 4 then (s.copies 1, { r with got := r.got + 1, cell := r.cell ++ [w] })
      else ((s.copies 1).installCell { r with got := r.got + 1 } c (r.cell ++ [w]), { r with got := r.got + 1, cell := [] })
    | none => (if s.liveAbove r (r.off + r.got) || !s.healable (r.off + r.got) then s.copies 1 else (s.copies 1).putWord (plainAddr (r.off + r.got)) w,
        { r with got := r.got + 1 }) := by
  have htest : ¬(s.applied.peCellCount != 0 && decide (s.applied.jnRingBase.toNat ≤ r.off + r.got) &&
      decide (r.off + r.got < s.applied.jnRingBase.toNat + 2 ^ s.applied.jnRingLog2.toNat)) = true := by
    rw [Bool.and_eq_true, Bool.and_eq_true, decide_eq_true_eq, decide_eq_true_eq]
    rintro ⟨⟨-, hlow⟩, hhigh⟩
    exact h.elim (Nat.not_lt.2 hlow) (Nat.not_le.2 hhigh)
  unfold State.installCopied
  dsimp only
  rw [if_neg htest]
  rfl

theorem State.installCopied_word (hring : s.outsideRing (r.off + r.got)) (hcell : ¬s.inCell (r.off + r.got)) (hheal : s.healable (r.off + r.got) = true)
    (hlive : s.ws.live = []) (w : Word) :
    s.installCopied r w = ((s.copies 1).putWord (plainAddr (r.off + r.got)) w, { r with got := r.got + 1 }) := by
  rw [State.installCopied_eq hring, State.cellBaseOf_apart hcell, State.liveAbove_none hlive, hheal]
  rfl

theorem State.installCopied_part (hring : s.outsideRing (r.off + r.got)) (hcell : s.inCell (r.off + r.got)) {w : Word} (hlen : (r.cell ++ [w]).length < 4) :
    s.installCopied r w = (s.copies 1, { r with got := r.got + 1, cell := r.cell ++ [w] }) := by
  rw [State.installCopied_eq hring, State.cellBaseOf_inCell hcell]
  exact if_pos hlen

theorem State.installCopied_whole (hring : s.outsideRing (r.off + r.got)) (hcell : s.inCell (r.off + r.got)) {w : Word} (hlen : ¬(r.cell ++ [w]).length < 4) :
    s.installCopied r w = ((s.copies 1).installCell { r with got := r.got + 1 } (s.cellStart (r.off + r.got)) (r.cell ++ [w]),
      { r with got := r.got + 1, cell := [] }) := by
  rw [State.installCopied_eq hring, State.cellBaseOf_inCell hcell]
  exact if_neg hlen

/-! ## The words of a frame -/

/-- The words of a frame installed. -/
def State.installs (s : State) (r : CopyRun) (ws : List Word) : State × CopyRun :=
  ws.foldl (fun (x : State × CopyRun) w => x.1.installCopied x.2 w) (s, r)

theorem State.installs_cons (s : State) (r : CopyRun) (w : Word) (ws : List Word) :
    s.installs r (w :: ws) = (s.installCopied r w).1.installs (s.installCopied r w).2 ws := rfl

/-- Words outside the ring and the cells are put at their offsets. -/
theorem State.installs_words {ws : List Word} (hlive : s.ws.live = [])
    (hwords : ∀ k : Nat, k < ws.length → s.outsideRing (r.off + r.got + k) ∧ s.healable (r.off + r.got + k) = true ∧ ¬s.inCell (r.off + r.got + k)) :
    s.installs r ws = ((s.copies ws.length).putWords (plainAddr (r.off + r.got)) ws, { r with got := r.got + ws.length }) := by
  induction ws generalizing s r with
  | nil => rfl
  | cons w ws ih =>
    obtain ⟨hring, hheal, hcell⟩ := hwords 0 (Nat.succ_pos _)
    have hrest := ih (s := (s.copies 1).putWord (plainAddr (r.off + r.got)) w) (r := { r with got := r.got + 1 }) hlive fun k hk => by
      have hnext := hwords (k + 1) (Nat.succ_lt_succ hk)
      rw [Nat.add_comm k 1, ← Nat.add_assoc] at hnext
      exact hnext
    have hcopied : ((s.copies 1).putWord (plainAddr (r.off + r.got)) w).copies ws.length =
        (s.copies (ws.length + 1)).putWord (plainAddr (r.off + r.got)) w := by
      rw [Nat.add_comm ws.length 1, ← s.copies_copies]
      rfl
    rw [State.installs_cons, State.installCopied_word hring hcell hheal hlive, hrest, hcopied]
    show (_, ({ r with got := r.got + 1 + ws.length } : CopyRun)) = ((State.putWord _ _ w).putWords (plainAddr (r.off + r.got) + 1) ws, _)
    rw [plainAddr_succ, Nat.add_assoc r.got 1, Nat.add_comm 1]
    rfl

/-- The four words of a cell are installed together. -/
theorem State.installs_cell (hempty : r.cell = []) (hring : ∀ k : Nat, k < 4 → s.outsideRing (r.off + r.got + k))
    (hcell : ∀ k : Nat, k < 4 → s.inCell (r.off + r.got + k)) (w0 w1 w2 w3 : Word) : s.installs r [w0, w1, w2, w3] =
      ((s.copies 4).installCell { r with got := r.got + 4, cell := [w0, w1, w2] } (s.cellStart (r.off + r.got + 3)) [w0, w1, w2, w3],
        { r with got := r.got + 4, cell := [] }) := by
  have hfirst : s.installCopied r w0 = (s.copies 1, { r with got := r.got + 1, cell := [w0] }) := by
    rw [State.installCopied_part (hring 0 (by decide)) (hcell 0 (by decide)) (by rw [hempty]; exact (by decide : 1 < 4)), hempty]
    rfl
  have hsecond : (s.copies 1).installCopied { r with got := r.got + 1, cell := [w0] } w1 = (s.copies 2, { r with got := r.got + 2, cell := [w0, w1] }) := by
    rw [← s.copies_copies 1 1]
    exact State.installCopied_part (s := s.copies 1) (r := { r with got := r.got + 1, cell := [w0] }) (hring 1 (by decide)) (hcell 1 (by decide)) (w := w1) (by decide : 2 < 4)
  have hthird : (s.copies 2).installCopied { r with got := r.got + 2, cell := [w0, w1] } w2 = (s.copies 3, { r with got := r.got + 3, cell := [w0, w1, w2] }) := by
    rw [← s.copies_copies 2 1]
    exact State.installCopied_part (s := s.copies 2) (r := { r with got := r.got + 2, cell := [w0, w1] }) (hring 2 (by decide)) (hcell 2 (by decide)) (w := w2) (by decide : 3 < 4)
  have hlast : (s.copies 3).installCopied { r with got := r.got + 3, cell := [w0, w1, w2] } w3 =
      ((s.copies 4).installCell { r with got := r.got + 4, cell := [w0, w1, w2] } (s.cellStart (r.off + r.got + 3)) [w0, w1, w2, w3],
        { r with got := r.got + 4, cell := [] }) := by
    rw [← s.copies_copies 3 1]
    exact State.installCopied_whole (s := s.copies 3) (r := { r with got := r.got + 3, cell := [w0, w1, w2] }) (hring 3 (by decide)) (hcell 3 (by decide)) (w := w3) (by decide : ¬4 < 4)
  rw [State.installs_cons, hfirst, State.installs_cons, hsecond, State.installs_cons, hthird, State.installs_cons, hlast]
  rfl

end

end Sys2Proof.Machine
end

section
/-! COPY (R227): what a frame of a run leaves. -/

namespace Sys2Proof.Machine

section
variable {s t : State} {l : Fin 2} {fr : Frame} {r : CopyRun}

section
variable (h : HeardOnly s t)
include h

theorem HeardOnly.inv (hinv : s.Inv) : t.Inv := by
  rw [h]
  exact hinv

theorem HeardOnly.outsideRing (o : Nat) : t.outsideRing o ↔ s.outsideRing o := by rw [State.outsideRing, h.applied, State.outsideRing]
theorem HeardOnly.healable (o : Nat) : t.healable o = s.healable o := by rw [State.healable, h.applied, State.healable]
theorem HeardOnly.inCell (o : Nat) : t.inCell o ↔ s.inCell o := by rw [State.inCell, h.applied]
theorem HeardOnly.live : t.ws.live = s.ws.live := by rw [h]

end

/-- A run noted; with the filter come whole the next entry goes after its newest (R161). -/
def State.notesRun (s : State) (r : CopyRun) : State :=
  let t : State := { s with ws := { s.ws with run := some r } }
  if r.got = r.len && r.off + r.len = t.applied.peFilterBase.toNat + 2 ^ 20 then { t with led := { t.led with filterNext := t.filterAfterScan } } else t

theorem State.notesRun_spec (s : State) (r : CopyRun) : (s.notesRun r).mem = s.mem ∧ (s.notesRun r).ws = { s.ws with run := some r } := by
  unfold State.notesRun
  dsimp only
  split <;> exact ⟨rfl, rfl⟩

/-- The words of a frame that its run still lacks. -/
def CopyRun.words (r : CopyRun) (fr : Frame) : List Word := (frameWords fr).take (r.len - r.got)

theorem exec_copy_ordered (h : s.frameInOrder l 7 fr) (hrole : s.ws.role = 2) (hsync : s.ws.sync = 3) (hrun : s.ws.run = some r)
    (hpos : fr.pos.toNat = r.got) :
    exec (.copy l fr) s = .next (((s.took l fr).installs r (r.words fr)).1.notesRun ((s.took l fr).installs r (r.words fr)).2) := by
  have hheard := s.took_heardOnly l fr
  have htest : (if (s.took l fr).ws.role == 2 && (s.took l fr).ws.sync == 3 then (s.took l fr).ws.run else none) = some r := by
    rw [hheard.role, hheard.sync, hheard.run, hrole, hsync, hrun]
    rfl
  show execCopy l fr s = _
  simp only [execCopy, State.frameIn_ordered h, State.heard_plainIn, htest]
  rw [if_neg (not_not.2 hpos)]
  rfl

theorem CopyRun.length_words (r : CopyRun) (fr : Frame) : (r.words fr).length = min 6 (r.len - r.got) := by
  rw [CopyRun.words, List.length_take, Nat.min_comm]
  rfl

theorem CopyRun.getD_words {k : Nat} (hk : k < 6) (hlen : r.got + k < r.len) : (r.words fr).getD k 0 = (frameWords fr).getD k 0 := by
  have hsix : (frameWords fr).length = 6 := rfl
  have htaken : k < (r.words fr).length := by
    rw [r.length_words]
    omega
  rw [List.getD_eq_getElem _ _ htaken, List.getD_eq_getElem _ _ (by omega)]
  exact List.getElem_take

theorem State.notesRun_data (s : State) (r : CopyRun) (a : WAddr) : (s.notesRun r).data a = s.data a :=
  congrArg MCell.data (State.cell_congr (s.notesRun_spec r).1 a)

/-- Words of a run outside the ring and the cells stand at their offsets. -/
theorem exec_copy_words (hinv : s.Inv) (h : s.frameInOrder l 7 fr) (hrole : s.ws.role = 2) (hsync : s.ws.sync = 3) (hrun : s.ws.run = some r)
    (hlive : s.ws.live = []) (hpos : fr.pos.toNat = r.got) (hroom : r.off + r.len < 2 ^ 24)
    (hring : ∀ k : Nat, r.got ≤ k → k < r.len → s.outsideRing (r.off + k))
    (hwords : ∀ k : Nat, r.got + k < r.len → s.healable (r.off + r.got + k) = true ∧ ¬s.inCell (r.off + r.got + k)) :
    ∃ u, exec (.copy l fr) s = .next u ∧ (∀ k : Nat, k < 6 → r.got + k < r.len → u.data (plainAddr (r.off + r.got + k)) = (frameWords fr).getD k 0) ∧
      (∀ a, (∀ k : Nat, k < 6 → r.got + k < r.len → a ≠ plainAddr (r.off + r.got + k)) → u.data a = s.data a) ∧
      u.ws.run = some { r with got := r.got + min 6 (r.len - r.got) } ∧ u.ws.copied = s.ws.copied + min 6 (r.len - r.got) := by
  have hheard := s.took_heardOnly l fr
  have hlen := r.length_words fr
  have hin (k : Nat) : k < (r.words fr).length ↔ k < 6 ∧ r.got + k < r.len := by
    rw [hlen]
    omega
  refine ⟨_, exec_copy_ordered h hrole hsync hrun hpos, ?_⟩
  generalize s.took l fr = t at hheard
  have hinstalls := State.installs_words (s := t) (r := r) (ws := r.words fr) (hheard.live.trans hlive) fun k hk => by
    rw [hheard.outsideRing, hheard.healable, hheard.inCell]
    have hk' := ((hin k).1 hk).2
    obtain ⟨hheal, hcell⟩ := hwords k hk'
    have hout := hring (r.got + k) (Nat.le_add_right _ _) hk'
    rw [← Nat.add_assoc] at hout
    exact ⟨hout, hheal, hcell⟩
  have hcopies : (t.copies (r.words fr).length).Inv := hheard.inv hinv
  obtain ⟨hput, hother⟩ := State.putWords_plain hcopies (off := r.off + r.got) (ws := r.words fr) (by
    rw [hlen]
    omega)
  rw [hinstalls]
  refine ⟨fun k hk hk' => ?_, fun a ha => ?_, ?_, ?_⟩
  · rw [State.notesRun_data, hput k ((hin k).2 ⟨hk, hk'⟩), CopyRun.getD_words hk hk']
  · rw [State.notesRun_data, hother a fun k hk => ha k ((hin k).1 hk).1 ((hin k).1 hk).2]
    exact hheard.data a
  · rw [(State.notesRun_spec _ _).2, hlen]
  · rw [(State.notesRun_spec _ _).2, hlen]
    show (State.putWords _ _ _).ws.copied = _
    rw [State.putWords_ws]
    show t.ws.copied + _ = _
    rw [hheard.copied]

/-- A cell put at its offsets, unless the one held is newer. -/
theorem State.installCell_eq (hlive : s.ws.live = []) (base : Nat) (ws : List Word) (hgood : (s.cell (plainAddr (base + 2))).bad = false) :
    s.installCell r base ws = if (bits (ws.getD 2 0) 24 48).toNat < (bits (s.data (plainAddr (base + 2))) 24 48).toNat then s
      else s.putWords (plainAddr base) ws := by
  have hnone : (List.range 4).any (fun k => s.liveAbove r (base + k)) = false := by
    simp only [State.liveAbove_none hlive, List.any_eq_false, Bool.false_eq_true, not_false_iff, implies_true]
  unfold State.installCell
  dsimp only
  rw [hgood, hnone, Bool.or_false]
  exact if_congr (decide_eq_true_iff) rfl rfl

/-- A cell of a run stands at its offsets, unless the one held is newer. -/
theorem exec_copy_cell (hinv : s.Inv) (h : s.frameInOrder l 7 fr) (hrole : s.ws.role = 2) (hsync : s.ws.sync = 3) (hrun : s.ws.run = some r)
    (hlive : s.ws.live = []) (hpos : fr.pos.toNat = r.got) (hroom : r.off + r.len < 2 ^ 24)
    (hring : ∀ k : Nat, r.got ≤ k → k < r.len → s.outsideRing (r.off + k)) (hempty : r.cell = []) (hlen : r.len = r.got + 4)
    (hcell : ∀ k : Nat, k < 4 → s.inCell (r.off + r.got + k)) (haligned : (r.off + r.got - s.applied.peCellBase.toNat) % 4 = 0)
    (hgood : (s.cell (plainAddr (r.off + r.got + 2))).bad = false) :
    ∃ u, exec (.copy l fr) s = .next u ∧ u.ws.run = some { r with got := r.len } ∧
      (∀ a, (∀ k : Nat, k < 4 → a ≠ plainAddr (r.off + r.got + k)) → u.data a = s.data a) ∧
      ∀ k : Nat, k < 4 → u.data (plainAddr (r.off + r.got + k)) =
        if (bits fr.w2 24 48).toNat < (bits (s.data (plainAddr (r.off + r.got + 2))) 24 48).toNat then s.data (plainAddr (r.off + r.got + k))
        else (frameWords fr).getD k 0 := by
  have hheard := s.took_heardOnly l fr
  have hwords : r.words fr = [fr.w0, fr.w1, fr.w2, fr.w3] := by
    rw [CopyRun.words, hlen, Nat.add_sub_cancel_left]
    rfl
  have hstart : s.cellStart (r.off + r.got + 3) = r.off + r.got := by
    have hlow := (hcell 0 (by decide)).1
    rw [State.cellStart]
    omega
  have hrun' : ({ r with got := r.len } : CopyRun) = { r with got := r.got + 4, cell := [] } := by rw [hlen, ← hempty]
  have hfour (k : Nat) (hk : k < 4) : [fr.w0, fr.w1, fr.w2, fr.w3].getD k 0 = (frameWords fr).getD k 0 := by
    rw [← hwords, CopyRun.getD_words (by omega) (by omega)]
  refine ⟨_, exec_copy_ordered h hrole hsync hrun hpos, ?_⟩
  generalize s.took l fr = t at hheard
  have hstart' : t.cellStart (r.off + r.got + 3) = r.off + r.got := by rw [State.cellStart, hheard.applied, ← State.cellStart, hstart]
  have hinstalls := State.installs_cell (s := t) hempty (fun k hk => by
    rw [hheard.outsideRing]
    have hout := hring (r.got + k) (Nat.le_add_right _ _) (by omega)
    rw [← Nat.add_assoc] at hout
    exact hout) (fun k hk => (hheard.inCell _).2 (hcell k hk)) fr.w0 fr.w1 fr.w2 fr.w3
  have hcopies : (t.copies 4).Inv := hheard.inv hinv
  have hdata (a : WAddr) : (t.copies 4).data a = s.data a := hheard.data a
  have hinstall := State.installCell_eq (s := t.copies 4) (r := { r with got := r.got + 4, cell := [fr.w0, fr.w1, fr.w2] }) (hheard.live.trans hlive)
    (r.off + r.got) [fr.w0, fr.w1, fr.w2, fr.w3] ((congrArg MCell.bad (hheard.sameLedger.cell _)).trans hgood)
  obtain ⟨hput, hother⟩ := State.putWords_plain hcopies (off := r.off + r.got) (ws := [fr.w0, fr.w1, fr.w2, fr.w3]) (by
    show r.off + r.got + 4 ≤ 2 ^ 48
    omega)
  rw [hwords, hinstalls, hstart', hinstall, hdata]
  refine ⟨by rw [(State.notesRun_spec _ _).2, hrun'], fun a ha => ?_, fun k hk => ?_⟩
  · rw [State.notesRun_data]
    split
    · exact hdata a
    · exact (hother a ha).trans (hdata a)
  · rw [State.notesRun_data]
    by_cases hnewer : (bits fr.w2 24 48).toNat < (bits (s.data (plainAddr (r.off + r.got + 2))) 24 48).toNat
    · rw [if_pos hnewer]
      exact (congrArg (fun x : State => x.data _) (if_pos hnewer)).trans (hdata _)
    · rw [if_neg hnewer, ← hfour k hk]
      exact (congrArg (fun x : State => x.data _) (if_neg hnewer)).trans (hput k hk)

end

end Sys2Proof.Machine
end

section
/-! Healed words (R169, R229, R230). -/

namespace Sys2Proof.Machine

section
variable {s : State} {l : Fin 2} {fr : Frame} {hz : BitVec 48}

/-! ## Records that are applied again (R230) -/

/-- No record that the module has applied is above its horizon. -/
theorem State.not_above_of_applied (h : s.ws.ahor.toNat ≤ hz.toNat) {q : Nat × Word} (hq : q ∈ s.appliedRecords) : ¬hz.toNat < (recSeq q.2).toNat := by
  have hold := (List.mem_filter.1 hq).2
  rw [Bool.and_eq_true, decide_eq_true_eq] at hold
  exact Nat.not_lt.2 (hold.2.trans h)

theorem State.reapplyLegs_none (h : s.ws.ahor.toNat ≤ hz.toNat) (off : Nat) : s.reapplyLegs hz off = s := by
  have hnone : (s.appliedRecords.filter fun r => decide (hz.toNat < (recSeq r.2).toNat)) = [] :=
    List.filter_eq_nil_iff.2 fun q hq => by
      rw [decide_eq_true_eq]
      exact State.not_above_of_applied h hq
  unfold State.reapplyLegs
  rw [hnone]
  rfl

theorem State.mem_appliedRecords_of_enteredBy {slot : Nat} {r : Nat × Word} (h : s.enteredBy slot = some r) : r ∈ s.appliedRecords :=
  List.mem_of_mem_filter (List.mem_reverse.1 (List.mem_of_getElem? h))

theorem State.reapplyFilter_none (h : s.ws.ahor.toNat ≤ hz.toNat) (slot : Nat) : s.reapplyFilter hz slot = s := by
  have hold {q : Nat × Word} (hq : q ∈ s.appliedRecords) : decide (hz.toNat < (recSeq q.2).toNat) = false :=
    decide_eq_false (State.not_above_of_applied h hq)
  unfold State.reapplyFilter
  split
  · rfl
  · next r hr =>
    dsimp only
    have hdec : (s.appliedRecords.find? fun d => recType d.2 == 4 && bits (s.ringWord (d.1 + 2)) 24 48 == recSeq r.2).any
        (fun q => decide (hz.toNat < (recSeq q.2).toNat)) = false := by
      cases hfind : s.appliedRecords.find? fun d => recType d.2 == 4 && bits (s.ringWord (d.1 + 2)) 24 48 == recSeq r.2 with
      | none => rfl
      | some d => exact hold (List.mem_of_find?_eq_some hfind)
    split
    · refine if_neg ?_
      rw [hdec, hold (State.mem_appliedRecords_of_enteredBy hr)]
      exact Bool.false_ne_true
    · rfl

/-- With nothing applied above the horizon of a healed word, nothing is applied again. -/
theorem State.reapply_none (h : s.ws.ahor.toNat ≤ hz.toNat) (off : Nat) : s.reapply hz off = s := by
  unfold State.reapply
  split
  · exact State.reapplyFilter_none h _
  · exact State.reapplyLegs_none h off

/-! ## Units that wait for a word -/

theorem State.wakeHeal_wait (s : State) (pa : WAddr) (ok : Bool) (n : CoreId) :
    (s.wakeHeal pa ok).cores[n].wait = if s.cores[n].wait = some pa then none else s.cores[n].wait := by
  unfold State.wakeHeal
  simp only [Fin.getElem_fin, Vector.getElem_map]
  by_cases hwait : s.cores[n.val].wait = some pa
  · rw [if_pos hwait, if_pos (beq_iff_eq.2 hwait)]
  · rw [if_neg hwait, if_neg (mt beq_iff_eq.1 hwait)]

/-! ## HEAL-DATA (R230) -/

/-- The words of a heal noted. -/
def State.notesHealed (s : State) (off : BitVec 24) (d : BitVec 48 × List Word) : State :=
  { s with ws := { s.ws with heals := mapIf (fun h => h.off == off) (fun h => { h with data := some d }) s.ws.heals } }

theorem exec_healData_ordered (h : s.frameInOrder l 5 fr) : exec (.healData l fr) s = .next
    (if bit fr.w0 71 then ((s.took l fr).notesHealed (bits fr.w0 0 24) (bits fr.w1 24 48, [fr.w2, fr.w3, fr.w4, fr.w5])).settleHeals else s.took l fr) := by
  show execHealData l fr s = _
  simp only [execHealData, State.frameIn_ordered h, State.heard_plainIn]
  rfl

/-- Where the words of a heal go, and how many of them there are. -/
def State.putHealed (s : State) (off : Nat) (ws : List Word) : State := match s.cellBaseOf off with
  | some b => s.putWords (plainAddr b) (ws.take 4)
  | none => s.putWords (plainAddr off) (ws.take 1)

/-- A heal that is over. -/
def State.endsHeal (s : State) (off : BitVec 24) : State :=
  (({ s with ws := { s.ws with healCnt := inc s.ws.healCnt, heals := s.ws.heals.filter fun x => x.off != off } } : State).resumeLegs off).wakeHeal
    (plainAddr off.toNat) true

/-- One heal settled. -/
def State.settleHeal (s : State) (h : Heal) : State := match h.data with
  | none => s
  | some (hz, ws) => if s.ws.ahor.toNat < hz.toNat then s else ((s.putHealed h.off.toNat ws).reapply hz h.off.toNat).endsHeal h.off

theorem State.settleHeals_one {h : Heal} (hheals : s.ws.heals = [h]) : s.settleHeals = s.settleHeal h := by
  unfold State.settleHeals
  rw [hheals]
  rfl

theorem State.settleHeal_early {h : Heal} {ws : List Word} (hdata : h.data = some (hz, ws)) (hearly : s.ws.ahor.toNat < hz.toNat) :
    s.settleHeal h = s := by
  unfold State.settleHeal
  rw [hdata]
  exact if_pos hearly

theorem State.putHealed_ws (s : State) (off : Nat) (ws : List Word) : (s.putHealed off ws).ws = s.ws := by
  unfold State.putHealed
  split <;> exact State.putWords_ws _ _ _

theorem State.putHealed_cores (s : State) (off : Nat) (ws : List Word) : (s.putHealed off ws).cores = s.cores := by
  unfold State.putHealed
  split <;> exact State.putWords_cores _ _ _

theorem State.settleHeal_due {h : Heal} {ws : List Word} (hdata : h.data = some (hz, ws)) (hdue : s.ws.ahor = hz) :
    s.settleHeal h = (s.putHealed h.off.toNat ws).endsHeal h.off := by
  have hnone := State.reapply_none (s := s.putHealed h.off.toNat ws) (hz := hz) (by rw [State.putHealed_ws, hdue]) h.off.toNat
  unfold State.settleHeal
  rw [hdata]
  dsimp only
  rw [if_neg (by rw [hdue]; exact Nat.lt_irrefl _), hnone]

/-- What the words of a heal leave in memory. -/
theorem State.putHealed_holds (hinv : s.Inv) {o : Nat} (_ho : o < 2 ^ 24) (w0 w1 w2 w3 : Word) : let u := s.putHealed o [w0, w1, w2, w3]
    let lo := if s.inCell o then s.cellStart o else o
    u.data (plainAddr lo) = w0 ∧
    (s.inCell o → u.data (plainAddr (lo + 1)) = w1 ∧ u.data (plainAddr (lo + 2)) = w2 ∧ u.data (plainAddr (lo + 3)) = w3) ∧
    (∀ a, (∀ k : Nat, k < 4 → a ≠ plainAddr (lo + k)) → u.data a = s.data a) ∧ (¬s.inCell o → ∀ a, a ≠ plainAddr lo → u.data a = s.data a) := by
  intro u lo
  by_cases hcell : s.inCell o
  · have hlo : lo = s.cellStart o := if_pos hcell
    have hlow := hcell.1
    have hstart : s.cellStart o ≤ o := by
      rw [State.cellStart]
      omega
    have hu : u = s.putWords (plainAddr (s.cellStart o)) [w0, w1, w2, w3] := by
      show s.putHealed o _ = _
      rw [State.putHealed, State.cellBaseOf_inCell hcell]
      rfl
    obtain ⟨hput, hother⟩ := State.putWords_plain hinv (off := s.cellStart o) (ws := [w0, w1, w2, w3]) (by
      show s.cellStart o + 4 ≤ 2 ^ 48
      omega)
    rw [hu, hlo]
    exact ⟨hput 0 (by decide : 0 < 4), fun _ => ⟨hput 1 (by decide : 1 < 4), hput 2 (by decide : 2 < 4), hput 3 (by decide : 3 < 4)⟩, hother, fun k => absurd hcell k⟩
  · have hlo : lo = o := if_neg hcell
    have hu : u = s.putWord (plainAddr o) w0 := by
      show s.putHealed o _ = _
      rw [State.putHealed, State.cellBaseOf_apart hcell]
      rfl
    have hdata (a : WAddr) : u.data a = if a = plainAddr o then w0 else s.data a := by rw [hu, State.data_putWord hinv]
    rw [hlo]
    refine ⟨(hdata _).trans (if_pos rfl), fun k => absurd k hcell, fun a ha => (hdata a).trans (if_neg (ha 0 (by decide))), fun _ a ha => ?_⟩
    exact (hdata a).trans (if_neg ha)

theorem State.endsHeal_data (s : State) (off : BitVec 24) (a : WAddr) : (s.endsHeal off).data a = s.data a := rfl
theorem State.endsHeal_ws (s : State) (off : BitVec 24) :
    (s.endsHeal off).ws = { s.ws with healCnt := inc s.ws.healCnt, heals := s.ws.heals.filter fun x => x.off != off } := rfl

theorem State.endsHeal_wait (s : State) (off : BitVec 24) (n : CoreId) :
    (s.endsHeal off).cores[n].wait = if s.cores[n].wait = some (plainAddr off.toNat) then none else s.cores[n].wait := State.wakeHeal_wait _ _ _ n

end

end Sys2Proof.Machine
end

section
/-! Heals that end, and what a follower keeps settled (R169, R210-R212, R221, R227, R229, R230). -/

namespace Sys2Proof.Machine

section
variable {s : State} {l : Fin 2} {fr : Frame} {h : Heal}

/-! ## A heal whose words come -/

/-- The one heal that a module waits for, with its words. -/
theorem State.notesHealed_one {off : BitVec 24} (hheals : s.ws.heals = [h]) (hoff : h.off = off) (d : BitVec 48 × List Word) :
    s.notesHealed off d = { s with ws := { s.ws with heals := [{ h with data := some d }] } } := by
  have hmap : mapIf (fun x : Heal => x.off == off) (fun x => { x with data := some d }) [h] = [{ h with data := some d }] := by simp [mapIf, hoff]
  rw [State.notesHealed, hheals, hmap]

/-- The words of a heal came, of a horizon that the module has not reached. -/
theorem exec_healData_early (hin : s.frameInOrder l 5 fr) (hok : bit fr.w0 71 = true) (hheals : s.ws.heals = [h]) (hoff : h.off = bits fr.w0 0 24)
    (hearly : s.ws.ahor.toNat < (bits fr.w1 24 48).toNat) : exec (.healData l fr) s = .next { s.took l fr with ws := { (s.took l fr).ws with
      heals := [{ h with data := some (bits fr.w1 24 48, [fr.w2, fr.w3, fr.w4, fr.w5]) }] } } := by
  have hheard := s.took_heardOnly l fr
  rw [exec_healData_ordered hin, if_pos hok]
  generalize s.took l fr = t at hheard
  rw [State.notesHealed_one (hheard.heals.trans hheals) hoff]
  refine congrArg _ ((State.settleHeals_one rfl).trans (State.settleHeal_early rfl ?_))
  show t.ws.ahor.toNat < _
  rw [hheard.ahor]
  exact hearly

/-- A heal whose words are of the module's horizon ends: they stand in memory, and the units that wait for them go on. -/
theorem State.settleHeals_due {hz : BitVec 48} {w0 w1 w2 w3 : Word} (hinv : s.Inv) (hheals : s.ws.heals = [h]) (hdata : h.data = some (hz, [w0, w1, w2, w3]))
    (hdue : s.ws.ahor = hz) : let o := h.off.toNat
    let lo := if s.inCell o then s.cellStart o else o
    let u := s.settleHeals
    u.ws.heals = [] ∧ u.ws.healCnt = s.ws.healCnt + 1 ∧ u.data (plainAddr lo) = w0 ∧
      (s.inCell o → u.data (plainAddr (lo + 1)) = w1 ∧ u.data (plainAddr (lo + 2)) = w2 ∧ u.data (plainAddr (lo + 3)) = w3) ∧
      (∀ a, (∀ k : Nat, k < 4 → a ≠ plainAddr (lo + k)) → u.data a = s.data a) ∧ (¬s.inCell o → ∀ a, a ≠ plainAddr lo → u.data a = s.data a) ∧
      ∀ n : CoreId, u.cores[n].wait = if s.cores[n].wait = some (plainAddr o) then none else s.cores[n].wait := by
  intro o lo u
  have hu : u = (s.putHealed o [w0, w1, w2, w3]).endsHeal h.off := (State.settleHeals_one hheals).trans (State.settleHeal_due hdata hdue)
  have hend : u.ws.heals = [] ∧ u.ws.healCnt = s.ws.healCnt + 1 := by
    rw [hu, State.endsHeal_ws, State.putHealed_ws, hheals]
    exact ⟨by simp, rfl⟩
  have hwords (a : WAddr) : u.data a = (s.putHealed o [w0, w1, w2, w3]).data a := by rw [hu, State.endsHeal_data]
  obtain ⟨hfirst, hcell, hother, hother'⟩ := State.putHealed_holds hinv h.off.isLt w0 w1 w2 w3
  refine ⟨hend.1, hend.2, (hwords _).trans hfirst, fun k => ?_, fun a ha => (hwords a).trans (hother a ha), fun k a ha => (hwords a).trans (hother' k a ha),
    fun n => ?_⟩
  · obtain ⟨h1, h2, h3⟩ := hcell k
    exact ⟨(hwords _).trans h1, (hwords _).trans h2, (hwords _).trans h3⟩
  · rw [hu, State.endsHeal_wait, State.putHealed_cores]

/-- The words of a heal came, of the module's horizon. -/
theorem exec_healData_due (hinv : s.Inv) (hin : s.frameInOrder l 5 fr) (hok : bit fr.w0 71 = true) (hheals : s.ws.heals = [h])
    (hoff : h.off = bits fr.w0 0 24) (hdue : s.ws.ahor = bits fr.w1 24 48) : let o := (bits fr.w0 0 24).toNat
    let lo := if s.inCell o then s.cellStart o else o
    ∃ u, exec (.healData l fr) s = .next u ∧ u.ws.heals = [] ∧ u.ws.healCnt = s.ws.healCnt + 1 ∧ u.data (plainAddr lo) = fr.w2 ∧
      (s.inCell o → u.data (plainAddr (lo + 1)) = fr.w3 ∧ u.data (plainAddr (lo + 2)) = fr.w4 ∧ u.data (plainAddr (lo + 3)) = fr.w5) ∧
      (∀ a, (∀ k : Nat, k < 4 → a ≠ plainAddr (lo + k)) → u.data a = s.data a) ∧ (¬s.inCell o → ∀ a, a ≠ plainAddr lo → u.data a = s.data a) ∧
      ∀ n : CoreId, u.cores[n].wait = if s.cores[n].wait = some (plainAddr o) then none else s.cores[n].wait := by
  intro o lo
  have hheard := s.took_heardOnly l fr
  refine ⟨_, exec_healData_ordered hin, ?_⟩
  rw [if_pos hok]
  have hnoted (d : BitVec 48 × List Word) : ((s.took l fr).notesHealed (bits fr.w0 0 24) d).ws.heals = [{ h with data := some d }] := by
    rw [State.notesHealed_one (hheard.heals.trans hheals) hoff]
  have hfacts (d : BitVec 48 × List Word) : let v := (s.took l fr).notesHealed (bits fr.w0 0 24) d
      v.Inv ∧ v.ws.ahor = s.ws.ahor ∧ v.applied = s.applied ∧ v.mem = s.mem ∧ v.cores = s.cores ∧ v.ws.healCnt = s.ws.healCnt := by
    dsimp only
    rw [State.notesHealed, hheard]
    exact ⟨hinv, rfl, rfl, rfl, rfl, rfl⟩
  obtain ⟨hvinv, hahor, happlied, hmem, hcores, hcount⟩ := hfacts (bits fr.w1 24 48, [fr.w2, fr.w3, fr.w4, fr.w5])
  have hsettled := State.settleHeals_due hvinv (hnoted _) rfl (hahor.trans hdue)
  generalize (s.took l fr).notesHealed _ _ = v at *
  have hdata (a : WAddr) : v.data a = s.data a := congrArg MCell.data (State.cell_congr hmem a)
  simp only [hoff, State.inCell, State.cellStart, happlied, hcount, hcores, hdata] at hsettled
  exact hsettled

/-! ## A heal that waits too long (R169) -/

theorem State.failLegs_mem (s : State) (off : BitVec 24) : (s.failLegs off).mem = s.mem := by
  unfold State.failLegs
  dsimp only
  split
  · exact State.raise_mem _ _
  · rfl

theorem State.failLegs_ws (s : State) (off : BitVec 24) : (s.failLegs off).ws = s.ws := by
  unfold State.failLegs
  dsimp only
  split
  · exact State.raise_ws _ _
  · rfl

/-- No leg waits for the word any more. -/
theorem State.failLegs_heal (s : State) (off : BitVec 24) : ∀ g ∈ (s.failLegs off).led.flights, ∀ y ∈ g.legs, y.heal ≠ some off := by
  have hflights : (s.failLegs off).led.flights = s.led.flights.map fun f =>
      { f with legs := f.legs.map fun l => if l.heal == some off then { l with heal := none, res := some 0x33 } else l } := by
    unfold State.failLegs
    dsimp only
    split
    · rw [State.raise_led]
    · rfl
  rw [hflights]
  intro g hg y hy
  obtain ⟨f, -, rfl⟩ := List.mem_map.1 hg
  obtain ⟨x, -, rfl⟩ := List.mem_map.1 hy
  split
  · exact (Option.some_ne_none _).symm
  · next hx => exact fun k => hx (beq_iff_eq.2 k)

theorem exec_healWaitExpiry {f : BitVec 24} (hdue : ∃ h ∈ s.ws.heals, h.off = f ∧ h.since.toNat + 2000 ≤ s.now.toNat) :
    exec (.healWaitExpiry f) s = .next (s.failHeal f) := by
  refine congrArg _ (if_pos (List.any_eq_true.2 ?_))
  obtain ⟨h, hmem, hoff, hold⟩ := hdue
  exact ⟨h, hmem, by rw [hoff, beq_self_eq_true, decide_eq_true hold]; rfl⟩

theorem exec_healWaitExpiry_early {f : BitVec 24} (hearly : ∀ h ∈ s.ws.heals, h.off = f → s.now.toNat < h.since.toNat + 2000) :
    exec (.healWaitExpiry f) s = .next s := by
  refine congrArg _ (if_neg fun hany => ?_)
  obtain ⟨h, hmem, hdue⟩ := List.any_eq_true.1 hany
  rw [Bool.and_eq_true, beq_iff_eq, decide_eq_true_eq] at hdue
  exact Nat.not_le.2 (hearly h hmem hdue.1) hdue.2

/-- A heal that fails: counted and reported, and nothing waits for its word (R169, R230). -/
theorem State.failHeal_spec (s : State) (f : BitVec 24) : let u := s.failHeal f
    u.ws.healFail = s.ws.healFail + 1 ∧ u.ws.heals = s.ws.heals.filter (fun h => h.off != f) ∧ bit u.ws.evt 8 = true ∧ u.mem = s.mem ∧
    (∀ g ∈ u.led.flights, ∀ y ∈ g.legs, y.heal ≠ some f) ∧ ∀ n : CoreId, u.cores[n].wait ≠ some (plainAddr f.toNat) := by
  have hws := State.setWsEvt_ws ({ s with ws := { s.ws with
    healFail := inc s.ws.healFail, heals := s.ws.heals.filter fun x => x.off != f } } : State) 8
  have hmem := State.setWsEvt_mem ({ s with ws := { s.ws with
    healFail := inc s.ws.healFail, heals := s.ws.heals.filter fun x => x.off != f } } : State) 8
  unfold State.failHeal
  dsimp only
  generalize State.setWsEvt _ 8 = v at hws hmem
  have hwait (n : CoreId) : ((v.failLegs f).wakeHeal (plainAddr f.toNat) false).cores[n].wait ≠ some (plainAddr f.toNat) := by
    rw [State.wakeHeal_wait]
    split
    · exact (Option.some_ne_none _).symm
    · next hother => exact hother
  have hafter : ((v.failLegs f).wakeHeal (plainAddr f.toNat) false).ws = v.ws := v.failLegs_ws f
  rw [hafter, hws]
  exact ⟨rfl, rfl, bit_setBit_same _ (by decide), (v.failLegs_mem f).trans hmem, v.failLegs_heal f, hwait⟩

end

end Sys2Proof.Machine
end

section
/-! What a follower takes and keeps settled (R210-R212, R221, R227, R229, R230). -/

namespace Sys2Proof.Machine

/-- Settles O45: each frame and timer by its lemma above. -/
theorem followersKeepWhatTheyAreSent : Obligations.FollowersKeepWhatTheyAreSent := by
  unfold Obligations.FollowersKeepWhatTheyAreSent
  intro s l fr hinv t w off o x inCell lo held ordered
  have hheard : HeardOnly s t := s.took_heardOnly l fr
  refine ⟨?stream, ?notFollowing, ?words, ?record, exec_copyStart_ordered, ?copy, exec_wtab_ordered, exec_healReq_held, exec_healReq_unheld, ?noHeal, ?heal,
    fun f hdue => ⟨_, exec_healWaitExpiry hdue, s.failHeal_spec f⟩, fun f => exec_healWaitExpiry_early⟩
  case stream =>
    intro h hrole
    have hpos : t.fullPos fr.pos = s.fullPos fr.pos := by rw [State.fullPos, hheard.led, State.fullPos]
    obtain ⟨hlow, hmin, hmax⟩ := s.fullPos_spec fr.pos
    refine ⟨t.receives (streamedWords t fr), s.fullPos fr.pos, (exec_stream_ordered h).trans (congrArg _ (if_pos hrole)), hlow, hmin, hmax, rfl,
      fun k hk hnew => ?_, fun y hy hapart => ?_⟩
    · refine List.mem_append_right _ ?_
      rw [← hpos]
      exact mem_streamedWords hk (by rw [hpos, hheard.led]; exact hnew)
    · refine State.mem_receives_of_apart ?_ (by rw [hpos]; exact hapart)
      rw [hheard]
      exact hy
  case notFollowing => exact fun h hrole => (exec_stream_ordered h).trans (congrArg _ (if_neg hrole))
  case words =>
    intro hrole hsync hheals hrecs hhave hfits hnone hdistinct
    exact exec_followerWriteVerified_words hinv hrole hsync hheals hrecs hhave hfits hnone hdistinct
  case record =>
    intro n hrole hsync hheals hrecs hflights hwords hlen htype hseq hblock hseqRoom hposRoom hheld hend hnew
    exact exec_followerWriteVerified_record hrole hsync hheals hrecs hflights hwords hlen htype hseq hblock hseqRoom hposRoom hheld hend hnew
  case copy =>
    intro r h hrole hsync hrun hlive hpos hgot hroom hring at_ isCell
    exact ⟨exec_copy_words hinv h hrole hsync hrun hlive hpos hroom hring, exec_copy_cell hinv h hrole hsync hrun hlive hpos hroom hring⟩
  case noHeal => exact fun h hnot => (exec_healData_ordered h).trans (congrArg _ (if_neg (by rw [hnot]; exact Bool.false_ne_true)))
  case heal =>
    intro g h hok hheals hoff
    exact ⟨exec_healData_early h hok hheals hoff, exec_healData_due hinv h hok hheals hoff⟩

end Sys2Proof.Machine
end
